-- ==== Sys2Proof/Word.lean ====
section
/-! DEFINITION. The word types of the Rhathal Q7 and the plain data that events carry from outside the chip. -/

namespace Sys2Proof

/-- A register's value (spec 02, R37). -/
abbrev Word := BitVec 32
/-- A byte of memory (spec 08, R196). -/
abbrev Byte := BitVec 8
/-- An instruction word or block header (spec 03, R55). -/
abbrev Code := BitVec 64
/-- A global virtual address (spec 02, R46). -/
abbrev VA := BitVec 56

/-- The guard of an instruction word: GN and GP (spec 03, R60). -/
structure Guard where
  neg : Bool
  p   : BitVec 4
  deriving DecidableEq, Repr, Inhabited

/-- The guard of an unguarded instruction (spec 01, R20). -/
abbrev Guard.always : Guard := ⟨false, 15⟩

/-- Layout V3, bits [47:0] (spec 03, R62). -/
structure V3 where
  d : BitVec 8
  a : BitVec 8
  b : BitVec 8
  c : BitVec 8
  slot : BitVec 3
  rs : BitVec 3
  ty : BitVec 2
  cl : BitVec 8
  deriving DecidableEq, Repr, Inhabited

/-- Layout V3S (spec 03, R62). -/
structure V3S where
  d : BitVec 8
  a : BitVec 8
  b : BitVec 8
  s : BitVec 9
  rsv : BitVec 5
  ty : BitVec 2
  cl : BitVec 8
  deriving DecidableEq, Repr, Inhabited

/-- Layout VI (spec 03, R63). -/
structure VI where
  d : BitVec 8
  a : BitVec 8
  imm : BitVec 32
  deriving DecidableEq, Repr, Inhabited

/-- Layout S (spec 03, R64). -/
structure SR where
  sd : BitVec 9
  sa : BitVec 9
  sb : BitVec 9
  sc : BitVec 9
  rsv : BitVec 2
  ty : BitVec 2
  cl : BitVec 8
  deriving DecidableEq, Repr, Inhabited

/-- Layout SI (spec 03, R64). -/
structure SI where
  sd : BitVec 9
  sa : BitVec 9
  imm : BitVec 30
  deriving DecidableEq, Repr, Inhabited

/-- Layout SK (spec 03, R64). -/
structure SK where
  sd : BitVec 9
  rsv : BitVec 7
  imm : BitVec 32
  deriving DecidableEq, Repr, Inhabited

/-- Layout M (spec 03, R65). -/
structure FM where
  d : BitVec 8
  base : BitVec 9
  idx : BitVec 8
  disp : BitVec 13
  sz : BitVec 2
  cnt : BitVec 2
  sx : BitVec 1
  ord : BitVec 2
  scope : BitVec 3
  deriving DecidableEq, Repr, Inhabited

/-- Layout MA (spec 03, R65). -/
structure FMA where
  d : BitVec 8
  base : BitVec 9
  idx : BitVec 8
  b : BitVec 8
  c : BitVec 8
  ord : BitVec 2
  scope : BitVec 3
  ty : BitVec 2
  deriving DecidableEq, Repr, Inhabited

/-- Layout MC (spec 03, R65). -/
structure FMC where
  f1 : BitVec 9
  f2 : BitVec 9
  f3 : BitVec 9
  f4 : BitVec 9
  cl : BitVec 12
  deriving DecidableEq, Repr, Inhabited

/-- Layout T (spec 03, R66). -/
structure FT where
  d : BitVec 8
  a : BitVec 8
  b : BitVec 8
  c : BitVec 8
  slot : BitVec 3
  rs : BitVec 3
  rsv : BitVec 2
  mode : BitVec 2
  cl : BitVec 6
  deriving DecidableEq, Repr, Inhabited

/-- Layout TM (spec 03, R66). -/
structure FTM where
  d : BitVec 8
  base : BitVec 9
  idx : BitVec 8
  disp : BitVec 13
  space : BitVec 2
  cl : BitVec 8
  deriving DecidableEq, Repr, Inhabited

/-- Layout C (spec 03, R67). -/
structure FC where
  sa : BitVec 9
  rsv : BitVec 7
  imm : BitVec 32
  deriving DecidableEq, Repr, Inhabited

/-- Layout Y (spec 03, R67). -/
structure FY where
  sa : BitVec 9
  sb : BitVec 9
  sc : BitVec 9
  rsv : BitVec 5
  prn : BitVec 16
  deriving DecidableEq, Repr, Inhabited

/-- The operations of `redux`, FN 0 to 8 of opcode 0x11 (spec 03, R71). -/
inductive ReduxOp where
  | add | min | max | and | or | xor | fadd | fmin | fmax
  deriving DecidableEq, Repr, Inhabited

/-- The operations of `atom` and `atoms`, FN 0 to 8 (spec 08, R205). -/
inductive AtomOp where
  | add | sub | min | max | and | or | xor | exch | cas
  deriving DecidableEq, Repr, Inhabited

/-- The scopes of spec 07, R163, narrowest first. -/
inductive Scope where
  | wg | gang | die | pkg | pod | sys
  deriving DecidableEq, Repr, Inhabited

/-- What a fabric packet asks of its destination (spec 09, R230 to R234, R238). -/
inductive PacketKind where
  /-- answered by the whole line -/
  | read
  /-- a line under its byte enables -/
  | write (data : List Byte) (enable : BitVec 128)
  | atomic (op : AtomOp) (ty : BitVec 2) (b c : Word)
  /-- a bulk line: its global virtual line address, the name of the sender's operation, and whether it is the last for this chip -/
  | bulkLine (va : BitVec 56) (data : List Byte) (enable : BitVec 128) (count : Bool) (handle : Word) (group : Option Nat) (op : Nat)
      (last : Bool)
  deriving DecidableEq, Repr, Inhabited

/-- A fabric packet at a destination IOD (spec 09, R231, R232); `addr` is a world-physical address. -/
structure Packet where
  world : Nat
  src   : Nat
  seq   : Nat
  /-- sequence numbers it stands for: more than one where packets were merged (R233) -/
  covers : Nat
  addr  : BitVec 52
  release : Bool
  kind  : PacketKind
  deriving DecidableEq, Repr, Inhabited

/-- A message header at the receive engine, with the payload its sender holds (spec 09, R247 to R250, R256). -/
structure Message where
  world : Nat
  src   : BitVec 13
  tag   : Word
  size  : Nat
  op    : Option Nat
  data  : List Byte
  deriving DecidableEq, Repr, Inhabited

/-- A scale-out frame (spec 09, R259). -/
structure Frame where
  /-- the Ethernet port it comes in at -/
  eth  : Nat
  addr : Nat
  port : Nat
  seq  : Nat
  msg  : Message
  deriving DecidableEq, Repr, Inhabited

/-- One member's line of a reduction (spec 09, R239). -/
structure RedPart where
  rank : Nat
  op   : BitVec 4
  data : List Byte
  deriving DecidableEq, Repr, Inhabited

/-- The evidence two chips exchange at admission (spec 14, R333). -/
structure PeerEvidence where
  chip : Nat
  root : Nat
  chainOk : Bool
  transcriptOk : Bool
  versions : List Nat
  deriving DecidableEq, Repr, Inhabited

/-- The target of a pre-emption request (spec 10, R286). -/
inductive Target where
  | gang (id : Nat)
  | launch (id : Nat)
  | die (d : Nat)
  deriving DecidableEq, Repr, Inhabited

/-- The edge a failed tag was met on (spec 14, R331). -/
inductive Edge where
  | ucie (fromDie : Nat)
  | qormon (link : Nat)
  deriving DecidableEq, Repr, Inhabited

/-- The events a die reports to the checker (spec 15, R343). -/
inductive ErrorKind where
  | corrected
  | gangState (gang : Nat)
  | line (addr : Nat)
  | subArray (gang : Nat)
  deriving DecidableEq, Repr, Inhabited

/-- Registers a plain register write reaches (spec 18, R370, R377; 14 R333). -/
inductive PlainReg where
  | grtidx | gcgidx | gprsel
  | apbase (w : Nat)
  | msix (w n : Nat)
  | acl (w prio n : Nat)
  /-- with the remote address; an IPv4 address a is ::ffff:a -/
  | endpoint (n : Nat) (addr : BitVec 128)
  | grant (w : Nat)
  deriving DecidableEq, Repr, Inhabited

/-- A collective group entry (spec 09, R237). -/
structure CollGroup where
  valid : Bool
  world : Nat
  reduction : Bool
  chips : List Nat
  rank : Nat
  /-- each member's leaf switch, as the switch state written with the entry has it (spec 09, R237, R239) -/
  leaves : List Nat
  deriving DecidableEq, Repr, Inhabited

/-- Measurements the checker reports (spec 15, R361). -/
structure Measurement where
  rom : Nat
  checker : Nat
  cp : Nat
  garrun : Nat
  iod : Nat
  deriving DecidableEq, Repr, Inhabited

/-- The checks of a warm start (spec 15, R360). -/
structure WarmChecks where
  training : Bool
  keys : Bool
  marker : Bool
  deriving DecidableEq, Repr, Inhabited

/-- Outcomes of the boot steps of a cold start (spec 18, R376; 15 R359). -/
structure BootReport where
  firmwareOk : Bool
  selfTestOk : Bool
  stacksOk   : BitVec 8
  cpOk       : Bool
  deriving DecidableEq, Repr, Inhabited

/-- A set of stacks that can reach one another, and what else the set holds (spec 15, R358). -/
structure Split where
  dies : BitVec 8
  iod  : Bool
  audit : BitVec 8
  deriving DecidableEq, Repr, Inhabited

/-- Zero-extension to a word from a smaller field; the fields of the encoding widen this way (spec 01, R21). -/
abbrev zw {n : Nat} (x : BitVec n) : Word := x.setWidth 32

end Sys2Proof
end

