-- ==== Sys2Proof/Syntax.lean ====
section
/-! DEFINITION. The steps of the Rhathal Q7: one constructor for each row of the operation table.
An instruction carries its guard and the raw fields of its layout (spec 03, R60 to R67), so that no bit of a word is lost;
an event carries what comes from outside the machine, or the name of the pending operation it settles. -/

namespace Sys2Proof

/-- An error reply to an access, and whether its code is PROT (spec 08, R193; 09, R230, R234). -/
structure ErrorReply where
  flight : Nat
  prot   : Bool
  deriving DecidableEq, Repr

/-- An operation or a line, and the code of the error reply another chip gave it (spec 09, R230, R234). -/
structure Answered where
  it   : Nat
  code : Option Nat
  deriving DecidableEq, Repr

/-- A collective group and which of its reductions (spec 09, R239). -/
structure GroupTurn where
  group : Nat
  turn  : Nat
  deriving DecidableEq, Repr

/-- The function a host's register write goes through, and the world whose register it is (spec 14, R313; 18, R370). -/
structure Requested where
  fn    : Nat
  world : Nat
  deriving DecidableEq, Repr

/-- A posted host write, and the base die that has written its part of it (spec 07, R191). -/
structure WriteRoute where
  write : Nat
  die   : Nat
  deriving DecidableEq, Repr

/-- The operations and events of the machine (spec 95). -/
inductive Instr where
  /-- `ADD` (R109): Per-lane 32-bit add of two vector registers, wrapping or saturating. -/
  | add (g : Guard) (f : V3)
  /-- `SUB` (R109): Per-lane 32-bit subtract of two vector registers, wrapping or saturating. -/
  | sub (g : Guard) (f : V3)
  /-- `MUL` (R109): Per-lane exact product, wrapped or saturated to 32 bits. -/
  | mul (g : Guard) (f : V3)
  /-- `MULHI` (R109): Per-lane high 32 bits of the exact 64-bit product. -/
  | mulhi (g : Guard) (f : V3)
  /-- `MAD` (R109): Per-lane a times b plus c, wrapped or saturated. -/
  | mad (g : Guard) (f : V3)
  /-- `MIN` (R109): Per-lane smaller of two registers compared as the type. -/
  | min (g : Guard) (f : V3)
  /-- `MAX` (R109): Per-lane larger of two registers compared as the type. -/
  | max (g : Guard) (f : V3)
  /-- `ABS` (R109): Per-lane absolute value of a signed 32-bit register. -/
  | abs (g : Guard) (f : V3)
  /-- `NEG` (R109): Per-lane negation of a signed 32-bit register. -/
  | neg (g : Guard) (f : V3)
  /-- `ADDC` (R109): Per-lane add with carry-in and carry-out predicates. -/
  | addc (g : Guard) (f : V3)
  /-- `SUBB` (R109): Per-lane subtract with borrow-in and borrow-out predicates. -/
  | subb (g : Guard) (f : V3)
  /-- `LEA` (R109): Per-lane a plus b shifted left by a small immediate. -/
  | lea (g : Guard) (f : V3)
  /-- `AND` (R109): Per-lane bitwise and of two registers. -/
  | and (g : Guard) (f : V3)
  /-- `OR` (R109): Per-lane bitwise or of two registers. -/
  | or (g : Guard) (f : V3)
  /-- `XOR` (R109): Per-lane bitwise exclusive-or of two registers. -/
  | xor (g : Guard) (f : V3)
  /-- `NOT` (R109): Per-lane bitwise complement. -/
  | not (g : Guard) (f : V3)
  /-- `SHL` (R109): Per-lane logical shift left by a register amount. -/
  | shl (g : Guard) (f : V3)
  /-- `SHR` (R109): Per-lane logical shift right by a register amount. -/
  | shr (g : Guard) (f : V3)
  /-- `SAR` (R109): Per-lane arithmetic shift right by a register amount. -/
  | sar (g : Guard) (f : V3)
  /-- `ROT` (R109): Per-lane rotate left by the low five bits of b. -/
  | rot (g : Guard) (f : V3)
  /-- `POPC` (R109): Per-lane count of set bits. -/
  | popc (g : Guard) (f : V3)
  /-- `CLZ` (R109): Per-lane count of leading zero bits. -/
  | clz (g : Guard) (f : V3)
  /-- `CTZ` (R109): Per-lane count of trailing zero bits. -/
  | ctz (g : Guard) (f : V3)
  /-- `BREV` (R109): Per-lane bit reversal. -/
  | brev (g : Guard) (f : V3)
  /-- `BFE` (R109): Per-lane bit-field extract, sign- or zero-extended. -/
  | bfe (g : Guard) (f : V3)
  /-- `BFI` (R109): Per-lane bit-field insert under a control word. -/
  | bfi (g : Guard) (f : V3)
  /-- `SEL` (R109): Per-lane select of a or b by a predicate. -/
  | sel (g : Guard) (f : V3)
  /-- `CMP` (R109): Per-lane integer comparison writing a predicate. -/
  | cmp (g : Guard) (f : V3)
  /-- `ADD_IMM` (R110): Per-lane add of a 32-bit immediate, wrapping. -/
  | addImm (g : Guard) (f : VI)
  /-- `SUB_IMM` (R110): Per-lane subtract of an immediate, wrapping. -/
  | subImm (g : Guard) (f : VI)
  /-- `MUL_IMM` (R110): Per-lane multiply by an immediate, wrapping. -/
  | mulImm (g : Guard) (f : VI)
  /-- `MIN_IMM` (R110): Per-lane signed or unsigned minimum with an immediate. -/
  | minImm (g : Guard) (f : VI) (u : Bool)
  /-- `MAX_IMM` (R110): Per-lane signed or unsigned maximum with an immediate. -/
  | maxImm (g : Guard) (f : VI) (u : Bool)
  /-- `AND_IMM` (R110): Per-lane bitwise and with an immediate. -/
  | andImm (g : Guard) (f : VI)
  /-- `OR_IMM` (R110): Per-lane bitwise or with an immediate. -/
  | orImm (g : Guard) (f : VI)
  /-- `XOR_IMM` (R110): Per-lane bitwise exclusive-or with an immediate. -/
  | xorImm (g : Guard) (f : VI)
  /-- `SHL_IMM` (R110): Per-lane shift left by an immediate. -/
  | shlImm (g : Guard) (f : VI)
  /-- `SHR_IMM` (R110): Per-lane logical shift right by an immediate. -/
  | shrImm (g : Guard) (f : VI)
  /-- `SAR_IMM` (R110): Per-lane arithmetic shift right by an immediate. -/
  | sarImm (g : Guard) (f : VI)
  /-- `ROT_IMM` (R110): Per-lane rotate left by an immediate. -/
  | rotImm (g : Guard) (f : VI)
  /-- `CMP_IMM` (R110): Per-lane comparison with an immediate writing a predicate. -/
  | cmpImm (g : Guard) (f : VI) (cond : BitVec 3) (u : Bool)
  /-- `MOV` (R111): Per-lane bit-for-bit register copy. -/
  | mov (g : Guard) (f : V3)
  /-- `MOVI` (R111): Per-lane load of a 32-bit immediate. -/
  | movi (g : Guard) (f : VI)
  /-- `MOVS` (R111): Copies a scalar register into every active lane. -/
  | movs (g : Guard) (f : V3S)
  /-- `FADD` (R113): Per-lane FP32 add, rounded once. -/
  | fadd (g : Guard) (f : V3)
  /-- `FSUB` (R113): Per-lane FP32 subtract, rounded once. -/
  | fsub (g : Guard) (f : V3)
  /-- `FMUL` (R113): Per-lane FP32 multiply, rounded once. -/
  | fmul (g : Guard) (f : V3)
  /-- `FMA` (R113): Per-lane fused multiply-add, rounded once. -/
  | fma (g : Guard) (f : V3)
  /-- `FMIN` (R113): Per-lane FP32 minimum. -/
  | fmin (g : Guard) (f : V3)
  /-- `FMAX` (R113): Per-lane FP32 maximum. -/
  | fmax (g : Guard) (f : V3)
  /-- `FCMP` (R113): Per-lane FP32 comparison writing a predicate. -/
  | fcmp (g : Guard) (f : V3)
  /-- `FCLASS` (R113): Per-lane FP32 classification mask. -/
  | fclass (g : Guard) (f : V3)
  /-- `FRND` (R113): Per-lane rounding to an integral FP32 value. -/
  | frnd (g : Guard) (f : V3)
  /-- `FRCP` (R113): Per-lane correctly rounded reciprocal. -/
  | frcp (g : Guard) (f : V3)
  /-- `FRSQ` (R97): Per-lane approximate reciprocal square root. -/
  | frsq (g : Guard) (f : V3)
  /-- `FSQRT` (R113): Per-lane correctly rounded square root. -/
  | fsqrt (g : Guard) (f : V3)
  /-- `FEX2` (R97): Per-lane approximate power of two. -/
  | fex2 (g : Guard) (f : V3)
  /-- `FLG2` (R97): Per-lane approximate base-2 logarithm. -/
  | flg2 (g : Guard) (f : V3)
  /-- `FSIN` (R97): Per-lane approximate sine in radians. -/
  | fsin (g : Guard) (f : V3)
  /-- `FCOS` (R97): Per-lane approximate cosine in radians. -/
  | fcos (g : Guard) (f : V3)
  /-- `FADD_IMM` (R114): Per-lane FP32 add of an immediate, RNE. -/
  | faddImm (g : Guard) (f : VI)
  /-- `FSUB_IMM` (R114): Per-lane FP32 subtract of an immediate, RNE. -/
  | fsubImm (g : Guard) (f : VI)
  /-- `FMUL_IMM` (R114): Per-lane FP32 multiply by an immediate, RNE. -/
  | fmulImm (g : Guard) (f : VI)
  /-- `FMIN_IMM` (R114): Per-lane FP32 minimum with an immediate. -/
  | fminImm (g : Guard) (f : VI)
  /-- `FMAX_IMM` (R114): Per-lane FP32 maximum with an immediate. -/
  | fmaxImm (g : Guard) (f : VI)
  /-- `CVT` (R116): Per-lane conversion of one element between formats. -/
  | cvt (g : Guard) (f : V3)
  /-- `PACK` (R117): Per-lane conversion of two values into elements of a packed unit. -/
  | pack (g : Guard) (f : V3)
  /-- `UNPACK` (R118): Per-lane extraction of one packed element to 32 bits. -/
  | unpack (g : Guard) (f : V3)
  /-- `SCL` (R119): Per-lane multiply or divide of FP32 by an E8M2 scale. -/
  | scl (g : Guard) (f : V3)
  /-- `SHFL_IDX` (R128): Cross-lane shuffle from an indexed source lane. -/
  | shflIdx (g : Guard) (f : V3S)
  /-- `SHFL_UP` (R128): Cross-lane shuffle from a lower lane with fill. -/
  | shflUp (g : Guard) (f : V3S)
  /-- `SHFL_DOWN` (R128): Cross-lane shuffle from a higher lane with fill. -/
  | shflDown (g : Guard) (f : V3S)
  /-- `SHFL_XOR` (R128): Cross-lane butterfly shuffle with fill. -/
  | shflXor (g : Guard) (f : V3S)
  /-- `VOTE_ALL` (R128): AND of a predicate over contributing lanes. -/
  | voteAll (g : Guard) (f : V3S)
  /-- `VOTE_ANY` (R128): OR of a predicate over contributing lanes. -/
  | voteAny (g : Guard) (f : V3S)
  /-- `VOTE_BALLOT` (R128): Mask of contributing lanes whose predicate is set. -/
  | voteBallot (g : Guard) (f : V3S)
  /-- `MATCH_ANY` (R128): Mask of contributing lanes holding the same value as this lane. -/
  | matchAny (g : Guard) (f : V3S)
  /-- `MATCH_ALL` (R128): Mask of contributing lanes if all their values are equal. -/
  | matchAll (g : Guard) (f : V3S)
  /-- `BCAST` (R128): Broadcast of one source lane's value. -/
  | bcast (g : Guard) (f : V3S)
  /-- `GSCAN` (R128): Inclusive or exclusive prefix sum across lanes. -/
  | gscan (g : Guard) (f : V3S)
  /-- `MINIDX` (R129): Minimum value over contributing lanes with its lane index. -/
  | minidx (g : Guard) (f : V3S)
  /-- `MAXIDX` (R129): Maximum value over contributing lanes with its lane index. -/
  | maxidx (g : Guard) (f : V3S)
  /-- `REDUX` (R130): Reduction of contributing lanes by the selected operation. -/
  | redux (g : Guard) (f : V3S) (op : ReduxOp)
  /-- `SADD` (R121): Scalar add once per issue group. -/
  | sadd (g : Guard) (f : SR)
  /-- `SSUB` (R121): Scalar subtract. -/
  | ssub (g : Guard) (f : SR)
  /-- `SMUL` (R121): Scalar multiply, low 32 bits. -/
  | smul (g : Guard) (f : SR)
  /-- `SAND` (R121): Scalar bitwise and. -/
  | sand (g : Guard) (f : SR)
  /-- `SOR` (R121): Scalar bitwise or. -/
  | sor (g : Guard) (f : SR)
  /-- `SXOR` (R121): Scalar bitwise exclusive-or. -/
  | sxor (g : Guard) (f : SR)
  /-- `SSHL` (R121): Scalar shift left. -/
  | sshl (g : Guard) (f : SR)
  /-- `SSHR` (R121): Scalar logical or arithmetic shift right. -/
  | sshr (g : Guard) (f : SR)
  /-- `SMOV` (R121): Scalar register copy. -/
  | smov (g : Guard) (f : SR)
  /-- `SCMP` (R121): Scalar comparison writing one predicate value in every thread. -/
  | scmp (g : Guard) (f : SR)
  /-- `SADD_IMM` (R121): Scalar add of a sign-extended immediate. -/
  | saddImm (g : Guard) (f : SI)
  /-- `SSUB_IMM` (R121): Scalar subtract of an immediate. -/
  | ssubImm (g : Guard) (f : SI)
  /-- `SMUL_IMM` (R121): Scalar multiply by an immediate. -/
  | smulImm (g : Guard) (f : SI)
  /-- `SAND_IMM` (R121): Scalar and with an immediate. -/
  | sandImm (g : Guard) (f : SI)
  /-- `SOR_IMM` (R121): Scalar or with an immediate. -/
  | sorImm (g : Guard) (f : SI)
  /-- `SXOR_IMM` (R121): Scalar exclusive-or with an immediate. -/
  | sxorImm (g : Guard) (f : SI)
  /-- `SSHL_IMM` (R122): Scalar shift left by an immediate. -/
  | sshlImm (g : Guard) (f : SI)
  /-- `SSHR_IMM` (R122): Scalar logical shift right by an immediate. -/
  | sshrImm (g : Guard) (f : SI)
  /-- `SCMP_IMM` (R122): Scalar comparison with a 26-bit immediate. -/
  | scmpImm (g : Guard) (f : SI)
  /-- `SMOV_K` (R121): Scalar load of a full 32-bit immediate. -/
  | smovK (g : Guard) (f : SK)
  /-- `RDSR_SCALAR` (R123): Reads a special register into a scalar register. -/
  | rdsrScalar (g : Guard) (f : SR)
  /-- `RDSR_VECTOR` (R123): Reads a special register into a vector register per lane. -/
  | rdsrVector (g : Guard) (f : SR)
  /-- `SLD` (R124): Reads a word of the kernel's constant pool into a scalar register. -/
  | sld (g : Guard) (f : SI)
  /-- `LD` (R196): Per-lane global load of one to eight registers. -/
  | ld (g : Guard) (f : FM)
  /-- `LDP` (R197): Per-lane probe load that reports residency in a predicate. -/
  | ldp (g : Guard) (f : FM)
  /-- `LDS` (R200): Per-lane scratchpad load. -/
  | lds (g : Guard) (f : FM)
  /-- `LDFRAG` (R203): Per-lane fill of matrix fragments from a layout-word tile. -/
  | ldfrag (g : Guard) (f : FM)
  /-- `ST` (R196): Per-lane global store. -/
  | st (g : Guard) (f : FM)
  /-- `STS` (R200): Per-lane scratchpad store. -/
  | sts (g : Guard) (f : FM)
  /-- `ATOM` (R206): Per-lane read-modify-write at the global word's home. -/
  | atom (g : Guard) (f : FMA) (op : AtomOp)
  /-- `ATOMS` (R206): Per-lane read-modify-write at a scratchpad bank ALU. -/
  | atoms (g : Guard) (f : FMA) (op : AtomOp)
  /-- `PREF` (R199): Prefetches each lane's line into L1 and LLC. -/
  | pref (g : Guard) (f : FM)
  /-- `PGREQ` (R198): Requests residency of non-resident pages without waiting. -/
  | pgreq (g : Guard) (f : FM)
  /-- `HFLUSH` (R210): Writes dirty host-memory lines of a range back to the host. -/
  | hflush (g : Guard) (f : FMC)
  /-- `HINV` (R210): Writes back and drops host-memory lines of a range. -/
  | hinv (g : Guard) (f : FMC)
  /-- `CWB` (R210): Writes dirty device lines of a range to DRAM. -/
  | cwb (g : Guard) (f : FMC)
  /-- `FENCE` (R208): Acquire, release or acquire-release fence at a scope. -/
  | fence (g : Guard) (f : FC)
  /-- `CPY` (R214): Hands a linear copy to the core's copy engine. -/
  | cpy (g : Guard) (f : FMC)
  /-- `CPY_LW` (R215): Hands a 32 by 32 tile copy through a layout word to the copy engine. -/
  | cpyLw (g : Guard) (f : FMC)
  /-- `CPY_RING` (R222): Issues the copy of the next sequence into a stage-ring slot. -/
  | cpyRing (g : Guard) (f : FMC)
  /-- `CPYG` (R216): Gathers indexed rows from global memory into scratchpad. -/
  | cpyg (g : Guard) (f : FMC)
  /-- `CPYB` (R218): Scatters token rows into bins with bump counters. -/
  | cpyb (g : Guard) (f : FMC)
  /-- `BULK` (R241): Issues a unicast, multicast or reduction bulk transfer. -/
  | bulk (g : Guard) (f : FMC)
  /-- `STWAIT` (R223): Holds the group until a ring sequence has landed. -/
  | stwait (g : Guard) (f : FMC)
  /-- `STREL` (R224): Arrives on a ring's empty barrier for a sequence. -/
  | strel (g : Guard) (f : FMC)
  /-- `HAND` (R226): Hands pages to a new owner tag and stores a flag. -/
  | hand (g : Guard) (f : FMC)
  /-- `TAKE` (R227): Acquire load of a handover flag. -/
  | take (g : Guard) (f : FMC)
  /-- `SEND` (R252): Sends a tagged message to a chip or endpoint. -/
  | send (g : Guard) (f : FMC)
  /-- `POST` (R255): Posts a receive descriptor to the receive engine. -/
  | post (g : Guard) (f : FMC)
  /-- `RPROBE` (R257): Reads the status of a receive without waiting. -/
  | rprobe (g : Guard) (f : FMC)
  /-- `RWAIT` (R257): Waits for a receive to complete or cancel and reads its status. -/
  | rwait (g : Guard) (f : FMC)
  /-- `RCANCEL` (R257): Cancels a receive still on the posted list. -/
  | rcancel (g : Guard) (f : FMC)
  /-- `ACSET` (R245): Resets an arrival counter and sets its target, optionally binding a group. -/
  | acset (g : Guard) (f : FMC)
  /-- `ACWAIT` (R246): Holds threads until an arrival counter reaches its target. -/
  | acwait (g : Guard) (f : FMC)
  /-- `MMA` (R154): Signs a matrix round with A and B fragments. -/
  | mma (g : Guard) (f : FT)
  /-- `MMAC` (R153): Signs a matrix round whose A comes down-converted from a tile. -/
  | mmac (g : Guard) (f : FT)
  /-- `MPROJ` (R160): Forms the witness projection of a result tile. -/
  | mproj (g : Guard) (f : FT)
  /-- `ACCZ` (R155): Clears one or four accumulator tiles. -/
  | accz (g : Guard) (f : FT)
  /-- `CVSET` (R150): Declares the signing set of a convergence register. -/
  | cvset (g : Guard) (f : FT)
  /-- `ACCLD` (R157): Loads a tile from memory into the accumulator store. -/
  | accld (g : Guard) (f : FTM)
  /-- `ACCST` (R157): Stores a tile from the accumulator store to memory. -/
  | accst (g : Guard) (f : FTM)
  /-- `WITB` (R352): Opens a witness record slot with its kind and shape. -/
  | witb (g : Guard) (f : FMC)
  /-- `WITP` (R352): Adds a part of a given role to an open witness record. -/
  | witp (g : Guard) (f : FMC)
  /-- `WITE` (R352): Closes a witness record and submits it to the checker. -/
  | wite (g : Guard) (f : FMC)
  /-- `GVER` (R352): Sets the version sub-index of each thread. -/
  | gver (g : Guard) (f : FMC)
  /-- `BR` (R292): Conditional branch to a block header. -/
  | br (g : Guard) (f : FC)
  /-- `BRC` (R292): Branch to a register-computed target. -/
  | brc (g : Guard) (f : FC)
  /-- `CALL` (R293): Pushes a return address and branches. -/
  | call (g : Guard) (f : FC)
  /-- `RET` (R293): Pops the thread's return address and continues there. -/
  | ret (g : Guard) (f : FC)
  /-- `REFORM` (R292): Files the thread into the bin of the next word. -/
  | reform (g : Guard) (f : FC)
  /-- `EXIT` (R283): Ends the thread. -/
  | exit (g : Guard) (f : FC)
  /-- `YIELD` (R292): Restamps the issue group. -/
  | yield (g : Guard) (f : FC)
  /-- `NOP` (R292): No effect. -/
  | nop (g : Guard) (f : FC)
  /-- `TRAP` (R292): Raises USER_TRAP with a user code. -/
  | trap (g : Guard) (f : FC)
  /-- `WAIT` (R294): Holds the thread until enabled outstanding-operation counters fall to counts. -/
  | wait (g : Guard) (f : FC)
  /-- `BAR` (R280): Arrives at a barrier, or settles an owed mark, and waits for the phase. -/
  | bar (g : Guard) (f : FC)
  /-- `BARX` (R281): Arrives without waiting and posts a byte expectation. -/
  | barx (g : Guard) (f : FC)
  /-- `LAUNCH` (R299): Submits a launch packet to a queue of the world. -/
  | launch (g : Guard) (f : FMC)
  /-- `CANCEL` (R300): Cancels a gang or an instance of the work hierarchy. -/
  | cancel (g : Guard) (f : FMC)
  /-- `HCWAIT` (R301): Waits on a completion counter and reads its status. -/
  | hcwait (g : Guard) (f : FMC)
  /-- `RDPR` (R337): Reads a privileged register. -/
  | rdpr (g : Guard) (f : FY)
  /-- `WRPR` (R337): Writes a privileged register. -/
  | wrpr (g : Guard) (f : FY)
  /-- `TLBINV` (R338): Removes TLB entries of a world by range, world or all. -/
  | tlbinv (g : Guard) (f : FY)
  /-- `STTINV` (R339): Releases the scratchpad translation entries of a workgroup slot. -/
  | sttinv (g : Guard) (f : FY)
  /-- `FINJ` (R356): Injects or arms a test fault. -/
  | finj (g : Guard) (f : FY)
  /-- `HALT` (R340): Halts and saves a gang, a world or a die. -/
  | halt (g : Guard) (f : FY)
  /-- event `UNASSIGNED_ENCODING` (R71): A fetched word whose opcode or sub-function is unassigned, or a header word standing among a block's instructions, traps ILLEGAL. -/
  | unassignedEncoding (w : Code)
  /-- event `LOAD_RETURN` (R196): A load's value arrives, is written and the ld count falls. -/
  | loadReturn (fl : Nat) (elem : Option Nat)
  /-- event `STORE_PERFORMED` (R164): A store, atomic acknowledgement or maintenance completion lowers st. -/
  | storePerformed (fl : Nat) (home : Bool) (elem : Option Nat)
  /-- event `ATOMIC_REPLY` (R206): The old value of a returning atomic arrives in its register. -/
  | atomicReply (fl : Nat)
  /-- event `POISONED_REPLY` (R193): A poisoned error reply arrives and marks a pending POISON. -/
  | poisonedReply (r : ErrorReply)
  /-- event `PARKED_THREAD_REFILE` (R32): A resolved fault files the parked thread into the faulting instruction's bin. -/
  | parkedThreadRefile (wg tid : Nat)
  /-- event `BIN_DRAW` (R276): The partition draws a fresh issue group from a full or drawable bin. -/
  | binDraw (bin : Nat)
  /-- event `BIN_AGED` (R29): A bin's oldest thread reaches 128 clocks and the bin becomes drawable. -/
  | binAged (bin : Nat)
  /-- event `GROUP_DISSOLVE` (R277): After 128 clocks without a free group record the oldest group is dissolved. -/
  | groupDissolve (core part : Nat)
  /-- event `MATRIX_STEP_PERFORMED` (R139): An issued matrix operation writes its tiles and signers' tl falls. -/
  | matrixStepPerformed (op : Nat)
  /-- event `TILE_TRANSFER_PERFORMED` (R157): An accld, accst, accz or mproj completes and tl falls. -/
  | tileTransferPerformed (op : Nat)
  /-- event `SOURCE_RANGE_RELEASED` (R185): An engine has read its last source byte and its source lock is released. -/
  | sourceRangeReleased (op : Nat)
  /-- event `COPY_COMPLETE` (R214): A copy's completion event fires, releasing its destination and lowering cp. -/
  | copyComplete (op : Nat)
  /-- event `RING_SEQUENCE_LANDED` (R222): A ring sequence lands in order and arrives on the full barrier. -/
  | ringSequenceLanded (op : Nat)
  /-- event `ENGINE_PAGE_RESIDENT` (R212): A waiting engine operation continues once its page is resident. -/
  | enginePageResident (op : Nat)
  /-- event `ENGINE_STOP` (R212): An engine operation stops on PROT, OWNER or POISON and halts its gang. -/
  | engineStop (op : Answered)
  /-- event `LEAVE_GRANT` (R285): The die's governor grants power leave to the oldest request. -/
  | leaveGrant (die : Nat)
  /-- event `POWER_CREDIT_REFILL` (R374): Every 1,024 clocks the governor adds credits to its bucket. -/
  | powerCreditRefill (die : Nat)
  /-- event `LINE_STALENESS_DROP` (R170): An L1 drops a line homed elsewhere 4,096 clocks after filling it. -/
  | lineStalenessDrop (line : Nat)
  /-- event `BULK_LINE_ARRIVAL` (R242): A bulk line is performed at a destination and counted at its arrival counter. -/
  | bulkLineArrival (line : Answered)
  /-- event `BULK_COMPLETE` (R242): Every destination has acknowledged and the issuer's cp falls. -/
  | bulkComplete (op : Nat)
  /-- event `REDUCTION_COMBINE` (R239): A switch combines the members' lines of a reduction in fixed order. -/
  | reductionCombine (group : GroupTurn) (pos : Nat) (parts : List RedPart)
  /-- event `FABRIC_PACKET_ARRIVAL` (R234): A fabric packet is admitted or refused at the destination IOD. -/
  | fabricPacketArrival (p : Packet)
  /-- event `WRITE_MERGE` (R233): A switch merges two queued write packets of one source and line. -/
  | writeMerge (pos : Nat)
  /-- event `FLIT_REPLAY` (R236): A flit failing CRC or unacknowledged is resent from the replay buffer. -/
  | flitReplay (link : Nat)
  /-- event `LINK_TAKEN_DOWN` (R236): A link failing replay 16 times is taken down and traffic fails over. -/
  | linkTakenDown (link : Nat)
  /-- event `TAG_FAILURE` (R331): A flit group fails its tag, is dropped and replayed, and is reported. -/
  | tagFailure (edge : Edge)
  /-- event `LINK_REKEY` (R331): A link switches key slots before its counter reaches 2^48. -/
  | linkRekey (link : Nat)
  /-- event `PEER_ADMISSION` (R333): Two chips authenticate on link bring-up and derive link keys. -/
  | peerAdmission (link : Nat) (ev : PeerEvidence)
  /-- event `MESSAGE_HEADER_ARRIVAL` (R248): A message header is matched against posted receives or queued. -/
  | messageHeaderArrival (m : Message)
  /-- event `MESSAGE_RESEND` (R250): A refused header is sent again no sooner than 1,024 clocks later. -/
  | messageResend (op : Nat)
  /-- event `RECEIVE_LANDING_COMPLETE` (R256): A matched payload has landed, is counted and the receive completes. -/
  | receiveLandingComplete (world rcv : Nat)
  /-- event `LANDING_ABORTED` (R256): A landing whose payload becomes unreadable ends with the bytes written. -/
  | landingAborted (world rcv : Nat) (landed : List Nat)
  /-- event `SEND_COMPLETE` (R252): The receiver has read the payload or refused it and the send completes. -/
  | sendComplete (op : Nat) (refused : Bool)
  /-- event `ETH_FRAME_ARRIVAL` (R259): A scale-out frame is matched to a live endpoint or dropped. -/
  | ethFrameArrival (f : Frame)
  /-- event `ETH_RETRANSMIT` (R259): Lost scale-out frames are retransmitted go-back-N. -/
  | ethRetransmit (op : Nat)
  /-- event `QTAIL` (R371): Host doorbell write announcing packets of a launch queue. -/
  | qtail (world : Requested) (prio : Nat) (value : BitVec 16)
  /-- event `QUEUE_CONFIG_WRITE` (R371): Write of qbase or qsize, dropped while the queue is not empty. -/
  | queueConfigWrite (world prio : Nat) (size : Bool) (value : BitVec 64)
  /-- event `PEER_DOORBELL` (R258): A doorbell from a peer is checked against the queue's access-control table. -/
  | peerDoorbell (world prio srcChip srcWorld : Nat) (value : BitVec 16)
  /-- event `LAUNCH_ACCEPT` (R268): The front end reads and checks a packet, accepting or rejecting it. -/
  | launchAccept (world prio : Nat)
  /-- event `GANG_PLACEMENT` (R270): A dispatcher places a gang whole on a cluster once it fits and dependences are met. -/
  | gangPlacement (launch die : Nat)
  /-- event `WORKGROUP_END` (R284): All threads ended and drains done; slots and scratchpad are freed. -/
  | workgroupEnd (wg : Nat)
  /-- event `GANG_END` (R265): A gang ends and completion counters advance up the hierarchy. -/
  | gangEnd (gang : Nat)
  /-- event `PREEMPT_REQUEST` (R286): A pre-emption request halts every core of the target within 80 clocks. -/
  | preemptRequest (t : Target)
  /-- event `COPY_RESTART_TIMEOUT` (R287): A copy not done 512 clocks after the halt is stopped and recorded for restart. -/
  | copyRestartTimeout (op : Nat)
  /-- event `CONTEXT_SAVE_COMPLETE` (R288): The gang's context is saved and its cluster freed. -/
  | contextSaveComplete (gang : Nat)
  /-- event `GANG_RESUME` (R289): A saved gang is restored, ranges re-registered and loads replayed. -/
  | gangResume (gang cluster : Nat)
  /-- event `TRAP_RESUME` (R77): The driver resumes a gang halted by a trap. -/
  | trapResume (gang : Nat)
  /-- event `PAGE_IN_COMPLETE` (R201): A scratchpad page becomes present and held lanes complete. -/
  | pageInComplete (wg page : Nat)
  /-- event `FQCLOSE` (R325): The driver closes a fault record so no more bits are merged. -/
  | fqclose (world : Nat) (index : BitVec 16)
  /-- event `FQHEAD` (R326): The driver consumes fault records, freeing space and resuming stalled gangs. -/
  | fqhead (world : Nat) (value : BitVec 16)
  /-- event `IOD_WRITE_ACKNOWLEDGED` (R191): Base dies acknowledge a host posted write, releasing held later writes. -/
  | iodWriteAcknowledged (write : WriteRoute)
  /-- event `HOST_APERTURE_READ` (R381): Host read through BAR4 translated in the world's page table. -/
  | hostApertureRead (world offset bytes : Nat) (ide : Bool)
  /-- event `HOST_APERTURE_WRITE` (R381): Host write through BAR4 checked against permissions and owner tags. -/
  | hostApertureWrite (world offset : Nat) (data : List Byte) (relaxed ide : Bool)
  /-- event `HOST_WINDOW_ACCESS` (R173): Host access to the coherent window over CXL. -/
  | hostWindowAccess (world offset bytes : Nat) (data : Option (List Byte))
  /-- event `CHECKER_EVENT_REPORT` (R343): A die reports an event record that the checker scores and acts on. -/
  | checkerEventReport (die : Nat) (err : ErrorKind)
  /-- event `SCORE_DECAY` (R344): Every 2^28 checker clocks each failure score falls by 1. -/
  | scoreDecay
  /-- event `WITNESS_TEST_RESULT` (R353): The checker finishes testing a record and passes or discards its version. -/
  | witnessTestResult (world version : Nat)
  /-- event `SHADOW_RUN_COMPLETE` (R353): A DUAL shadow run completes and the digests are compared. -/
  | shadowRunComplete (launch : Nat)
  /-- event `LOCK_INTERFACE` (R373): TDISP message locking a world's configuration. -/
  | lockInterface (world : Nat)
  /-- event `START_INTERFACE` (R373): TDISP message moving a locked world to RUN. -/
  | startInterface (world : Nat)
  /-- event `STOP_INTERFACE` (R373): TDISP message cancelling a world's work and discarding its keys. -/
  | stopInterface (world : Nat)
  /-- event `SPDM_MEASUREMENT_REQUEST` (R361): The checker answers a signed SPDM measurement request. -/
  | spdmMeasurementRequest
  /-- event `FIRMWARE_ACTIVATION_SWITCH` (R361): Live firmware activation switches the reported measurements. -/
  | firmwareActivationSwitch (values : Measurement)
  /-- event `WORLD_CREATE` (R379): Enabling a virtual function creates a world with initial registers. -/
  | worldCreate (world : Nat)
  /-- event `WORLD_DESTROY` (R379): Disabling a virtual function cancels its work and discards its keys. -/
  | worldDestroy (world : Nat)
  /-- event `GPOLICY` (R377): Write of the ALL policy bit and retirement threshold. -/
  | gpolicy (value : BitVec 64)
  /-- event `GTEST` (R356): Write entering or leaving test mode, refused while any world is protected. -/
  | gtest (value : BitVec 64)
  /-- event `GHALTREL` (R340): Write releasing world or die halts. -/
  | ghaltrel (value : BitVec 64)
  /-- event `GRTDATA` (R377): Write replacing the routing entry that grtidx names. -/
  | grtdata (value : BitVec 64)
  /-- event `GCGDATA` (R377): Write of the collective-group entry that gcgidx names. -/
  | gcgdata (value : CollGroup)
  /-- event `GPRDATA` (R377): Host write of the privileged register that gprsel names. -/
  | gprdata (value : BitVec 64)
  /-- event `GPWRCAP` (R374): Write of a die's power cap, effective at the next refill. -/
  | gpwrcap (die : Nat) (value : BitVec 64)
  /-- event `NOTIFY_WRITE` (R372): Write of a notify register, firing at once if already met. -/
  | notifyWrite (world : Requested) (n : Nat) (value : BitVec 64)
  /-- event `REGISTER_WRITE` (R377): Write to a register with no behaviour of its own. -/
  | registerWrite (r : PlainReg) (value : BitVec 64)
  /-- event `FIRE_RING_BASE` (R378): Mailbox command 0x01 setting a world's fire ring base. -/
  | fireRingBase (arg : BitVec 56)
  /-- event `FIRE_RING_SIZE` (R378): Mailbox command 0x02 setting the fire ring size and emptying it. -/
  | fireRingSize (arg : BitVec 56)
  /-- event `FIRE_RING_HEAD` (R378): Mailbox command 0x03 consuming fire ring entries. -/
  | fireRingHead (arg : BitVec 56)
  /-- event `END_TEST_INJECTIONS` (R378): Mailbox command 0x04 ending a world's test-mode injections. -/
  | endTestInjections (arg : BitVec 56)
  /-- event `THERMAL_THROTTLE` (R375): Coolant at 70 °C quarters every power cap until it falls below 65 °C. -/
  | thermalThrottle (temp : BitVec 16)
  /-- event `THERMAL_SHUTDOWN` (R375): Coolant at 80 °C halts every gang and removes power after saves. -/
  | thermalShutdown (temp : BitVec 16)
  /-- event `AON_RAIL_LOSS` (R335): Loss of the always-on rail loses every key and errors protected worlds. -/
  | aonRailLoss
  /-- event `DEEP_SLEEP_ENTER` (R335): Protected gangs are saved as saggars and the package sleeps. -/
  | deepSleepEnter
  /-- event `DEEP_SLEEP_WAKE` (R335): On wake links re-key and gangs are restored. -/
  | deepSleepWake
  /-- event `COLD_START` (R376): Full bring-up from checker ROM measurement to READY. -/
  | coldStart (r : BootReport)
  /-- event `WARM_START` (R360): Bring-up reusing retained training and keys after checks. -/
  | warmStart (checks : WarmChecks) (r : BootReport)
  /-- event `WARM_RESET` (R357): Warm reset of one die stack: halt, quiesce, reset, retrain, re-admit. -/
  | warmReset (die : Nat)
  /-- event `LINK_SPLIT_DECISION` (R358): The checker decides which group of split stacks lives and fences the rest. -/
  | linkSplitDecision (parts : List Split)
  /-- event `DRIVER_CANCEL` (R77): The driver cancels a launch halted by a trap or a stopped engine operation, discarding it under R290. -/
  | driverCancel (launch : Nat)
  /-- event `COMPLETION_COUNTER_WRITE` (R264): The driver writes a graph, phase or job entry of the world's completion-counter table, bringing it into use. -/
  | completionCounterWrite (world ctr : Nat) (value : BitVec 128)
  /-- event `COOLANT_OUTLET_BELOW_65C` (R375): The coolant outlet falls below 65 °C and the quartered power caps are restored. -/
  | coolantOutletBelow65c (temp : BitVec 16)
  deriving DecidableEq, Repr

end Sys2Proof
end

