-- ==== Sys2Proof/Machine/Operands.lean ====
section
/-! DEFINITION. The operands of every instruction, and the static legality of its fields (spec 03, R61 to R73, and each
instruction's own encoding table). Everything here is a function of the instruction alone. -/

namespace Sys2Proof

/-- One operand field of an instruction (spec 03, R68). -/
inductive Opnd where
  /-- `n` vector registers read from `r` upward -/
  | vsrc (r : BitVec 8) (n : Nat)
  /-- `n` vector registers written from `r` upward -/
  | vdst (r : BitVec 8) (n : Nat)
  /-- a scalar register read -/
  | ssrc (r : BitVec 9)
  /-- a scalar register written -/
  | sdst (r : BitVec 9)
  /-- an even-odd scalar pair read -/
  | spair (r : BitVec 9)
  /-- the first register of a layout word -/
  | slayout (r : BitVec 9)
  /-- a receive descriptor of `n` registers from a multiple of 8 -/
  | sblock (r : BitVec 9) (n : Nat)
  /-- three status registers from a multiple of 4 -/
  | sblockDst (r : BitVec 9)
  /-- a predicate read -/
  | psrc (p : BitVec 4)
  /-- a predicate written, in an 8-bit field -/
  | pdst (p : BitVec 8)
  /-- a predicate written, in a 9-bit field -/
  | pdst9 (p : BitVec 9)
  /-- a predicate written, in a 4-bit field -/
  | pdst4 (p : BitVec 4)
  /-- `n` accumulator tiles from `t`; `four` demands a multiple of 4 -/
  | acc (t : BitVec 8) (n : Nat) (four : Bool)
  /-- a convergence register -/
  | cv (c : BitVec 8)
  deriving DecidableEq, Repr

/-- A scalar register number that names a register or `sz` (spec 03, R68). -/
def scalarOk (r : BitVec 9) : Bool := r.toNat < 384 || r == 511

/-- The fates of R68 that are ILLEGAL. -/
def Opnd.legal : Opnd → Bool
  | .vsrc r n | .vdst r n => !(r == 255 && 1 < n)
  | .ssrc r | .sdst r => scalarOk r
  | .spair r => scalarOk r && (r == 511 || r.toNat % 2 == 0)
  | .slayout r => r.toNat < 384 && r.toNat % 4 == 0
  | .sblock r _ => r.toNat < 384 && r.toNat % 8 == 0
  | .sblockDst r => r.toNat < 384 && r.toNat % 4 == 0
  | .psrc _ => true
  | .pdst p => p.toNat < 15
  | .pdst9 p => p.toNat < 15
  | .pdst4 p => p != 15
  | .acc t _ four => t.toNat < 16 && (!four || t.toNat % 4 == 0)
  | .cv c => c.toNat < 16

/-- The fates of R68 that are REG_RANGE, for a demand of `vregs` vector registers and `acc` slots. -/
def Opnd.inRange (vregs acc : Nat) : Opnd → Bool
  | .vsrc r n | .vdst r n => r == 255 || r.toNat + n ≤ vregs
  | .acc t n _ => t.toNat + n ≤ acc
  | _ => true

/-- Vector registers an operand reads or writes; `vz` is none (spec 02, R40). -/
def Opnd.vregs : Opnd → List Nat
  | .vsrc r n | .vdst r n => if r == 255 then [] else (List.range n).map (r.toNat + ·)
  | _ => []

/-- Predicates an operand reads or writes; `pt` is none (spec 02, R40). -/
def Opnd.preds : Opnd → List Nat
  | .psrc p | .pdst4 p => if p == 15 then [] else [p.toNat]
  | .pdst p => [p.toNat]
  | .pdst9 p => [p.toNat]
  | _ => []

/-! Field checks shared by instructions of one mould. -/

/-- SLOT, RS and TY of a V3 integer instruction (spec 05, R108, R109). -/
def modOk (f : V3) (sat ty01 : Bool) : Bool :=
  f.slot == 0 && (f.rs == 0 || (sat && f.rs == 5)) && (f.ty == 0 || (ty01 && f.ty == 1))

/-- The same, with CL zero. -/
def intOk (f : V3) (sat ty01 : Bool) : Bool := modOk f sat ty01 && f.cl == 0

/-- SLOT, TY and RS of a V3 floating-point instruction that takes the codes below `n` (spec 05, R112). -/
def fltOk (f : V3) (n : Nat) : Bool := f.slot == 0 && f.ty == 0 && f.rs.toNat < n

/-- SLOT and TY of a conversion (spec 05, R115; 03 R69). -/
def cvtOk (f : V3) : Bool := f.ty == 0 && (f.rs == 7 || f.slot == 0)

/-- Registers of the unit that holds elements of a format (spec 04, R88). -/
def unitRegs (fmt : Nat) : Nat := if fmt == 9 then 3 else 1

/-- First element index `pack` allows (spec 05, R117). -/
def packIndexOk (fmt k : Nat) : Bool :=
  if fmt == 5 || fmt == 6 then k == 0
  else if fmt == 2 || fmt == 3 || fmt == 7 || fmt == 8 then k == 0 || k == 2
  else fmt == 9 && k % 2 == 0

/-- Element index `unpack` allows (spec 05, R118). -/
def unpackIndexOk (fmt k : Nat) : Bool :=
  if fmt == 5 || fmt == 6 then k < 2
  else if fmt == 2 || fmt == 3 || fmt == 7 || fmt == 8 then k < 4
  else fmt == 9

/-- TY of `redux` (spec 05, R128). -/
def reduxTyOk (op : ReduxOp) (ty : BitVec 2) : Bool :=
  match op with
  | .fadd | .fmin | .fmax => ty == 0
  | _ => ty.toNat < 2

/-- TY of an atomic (spec 08, R205). -/
def atomTyOk (op : AtomOp) (ty : BitVec 2) : Bool :=
  match op with
  | .add | .min | .max | .exch | .cas => ty != 3
  | .sub => ty.toNat < 2
  | .and | .or | .xor => ty == 0

/-- The compare register of `.cas` (spec 08, R204). -/
def casSrc (op : AtomOp) (f : FMA) : List Opnd := if op == .cas then [.vsrc f.c 1] else []

/-- SZ, CNT of a load or store (spec 03, R65). -/
def elemOk (f : FM) : Bool := f.sz != 3 && (f.cnt == 0 || f.sz == 2)

/-- ORD of a load (1) or store (2): plain, or ordered with one 32-bit register (spec 08, R195). -/
def ordOk (f : FM) (o : BitVec 2) : Bool := f.ord == 0 || (f.ord == o && f.cnt == 0 && f.sz == 2)

/-- The predicate of `ldp`, bits [7:4] of the word (spec 03, R65). -/
def ldpPred (f : FM) : BitVec 4 := (f.cnt ++ f.sx) ++ f.ord.extractLsb' 1 1

/-- The mode of `ldfrag`, bits [5:4] of the word (spec 03, R65). -/
def fragMode (f : FM) : BitVec 2 := f.sx ++ f.ord.extractLsb' 1 1

/-- The low two class bits of an MC instruction. -/
def cpyDir (f : FMC) : Nat := f.cl.toNat % 4

/-- Operands of `cpy` without a layout word (spec 08, R213). -/
def cpyOpnds (f : FMC) : List Opnd :=
  [if cpyDir f == 0 || cpyDir f == 3 then .ssrc f.f1 else .spair f.f1, .ssrc f.f2,
   if cpyDir f == 1 || cpyDir f == 3 then .ssrc f.f3 else .spair f.f3, .ssrc f.f4]

/-- RS and the reserved bits of layout T (spec 03, R66). -/
def tOk (f : FT) : Bool := f.rs == 0 && f.rsv == 0

/-- BSEP 0 demands a zero B slot (spec 06, R151). -/
def bSlotOk (f : FT) : Bool := f.cl.getLsbD 3 || f.cl.toNat % 8 == 0

/-- Tiles of a shape or mode: one, or four when fused (spec 06, R131, R155). -/
def shapeTiles (m : BitVec 2) : Nat := if m == 0 then 1 else 4

/-- The receiving tile of `mproj` lies among the projected tiles (spec 06, R159). -/
def tileWithin (f : FT) : Bool :=
  f.d.toNat ≤ f.b.toNat && f.b.toNat < f.d.toNat + shapeTiles f.mode

/-- The kind field of `witb` (spec 15, R351). -/
def witKind (f : FMC) : Nat := (f.cl.toNat / 256) % 4

/-- The class bits of `witb` (spec 15, R351). -/
def witbOk (f : FMC) : Bool :=
  match witKind f with
  | 0 => f.cl.toNat % 2 == 0
  | 1 => f.cl.toNat % 256 == 0 || f.cl.toNat % 256 == 64
  | 2 => f.cl.toNat % 256 == 0
  | _ => false

/-- The part roles that exist (spec 15, R352). -/
def roleOk (r : Nat) : Bool := r < 6 || (8 ≤ r && r ≤ 12)

/-- Level and number of a barrier (spec 10, R296). -/
def barOk (imm : BitVec 32) : Bool :=
  imm.toNat < 16 || (16 ≤ imm.toNat && imm.toNat < 24) || (32 ≤ imm.toNat && imm.toNat < 36)

/-- The privileged register numbers of the table (spec 14, R337). -/
def prnOk (prn : BitVec 16) : Bool :=
  if prn.getLsbD 15 then prn.toNat == 0x8000 || prn.toNat == 0x8001
  else
    let r := prn.toNat % 128
    r ≤ 4 || (8 ≤ r && r ≤ 0x23)

/-- The guard of an instruction; an event has none. -/
def Instr.guard? : Instr → Option Guard
  | .add g _ => some g
  | .sub g _ => some g
  | .mul g _ => some g
  | .mulhi g _ => some g
  | .mad g _ => some g
  | .min g _ => some g
  | .max g _ => some g
  | .abs g _ => some g
  | .neg g _ => some g
  | .addc g _ => some g
  | .subb g _ => some g
  | .lea g _ => some g
  | .and g _ => some g
  | .or g _ => some g
  | .xor g _ => some g
  | .not g _ => some g
  | .shl g _ => some g
  | .shr g _ => some g
  | .sar g _ => some g
  | .rot g _ => some g
  | .popc g _ => some g
  | .clz g _ => some g
  | .ctz g _ => some g
  | .brev g _ => some g
  | .bfe g _ => some g
  | .bfi g _ => some g
  | .sel g _ => some g
  | .cmp g _ => some g
  | .addImm g _ => some g
  | .subImm g _ => some g
  | .mulImm g _ => some g
  | .minImm g _ _ => some g
  | .maxImm g _ _ => some g
  | .andImm g _ => some g
  | .orImm g _ => some g
  | .xorImm g _ => some g
  | .shlImm g _ => some g
  | .shrImm g _ => some g
  | .sarImm g _ => some g
  | .rotImm g _ => some g
  | .cmpImm g _ _ _ => some g
  | .mov g _ => some g
  | .movi g _ => some g
  | .movs g _ => some g
  | .fadd g _ => some g
  | .fsub g _ => some g
  | .fmul g _ => some g
  | .fma g _ => some g
  | .fmin g _ => some g
  | .fmax g _ => some g
  | .fcmp g _ => some g
  | .fclass g _ => some g
  | .frnd g _ => some g
  | .frcp g _ => some g
  | .frsq g _ => some g
  | .fsqrt g _ => some g
  | .fex2 g _ => some g
  | .flg2 g _ => some g
  | .fsin g _ => some g
  | .fcos g _ => some g
  | .faddImm g _ => some g
  | .fsubImm g _ => some g
  | .fmulImm g _ => some g
  | .fminImm g _ => some g
  | .fmaxImm g _ => some g
  | .cvt g _ => some g
  | .pack g _ => some g
  | .unpack g _ => some g
  | .scl g _ => some g
  | .shflIdx g _ => some g
  | .shflUp g _ => some g
  | .shflDown g _ => some g
  | .shflXor g _ => some g
  | .voteAll g _ => some g
  | .voteAny g _ => some g
  | .voteBallot g _ => some g
  | .matchAny g _ => some g
  | .matchAll g _ => some g
  | .bcast g _ => some g
  | .gscan g _ => some g
  | .minidx g _ => some g
  | .maxidx g _ => some g
  | .redux g _ _ => some g
  | .sadd g _ => some g
  | .ssub g _ => some g
  | .smul g _ => some g
  | .sand g _ => some g
  | .sor g _ => some g
  | .sxor g _ => some g
  | .sshl g _ => some g
  | .sshr g _ => some g
  | .smov g _ => some g
  | .scmp g _ => some g
  | .saddImm g _ => some g
  | .ssubImm g _ => some g
  | .smulImm g _ => some g
  | .sandImm g _ => some g
  | .sorImm g _ => some g
  | .sxorImm g _ => some g
  | .sshlImm g _ => some g
  | .sshrImm g _ => some g
  | .scmpImm g _ => some g
  | .smovK g _ => some g
  | .rdsrScalar g _ => some g
  | .rdsrVector g _ => some g
  | .sld g _ => some g
  | .ld g _ => some g
  | .ldp g _ => some g
  | .lds g _ => some g
  | .ldfrag g _ => some g
  | .st g _ => some g
  | .sts g _ => some g
  | .atom g _ _ => some g
  | .atoms g _ _ => some g
  | .pref g _ => some g
  | .pgreq g _ => some g
  | .hflush g _ => some g
  | .hinv g _ => some g
  | .cwb g _ => some g
  | .fence g _ => some g
  | .cpy g _ => some g
  | .cpyLw g _ => some g
  | .cpyRing g _ => some g
  | .cpyg g _ => some g
  | .cpyb g _ => some g
  | .bulk g _ => some g
  | .stwait g _ => some g
  | .strel g _ => some g
  | .hand g _ => some g
  | .take g _ => some g
  | .send g _ => some g
  | .post g _ => some g
  | .rprobe g _ => some g
  | .rwait g _ => some g
  | .rcancel g _ => some g
  | .acset g _ => some g
  | .acwait g _ => some g
  | .mma g _ => some g
  | .mmac g _ => some g
  | .mproj g _ => some g
  | .accz g _ => some g
  | .cvset g _ => some g
  | .accld g _ => some g
  | .accst g _ => some g
  | .witb g _ => some g
  | .witp g _ => some g
  | .wite g _ => some g
  | .gver g _ => some g
  | .br g _ => some g
  | .brc g _ => some g
  | .call g _ => some g
  | .ret g _ => some g
  | .reform g _ => some g
  | .exit g _ => some g
  | .yield g _ => some g
  | .nop g _ => some g
  | .trap g _ => some g
  | .wait g _ => some g
  | .bar g _ => some g
  | .barx g _ => some g
  | .launch g _ => some g
  | .cancel g _ => some g
  | .hcwait g _ => some g
  | .rdpr g _ => some g
  | .wrpr g _ => some g
  | .tlbinv g _ => some g
  | .sttinv g _ => some g
  | .finj g _ => some g
  | .halt g _ => some g
  | .loadReturn _ _ => none
  | .storePerformed _ _ _ => none
  | .atomicReply _ => none
  | .poisonedReply _ => none
  | .parkedThreadRefile _ _ => none
  | .binDraw _ => none
  | .binAged _ => none
  | .groupDissolve _ _ => none
  | .matrixStepPerformed _ => none
  | .tileTransferPerformed _ => none
  | .sourceRangeReleased _ => none
  | .copyComplete _ => none
  | .ringSequenceLanded _ => none
  | .enginePageResident _ => none
  | .engineStop _ => none
  | .leaveGrant _ => none
  | .powerCreditRefill _ => none
  | .lineStalenessDrop _ => none
  | .bulkLineArrival _ => none
  | .bulkComplete _ => none
  | .reductionCombine _ _ _ => none
  | .fabricPacketArrival _ => none
  | .writeMerge _ => none
  | .flitReplay _ => none
  | .linkTakenDown _ => none
  | .tagFailure _ => none
  | .linkRekey _ => none
  | .peerAdmission _ _ => none
  | .messageHeaderArrival _ => none
  | .messageResend _ => none
  | .receiveLandingComplete _ _ => none
  | .landingAborted _ _ _ => none
  | .sendComplete _ _ => none
  | .ethFrameArrival _ => none
  | .ethRetransmit _ => none
  | .qtail _ _ _ => none
  | .queueConfigWrite _ _ _ _ => none
  | .peerDoorbell _ _ _ _ _ => none
  | .launchAccept _ _ => none
  | .gangPlacement _ _ => none
  | .workgroupEnd _ => none
  | .gangEnd _ => none
  | .preemptRequest _ => none
  | .copyRestartTimeout _ => none
  | .contextSaveComplete _ => none
  | .gangResume _ _ => none
  | .trapResume _ => none
  | .pageInComplete _ _ => none
  | .fqclose _ _ => none
  | .fqhead _ _ => none
  | .iodWriteAcknowledged _ => none
  | .hostApertureRead _ _ _ _ => none
  | .hostApertureWrite _ _ _ _ _ => none
  | .hostWindowAccess _ _ _ _ => none
  | .checkerEventReport _ _ => none
  | .scoreDecay => none
  | .witnessTestResult _ _ => none
  | .shadowRunComplete _ => none
  | .lockInterface _ => none
  | .startInterface _ => none
  | .stopInterface _ => none
  | .spdmMeasurementRequest => none
  | .firmwareActivationSwitch _ => none
  | .worldCreate _ => none
  | .worldDestroy _ => none
  | .gpolicy _ => none
  | .gtest _ => none
  | .ghaltrel _ => none
  | .grtdata _ => none
  | .gcgdata _ => none
  | .gprdata _ => none
  | .gpwrcap _ _ => none
  | .notifyWrite _ _ _ => none
  | .registerWrite _ _ => none
  | .fireRingBase _ => none
  | .fireRingSize _ => none
  | .fireRingHead _ => none
  | .endTestInjections _ => none
  | .thermalThrottle _ => none
  | .thermalShutdown _ => none
  | .aonRailLoss => none
  | .deepSleepEnter => none
  | .deepSleepWake => none
  | .coldStart _ => none
  | .warmStart _ _ => none
  | .warmReset _ => none
  | .linkSplitDecision _ => none
  | .unassignedEncoding _ => none
  | .driverCancel _ => none
  | .completionCounterWrite _ _ _ => none
  | .coolantOutletBelow65c _ => none

/-- The modifier, class and reserved fields hold assigned values (spec 03, R70); true of events. -/
def Instr.fieldsOk : Instr → Bool
  | .add _ f => intOk f true true
  | .sub _ f => intOk f true true
  | .mul _ f => intOk f true true
  | .mulhi _ f => intOk f false true
  | .mad _ f => intOk f true true
  | .min _ f => intOk f false true
  | .max _ f => intOk f false true
  | .abs _ f => intOk f true false
  | .neg _ f => intOk f true false
  | .addc _ f => modOk f false false
  | .subb _ f => modOk f false false
  | .lea _ f => modOk f false false && f.cl.toNat ≤ 4
  | .and _ f => intOk f false false
  | .or _ f => intOk f false false
  | .xor _ f => intOk f false false
  | .not _ f => intOk f false false
  | .shl _ f => intOk f false false
  | .shr _ f => intOk f false false
  | .sar _ f => intOk f false false
  | .rot _ f => intOk f false false
  | .popc _ f => intOk f false false
  | .clz _ f => intOk f false false
  | .ctz _ f => intOk f false false
  | .brev _ f => intOk f false false
  | .bfe _ f => intOk f false true
  | .bfi _ f => intOk f false false
  | .sel _ f => modOk f false false && f.cl.toNat < 16
  | .cmp _ f => modOk f false true && f.cl.toNat < 6
  | .addImm _ _ => true
  | .subImm _ _ => true
  | .mulImm _ _ => true
  | .minImm _ _ _ => true
  | .maxImm _ _ _ => true
  | .andImm _ _ => true
  | .orImm _ _ => true
  | .xorImm _ _ => true
  | .shlImm _ _ => true
  | .shrImm _ _ => true
  | .sarImm _ _ => true
  | .rotImm _ _ => true
  | .cmpImm _ _ cond _ => cond.toNat < 6
  | .mov _ f => intOk f false false
  | .movi _ _ => true
  | .movs _ f => f.rsv == 0 && f.ty == 0 && f.cl == 0
  | .fadd _ f => fltOk f 7 && f.cl == 0
  | .fsub _ f => fltOk f 7 && f.cl == 0
  | .fmul _ f => fltOk f 7 && f.cl == 0
  | .fma _ f => fltOk f 7 && f.cl == 0
  | .fmin _ f => fltOk f 1 && f.cl == 0
  | .fmax _ f => fltOk f 1 && f.cl == 0
  | .fcmp _ f => fltOk f 1 && f.cl.toNat < 6
  | .fclass _ f => fltOk f 1 && f.cl == 0
  | .frnd _ f => fltOk f 4 && f.cl == 0
  | .frcp _ f => fltOk f 7 && f.cl == 0
  | .frsq _ f => fltOk f 1 && f.cl == 0
  | .fsqrt _ f => fltOk f 7 && f.cl == 0
  | .fex2 _ f => fltOk f 1 && f.cl == 0
  | .flg2 _ f => fltOk f 1 && f.cl == 0
  | .fsin _ f => fltOk f 1 && f.cl == 0
  | .fcos _ f => fltOk f 1 && f.cl == 0
  | .faddImm _ _ => true
  | .fsubImm _ _ => true
  | .fmulImm _ _ => true
  | .fminImm _ _ => true
  | .fmaxImm _ _ => true
  | .cvt _ f => cvtOk f && f.cl.toNat / 16 < 10 && f.cl.toNat % 16 < 10 && !(f.rs == 4 && f.cl.toNat / 16 == 9)
  | .pack _ f => cvtOk f && packIndexOk (f.cl.toNat % 16) (f.cl.toNat / 16) && !(f.rs == 4 && f.cl.toNat % 16 == 9)
  | .unpack _ f => modOk f false false && unpackIndexOk (f.cl.toNat % 16) (f.cl.toNat / 16)
  | .scl _ f => cvtOk f && f.cl.toNat < 2
  | .shflIdx _ f => f.rsv == 0 && f.ty == 0 && f.cl == 0
  | .shflUp _ f => f.rsv == 0 && f.ty == 0 && f.cl.toNat < 64
  | .shflDown _ f => f.rsv == 0 && f.ty == 0 && f.cl.toNat < 64
  | .shflXor _ f => f.rsv == 0 && f.ty == 0 && f.cl.toNat < 32
  | .voteAll _ f => f.rsv == 0 && f.ty == 0 && f.cl.toNat < 16
  | .voteAny _ f => f.rsv == 0 && f.ty == 0 && f.cl.toNat < 16
  | .voteBallot _ f => f.rsv == 0 && f.ty == 0 && f.cl.toNat < 16
  | .matchAny _ f => f.rsv == 0 && f.ty == 0 && f.cl == 0
  | .matchAll _ f => f.rsv == 0 && f.ty == 0 && f.cl == 0
  | .bcast _ f => f.rsv == 0 && f.ty == 0 && f.cl.toNat < 32
  | .gscan _ f => f.rsv == 0 && f.ty == 0 && f.cl.toNat < 2
  | .minidx _ f => f.rsv == 0 && f.ty != 3 && f.cl == 0 && f.d.toNat ≤ 253
  | .maxidx _ f => f.rsv == 0 && f.ty != 3 && f.cl == 0 && f.d.toNat ≤ 253
  | .redux _ f op => f.rsv == 0 && reduxTyOk op f.ty && f.cl == 0
  | .sadd _ f => f.rsv == 0 && f.ty == 0 && f.cl == 0
  | .ssub _ f => f.rsv == 0 && f.ty == 0 && f.cl == 0
  | .smul _ f => f.rsv == 0 && f.ty == 0 && f.cl == 0
  | .sand _ f => f.rsv == 0 && f.ty == 0 && f.cl == 0
  | .sor _ f => f.rsv == 0 && f.ty == 0 && f.cl == 0
  | .sxor _ f => f.rsv == 0 && f.ty == 0 && f.cl == 0
  | .sshl _ f => f.rsv == 0 && f.ty == 0 && f.cl == 0
  | .sshr _ f => f.rsv == 0 && f.ty == 0 && f.cl.toNat < 2
  | .smov _ f => f.rsv == 0 && f.ty == 0 && f.cl == 0
  | .scmp _ f => f.rsv == 0 && f.ty.toNat < 2 && f.cl.toNat < 6
  | .saddImm _ _ => true
  | .ssubImm _ _ => true
  | .smulImm _ _ => true
  | .sandImm _ _ => true
  | .sorImm _ _ => true
  | .sxorImm _ _ => true
  | .sshlImm _ _ => true
  | .sshrImm _ _ => true
  | .scmpImm _ f => (f.imm.extractLsb' 27 3).toNat < 6
  | .smovK _ f => f.rsv == 0
  | .rdsrScalar _ f => f.rsv == 0 && f.ty == 0 && f.cl == 0 && 2 ≤ f.sa.toNat && f.sa.toNat < 13
  | .rdsrVector _ f => f.rsv == 0 && f.ty == 0 && f.cl == 0 && f.sa.toNat < 13 && f.sd.toNat < 256
  | .sld _ _ => true
  | .ld _ f => elemOk f && ordOk f 1 && (f.ord != 0 || f.scope == 0) && f.scope.toNat ≤ 5
  | .ldp _ f => f.sz != 3 && f.ord.getLsbD 0 == false && f.scope == 0
  | .lds _ f => elemOk f && ordOk f 1 && f.scope.toNat ≤ 1
  | .ldfrag _ f => f.sz == 2 && f.idx == 255 && fragMode f != 3 && f.ord.getLsbD 0 == false && f.scope == 0
  | .st _ f => elemOk f && f.sx == 0 && ordOk f 2 && (f.ord != 0 || f.scope == 0) && f.scope.toNat ≤ 5
  | .sts _ f => elemOk f && f.sx == 0 && ordOk f 2 && f.scope.toNat ≤ 1
  | .atom _ f op => atomTyOk op f.ty && (f.ord != 0 || f.scope == 0) && f.scope.toNat ≤ 5
  | .atoms _ f op => atomTyOk op f.ty && f.scope.toNat ≤ 1
  | .pref _ f => f.sz == 0 && f.cnt.toNat < 2 && f.sx == 0 && f.ord == 0 && f.scope == 0
  | .pgreq _ f => f.sz == 0 && f.cnt == 0 && f.sx == 0 && f.ord == 0 && f.scope == 0
  | .hflush _ f => f.cl == 0
  | .hinv _ f => f.cl == 0
  | .cwb _ f => f.cl == 0
  | .fence _ f => f.rsv == 0 && f.imm.toNat < 32 && f.imm.toNat / 8 != 0 && f.imm.toNat % 8 ≤ 5
  | .cpy _ f => f.cl.toNat / 16 != 0 && f.cl.getLsbD 3 == false && !(f.cl.getLsbD 2 && (cpyDir f == 1 || cpyDir f == 2))
  | .cpyLw _ f => f.cl.toNat / 16 == 0 && f.cl.getLsbD 3 && f.cl.getLsbD 2 == false && cpyDir f < 2
  | .cpyRing _ f => f.cl.toNat / 16 != 0 && f.cl.getLsbD 3 == false
  | .cpyg _ f => f.cl.toNat / 16 != 0 && f.cl.getLsbD 3 == false && cpyDir f == 0
  | .cpyb _ f => f.cl.toNat / 16 != 0 && (f.cl.toNat / 2) % 8 == 0
  | .bulk _ f => cpyDir f != 3 && (f.cl.toNat / 16) % 16 == 0 && f.cl.toNat / 256 < 8 && (cpyDir f == 2 || f.cl.toNat / 256 == 0)
  | .stwait _ f => f.cl.toNat < 8
  | .strel _ f => f.cl.toNat < 8
  | .hand _ f => f.cl.toNat < 128 && 3 ≤ f.cl.toNat % 8 && f.cl.toNat % 8 ≤ 5
  | .take _ f => f.f1.toNat < 256 && f.cl.toNat < 8 && 3 ≤ f.cl.toNat && f.cl.toNat ≤ 5
  | .send _ f => f.cl.toNat < 4
  | .post _ f => f.cl == 0
  | .rprobe _ f => f.cl == 0
  | .rwait _ f => f.cl == 0
  | .rcancel _ f => f.cl == 0
  | .acset _ f => f.cl.toNat < 32
  | .acwait _ f => f.cl.toNat < 16
  | .mma _ f => tOk f && bSlotOk f && f.cl.toNat < 16
  | .mmac _ f => tOk f && bSlotOk f
  | .mproj _ f => tOk f && f.slot == 0 && f.cl.toNat < 2 && !tileWithin f
  | .accz _ f => tOk f && f.slot == 0 && f.cl == 0
  | .cvset _ f => tOk f && f.slot == 0 && f.mode == 0 && f.cl.toNat < 4
  | .accld _ f => f.space != 3 && f.cl.toNat < 4
  | .accst _ f => f.space != 3 && f.cl.toNat < 4
  | .witb _ f => witbOk f
  | .witp _ f => (f.cl.toNat / 16) % 64 == 0 && roleOk (f.cl.toNat % 16)
  | .wite _ f => f.cl.toNat % 1024 == 0
  | .gver _ f => f.cl == 0
  | .br _ f => f.rsv == 0
  | .brc _ f => f.rsv == 0
  | .call _ f => f.rsv == 0
  | .ret _ f => f.rsv == 0 && f.imm == 0
  | .reform _ f => f.rsv == 0 && f.imm == 0
  | .exit _ f => f.rsv == 0 && f.imm == 0
  | .yield _ f => f.rsv == 0 && f.imm == 0
  | .nop _ f => f.rsv == 0 && f.imm == 0
  | .trap _ f => f.rsv == 0 && f.imm.toNat < 65536
  | .wait _ f => f.rsv == 0 && f.imm.toNat < 2 ^ 28
  | .bar _ f => f.rsv == 0 && barOk f.imm
  | .barx _ f => f.rsv == 0 && barOk f.imm && f.imm.toNat / 16 != 2
  | .launch _ f => f.cl == 0
  | .cancel _ f => f.cl == 0
  | .hcwait _ f => 2 ≤ f.cl.toNat && f.cl.toNat ≤ 5
  | .rdpr _ f => f.rsv == 0 && prnOk f.prn
  | .wrpr _ f => f.rsv == 0 && prnOk f.prn
  | .tlbinv _ f => f.rsv == 0 && f.prn.toNat < 3
  | .sttinv _ f => f.rsv == 0 && f.prn.toNat < 2
  | .finj _ f => f.rsv == 0 && 1 ≤ f.prn.toNat && f.prn.toNat ≤ 4
  | .halt _ f => f.rsv == 0 && f.prn == 0
  | .loadReturn _ _ => true
  | .storePerformed _ _ _ => true
  | .atomicReply _ => true
  | .poisonedReply _ => true
  | .parkedThreadRefile _ _ => true
  | .binDraw _ => true
  | .binAged _ => true
  | .groupDissolve _ _ => true
  | .matrixStepPerformed _ => true
  | .tileTransferPerformed _ => true
  | .sourceRangeReleased _ => true
  | .copyComplete _ => true
  | .ringSequenceLanded _ => true
  | .enginePageResident _ => true
  | .engineStop _ => true
  | .leaveGrant _ => true
  | .powerCreditRefill _ => true
  | .lineStalenessDrop _ => true
  | .bulkLineArrival _ => true
  | .bulkComplete _ => true
  | .reductionCombine _ _ _ => true
  | .fabricPacketArrival _ => true
  | .writeMerge _ => true
  | .flitReplay _ => true
  | .linkTakenDown _ => true
  | .tagFailure _ => true
  | .linkRekey _ => true
  | .peerAdmission _ _ => true
  | .messageHeaderArrival _ => true
  | .messageResend _ => true
  | .receiveLandingComplete _ _ => true
  | .landingAborted _ _ _ => true
  | .sendComplete _ _ => true
  | .ethFrameArrival _ => true
  | .ethRetransmit _ => true
  | .qtail _ _ _ => true
  | .queueConfigWrite _ _ _ _ => true
  | .peerDoorbell _ _ _ _ _ => true
  | .launchAccept _ _ => true
  | .gangPlacement _ _ => true
  | .workgroupEnd _ => true
  | .gangEnd _ => true
  | .preemptRequest _ => true
  | .copyRestartTimeout _ => true
  | .contextSaveComplete _ => true
  | .gangResume _ _ => true
  | .trapResume _ => true
  | .pageInComplete _ _ => true
  | .fqclose _ _ => true
  | .fqhead _ _ => true
  | .iodWriteAcknowledged _ => true
  | .hostApertureRead _ _ _ _ => true
  | .hostApertureWrite _ _ _ _ _ => true
  | .hostWindowAccess _ _ _ _ => true
  | .checkerEventReport _ _ => true
  | .scoreDecay => true
  | .witnessTestResult _ _ => true
  | .shadowRunComplete _ => true
  | .lockInterface _ => true
  | .startInterface _ => true
  | .stopInterface _ => true
  | .spdmMeasurementRequest => true
  | .firmwareActivationSwitch _ => true
  | .worldCreate _ => true
  | .worldDestroy _ => true
  | .gpolicy _ => true
  | .gtest _ => true
  | .ghaltrel _ => true
  | .grtdata _ => true
  | .gcgdata _ => true
  | .gprdata _ => true
  | .gpwrcap _ _ => true
  | .notifyWrite _ _ _ => true
  | .registerWrite _ _ => true
  | .fireRingBase _ => true
  | .fireRingSize _ => true
  | .fireRingHead _ => true
  | .endTestInjections _ => true
  | .thermalThrottle _ => true
  | .thermalShutdown _ => true
  | .aonRailLoss => true
  | .deepSleepEnter => true
  | .deepSleepWake => true
  | .coldStart _ => true
  | .warmStart _ _ => true
  | .warmReset _ => true
  | .linkSplitDecision _ => true
  | .unassignedEncoding _ => true
  | .driverCancel _ => true
  | .completionCounterWrite _ _ _ => true
  | .coolantOutletBelow65c _ => true

/-- The operands of an instruction; `fa` and `fb` are the registers of its A and B fragments (spec 06, R132, R143). -/
def Instr.opnds (fa fb : Nat) : Instr → List Opnd
  | .add _ f => [.vdst f.d 1, .vsrc f.a 1, .vsrc f.b 1]
  | .sub _ f => [.vdst f.d 1, .vsrc f.a 1, .vsrc f.b 1]
  | .mul _ f => [.vdst f.d 1, .vsrc f.a 1, .vsrc f.b 1]
  | .mulhi _ f => [.vdst f.d 1, .vsrc f.a 1, .vsrc f.b 1]
  | .mad _ f => [.vdst f.d 1, .vsrc f.a 1, .vsrc f.b 1, .vsrc f.c 1]
  | .min _ f => [.vdst f.d 1, .vsrc f.a 1, .vsrc f.b 1]
  | .max _ f => [.vdst f.d 1, .vsrc f.a 1, .vsrc f.b 1]
  | .abs _ f => [.vdst f.d 1, .vsrc f.a 1]
  | .neg _ f => [.vdst f.d 1, .vsrc f.a 1]
  | .addc _ f => [.vdst f.d 1, .vsrc f.a 1, .vsrc f.b 1, .psrc (f.cl.extractLsb' 0 4), .pdst4 (f.cl.extractLsb' 4 4)]
  | .subb _ f => [.vdst f.d 1, .vsrc f.a 1, .vsrc f.b 1, .psrc (f.cl.extractLsb' 0 4), .pdst4 (f.cl.extractLsb' 4 4)]
  | .lea _ f => [.vdst f.d 1, .vsrc f.a 1, .vsrc f.b 1]
  | .and _ f => [.vdst f.d 1, .vsrc f.a 1, .vsrc f.b 1]
  | .or _ f => [.vdst f.d 1, .vsrc f.a 1, .vsrc f.b 1]
  | .xor _ f => [.vdst f.d 1, .vsrc f.a 1, .vsrc f.b 1]
  | .not _ f => [.vdst f.d 1, .vsrc f.a 1]
  | .shl _ f => [.vdst f.d 1, .vsrc f.a 1, .vsrc f.b 1]
  | .shr _ f => [.vdst f.d 1, .vsrc f.a 1, .vsrc f.b 1]
  | .sar _ f => [.vdst f.d 1, .vsrc f.a 1, .vsrc f.b 1]
  | .rot _ f => [.vdst f.d 1, .vsrc f.a 1, .vsrc f.b 1]
  | .popc _ f => [.vdst f.d 1, .vsrc f.a 1]
  | .clz _ f => [.vdst f.d 1, .vsrc f.a 1]
  | .ctz _ f => [.vdst f.d 1, .vsrc f.a 1]
  | .brev _ f => [.vdst f.d 1, .vsrc f.a 1]
  | .bfe _ f => [.vdst f.d 1, .vsrc f.a 1, .vsrc f.b 1]
  | .bfi _ f => [.vdst f.d 1, .vsrc f.a 1, .vsrc f.b 1, .vsrc f.c 1]
  | .sel _ f => [.vdst f.d 1, .vsrc f.a 1, .vsrc f.b 1, .psrc (f.cl.extractLsb' 0 4)]
  | .cmp _ f => [.pdst f.d, .vsrc f.a 1, .vsrc f.b 1]
  | .addImm _ f => [.vdst f.d 1, .vsrc f.a 1]
  | .subImm _ f => [.vdst f.d 1, .vsrc f.a 1]
  | .mulImm _ f => [.vdst f.d 1, .vsrc f.a 1]
  | .minImm _ f _ => [.vdst f.d 1, .vsrc f.a 1]
  | .maxImm _ f _ => [.vdst f.d 1, .vsrc f.a 1]
  | .andImm _ f => [.vdst f.d 1, .vsrc f.a 1]
  | .orImm _ f => [.vdst f.d 1, .vsrc f.a 1]
  | .xorImm _ f => [.vdst f.d 1, .vsrc f.a 1]
  | .shlImm _ f => [.vdst f.d 1, .vsrc f.a 1]
  | .shrImm _ f => [.vdst f.d 1, .vsrc f.a 1]
  | .sarImm _ f => [.vdst f.d 1, .vsrc f.a 1]
  | .rotImm _ f => [.vdst f.d 1, .vsrc f.a 1]
  | .cmpImm _ f _ _ => [.pdst f.d, .vsrc f.a 1]
  | .mov _ f => [.vdst f.d 1, .vsrc f.a 1]
  | .movi _ f => [.vdst f.d 1]
  | .movs _ f => [.vdst f.d 1, .ssrc f.s]
  | .fadd _ f => [.vdst f.d 1, .vsrc f.a 1, .vsrc f.b 1]
  | .fsub _ f => [.vdst f.d 1, .vsrc f.a 1, .vsrc f.b 1]
  | .fmul _ f => [.vdst f.d 1, .vsrc f.a 1, .vsrc f.b 1]
  | .fma _ f => [.vdst f.d 1, .vsrc f.a 1, .vsrc f.b 1, .vsrc f.c 1]
  | .fmin _ f => [.vdst f.d 1, .vsrc f.a 1, .vsrc f.b 1]
  | .fmax _ f => [.vdst f.d 1, .vsrc f.a 1, .vsrc f.b 1]
  | .fcmp _ f => [.pdst f.d, .vsrc f.a 1, .vsrc f.b 1]
  | .fclass _ f => [.vdst f.d 1, .vsrc f.a 1]
  | .frnd _ f => [.vdst f.d 1, .vsrc f.a 1]
  | .frcp _ f => [.vdst f.d 1, .vsrc f.a 1]
  | .frsq _ f => [.vdst f.d 1, .vsrc f.a 1]
  | .fsqrt _ f => [.vdst f.d 1, .vsrc f.a 1]
  | .fex2 _ f => [.vdst f.d 1, .vsrc f.a 1]
  | .flg2 _ f => [.vdst f.d 1, .vsrc f.a 1]
  | .fsin _ f => [.vdst f.d 1, .vsrc f.a 1]
  | .fcos _ f => [.vdst f.d 1, .vsrc f.a 1]
  | .faddImm _ f => [.vdst f.d 1, .vsrc f.a 1]
  | .fsubImm _ f => [.vdst f.d 1, .vsrc f.a 1]
  | .fmulImm _ f => [.vdst f.d 1, .vsrc f.a 1]
  | .fminImm _ f => [.vdst f.d 1, .vsrc f.a 1]
  | .fmaxImm _ f => [.vdst f.d 1, .vsrc f.a 1]
  | .cvt _ f => [.vdst f.d 1, .vsrc f.a 1]
  | .pack _ f => [.vdst f.d (unitRegs (f.cl.toNat % 16)), .vsrc f.d (unitRegs (f.cl.toNat % 16)), .vsrc f.a 1, .vsrc f.b 1]
  | .unpack _ f => [.vdst f.d 1, .vsrc f.a (unitRegs (f.cl.toNat % 16))]
  | .scl _ f => [.vdst f.d 1, .vsrc f.a 1, .vsrc f.b 1]
  | .shflIdx _ f => [.vdst f.d 1, .vsrc f.a 1, .vsrc f.b 1, .ssrc f.s]
  | .shflUp _ f => [.vdst f.d 1, .vsrc f.a 1, .vsrc f.b 1, .ssrc f.s]
  | .shflDown _ f => [.vdst f.d 1, .vsrc f.a 1, .vsrc f.b 1, .ssrc f.s]
  | .shflXor _ f => [.vdst f.d 1, .vsrc f.a 1, .vsrc f.b 1, .ssrc f.s]
  | .voteAll _ f => [.pdst f.d, .psrc (f.cl.extractLsb' 0 4), .ssrc f.s]
  | .voteAny _ f => [.pdst f.d, .psrc (f.cl.extractLsb' 0 4), .ssrc f.s]
  | .voteBallot _ f => [.vdst f.d 1, .psrc (f.cl.extractLsb' 0 4), .ssrc f.s]
  | .matchAny _ f => [.vdst f.d 1, .vsrc f.a 1, .ssrc f.s]
  | .matchAll _ f => [.vdst f.d 1, .vsrc f.a 1, .ssrc f.s]
  | .bcast _ f => [.vdst f.d 1, .vsrc f.a 1, .ssrc f.s]
  | .gscan _ f => [.vdst f.d 1, .vsrc f.a 1, .ssrc f.s]
  | .minidx _ f => [.vdst f.d 2, .vsrc f.a 1, .ssrc f.s]
  | .maxidx _ f => [.vdst f.d 2, .vsrc f.a 1, .ssrc f.s]
  | .redux _ f _ => [.vdst f.d 1, .vsrc f.a 1, .ssrc f.s]
  | .sadd _ f => [.sdst f.sd, .ssrc f.sa, .ssrc f.sb]
  | .ssub _ f => [.sdst f.sd, .ssrc f.sa, .ssrc f.sb]
  | .smul _ f => [.sdst f.sd, .ssrc f.sa, .ssrc f.sb]
  | .sand _ f => [.sdst f.sd, .ssrc f.sa, .ssrc f.sb]
  | .sor _ f => [.sdst f.sd, .ssrc f.sa, .ssrc f.sb]
  | .sxor _ f => [.sdst f.sd, .ssrc f.sa, .ssrc f.sb]
  | .sshl _ f => [.sdst f.sd, .ssrc f.sa, .ssrc f.sb]
  | .sshr _ f => [.sdst f.sd, .ssrc f.sa, .ssrc f.sb]
  | .smov _ f => [.sdst f.sd, .ssrc f.sa]
  | .scmp _ f => [.pdst9 f.sd, .ssrc f.sa, .ssrc f.sb]
  | .saddImm _ f => [.sdst f.sd, .ssrc f.sa]
  | .ssubImm _ f => [.sdst f.sd, .ssrc f.sa]
  | .smulImm _ f => [.sdst f.sd, .ssrc f.sa]
  | .sandImm _ f => [.sdst f.sd, .ssrc f.sa]
  | .sorImm _ f => [.sdst f.sd, .ssrc f.sa]
  | .sxorImm _ f => [.sdst f.sd, .ssrc f.sa]
  | .sshlImm _ f => [.sdst f.sd, .ssrc f.sa]
  | .sshrImm _ f => [.sdst f.sd, .ssrc f.sa]
  | .scmpImm _ f => [.pdst9 f.sd, .ssrc f.sa]
  | .smovK _ f => [.sdst f.sd]
  | .rdsrScalar _ f => [.sdst f.sd]
  | .rdsrVector _ f => [.vdst (f.sd.extractLsb' 0 8) 1]
  | .sld _ f => [.sdst f.sd, .ssrc f.sa]
  | .ld _ f => [.vdst f.d (2 ^ f.cnt.toNat), .spair f.base, .vsrc f.idx 1]
  | .ldp _ f => [.vdst f.d 1, .spair f.base, .vsrc f.idx 1, .pdst4 (ldpPred f)]
  | .lds _ f => [.vdst f.d (2 ^ f.cnt.toNat), .ssrc f.base, .vsrc f.idx 1]
  | .ldfrag _ f => [.vdst f.d (2 ^ f.cnt.toNat), .slayout f.base]
  | .st _ f => [.vsrc f.d (2 ^ f.cnt.toNat), .spair f.base, .vsrc f.idx 1]
  | .sts _ f => [.vsrc f.d (2 ^ f.cnt.toNat), .ssrc f.base, .vsrc f.idx 1]
  | .atom _ f op => [.vdst f.d 1, .spair f.base, .vsrc f.idx 1, .vsrc f.b 1] ++ casSrc op f
  | .atoms _ f op => [.vdst f.d 1, .ssrc f.base, .vsrc f.idx 1, .vsrc f.b 1] ++ casSrc op f
  | .pref _ f => [.spair f.base, .vsrc f.idx 1]
  | .pgreq _ f => [.spair f.base, .vsrc f.idx 1]
  | .hflush _ f => [.spair f.f1, .ssrc f.f2]
  | .hinv _ f => [.spair f.f1, .ssrc f.f2]
  | .cwb _ f => [.spair f.f1, .ssrc f.f2]
  | .fence _ _ => []
  | .cpy _ f => cpyOpnds f
  | .cpyLw _ f => if cpyDir f == 0 then [.slayout f.f1, .spair f.f3, .ssrc f.f4] else [.spair f.f1, .ssrc f.f2, .slayout f.f3]
  | .cpyRing _ f => [.ssrc f.f1, .spair f.f2, .ssrc f.f3]
  | .cpyg _ f => [.ssrc f.f1, .spair f.f2, .ssrc f.f3, .ssrc f.f4]
  | .cpyb _ f => [if f.cl.getLsbD 0 then .spair f.f1 else .ssrc f.f1, .spair f.f2, .ssrc f.f3, .ssrc f.f4]
  | .bulk _ f => [.spair f.f1, if f.cl.getLsbD 2 then .ssrc f.f2 else .spair f.f2, .ssrc f.f3] ++ (if cpyDir f != 0 || f.cl.getLsbD 3 then [.ssrc f.f4] else [])
  | .stwait _ f => [.ssrc f.f1]
  | .strel _ f => [.ssrc f.f1]
  | .hand _ f => [.spair f.f1, .ssrc f.f2, .spair f.f3, .ssrc f.f4]
  | .take _ f => [.vdst (f.f1.extractLsb' 0 8) 1, .spair f.f2]
  | .send _ f => [if f.cl.getLsbD 0 then .ssrc f.f1 else .spair f.f1, .ssrc f.f2, .ssrc f.f3, .ssrc f.f4]
  | .post _ f => [.sdst f.f1, .sblock f.f2 8]
  | .rprobe _ f => [.sblockDst f.f1, .ssrc f.f2]
  | .rwait _ f => [.sblockDst f.f1, .ssrc f.f2]
  | .rcancel _ f => [.ssrc f.f1]
  | .acset _ f => [.sdst f.f1, .ssrc f.f2] ++ (if f.cl.getLsbD 4 then [.ssrc f.f3] else [])
  | .acwait _ _ => []
  | .mma _ f => [.acc f.d 1 (f.mode != 0), .cv f.a, .vsrc f.b fa, .vsrc f.c fb]
  | .mmac _ f => [.acc f.d 1 (f.mode != 0), .cv f.a, .acc f.b 1 false, .vsrc f.c fb]
  | .mproj _ f => [.acc f.d (shapeTiles f.mode) (f.mode != 0), .acc f.b 1 false, .vsrc f.c 1]
  | .accz _ f => [.acc f.d (shapeTiles f.mode) (f.mode != 0)]
  | .cvset _ f => [.cv f.a]
  | .accld _ f => [.acc f.d (shapeTiles (f.cl.extractLsb' 0 2)) (f.cl != 0), if f.space == 0 then .spair f.base else .ssrc f.base, .vsrc f.idx 1]
  | .accst _ f => [.acc f.d (shapeTiles (f.cl.extractLsb' 0 2)) (f.cl != 0), if f.space == 0 then .spair f.base else .ssrc f.base, .vsrc f.idx 1]
  | .witb _ f => [.ssrc f.f1] ++ (if witKind f == 0 then [.ssrc f.f2, .ssrc f.f3, .ssrc f.f4] else [])
  | .witp _ f => [.spair f.f1, .ssrc f.f2]
  | .wite _ f => [.sdst f.f1]
  | .gver _ f => [.ssrc f.f1, .sdst f.f2]
  | .br _ _ => []
  | .brc _ f => [.ssrc f.sa]
  | .call _ _ => []
  | .ret _ _ => []
  | .reform _ _ => []
  | .exit _ _ => []
  | .yield _ _ => []
  | .nop _ _ => []
  | .trap _ _ => []
  | .wait _ _ => []
  | .bar _ _ => []
  | .barx _ f => [.ssrc f.sa]
  | .launch _ f => [.spair f.f1, .ssrc f.f2]
  | .cancel _ f => [.ssrc f.f1]
  | .hcwait _ f => [.sdst f.f1, .ssrc f.f2, .ssrc f.f3]
  | .rdpr _ f => [.sdst f.sa]
  | .wrpr _ f => [.ssrc f.sa]
  | .tlbinv _ f => if f.prn == 0 then [.spair f.sa, .ssrc f.sb, .ssrc f.sc] else if f.prn == 1 then [.ssrc f.sc] else []
  | .sttinv _ f => [.ssrc f.sa, .ssrc f.sb]
  | .finj _ f => [.ssrc f.sa, .spair f.sb, .ssrc f.sc]
  | .halt _ f => [.ssrc f.sa]
  | .loadReturn _ _ => []
  | .storePerformed _ _ _ => []
  | .atomicReply _ => []
  | .poisonedReply _ => []
  | .parkedThreadRefile _ _ => []
  | .binDraw _ => []
  | .binAged _ => []
  | .groupDissolve _ _ => []
  | .matrixStepPerformed _ => []
  | .tileTransferPerformed _ => []
  | .sourceRangeReleased _ => []
  | .copyComplete _ => []
  | .ringSequenceLanded _ => []
  | .enginePageResident _ => []
  | .engineStop _ => []
  | .leaveGrant _ => []
  | .powerCreditRefill _ => []
  | .lineStalenessDrop _ => []
  | .bulkLineArrival _ => []
  | .bulkComplete _ => []
  | .reductionCombine _ _ _ => []
  | .fabricPacketArrival _ => []
  | .writeMerge _ => []
  | .flitReplay _ => []
  | .linkTakenDown _ => []
  | .tagFailure _ => []
  | .linkRekey _ => []
  | .peerAdmission _ _ => []
  | .messageHeaderArrival _ => []
  | .messageResend _ => []
  | .receiveLandingComplete _ _ => []
  | .landingAborted _ _ _ => []
  | .sendComplete _ _ => []
  | .ethFrameArrival _ => []
  | .ethRetransmit _ => []
  | .qtail _ _ _ => []
  | .queueConfigWrite _ _ _ _ => []
  | .peerDoorbell _ _ _ _ _ => []
  | .launchAccept _ _ => []
  | .gangPlacement _ _ => []
  | .workgroupEnd _ => []
  | .gangEnd _ => []
  | .preemptRequest _ => []
  | .copyRestartTimeout _ => []
  | .contextSaveComplete _ => []
  | .gangResume _ _ => []
  | .trapResume _ => []
  | .pageInComplete _ _ => []
  | .fqclose _ _ => []
  | .fqhead _ _ => []
  | .iodWriteAcknowledged _ => []
  | .hostApertureRead _ _ _ _ => []
  | .hostApertureWrite _ _ _ _ _ => []
  | .hostWindowAccess _ _ _ _ => []
  | .checkerEventReport _ _ => []
  | .scoreDecay => []
  | .witnessTestResult _ _ => []
  | .shadowRunComplete _ => []
  | .lockInterface _ => []
  | .startInterface _ => []
  | .stopInterface _ => []
  | .spdmMeasurementRequest => []
  | .firmwareActivationSwitch _ => []
  | .worldCreate _ => []
  | .worldDestroy _ => []
  | .gpolicy _ => []
  | .gtest _ => []
  | .ghaltrel _ => []
  | .grtdata _ => []
  | .gcgdata _ => []
  | .gprdata _ => []
  | .gpwrcap _ _ => []
  | .notifyWrite _ _ _ => []
  | .registerWrite _ _ => []
  | .fireRingBase _ => []
  | .fireRingSize _ => []
  | .fireRingHead _ => []
  | .endTestInjections _ => []
  | .thermalThrottle _ => []
  | .thermalShutdown _ => []
  | .aonRailLoss => []
  | .deepSleepEnter => []
  | .deepSleepWake => []
  | .coldStart _ => []
  | .warmStart _ _ => []
  | .warmReset _ => []
  | .linkSplitDecision _ => []
  | .unassignedEncoding _ => []
  | .driverCancel _ => []
  | .completionCounterWrite _ _ _ => []
  | .coolantOutletBelow65c _ => []

/-- `(!pt)` is the one guard that traps ILLEGAL (spec 03, R61). -/
def Guard.ok (g : Guard) : Bool := !(g.neg && g.p == 15)

/-- Every check made at decode, before any operand is read (spec 03, R61, R68, R70). -/
def Instr.legal (i : Instr) : Bool :=
  (match i.guard? with | some g => g.ok | none => true) && i.fieldsOk && (i.opnds 8 8).all Opnd.legal

/-- Vector registers an instruction reads or writes. -/
def Instr.vregs (fa fb : Nat) (i : Instr) : List Nat := (i.opnds fa fb).flatMap Opnd.vregs

/-- Predicates an instruction reads or writes, its guard included. -/
def Instr.preds (i : Instr) : List Nat :=
  (match i.guard? with | some g => if g.p == 15 then [] else [g.p.toNat] | none => []) ++ (i.opnds 8 8).flatMap Opnd.preds

end Sys2Proof
end

