-- ==== Sys2Proof/WellFormed.lean ====
section
/-! DEFINITION. Well-formed instructions: the operands and fields an instruction word may hold (spec 03, R61, R68, R70). -/

namespace Sys2Proof

/-- An instruction of the program that `decode` can answer: it has a guard (so it is no event) and passes the decode checks. -/
def Instr.wf (i : Instr) : Bool := i.guard?.isSome && i.legal

end Sys2Proof
end

