-- ==== Sys2Proof/Decode.lean ====
section
/-! DEFINITION. Decoding a word of code, total and rejecting by name, and the encoder (spec 03, R55 to R71). -/

namespace Sys2Proof

/-- Why a word is no instruction (spec 03, R59, R70, R71). -/
inductive DecodeError where
  /-- bits [63:57] hold 0x7F among a block's instructions -/
  | header
  /-- a primary opcode the map does not assign -/
  | opcode (op : Nat)
  /-- a sub-function the row does not assign -/
  | subFunction (op fn : Nat)
  /-- a register, modifier, class or reserved field of an assigned instruction holds an illegal value -/
  | field (i : Instr)
  deriving DecidableEq, Repr

/-! The layouts of bits [47:0]. -/

/-- Bits [47:0] read as layout V3. -/
def V3.unpack (p : BitVec 48) : V3 :=
  ⟨p.extractLsb' 40 8, p.extractLsb' 32 8, p.extractLsb' 24 8, p.extractLsb' 16 8, p.extractLsb' 13 3, p.extractLsb' 10 3, p.extractLsb' 8 2, p.extractLsb' 0 8⟩

/-- Layout V3 as bits [47:0]. -/
def V3.pack (f : V3) : BitVec 48 :=
  f.d ++ f.a ++ f.b ++ f.c ++ f.slot ++ f.rs ++ f.ty ++ f.cl

/-- Bits [47:0] read as layout V3S. -/
def V3S.unpack (p : BitVec 48) : V3S :=
  ⟨p.extractLsb' 40 8, p.extractLsb' 32 8, p.extractLsb' 24 8, p.extractLsb' 15 9, p.extractLsb' 10 5, p.extractLsb' 8 2, p.extractLsb' 0 8⟩

/-- Layout V3S as bits [47:0]. -/
def V3S.pack (f : V3S) : BitVec 48 :=
  f.d ++ f.a ++ f.b ++ f.s ++ f.rsv ++ f.ty ++ f.cl

/-- Bits [47:0] read as layout VI. -/
def VI.unpack (p : BitVec 48) : VI :=
  ⟨p.extractLsb' 40 8, p.extractLsb' 32 8, p.extractLsb' 0 32⟩

/-- Layout VI as bits [47:0]. -/
def VI.pack (f : VI) : BitVec 48 :=
  f.d ++ f.a ++ f.imm

/-- Bits [47:0] read as layout SR. -/
def SR.unpack (p : BitVec 48) : SR :=
  ⟨p.extractLsb' 39 9, p.extractLsb' 30 9, p.extractLsb' 21 9, p.extractLsb' 12 9, p.extractLsb' 10 2, p.extractLsb' 8 2, p.extractLsb' 0 8⟩

/-- Layout SR as bits [47:0]. -/
def SR.pack (f : SR) : BitVec 48 :=
  f.sd ++ f.sa ++ f.sb ++ f.sc ++ f.rsv ++ f.ty ++ f.cl

/-- Bits [47:0] read as layout SI. -/
def SI.unpack (p : BitVec 48) : SI :=
  ⟨p.extractLsb' 39 9, p.extractLsb' 30 9, p.extractLsb' 0 30⟩

/-- Layout SI as bits [47:0]. -/
def SI.pack (f : SI) : BitVec 48 :=
  f.sd ++ f.sa ++ f.imm

/-- Bits [47:0] read as layout SK. -/
def SK.unpack (p : BitVec 48) : SK :=
  ⟨p.extractLsb' 39 9, p.extractLsb' 32 7, p.extractLsb' 0 32⟩

/-- Layout SK as bits [47:0]. -/
def SK.pack (f : SK) : BitVec 48 :=
  f.sd ++ f.rsv ++ f.imm

/-- Bits [47:0] read as layout FM. -/
def FM.unpack (p : BitVec 48) : FM :=
  ⟨p.extractLsb' 40 8, p.extractLsb' 31 9, p.extractLsb' 23 8, p.extractLsb' 10 13, p.extractLsb' 8 2, p.extractLsb' 6 2, p.extractLsb' 5 1, p.extractLsb' 3 2, p.extractLsb' 0 3⟩

/-- Layout FM as bits [47:0]. -/
def FM.pack (f : FM) : BitVec 48 :=
  f.d ++ f.base ++ f.idx ++ f.disp ++ f.sz ++ f.cnt ++ f.sx ++ f.ord ++ f.scope

/-- Bits [47:0] read as layout FMA. -/
def FMA.unpack (p : BitVec 48) : FMA :=
  ⟨p.extractLsb' 40 8, p.extractLsb' 31 9, p.extractLsb' 23 8, p.extractLsb' 15 8, p.extractLsb' 7 8, p.extractLsb' 5 2, p.extractLsb' 2 3, p.extractLsb' 0 2⟩

/-- Layout FMA as bits [47:0]. -/
def FMA.pack (f : FMA) : BitVec 48 :=
  f.d ++ f.base ++ f.idx ++ f.b ++ f.c ++ f.ord ++ f.scope ++ f.ty

/-- Bits [47:0] read as layout FMC. -/
def FMC.unpack (p : BitVec 48) : FMC :=
  ⟨p.extractLsb' 39 9, p.extractLsb' 30 9, p.extractLsb' 21 9, p.extractLsb' 12 9, p.extractLsb' 0 12⟩

/-- Layout FMC as bits [47:0]. -/
def FMC.pack (f : FMC) : BitVec 48 :=
  f.f1 ++ f.f2 ++ f.f3 ++ f.f4 ++ f.cl

/-- Bits [47:0] read as layout FT. -/
def FT.unpack (p : BitVec 48) : FT :=
  ⟨p.extractLsb' 40 8, p.extractLsb' 32 8, p.extractLsb' 24 8, p.extractLsb' 16 8, p.extractLsb' 13 3, p.extractLsb' 10 3, p.extractLsb' 8 2, p.extractLsb' 6 2, p.extractLsb' 0 6⟩

/-- Layout FT as bits [47:0]. -/
def FT.pack (f : FT) : BitVec 48 :=
  f.d ++ f.a ++ f.b ++ f.c ++ f.slot ++ f.rs ++ f.rsv ++ f.mode ++ f.cl

/-- Bits [47:0] read as layout FTM. -/
def FTM.unpack (p : BitVec 48) : FTM :=
  ⟨p.extractLsb' 40 8, p.extractLsb' 31 9, p.extractLsb' 23 8, p.extractLsb' 10 13, p.extractLsb' 8 2, p.extractLsb' 0 8⟩

/-- Layout FTM as bits [47:0]. -/
def FTM.pack (f : FTM) : BitVec 48 :=
  f.d ++ f.base ++ f.idx ++ f.disp ++ f.space ++ f.cl

/-- Bits [47:0] read as layout FC. -/
def FC.unpack (p : BitVec 48) : FC :=
  ⟨p.extractLsb' 39 9, p.extractLsb' 32 7, p.extractLsb' 0 32⟩

/-- Layout FC as bits [47:0]. -/
def FC.pack (f : FC) : BitVec 48 :=
  f.sa ++ f.rsv ++ f.imm

/-- Bits [47:0] read as layout FY. -/
def FY.unpack (p : BitVec 48) : FY :=
  ⟨p.extractLsb' 39 9, p.extractLsb' 30 9, p.extractLsb' 21 9, p.extractLsb' 16 5, p.extractLsb' 0 16⟩

/-- Layout FY as bits [47:0]. -/
def FY.pack (f : FY) : BitVec 48 :=
  f.sa ++ f.sb ++ f.sc ++ f.rsv ++ f.prn

/-- The guard field, bits [52:48] (spec 03, R60). -/
def Guard.unpack (w : Code) : Guard := ⟨w.getLsbD 52, w.extractLsb' 48 4⟩

/-- OP, FN and guard above a layout (spec 03, R60). -/
def packWord (op : BitVec 7) (fn : BitVec 4) (g : Guard) (p : BitVec 48) : Code :=
  op ++ fn ++ BitVec.ofBool g.neg ++ g.p ++ p

/-- FN of a reduction (spec 03, R71). -/
def ReduxOp.fn : ReduxOp → BitVec 4
  | .add => 0 | .min => 1 | .max => 2 | .and => 3 | .or => 4 | .xor => 5 | .fadd => 6 | .fmin => 7 | .fmax => 8

/-- The reduction of a sub-function. -/
def ReduxOp.ofFn : Nat → Option ReduxOp
  | 0 => some .add | 1 => some .min | 2 => some .max | 3 => some .and | 4 => some .or | 5 => some .xor
  | 6 => some .fadd | 7 => some .fmin | 8 => some .fmax | _ => none

/-- FN of an atomic (spec 08, R205). -/
def AtomOp.fn : AtomOp → BitVec 4
  | .add => 0 | .sub => 1 | .min => 2 | .max => 3 | .and => 4 | .or => 5 | .xor => 6 | .exch => 7 | .cas => 8

/-- The atomic operation of a sub-function. -/
def AtomOp.ofFn : Nat → Option AtomOp
  | 0 => some .add | 1 => some .sub | 2 => some .min | 3 => some .max | 4 => some .and | 5 => some .or
  | 6 => some .xor | 7 => some .exch | 8 => some .cas | _ => none

/-- An answer, or the name of an unassigned sub-function. -/
def orSub (op fn : Nat) : Option Instr → Except DecodeError Instr
  | some i => .ok i
  | none => .error (.subFunction op fn)

/-! One decoder for each primary opcode (spec 03, R71). -/

/-- Opcode 0x01. -/
def decode01 (g : Guard) (p : BitVec 48) (fn : Nat) : Option Instr :=
  let f := V3.unpack p
  match fn with
  | 0 => some (.add g f)
  | 1 => some (.sub g f)
  | 2 => some (.mul g f)
  | 3 => some (.mulhi g f)
  | 4 => some (.mad g f)
  | 5 => some (.min g f)
  | 6 => some (.max g f)
  | 7 => some (.abs g f)
  | 8 => some (.neg g f)
  | 9 => some (.addc g f)
  | 10 => some (.subb g f)
  | 11 => some (.lea g f)
  | _ => none

/-- Opcode 0x02. -/
def decode02 (g : Guard) (p : BitVec 48) (fn : Nat) : Option Instr :=
  let f := V3.unpack p
  match fn with
  | 0 => some (.and g f)
  | 1 => some (.or g f)
  | 2 => some (.xor g f)
  | 3 => some (.not g f)
  | 4 => some (.shl g f)
  | 5 => some (.shr g f)
  | 6 => some (.sar g f)
  | 7 => some (.rot g f)
  | 8 => some (.popc g f)
  | 9 => some (.clz g f)
  | 10 => some (.ctz g f)
  | 11 => some (.brev g f)
  | 12 => some (.bfe g f)
  | 13 => some (.bfi g f)
  | 14 => some (.sel g f)
  | 15 => some (.cmp g f)
  | _ => none

/-- Opcode 0x03. -/
def decode03 (g : Guard) (p : BitVec 48) (fn : Nat) : Option Instr :=
  let f := VI.unpack p
  match fn with
  | 0 => some (.addImm g f)
  | 1 => some (.subImm g f)
  | 2 => some (.mulImm g f)
  | 3 => some (.minImm g f false)
  | 4 => some (.minImm g f true)
  | 5 => some (.maxImm g f false)
  | 6 => some (.maxImm g f true)
  | 7 => some (.andImm g f)
  | 8 => some (.orImm g f)
  | 9 => some (.xorImm g f)
  | 10 => some (.shlImm g f)
  | 11 => some (.shrImm g f)
  | 12 => some (.sarImm g f)
  | 13 => some (.rotImm g f)
  | _ => none

/-- Opcode 0x04. -/
def decode04 (g : Guard) (p : BitVec 48) (fn : Nat) : Option Instr :=
  let f := VI.unpack p
  if fn < 12 then some (.cmpImm g f (BitVec.ofNat 3 (fn / 2)) (fn % 2 == 1)) else none

/-- Opcode 0x05. -/
def decode05 (g : Guard) (p : BitVec 48) (fn : Nat) : Option Instr :=
  let f := VI.unpack p
  match fn with
  | 0 => some (.movi g f)
  | _ => none

/-- Opcode 0x06. -/
def decode06 (g : Guard) (p : BitVec 48) (fn : Nat) : Option Instr :=
  let f := V3.unpack p
  match fn with
  | 0 => some (.mov g f)
  | _ => none

/-- Opcode 0x07. -/
def decode07 (g : Guard) (p : BitVec 48) (fn : Nat) : Option Instr :=
  let f := V3S.unpack p
  match fn with
  | 0 => some (.movs g f)
  | _ => none

/-- Opcode 0x08. -/
def decode08 (g : Guard) (p : BitVec 48) (fn : Nat) : Option Instr :=
  let f := V3.unpack p
  match fn with
  | 0 => some (.fadd g f)
  | 1 => some (.fsub g f)
  | 2 => some (.fmul g f)
  | 3 => some (.fma g f)
  | 4 => some (.fmin g f)
  | 5 => some (.fmax g f)
  | 6 => some (.fcmp g f)
  | 7 => some (.fclass g f)
  | 8 => some (.frnd g f)
  | _ => none

/-- Opcode 0x09. -/
def decode09 (g : Guard) (p : BitVec 48) (fn : Nat) : Option Instr :=
  let f := V3.unpack p
  match fn with
  | 0 => some (.frcp g f)
  | 1 => some (.frsq g f)
  | 2 => some (.fsqrt g f)
  | 3 => some (.fex2 g f)
  | 4 => some (.flg2 g f)
  | 5 => some (.fsin g f)
  | 6 => some (.fcos g f)
  | _ => none

/-- Opcode 0x0A. -/
def decode0A (g : Guard) (p : BitVec 48) (fn : Nat) : Option Instr :=
  let f := VI.unpack p
  match fn with
  | 0 => some (.faddImm g f)
  | 1 => some (.fsubImm g f)
  | 2 => some (.fmulImm g f)
  | 3 => some (.fminImm g f)
  | 4 => some (.fmaxImm g f)
  | _ => none

/-- Opcode 0x0B. -/
def decode0B (g : Guard) (p : BitVec 48) (fn : Nat) : Option Instr :=
  let f := V3.unpack p
  match fn with
  | 0 => some (.cvt g f)
  | 1 => some (.pack g f)
  | 2 => some (.unpack g f)
  | 3 => some (.scl g f)
  | _ => none

/-- Opcode 0x10. -/
def decode10 (g : Guard) (p : BitVec 48) (fn : Nat) : Option Instr :=
  let f := V3S.unpack p
  match fn with
  | 0 => some (.shflIdx g f)
  | 1 => some (.shflUp g f)
  | 2 => some (.shflDown g f)
  | 3 => some (.shflXor g f)
  | 4 => some (.voteAll g f)
  | 5 => some (.voteAny g f)
  | 6 => some (.voteBallot g f)
  | 7 => some (.matchAny g f)
  | 8 => some (.matchAll g f)
  | 9 => some (.bcast g f)
  | 10 => some (.gscan g f)
  | 11 => some (.minidx g f)
  | 12 => some (.maxidx g f)
  | _ => none

/-- Opcode 0x11. -/
def decode11 (g : Guard) (p : BitVec 48) (fn : Nat) : Option Instr :=
  let f := V3S.unpack p
  (ReduxOp.ofFn fn).map (Instr.redux g f)

/-- Opcode 0x18. -/
def decode18 (g : Guard) (p : BitVec 48) (fn : Nat) : Option Instr :=
  let f := SR.unpack p
  match fn with
  | 0 => some (.sadd g f)
  | 1 => some (.ssub g f)
  | 2 => some (.smul g f)
  | 3 => some (.sand g f)
  | 4 => some (.sor g f)
  | 5 => some (.sxor g f)
  | 6 => some (.sshl g f)
  | 7 => some (.sshr g f)
  | 8 => some (.smov g f)
  | 9 => some (.scmp g f)
  | _ => none

/-- Opcode 0x19. -/
def decode19 (g : Guard) (p : BitVec 48) (fn : Nat) : Option Instr :=
  let f := SI.unpack p
  match fn with
  | 0 => some (.saddImm g f)
  | 1 => some (.ssubImm g f)
  | 2 => some (.smulImm g f)
  | 3 => some (.sandImm g f)
  | 4 => some (.sorImm g f)
  | 5 => some (.sxorImm g f)
  | 6 => some (.sshlImm g f)
  | 7 => some (.sshrImm g f)
  | 9 => some (.scmpImm g f)
  | _ => none

/-- Opcode 0x1A. -/
def decode1A (g : Guard) (p : BitVec 48) (fn : Nat) : Option Instr :=
  let f := SK.unpack p
  match fn with
  | 0 => some (.smovK g f)
  | _ => none

/-- Opcode 0x1B. -/
def decode1B (g : Guard) (p : BitVec 48) (fn : Nat) : Option Instr :=
  let f := SR.unpack p
  match fn with
  | 0 => some (.rdsrScalar g f)
  | 1 => some (.rdsrVector g f)
  | _ => none

/-- Opcode 0x1C. -/
def decode1C (g : Guard) (p : BitVec 48) (fn : Nat) : Option Instr :=
  let f := SI.unpack p
  match fn with
  | 0 => some (.sld g f)
  | _ => none

/-- Opcode 0x20. -/
def decode20 (g : Guard) (p : BitVec 48) (fn : Nat) : Option Instr :=
  let f := FM.unpack p
  match fn with
  | 0 => some (.ld g f)
  | 1 => some (.ldp g f)
  | 2 => some (.lds g f)
  | 3 => some (.ldfrag g f)
  | _ => none

/-- Opcode 0x21. -/
def decode21 (g : Guard) (p : BitVec 48) (fn : Nat) : Option Instr :=
  let f := FM.unpack p
  match fn with
  | 0 => some (.st g f)
  | 1 => some (.sts g f)
  | _ => none

/-- Opcode 0x22. -/
def decode22 (g : Guard) (p : BitVec 48) (fn : Nat) : Option Instr :=
  let f := FMA.unpack p
  (AtomOp.ofFn fn).map (Instr.atom g f)

/-- Opcode 0x23. -/
def decode23 (g : Guard) (p : BitVec 48) (fn : Nat) : Option Instr :=
  let f := FMA.unpack p
  (AtomOp.ofFn fn).map (Instr.atoms g f)

/-- Opcode 0x24. -/
def decode24 (g : Guard) (p : BitVec 48) (fn : Nat) : Option Instr :=
  let f := FM.unpack p
  match fn with
  | 0 => some (.pref g f)
  | 1 => some (.pgreq g f)
  | _ => none

/-- Opcode 0x25. -/
def decode25 (g : Guard) (p : BitVec 48) (fn : Nat) : Option Instr :=
  let f := FMC.unpack p
  match fn with
  | 0 => some (.hflush g f)
  | 1 => some (.hinv g f)
  | 2 => some (.cwb g f)
  | _ => none

/-- Opcode 0x27. -/
def decode27 (g : Guard) (p : BitVec 48) (fn : Nat) : Option Instr :=
  let f := FC.unpack p
  match fn with
  | 0 => some (.fence g f)
  | _ => none

/-- Opcode 0x28. -/
def decode28 (g : Guard) (p : BitVec 48) (fn : Nat) : Option Instr :=
  let f := FMC.unpack p
  match fn with
  | 0 => some (if f.cl.getLsbD 3 then .cpyLw g f else .cpy g f)
  | 1 => some (.cpyRing g f)
  | 2 => some (.cpyg g f)
  | 3 => some (.cpyb g f)
  | 4 => some (.bulk g f)
  | _ => none

/-- Opcode 0x29. -/
def decode29 (g : Guard) (p : BitVec 48) (fn : Nat) : Option Instr :=
  let f := FMC.unpack p
  match fn with
  | 0 => some (.stwait g f)
  | 1 => some (.strel g f)
  | _ => none

/-- Opcode 0x2A. -/
def decode2A (g : Guard) (p : BitVec 48) (fn : Nat) : Option Instr :=
  let f := FMC.unpack p
  match fn with
  | 0 => some (.hand g f)
  | 1 => some (.take g f)
  | _ => none

/-- Opcode 0x2B. -/
def decode2B (g : Guard) (p : BitVec 48) (fn : Nat) : Option Instr :=
  let f := FMC.unpack p
  match fn with
  | 0 => some (.send g f)
  | 1 => some (.post g f)
  | 2 => some (.rprobe g f)
  | 3 => some (.rwait g f)
  | 4 => some (.rcancel g f)
  | _ => none

/-- Opcode 0x2C. -/
def decode2C (g : Guard) (p : BitVec 48) (fn : Nat) : Option Instr :=
  let f := FMC.unpack p
  match fn with
  | 0 => some (.acset g f)
  | 1 => some (.acwait g f)
  | _ => none

/-- Opcode 0x30. -/
def decode30 (g : Guard) (p : BitVec 48) (fn : Nat) : Option Instr :=
  let f := FT.unpack p
  match fn with
  | 0 => some (.mma g f)
  | 1 => some (.mmac g f)
  | 2 => some (.mproj g f)
  | 3 => some (.accz g f)
  | 4 => some (.cvset g f)
  | _ => none

/-- Opcode 0x31. -/
def decode31 (g : Guard) (p : BitVec 48) (fn : Nat) : Option Instr :=
  let f := FTM.unpack p
  match fn with
  | 0 => some (.accld g f)
  | 1 => some (.accst g f)
  | _ => none

/-- Opcode 0x38. -/
def decode38 (g : Guard) (p : BitVec 48) (fn : Nat) : Option Instr :=
  let f := FMC.unpack p
  match fn with
  | 0 => some (.witb g f)
  | 1 => some (.witp g f)
  | 2 => some (.wite g f)
  | 3 => some (.gver g f)
  | _ => none

/-- Opcode 0x50. -/
def decode50 (g : Guard) (p : BitVec 48) (fn : Nat) : Option Instr :=
  let f := FC.unpack p
  match fn with
  | 0 => some (.br g f)
  | 1 => some (.brc g f)
  | 2 => some (.call g f)
  | 3 => some (.ret g f)
  | 4 => some (.reform g f)
  | 5 => some (.exit g f)
  | 6 => some (.yield g f)
  | 7 => some (.nop g f)
  | 8 => some (.trap g f)
  | 9 => some (.wait g f)
  | _ => none

/-- Opcode 0x51. -/
def decode51 (g : Guard) (p : BitVec 48) (fn : Nat) : Option Instr :=
  let f := FC.unpack p
  match fn with
  | 0 => some (.bar g f)
  | 1 => some (.barx g f)
  | _ => none

/-- Opcode 0x52. -/
def decode52 (g : Guard) (p : BitVec 48) (fn : Nat) : Option Instr :=
  let f := FMC.unpack p
  match fn with
  | 0 => some (.launch g f)
  | 1 => some (.cancel g f)
  | 2 => some (.hcwait g f)
  | _ => none

/-- Opcode 0x70. -/
def decode70 (g : Guard) (p : BitVec 48) (fn : Nat) : Option Instr :=
  let f := FY.unpack p
  match fn with
  | 0 => some (.rdpr g f)
  | 1 => some (.wrpr g f)
  | 2 => some (.tlbinv g f)
  | 3 => some (.sttinv g f)
  | 4 => some (.finj g f)
  | 5 => some (.halt g f)
  | _ => none

/-- The instruction a word's fields name, before the checks of R68 and R70. -/
def decodeFields (w : Code) : Except DecodeError Instr :=
  let op := (w.extractLsb' 57 7).toNat
  let fn := (w.extractLsb' 53 4).toNat
  let g := Guard.unpack w
  let p := w.extractLsb' 0 48
  match op with
  | 0x01 => orSub op fn (decode01 g p fn)
  | 0x02 => orSub op fn (decode02 g p fn)
  | 0x03 => orSub op fn (decode03 g p fn)
  | 0x04 => orSub op fn (decode04 g p fn)
  | 0x05 => orSub op fn (decode05 g p fn)
  | 0x06 => orSub op fn (decode06 g p fn)
  | 0x07 => orSub op fn (decode07 g p fn)
  | 0x08 => orSub op fn (decode08 g p fn)
  | 0x09 => orSub op fn (decode09 g p fn)
  | 0x0A => orSub op fn (decode0A g p fn)
  | 0x0B => orSub op fn (decode0B g p fn)
  | 0x10 => orSub op fn (decode10 g p fn)
  | 0x11 => orSub op fn (decode11 g p fn)
  | 0x18 => orSub op fn (decode18 g p fn)
  | 0x19 => orSub op fn (decode19 g p fn)
  | 0x1A => orSub op fn (decode1A g p fn)
  | 0x1B => orSub op fn (decode1B g p fn)
  | 0x1C => orSub op fn (decode1C g p fn)
  | 0x20 => orSub op fn (decode20 g p fn)
  | 0x21 => orSub op fn (decode21 g p fn)
  | 0x22 => orSub op fn (decode22 g p fn)
  | 0x23 => orSub op fn (decode23 g p fn)
  | 0x24 => orSub op fn (decode24 g p fn)
  | 0x25 => orSub op fn (decode25 g p fn)
  | 0x27 => orSub op fn (decode27 g p fn)
  | 0x28 => orSub op fn (decode28 g p fn)
  | 0x29 => orSub op fn (decode29 g p fn)
  | 0x2A => orSub op fn (decode2A g p fn)
  | 0x2B => orSub op fn (decode2B g p fn)
  | 0x2C => orSub op fn (decode2C g p fn)
  | 0x30 => orSub op fn (decode30 g p fn)
  | 0x31 => orSub op fn (decode31 g p fn)
  | 0x38 => orSub op fn (decode38 g p fn)
  | 0x50 => orSub op fn (decode50 g p fn)
  | 0x51 => orSub op fn (decode51 g p fn)
  | 0x52 => orSub op fn (decode52 g p fn)
  | 0x70 => orSub op fn (decode70 g p fn)
  | 0x7F => .error .header
  | _ => .error (.opcode op)

/-- Decodes one word of code; every word is an instruction or is rejected by name (spec 03, R59, R70, R71). -/
def decode (w : Code) : Except DecodeError Instr :=
  match decodeFields w with
  | .ok i => if i.legal then .ok i else .error (.field i)
  | .error e => .error e

/-- Bytes read little-endian (spec 03, R55). -/
def leWord : List Byte → Nat
  | [] => 0
  | b :: bs => b.toNat + 256 * leWord bs

/-- The low `n` bytes of a number, little-endian. -/
def leBytes : Nat → Nat → List Byte
  | 0, _ => []
  | n + 1, x => BitVec.ofNat 8 x :: leBytes n (x / 256)

/-- Decodes the eight bytes at a code address. -/
def decodeBytes (bs : List Byte) : Except DecodeError Instr := decode (BitVec.ofNat 64 (leWord bs))

/-- The table's question: the one 64-bit word of an instruction, laid out as memory stores it. -/
def decodeTableWord (_nbits w : Nat) : Option Instr := (decodeBytes (leBytes 8 w)).toOption

/-- The word of an instruction; an event has none (spec 03, R60 to R71). -/
def encode : Instr → Option Code
  | .add g f => some (packWord 0x01 0 g f.pack)
  | .sub g f => some (packWord 0x01 1 g f.pack)
  | .mul g f => some (packWord 0x01 2 g f.pack)
  | .mulhi g f => some (packWord 0x01 3 g f.pack)
  | .mad g f => some (packWord 0x01 4 g f.pack)
  | .min g f => some (packWord 0x01 5 g f.pack)
  | .max g f => some (packWord 0x01 6 g f.pack)
  | .abs g f => some (packWord 0x01 7 g f.pack)
  | .neg g f => some (packWord 0x01 8 g f.pack)
  | .addc g f => some (packWord 0x01 9 g f.pack)
  | .subb g f => some (packWord 0x01 10 g f.pack)
  | .lea g f => some (packWord 0x01 11 g f.pack)
  | .and g f => some (packWord 0x02 0 g f.pack)
  | .or g f => some (packWord 0x02 1 g f.pack)
  | .xor g f => some (packWord 0x02 2 g f.pack)
  | .not g f => some (packWord 0x02 3 g f.pack)
  | .shl g f => some (packWord 0x02 4 g f.pack)
  | .shr g f => some (packWord 0x02 5 g f.pack)
  | .sar g f => some (packWord 0x02 6 g f.pack)
  | .rot g f => some (packWord 0x02 7 g f.pack)
  | .popc g f => some (packWord 0x02 8 g f.pack)
  | .clz g f => some (packWord 0x02 9 g f.pack)
  | .ctz g f => some (packWord 0x02 10 g f.pack)
  | .brev g f => some (packWord 0x02 11 g f.pack)
  | .bfe g f => some (packWord 0x02 12 g f.pack)
  | .bfi g f => some (packWord 0x02 13 g f.pack)
  | .sel g f => some (packWord 0x02 14 g f.pack)
  | .cmp g f => some (packWord 0x02 15 g f.pack)
  | .addImm g f => some (packWord 0x03 0 g f.pack)
  | .subImm g f => some (packWord 0x03 1 g f.pack)
  | .mulImm g f => some (packWord 0x03 2 g f.pack)
  | .minImm g f u => some (packWord 0x03 (if u then 4 else 3) g f.pack)
  | .maxImm g f u => some (packWord 0x03 (if u then 6 else 5) g f.pack)
  | .andImm g f => some (packWord 0x03 7 g f.pack)
  | .orImm g f => some (packWord 0x03 8 g f.pack)
  | .xorImm g f => some (packWord 0x03 9 g f.pack)
  | .shlImm g f => some (packWord 0x03 10 g f.pack)
  | .shrImm g f => some (packWord 0x03 11 g f.pack)
  | .sarImm g f => some (packWord 0x03 12 g f.pack)
  | .rotImm g f => some (packWord 0x03 13 g f.pack)
  | .cmpImm g f cond u => some (packWord 0x04 (cond ++ BitVec.ofBool u) g f.pack)
  | .mov g f => some (packWord 0x06 0 g f.pack)
  | .movi g f => some (packWord 0x05 0 g f.pack)
  | .movs g f => some (packWord 0x07 0 g f.pack)
  | .fadd g f => some (packWord 0x08 0 g f.pack)
  | .fsub g f => some (packWord 0x08 1 g f.pack)
  | .fmul g f => some (packWord 0x08 2 g f.pack)
  | .fma g f => some (packWord 0x08 3 g f.pack)
  | .fmin g f => some (packWord 0x08 4 g f.pack)
  | .fmax g f => some (packWord 0x08 5 g f.pack)
  | .fcmp g f => some (packWord 0x08 6 g f.pack)
  | .fclass g f => some (packWord 0x08 7 g f.pack)
  | .frnd g f => some (packWord 0x08 8 g f.pack)
  | .frcp g f => some (packWord 0x09 0 g f.pack)
  | .frsq g f => some (packWord 0x09 1 g f.pack)
  | .fsqrt g f => some (packWord 0x09 2 g f.pack)
  | .fex2 g f => some (packWord 0x09 3 g f.pack)
  | .flg2 g f => some (packWord 0x09 4 g f.pack)
  | .fsin g f => some (packWord 0x09 5 g f.pack)
  | .fcos g f => some (packWord 0x09 6 g f.pack)
  | .faddImm g f => some (packWord 0x0A 0 g f.pack)
  | .fsubImm g f => some (packWord 0x0A 1 g f.pack)
  | .fmulImm g f => some (packWord 0x0A 2 g f.pack)
  | .fminImm g f => some (packWord 0x0A 3 g f.pack)
  | .fmaxImm g f => some (packWord 0x0A 4 g f.pack)
  | .cvt g f => some (packWord 0x0B 0 g f.pack)
  | .pack g f => some (packWord 0x0B 1 g f.pack)
  | .unpack g f => some (packWord 0x0B 2 g f.pack)
  | .scl g f => some (packWord 0x0B 3 g f.pack)
  | .shflIdx g f => some (packWord 0x10 0 g f.pack)
  | .shflUp g f => some (packWord 0x10 1 g f.pack)
  | .shflDown g f => some (packWord 0x10 2 g f.pack)
  | .shflXor g f => some (packWord 0x10 3 g f.pack)
  | .voteAll g f => some (packWord 0x10 4 g f.pack)
  | .voteAny g f => some (packWord 0x10 5 g f.pack)
  | .voteBallot g f => some (packWord 0x10 6 g f.pack)
  | .matchAny g f => some (packWord 0x10 7 g f.pack)
  | .matchAll g f => some (packWord 0x10 8 g f.pack)
  | .bcast g f => some (packWord 0x10 9 g f.pack)
  | .gscan g f => some (packWord 0x10 10 g f.pack)
  | .minidx g f => some (packWord 0x10 11 g f.pack)
  | .maxidx g f => some (packWord 0x10 12 g f.pack)
  | .redux g f op => some (packWord 0x11 op.fn g f.pack)
  | .sadd g f => some (packWord 0x18 0 g f.pack)
  | .ssub g f => some (packWord 0x18 1 g f.pack)
  | .smul g f => some (packWord 0x18 2 g f.pack)
  | .sand g f => some (packWord 0x18 3 g f.pack)
  | .sor g f => some (packWord 0x18 4 g f.pack)
  | .sxor g f => some (packWord 0x18 5 g f.pack)
  | .sshl g f => some (packWord 0x18 6 g f.pack)
  | .sshr g f => some (packWord 0x18 7 g f.pack)
  | .smov g f => some (packWord 0x18 8 g f.pack)
  | .scmp g f => some (packWord 0x18 9 g f.pack)
  | .saddImm g f => some (packWord 0x19 0 g f.pack)
  | .ssubImm g f => some (packWord 0x19 1 g f.pack)
  | .smulImm g f => some (packWord 0x19 2 g f.pack)
  | .sandImm g f => some (packWord 0x19 3 g f.pack)
  | .sorImm g f => some (packWord 0x19 4 g f.pack)
  | .sxorImm g f => some (packWord 0x19 5 g f.pack)
  | .sshlImm g f => some (packWord 0x19 6 g f.pack)
  | .sshrImm g f => some (packWord 0x19 7 g f.pack)
  | .scmpImm g f => some (packWord 0x19 9 g f.pack)
  | .smovK g f => some (packWord 0x1A 0 g f.pack)
  | .rdsrScalar g f => some (packWord 0x1B 0 g f.pack)
  | .rdsrVector g f => some (packWord 0x1B 1 g f.pack)
  | .sld g f => some (packWord 0x1C 0 g f.pack)
  | .ld g f => some (packWord 0x20 0 g f.pack)
  | .ldp g f => some (packWord 0x20 1 g f.pack)
  | .lds g f => some (packWord 0x20 2 g f.pack)
  | .ldfrag g f => some (packWord 0x20 3 g f.pack)
  | .st g f => some (packWord 0x21 0 g f.pack)
  | .sts g f => some (packWord 0x21 1 g f.pack)
  | .atom g f op => some (packWord 0x22 op.fn g f.pack)
  | .atoms g f op => some (packWord 0x23 op.fn g f.pack)
  | .pref g f => some (packWord 0x24 0 g f.pack)
  | .pgreq g f => some (packWord 0x24 1 g f.pack)
  | .hflush g f => some (packWord 0x25 0 g f.pack)
  | .hinv g f => some (packWord 0x25 1 g f.pack)
  | .cwb g f => some (packWord 0x25 2 g f.pack)
  | .fence g f => some (packWord 0x27 0 g f.pack)
  | .cpy g f => some (packWord 0x28 0 g f.pack)
  | .cpyLw g f => some (packWord 0x28 0 g f.pack)
  | .cpyRing g f => some (packWord 0x28 1 g f.pack)
  | .cpyg g f => some (packWord 0x28 2 g f.pack)
  | .cpyb g f => some (packWord 0x28 3 g f.pack)
  | .bulk g f => some (packWord 0x28 4 g f.pack)
  | .stwait g f => some (packWord 0x29 0 g f.pack)
  | .strel g f => some (packWord 0x29 1 g f.pack)
  | .hand g f => some (packWord 0x2A 0 g f.pack)
  | .take g f => some (packWord 0x2A 1 g f.pack)
  | .send g f => some (packWord 0x2B 0 g f.pack)
  | .post g f => some (packWord 0x2B 1 g f.pack)
  | .rprobe g f => some (packWord 0x2B 2 g f.pack)
  | .rwait g f => some (packWord 0x2B 3 g f.pack)
  | .rcancel g f => some (packWord 0x2B 4 g f.pack)
  | .acset g f => some (packWord 0x2C 0 g f.pack)
  | .acwait g f => some (packWord 0x2C 1 g f.pack)
  | .mma g f => some (packWord 0x30 0 g f.pack)
  | .mmac g f => some (packWord 0x30 1 g f.pack)
  | .mproj g f => some (packWord 0x30 2 g f.pack)
  | .accz g f => some (packWord 0x30 3 g f.pack)
  | .cvset g f => some (packWord 0x30 4 g f.pack)
  | .accld g f => some (packWord 0x31 0 g f.pack)
  | .accst g f => some (packWord 0x31 1 g f.pack)
  | .witb g f => some (packWord 0x38 0 g f.pack)
  | .witp g f => some (packWord 0x38 1 g f.pack)
  | .wite g f => some (packWord 0x38 2 g f.pack)
  | .gver g f => some (packWord 0x38 3 g f.pack)
  | .br g f => some (packWord 0x50 0 g f.pack)
  | .brc g f => some (packWord 0x50 1 g f.pack)
  | .call g f => some (packWord 0x50 2 g f.pack)
  | .ret g f => some (packWord 0x50 3 g f.pack)
  | .reform g f => some (packWord 0x50 4 g f.pack)
  | .exit g f => some (packWord 0x50 5 g f.pack)
  | .yield g f => some (packWord 0x50 6 g f.pack)
  | .nop g f => some (packWord 0x50 7 g f.pack)
  | .trap g f => some (packWord 0x50 8 g f.pack)
  | .wait g f => some (packWord 0x50 9 g f.pack)
  | .bar g f => some (packWord 0x51 0 g f.pack)
  | .barx g f => some (packWord 0x51 1 g f.pack)
  | .launch g f => some (packWord 0x52 0 g f.pack)
  | .cancel g f => some (packWord 0x52 1 g f.pack)
  | .hcwait g f => some (packWord 0x52 2 g f.pack)
  | .rdpr g f => some (packWord 0x70 0 g f.pack)
  | .wrpr g f => some (packWord 0x70 1 g f.pack)
  | .tlbinv g f => some (packWord 0x70 2 g f.pack)
  | .sttinv g f => some (packWord 0x70 3 g f.pack)
  | .finj g f => some (packWord 0x70 4 g f.pack)
  | .halt g f => some (packWord 0x70 5 g f.pack)
  | .loadReturn _ _ => none
  | .storePerformed _ _ _ => none
  | .atomicReply _ => none
  | .poisonedReply _ => none
  | .parkedThreadRefile _ _ => none
  | .binDraw _ => none
  | .binAged _ => none
  | .groupDissolve _ _ => none
  | .matrixStepPerformed _ => none
  | .tileTransferPerformed _ => none
  | .sourceRangeReleased _ => none
  | .copyComplete _ => none
  | .ringSequenceLanded _ => none
  | .enginePageResident _ => none
  | .engineStop _ => none
  | .leaveGrant _ => none
  | .powerCreditRefill _ => none
  | .lineStalenessDrop _ => none
  | .bulkLineArrival _ => none
  | .bulkComplete _ => none
  | .reductionCombine _ _ _ => none
  | .fabricPacketArrival _ => none
  | .writeMerge _ => none
  | .flitReplay _ => none
  | .linkTakenDown _ => none
  | .tagFailure _ => none
  | .linkRekey _ => none
  | .peerAdmission _ _ => none
  | .messageHeaderArrival _ => none
  | .messageResend _ => none
  | .receiveLandingComplete _ _ => none
  | .landingAborted _ _ _ => none
  | .sendComplete _ _ => none
  | .ethFrameArrival _ => none
  | .ethRetransmit _ => none
  | .qtail _ _ _ => none
  | .queueConfigWrite _ _ _ _ => none
  | .peerDoorbell _ _ _ _ _ => none
  | .launchAccept _ _ => none
  | .gangPlacement _ _ => none
  | .workgroupEnd _ => none
  | .gangEnd _ => none
  | .preemptRequest _ => none
  | .copyRestartTimeout _ => none
  | .contextSaveComplete _ => none
  | .gangResume _ _ => none
  | .trapResume _ => none
  | .pageInComplete _ _ => none
  | .fqclose _ _ => none
  | .fqhead _ _ => none
  | .iodWriteAcknowledged _ => none
  | .hostApertureRead _ _ _ _ => none
  | .hostApertureWrite _ _ _ _ _ => none
  | .hostWindowAccess _ _ _ _ => none
  | .checkerEventReport _ _ => none
  | .scoreDecay => none
  | .witnessTestResult _ _ => none
  | .shadowRunComplete _ => none
  | .lockInterface _ => none
  | .startInterface _ => none
  | .stopInterface _ => none
  | .spdmMeasurementRequest => none
  | .firmwareActivationSwitch _ => none
  | .worldCreate _ => none
  | .worldDestroy _ => none
  | .gpolicy _ => none
  | .gtest _ => none
  | .ghaltrel _ => none
  | .grtdata _ => none
  | .gcgdata _ => none
  | .gprdata _ => none
  | .gpwrcap _ _ => none
  | .notifyWrite _ _ _ => none
  | .registerWrite _ _ => none
  | .fireRingBase _ => none
  | .fireRingSize _ => none
  | .fireRingHead _ => none
  | .endTestInjections _ => none
  | .thermalThrottle _ => none
  | .thermalShutdown _ => none
  | .aonRailLoss => none
  | .deepSleepEnter => none
  | .deepSleepWake => none
  | .coldStart _ => none
  | .warmStart _ _ => none
  | .warmReset _ => none
  | .linkSplitDecision _ => none
  | .unassignedEncoding _ => none
  | .driverCancel _ => none
  | .completionCounterWrite _ _ _ => none
  | .coolantOutletBelow65c _ => none

/-- A block header (spec 03, R56). -/
structure Header where
  len : BitVec 10
  vlive : BitVec 8
  slive : BitVec 9
  reconv : BitVec 16
  pf : BitVec 4
  kind : BitVec 2
  rsv : BitVec 8
  deriving DecidableEq, Repr

/-- A word is a block header when bits [63:57] hold 0x7F (spec 03, R56). -/
def isHeader (w : Code) : Bool := w.extractLsb' 57 7 == 0x7F

/-- The fields of a header word (spec 03, R56). -/
def headerOf (w : Code) : Header :=
  ⟨w.extractLsb' 47 10, w.extractLsb' 39 8, w.extractLsb' 30 9, w.extractLsb' 14 16, w.extractLsb' 10 4,
   w.extractLsb' 8 2, w.extractLsb' 0 8⟩

/-- The field values of R58 that are not ILLEGAL on entry. -/
def Header.legal (h : Header) : Bool := h.len != 0 && h.slive.toNat ≤ 384 && h.kind != 3 && h.rsv == 0

/-- The word of a header (spec 03, R56). -/
def Header.pack (h : Header) : Code :=
  (0x7F : BitVec 7) ++ h.len ++ h.vlive ++ h.slive ++ h.reconv ++ h.pf ++ h.kind ++ h.rsv

end Sys2Proof
end

