-- ==== Sys2Proof/Config.lean ====
section
/-! DEFINITION. What the implementation fixes, and the free values the spec leaves open (no value can be proved of them). -/

namespace Sys2Proof.Config

/-- The n-th draw of a partition's stochastic-rounding generator (spec 04, R94: not architecturally defined). -/
opaque rand16 : Nat → BitVec 16
/-- The hardware's own result bits of an approximate function on an operand (spec 04, R97); `op` is FN of opcode 0x09.
The model takes it only where it meets the stated bound. -/
opaque approx : Nat → Word → Word
/-- The witness seed the checker writes at an acceptance (spec 10, R267). -/
opaque witnessSeed : Nat → BitVec 64
/-- The launch version the checker gives (spec 15, R345); made unique by the model among those in use. -/
opaque launchVersion : Nat → BitVec 24
/-- The arrival entry the IOD chooses (spec 09, R243); made unique by the model among those in use. -/
opaque arrivalEntry : Nat → BitVec 16
/-- The receive handle (spec 09, R255); made unique by the model among those in use. -/
opaque receiveHandle : Nat → Word
/-- The witness ticket (spec 15, R352); made unique by the model among those untested. -/
opaque ticket : Nat → Word
/-- Whether a context save drops a register that need not be kept (spec 02, R39). -/
opaque saveDrops : Nat → Bool
/-- Whether a word of a tile load that met an error reply keeps its old value (spec 06, R158). -/
opaque tileSees : Nat → Bool
/-- The fabric manager has marked the routing entry of a chip for failover (spec 09, R236). -/
opaque failover : Nat → Bool
/-- What a byte written under keys that are discarded reads as (spec 14, R332). -/
opaque erased : Nat → BitVec 8
/-- Bytes of a saved context, its nonce, and the tag the checker's key gives for a world and a save (spec 14, R334). -/
opaque contextBytes : Nat → Nat
opaque saveNonce : Nat → BitVec 96
opaque saveTag : Nat → BitVec 64 → BitVec 128
/-- The checker's measurement values at boot (spec 15, R361). -/
opaque measured : Nat → Nat

/-- Cores of a die stack: 112 on CD0 to CD5, 64 on CD6 and CD7 (spec 00, R2). -/
def coresOfDie (d : Nat) : Nat := if d < 6 then 112 else 64
/-- First core of a die stack (spec 02, R41). -/
def firstCore (d : Nat) : Nat := if d < 6 then 112 * d else 672 + 64 * (d - 6)
/-- The die of a core (spec 02, R41). -/
def dieOfCore (c : Nat) : Nat := if c < 672 then c / 112 else 6 + (c - 672) / 64
/-- Bytes of DRAM behind a base die (spec 00, R4). -/
def dramBytes (d : Nat) : Nat := if d < 6 then 48 * 2 ^ 30 else 72 * 2 ^ 30
/-- Lines of a core's L1: 256 KiB on CD0 to CD5, 512 KiB on CD6 and CD7 (spec 00, R3, R4). -/
def l1Lines (c : Nat) : Nat := if c < 672 then 2048 else 4096
/-- Lines of a die's LLC slice: 192 MiB (spec 00, R2, R4). -/
def llcLines : Nat := 1572864
/-- Ethernet ports of the I/O die (spec 00, R2). -/
def ethPorts : Nat := 8
/-- Physical scratchpad frames of a core (spec 14, R327). -/
def frames (c : Nat) : Nat := if c < 672 then 1536 else 3072
/-- Issue-group records of a partition (spec 02, R31). -/
def groupRecords : Nat := 128
/-- Operations a copy engine queues (spec 08, R211). -/
def engineQueue : Nat := 32

end Sys2Proof.Config
end

