-- ==== Sys2Proof/Machine/State.lean ====
section
/-! DEFINITION. The machine's state as plain data: one Rhathal Q7 package, everything the spec gives it (INVENTORY.md, State). -/

namespace Sys2Proof.Machine

/-- Why the machine stops. -/
inductive Fault where
  /-- an access to DRAM beyond a die's capacity (spec 00, R4), or beyond the 8 MiB of the window (spec 02, R50); raised by every
  access that reaches memory; safe -/
  | absentDram (key : Nat)
  deriving DecidableEq, Repr

/-- Why the model gives a step no next state. -/
inductive Refusal where
  /-- the instruction has no meaning yet; raised by `exec` alone; safe -/
  | notModelled (mnemonic : String)
  /-- no issue group is issuing, so there is no thread to execute the instruction; safe -/
  | noGroup
  /-- the event cannot happen in this state; raised by the events; safe -/
  | notEnabled
  deriving DecidableEq, Repr

/-- Sparse data by number, in rising order of the key. -/
abbrev Tab (α : Type) := List (Nat × α)

/-- Why a thread is parked (spec 02, R32; 08, R201; 15, R346). -/
inductive Park where
  /-- pages that were not resident, by address -/
  | pages (vas : List Nat)
  /-- a page of the world that holds four pending versions, by world-physical page number -/
  | version (page : Nat)
  /-- a scratchpad page that needs backing -/
  | backing (page : Nat)
  /-- held at a wait when its group was dissolved (spec 10, R277) -/
  | held
  deriving DecidableEq, Repr

/-- Where a thread is (spec 02, R29, R32; 10, R283). -/
inductive TStatus where
  | run | filed | parked (why : Park) | ended
  deriving DecidableEq, Repr

/-- A release fence a thread has executed: the first name after it, and its scope (spec 07, R175; 08, R208). -/
structure Fence where
  before : Nat
  scope  : Nat
  deriving DecidableEq, Repr

/-- A thread (spec 02, R25, R37; 10, R280, R293; 15, R345). -/
structure Thread where
  status : TStatus
  pc     : VA
  /-- instruction words left in the block, this one included; 0: `pc` is a header not yet entered -/
  left   : BitVec 10
  /-- address of the current block's header -/
  block  : VA
  vregs  : Tab Word
  preds  : BitVec 15
  ld     : BitVec 6
  st     : BitVec 6
  cp     : BitVec 6
  tl     : BitVec 6
  stack  : List VA
  /-- owed marks: barrier and marked phase, the most recent first (spec 10, R280, R281) -/
  owed   : List (Nat × Word)
  /-- the barrier and the phase the thread waits past -/
  hold   : Option (Nat × Word)
  sub    : BitVec 8
  reconv : List VA
  written : List Nat
  fences : List Fence
  deriving DecidableEq, Repr

/-- An issue group record (spec 02, R29 to R31; 10, R275; 08, R194). -/
structure Group where
  id      : Nat
  wg      : Nat
  core    : Nat
  part    : Nat
  members : List Nat
  stamp   : Nat
  /-- drawn for the cross-lane or signing instruction it stands at -/
  drawn   : Bool
  /-- the model's own: found held since the last progress -/
  held    : Bool
  rejects : Nat
  rejectedAt : Nat
  /-- its instruction has been counted as held by the pager (spec 08, R201) -/
  paged   : Bool
  /-- pages that its `cpyb` has recorded and waits for, as address and log2 of the size (spec 08, R212, R218) -/
  noted   : List (Nat × Nat) := []
  deriving DecidableEq, Repr

/-- A bin (spec 02, R29; 10, R276): thread numbers with their filing clocks. -/
structure Bin where
  id      : Nat
  wg      : Nat
  core    : Nat
  part    : Nat
  pc      : VA
  entries : List (Nat × Nat)
  aged    : Bool
  /-- clock since which a draw has waited for a free group record (spec 10, R277) -/
  waitAt  : Option Nat
  /-- the instruction its address was last seen to hold (spec 02, R29; 05, R125) -/
  known   : Option Instr := none
  deriving DecidableEq, Repr

/-- The fields recorded at the first signature of a round (spec 06, R136). -/
structure CvFields where
  mmac : Bool
  mode : BitVec 2
  d    : BitVec 8
  slot : BitVec 3
  cl   : BitVec 6
  src  : BitVec 8
  deriving DecidableEq, Repr

/-- One signature: rank, thread and fragments (spec 06, R135, R142). -/
structure CvSig where
  rank : Nat
  tid  : Nat
  a    : List Word
  b    : List Word
  deriving DecidableEq, Repr

/-- A convergence register (spec 06, R135); count 0 is idle. -/
structure Cv where
  count  : Nat
  first  : Nat
  fields : Option CvFields
  sigs   : List CvSig
  deriving DecidableEq, Repr

/-- A barrier (spec 10, R279); arrivals are member numbers. -/
structure Barrier where
  phase   : Word
  arrived : List Nat
  pending : BitVec 24
  deriving DecidableEq, Repr

/-- A stage ring (spec 01, R13; 08, R220). -/
structure Ring where
  base  : Nat
  depth : Nat
  bytes : Nat
  i     : Word
  f     : Word
  e     : Word
  arrived : List Nat
  deriving DecidableEq, Repr

/-- A part of a witness record (spec 15, R352). -/
structure WitPart where
  role  : Nat
  addr  : VA
  pitch : Word
  deriving DecidableEq, Repr

/-- A witness record (spec 15, R350 to R352). -/
structure WitRec where
  kind    : Nat
  m : Nat
  n : Nat
  k : Nat
  q : Nat
  h : Nat
  slotA   : Nat
  slotB   : Nat
  conv    : Bool
  uns     : Bool
  version : Word
  parts   : List WitPart
  deriving DecidableEq, Repr

/-- A resident workgroup (spec 02, R26 to R28, R34 to R37, R44, R45). -/
structure Workgroup where
  id      : Nat
  gang    : Nat
  launch  : Nat
  index   : Nat
  x : Nat
  y : Nat
  z : Nat
  threads : Nat
  cores   : List Nat
  wslot   : Nat
  /-- scalar registers, by home group x 512 + number -/
  sregs   : Tab Word
  swritten : List Nat
  /-- accumulator elements, by tile x 1024 + row x 32 + column -/
  acc     : Tab Word
  cvs     : List Cv
  bars    : List Barrier
  rings   : List Ring
  recs    : List (Option WitRec)
  deriving DecidableEq, Repr

/-- Where a gang stands (spec 10, R286 to R289; 03, R77). -/
inductive GStatus where
  | running | halting | saved | trapped | discarding
  /-- halted until its world's fault queue has space (spec 14, R326) -/
  | stalled
  deriving DecidableEq, Repr

/-- The header and the tag of a saved gang's context image (spec 14, R334). -/
structure Saggar where
  world : BitVec 8
  kind  : BitVec 8
  len   : Nat
  seq   : BitVec 64
  nonce : BitVec 96
  tag   : BitVec 128
  deriving DecidableEq, Repr

/-- A gang (spec 02, R44, R45; 10, R265, R270, R286). -/
structure Gang where
  id      : Nat
  launch  : Nat
  world   : Nat
  index   : Nat
  die     : Nat
  cluster : Nat
  order   : Nat
  status  : GStatus
  haltAt  : Nat
  /-- a halt of kind 0 or 1 holds the gang (spec 14, R340) -/
  held    : Bool
  /-- a halt of kind 2 of its die holds the gang (spec 14, R340) -/
  heldDie : Bool
  /-- saved while it waits for the driver to resume it after a trap (spec 03, R77) -/
  waits   : Bool
  /-- threads that continue past a `trap` at the resume (spec 10, R295), by thread key -/
  skip    : List Nat
  bars    : List Barrier
  unit    : Nat
  size    : Nat
  arrival : Option Nat
  cancelled : Bool
  /-- what the save area holds of it while it is saved (spec 10, R288; 14, R334) -/
  saggar  : Option Saggar
  /-- the image that its save sealed (spec 14, R334) -/
  sealed  : Option Saggar := none
  /-- its place, when it was saved, among the stores that pass the crossbars (spec 07, R165, R190) -/
  savedAt : Nat := 0
  deriving DecidableEq, Repr

/-- Where an accepted launch stands (spec 10, R260, R264). -/
inductive LStatus where
  | waiting | running | ended
  deriving DecidableEq, Repr

/-- What an earlier attempt of a launch was: its number, packet, launch version, dies and digest (spec 15, R353, R354). -/
structure Attempt where
  number  : Nat
  words   : List Code
  vl      : BitVec 24
  shareOn : List Nat
  sum     : List (Nat × Word)
  deriving DecidableEq, Repr

/-- An accepted launch (spec 10, R267, R269; 15, R345, R354). -/
structure Launch where
  id      : Nat
  world   : Nat
  prio    : Nat
  addr    : VA
  words   : List Code
  args    : List Word
  memb    : List Byte
  vl      : BitVec 24
  attempt : Nat
  status  : LStatus
  /-- gangs of each die's share placed so far -/
  placed  : List Nat
  ended   : Nat
  bars    : List Barrier
  /-- an action a repeat would duplicate was issued (spec 15, R354) -/
  acted   : Bool
  /-- versions inherited from met dependences (spec 16, R364) -/
  inherits : List Nat
  /-- the run a shadow or third run repeats, and its number (spec 15, R353) -/
  shadowOf : Option Nat
  run     : Nat
  /-- a sub-instance ended cancelled, rejected or failed: the status taken -/
  bad     : Option (BitVec 4 × BitVec 8)
  /-- no gang is placed any more (spec 10, R290) -/
  cancelled : Bool
  /-- its end has been counted above it: a repeat adds nothing (spec 15, R354) -/
  counted : Bool
  /-- the die that places each entry of the partition vector: itself, but in a shadow run (spec 15, R353) -/
  shareOn : List Nat
  /-- every word its versions held when it completed, as its digest takes them (spec 15, R353) -/
  sum     : List (Nat × Word)
  /-- its earlier attempts, and the clock of its first start: re-executions keep that order (spec 15, R354) -/
  past    : List Attempt := []
  begun   : Nat := 0
  deriving DecidableEq, Repr

/-- Where a byte lies in the model's one memory: a physical key, or a scratchpad address of a workgroup. -/
inductive Loc where
  | va (a : Nat)
  | spad (wg a : Nat)
  deriving DecidableEq, Repr

/-- What a flight does when it performs (spec 07, R164; 08, R196, R206, R210). -/
inductive FlightKind where
  | load
  /-- elements that fill parts of registers: `ldfrag` (spec 08, R203) -/
  | frag
  | store
  | atomic (op : AtomOp) (ty : BitVec 2) (b c : Word)
  /-- the dirty host lines of some byte ranges (first key and length) written, and dropped if `inv` -/
  | flush (ranges : List (Nat × Nat)) (inv : Bool)
  /-- the dirty device lines of some byte ranges written to DRAM -/
  | clean (ranges : List (Nat × Nat))
  /-- completion of a `tlbinv` or `sttinv` -/
  | settle
  /-- a `launch`: until the front end has read the packet in a queue's slot (spec 10, R299) -/
  | submit (world prio : Nat) (index : BitVec 16)
  deriving DecidableEq, Repr

/-- Reads values into registers of a thread. -/
def FlightKind.isLoad : FlightKind → Bool
  | .load | .frag => true
  | _ => false

/-- One element of an access: at most four bytes of one word. -/
structure Elem where
  va   : Nat
  key  : Nat
  size : Nat
  data : Word
  reg  : Nat
  /-- the leaf has G = 1 (spec 14, R316) -/
  green : Bool
  /-- the whole word a sub-word store to another die's line writes through, but for its own bytes (spec 07, R171) -/
  fill  : Option Word
  deriving DecidableEq, Repr

/-- A load, store or atomic of one thread that has issued and not yet performed (spec 07, R164). -/
structure Flight where
  id    : Nat
  wg    : Nat
  gang  : Nat
  launch : Nat
  part  : Nat
  tids  : List Nat
  iaddr : VA
  kind  : FlightKind
  elems : List Elem
  sx    : Bool
  pred  : Option Nat
  /-- counts in ld (true) or st (false) -/
  inLd  : Bool
  scope : Nat
  acq   : Bool
  rel   : Bool
  spad  : Bool
  core  : Nat
  world : Nat
  version : Option Nat
  otag  : Nat
  /-- a store that has passed the cluster crossbar (spec 07, R169) -/
  passed : Bool
  /-- its place in the order of those that passed (spec 07, R165, R169) -/
  passOrder : Nat
  /-- the first flight of its instruction: the lanes of one instruction share miss-status entries (spec 08, R194) -/
  batch : Nat
  /-- marked for replay at the resume (spec 10, R287) -/
  replay : Bool
  poisoned : Bool
  /-- the error reply says PROT: a peer chip or a home refused the request (spec 09, R234; 14, R322) -/
  denied : Bool
  /-- its POISON trap has been taken: it is issued again at the resume (spec 08, R193) -/
  taken : Bool
  lines : List Nat
  reserve : Bool
  /-- rejections of a marked access that is issued again, and the clock of the first (spec 08, R194; 10, R289) -/
  rejects : Nat := 0
  rejectedAt : Nat := 0
  /-- the named pages of a `hand`, by first key and length: bytes of it beside the flag's (spec 07, R182) -/
  pages : List (Nat × Nat) := []
  /-- its POISON lowered the count, which rises again when it is issued again (spec 02, R40; 08, R193) -/
  uncounted : Bool := false
  /-- issued again, it has met a page that is out, which was recorded or counted (spec 08, R201; 10, R289) -/
  met : Bool := false
  /-- operations kept before this one, each with the widest scope at which it is kept; 6: performed whole -/
  deps : List (Nat × Nat)
  deriving DecidableEq, Repr

/-- What a tile operation does (spec 06, R147). -/
inductive TileKind where
  /-- `bases` holds each sub-array's scale addresses for A and B, as read at the last signature -/
  | step (f : CvFields) (count first : Nat) (sigs : List CvSig) (bases : List (Nat × Nat))
  | zero
  | load (addr : Loc) (keys : List Nat)
  | store (addr : Loc) (keys : List Nat) (version : Option Nat)
  | proj (w : Nat) (c0 : Word) (int : Bool) (mode : BitVec 2)
  deriving DecidableEq, Repr

/-- A tile operation in flight. -/
structure TileOp where
  id    : Nat
  wg    : Nat
  tids  : List Nat
  /-- active threads of the issuing group -/
  active : List Nat
  iaddr : VA
  kind  : TileKind
  mode  : BitVec 2
  reads : List Nat
  writes : List Nat
  leave : Bool
  issuedAt : Nat
  core  : Nat
  poisoned : Bool
  deps : List (Nat × Nat)
  /-- the issuing thread's sub-index at the issue (spec 15, R345) -/
  sub   : BitVec 8 := 0
  deriving DecidableEq, Repr

/-- A run of bytes an engine moves. -/
structure Seg where
  src : Loc
  dst : Loc
  len : Nat
  deriving DecidableEq, Repr

/-- What an engine operation is (spec 08, R211; 09, R240, R252). -/
inductive EngineKind where
  | copy
  | ring (n : Nat) (seq : Word)
  | gather
  | bins (table : Nat) (rows : List (Nat × Loc)) (w : Nat) (caps : List (Nat × Nat × Nat))
  /-- `turn` counts the reductions of a group this chip has issued -/
  | bulk (kind : Nat) (op : BitVec 4) (count : Bool) (handle : Word) (group turn : Nat)
  | send (eth : Bool) (dest : Nat) (tag : Word) (size : Nat)
  deriving DecidableEq, Repr

/-- How far an engine operation is. -/
inductive EngineStage where
  | queued | running
  /-- for a page at an address, or for scratchpad backing -/
  | waitPage (va : Nat)
  | waitBacking
  /-- by PROT, OWNER or POISON; at a pre-emption -/
  | stopped | halted
  deriving DecidableEq, Repr

/-- A range an engine or the receive engine holds locked (spec 07, R183): die `d` is `d`, the scratchpad of
workgroup `w` on core `c` is named by both. -/
structure RangeLock where
  owner : Nat
  world : Nat
  /-- the die of the table for a global range, the workgroup for a scratchpad range -/
  spad  : Bool
  place : Nat
  lo    : Nat
  hi    : Nat
  dst   : Bool
  /-- its table entry: the world's own (true) or a shared one (spec 14, R329); none: checked as if registered while it waits (R186) -/
  entry : Option Bool
  deriving DecidableEq, Repr

/-- A copy-engine operation (spec 08, R211 to R224; 09, R241, R252). -/
structure EngineOp where
  id    : Nat
  wg    : Nat
  gang  : Nat
  launch : Nat
  world : Nat
  core  : Nat
  die   : Nat
  tids  : List Nat
  iaddr : VA
  kind  : EngineKind
  /-- everything the operation moves, and what it has still to read -/
  segs  : List Seg
  todo  : List Seg
  /-- words read and not yet written -/
  buf   : List (Loc × List Byte)
  /-- `cpyb`: tokens whose bump has still to be made -/
  rows  : List (Nat × Loc)
  /-- bytes a later operation of the same producer group has written in its place (spec 07, R188) -/
  skip  : List Nat
  bytes : Nat
  stage : EngineStage
  leave : Bool
  /-- the landing barrier: key and phase (spec 10, R281) -/
  landing : Option (Nat × Word)
  version : Word
  /-- clock of the halt after which it has 512 clocks (spec 10, R287) -/
  haltAt : Nat
  /-- lines sent, and acknowledged; of a send: the header is taken, the payload is read -/
  sent  : Nat
  acked : Nat
  /-- words that would leave the package, each with the world and number of the pending version whose firing they await (spec 15,
  R348) -/
  awaits : List (Nat × Nat × Word)
  deps : List (Nat × Nat)
  deriving DecidableEq, Repr

/-- An arrival entry (spec 09, R243 to R246). -/
structure Arrival where
  entry  : Nat
  world  : Nat
  gang   : Nat
  counts : List (BitVec 24)
  targets : List (BitVec 24)
  /-- one of the entries reserved for the world (spec 14, R329) -/
  own    : Bool
  /-- counters at which bulk lines have arrived since they were set (spec 09, R246) -/
  bulked : List Nat := []
  deriving DecidableEq, Repr

/-- A line in an L1 that its home's stores do not reach (spec 07, R170, R172); owner is the core, or the first core
of a cluster with a fused L1. -/
structure L1Line where
  id    : Nat
  owner : Nat
  line  : Nat
  bytes : List Byte
  clock : Nat
  deriving DecidableEq, Repr

/-- A line of host memory held in the LLC, and the die whose slice holds it (spec 07, R162, R173). -/
structure HostLine where
  die   : Nat
  line  : Nat
  bytes : List Byte
  dirty : List Bool
  deriving DecidableEq, Repr

/-- A TLB entry (spec 14, R318): place 0 to 799 a core, 1000 + d a base die, 2000 the IOD. -/
structure TlbEntry where
  place : Nat
  world : Nat
  vpn   : Nat
  size  : Nat
  leaf  : BitVec 64
  deriving DecidableEq, Repr

/-- A scratchpad translation entry (spec 14, R327). -/
structure SttEntry where
  core  : Nat
  wslot : Nat
  wg    : Nat
  page  : Nat
  present : Bool
  backed  : Bool
  touched : Bool
  dirty   : Bool
  frame : Nat
  bline : Nat
  used  : Nat
  deriving DecidableEq, Repr

/-- A group that a partition's scan has considered, with its stamp then, and the class of what it issued: 0 to 2 for vector, memory, and
matrix, scalar and control; 3 for nothing (spec 10, R274, R275). -/
structure Scanned where
  part  : Nat
  group : Nat
  stamp : Nat
  cls   : Nat
  deriving DecidableEq, Repr

/-- Counters of a core (spec 08, R194, R201; 10, R281, R285; 15, R346). -/
structure CoreRegs where
  versionWait : Nat := 0
  spadFault   : Nat := 0
  leaveWait   : Nat := 0
  dropCredit  : Nat := 0
  /-- rejections of each partition -/
  rejections  : Tab Nat := []
  /-- of a cluster's first core: the cluster's L1s are fused (spec 00, R4; 07, R162) -/
  fused       : Bool := false
  /-- what the scans of its partitions have considered at the clock `scanAt` (spec 10, R275) -/
  scanAt      : Nat := 0
  scan        : List Scanned := []
  deriving DecidableEq, Repr, Inhabited

/-- A request for power leave (spec 10, R285; 18, R374). -/
structure LeaveReq where
  cost : Nat
  tile : Bool
  op   : Nat
  since : Nat
  deriving DecidableEq, Repr

/-- A die stack (spec 00, R2, R5; 14, R340; 15, R344, R357 to R359; 18, R374). -/
structure Die where
  live     : Bool
  retired  : Bool
  excluded : Bool
  fenced   : Bool
  /-- the stack's memory is in service -/
  memory   : Bool
  score    : BitVec 8
  halted   : Bool
  /-- a warm reset has begun, and waits for its gangs to be saved; and the stack is in reset (spec 15, R357) -/
  resetReq : Bool
  resetting : Bool
  /-- the world whose gang the dispatcher placed last (spec 10, R262) -/
  served   : Nat
  pwrcap   : BitVec 12
  credits  : Nat
  leaves   : List LeaveReq
  refilled : Nat
  resetAt  : Nat
  /-- failing tags in a row on the stack's UCIe link, its key slot, and its counters, of what the IOD sends and of what the stack sends
  (spec 14, R330, R331) -/
  linkFails : Nat
  linkSlot : Bool
  linkCounter : BitVec 64
  linkCounterIn : BitVec 64 := 0
  deriving DecidableEq, Repr

/-- A fault record (spec 14, R324). -/
structure FaultRec where
  bitmap : BitVec 64
  daddr  : BitVec 56
  iaddr  : BitVec 56
  lanes  : BitVec 32
  lctr   : BitVec 16
  core   : BitVec 10
  hgrp   : BitVec 8
  open'  : Bool
  wr     : Bool
  fetch  : Bool
  eng    : Bool
  mal    : Bool
  code   : BitVec 8
  deriving DecidableEq, Repr

/-- A launch queue (spec 10, R262; 18, R370; 09, R258). -/
structure Queue where
  qbase : VA
  qsize : BitVec 5
  qhead : BitVec 16
  qtail : BitVec 16
  acl   : List (BitVec 32)
  /-- accepted launches that have not placed every gang, oldest first -/
  order : List Nat
  /-- the page its head packet waits for, once recorded (spec 10, R268) -/
  wait  : Option Nat
  deriving DecidableEq, Repr

/-- How far a posted receive is (spec 09, R255 to R257). -/
inductive RStatus where
  | posted
  | matched (m : Message)
  | complete (bytes : Nat) (trunc aborted : Bool) (tag : Word) (src : BitVec 13)
  | cancelled
  deriving DecidableEq, Repr

/-- A posted receive (spec 09, R253 to R257). -/
structure Receive where
  id     : Nat
  handle : Word
  wg     : Nat
  hgrp   : Nat
  iaddr  : VA
  core   : Nat
  layout : BitVec 96
  cap    : Nat
  tag    : Word
  tmask  : Word
  smask  : BitVec 13
  src    : BitVec 13
  count  : Option Nat
  xext   : Nat
  yext   : Nat
  /-- scratchpad accesses of the issuing group kept before the landing -/
  deps   : List (Nat × Nat)
  /-- the posting gang, and the payload bytes that have landed so far (spec 09, R256) -/
  gang   : Nat := 0
  landed : List Nat := []
  /-- the core at which the landing began (spec 14, R380) -/
  landAt : Option Nat := none
  status : RStatus
  deriving DecidableEq, Repr

/-- A world's fire ring (spec 15, R349; 18, R378). -/
structure FireRing where
  base : BitVec 36
  size : BitVec 5
  baseSet : Bool
  sizeSet : Bool
  head : BitVec 16
  wpos : BitVec 16
  held : List (BitVec 128)
  /-- the ring of 2^16 places is full: its indexes meet -/
  lapped : Bool
  deriving DecidableEq, Repr

/-- What the front end keeps of an instance that has not ended: the first sub-instance that ended otherwise than complete, and
whether the whole instance is being cancelled (spec 10, R265, R290). -/
structure CtrEnd where
  bad   : Option (BitVec 4 × BitVec 8)
  whole : Bool
  deriving DecidableEq, Repr

/-- A world that exists (spec 14, R312, R337, R379; 18, R370). -/
structure World where
  state   : BitVec 2
  error   : Bool
  prot    : Bool
  stalled : Bool
  ptroot  : BitVec 24
  diemask : BitVec 8
  seed    : BitVec 27
  qlimit  : BitVec 24
  dbase   : List (BitVec 25)
  owntab  : List (BitVec 9)
  winbase : BitVec 7
  winsize : BitVec 7
  fqbase  : BitVec 28
  fqsize  : BitVec 5
  fqhead  : BitVec 16
  fqtail  : BitVec 16
  /-- the queue of 2^16 places is full: its indexes meet -/
  fqLapped : Bool
  bkbase  : BitVec 24
  bksize  : BitVec 24
  peertab : BitVec 32
  rlquota : BitVec 12
  acquota : BitVec 17
  apbase  : BitVec 24
  notify  : List (BitVec 64)
  msix    : Tab (BitVec 64)
  queues  : List Queue
  ctrs    : Tab (BitVec 128)
  ends    : Tab CtrEnd
  /-- the widest scope at which a counted end of each entry released (spec 10, R266) -/
  scopes  : Tab Nat
  /-- the model's name for the first launch that the present use of each entry can count -/
  since   : Tab Nat := []
  /-- records that wait at the IOD (spec 14, R326) -/
  waiting : List FaultRec
  fire    : FireRing
  posted  : List Receive
  unexp   : List Message
  /-- the driver has granted that this world's gangs may be pre-empted (spec 10, R271) -/
  grant   : Bool
  saveSeq : BitVec 64
  lastSeq : List (Nat × BitVec 64)
  keys    : Bool
  /-- a halt of kind 1 (spec 14, R340) -/
  halted  : Bool
  /-- a write of `state` through `gprdata` that waits for the world's instances to be cancelled (spec 14, R379; 18, R377) -/
  stateTo : Option (BitVec 2) := none
  deriving DecidableEq, Repr

/-- States of a version that is not settled (spec 15, R348). -/
inductive VState where
  | openV | testing | waitingV
  deriving DecidableEq, Repr

/-- A pending version (spec 15, R345 to R348). -/
structure Version where
  id     : Nat
  num    : Word
  world  : Nat
  launch : Nat
  attempt : Nat
  lctr   : BitVec 16
  /-- words held: physical word key and value -/
  words  : List (Nat × Word)
  writers : BitVec 8
  up     : List Nat
  /-- the upstream set has overflowed once, or twice (spec 15, R347) -/
  full   : Bool
  future : Bool
  state  : VState
  /-- the fire group, named by its least member -/
  group  : Nat
  shadow : Bool
  /-- every record that covers it has passed -/
  passedTest : Bool
  /-- it is tested by comparing runs, and a comparison has matched (spec 15, R350, R353) -/
  dual   : Bool
  matched : Bool
  /-- an injection has corrupted a word of it (spec 15, R356) -/
  injected : Bool
  deriving DecidableEq, Repr

/-- A submitted witness record (spec 15, R350). -/
structure SubRec where
  id     : Nat
  world  : Nat
  launch : Nat
  slot   : Nat
  ticket : Word
  body   : WitRec
  /-- the page its test waits for, once recorded -/
  wait   : Option Nat
  deriving DecidableEq, Repr

/-- A Qormon link or an Ethernet port (spec 09, R236, R259; 14, R330, R331, R333). -/
structure Link where
  up      : Bool
  /-- failing replays in a row -/
  replays : Nat
  /-- failing tags in a row -/
  tagFails : Nat
  slot    : Bool
  /-- its counters, of what this chip sends and of what the peer sends (spec 14, R330) -/
  counter : BitVec 48
  counterIn : BitVec 48
  peer    : Option Nat
  /-- what the peer showed at its admission -/
  shown   : Option PeerEvidence
  /-- flits in the sender's replay buffer, at most 64 -/
  unacked : Nat
  deriving DecidableEq, Repr

/-- What waits in a fabric receive port (spec 09, R235). -/
inductive PortItem where
  | request (p : Packet)
  /-- the reply of a chip to a request of a world, and the event it brings about -/
  | reply (world src : Nat) (answer : Instr)
  | message (m : Message)
  deriving DecidableEq, Repr

/-- A packet slot in use at a fabric receive port: the port's link, whether it is one of its world's reserved slots, and the packet
(spec 09, R235). -/
structure PortSlot where
  link : Nat
  reserved : Bool
  item : PortItem
  deriving DecidableEq, Repr

/-- A scale-out endpoint (spec 09, R259). -/
structure Endpoint where
  addr : Nat
  port : Nat
  live : Bool
  sent : Nat
  got  : Nat
  deriving DecidableEq, Repr

/-- An armed injection of kind 1 (spec 15, R356). -/
structure Injection where
  world : Nat
  die   : Nat
  key   : Nat
  mask  : Word
  deriving DecidableEq, Repr

/-- A posted host write at the IOD ordering point (spec 07, R191). -/
structure HostWrite where
  id      : Nat
  world   : Nat
  /-- its global address, and the bytes not acknowledged yet with their homes -/
  va      : Nat
  keys    : List (Nat × Byte)
  relaxed : Bool
  sent    : Bool
  /-- how many bytes it had -/
  size    : Nat := 0
  deriving DecidableEq, Repr

/-- A 32-bit AtomicOp of the host port (spec 18, R369). -/
inductive HostAtomic where
  | fetchAdd (x : Word)
  | swap (x : Word)
  | cas (new old : Word)
  deriving DecidableEq, Repr

/-- What the host or a peer was answered (the model's own record). -/
inductive Reply where
  | data (world : Nat) (bytes : List Byte)
  | unsupported (world : Nat)
  /-- Configuration Request Retry Status -/
  | retry (fn : Nat)
  /-- code 0, or that of the error reply -/
  | peer (chip seq code : Nat) (bytes : List Byte)
  | spdm (values : Measurement) (pending : Bool)
  deriving DecidableEq, Repr

/-- The enabled bytes of a bulk line on its way to a destination (spec 09, R231, R238, R242). -/
structure BulkLine where
  id    : Nat
  world : Nat
  /-- the chip it goes to -/
  dst   : Nat
  va    : Nat
  /-- where the issuer's context puts it, of a unicast -/
  key   : Option Nat
  green : Bool
  data  : List Byte
  count : Bool
  handle : Word
  group : Option Nat
  op    : Option Nat
  src   : Nat
  /-- of a peer's operation: the owner of its range locks here, and whether this is its last line for this chip -/
  owner : Option Nat
  last  : Bool
  /-- the sequence number of a peer's packet (spec 09, R232) -/
  seq   : Option Nat := none
  deriving DecidableEq, Repr

/-- A line this chip has sent to a reduction (spec 09, R239). -/
structure RedLine where
  group : Nat
  /-- the how-many-th reduction of the group this chip issued -/
  turn  : Nat
  pos   : Nat
  world : Nat
  op    : Nat
  code  : BitVec 4
  va    : Nat
  count : Bool
  data  : List Byte
  deriving DecidableEq, Repr

/-- The registers of the Garrun controller and the checker's mailbox (spec 18, R377, R378). -/
structure Garrun where
  stage  : BitVec 4
  ready  : Bool
  therm  : Bool
  failed : BitVec 8
  all    : Bool
  thresh : BitVec 8
  test   : Bool
  grtidx : BitVec 12
  gcgidx : BitVec 8
  gprsel : BitVec 16
  temp   : BitVec 16
  busy   : Bool
  refused : Bool
  last   : BitVec 8
  /-- caps before the throttle (spec 18, R375) -/
  caps   : List (BitVec 12)
  deriving DecidableEq, Repr

/-- The I/O die (spec 09; 07, R191; 18, R369 to R372). -/
structure Iod where
  chip     : BitVec 12
  routing  : Tab (BitVec 64)
  coll     : List (Nat × CollGroup)
  bindings : List (Nat × Nat × Nat)
  endpoints : List (Nat × Endpoint)
  arrivals : List Arrival
  dropped  : Nat
  ethDropped : Nat
  /-- doorbells of a function that does not own the queue, dropped (spec 14, R313) -/
  bellDropped : Nat
  links    : List Link
  /-- the eight Ethernet ports (spec 00, R2; 09, R259) -/
  eth      : List Link
  /-- what waits in the fabric receive ports, the oldest first (spec 09, R235) -/
  ports    : List PortSlot
  /-- next sequence each source's packets are presented at, per world x 4096 + chip -/
  gotSeq   : Tab Nat
  /-- packets on their way here that have not been presented (spec 09, R232) -/
  reorder  : List Packet
  /-- packets presented to their homes and not performed yet, with their keys, the oldest first (spec 09, R232) -/
  atHome   : List (Packet × Nat)
  bulk     : List BulkLine
  red      : List RedLine
  /-- reductions of each group issued here (spec 09, R239) -/
  redTurns : Tab Nat
  hostWrites : List HostWrite
  replies  : List Reply
  irqs     : List (Nat × Nat)
  /-- MSI-X pending bits that are set: function and vector (spec 18, R370) -/
  irqPend  : List (Nat × Nat)
  /-- messages refused by a full unexpected queue, with the earliest clock of the next try -/
  resend   : List (Message × Nat)
  hostLines : List HostLine
  winDropped : Nat
  deriving DecidableEq, Repr

/-- An event the checker has scored: the die, what its score gained, and whether an injection caused it (spec 15, R343, R356). -/
structure CheckEvent where
  die  : Nat
  gain : Nat
  injected : Bool
  deriving DecidableEq, Repr

/-- The checker die's own state (spec 14, R331 to R335; 15, R343 to R361). -/
structure Checker where
  subs    : List SubRec
  meas    : Measurement
  pending : Option Measurement
  roots   : List Nat
  minima  : List Nat
  admitted : List Nat
  training : Bool
  keyState : Bool
  marker   : Bool
  asleep   : Bool
  /-- the clock at which a deep sleep began: no core counts clocks while it is unpowered (spec 02, R43) -/
  sleptAt  : Nat
  /-- a shutdown or a sleep has begun: no gang is placed (spec 14, R335; 18, R375) -/
  draining : Bool
  /-- command processor at work: CP-A or its standby -/
  cpB      : Bool
  cpLost   : Bool
  settled : List (Nat × Word × Nat)
  decayed  : Nat
  /-- re-submissions that wait for their launch's cancel (spec 16, R364) -/
  rerun   : List (Nat × BitVec 8)
  /-- the events it has scored, the oldest first -/
  events  : List CheckEvent
  deriving DecidableEq, Repr

/-- Which agent moves next (the model's own; assumption 2). -/
inductive Move where
  /-- an event happens -/
  | event (i : Instr)
  /-- the partition's scan issues the next ready group's instruction (spec 10, R275) -/
  | issue (core part : Nat)
  /-- an engine passes over some words and reads the next, passes over some it has read and writes the next -/
  | engine (op rskip reads wskip writes : Nat)
  /-- clocks pass -/
  | tick (n : Nat)
  /-- the host or another chip writes its own memory -/
  | outside (key : Nat) (data : List Byte)
  /-- a packet or a message of another chip reaches a fabric receive port (spec 09, R235) -/
  | receive (link : Nat) (item : PortItem)
  /-- a home performs a presented packet (spec 09, R232) -/
  | home (pos : Nat)
  /-- a reply leaves its receive port, and its event happens (spec 09, R235) -/
  | answer (pos : Nat)
  /-- some payload bytes of a matched receive land (spec 09, R256) -/
  | land (world rcv : Nat) (bytes : List Nat)
  /-- flits cross an edge whole: some are sent, some acknowledged, some received (spec 09, R236; 14, R330, R331) -/
  | flits (edge : Edge) (sent acked got : Nat)
  /-- a marked access is issued again (spec 10, R289) -/
  | reissue (flight : Nat)
  /-- the save area of a saved gang is changed from outside (spec 14, R334) -/
  | saveArea (gang : Nat) (image : Saggar)
  /-- the host sets the roots and the minima of the admission policy (spec 14, R333; 15, R341) -/
  | policy (roots minima : List Nat)
  /-- the coolant outlet reads something between the thermal events' temperatures (spec 18, R375, R377) -/
  | coolant (temp : BitVec 16)
  /-- the host reads or writes the configuration space of a function (spec 18, R376) -/
  | config (fn : Nat)
  /-- a host AtomicOp through a function's aperture, or through its share of the window (spec 18, R369, R381) -/
  | hostAtomic (world offset : Nat) (window ide : Bool) (op : HostAtomic)
  deriving DecidableEq, Repr

/-- The whole package. -/
structure State where
  agenda   : List Move
  clock    : Nat
  draws    : Nat
  nextId   : Nat
  cur      : Option Nat
  /-- the model's own: code of the trap the step's instruction has raised -/
  raised   : Option Nat
  mem      : List Host.Cell
  threads  : Tab Thread
  groups   : List Group
  bins     : List Bin
  wgs      : List Workgroup
  gangs    : List Gang
  launches : List Launch
  flights  : List Flight
  tiles    : List TileOp
  engines  : List EngineOp
  locks    : List RangeLock
  l1       : List L1Line
  llcDirty : List Nat
  poison   : List Nat
  tlb      : List TlbEntry
  stt      : List SttEntry
  cores    : Tab CoreRegs
  dies     : List Die
  worlds   : Tab World
  versions : List Version
  injects  : List Injection
  powered  : Bool
  iod      : Iod
  garrun   : Garrun
  checker  : Checker
  deriving DecidableEq, Repr

/-- A barrier at placement (spec 02, R38). -/
def Barrier.new : Barrier := ⟨0, [], 0⟩

/-- A launch queue at world creation (spec 14, R379). -/
def Queue.new : Queue := ⟨0, 0, 0, 0, List.replicate 16 0, [], none⟩

/-- A world at its creation (spec 14, R379). -/
def World.new : World :=
  { state := 1, error := false, prot := false, stalled := false, ptroot := 0, diemask := 0, seed := 0, qlimit := 0
    dbase := List.replicate 8 0, owntab := List.replicate 16 0x1FF, winbase := 0, winsize := 0, fqbase := 0, fqsize := 0
    fqhead := 0, fqtail := 0, fqLapped := false, bkbase := 0, bksize := 0, peertab := 0, rlquota := 0, acquota := 0, apbase := 0
    notify := List.replicate 16 0, msix := [], queues := List.replicate 8 Queue.new, ctrs := [], ends := [], scopes := [], waiting := []
    fire := ⟨0, 0, false, false, 0, 0, [], false⟩, posted := [], unexp := [], grant := false, saveSeq := 0, lastSeq := []
    keys := false, halted := false }

/-- A die stack after bring-up (spec 18, R376). -/
def Die.new : Die :=
  { live := true, retired := false, excluded := false, fenced := false, memory := true, score := 0, halted := false
    resetReq := false, resetting := false, served := 0, pwrcap := 300, credits := 4096, leaves := [], refilled := 0, resetAt := 0, linkFails := 0, linkSlot := false, linkCounter := 0 }

/-- A Qormon link at bring-up: up, and no peer admitted (spec 14, R333). -/
def Link.new : Link := ⟨true, 0, 0, false, 0, 0, none, none, 0⟩

/-- The I/O die at READY (spec 09, R229, R243). -/
def Iod.new : Iod :=
  { chip := 0, routing := [], coll := [], bindings := [], endpoints := [], arrivals := [], dropped := 0, ethDropped := 0, bellDropped := 0
    links := List.replicate 32 Link.new, eth := List.replicate Config.ethPorts Link.new, ports := [], gotSeq := [], reorder := []
    atHome := [], bulk := [], red := [], redTurns := []
    hostWrites := [], replies := [], irqs := [], irqPend := [], resend := [], hostLines := [], winDropped := 0 }

/-- The Garrun registers at READY (spec 18, R376, R377; 15, R344). -/
def Garrun.new : Garrun :=
  { stage := 7, ready := true, therm := false, failed := 0xFF, all := false, thresh := 128, test := false, grtidx := 0
    gcgidx := 0, gprsel := 0, temp := 0, busy := false, refused := false, last := 0, caps := [] }

/-- The checker at READY (spec 18, R376). -/
def Checker.new : Checker :=
  { subs := [], meas := ⟨0, 0, 0, 0, 0⟩, pending := none, roots := [], minima := [], admitted := [], training := true
    keyState := true, marker := false, asleep := false, sleptAt := 0, draining := false, cpB := false, cpLost := false, settled := [], decayed := 0
    rerun := [], events := [] }

/-- The package when a cold start has reached READY with every stack admitted: world 0 exists in CONFIG_UNLOCKED and no
work has been submitted (spec 18, R376; 14, R379). -/
def State.reset : State :=
  { agenda := [], clock := 0, draws := 0, nextId := 0, cur := none, raised := none, mem := [], threads := [], groups := [], bins := []
    wgs := [], gangs := [], launches := [], flights := [], tiles := [], engines := [], locks := [], l1 := [], llcDirty := []
    poison := [], tlb := [], stt := [], cores := [], dies := List.replicate 8 Die.new, worlds := [(0, World.new)]
    versions := [], injects := [], powered := true, iod := Iod.new, garrun := Garrun.new, checker := Checker.new }

end Sys2Proof.Machine
end

