-- ==== Sys2Proof/Machine/Tab.lean ====
section
/-! DEFINITION. Sparse data in its one canonical form: keys strictly rising, no entry equal to the value an unlisted key
reads as. Memory is such a table of bytes. -/

namespace Sys2Proof.Machine

/-- The value at a key; `d` where none is listed. -/
def tabGet {α : Type} (d : α) (k : Nat) : Tab α → α
  | [] => d
  | (k', v) :: r => if k' = k then v else tabGet d k r

/-- Keys at or above `lo`, strictly rising, and no entry `d`. -/
def tabWfFrom {α : Type} [DecidableEq α] (d : α) : Nat → Tab α → Bool
  | _, [] => true
  | lo, (k, v) :: r => decide (lo ≤ k) && decide (v ≠ d) && tabWfFrom d (k + 1) r

/-- The canonical form of a table. -/
def tabWf {α : Type} [DecidableEq α] (d : α) (t : Tab α) : Bool := tabWfFrom d 0 t

/-- The entry at a key, if any. -/
def assoc {α : Type} (k : Nat) : List (Nat × α) → Option α
  | [] => none
  | (k', v) :: r => if k' = k then some v else assoc k r

/-- Sets the entry at a key, keeping the keys rising. -/
def assocSet {α : Type} (k : Nat) (v : α) : List (Nat × α) → List (Nat × α)
  | [] => [(k, v)]
  | (k', v') :: r =>
    if k' < k then (k', v') :: assocSet k v r else if k' = k then (k, v) :: r else (k, v) :: (k', v') :: r

/-- Removes the entry at a key. -/
def assocDel {α : Type} (k : Nat) (l : List (Nat × α)) : List (Nat × α) := l.filter (fun e => !(e.1 == k))

/-- Sets the value at a key; the value `d` removes the entry. -/
def tabSet {α : Type} [DecidableEq α] (d : α) (k : Nat) (v : α) (t : Tab α) : Tab α :=
  if v = d then assocDel k t else assocSet k v t

/-- Element `n` of a list, or `d`. -/
def listGet {α : Type} (d : α) : List α → Nat → α
  | [], _ => d
  | x :: _, 0 => x
  | _ :: r, n + 1 => listGet d r n

/-- Replaces element `n` of a list, if it is there. -/
def listSet {α : Type} : List α → Nat → α → List α
  | [], _, _ => []
  | _ :: r, 0, v => v :: r
  | x :: r, n + 1, v => x :: listSet r n v

/-- Puts element `n` of a list, filling it up with `d` where it is shorter. -/
def listPut {α : Type} (d : α) : List α → Nat → α → List α
  | [], 0, v => [v]
  | [], n + 1, v => d :: listPut d [] n v
  | _ :: r, 0, v => v :: r
  | x :: r, n + 1, v => x :: listPut d r n v

/-- Changes every element that meets a test. -/
def mapIf {α : Type} (p : α → Bool) (f : α → α) (l : List α) : List α := l.map (fun x => if p x then f x else x)

/-- A list without repeats, first occurrences kept. -/
def dedup {α : Type} [DecidableEq α] : List α → List α
  | [] => []
  | x :: r => if x ∈ r then dedup r else x :: dedup r

/-- What a byte of memory that nothing has written reads as (assumption 5). -/
def memDefault : Byte := 0

/-- The byte at a physical key. -/
def memGet (m : List Host.Cell) (a : Nat) : Byte := tabGet memDefault a m

/-- Writes one byte. -/
def memSet (m : List Host.Cell) (a : Nat) (v : Byte) : List Host.Cell := tabSet memDefault a v m

/-- Memory is in canonical form. -/
def Memory.wf (m : List Host.Cell) : Bool := tabWf memDefault m

/-- `n` bytes from a key upward, the lowest address first. -/
def memBytes (m : List Host.Cell) (a : Nat) : Nat → List Byte
  | 0 => []
  | n + 1 => memGet m a :: memBytes m (a + 1) n

/-- Writes bytes from a key upward. -/
def memPut (m : List Host.Cell) (a : Nat) : List Byte → List Host.Cell
  | [] => m
  | b :: bs => memPut (memSet m a b) (a + 1) bs

/-- Bytes as a little-endian number (spec 08, R196). -/
def leNat : List Byte → Nat
  | [] => 0
  | b :: bs => b.toNat + 256 * leNat bs

/-- The low `n` bytes of a number, little-endian. -/
def natLe : Nat → Nat → List Byte
  | 0, _ => []
  | n + 1, x => BitVec.ofNat 8 x :: natLe n (x / 256)

/-- `n` bytes read as a number. -/
def memNat (m : List Host.Cell) (a n : Nat) : Nat := leNat (memBytes m a n)

/-- A number written as `n` bytes. -/
def memPutNat (m : List Host.Cell) (a n x : Nat) : List Host.Cell := memPut m a (natLe n x)

end Sys2Proof.Machine
end

