-- ==== Sys2Proof/Machine/Numbers.lean ====
section
/-! DEFINITION. Number formats, rounding, saturation, FP32 arithmetic, block scales and the matrix sum (spec 04). Values are
exact: a sign, a natural significand and an integer exponent. -/

namespace Sys2Proof.Machine

/-- An exact value of a floating-point or logarithmic format (spec 04, R84, R86). -/
inductive Num where
  | nan
  | inf (neg : Bool)
  /-- (−1)^neg × m × 2^e; a zero keeps its sign -/
  | fin (neg : Bool) (m : Nat) (e : Int)
  deriving DecidableEq, Repr

/-- Rounding modes (spec 04, R93). -/
inductive Rnd where
  | rne | rz | ru | rd | sr
  deriving DecidableEq, Repr

/-- A binary floating-point format (spec 04, R84): exponent and fraction bits, bias, and whether it has infinities. -/
structure FpFmt where
  eb   : Nat
  fb   : Nat
  bias : Int
  inf  : Bool

def fp32F : FpFmt := ⟨8, 23, 127, true⟩
def fp16F : FpFmt := ⟨5, 10, 15, true⟩
def bf16F : FpFmt := ⟨8, 7, 127, true⟩
def e4m3F : FpFmt := ⟨4, 3, 7, false⟩
def e5m2F : FpFmt := ⟨5, 2, 15, true⟩

/-- 2^n for an integer n at or above zero; 1 below. -/
def pow2 (n : Int) : Nat := 2 ^ n.toNat

/-- m × 2^e as an integer multiple of 2^u, rounded down. -/
def scaleTo (m : Nat) (e u : Int) : Nat := if u ≤ e then m * pow2 (e - u) else m / pow2 (u - e)

/-- floor(log2 of m × 2^e), for m above zero. -/
def numLog (m : Nat) (e : Int) : Int := (Nat.log2 m : Int) + e

/-- The value of a bit pattern (spec 04, R84). -/
def fpDecode (f : FpFmt) (x : Nat) : Num :=
  let s := x / 2 ^ (f.eb + f.fb) % 2 == 1
  let e := x / 2 ^ f.fb % 2 ^ f.eb
  let m := x % 2 ^ f.fb
  if e == 2 ^ f.eb - 1 && f.inf then (if m == 0 then .inf s else .nan)
  else if e == 2 ^ f.eb - 1 && m == 2 ^ f.fb - 1 then .nan
  else if e == 0 then .fin s m (1 - f.bias - f.fb)
  else .fin s (2 ^ f.fb + m) ((e : Int) - f.bias - f.fb)

/-- The canonical NaN of a format (spec 04, R85). -/
def fpNan (f : FpFmt) : Nat :=
  if f.inf then (2 ^ f.eb - 1) * 2 ^ f.fb + 2 ^ (f.fb - 1) else 2 ^ (f.eb + f.fb) - 1

/-- The sign bit of a format. -/
def fpSign (f : FpFmt) (neg : Bool) : Nat := if neg then 2 ^ (f.eb + f.fb) else 0

/-- Infinity's bits (only in a format that has it). -/
def fpInf (f : FpFmt) (neg : Bool) : Nat := fpSign f neg + (2 ^ f.eb - 1) * 2 ^ f.fb

/-- The largest finite magnitude's bits (spec 04, R84). -/
def fpMax (f : FpFmt) (neg : Bool) : Nat :=
  fpSign f neg + (if f.inf then (2 ^ f.eb - 1) * 2 ^ f.fb - 1 else 2 ^ (f.eb + f.fb) - 2)

/-- Whether rounding the quotient `q`, with remainder `rem` of `2^sh` and a lost tail, goes away from zero (spec 04, R93,
R94). `draw` is the fresh 16-bit value of SR. -/
def roundsUp (r : Rnd) (neg : Bool) (q rem sh : Nat) (tail : Bool) (draw : BitVec 16) : Bool :=
  let inexact := rem != 0 || tail
  match r with
  | .rne => 2 * rem > 2 ^ sh || (2 * rem == 2 ^ sh && 0 < sh && (tail || q % 2 == 1))
  | .rz => false
  | .ru => inexact && !neg
  | .rd => inexact && neg
  | .sr => inexact && rem * 2 ^ 16 / 2 ^ sh + draw.toNat ≥ 2 ^ 16

/-- The out-of-range result (spec 04, R95). -/
def fpOverflow (f : FpFmt) (r : Rnd) (sat neg : Bool) : Nat :=
  let toMax := match r with
    | .rne | .sr => false
    | .rz => true
    | .ru => neg
    | .rd => !neg
  if sat || toMax then fpMax f neg else if f.inf then fpInf f neg else fpNan f

/-- Rounds m × 2^e (and a lost tail below it) to a format (spec 04, R93 to R95). -/
def fpRound (f : FpFmt) (r : Rnd) (sat neg : Bool) (m : Nat) (e : Int) (tail : Bool) (draw : BitVec 16) : Nat :=
  if m == 0 && !tail then fpSign f neg
  else
    let emin := 1 - f.bias - f.fb
    let ex := max emin (numLog m e - f.fb)
    let sh := (ex - e).toNat
    let q := if ex ≤ e then m * pow2 (e - ex) else m / 2 ^ sh
    let rem := if ex ≤ e then 0 else m % 2 ^ sh
    let q := if roundsUp r neg q rem sh tail draw then q + 1 else q
    -- a carry into the next binade
    let (q, ex) := if q == 2 ^ (f.fb + 1) then (2 ^ f.fb, ex + 1) else (q, ex)
    let big := (ex + f.fb + f.bias).toNat
    let bits := if q < 2 ^ f.fb then q else big * 2 ^ f.fb + (q - 2 ^ f.fb)
    if q ≥ 2 ^ f.fb && bits > fpMax f false then fpOverflow f r sat neg else fpSign f neg + bits

/-- An exact value to a floating-point format (spec 04, R85, R95, R96). -/
def fpEncode (f : FpFmt) (r : Rnd) (sat : Bool) (draw : BitVec 16) : Num → Nat
  | .nan => fpNan f
  | .inf neg => if sat then fpMax f neg else if f.inf then fpInf f neg else fpNan f
  | .fin neg m e => fpRound f r sat neg m e false draw

/-- The L6 summation table, in units of 2^−16 (spec 04, R86). -/
def l6tab : Nat → Nat
  | 0 => 0x10000 | 1 => 0x1306F | 2 => 0x16A0A | _ => 0x1AE8A

/-- l6tab(e mod 4) × 2^(e div 4 − 16), with floor division (spec 04, R86, R87). -/
def l6Value (neg : Bool) (e : Int) : Num := .fin neg (l6tab (e % 4).toNat) (e.fdiv 4 - 16)

/-- The value of an L6 element (spec 04, R86). -/
def l6Decode (x : Nat) : Num :=
  let c := x % 32
  if c == 0 then .fin (x / 32 % 2 == 1) 0 0 else l6Value (x / 32 % 2 == 1) ((c : Int) - 16)

/-- The product of two L6 elements by the sum of their logarithms (spec 04, R87). -/
def l6Mul (a b : Nat) : Num :=
  let neg := (a / 32 % 2 == 1) != (b / 32 % 2 == 1)
  if a % 32 == 0 || b % 32 == 0 then .fin neg 0 0 else l6Value neg ((a % 32 : Int) + (b % 32 : Int) - 32)

/-- The magnitude of an L6 code in units of 2^−20. -/
def l6Units (c : Nat) : Nat :=
  match l6Decode c with | .fin _ m e => scaleTo m e (-20) | _ => 0

/-- m × 2^e compared with n × 2^−21: below, equal or above. -/
def cmpUnits (m : Nat) (e : Int) (n : Nat) : Ordering :=
  if e ≤ -21 then compare m (n * pow2 (-21 - e)) else compare (m * pow2 (e + 21)) n

/-- The largest code whose magnitude is at most m × 2^e, counting up from `c` with fuel. -/
def l6Below (m : Nat) (e : Int) : Nat → Nat → Nat
  | 0, c => c
  | n + 1, c => if c < 31 && cmpUnits m e (2 * l6Units (c + 1)) != .lt then l6Below m e n (c + 1) else c

/-- Rounds an exact value to L6 (spec 04, R93, R95). -/
def l6Encode (r : Rnd) : Num → Nat
  | .nan => 0
  | .inf neg => (if neg then 32 else 0) + 31
  | .fin neg m e =>
    let c := l6Below m e 31 0
    let exact := cmpUnits m e (2 * l6Units c) == .eq
    let up := c < 31 && !exact && (match r with
      | .rne | .sr => match cmpUnits m e (l6Units c + l6Units (c + 1)) with
        | .gt => true | .eq => c % 2 == 1 | .lt => false
      | .rz => false | .ru => !neg | .rd => neg)
    (if neg then 32 else 0) + (if up then c + 1 else c)

/-- An exact value rounded to an integer (spec 04, R93); none for NaN, `inl` the sign of an infinity. -/
def intRound (r : Rnd) (draw : BitVec 16) : Num → Option (Bool ⊕ Int)
  | .nan => none
  | .inf neg => some (.inl neg)
  | .fin neg m e =>
    let q := if e ≤ 0 then m / pow2 (-e) else m * pow2 e
    let rem := if e ≤ 0 then m % pow2 (-e) else 0
    let q := if roundsUp r neg q rem (-e).toNat false draw then q + 1 else q
    some (.inr (if neg then -(q : Int) else q))

/-- The nearest bound of a range (spec 04, R95). -/
def clampInt (lo hi x : Int) : Int := if x < lo then lo else if hi < x then hi else x

/-- Bits of an integer format (spec 04, R82): i32, u32, i8, u8. -/
def intRange : Nat → Int × Int
  | 0 => (-2 ^ 31, 2 ^ 31 - 1) | 1 => (0, 2 ^ 32 - 1) | 2 => (-128, 127) | _ => (0, 255)

/-- The low `n` bits of an integer's two's-complement value. -/
def wrapInt (n : Nat) (x : Int) : Nat := (x % (2 ^ n : Nat)).toNat

/-- Width of a format's element (spec 04, R82). -/
def fmtBits : Nat → Nat
  | 0 | 1 | 4 => 32 | 2 | 3 | 7 | 8 => 8 | 5 | 6 => 16 | _ => 6

/-- The floating-point format of a code, FP32 where the code is none. -/
def fmtFp : Nat → FpFmt
  | 5 => fp16F | 6 => bf16F | 7 => e4m3F | 8 => e5m2F | _ => fp32F

/-- Signed value of an `n`-bit pattern. -/
def signedOf (n x : Nat) : Int := if x < 2 ^ (n - 1) then x else (x : Int) - 2 ^ n

/-- The integer a bit pattern of an integer format holds (spec 04, R82). -/
def intDecode (fmt x : Nat) : Int :=
  match fmt with
  | 0 => signedOf 32 x | 1 => x | 2 => signedOf 8 x | _ => x

/-- An integer as an exact value. -/
def numOfInt (x : Int) : Num := .fin (x < 0) x.natAbs 0

/-- The value of an element of a format (spec 04, R96). -/
def fmtDecode (fmt x : Nat) : Num :=
  if fmt < 4 then numOfInt (intDecode fmt x) else if fmt == 9 then l6Decode x else fpDecode (fmtFp fmt) x

/-- One conversion between formats of R82 (spec 04, R96; 05, R116). -/
def convert (src dst : Nat) (r : Rnd) (sat : Bool) (draw : BitVec 16) (x : Nat) : Nat :=
  let x := x % 2 ^ fmtBits src
  let v := fmtDecode src x
  if src == dst then (if v == .nan then fpNan (fmtFp dst) else x)
  else if dst < 4 then
    let (lo, hi) := intRange dst
    if src < 4 then
      let i := intDecode src x
      if sat then wrapInt (fmtBits dst) (clampInt lo hi i) else wrapInt (fmtBits dst) i
    else match intRound r draw v with
      | none => 0
      | some (.inl neg) => wrapInt (fmtBits dst) (if neg then lo else hi)
      | some (.inr i) => wrapInt (fmtBits dst) (clampInt lo hi i)
  else if dst == 9 then l6Encode r v
  else fpEncode (fmtFp dst) r sat draw v

/-- Rounding and saturation of an RS code below 111 (spec 03, R69). -/
def rsMode (rs : BitVec 3) : Rnd × Bool :=
  match rs.toNat with
  | 0 => (.rne, false) | 1 => (.rz, false) | 2 => (.ru, false) | 3 => (.rd, false) | 4 => (.sr, false)
  | 5 => (.rne, true) | _ => (.rz, true)

/-! Exact arithmetic. -/

def Num.neg : Num → Num
  | .nan => .nan | .inf s => .inf (!s) | .fin s m e => .fin (!s) m e

/-- A signed significand in units of 2^u, exact when u ≤ e. -/
def Num.units (u : Int) : Num → Int
  | .fin s m e => let n : Int := m * pow2 (e - u); if s then -n else n
  | _ => 0

/-- The exact sum; a zero sum is −0 only when both operands are (spec 04, R97, RNE). -/
def Num.add : Num → Num → Num
  | .nan, _ => .nan
  | _, .nan => .nan
  | .inf s, .inf t => if s == t then .inf s else .nan
  | .inf s, _ => .inf s
  | _, .inf t => .inf t
  | .fin s m e, .fin t n g =>
    let u := min e g
    let x := Num.units u (.fin s m e) + Num.units u (.fin t n g)
    if x == 0 then .fin (s && t && m == 0 && n == 0) 0 0 else .fin (x < 0) x.natAbs u

/-- The exact product. -/
def Num.mul : Num → Num → Num
  | .nan, _ => .nan
  | _, .nan => .nan
  | .inf s, .inf t => .inf (s != t)
  | .inf s, .fin t n _ => if n == 0 then .nan else .inf (s != t)
  | .fin s m _, .inf t => if m == 0 then .nan else .inf (s != t)
  | .fin s m e, .fin t n g => .fin (s != t) (m * n) (e + g)

/-- An FP32 operand. -/
def f32 (x : Word) : Num := fpDecode fp32F x.toNat

/-- An exact value rounded once to FP32. -/
def toF32 (r : Rnd) (sat : Bool) (draw : BitVec 16) (x : Num) : Word := BitVec.ofNat 32 (fpEncode fp32F r sat draw x)

/-- A sum whose exact value is zero with operands of opposite sign is −0 under RD (IEEE 754; spec 04, R97). -/
def addSigned (r : Rnd) (a b : Num) : Num :=
  match a, b, a.add b with
  | .fin s m _, .fin t n _, .fin z 0 e =>
    if r == .rd && !(s == t && m == 0 && n == 0) then .fin true 0 e else .fin z 0 e
  | _, _, x => x

def fadd (r : Rnd) (sat : Bool) (draw : BitVec 16) (a b : Word) : Word := toF32 r sat draw (addSigned r (f32 a) (f32 b))
def fsub (r : Rnd) (sat : Bool) (draw : BitVec 16) (a b : Word) : Word := toF32 r sat draw (addSigned r (f32 a) (f32 b).neg)
def fmul (r : Rnd) (sat : Bool) (draw : BitVec 16) (a b : Word) : Word := toF32 r sat draw ((f32 a).mul (f32 b))
def ffma (r : Rnd) (sat : Bool) (draw : BitVec 16) (a b c : Word) : Word :=
  toF32 r sat draw (addSigned r ((f32 a).mul (f32 b)) (f32 c))

/-- The exact order of two values that are not NaN: −0 below +0 when `zeros` is set. -/
def Num.lt (zeros : Bool) (a b : Num) : Bool :=
  match a, b with
  | .nan, _ => false
  | _, .nan => false
  | .inf s, .inf t => s && !t
  | .inf s, .fin _ _ _ => s
  | .fin _ _ _, .inf t => !t
  | .fin s m e, .fin t n g =>
    let u := min e g
    let x := Num.units u (.fin s m e)
    let y := Num.units u (.fin t n g)
    x < y || (zeros && x == 0 && y == 0 && s && !t)

/-- `fmin` and `fmax` (spec 04, R97). -/
def fminmax (isMax : Bool) (a b : Word) : Word :=
  match f32 a, f32 b with
  | .nan, .nan => 0x7FC00000
  | .nan, _ => b
  | _, .nan => a
  | x, y => if isMax then (if Num.lt true x y then b else a) else if Num.lt true y x then b else a

/-- Truth of a comparison condition on an order (spec 03, R72). -/
def condHolds (c : Nat) (lt eq : Bool) : Bool :=
  match c with
  | 0 => eq | 1 => !eq | 2 => lt | 3 => lt || eq | 4 => !lt && !eq | _ => !lt

/-- `fcmp` (spec 05, R113). -/
def fcmp (c : Nat) (a b : Word) : Bool :=
  match f32 a, f32 b with
  | .nan, _ => c == 1
  | _, .nan => c == 1
  | x, y => condHolds c (Num.lt false x y) (!Num.lt false x y && !Num.lt false y x)

/-- `fclass` (spec 05, R113). -/
def fclass (a : Word) : Word :=
  let s := a.getLsbD 31
  let e := (a.toNat / 2 ^ 23) % 256
  let m := a.toNat % 2 ^ 23
  let bit :=
    if e == 255 then (if m == 0 then (if s then 0 else 7) else if a.getLsbD 22 then 9 else 8)
    else if e == 0 then (if m == 0 then (if s then 3 else 4) else if s then 2 else 5)
    else if s then 1 else 6
  BitVec.ofNat 32 (2 ^ bit)

/-- `frnd`: the nearest integral value, the sign kept (spec 05, R113). -/
def frnd (r : Rnd) (a : Word) : Word :=
  match f32 a with
  | .nan => 0x7FC00000
  | .inf _ => a
  | .fin s m e =>
    if 0 ≤ e then a
    else
      let sh := (-e).toNat
      let q := m / 2 ^ sh
      let q := if roundsUp r s q (m % 2 ^ sh) sh false 0 then q + 1 else q
      toF32 .rne false 0 (.fin s q 0)

/-- `frcp` (spec 04, R97; 05, R113): the quotient carries 64 bits and a tail. -/
def frcp (r : Rnd) (sat : Bool) (draw : BitVec 16) (a : Word) : Word :=
  match f32 a with
  | .nan => 0x7FC00000
  | .inf s => BitVec.ofNat 32 (fpSign fp32F s)
  | .fin s m e =>
    if m == 0 then toF32 r sat draw (.inf s)
    else
      let k := Nat.log2 m + 64
      BitVec.ofNat 32 (fpRound fp32F r sat s (2 ^ k / m) (-(k : Int) - e) (2 ^ k % m != 0) draw)

/-- floor(√x), bit by bit from bit `n − 1`. -/
def isqrt (x : Nat) : Nat → Nat → Nat
  | 0, acc => acc
  | n + 1, acc => if (acc + 2 ^ n) * (acc + 2 ^ n) ≤ x then isqrt x n (acc + 2 ^ n) else isqrt x n acc

/-- √(m × 2^e) as a 64-bit root, its exponent, and whether a tail was lost. -/
def sqrtParts (m : Nat) (e : Int) : Nat × Int × Bool :=
  let k : Nat := 128 - Nat.log2 m
  let k := if (e - k) % 2 == 0 then k else k + 1
  let x := m * 2 ^ k
  let q := isqrt x 66 0
  (q, (e - k) / 2, q * q != x)

/-- `fsqrt` (spec 05, R113). -/
def fsqrt (r : Rnd) (sat : Bool) (draw : BitVec 16) (a : Word) : Word :=
  match f32 a with
  | .nan => 0x7FC00000
  | .inf true => 0x7FC00000
  | .inf false => toF32 r sat draw (.inf false)
  | .fin s m e =>
    if m == 0 then a
    else if s then 0x7FC00000
    else
      let (q, g, tail) := sqrtParts m e
      BitVec.ofNat 32 (fpRound fp32F r sat false q g tail draw)

/-! Approximate functions (spec 04, R97). A fixed-point value has `P` fraction bits. -/

def fixP : Nat := 400

/-- ln 2 × 2^400. -/
def fixLn2 : Nat := 0xb17217f7d1cf79abc9e3b39803f2f6af40f343267298b62d8a0d175b8baafa2be7b876206debac98559552fb4afa1b10ed2e

/-- π/2 × 2^400. -/
def fixHalfPi : Nat := 0x1921fb54442d18469898cc51701b839a252049c1114cf98e804177d4c76273644a29410f31c6809bbdf2a33679a7486366056

/-- Σ x^k / k! in fixed point, from term `t` of order `k` with fuel. -/
def expSum (x : Int) : Nat → Nat → Int → Int → Int
  | 0, _, _, acc => acc
  | n + 1, k, t, acc => expSum x n (k + 1) (t * x / 2 ^ fixP / ((k : Int) + 1)) (acc + t)

/-- Σ (−1)^j x^(2j+o) / (2j+o)! in fixed point. -/
def trigSum (x : Int) : Nat → Nat → Int → Int → Int
  | 0, _, _, acc => acc
  | n + 1, k, t, acc =>
    trigSum x n (k + 2) (-(t * x / 2 ^ fixP * x / 2 ^ fixP / (((k : Int) + 1) * ((k : Int) + 2)))) (acc + t)

/-- Binary digits of log2 of a fixed-point value in [1, 2), by repeated squaring. -/
def logBits : Nat → Nat → Nat → Nat
  | 0, _, acc => acc
  | n + 1, x, acc =>
    let y := x * x / 2 ^ fixP
    if 2 ^ (fixP + 1) ≤ y then logBits n (y / 2) (2 * acc + 1) else logBits n y (2 * acc)

/-- A fixed-point value near the function's exact result, good to far more than 100 bits, as an exact value. -/
def approxValue (op : Nat) (m : Nat) (e : Int) (neg : Bool) : Num :=
  let x : Int := (if neg then -1 else 1) * (scaleTo m e (-(fixP : Int)) : Nat)
  let ofFix (v : Int) (g : Int) : Num := .fin (v < 0) v.natAbs (g - fixP)
  match op with
  | 1 =>
    let (q, g, _) := sqrtParts m e
    let k := 2 * Nat.log2 q + 80
    .fin false (2 ^ k / q) (-(k : Int) - g)
  | 3 =>
    let i := x.fdiv (2 ^ fixP)
    let f := x - i * 2 ^ fixP
    ofFix (expSum (f * fixLn2 / 2 ^ fixP) 90 0 (2 ^ fixP) 0) i
  | 4 =>
    let l := Nat.log2 m
    let frac := logBits 120 (m * 2 ^ fixP / 2 ^ l) 0
    let v : Int := ((l : Int) + e) * 2 ^ 120 + frac
    .fin (v < 0) v.natAbs (-120)
  | _ =>
    let n := x.fdiv fixHalfPi
    let y := x - n * fixHalfPi
    let sin := trigSum y 80 1 y 0
    let cos := trigSum y 80 0 (2 ^ fixP) 0
    let q := ((if op == 5 then n else n + 1) % 4).toNat
    match q with
    | 0 => ofFix sin 0
    | 1 => ofFix cos 0
    | 2 => ofFix (-sin) 0
    | _ => ofFix (-cos) 0

/-- Twice the spacing of FP32 values at a magnitude, as an exponent shifted by one (so 2^result is 2 ulp). -/
def twoUlp (v : Num) : Int :=
  match v with
  | .fin _ m e => if m == 0 then -148 else max (-149) (numLog m e - 23) + 1
  | _ => -148

/-- |r − v| ≤ 2^b. -/
def nearEnough (r : Word) (v : Num) (b : Int) : Bool :=
  match f32 r, v with
  | .fin s m e, .fin t n g =>
    match (Num.fin s m e).add (Num.fin (!t) n g) with
    | .fin _ d h => let u := min h b; d * pow2 (h - u) ≤ pow2 (b - u)
    | _ => false
  | _, _ => false

/-- The stated bound of an approximate function on a finite operand (spec 04, R97), given a close value. -/
def approxOk (op : Nat) (a : Word) (v : Num) (r : Word) : Bool :=
  match op with
  | 1 => nearEnough r v (twoUlp v - 1)
  | 3 => nearEnough r v (twoUlp v)
  | 4 =>
    if fcmp 5 a 0x3F000000 && fcmp 3 a 0x40000000 then nearEnough r v (-22) else nearEnough r v (twoUlp v)
  | _ => nearEnough r v (-21)

/-- The exact cases of R97, or none. DESIGN CHOICE (assumption 7): `fex2` of a finite value at or below -512 is +0; R97 leaves +0 and
2^-149 open for a result below 2^-149, and above -512 the free value decides. -/
def approxExact (op : Nat) (a : Word) : Option Word :=
  match op, f32 a with
  | _, .nan => some 0x7FC00000
  | 1, .inf s => some (if s then 0x7FC00000 else 0)
  | 1, .fin s m e =>
    if m == 0 then some (BitVec.ofNat 32 (fpInf fp32F s))
    else if s then some 0x7FC00000
    else
      let (q, g, tail) := sqrtParts m e
      -- 1/√x is representable only when the root is a power of two
      if !tail && 2 ^ Nat.log2 q == q then some (toF32 .rne false 0 (.fin false 1 (-((Nat.log2 q : Int) + g)))) else none
  | 3, .inf s => some (if s then 0 else 0x7F800000)
  | 3, .fin s m e =>
    if m == 0 then some 0x3F800000
    else if numLog m e > 8 then some (if s then 0 else 0x7F800000)
    else
      let x := Num.units (min e 0) (.fin s m e)
      let one : Int := pow2 (-(min e 0))
      if x % one == 0 && -149 ≤ x / one && x / one ≤ 127 then some (toF32 .rne false 0 (.fin false 1 (x / one)))
      else if x / one ≥ 128 then some 0x7F800000
      else none
  | 4, .inf s => some (if s then 0x7FC00000 else 0x7F800000)
  | 4, .fin s m e =>
    if m == 0 then some 0xFF800000
    else if s then some 0x7FC00000
    else if 2 ^ Nat.log2 m == m then some (toF32 .rne false 0 (numOfInt (numLog m e)))
    else none
  | _, .inf _ => some 0x7FC00000
  | 5, .fin _ m _ => if m == 0 then some a else none
  | _, .fin _ m _ => if m == 0 then some 0x3F800000 else none

/-- `frsq`, `fex2`, `flg2`, `fsin` and `fcos`: FN of opcode 0x09. The hardware's own result where it meets the bound of
R97, and the nearest value where the free value does not (assumption 7). -/
def fapprox (op : Nat) (a : Word) : Word :=
  match approxExact op a with
  | some r => r
  | none =>
    match f32 a with
    | .fin s m e =>
      let v := approxValue op m e s
      let r := Config.approx op a
      if op == 3 && numLog 1 (-149) > (match v with | .fin _ n g => numLog n g | _ => 0) then
        -- a result below 2^−149 rounds to +0 or 2^−149
        if r == 0 || r == 1 then r else 0
      else if approxOk op a v r then r else toF32 .rne false 0 v
    | _ => 0x7FC00000

/-! Scales (spec 04, R89, R90). -/

/-- The value of an E8M2 scale; none for e = 255. -/
def e8m2 (x : Nat) : Num :=
  let e := x / 4 % 256
  if e == 255 then .nan else .fin false (4 + x % 4) ((e : Int) - 129)

/-- `scl` (spec 05, R119). -/
def fscl (div : Bool) (r : Rnd) (sat : Bool) (draw : BitVec 16) (a b : Word) : Word :=
  match f32 a, e8m2 (b.toNat % 1024) with
  | .nan, _ => 0x7FC00000
  | _, .nan => 0x7FC00000
  | .fin s m e, .fin _ n g =>
    if div then
      let k := Nat.log2 n + 64
      BitVec.ofNat 32 (fpRound fp32F r sat s (m * 2 ^ k / n) (e - g - k) (m * 2 ^ k % n != 0) draw)
    else toF32 r sat draw ((Num.fin s m e).mul (.fin false n g))
  | x, _ => toF32 r sat draw x

/-! The matrix sum (spec 04, R98 to R101). -/

/-- floor(log2 |x|) of a nonzero finite value. -/
def Num.log : Num → Option Int
  | .fin _ m e => if m == 0 then none else some (numLog m e)
  | _ => none

def Num.isNan : Num → Bool | .nan => true | _ => false
def Num.isZero : Num → Bool | .fin _ m _ => m == 0 | _ => false
def Num.isNegZero : Num → Bool | .fin s m _ => s && m == 0 | _ => false
def Num.isInf (s : Bool) : Num → Bool | .inf t => s == t | _ => false

/-- Rounds a nonzero sum in units of 2^u to FP32 by RNE, a set sticky bit breaking a tie away from zero (spec 04, R99). -/
def roundSticky (s : Int) (u : Int) (sticky : Bool) : Word :=
  let m := s.natAbs
  let ex := max (-149) (numLog m u - 23)
  let sh := (ex - u).toNat
  let tie := u < ex && 2 * (m % 2 ^ sh) == 2 ^ sh
  if tie && sticky then BitVec.ofNat 32 (fpRound fp32F .rne false (s < 0) (m / 2 ^ sh + 1) ex false 0)
  else BitVec.ofNat 32 (fpRound fp32F .rne false (s < 0) m u false 0)

/-- One step's combination of its terms with the incoming accumulator (spec 04, R99). -/
def mmCombine (terms : List Num) (c : Num) : Word :=
  let all := c :: terms
  if all.any Num.isNan || (all.any (Num.isInf true) && all.any (Num.isInf false)) then 0x7FC00000
  else if all.any (Num.isInf true) then 0xFF800000
  else if all.any (Num.isInf false) then 0x7F800000
  else match all.filterMap Num.log with
  | [] => if all.all Num.isNegZero then 0x80000000 else 0
  | l :: ls =>
    let lo := ls.foldl max l - 79
    let u := match c with | .fin _ _ e => min lo e | _ => lo
    let step (acc : Int × Bool) (x : Num) : Int × Bool :=
      match x with
      | .fin s m e =>
        let t : Int := (scaleTo m e lo : Nat)
        let lost := e < lo && m % pow2 (lo - e) != 0
        (acc.1 + (if s then -t else t) * pow2 (lo - u), acc.2 || lost)
      | _ => acc
    let (s, sticky) := terms.foldl step (0, false)
    let (s, sticky) := match c.log with
      | none => (s, sticky)
      | some g => if lo ≤ g then (s + c.units u, sticky) else (s, true)
    if s == 0 then 0 else roundSticky s u sticky

/-- The integer path's result (spec 04, R101). -/
def intCombine (c : Word) (sum : Int) (sat : Bool) : Word :=
  let x := c.toInt + sum
  BitVec.ofNat 32 (wrapInt 32 (if sat then clampInt (-2 ^ 31) (2 ^ 31 - 1) x else x))

end Sys2Proof.Machine
end

