-- ==== Sys2Proof/Machine/Flags.lean ====
section
/-! DEFINITION. Truth values the instructions compute into predicates: comparisons, carries and votes (spec 03, R72; 05,
R109, R121, R122, R128). -/

namespace Sys2Proof.Machine

/-- a condition b, compared signed or unsigned (spec 03, R72). -/
def intCond (c : Nat) (uns : Bool) (a b : Word) : Bool :=
  condHolds c (if uns then a.ult b else a.slt b) (a == b)

/-- Sum and carry-out of `addc` (spec 05, R109). -/
def addCarry (a b : Word) (cin : Bool) : Word × Bool :=
  let t := a.toNat + b.toNat + cin.toNat
  (BitVec.ofNat 32 t, 2 ^ 32 ≤ t)

/-- Difference and borrow-out of `subb` (spec 05, R109). -/
def subBorrow (a b : Word) (bin : Bool) : Word × Bool :=
  (a - b - BitVec.ofNat 32 bin.toNat, a.toNat < b.toNat + bin.toNat)

/-- A guard's truth where its predicate reads `p` (spec 01, R20). -/
def guardTruth (neg p : Bool) : Bool := neg != p

end Sys2Proof.Machine
end

