-- ==== Sys2Proof/Machine/Memory.lean ====
section
/-! DEFINITION. Lookup and update of the machine's records, placement, page tables, TLBs and what a byte of memory reads
as (spec 07, 14, 15). -/

namespace Sys2Proof.Machine

abbrev Out := Host.Outcome State Fault Refusal

/-! Records by name. -/

/-- Threads are listed by workgroup × 8192 + number. -/
def threadKey (wg tid : Nat) : Nat := wg * 8192 + tid

/-- What is not there: an ended thread with nothing. -/
def Thread.gone : Thread :=
  { status := .ended, pc := 0, left := 0, block := 0, vregs := [], preds := 0, ld := 0, st := 0, cp := 0, tl := 0
    stack := [], owed := [], hold := none, sub := 0, reconv := [], written := [], fences := [] }

def State.thread (s : State) (wg tid : Nat) : Thread := tabGet Thread.gone (threadKey wg tid) s.threads

def State.setThread (s : State) (wg tid : Nat) (t : Thread) : State :=
  { s with threads := tabSet Thread.gone (threadKey wg tid) t s.threads }

def State.modThread (s : State) (wg tid : Nat) (f : Thread → Thread) : State := s.setThread wg tid (f (s.thread wg tid))

/-- Changes each listed thread of a workgroup, once. -/
def State.modThreads (s : State) (wg : Nat) (tids : List Nat) (f : Thread → Thread) : State :=
  (dedup tids).foldl (fun s t => s.modThread wg t f) s

/-- Changes each listed thread of a workgroup, once, by a function of its number. -/
def State.modEach (s : State) (wg : Nat) (tids : List Nat) (f : Nat → Thread → Thread) : State :=
  (dedup tids).foldl (fun s t => s.modThread wg t (f t)) s

/-- Changes threads of a workgroup that has not ended. -/
def State.modLive (s : State) (wg : Nat) (tids : List Nat) (f : Thread → Thread) : State :=
  if s.wgs.any (·.id == wg) then s.modThreads wg tids f else s

def State.group? (s : State) (id : Nat) : Option Group := s.groups.find? (·.id == id)
def State.wg? (s : State) (id : Nat) : Option Workgroup := s.wgs.find? (·.id == id)
def State.gang? (s : State) (id : Nat) : Option Gang := s.gangs.find? (·.id == id)
def State.launch? (s : State) (id : Nat) : Option Launch := s.launches.find? (·.id == id)
def State.bin? (s : State) (id : Nat) : Option Bin := s.bins.find? (·.id == id)
def State.flight? (s : State) (id : Nat) : Option Flight := s.flights.find? (·.id == id)
def State.tile? (s : State) (id : Nat) : Option TileOp := s.tiles.find? (·.id == id)
def State.engine? (s : State) (id : Nat) : Option EngineOp := s.engines.find? (·.id == id)
def State.world? (s : State) (w : Nat) : Option World := assoc w s.worlds

def State.modGroup (s : State) (id : Nat) (f : Group → Group) : State := { s with groups := mapIf (·.id == id) f s.groups }
def State.modWg (s : State) (id : Nat) (f : Workgroup → Workgroup) : State := { s with wgs := mapIf (·.id == id) f s.wgs }
def State.modGang (s : State) (id : Nat) (f : Gang → Gang) : State := { s with gangs := mapIf (·.id == id) f s.gangs }
def State.modLaunch (s : State) (id : Nat) (f : Launch → Launch) : State :=
  { s with launches := mapIf (·.id == id) f s.launches }
def State.modEngine (s : State) (id : Nat) (f : EngineOp → EngineOp) : State :=
  { s with engines := mapIf (·.id == id) f s.engines }
def State.modFlight (s : State) (id : Nat) (f : Flight → Flight) : State :=
  { s with flights := mapIf (·.id == id) f s.flights }
def State.modTile (s : State) (id : Nat) (f : TileOp → TileOp) : State := { s with tiles := mapIf (·.id == id) f s.tiles }
def State.modWorld (s : State) (w : Nat) (f : World → World) : State :=
  match s.world? w with
  | some x => { s with worlds := assocSet w (f x) s.worlds }
  | none => s
def State.die (s : State) (d : Nat) : Die := listGet Die.new s.dies d
def State.modDie (s : State) (d : Nat) (f : Die → Die) : State := { s with dies := listPut Die.new s.dies d (f (s.die d)) }
def State.modCore (s : State) (c : Nat) (f : CoreRegs → CoreRegs) : State :=
  { s with cores := tabSet {} c (f (tabGet {} c s.cores)) s.cores }

def State.stt? (s : State) (wg page : Nat) : Option SttEntry := s.stt.find? (fun x => x.wg == wg && x.page == page)

def State.modStt (s : State) (wg page : Nat) (f : SttEntry → SttEntry) : State :=
  { s with stt := mapIf (fun x => x.wg == wg && x.page == page) f s.stt }

/-- A fresh name. -/
def State.fresh (s : State) : Nat × State := (s.nextId, { s with nextId := s.nextId + 1 })

/-! Fields of a launch packet (spec 10, R267). -/

def Launch.word (l : Launch) (n : Nat) : Code := listGet 0 l.words n
def Launch.field (l : Launch) (n lo len : Nat) : Nat := ((l.word n).extractLsb' lo len).toNat
def Launch.code (l : Launch) : Nat := l.field 0 3 53 * 8
def Launch.ksize (l : Launch) : Nat := l.field 1 0 16
def Launch.gx (l : Launch) : Nat := l.field 1 40 24
def Launch.gy (l : Launch) : Nat := l.field 1 16 24
def Launch.gz (l : Launch) : Nat := l.field 2 40 24
def Launch.wx (l : Launch) : Nat := l.field 2 27 13 + 1
def Launch.wy (l : Launch) : Nat := l.field 2 14 13 + 1
def Launch.wz (l : Launch) : Nat := l.field 2 1 13 + 1
def Launch.perGang (l : Launch) : Nat := l.field 3 60 4 + 1
def Launch.vregs (l : Launch) : Nat := l.field 3 52 8
def Launch.sregs (l : Launch) : Nat := l.field 3 43 9
def Launch.acc (l : Launch) : Nat := l.field 3 38 5
def Launch.spad (l : Launch) : Nat := l.field 3 23 15 * 1024
def Launch.producer (l : Launch) : Nat := l.field 3 15 8
def Launch.fused (l : Launch) : Bool := l.field 3 14 1 == 1
def Launch.cores (l : Launch) : Bool := l.field 3 13 1 == 1
def Launch.wkind (l : Launch) : Nat := l.field 3 11 2
def Launch.nring (l : Launch) : Nat := l.field 3 7 4
def Launch.cscope (l : Launch) : Nat := l.field 3 4 3
def Launch.seed (l : Launch) : Code := l.word 4
def Launch.lctr (l : Launch) : Nat := l.field 5 48 16
def Launch.gctr (l : Launch) : Nat := l.field 5 32 16
def Launch.pctr (l : Launch) : Nat := l.field 5 16 16
def Launch.jctr (l : Launch) : Nat := l.field 5 0 16
def Launch.start (l : Launch) (d : Nat) : Nat := l.field (10 + d) 40 24
def Launch.count (l : Launch) (d : Nat) : Nat := l.field (10 + d) 16 24
def Launch.slot (l : Launch) (k : Nat) : Code := l.word (18 + k)
def Launch.ring (l : Launch) (r : Nat) : Nat := l.field (27 + r / 2) (32 * (r % 2)) 32
def Launch.threads (l : Launch) : Nat := l.wx * l.wy * l.wz
def Launch.workgroups (l : Launch) : Nat := l.gx * l.gy * l.gz
def Launch.gangs (l : Launch) : Nat := l.workgroups / l.perGang

/-- Home groups of a workgroup (spec 02, R26). -/
def Workgroup.groups (w : Workgroup) : Nat := (w.threads + 31) / 32

/-! Physical keys: one number for every byte the chip can reach. -/

def keyWindow : Nat := 2 ^ 80
def keyHost : Nat := 2 * 2 ^ 80
def keyPeer : Nat := 3 * 2 ^ 80
def keySpad : Nat := 4 * 2 ^ 80

/-- The key of a scratchpad byte of a workgroup. -/
def spadKey (wg a : Nat) : Nat := keySpad + wg * 2 ^ 24 + a % 2 ^ 24

def isDevice (k : Nat) : Bool := k < 2 ^ 43
def isHost (k : Nat) : Bool := keyHost ≤ k && k < keyPeer
def isPeer (k : Nat) : Bool := keyPeer ≤ k && k < keySpad
def isWindow (k : Nat) : Bool := keyWindow ≤ k && k < keyHost
/-- The die that homes a device byte. -/
def keyDie (k : Nat) : Nat := k / 2 ^ 40
/-- DRAM the die does not have (spec 00, R4), and window addresses beyond its 8 MiB (spec 02, R50). -/
def keyAbsent (k : Nat) : Bool :=
  (isDevice k && Config.dramBytes (keyDie k) ≤ k % 2 ^ 40) || (isWindow k && keyWindow + 2 ^ 23 ≤ k)
/-- The chip of a peer byte, and the world whose page names it. -/
def keyChip (k : Nat) : Nat := k / 2 ^ 40 % 4096
def keyWorld (k : Nat) : Nat := k / 2 ^ 52 % 256

/-- No byte of a key range lies on a scratchpad page that is out (spec 08, R201). -/
def State.spadHere (s : State) (k n : Nat) : Bool :=
  k < keySpad || !s.stt.any (fun x => !x.present &&
    k < spadKey x.wg (x.page * 1024) + 1024 && spadKey x.wg (x.page * 1024) < k + n)

/-- A scratchpad page has been written (spec 14, R327). -/
def State.soil (s : State) (k : Nat) : State :=
  if k < keySpad then s
  else s.modStt ((k - keySpad) / 2 ^ 24) (k % 2 ^ 24 / 1024) (fun y => { y with dirty := true })

/-- The 128-byte line of a key. -/
def lineOf (k : Nat) : Nat := k / 128

/-! Placement (spec 14, R321). -/

/-- The dies a mask holds, in rising order. -/
def dieList (m : BitVec 8) : List Nat := (List.range 8).filter (fun d => m.getLsbD d)

/-- The die-local key of a world-physical address; none takes PROT. -/
def World.place (w : World) (wpa : Nat) : Option Nat :=
  let dies := dieList w.diemask
  let n := dies.length
  if n == 0 then none
  else
    let g := wpa / 4096
    let q := g / n
    if w.qlimit.toNat ≤ q then none
    else
      let h := ((q % 2 ^ 27) ^^^ w.seed.toNat) * 0x9E3779B1 % 2 ^ 32
      let d := listGet 0 dies ((g % n + h / 2 ^ 24 % n) % n)
      some (d * 2 ^ 40 + (listGet 0 w.dbase d).toNat * 4096 + q * 4096 + wpa % 4096)

/-- The world-physical granule that the placement puts at a die-local key (spec 14, R321). -/
def World.unplace (w : World) (k : Nat) : Nat :=
  let dies := dieList w.diemask
  let n := dies.length
  let d := k / 2 ^ 40
  let q := k % 2 ^ 40 / 4096 - (listGet 0 w.dbase d).toNat
  let h := ((q % 2 ^ 27) ^^^ w.seed.toNat) * 0x9E3779B1 % 2 ^ 32
  let i := (dies.findIdx? (· == d)).getD 0
  q * n + (if n == 0 then 0 else (i + n - h / 2 ^ 24 % n) % n)

/-! Page tables (spec 14, R315 to R317). -/

/-- A line lies in some ranges, each given by first key and length. -/
def inRanges (rs : List (Nat × Nat)) (line : Nat) : Bool := rs.any (fun r => r.1 < line * 128 + 128 && line * 128 < r.1 + r.2)

/-- Why a translation answers no page. -/
inductive XFault where
  /-- an absent table entry, or a leaf with V = 0: log2 of its page, and its G bit (spec 14, R316) -/
  | absent (bits : Nat) (green : Bool)
  | prot | malformed
  deriving DecidableEq, Repr

/-- A valid leaf: its entry and the log2 of its page. -/
structure Leaf where
  pte  : BitVec 64
  bits : Nat
  deriving DecidableEq, Repr

def pteValid (e : BitVec 64) : Bool := e.getLsbD 63
def pteLeaf (e : BitVec 64) : Bool := e.getLsbD 62
def pteTgt (e : BitVec 64) : Nat := (e.extractLsb' 60 2).toNat
def pteOtag (e : BitVec 64) : Nat := (e.extractLsb' 56 4).toNat
def pteGreen (e : BitVec 64) : Bool := e.getLsbD 55
def pteSys (e : BitVec 64) : Bool := e.getLsbD 54
def pteX (e : BitVec 64) : Bool := e.getLsbD 53
def pteW (e : BitVec 64) : Bool := e.getLsbD 52
/-- ADDR[51:16] as an address. -/
def pteAddr (e : BitVec 64) : Nat := (e.extractLsb' 16 36).toNat * 2 ^ 16
/-- ADDR[51:8] of a table entry. -/
def pteNext (e : BitVec 64) : Nat := (e.extractLsb' 8 44).toNat * 2 ^ 8

/-- A well-formed table entry whose next table has `2^bits` bytes (spec 14, R316, R317). -/
def tableEntryOk (e : BitVec 64) (bits : Nat) : Bool :=
  e.extractLsb' 52 11 == 0 && e.extractLsb' 0 8 == 0 && pteNext e % 2 ^ bits == 0 && pteNext e < 2 ^ 40

/-- A well-formed leaf of a page of `2^bits` bytes (spec 14, R316, R317). DESIGN CHOICE (assumption 65): a 2 MiB or 1 GiB leaf
whose target is the host-coherent window is well-formed; spec 02, R46 gives the window 64 KiB pages and R317 does not call such
a leaf malformed. -/
def leafOk (e : BitVec 64) (bits : Nat) : Bool :=
  e.extractLsb' 0 16 == 0 && pteAddr e % 2 ^ bits == 0 && (!pteGreen e || (bits == 16 && pteTgt e == 0)) &&
  (pteTgt e != 0 || pteAddr e < 2 ^ 40)

/-- Reads a page-table entry at its home. -/
def World.pte (w : World) (m : List Host.Cell) (table index : Nat) : Option (BitVec 64) :=
  (w.place (table + 8 * index)).map (fun k => BitVec.ofNat 64 (memNat m k 8))

/-- The last level: a leaf of 64 KiB. -/
def World.walk4 (w : World) (m : List Host.Cell) (table va : Nat) : Except XFault Leaf :=
  match w.pte m table (va / 2 ^ 16 % 32) with
  | none => .error .prot
  | some e =>
    if !pteValid e then .error (.absent 16 (pteLeaf e && pteGreen e))
    else if pteLeaf e && leafOk e 16 then .ok ⟨e, 16⟩ else .error .malformed

/-- Level 3: a leaf of 2 MiB, or a table of 256 bytes. -/
def World.walk3 (w : World) (m : List Host.Cell) (table va : Nat) : Except XFault Leaf :=
  match w.pte m table (va / 2 ^ 21 % 512) with
  | none => .error .prot
  | some e =>
    if !pteValid e then .error (.absent (if pteLeaf e then 21 else 16) false)
    else if pteLeaf e then (if leafOk e 21 then .ok ⟨e, 21⟩ else .error .malformed)
    else if tableEntryOk e 8 then w.walk4 m (pteNext e) va else .error .malformed

/-- Level 2: a leaf of 1 GiB, or a table of 4 KiB. -/
def World.walk2 (w : World) (m : List Host.Cell) (table va : Nat) : Except XFault Leaf :=
  match w.pte m table (va / 2 ^ 30 % 8192) with
  | none => .error .prot
  | some e =>
    if !pteValid e then .error (.absent (if pteLeaf e then 30 else 16) false)
    else if pteLeaf e then (if leafOk e 30 then .ok ⟨e, 30⟩ else .error .malformed)
    else if tableEntryOk e 12 then w.walk3 m (pteNext e) va else .error .malformed

/-- The walk of a 56-bit address from PTROOT (spec 14, R315). -/
def World.walk (w : World) (m : List Host.Cell) (va : Nat) : Except XFault Leaf :=
  match w.pte m (w.ptroot.toNat * 2 ^ 16) (va / 2 ^ 43 % 8192) with
  | none => .error .prot
  | some e =>
    if !pteValid e then .error (.absent 16 false)
    else if !pteLeaf e && tableEntryOk e 16 then w.walk2 m (pteNext e) va else .error .malformed

/-- What an address translates to. -/
structure Trans where
  key   : Nat
  leaf  : Leaf
  deriving DecidableEq, Repr

def Trans.green (t : Trans) : Bool := pteGreen t.leaf.pte
def Trans.w (t : Trans) : Bool := pteW t.leaf.pte
def Trans.tgt (t : Trans) : Nat := pteTgt t.leaf.pte

/-- Log2 of the page size of a TLB entry (spec 14, R318). -/
def sizeBits (z : Nat) : Nat := match z with | 0 => 16 | 1 => 21 | _ => 30

/-- A TLB entry covers an address (spec 14, R318). -/
def TlbEntry.covers (t : TlbEntry) (world va : Nat) : Bool :=
  t.world == world && t.vpn / 2 ^ (sizeBits t.size - 16) == va / 2 ^ sizeBits t.size

/-- The leaf at one place's TLB. -/
def State.tlbAt (s : State) (place world va : Nat) : Option Leaf :=
  (s.tlb.find? (fun t => t.place == place && t.covers world va)).map (fun t => ⟨t.leaf, sizeBits t.size⟩)

/-- The base-die TLB behind a place; the IOD walks by itself. -/
def behind (place : Nat) : Nat := if place < 1000 then 1000 + Config.dieOfCore place else place

/-- Core TLB, then base-die TLB, then a walk (spec 14, R318). -/
def State.leafAt (s : State) (place world va : Nat) : Except XFault Leaf :=
  match s.tlbAt place world va with
  | some l => .ok l
  | none =>
    match s.tlbAt (behind place) world va with
    | some l => .ok l
    | none => match s.world? world with
      | some w => w.walk s.mem va
      | none => .error .prot

/-- The target of a leaf (spec 14, R316, R321, R323). -/
def State.target (s : State) (world va : Nat) (l : Leaf) : Except XFault Nat :=
  match s.world? world with
  | none => .error .prot
  | some w =>
    let a := pteAddr l.pte + va % 2 ^ l.bits
    match pteTgt l.pte with
    | 0 => match w.place a with | some k => .ok k | none => .error .prot
    | 1 => if a < w.winsize.toNat * 65536 then .ok (keyWindow + w.winbase.toNat * 65536 + a) else .error .prot
    | 2 => .ok (keyHost + world * 2 ^ 52 + a)
    | _ =>
      if a / 2 ^ 40 == s.iod.chip.toNat then
        match w.place (a % 2 ^ 40) with | some k => .ok k | none => .error .prot
      else .ok (keyPeer + world * 2 ^ 52 + a)

/-- Translates an address at a place (spec 14, R315 to R323). -/
def State.translate (s : State) (place world va : Nat) : Except XFault Trans :=
  match s.leafAt place world (va % 2 ^ 56) with
  | .error e => .error e
  | .ok l => match s.target world (va % 2 ^ 56) l with
    | .error e => .error e
    | .ok k => .ok ⟨k, l⟩

/-- Entries a TLB holds (spec 14, R318). -/
def tlbCapacity (place : Nat) : Nat := if place < 1000 then 512 else 16384

/-- Adds an entry to one TLB, the oldest of a full one giving way (assumption 14). -/
def tlbAdd (e : TlbEntry) (t : List TlbEntry) : List TlbEntry :=
  if t.any (fun x => x.place == e.place && x.world == e.world && x.vpn == e.vpn && x.size == e.size) then t
  else
    let t := if (t.filter (·.place == e.place)).length < tlbCapacity e.place then t
      else match t.findIdx? (·.place == e.place) with | some i => t.eraseIdx i | none => t
    t ++ [e]

/-- Fills the TLBs of a place with the translation of an address, if it has one (spec 14, R318). -/
def State.tlbFill (s : State) (place world va : Nat) : State :=
  match s.leafAt place world va with
  | .error _ => s
  | .ok l =>
    let z := if l.bits == 16 then 0 else if l.bits == 21 then 1 else 2
    let e (p : Nat) : TlbEntry := ⟨p, world, va / 2 ^ l.bits * 2 ^ (l.bits - 16), z, l.pte⟩
    { s with tlb := tlbAdd (e place) (tlbAdd (e (behind place)) s.tlb) }

/-! What a byte reads as. -/

/-- The cluster of a core (spec 02, R41). -/
def clusterOf (core : Nat) : Nat := core / 4

/-- A cluster's L1s are fused (spec 07, R162). -/
def State.fusedL1 (s : State) (cluster : Nat) : Bool := (tabGet {} (4 * cluster) s.cores).fused

/-- The L1 a core uses: its own, or its cluster's when that is fused: every access from the cluster goes to the one slice of its line
(spec 07, R162). -/
def State.l1Owner (s : State) (core : Nat) : Nat := if s.fusedL1 (clusterOf core) then 4 * clusterOf core else core

/-- Word key of a byte. -/
def wordOf (k : Nat) : Nat := k / 4 * 4

/-- A run sees what first runs wrote to greenware, but for the run it repeats, and what it wrote itself (spec 15, R346;
assumption 24). -/
def Launch.sees (l : Launch) (shadow : Bool) (launch : Nat) : Bool := if shadow then launch == l.id else l.shadowOf != some launch

/-- The version a run's loads may see: its own run's, or a settled order of the first runs (spec 15, R346; assumption 24). -/
def Version.seenBy (v : Version) (l : Launch) : Bool := l.sees v.shadow v.launch

/-- The newest pending version a run sees that wrote a word. -/
def State.supplier (s : State) (l : Launch) (word : Nat) : Option Version :=
  s.versions.foldl (fun best v =>
    if v.seenBy l && (assoc word v.words).isSome then
      match best with
      | some b => if b.id < v.id then some v else best
      | none => some v
    else best) none

/-- A byte's value in a word of a version. -/
def byteOf (x : Word) (k : Nat) : Byte := x.extractLsb' (8 * (k % 4)) 8

/-- Fired or unversioned contents: the LLC's copy of host memory, else the home (spec 07, R162, R173). -/
def State.homeByte (s : State) (k : Nat) : Byte :=
  if isHost k then
    match s.iod.hostLines.find? (fun h => h.line == lineOf k) with
    | some h => listGet 0 h.bytes (k % 128)
    | none => memGet s.mem k
  else memGet s.mem k

/-- What the home answers a run: on a greenware page its newest version, else the contents (spec 02, R49; 15, R346). -/
def State.keptByte (s : State) (l : Launch) (k : Nat) (green : Bool) : Byte :=
  match (if green then s.supplier l (wordOf k) else none) with
  | some v => byteOf ((assoc (wordOf k) v.words).getD 0) k
  | none => s.homeByte k

/-- Puts bytes into a word, from a byte offset. -/
def mergeWord (old : Word) (off size : Nat) (data : Word) : Word :=
  let m : Word := BitVec.ofNat 32 ((2 ^ (8 * size) - 1) * 2 ^ (8 * off))
  (old &&& ~~~m) ||| ((data <<< (8 * off)) &&& m)

/-- First key, size and data of what an element writes at its home: the whole word where it was filled (spec 07, R171). -/
def Elem.out (e : Elem) (data : Word) : Nat × Nat × Word :=
  match e.fill with
  | some w => (wordOf e.key, 4, mergeWord w (e.key % 4) e.size data)
  | none => (e.key, e.size, data)

/-- The byte of a store element at a key, if what it writes through covers it (spec 07, R171). -/
def Elem.byteAt (e : Elem) (k : Nat) : Option Byte :=
  let o := e.out e.data
  if o.1 ≤ k && k < o.1 + o.2.1 then some (o.2.2.extractLsb' (8 * (k - o.1)) 8) else none

/-- A store of the core's cluster that has passed the crossbar and is on its way to its home (spec 07, R169). -/
def Flight.onWay (f : Flight) (core : Nat) : Bool :=
  f.kind == .store && f.passed && !f.spad && !f.poisoned && clusterOf f.core == clusterOf core

/-- A store's element is written where a run sees it (spec 15, R346, R353). -/
def State.showsTo (s : State) (l : Launch) (f : Flight) (x : Elem) : Bool :=
  let shadow := (s.launch? f.launch).any (fun m => m.shadowOf.isSome)
  if x.green then l.sees shadow f.launch else !shadow

/-- The last store of the cluster past the crossbar and still on its way that a run sees at a byte, with the byte
(spec 07, R165, R169). -/
def State.transit (s : State) (l : Launch) (core k : Nat) : Option (Flight × Byte) :=
  s.flights.foldl (fun best f =>
    if !f.onWay core then best
    else match f.elems.findSome? (fun x => if s.showsTo l f x then x.byteAt k else none), best with
      | some b, none => some (f, b)
      | some b, some y => if y.1.passOrder < f.passOrder then some (f, b) else best
      | none, _ => best) none

/-- What a thread's load of a byte returns: a store of its cluster past the crossbar, a line of its L1 unless the load reads at
the home, else the home (spec 07, R164 to R172; 15, R346). -/
def State.loadByte (s : State) (l : Launch) (core k : Nat) (acq green : Bool) : Byte :=
  if keySpad ≤ k then memGet s.mem k
  else match s.transit l core k with
  | some x => x.2
  | none =>
    if acq || green then s.keptByte l k green
    else match s.l1.find? (fun x => x.owner == s.l1Owner core && x.line == lineOf k && s.clock < x.clock + 4096) with
      | some x => listGet 0 x.bytes (k % 128)
      | none => s.homeByte k

/-- `n` bytes a load returns, as a number. -/
def State.loadNat (s : State) (l : Launch) (core k : Nat) (acq green : Bool) : Nat → Nat
  | 0 => 0
  | n + 1 => (s.loadByte l core k acq green).toNat + 256 * s.loadNat l core (k + 1) acq green n

/-- `n` bytes as an engine of a cluster reads them: the stores of its cluster past the crossbar, else the home. No L1 lies on its
way (spec 07, R163, R164, R169). -/
def State.engineNat (s : State) (l : Launch) (core k : Nat) (green : Bool) (n : Nat) : Nat := s.loadNat l core k true green n

/-- `n` bytes the home answers a run, as a number. -/
def State.keptNat (s : State) (l : Launch) (k : Nat) (green : Bool) : Nat → Nat
  | 0 => 0
  | n + 1 => (s.keptByte l k green).toNat + 256 * s.keptNat l (k + 1) green n

/-- A line is homed off the core's die and off the window and scratchpad: no directory tracks it (spec 07, R170, R172). -/
def untracked (core k : Nat) : Bool := isPeer k || (isDevice k && keyDie k != Config.dieOfCore core)

/-- The last `n` lines of one L1, and every line of the others (spec 00, R4). -/
def l1Keep (owner n : Nat) (lines : List L1Line) : List L1Line :=
  let mine := (lines.filter (fun y => y.owner == owner)).map (·.id)
  let drop := mine.take (mine.length - n)
  lines.filter (fun y => !drop.contains y.id)

/-- The lines of an L1 with one more, the oldest of a full one giving way (spec 00, R4). -/
def l1Add (x : L1Line) (cap : Nat) (lines : List L1Line) : List L1Line :=
  let lines := if (lines.filter (fun y => y.owner == x.owner)).length < cap then lines else l1Keep x.owner (cap - 1) lines
  lines ++ [x]

/-- The L1s of a cluster take the form its gangs ask for when one is placed: fused where any of them asks for it, and the first core's
holds the lines of all four; apart else, and each holds its own figure (spec 00, R4; 07, R162). DESIGN CHOICE (assumption 66): what no
longer has a place is dropped. -/
def State.formL1 (s : State) (cluster : Nat) (fused : Bool) : State :=
  let first := 4 * cluster
  let fused := fused || s.gangs.any (fun g => g.cluster == cluster && g.status != .saved && (s.launch? g.launch).any Launch.fused)
  { s.modCore first (fun c => { c with fused }) with
    l1 := if fused then s.l1.filter (fun y => !(clusterOf y.owner == cluster && y.owner != first))
      else l1Keep first (Config.l1Lines first) s.l1 }

/-- Fills an L1 with a line it has not got: the home's bytes under the cluster's stores on their way (spec 07, R169, R170). -/
def State.fillL1 (s : State) (l : Launch) (core k : Nat) (green : Bool) : State :=
  let o := s.l1Owner core
  if green || !untracked core k || s.l1.any (fun x => x.owner == o && x.line == lineOf k) then s
  else
    let byte (i : Nat) : Byte := match s.transit l core (lineOf k * 128 + i) with | some x => x.2 | none => s.homeByte (lineOf k * 128 + i)
    let (id, s) := s.fresh
    let cap := (if s.fusedL1 (clusterOf core) then 4 else 1) * Config.l1Lines core
    { s with l1 := l1Add ⟨id, o, lineOf k, (List.range 128).map byte, s.clock⟩ cap s.l1 }

/-- Drops a line from every L1 of a core's cluster (spec 07, R169). -/
def State.dropLine (s : State) (core k : Nat) : State :=
  { s with l1 := s.l1.filter (fun y => !(y.line == lineOf k && clusterOf y.owner == clusterOf core)) }

/-- Drops a line from the L1 a core uses (spec 07, R165, R170). -/
def State.dropOwnLine (s : State) (core k : Nat) : State :=
  { s with l1 := s.l1.filter (fun y => !(y.line == lineOf k && y.owner == s.l1Owner core)) }

/-- Host lines a die's slice holds, and its dirty device lines. -/
def State.hostHeld (s : State) (d : Nat) : Nat := (s.iod.hostLines.filter (fun h => h.die == d)).length
def State.dirtyHeld (s : State) (d : Nat) : Nat := (s.llcDirty.filter (fun x => keyDie (x * 128) == d)).length

/-- A stack's LLC slice is in service: not of a stack excluded at boot, nor of a retired die whose memory has left service (spec 00,
R5; 15, R344). -/
def State.sliceUp (s : State) (d : Nat) : Bool := (s.die d).memory && !(s.die d).excluded && !(s.die d).fenced && !(s.die d).resetting

/-- The slice that takes a line of host memory: the first in service with a place, counted from the line's number (assumption 66). -/
def State.hostSlice (s : State) (line : Nat) : Option Nat :=
  ((List.range 8).map (fun i => (line + i) % 8)).find? (fun d => s.sliceUp d && s.hostHeld d + s.dirtyHeld d < Config.llcLines)

/-- Brings a line of host memory into the LLC, where a slice has a place: a full LLC keeps the lines it has (spec 00, R4, R5; 07,
R162; assumption 66). -/
def State.fillHost (s : State) (k : Nat) : State :=
  if !isHost k || s.iod.hostLines.any (·.line == lineOf k) then s
  else match s.hostSlice (lineOf k) with
  | none => s
  | some d => { s with iod := { s.iod with hostLines := s.iod.hostLines ++
          [⟨d, lineOf k, (List.range 128).map (fun i => memGet s.mem (lineOf k * 128 + i)), List.replicate 32 false⟩] } }

/-- The dirty device lines with one more, in what a die's slice has beside its host lines; a full slice writes its oldest to DRAM,
and one that host lines fill writes the line itself there (spec 00, R4; 07, R162). -/
def llcAdd (room line : Nat) (dirty : List Nat) : List Nat :=
  if dirty.contains line || room == 0 then dirty
  else
    let mine (x : Nat) : Bool := keyDie (x * 128) == keyDie (line * 128)
    let dirty := if (dirty.filter mine).length < room then dirty
      else match dirty.findIdx? mine with | some i => dirty.eraseIdx i | none => dirty
    dirty ++ [line]

/-- Writes a byte at its home, below every version: DRAM lines become dirty in the LLC slice of their die while it is in service, host
lines where the LLC has a place (spec 00, R5; 07, R162). -/
def State.homeWrite (s : State) (k : Nat) (b : Byte) : State :=
  if isHost k then
    let s := s.fillHost k
    let put (h : HostLine) : HostLine :=
      { h with bytes := listPut 0 h.bytes (k % 128) b, dirty := listPut false h.dirty (k % 128 / 4) true }
    if s.iod.hostLines.any (·.line == lineOf k) then
      { s with iod := { s.iod with hostLines := mapIf (fun h => h.line == lineOf k) put s.iod.hostLines } }
    else { s with mem := memSet s.mem k b }
  else
    { s with
      mem := memSet s.mem k b
      llcDirty := if isDevice k then
        llcAdd (if s.sliceUp (keyDie k) then Config.llcLines - s.hostHeld (keyDie k) else 0) (lineOf k) s.llcDirty else s.llcDirty }

/-- Writes bytes at their homes. -/
def State.homePut (s : State) (k : Nat) : List Byte → State
  | [] => s
  | b :: bs => (s.homeWrite k b).homePut (k + 1) bs

/-- Dirty words of a host line written to the host (spec 08, R210). -/
def flushLine (mem : List Host.Cell) (h : HostLine) : List Host.Cell :=
  (List.range 128).foldl (fun m i =>
    if listGet false h.dirty (i / 4) then memSet m (h.line * 128 + i) (listGet 0 h.bytes i) else m) mem

/-- Host lines written back, and dropped for `hinv`. -/
def State.flushLines (s : State) (lines : List Nat) (inv : Bool) : State :=
  let mine := s.iod.hostLines.filter (fun h => lines.contains h.line)
  let clean (h : HostLine) : HostLine := if lines.contains h.line then { h with dirty := List.replicate 32 false } else h
  { s with
    mem := mine.foldl flushLine s.mem
    iod := { s.iod with hostLines :=
      if inv then s.iod.hostLines.filter (fun h => !lines.contains h.line) else s.iod.hostLines.map clean } }

/-- A slice that leaves service writes the lines it holds back and drops them, host lines and dirty device lines (spec 00, R5; 15, R344,
R357; assumption 66). -/
def State.emptySlice (s : State) (d : Nat) : State :=
  { s.flushLines ((s.iod.hostLines.filter (fun h => h.die == d)).map (·.line)) true with
    llcDirty := s.llcDirty.filter (fun x => keyDie (x * 128) != d) }

/-- The host's or another chip's own write of its memory: a line of the LLC that holds host memory keeps what it has until an
`hinv` (spec 07, R173). -/
def State.outsidePut (s : State) (k : Nat) (data : List Byte) : State :=
  if isHost k then { s with mem := memPutNat s.mem k data.length (leNat data) } else s.homePut k data

/-- A device byte lies in a world's region (spec 14, R322). -/
def World.holds (w : World) (k : Nat) : Bool :=
  let lo := (listGet 0 w.dbase (keyDie k)).toNat * 4096
  w.diemask.getLsbD (keyDie k) && lo ≤ k % 2 ^ 40 && k % 2 ^ 40 < lo + w.qlimit.toNat * 4096

/-- The home finds a device byte outside the region of the request's world (spec 14, R322). -/
def State.outside (s : State) (world k : Nat) : Bool :=
  isDevice k && match s.world? world with
  | none => true
  | some w => !w.holds k

/-- Packets cross to a chip: it is admitted, and a link that its routing entry names is up with an admitted peer on it; until then no
packet other than authentication crosses (spec 09, R229; 14, R333). -/
def State.crosses (s : State) (chip : Nat) : Bool :=
  s.checker.admitted.contains chip &&
  ((List.range 32).zip s.iod.links).any (fun x => (tabGet 0 chip s.iod.routing).getLsbD x.1 && x.2.up && x.2.peer.isSome)

/-- A word of host memory as a PCIe AtomicOp of the package meets it: what the package has written to it and not flushed goes to the
host first (spec 08, R207; assumption 37). -/
def State.hostWord (s : State) (k : Nat) : Nat :=
  match s.iod.hostLines.find? (fun h => h.line == lineOf k && listGet false h.dirty (k % 128 / 4)) with
  | some _ => leNat ((List.range 4).map (fun i => s.homeByte (k + i)))
  | none => memNat s.mem k 4

/-- The word after the AtomicOp, at the host; DESIGN CHOICE (assumption 37): a line of the LLC that holds it is made to agree, so that no
party reads an older value of the word (spec 07, R165). -/
def State.putHostWord (s : State) (k x : Nat) : State :=
  let put (h : HostLine) : HostLine := { h with
    bytes := (List.range 4).foldl (fun b i => listPut 0 b ((k + i) % 128) ((natLe 4 x).getD i 0)) h.bytes
    dirty := listPut false h.dirty (k % 128 / 4) false }
  { s with mem := memPutNat s.mem k 4 x
           iod := { s.iod with hostLines := mapIf (fun h => h.line == lineOf k) put s.iod.hostLines } }

/-- A poisoned line, or a home that answers errors: fenced, resetting or out of service, or an unreachable chip
(spec 15, R343, R357, R358; 09, R230). -/
def State.errs (s : State) (k : Nat) : Bool :=
  s.poison.contains (lineOf k) ||
  (isDevice k && ((s.die (keyDie k)).fenced || (s.die (keyDie k)).resetting || !(s.die (keyDie k)).memory)) ||
  (isPeer k &&
    (let e := tabGet 0 (keyChip k) s.iod.routing
     !e.getLsbD 63 || e.extractLsb' 42 21 != 0 || e.extractLsb' 0 32 == 0))

end Sys2Proof.Machine
end

