-- ==== Sys2Proof/Machine/Order.lean ====
section
/-! DEFINITION. The ordering matrices of spec 07 (R175 to R182) as data, and what they keep before an operation. -/

namespace Sys2Proof.Machine

/-- The classes of the matrices (spec 07, R175). -/
inductive Cls where
  | ld | st | at | acqLd | relSt | acqF | relF | copy | tile | spad | send | hand | take
  deriving DecidableEq, Repr

/-- A cell: kept, "—", or the letter of its note (spec 07, R175, R182). -/
inductive Cell where
  | kept | no | a | c | d | g | h | i | j | r | s | v | w
  deriving DecidableEq, Repr

/-- The column's place in a row. -/
def Cls.col : Cls → Nat
  | .ld => 0 | .st => 1 | .at => 2 | .acqLd => 3 | .relSt => 4 | .acqF => 5 | .relF => 6 | .copy => 7 | .tile => 8
  | .spad => 9 | .send => 10 | .hand => 11 | .take => 12

/-- The rows of the matrix for `wg` (spec 07, R176). -/
def wgRow : Cls → List Cell
  | .ld | .at => [.a, .a, .a, .a, .kept, .kept, .kept, .a, .a, .no, .kept, .kept, .a]
  | .st | .relSt | .hand => [.a, .a, .a, .a, .kept, .no, .kept, .a, .a, .no, .kept, .kept, .a]
  | .acqLd | .acqF | .take => List.replicate 13 .kept
  | .relF => [.no, .kept, .kept, .no, .kept, .no, .kept, .kept, .c, .c, .kept, .kept, .no]
  | .copy => [.d, .d, .d, .d, .d, .no, .no, .g, .h, .d, .h, .d, .d]
  | .tile => [.h, .h, .h, .h, .kept, .r, .kept, .h, .a, .h, .kept, .kept, .h]
  | .spad => [.no, .no, .no, .no, .kept, .r, .kept, .a, .a, .kept, .kept, .kept, .no]
  | .send => [.d, .d, .d, .d, .d, .no, .no, .h, .h, .no, .j, .d, .d]

/-- The matrix for the scope of code `x` (spec 07, R176 to R181). -/
def matrix (x : Nat) (row col : Cls) : Cell :=
  let base := listGet .no (wgRow row) col.col
  if x == 0 then base
  else if x == 1 then (if row == .spad && col == .spad then .i else base)
  else if row == .spad || col == .spad then .s
  else if x == 5 && (row == .st || row == .at || row == .relSt || row == .tile) && (col == .relSt || col == .relF) then .w
  else if x == 5 && (row == .acqLd || row == .acqF || row == .take) && col == .ld then .v
  else base

/-- One operation as the matrices see it. -/
structure OpInfo where
  cls   : Cls
  /-- scope of an acquire, a release, `hand` or `take` -/
  scope : Nat
  acq   : Bool
  rel   : Bool
  /-- byte ranges: first key and length -/
  bytes : List (Nat × Nat)
  reads : Bool
  writes : Bool
  /-- the scratchpad space, of a scratchpad access -/
  space : Option Nat
  deriving DecidableEq, Repr

/-- Classes an operation counts as in the matrix for scope `x` (spec 07, R175; 08, R207). -/
def OpInfo.classes (o : OpInfo) (x : Nat) : List Cls :=
  let wide := x ≤ o.scope
  match o.cls with
  | .ld => if o.acq && wide then [.acqLd] else [.ld]
  | .st => if o.rel && wide then [.relSt] else [.st]
  | .at => .at :: ((if o.acq && wide then [.acqLd] else []) ++ (if o.rel && wide then [.relSt] else []))
  | .spad => .spad :: ((if o.acq && wide then [.acqLd] else []) ++ (if o.rel && wide then [.relSt] else []))
  | .hand => if wide then [.hand] else [.st]
  | .take => if wide then [.take] else [.ld]
  | .acqF | .relF | .acqLd | .relSt => if wide then [o.cls] else []
  | other => [other]

/-- Two lists of ranges share a byte. -/
def rangesMeet (p q : List (Nat × Nat)) : Bool :=
  p.any (fun x => q.any (fun y => x.1 < y.1 + y.2 && y.1 < x.1 + x.2))

/-- Whether a cell keeps the earlier operation before the later one (spec 07, R182). -/
def Cell.keeps (k : Cell) (e l : OpInfo) : Bool :=
  match k with
  | .kept | .v | .w => true
  | .a => rangesMeet e.bytes l.bytes
  | .c => l.writes
  | .r => e.reads
  | .i => e.space == l.space
  | _ => false

/-- Kept in the matrix of scope `x`. -/
def keptAt (x : Nat) (e l : OpInfo) : Bool :=
  (e.classes x).any (fun r => (l.classes x).any (fun c => (matrix x r c).keeps e l))

/-- Kept because the two touch a common byte: in program order at every scope (spec 07, R165; R182, note a). -/
def keptByByte (e l : OpInfo) : Bool :=
  (List.range 6).any (fun x => (e.classes x).any (fun r => (l.classes x).any (fun c => matrix x r c == .a && rangesMeet e.bytes l.bytes)))

/-- The wider of two answers. -/
def wider : Option Nat → Option Nat → Option Nat
  | some a, some b => some (max a b)
  | some a, none => some a
  | none, b => b

/-- The widest scope of a test. -/
def widest (p : Nat → Bool) : Option Nat := (List.range 6).foldl (fun r x => if p x then some x else r) none

/-- The widest scope at which an earlier operation of one thread is kept before a later one; 6 where they touch a common byte
(spec 07, R164, R165, R174). -/
def kept (e l : OpInfo) : Option Nat := if keptByByte e l then some 6 else widest (fun x => keptAt x e l)

/-- A flight as the matrices see it. -/
def Flight.info (f : Flight) : OpInfo :=
  let cls : Cls :=
    if f.spad then .spad
    else match f.kind with
      | .load | .frag => .ld | .store => .st | .atomic .. => .at | _ => .st
  let mem := match f.kind with | .store => (false, true) | .load | .frag => (true, false) | .atomic .. => (true, true) | _ => (false, true)
  { cls, scope := f.scope, acq := f.acq, rel := f.rel, bytes := f.elems.map (fun e => (e.key, e.size)) ++ f.pages
    reads := mem.1, writes := mem.2
    space := if f.spad then (f.elems.head?).map (fun e => (e.key - keySpad) / 2 ^ 24) else none }

/-- The keys of a tile operation's extent, as 4-byte words. -/
def TileKind.keys : TileKind → List Nat
  | .load _ k | .store _ k _ => k
  | _ => []

/-- A tile operation as the matrices see it. -/
def TileOp.info (t : TileOp) : OpInfo :=
  { cls := .tile, scope := 0, acq := false, rel := false, bytes := t.kind.keys.map (fun k => (k, 4))
    reads := match t.kind with | .load .. => true | _ => false
    writes := match t.kind with | .store .. => true | _ => false
    space := none }

/-- The widest scope at which the release fences of a thread keep an operation: those before a fence, before what the fence's
row keeps (spec 07, R175). -/
def fenceKeeps (t : Thread) (e : OpInfo) (id : Nat) (l : OpInfo) : Option Nat :=
  t.fences.foldl (fun r f =>
    let o : OpInfo := ⟨.relF, f.scope, false, true, [], false, false, none⟩
    if id < f.before then wider r (widest (fun x => keptAt x e o && keptAt x o l)) else r) none

/-- The operations of a thread that a new operation waits for, each with the widest scope (spec 07, R175 to R182). -/
def State.depsOf (s : State) (wg tid : Nat) (l : OpInfo) : List (Nat × Nat) :=
  let t := s.thread wg tid
  let need (id : Nat) (e : OpInfo) : List (Nat × Nat) :=
    match wider (kept e l) (fenceKeeps t e id l) with
    | some x => [(id, x)]
    | none => []
  (s.flights.filter (fun f => f.wg == wg && f.tids.contains tid)).flatMap (fun f => need f.id f.info) ++
  (s.tiles.filter (fun o => o.wg == wg && o.tids.contains tid)).flatMap (fun o => need o.id o.info)

/-- The narrowest scope that contains the home of a byte, as a core sees it; 6: none without `hflush` (spec 07, R164, R174). -/
def homeScope (core k : Nat) : Nat :=
  if keySpad ≤ k then 0
  else if isDevice k then (if keyDie k == Config.dieOfCore core then 2 else 3)
  else if isPeer k then 4
  else if isWindow k then 5 else 6

/-- An operation is performed at a scope: it is done, or it is a store past the crossbar whose words still on their way have
their homes outside the scope (spec 07, R164, R174). -/
def Flight.performedAt (f : Flight) (x : Nat) : Bool :=
  f.kind == .store && f.passed && x < 6 && f.elems.all (fun y => x < homeScope f.core y.key)

/-- An operation that must come first has performed far enough; one with a poisoned reply holds nothing up (spec 08, R193). -/
def State.depMet (s : State) (d : Nat × Nat) : Bool :=
  !(s.tiles.any (fun o => o.id == d.1 && !o.poisoned)) &&
  !(s.iod.bulk.any (fun x => x.id == d.1)) && !(s.iod.hostWrites.any (fun w => w.id == d.1)) &&
  match s.flight? d.1 with
  | none => true
  | some f => f.poisoned || f.performedAt d.2

def State.depsMet (s : State) (ds : List (Nat × Nat)) : Bool := ds.all s.depMet

/-- A release at a scope by one thread has nothing left to wait for (spec 07, R166, R167, R170). -/
def State.released (s : State) (wg tid scope : Nat) : Bool :=
  s.depsMet (s.depsOf wg tid ⟨.relSt, scope, false, true, [], false, true, none⟩)

/-- An acquire load's kind of wait by one thread has nothing left to wait for (spec 07, R175, R179). -/
def State.mayAcquire (s : State) (wg tid scope : Nat) : Bool :=
  s.depsMet (s.depsOf wg tid ⟨.acqLd, scope, true, false, [], true, false, none⟩)

/-- An acquire at a scope drops the lines it must: at `pkg` or wider those of other dies, at `pod` or wider those of peer
chips too (spec 07, R170, R172). -/
def State.acquire (s : State) (core scope : Nat) : State :=
  if scope < 3 then s
  else { s with l1 := s.l1.filter (fun x =>
          !(x.owner == s.l1Owner core && (scope ≥ 4 || !isPeer (x.line * 128)))) }

end Sys2Proof.Machine
end

