-- ==== Sys2Proof/Machine/Ops.lean ====
section
/-! DEFINITION. The named operations every meaning uses: registers, guards, issue groups and bins, fault records, taking a
trap and resuming from it, parking, halting, and the checks made before an instruction takes effect. -/

namespace Sys2Proof.Machine

/-! Registers (spec 02, R25, R34, R37; 03, R68). -/

/-- A vector register; `vz` reads 0. -/
def Thread.v (t : Thread) (r : BitVec 8) : Word := if r = 255 then 0 else tabGet 0 r.toNat t.vregs

/-- Writes a vector register; a write to `vz` is discarded. -/
def Thread.setV (t : Thread) (r : BitVec 8) (x : Word) : Thread :=
  if r = 255 then t
  else { t with vregs := tabSet 0 r.toNat x t.vregs, written := if t.written.contains r.toNat then t.written else r.toNat :: t.written }

/-- A predicate; `pt` reads 1. -/
def Thread.p (t : Thread) (n : BitVec 4) : Bool := if n = 15 then true else t.preds.getLsbD n.toNat

/-- Writes a predicate; `pt` cannot be written. -/
def Thread.setP (t : Thread) (n : BitVec 4) (b : Bool) : Thread :=
  if n = 15 then t
  else { t with preds := if b then t.preds ||| (1 <<< n.toNat) else t.preds &&& ~~~((1 : BitVec 15) <<< n.toNat) }

/-- Moves past an instruction word. -/
def Thread.next (t : Thread) : Thread := { t with pc := t.pc + 8, left := t.left - 1 }

/-- Continues at a block header, not yet entered (spec 03, R57). -/
def Thread.goto (t : Thread) (pc : VA) : Thread := { t with pc := pc, left := 0 }

/-- What an instruction runs in: its group, workgroup, gang and launch as it finds them. -/
structure Env where
  g    : Group
  w    : Workgroup
  gang : Gang
  l    : Launch

/-- The issuing group and what it belongs to. -/
def State.issuer (s : State) : Option Env :=
  match s.cur with
  | none => none
  | some id => match s.group? id with
    | none => none
    | some g => match s.wg? g.wg with
      | none => none
      | some w => match s.gang? w.gang with
        | none => none
        | some gang => match s.launch? w.launch with
          | none => none
          | some l => some ⟨g, w, gang, l⟩

/-- Lane and home group of a thread (spec 02, R26). -/
def laneOf (tid : Nat) : Nat := tid % 32
def hgrpOf (tid : Nat) : Nat := tid / 32

/-- The thread of a group with the lowest number (spec 02, R30). -/
def Group.leader (g : Group) : Nat := match g.members with | [] => 0 | t :: r => r.foldl min t

/-- Home groups that have an active thread in the group (spec 02, R34). -/
def Group.hgrps (g : Group) : List Nat := dedup (g.members.map hgrpOf)

/-- A scalar register of a home group; `sz` reads 0. -/
def Workgroup.s (w : Workgroup) (hg : Nat) (r : BitVec 9) : Word := if r = 511 then 0 else tabGet 0 (hg * 512 + r.toNat) w.sregs

/-- Writes a scalar register of a home group; a write to `sz` is discarded. -/
def Workgroup.setS (w : Workgroup) (hg : Nat) (r : BitVec 9) (x : Word) : Workgroup :=
  if r = 511 then w
  else { w with
    sregs := tabSet 0 (hg * 512 + r.toNat) x w.sregs
    swritten := if w.swritten.contains (hg * 512 + r.toNat) then w.swritten else (hg * 512 + r.toNat) :: w.swritten }

/-- Writes a scalar register in every listed home group. -/
def Workgroup.setSs (w : Workgroup) (hgs : List Nat) (r : BitVec 9) (x : Word) : Workgroup := hgs.foldl (fun w h => w.setS h r x) w

/-- A scalar source: the leader's home group holds it (spec 02, R34). -/
def Env.s (e : Env) (r : BitVec 9) : Word := e.w.s (hgrpOf e.g.leader) r

/-- A scalar pair, low word in the even register (spec 01, R16, R21). -/
def Env.pair (e : Env) (r : BitVec 9) : Nat := if r = 511 then 0 else (e.s r).toNat + 2 ^ 32 * (e.s (r + 1)).toNat

/-- A scalar result: every represented home group takes it (spec 02, R34). -/
def State.setS (s : State) (e : Env) (r : BitVec 9) (x : Word) : State := s.modWg e.w.id (fun w => w.setSs e.g.hgrps r x)

/-- The address of the instruction word: its threads stand at it. -/
def State.iaddr (s : State) (e : Env) : VA := (s.thread e.w.id e.g.leader).pc

/-- Active threads whose guard holds (spec 01, R20; 02, R33). -/
def State.lanes (s : State) (e : Env) (g : Guard) : List Nat :=
  e.g.members.filter (fun t => guardTruth g.neg ((s.thread e.w.id t).p g.p))

/-- Active threads whose guard does not hold. -/
def State.offLanes (s : State) (e : Env) (g : Guard) : List Nat :=
  e.g.members.filter (fun t => !guardTruth g.neg ((s.thread e.w.id t).p g.p))

/-- The thread's mask bit among 32 lanes. -/
def laneMask (tids : List Nat) : BitVec 32 := tids.foldl (fun m t => m ||| (1 <<< laneOf t)) 0

/-! Progress: a held group is tried again when anything moves (the model's own). -/

def State.progress (s : State) : State := { s with groups := s.groups.map (fun g => { g with held := false }) }

/-- The group's instruction is held by something: nothing else changes (spec 02, R40; 10, R274). -/
def State.hold (s : State) (e : Env) : State := s.modGroup e.g.id (fun g => { g with held := true })

/-- Every active thread moves past the instruction word. -/
def State.advance (s : State) (e : Env) : State := s.modThreads e.w.id e.g.members Thread.next

/-- The end of an instruction's effect. -/
def State.done (s : State) (e : Env) : Out := .next (s.advance e).progress

/-- An action that a repeat of the launch would duplicate (spec 15, R354). -/
def State.acts (s : State) (e : Env) : State := s.modLaunch e.l.id (fun l => { l with acted := true })

/-! Receive ports (spec 09, R235). -/

/-- The world, the source chip and the channel of what arrives: requests, replies and messages. -/
def PortItem.world : PortItem → Nat
  | .request p => p.world
  | .reply world .. => world
  | .message m => m.world
def PortItem.src : PortItem → Nat
  | .request p => p.src
  | .reply _ src _ => src
  | .message m => m.src.toNat
def PortItem.chan : PortItem → Nat
  | .request _ => 0
  | .reply .. => 1
  | .message _ => 2

/-- The slot that a packet of a world takes at a channel of a port: one of the 256 shared, of which a world holds at most 128, else one
of the world's two reserved ones, if one is free (spec 09, R235). -/
def State.portSlot (s : State) (link chan world : Nat) : Option Bool :=
  let here := s.iod.ports.filter (fun q => q.link == link && q.item.chan == chan)
  let shared := here.filter (fun q => !q.reserved)
  let mine (l : List PortSlot) : Nat := (l.filter (fun q => q.item.world == world)).length
  if shared.length < 256 && mine shared < 128 then some false
  else if mine (here.filter (·.reserved)) < 2 then some true
  else none

/-- A packet of a world finds a slot of a channel at one of some links that are up with a peer: it takes the slot, and leaves it at once
where nothing holds it there (spec 09, R235). -/
def State.portRoom (s : State) (chan world : Nat) (via : Nat → Bool) : Bool :=
  ((List.range 32).zip s.iod.links).any (fun x => via x.1 && x.2.up && x.2.peer.isSome && (s.portSlot x.1 chan world).isSome)

/-- A chip answers a request of a world: packets cross to it, and its reply has a slot at a link that carries it (spec 09, R229, R235; 14,
R333). -/
def State.answers (s : State) (world chip : Nat) : Bool :=
  s.crosses chip && s.portRoom 1 world (fun n => (tabGet 0 chip s.iod.routing).getLsbD n)

/-! Fetching code (spec 03, R55, R57, R61). -/

/-- What stands at a code address. -/
inductive Fetched where
  | word (w : Code)
  | fault (f : XFault)
  | absent (key : Nat)
  /-- on another chip, to which no packet crosses yet (spec 14, R333) -/
  | away
  deriving DecidableEq, Repr

/-- A key of another chip that nothing answers yet: no error does, and no packet crosses or the answer has no slot (spec 09, R230, R235;
14, R333). -/
def State.uncrossed (s : State) (k : Nat) : Bool := isPeer k && !s.errs k && !s.answers (keyWorld k) (keyChip k)

/-- Reads the word at a code address through the translation of a core, with fetch permission. -/
def State.fetch (s : State) (core world : Nat) (va : VA) : Fetched :=
  match s.translate core world va.toNat with
  | .error f => .fault f
  | .ok t =>
    if !pteX t.leaf.pte then .fault .prot
    else if keyAbsent t.key then .absent t.key
    else if s.uncrossed t.key then .away
    else .word (BitVec.ofNat 64 (leWord (memBytes s.mem t.key 8)))

/-- The world of a workgroup. -/
def State.worldOfWg (s : State) (wg : Nat) : Nat :=
  match s.wg? wg with
  | some w => (match s.gang? w.gang with | some g => g.world | none => 0)
  | none => 0

/-- The instruction a thread stands at; none at a block header. -/
def State.instrAt (s : State) (wg core tid : Nat) (pc : VA) : Option Instr :=
  if (s.thread wg tid).left == 0 then none
  else match s.fetch core (s.worldOfWg wg) pc with
    | .word w => (match decode w with | .ok i => some i | .error _ => none)
    | _ => none

/-! Issue groups and bins (spec 02, R29 to R31; 10, R275). -/

/-- Issue-group records in use in a partition. -/
def State.groupCount (s : State) (core part : Nat) : Nat :=
  (s.groups.filter (fun g => g.core == core && g.part == part)).length

/-- The core and partition of a home group (spec 02, R28). -/
def Workgroup.seat (w : Workgroup) (hg : Nat) : Nat × Nat :=
  let k := max 1 w.cores.length
  let per := (w.groups + k - 1) / k
  let j := if per == 0 then 0 else min (hg / per) (k - 1)
  (listGet 0 w.cores j, (hg - j * per) % 8)

/-- Adds a group record of threads of one partition. -/
def State.addGroup (s : State) (wg core part : Nat) (members : List Nat) (drawn : Bool) : State :=
  if members.isEmpty then s
  else
    let (id, s) := s.fresh
    { s with groups := s.groups ++ [⟨id, wg, core, part, members, s.clock, drawn, false, 0, 0, false, []⟩] }

/-- Keeps only some threads in a group; an empty record is freed. -/
def State.keepMembers (s : State) (id : Nat) (tids : List Nat) : State :=
  if tids.isEmpty then { s with groups := s.groups.filter (fun g => !(g.id == id)) }
  else s.modGroup id (fun g => { g with members := tids })

/-- Files threads of one partition into the bin of an address (spec 02, R29). The bin remembers the instruction its address was last
seen to hold, so that a cross-lane bin stays one while its page of code is out (spec 05, R125). -/
def State.file (s : State) (wg core part : Nat) (pc : VA) (tids : List Nat) : State :=
  if tids.isEmpty then s
  else
    let s := s.modThreads wg tids (fun t => { t with status := .filed })
    let new := tids.map (fun t => (t, s.clock))
    let seen := s.instrAt wg core (tids.headD 0) pc
    match s.bins.find? (fun b => b.wg == wg && b.core == core && b.part == part && b.pc == pc) with
    | some b => { s with bins := mapIf (·.id == b.id) (fun b => { b with entries := b.entries ++ new, known := seen.or b.known }) s.bins }
    | none =>
      let (id, s) := s.fresh
      { s with bins := s.bins ++ [⟨id, wg, core, part, pc, new, false, none, seen⟩] }

/-- Files threads of a group and takes them out of it. -/
def State.fileFrom (s : State) (e : Env) (pc : VA) (tids : List Nat) : State :=
  (s.file e.w.id e.g.core e.g.part pc tids).keepMembers e.g.id (e.g.members.filter (fun t => !tids.contains t))

/-- Splits threads off a group as a group of their own, or files them at their next word when no record is free
(spec 02, R31). -/
def State.split (s : State) (e : Env) (stay go : List Nat) (pc : VA) : State :=
  if stay.isEmpty || go.isEmpty then s
  else
    let s := s.modGroup e.g.id (fun g => { g with members := stay, stamp := s.clock })
    if s.groupCount e.g.core e.g.part < Config.groupRecords then s.addGroup e.w.id e.g.core e.g.part go false
    else s.file e.w.id e.g.core e.g.part pc go

/-! Fault records (spec 14, R324 to R326). -/

/-- The 256-bit value of a record (spec 14, R324). -/
def FaultRec.toNat (r : FaultRec) : Nat :=
  let b (x : Bool) : BitVec 1 := BitVec.ofBool x
  (r.bitmap ++ r.daddr ++ r.iaddr ++ r.lanes ++ r.lctr ++ r.core ++ r.hgrp ++ b r.open' ++ (0 : BitVec 1) ++ b r.wr ++
    b r.fetch ++ b r.eng ++ b r.mal ++ r.code).toNat

/-- An empty record. -/
def FaultRec.none : FaultRec := ⟨0, 0, 0, 0, 0, 0, 0, false, false, false, false, false, 0⟩

/-- Records between two indexes of 16 bits, where equal ones may mean that 2^16 lie between. -/
def ringCount (head tail : BitVec 16) (lapped : Bool) : Nat := if lapped then 65536 else (tail - head).toNat

/-- Records a fault queue can hold, and holds (spec 14, R325; assumption 25). -/
def World.fqCapacity (w : World) : Nat := 2 ^ w.fqsize.toNat
def World.fqCount (w : World) : Nat := ringCount w.fqhead w.fqtail w.fqLapped

/-- A record is written at the tail; the driver's head moves on. -/
def World.pushTail (w : World) : World := { w with fqtail := w.fqtail + 1, fqLapped := w.fqtail + 1 == w.fqhead }
def World.setHead (w : World) (head : BitVec 16) : World := { w with fqhead := head, fqLapped := w.fqLapped && head == w.fqhead }

/-- Key of the record at an index. -/
def World.fqSlot (w : World) (index : BitVec 16) : Option Nat :=
  w.place (w.fqbase.toNat * 4096 + 32 * (index.toNat % 2 ^ w.fqsize.toNat))

/-- How far one sequence number is ahead of another, read signed (spec 08, R220). -/
def seqDiff (a b : Word) : Int := (a - b).toInt

/-- A held ring copy may go on: the sequence before it in its slot has been released (spec 08, R222, R224). -/
def State.ringFree (s : State) (o : EngineOp) : Bool :=
  match o.kind with
  | .ring n seq => match s.wg? o.wg with
    | none => false
    | some w => match w.rings[n]? with
      | none => false
      | some r => 0 ≤ seqDiff r.e (seq - BitVec.ofNat 32 r.depth + 1) ||
          (List.range w.threads).all (fun t => (s.thread w.id t).status == .ended)
  | _ => true

/-- Halts a gang at an instruction boundary: its loads in flight are marked for replay, a held ring copy is recorded for
restart, and its other copies have 512 clocks (spec 10, R286, R287). -/
def State.haltGang (s : State) (id : Nat) (st : GStatus) : State :=
  let s := s.modGang id (fun g => { g with status := st, haltAt := s.clock })
  let mine := (s.wgs.filter (·.gang == id)).map (·.id)
  let mark (f : Flight) : Flight := if f.kind.isLoad && mine.contains f.wg && !f.poisoned then { f with replay := true, met := false } else f
  let stop (o : EngineOp) : EngineOp :=
    if o.gang == id then { o with haltAt := s.clock, stage := if o.stage == .queued && !s.ringFree o then .halted else o.stage } else o
  { s with flights := s.flights.map mark, engines := s.engines.map stop }

/-- Halts every running gang that meets a test. -/
def State.haltGangs (s : State) (st : GStatus) (p : Gang → Bool) : State :=
  (s.gangs.filter (fun g => p g && g.status == .running)).foldl (fun s g => s.haltGang g.id st) s

/-- What a word of the MSI-X table holds before it is written: every entry is masked, by bit 0 of its vector control (spec 18, R370;
assumption 68). -/
def msixReset (n : Nat) : BitVec 64 := if n % 2 == 1 then 0x100000000 else 0

/-- The mask bit of a vector's table entry. -/
def World.masks (w : World) (vector : Nat) : Bool := (tabGet (msixReset (2 * vector + 1)) (2 * vector + 1) w.msix).getLsbD 32

/-- Raises an interrupt vector of a function; a masked one stays pending (spec 18, R370, R372). -/
def State.raiseIrq (s : State) (world vector : Nat) : State :=
  let masked : Bool := match s.world? world with | some w => w.masks vector | none => false
  { s with iod := { s.iod with
      irqs := s.iod.irqs ++ [(world, vector)]
      irqPend := if masked && !s.iod.irqPend.contains (world, vector) then s.iod.irqPend ++ [(world, vector)] else s.iod.irqPend } }

/-- A word of the MSI-X table is written; a vector that is no longer masked is no longer pending (spec 18, R370). -/
def State.writeMsix (s : State) (world n : Nat) (value : BitVec 64) : State :=
  let t := s.modWorld world (fun w => { w with msix := tabSet (msixReset n) n value w.msix })
  let sent (x : Nat × Nat) : Bool := x.1 == world && (match t.world? world with | some w => !w.masks x.2 | none => true)
  { t with iod := { t.iod with irqPend := t.iod.irqPend.filter (fun x => !sent x) } }

/-- Writes a record to the world's fault queue, or leaves it at the IOD where there is no queue or no space; beyond 256
waiting records the world stalls (spec 14, R325, R326). -/
def State.pushRecord (s : State) (world : Nat) (r : FaultRec) : State :=
  match s.world? world with
  | none => s
  | some w =>
    let slot := if w.fqsize == 0 || !w.waiting.isEmpty || w.fqCapacity ≤ w.fqCount then none else w.fqSlot w.fqtail
    match slot with
    | some k => ((s.homePut k (natLe 32 r.toNat)).modWorld world World.pushTail).raiseIrq world 0
    | none =>
      let s := s.modWorld world (fun w => { w with waiting := w.waiting ++ [r] })
      if w.waiting.length < 256 then s
      else (s.modWorld world (fun w => { w with stalled := true })).haltGangs .stalled (fun g => g.world == world)

/-- A record of the issuing group (spec 14, R324). -/
def State.record (s : State) (e : Env) (code : Nat) (daddr : Nat) (lanes : List Nat) : FaultRec :=
  { FaultRec.none with
    daddr := BitVec.ofNat 56 daddr, iaddr := s.iaddr e, lanes := laneMask lanes, lctr := BitVec.ofNat 16 e.l.lctr
    core := BitVec.ofNat 10 e.g.core, hgrp := BitVec.ofNat 8 (hgrpOf e.g.leader), code := BitVec.ofNat 8 code }

/-- An open block record among some from an index on (spec 14, R325). -/
def openRecord (s : State) (w : World) (block : Nat) : Nat → BitVec 16 → Option Nat
  | 0, _ => none
  | n + 1, i =>
    match w.fqSlot i with
    | none => none
    | some k =>
      let x := memNat s.mem k 32
      if x % 256 == 0x30 && x / 2 ^ 13 % 2 == 1 && x / 2 ^ 136 % 2 ^ 56 == block then some k
      else openRecord s w block n (i + 1)

/-- A page's fault or residency request: a bit of its 4 MiB block's open record, or a new record (spec 14, R325). -/
def State.recordPage (s : State) (world : Nat) (big : Bool) (r : FaultRec) (va : Nat) : State :=
  match s.world? world with
  | none => s
  | some w =>
    if big then s.pushRecord world { r with daddr := BitVec.ofNat 56 va }
    else
      let block := va / 2 ^ 22 * 2 ^ 22
      let bit := va / 2 ^ 16 % 64
      match openRecord s w block w.fqCount w.fqhead with
      | some k =>
        let x := memNat s.mem k 32
        if x / 2 ^ (192 + bit) % 2 == 1 then s else s.homePut k (natLe 32 (x + 2 ^ (192 + bit)))
      | none =>
        if w.waiting.any (fun q => q.open' && q.daddr.toNat == block && q.code == 0x30) then
          let add (q : FaultRec) : FaultRec :=
            if q.open' && q.daddr.toNat == block && q.code == 0x30 then { q with bitmap := q.bitmap ||| (1 <<< bit) } else q
          s.modWorld world (fun w => { w with waiting := w.waiting.map add })
        else s.pushRecord world { r with daddr := BitVec.ofNat 56 block, bitmap := 1 <<< bit, open' := true }

/-! Traps (spec 03, R77 to R79; 10, R295). -/

/-- What a trap's record carries beside the code. -/
structure TrapInfo where
  code  : Nat
  daddr : Nat := 0
  wr    : Bool := false
  fetch : Bool := false
  mal   : Bool := false
  eng   : Bool := false
  /-- lanes of the record: the active lanes of the group unless given -/
  iaddr : Option VA := none
  /-- the access whose poisoned reply it raises -/
  flight : Option Nat := none
  deriving DecidableEq, Repr

/-- Takes a trap: the instruction takes no effect, the gang halts as at pre-emption, and a record with the code and the
group's active lanes goes to the world's fault queue (spec 03, R77). The launch waits for `trapResume` or a cancel. -/
def State.takeTrap (s : State) (e : Env) (i : TrapInfo) : State :=
  let r := s.record e i.code i.daddr e.g.members
  let r := { r with wr := i.wr, fetch := i.fetch, mal := i.mal, eng := i.eng, iaddr := i.iaddr.getD r.iaddr }
  let s := match i.flight with | some n => s.modFlight n (fun f => { f with taken := true }) | none => s
  { ((s.haltGang e.gang.id .trapped).pushRecord e.gang.world r).progress with raised := some i.code }

/-- The rows a `cpyb` starts with. -/
def EngineKind.rows : EngineKind → List (Nat × Loc)
  | .bins _ rows _ _ => rows
  | _ => []

/-- An operation made again from its first byte (spec 08, R212; 10, R287). -/
def EngineOp.restart (o : EngineOp) : EngineOp := { o with stage := .queued, todo := o.segs, buf := [], rows := o.kind.rows, sent := 0, acked := 0, awaits := [] }

/-- A copy that its gang's halt has left 512 clocks (spec 10, R287). -/
def EngineOp.restarts (o : EngineOp) : Bool :=
  match o.kind with | .copy | .ring .. | .gather => true | _ => false

/-- Where a gang goes when what held it ends: a halt, a reset, a shutdown or an error of its world keeps it halted, and a full fault
queue stalled (spec 14, R326, R332, R340; 15, R344, R357; 18, R375). -/
def State.runStatus (s : State) (g : Gang) : GStatus :=
  let d := s.die g.die
  match s.world? g.world with
  | none => .halting
  | some w =>
    if g.held || g.heldDie || s.checker.draining || !d.live || d.retired || d.fenced || d.halted || w.halted || w.error ||
        (List.range 8).any (fun r => ((s.die r).resetReq || (s.die r).resetting) && (r == g.die || w.diemask.getLsbD r)) then .halting
    else if w.stalled then .stalled else .running

/-- Resumes a gang halted by a trap: the trapping instruction executes again, but threads that stopped at `trap` go on at the next
word; accesses whose POISON was taken are marked to be issued again, when they count again, and stopped operations begin again, copies
when the gang runs (spec 02, R40; 08, R193, R212; 10, R287, R289, R295). A gang that a halt holds goes on to its save, and one that is halted or saved already
waits for the driver no more. -/
def State.trapResume (s : State) (gang : Gang) : State :=
  let st : GStatus := if gang.status == .trapped || gang.status == .stalled then s.runStatus gang else gang.status
  let s := gang.skip.foldl (fun s k => s.modThread (k / 8192) (k % 8192) Thread.next) s
  let mine := (s.wgs.filter (·.gang == gang.id)).map (·.id)
  let mark (f : Flight) : Bool := mine.contains f.wg && f.poisoned && f.taken
  let s := { s with
    flights := mapIf mark (fun f => { f with replay := true, poisoned := false, denied := false, taken := false, uncounted := true, met := false }) s.flights
    tiles := mapIf (fun o => mine.contains o.wg) (fun o => { o with poisoned := false }) s.tiles
    engines := s.engines.map (fun (o : EngineOp) =>
      if o.gang == gang.id && (o.stage == EngineStage.stopped || (o.stage == EngineStage.halted && st == GStatus.running)) then
        (if o.restarts && st != GStatus.running then { o.restart with stage := .halted } else o.restart)
      else o) }
  (s.modGang gang.id (fun g => { g with status := st, skip := [], waits := false })).progress

/-- Parks threads of a group: they leave it, and execute the instruction again when they are filed (spec 02, R32). -/
def State.park (s : State) (e : Env) (tids : List Nat) (why : Park) : State :=
  (s.modThreads e.w.id tids (fun t => { t with status := .parked why })).keepMembers e.g.id
    (e.g.members.filter (fun t => !tids.contains t))

/-! Faults of a fetch and bad targets (spec 03, R57, R61). -/

/-- Parks a group at a fetch that met a page that is not resident (spec 03, R61). -/
def State.fetchFault (s : State) (e : Env) (va : VA) (bits : Nat) : State :=
  let r := { s.record e 0x30 va.toNat e.g.members with fetch := true }
  ((s.park e e.g.members (.pages [va.toNat])).recordPage e.gang.world (decide (16 < bits)) r va.toNat).progress

/-- The answer of a check of the word at a target address (spec 03, R57). -/
def State.atHeader (s : State) (e : Env) (va : VA) : Fetched ⊕ Header :=
  match s.fetch e.g.core e.gang.world va with
  | .word w => if isHeader w then .inr (headerOf w) else .inl (.word w)
  | f => .inl f

/-- The outcome when a target is no header that can be reached: BAD_TARGET, a parked fetch, or PROT (spec 03, R57, R61). -/
def State.badTarget (s : State) (e : Env) (va : VA) (f : Fetched) : Out :=
  match f with
  | .word _ => .next (s.takeTrap e { code := 0x02, daddr := va.toNat, fetch := true })
  | .fault (.absent bits _) => .next (s.fetchFault e va bits)
  | .fault .prot => .next (s.takeTrap e { code := 0x23, daddr := va.toNat, fetch := true })
  | .fault .malformed => .next (s.takeTrap e { code := 0x23, daddr := va.toNat, fetch := true, mal := true })
  | .absent k => .fault (.absentDram k)
  | .away => .next (s.hold e)

/-! The checks before an effect. -/

/-- Format of a slot's elements, when the slot's own fields are legal (spec 04, R91, R92). -/
def slotOk (x : Code) : Bool :=
  let fmt := (x.extractLsb' 0 4).toNat
  let scale := (x.extractLsb' 4 2).toNat
  let sbase := (x.extractLsb' 24 9).toNat
  x.extractLsb' 33 31 == 0 && x.extractLsb' 12 4 == 0 && x.extractLsb' 6 2 == 0 && fmt < 10 && (x.extractLsb' 8 3).toNat < 5 &&
  (sbase < 384 || sbase == 511) &&
  (scale == 0 || ((scale == 1 && (fmt == 2 || fmt == 3 || 7 ≤ fmt)) || (scale == 2 && (fmt == 2 || fmt == 3))) && x.extractLsb' 16 8 == 32)

def slotFmt (x : Code) : Nat := (x.extractLsb' 0 4).toNat
def slotScale (x : Code) : Nat := (x.extractLsb' 4 2).toNat
def slotSat (x : Code) : Bool := x.getLsbD 11
def slotRnd (x : Code) : Rnd :=
  match (x.extractLsb' 8 3).toNat with | 0 => .rne | 1 => .rz | 2 => .ru | 3 => .rd | _ => .sr

/-- Products of a step by operand format (spec 06, R132); 0 for a format that is no matrix operand. -/
def stepK (fmt : Nat) : Nat := match fmt with | 5 | 6 => 16 | 2 | 3 | 7 | 8 => 32 | 9 => 64 | _ => 0

/-- Registers of a fragment (spec 06, R132). -/
def fragRegs (fmt : Nat) : Nat := if fmt == 9 then 12 else 8

/-- Fragment registers a signing reads, by its slots (spec 06, R143, R151). -/
def instrFrags (l : Launch) : Instr → Nat × Nat
  | .mma _ f =>
    let b := if f.cl.getLsbD 3 then f.cl.toNat % 8 else f.slot.toNat
    (fragRegs (slotFmt (l.slot f.slot.toNat)), fragRegs (slotFmt (l.slot b)))
  | .mmac _ f => (0, fragRegs (slotFmt (l.slot (if f.cl.getLsbD 3 then f.cl.toNat % 8 else f.slot.toNat))))
  | _ => (8, 8)

/-- Which counter an instruction raises (spec 02, R40). -/
inductive Count where
  | ld | st | cp | tl | none
  deriving DecidableEq, Repr

def instrCount : Instr → Count
  | .ld .. | .ldp .. | .lds .. | .ldfrag .. | .take .. => .ld
  | .st .. | .sts .. | .atom .. | .atoms .. | .hflush .. | .hinv .. | .cwb .. | .hand .. | .launch .. | .tlbinv .. | .sttinv .. => .st
  | .cpy .. | .cpyLw .. | .cpyRing .. | .cpyg .. | .cpyb .. | .bulk .. | .send .. => .cp
  | .mma .. | .mmac .. | .mproj .. | .accz .. | .accld .. | .accst .. => .tl
  | _ => .none

def Thread.counter (t : Thread) : Count → BitVec 6
  | .ld => t.ld | .st => t.st | .cp => t.cp | .tl => t.tl | .none => 0

def Thread.addCount (t : Thread) (d : BitVec 6) : Count → Thread
  | .ld => { t with ld := t.ld + d } | .st => { t with st := t.st + d } | .cp => { t with cp := t.cp + d }
  | .tl => { t with tl := t.tl + d } | .none => t

/-- Registers a flight still has to write in a thread (spec 02, R40). -/
def Flight.regs (f : Flight) : List Nat :=
  match f.kind with
  | .load | .frag | .atomic .. => (f.elems.map (·.reg)).filter (· < 255)
  | _ => []

/-- A flight's write pending on a register or predicate the instruction names (spec 02, R40). -/
def Flight.blocks (f : Flight) (v p : List Nat) : Bool :=
  f.regs.any v.contains || (match f.pred with | some n => p.contains n | none => false)

/-- The instruction fetched in world 0 from a page with SYS set (spec 14, R314). -/
def State.privileged (s : State) (e : Env) : Bool :=
  e.gang.world == 0 && (match s.translate e.g.core 0 (s.iaddr e).toNat with | .ok t => pteSys t.leaf.pte | .error _ => false)

def instrSystem : Instr → Bool
  | .rdpr .. | .wrpr .. | .tlbinv .. | .sttinv .. | .finj .. | .halt .. => true
  | _ => false

/-- An instruction that only test mode has (spec 15, R356). -/
def instrTest : Instr → Bool
  | .finj .. => true
  | _ => false

/-- Active threads that go on at the next word, for the check of a fall-through (spec 03, R57). DESIGN CHOICE (assumption 65): a
`trap` that is a block's last word raises USER_TRAP in its threads, and the word after it is looked at when they go on there after
the resume. -/
def State.fallers (s : State) (e : Env) (i : Instr) : List Nat :=
  match i with
  | .br g _ | .brc g _ | .call g _ | .ret g _ | .exit g _ | .trap g _ => s.offLanes e g
  | _ => e.g.members

/-- The lowest of the decode conditions an instruction meets, or none (spec 03, R68, R70, R78; 14, R314). -/
def State.decodeTrap (s : State) (e : Env) (i : Instr) : Option Nat :=
  let (fa, fb) := instrFrags e.l i
  if !i.legal then some 0x01
  else if instrSystem i && (!s.privileged e || (instrTest i && !s.garrun.test)) then some 0x03
  else if !(i.opnds fa fb).all (Opnd.inRange e.l.vregs e.l.acc) then some 0x04
  else none

/-- A poisoned reply's trap code: the reply says POISON, or PROT where the request was refused (spec 08, R193; 09, R234). -/
def Flight.poisonCode (f : Flight) : Nat := if f.denied then 0x23 else 0x25

/-- The one of some poisoned accesses whose trap has the lowest code, the first issued of equals (spec 03, R78). -/
def lowestPoison (fs : List Flight) : Option Flight :=
  fs.foldl (fun r f => match r with | none => some f | some x => if f.poisonCode < x.poisonCode then some f else r) none

/-- Poisoned replies that the instruction's registers wait for. -/
def State.poisonHits (s : State) (e : Env) (v p : List Nat) : List Flight :=
  s.flights.filter (fun f => f.wg == e.w.id && f.poisoned && f.tids.any e.g.members.contains && f.blocks v p)

/-- The poisoned reply that the instruction's registers wait for, with the lowest code (spec 08, R193; 03, R78). -/
def State.poisonHit (s : State) (e : Env) (v p : List Nat) : Option Flight := lowestPoison (s.poisonHits e v p)

/-- Vector registers that the conditions of an instruction are read from: the index of an access. -/
def instrIndex : Instr → List Nat
  | .ld _ f | .ldp _ f | .st _ f | .lds _ f | .sts _ f | .pref _ f | .pgreq _ f => [f.idx.toNat]
  | .atom _ f _ | .atoms _ f _ => [f.idx.toNat]
  | .accld _ f | .accst _ f => [f.idx.toNat]
  | _ => []

/-- Threads whose index an access reads: of a tile transfer the leader alone (spec 06, R157). -/
def indexReaders (e : Env) : Instr → List Nat
  | .accld .. | .accst .. => [e.g.leader]
  | _ => e.g.members

/-- Some threads wait for a reply, poisoned or still to come, on registers or predicates. -/
def State.awaiting (s : State) (wg : Nat) (tids v p : List Nat) : Bool :=
  s.flights.any (fun f => f.wg == wg && f.tids.any tids.contains && f.blocks v p)

/-- No poisoned reply bears on what the instruction's own conditions are read from, its guard and its addresses: they can be told,
and the lowest code of all wins (spec 03, R78). -/
def State.condsKnown (s : State) (e : Env) (g : Guard) (i : Instr) : Bool :=
  !s.awaiting e.w.id e.g.members [] [g.p.toNat] && !s.awaiting e.w.id (indexReaders e i) (instrIndex i) []

/-- The scoreboard or a full counter holds the instruction (spec 02, R40). -/
def State.scoreHold (s : State) (e : Env) (g : Guard) (i : Instr) (v p : List Nat) : Bool :=
  s.flights.any (fun f => f.wg == e.w.id && !f.poisoned && f.tids.any e.g.members.contains && f.blocks v p) ||
  (s.lanes e g).any (fun t => instrCount i != Count.none && (s.thread e.w.id t).counter (instrCount i) == 63)

/-- What the checks before an effect answer. -/
inductive Gate where
  | trap (i : TrapInfo)
  | target (va : VA) (f : Fetched)
  /-- a register waits for a poisoned reply: its trap, unless the instruction itself meets a lower code -/
  | poison (i : TrapInfo)
  | hold
  | go
  deriving DecidableEq, Repr

/-- A poisoned flight's trap: the record names the access's own instruction and data, and tells whether it wrote (spec 08, R193; 14,
R324). -/
def Flight.poisonTrap (f : Flight) : TrapInfo :=
  { code := f.poisonCode, daddr := (match f.elems with | e :: _ => e.va | [] => 0), wr := !f.kind.isLoad, iaddr := some f.iaddr
    flight := some f.id }

/-- The word after the last instruction of a block is no header (spec 03, R57). -/
def State.fallBad (s : State) (e : Env) (i : Instr) : Option (VA × Fetched) :=
  let t := s.thread e.w.id e.g.leader
  if t.left == 1 && !(s.fallers e i).isEmpty then
    match s.atHeader e (t.pc + 8) with
    | .inl f => some (t.pc + 8, f)
    | .inr _ => none
  else none

/-- Code of what a bad target raises (spec 03, R57, R61). -/
def Fetched.code : Fetched → Nat
  | .word _ => 0x02
  | .fault (.absent ..) => 0x30
  | .fault _ => 0x23
  | .absent _ | .away => 0

/-- All checks made before any operand is read, lowest code first (spec 03, R57, R68, R70, R78; 02, R40; 08, R193). -/
def State.gate (s : State) (e : Env) (g : Guard) (i : Instr) : Gate :=
  let (fa, fb) := instrFrags e.l i
  match s.decodeTrap e i with
  | some 0x01 => .trap { code := 0x01 }
  | d =>
    match s.fallBad e i, d with
    | some (va, .word w), _ => .target va (.word w)
    | _, some c => .trap { code := c }
    | fall, none =>
      match s.poisonHit e (i.vregs fa fb) i.preds, fall with
      | some f, some (va, x) => if x.code < f.poisonCode then .target va x else .poison f.poisonTrap
      | some f, none => .poison f.poisonTrap
      | none, some (va, x) => .target va x
      | none, none => if s.scoreHold e g i (i.vregs fa fb) i.preds then .hold else .go

/-- What an instruction itself raises against another condition of some code: the lower code wins (spec 03, R57, R78). -/
def lowerOf (own : Out) (code : Nat) (other : Out) : Out :=
  match own with
  | .next t => if t.raised.any (· < code) then own else other
  | _ => other

/-- Issues an instruction of the group that is issuing: the checks, then its own effect. -/
def issue (g : Guard) (i : Instr) (s : State) (body : Env → Out) : Out :=
  match s.issuer with
  | none => .refused .noGroup
  | some e =>
    match s.gate e g i with
    | .trap t => .next (s.takeTrap e t)
    | .target va f =>
      if s.raised.isNone && s.decodeTrap e i == none && s.condsKnown e g i then lowerOf (body e) f.code (s.badTarget e va f)
      else s.badTarget e va f
    | .poison t =>
      if s.raised.isNone && s.condsKnown e g i then lowerOf (body e) t.code (.next (s.takeTrap e t)) else .next (s.takeTrap e t)
    | .hold => .next (s.hold e)
    | .go => body e

/-- An effect on each active thread whose guard holds, with a fresh draw for each (spec 02, R33; 04, R94). -/
def State.perLane (s : State) (e : Env) (tids : List Nat) (f : BitVec 16 → Thread → Thread) : State :=
  (dedup tids).foldl (fun s t => { s.modThread e.w.id t (f (Config.rand16 s.draws)) with draws := s.draws + 1 }) s

/-- The same with two draws for each thread: an effect that rounds twice (spec 04, R94). -/
def State.perLaneTwice (s : State) (e : Env) (tids : List Nat) (f : BitVec 16 → BitVec 16 → Thread → Thread) : State :=
  (dedup tids).foldl (fun s t =>
    { s.modThread e.w.id t (f (Config.rand16 s.draws) (Config.rand16 (s.draws + 1))) with draws := s.draws + 2 }) s

/-- A register-only vector instruction: the effect on each active thread whose guard holds (spec 02, R33; 05, R105). -/
def vecOp (g : Guard) (i : Instr) (s : State) (f : Thread → Thread) : Out :=
  issue g i s (fun e => (s.modThreads e.w.id (s.lanes e g) f).done e)

/-- A vector instruction that rounds: each lane has a draw for stochastic rounding (spec 04, R94). -/
def vecRnd (g : Guard) (i : Instr) (s : State) (f : BitVec 16 → Thread → Thread) : Out :=
  issue g i s (fun e => (s.perLane e (s.lanes e g) f).done e)

/-- A scalar instruction: once for the group, if an active thread's guard holds (spec 02, R33, R34). -/
def scalarOp (g : Guard) (i : Instr) (s : State) (f : Env → State) : Out :=
  issue g i s (fun e => if (s.lanes e g).isEmpty then s.done e else (f e).done e)

/-- A once-per-group effect that may end otherwise. -/
def groupOp (g : Guard) (i : Instr) (s : State) (body : Env → List Nat → Out) : Out :=
  issue g i s (fun e => if (s.lanes e g).isEmpty then s.done e else body e (s.lanes e g))

/-- An event that happens when it can. -/
def event (enabled : Bool) (t : State) : Out := if enabled then .next t.progress else .refused .notEnabled

end Sys2Proof.Machine
end

