-- ==== Sys2Proof/Machine/IntVec.lean ====
section
/-! DEFINITION. Integer, address and move instructions: opcodes 0x01 to 0x07 (spec 05, R108 to R111). -/

namespace Sys2Proof.Machine

/-- An operand as TY reads it (spec 05, R107). -/
def intOf (uns : Bool) (x : Word) : Int := if uns then x.toNat else x.toInt

/-- An exact result, saturated to the range of TY for RS 101, else wrapped (spec 05, R109). -/
def fitInt (sat uns : Bool) (x : Int) : Word :=
  BitVec.ofInt 32 (if sat then (if uns then clampInt 0 (2 ^ 32 - 1) x else clampInt (-2 ^ 31) (2 ^ 31 - 1) x) else x)

/-- RS 101 (spec 03, R69). -/
def rsSat (rs : BitVec 3) : Bool := rs == 5

/-- TY 01 (spec 03, R69). -/
def tyU (ty : BitVec 2) : Bool := ty == 1

/-- The smaller of two as TY compares them. -/
def minW (uns : Bool) (a b : Word) : Word := if intOf uns b < intOf uns a then b else a
/-- The larger of two as TY compares them. -/
def maxW (uns : Bool) (a b : Word) : Word := if intOf uns a < intOf uns b then b else a

def shlW (a b : Word) : Word := if b.toNat < 32 then a <<< b.toNat else 0
def shrW (a b : Word) : Word := if b.toNat < 32 then a >>> b.toNat else 0
def sarW (a b : Word) : Word := a.sshiftRight (min b.toNat 32)
def rotW (a b : Word) : Word := a.rotateLeft (b.toNat % 32)

def popcW (a : Word) : Word := BitVec.ofNat 32 ((List.range 32).filter (fun i => a.getLsbD i)).length
def clzW (a : Word) : Word := BitVec.ofNat 32 (((List.range 32).find? (fun i => a.getMsbD i)).getD 32)
def ctzW (a : Word) : Word := BitVec.ofNat 32 (((List.range 32).find? (fun i => a.getLsbD i)).getD 32)
def brevW (a : Word) : Word := a.reverse

/-- `bfe`: the control is in b (spec 05, R109). -/
def bfeW (uns : Bool) (a b : Word) : Word :=
  let pos := b.toNat % 32
  let len := min (b.toNat / 256 % 64) (32 - pos)
  let f := a.toNat / 2 ^ pos % 2 ^ len
  if len == 0 then 0
  else if uns || f < 2 ^ (len - 1) then BitVec.ofNat 32 f
  else BitVec.ofNat 32 (f + 2 ^ 32 - 2 ^ len)

/-- `bfi`: base a, field source b, control c (spec 05, R109). -/
def bfiW (a b c : Word) : Word :=
  let pos := c.toNat % 32
  let len := min (c.toNat / 256 % 64) (32 - pos)
  let m : Word := BitVec.ofNat 32 ((2 ^ len - 1) * 2 ^ pos)
  (a &&& ~~~m) ||| ((b <<< pos) &&& m)

/-- D takes a function of a. -/
def v1Op (g : Guard) (f : V3) (i : Instr) (s : State) (op : Word → Word) : Out :=
  vecOp g i s (fun t => t.setV f.d (op (t.v f.a)))

/-- D takes a function of a and b. -/
def v2Op (g : Guard) (f : V3) (i : Instr) (s : State) (op : Word → Word → Word) : Out :=
  vecOp g i s (fun t => t.setV f.d (op (t.v f.a) (t.v f.b)))

/-- D takes a function of a and the immediate (spec 05, R110). -/
def viOp (g : Guard) (f : VI) (i : Instr) (s : State) (op : Word → Word → Word) : Out :=
  vecOp g i s (fun t => t.setV f.d (op (t.v f.a) f.imm))

def execAdd (g : Guard) (f : V3) (s : State) : Out :=
  v2Op g f (.add g f) s (fun a b => fitInt (rsSat f.rs) (tyU f.ty) (intOf (tyU f.ty) a + intOf (tyU f.ty) b))
def execSub (g : Guard) (f : V3) (s : State) : Out :=
  v2Op g f (.sub g f) s (fun a b => fitInt (rsSat f.rs) (tyU f.ty) (intOf (tyU f.ty) a - intOf (tyU f.ty) b))
def execMul (g : Guard) (f : V3) (s : State) : Out :=
  v2Op g f (.mul g f) s (fun a b => fitInt (rsSat f.rs) (tyU f.ty) (intOf (tyU f.ty) a * intOf (tyU f.ty) b))
def execMulhi (g : Guard) (f : V3) (s : State) : Out :=
  v2Op g f (.mulhi g f) s (fun a b => BitVec.ofInt 32 ((intOf (tyU f.ty) a * intOf (tyU f.ty) b) / 2 ^ 32))
def execMad (g : Guard) (f : V3) (s : State) : Out :=
  vecOp g (.mad g f) s (fun t => t.setV f.d (fitInt (rsSat f.rs) (tyU f.ty)
    (intOf (tyU f.ty) (t.v f.a) * intOf (tyU f.ty) (t.v f.b) + intOf (tyU f.ty) (t.v f.c))))
def execMin (g : Guard) (f : V3) (s : State) : Out := v2Op g f (.min g f) s (minW (tyU f.ty))
def execMax (g : Guard) (f : V3) (s : State) : Out := v2Op g f (.max g f) s (maxW (tyU f.ty))
def execAbs (g : Guard) (f : V3) (s : State) : Out :=
  v1Op g f (.abs g f) s (fun a => fitInt (rsSat f.rs) false a.toInt.natAbs)
def execNeg (g : Guard) (f : V3) (s : State) : Out := v1Op g f (.neg g f) s (fun a => fitInt (rsSat f.rs) false (-a.toInt))

/-- The carry-in and carry-out predicates of `addc` and `subb`, in CL. -/
def carryIn (f : V3) : BitVec 4 := f.cl.extractLsb' 0 4
def carryOut (f : V3) : BitVec 4 := f.cl.extractLsb' 4 4

def execAddc (g : Guard) (f : V3) (s : State) : Out :=
  vecOp g (.addc g f) s (fun t =>
    let r := addCarry (t.v f.a) (t.v f.b) (t.p (carryIn f))
    (t.setV f.d r.1).setP (carryOut f) r.2)
def execSubb (g : Guard) (f : V3) (s : State) : Out :=
  vecOp g (.subb g f) s (fun t =>
    let r := subBorrow (t.v f.a) (t.v f.b) (t.p (carryIn f))
    (t.setV f.d r.1).setP (carryOut f) r.2)
def execLea (g : Guard) (f : V3) (s : State) : Out := v2Op g f (.lea g f) s (fun a b => a + (b <<< (f.cl.toNat % 8)))

def execAnd (g : Guard) (f : V3) (s : State) : Out := v2Op g f (.and g f) s (· &&& ·)
def execOr (g : Guard) (f : V3) (s : State) : Out := v2Op g f (.or g f) s (· ||| ·)
def execXor (g : Guard) (f : V3) (s : State) : Out := v2Op g f (.xor g f) s (· ^^^ ·)
def execNot (g : Guard) (f : V3) (s : State) : Out := v1Op g f (.not g f) s (~~~ ·)
def execShl (g : Guard) (f : V3) (s : State) : Out := v2Op g f (.shl g f) s shlW
def execShr (g : Guard) (f : V3) (s : State) : Out := v2Op g f (.shr g f) s shrW
def execSar (g : Guard) (f : V3) (s : State) : Out := v2Op g f (.sar g f) s sarW
def execRot (g : Guard) (f : V3) (s : State) : Out := v2Op g f (.rot g f) s rotW
def execPopc (g : Guard) (f : V3) (s : State) : Out := v1Op g f (.popc g f) s popcW
def execClz (g : Guard) (f : V3) (s : State) : Out := v1Op g f (.clz g f) s clzW
def execCtz (g : Guard) (f : V3) (s : State) : Out := v1Op g f (.ctz g f) s ctzW
def execBrev (g : Guard) (f : V3) (s : State) : Out := v1Op g f (.brev g f) s brevW
def execBfe (g : Guard) (f : V3) (s : State) : Out := v2Op g f (.bfe g f) s (bfeW (tyU f.ty))
def execBfi (g : Guard) (f : V3) (s : State) : Out :=
  vecOp g (.bfi g f) s (fun t => t.setV f.d (bfiW (t.v f.a) (t.v f.b) (t.v f.c)))
def execSel (g : Guard) (f : V3) (s : State) : Out :=
  vecOp g (.sel g f) s (fun t => t.setV f.d (if t.p (f.cl.extractLsb' 0 4) then t.v f.a else t.v f.b))
def execCmp (g : Guard) (f : V3) (s : State) : Out :=
  vecOp g (.cmp g f) s (fun t => t.setP (f.d.extractLsb' 0 4) (intCond (f.cl.toNat % 8) (tyU f.ty) (t.v f.a) (t.v f.b)))

def execAddImm (g : Guard) (f : VI) (s : State) : Out := viOp g f (.addImm g f) s (· + ·)
def execSubImm (g : Guard) (f : VI) (s : State) : Out := viOp g f (.subImm g f) s (· - ·)
def execMulImm (g : Guard) (f : VI) (s : State) : Out := viOp g f (.mulImm g f) s (· * ·)
def execMinImm (g : Guard) (f : VI) (u : Bool) (s : State) : Out := viOp g f (.minImm g f u) s (minW u)
def execMaxImm (g : Guard) (f : VI) (u : Bool) (s : State) : Out := viOp g f (.maxImm g f u) s (maxW u)
def execAndImm (g : Guard) (f : VI) (s : State) : Out := viOp g f (.andImm g f) s (· &&& ·)
def execOrImm (g : Guard) (f : VI) (s : State) : Out := viOp g f (.orImm g f) s (· ||| ·)
def execXorImm (g : Guard) (f : VI) (s : State) : Out := viOp g f (.xorImm g f) s (· ^^^ ·)
def execShlImm (g : Guard) (f : VI) (s : State) : Out := viOp g f (.shlImm g f) s shlW
def execShrImm (g : Guard) (f : VI) (s : State) : Out := viOp g f (.shrImm g f) s shrW
def execSarImm (g : Guard) (f : VI) (s : State) : Out := viOp g f (.sarImm g f) s sarW
def execRotImm (g : Guard) (f : VI) (s : State) : Out := viOp g f (.rotImm g f) s rotW
def execCmpImm (g : Guard) (f : VI) (cond : BitVec 3) (u : Bool) (s : State) : Out :=
  vecOp g (.cmpImm g f cond u) s (fun t => t.setP (f.d.extractLsb' 0 4) (intCond cond.toNat u (t.v f.a) f.imm))

def execMov (g : Guard) (f : V3) (s : State) : Out := v1Op g f (.mov g f) s (fun a => a)
def execMovi (g : Guard) (f : VI) (s : State) : Out := vecOp g (.movi g f) s (fun t => t.setV f.d f.imm)
def execMovs (g : Guard) (f : V3S) (s : State) : Out :=
  issue g (.movs g f) s (fun e => (s.modThreads e.w.id (s.lanes e g) (fun t => t.setV f.d (e.s f.s))).done e)

end Sys2Proof.Machine
end

