-- ==== Sys2Proof/Machine/Float.lean ====
section
/-! DEFINITION. Floating-point and conversion instructions: opcodes 0x08 to 0x0B (spec 05, R112 to R119). -/

namespace Sys2Proof.Machine

/-- D takes a rounded function of a, b and c (spec 05, R113). -/
def fOp (g : Guard) (f : V3) (i : Instr) (s : State) (op : Rnd → Bool → BitVec 16 → Word → Word → Word → Word) : Out :=
  vecRnd g i s (fun draw t => t.setV f.d (op (rsMode f.rs).1 (rsMode f.rs).2 draw (t.v f.a) (t.v f.b) (t.v f.c)))

def execFadd (g : Guard) (f : V3) (s : State) : Out := fOp g f (.fadd g f) s (fun r sat d a b _ => fadd r sat d a b)
def execFsub (g : Guard) (f : V3) (s : State) : Out := fOp g f (.fsub g f) s (fun r sat d a b _ => fsub r sat d a b)
def execFmul (g : Guard) (f : V3) (s : State) : Out := fOp g f (.fmul g f) s (fun r sat d a b _ => fmul r sat d a b)
def execFma (g : Guard) (f : V3) (s : State) : Out := fOp g f (.fma g f) s (fun r sat d a b c => ffma r sat d a b c)
def execFmin (g : Guard) (f : V3) (s : State) : Out := v2Op g f (.fmin g f) s (fminmax false)
def execFmax (g : Guard) (f : V3) (s : State) : Out := v2Op g f (.fmax g f) s (fminmax true)
def execFcmp (g : Guard) (f : V3) (s : State) : Out :=
  vecOp g (.fcmp g f) s (fun t => t.setP (f.d.extractLsb' 0 4) (fcmp (f.cl.toNat % 8) (t.v f.a) (t.v f.b)))
def execFclass (g : Guard) (f : V3) (s : State) : Out := v1Op g f (.fclass g f) s fclass
def execFrnd (g : Guard) (f : V3) (s : State) : Out := v1Op g f (.frnd g f) s (frnd (rsMode f.rs).1)
def execFrcp (g : Guard) (f : V3) (s : State) : Out := fOp g f (.frcp g f) s (fun r sat d a _ _ => frcp r sat d a)
def execFsqrt (g : Guard) (f : V3) (s : State) : Out := fOp g f (.fsqrt g f) s (fun r sat d a _ _ => fsqrt r sat d a)
def execFrsq (g : Guard) (f : V3) (s : State) : Out := v1Op g f (.frsq g f) s (fapprox 1)
def execFex2 (g : Guard) (f : V3) (s : State) : Out := v1Op g f (.fex2 g f) s (fapprox 3)
def execFlg2 (g : Guard) (f : V3) (s : State) : Out := v1Op g f (.flg2 g f) s (fapprox 4)
def execFsin (g : Guard) (f : V3) (s : State) : Out := v1Op g f (.fsin g f) s (fapprox 5)
def execFcos (g : Guard) (f : V3) (s : State) : Out := v1Op g f (.fcos g f) s (fapprox 6)

/-- D takes a function of a and the immediate, rounded to nearest even (spec 05, R114). -/
def fiOp (g : Guard) (f : VI) (i : Instr) (s : State) (op : Word → Word → Word) : Out := viOp g f i s op

def execFaddImm (g : Guard) (f : VI) (s : State) : Out := fiOp g f (.faddImm g f) s (fadd .rne false 0)
def execFsubImm (g : Guard) (f : VI) (s : State) : Out := fiOp g f (.fsubImm g f) s (fsub .rne false 0)
def execFmulImm (g : Guard) (f : VI) (s : State) : Out := fiOp g f (.fmulImm g f) s (fmul .rne false 0)
def execFminImm (g : Guard) (f : VI) (s : State) : Out := fiOp g f (.fminImm g f) s (fminmax false)
def execFmaxImm (g : Guard) (f : VI) (s : State) : Out := fiOp g f (.fmaxImm g f) s (fminmax true)

/-- The destination is L6, code 9, whose rounding is never stochastic (spec 04, R92). -/
def slotServes (x : Code) (l6 : Bool) : Bool := slotOk x && !(l6 && slotRnd x == .sr)

/-- A conversion's rounding and saturation: RS, or the slot's, which must serve (spec 05, R115; 04, R92). -/
def convMode (l : Launch) (f : V3) (l6 : Bool) : Option (Rnd × Bool) :=
  if f.rs == 7 then
    let x := l.slot f.slot.toNat
    if slotServes x l6 then some (slotRnd x, slotSat x) else none
  else some (rsMode f.rs)

/-- A conversion: FMT_SLOT when the named slot cannot serve, else per lane (spec 05, R115). -/
def convOp (g : Guard) (f : V3) (i : Instr) (l6 : Bool) (s : State) (op : Rnd → Bool → BitVec 16 → Thread → Thread) : Out :=
  issue g i s (fun e =>
    match convMode e.l f l6 with
    | none => .next (s.takeTrap e { code := 0x10 })
    | some m => (s.perLane e (s.lanes e g) (op m.1 m.2)).done e)

/-- The two format fields or the index field of CL. -/
def clHi (f : V3) : Nat := f.cl.toNat / 16
def clLo (f : V3) : Nat := f.cl.toNat % 16

def execCvt (g : Guard) (f : V3) (s : State) : Out :=
  convOp g f (.cvt g f) (clHi f == 9) s (fun r sat draw t =>
    t.setV f.d (BitVec.ofNat 32 (convert (clLo f) (clHi f) r sat draw ((t.v f.a).toNat % 2 ^ fmtBits (clLo f)))))

/-- The registers of a unit as one number, and back (spec 04, R88). -/
def Thread.unit (t : Thread) (r : BitVec 8) (n : Nat) : Nat :=
  (List.range n).foldl (fun x j => x + (t.v (r + BitVec.ofNat 8 j)).toNat * 2 ^ (32 * j)) 0

def Thread.setUnit (t : Thread) (r : BitVec 8) (n x : Nat) : Thread :=
  (List.range n).foldl (fun t j => t.setV (r + BitVec.ofNat 8 j) (BitVec.ofNat 32 (x / 2 ^ (32 * j)))) t

/-- Replaces a field of `w` bits at bit `p` of a number. -/
def putBits (x p w y : Nat) : Nat := x / 2 ^ (p + w) * 2 ^ (p + w) + y % 2 ^ w * 2 ^ p + x % 2 ^ p

/-- `pack` (spec 05, R117): an INT8 destination takes INT32 sources, UINT8 takes UINT32, the others FP32. Each of the two roundings
has a draw of its own (spec 04, R94). -/
def packThread (f : V3) (r : Rnd) (sat : Bool) (draw draw' : BitVec 16) (t : Thread) : Thread :=
  let dst := clLo f
  let src := if dst == 2 then 0 else if dst == 3 then 1 else 4
  let n := if dst == 9 then 3 else 1
  let w := fmtBits dst
  let x := convert src dst r sat draw (t.v f.a).toNat
  let y := convert src dst r sat draw' (t.v f.b).toNat
  t.setUnit f.d n (putBits (putBits (t.unit f.d n) (clHi f * w) w x) ((clHi f + 1) * w) w y)

def execPack (g : Guard) (f : V3) (s : State) : Out :=
  issue g (.pack g f) s (fun e =>
    match convMode e.l f (clLo f == 9) with
    | none => .next (s.takeTrap e { code := 0x10 })
    | some m => (s.perLaneTwice e (s.lanes e g) (packThread f m.1 m.2)).done e)

/-- `unpack` (spec 05, R118). -/
def unpackThread (f : V3) (t : Thread) : Thread :=
  let src := clLo f
  let w := fmtBits src
  let x := t.unit f.a (if src == 9 then 3 else 1) / 2 ^ (clHi f * w) % 2 ^ w
  let dst := if src == 2 then 0 else if src == 3 then 1 else 4
  t.setV f.d (BitVec.ofNat 32 (convert src dst .rne false 0 x))

def execUnpack (g : Guard) (f : V3) (s : State) : Out := vecOp g (.unpack g f) s (unpackThread f)

def execScl (g : Guard) (f : V3) (s : State) : Out :=
  convOp g f (.scl g f) false s (fun r sat draw t => t.setV f.d (fscl (f.cl.getLsbD 0) r sat draw (t.v f.a) (t.v f.b)))

end Sys2Proof.Machine
end

