-- ==== Sys2Proof/Machine/CrossLane.lean ====
section
/-! DEFINITION. Cross-lane instructions: opcodes 0x10 and 0x11 (spec 05, R125 to R130; 04, R102, R103). -/

namespace Sys2Proof.Machine

/-- Files every active thread into the bin keyed by the instruction's own address (spec 02, R29). -/
def State.fileHere (s : State) (e : Env) : State := s.fileFrom e (s.iaddr e) e.g.members

/-- The end of an instruction executed in a group drawn for it. -/
def State.doneDrawn (s : State) (e : Env) : Out :=
  .next ((s.advance e).modGroup e.g.id (fun g => { g with drawn := false })).progress

/-- The lanes of a drawn group. -/
structure Lanes where
  /-- a contributing lane's value of A -/
  c : Nat → Option Word
  /-- a contributing lane's source predicate -/
  p : Nat → Bool

/-- The thread of a lane, if it is in the group. -/
def Env.laneTid (e : Env) (L : Nat) : Option Nat := e.g.members.find? (fun t => laneOf t == L)

/-- Contributing lanes: in the group, a member of the mask, guard 1 (spec 05, R126). -/
def State.contrib (s : State) (e : Env) (g : Guard) (mask : BitVec 9) (L : Nat) : Option Thread :=
  match e.laneTid L with
  | none => none
  | some t =>
    let x := s.thread e.w.id t
    if (e.s mask).getLsbD L && guardTruth g.neg (x.p g.p) then some x else none

/-- Values and predicates of the contributing lanes. -/
def State.lanesOf (s : State) (e : Env) (g : Guard) (f : V3S) : Lanes :=
  { c := fun L => (s.contrib e g f.s L).map (fun t => t.v f.a)
    p := fun L => ((s.contrib e g f.s L).map (fun t => t.p (f.cl.extractLsb' 0 4))).getD false }

/-- A cross-lane instruction: a reform point, then the effect in every receiving lane of the group drawn. -/
def crossOp (g : Guard) (f : V3S) (i : Instr) (s : State) (op : Lanes → Nat → Thread → Thread) : Out :=
  issue g i s (fun e =>
    if e.g.drawn then
      let x := s.lanesOf e g f
      (s.modEach e.w.id (s.lanes e g) (fun t => op x (laneOf t))).doneDrawn e
    else .next (s.fileHere e).progress)

/-- The source of a shuffle if it contributes, else another value. -/
def Lanes.from (x : Lanes) (src : Option Nat) (other : Word) : Word :=
  match src with | some j => (x.c j).getD other | none => other

/-- L − d or L + d, in 0..31 or modulo 32 (spec 05, R128). -/
def shiftLane (up wrap : Bool) (L d : Nat) : Option Nat :=
  if up then (if d ≤ L then some (L - d) else if wrap then some (L + 32 - d) else none)
  else if L + d < 32 then some (L + d) else if wrap then some (L + d - 32) else none

def lanes32 : List Nat := List.range 32

/-- The mask of lanes that meet a test. -/
def maskOf (p : Nat → Bool) : Word := lanes32.foldl (fun m j => if p j then m ||| (1 <<< j) else m) 0

/-- Contributing lanes with their values, lowest lane first. -/
def Lanes.list (x : Lanes) : List (Nat × Word) := lanes32.filterMap (fun j => (x.c j).map (fun v => (j, v)))

def execShflIdx (g : Guard) (f : V3S) (s : State) : Out :=
  crossOp g f (.shflIdx g f) s (fun x _ t => t.setV f.d (x.from (some ((t.v f.b).toNat % 32)) (t.v f.a)))
def execShflUp (g : Guard) (f : V3S) (s : State) : Out :=
  crossOp g f (.shflUp g f) s (fun x L t =>
    t.setV f.d (x.from (shiftLane true (f.cl.getLsbD 5) L (f.cl.toNat % 32)) (t.v f.b)))
def execShflDown (g : Guard) (f : V3S) (s : State) : Out :=
  crossOp g f (.shflDown g f) s (fun x L t =>
    t.setV f.d (x.from (shiftLane false (f.cl.getLsbD 5) L (f.cl.toNat % 32)) (t.v f.b)))
def execShflXor (g : Guard) (f : V3S) (s : State) : Out :=
  crossOp g f (.shflXor g f) s (fun x L t => t.setV f.d (x.from (some (L ^^^ (f.cl.toNat % 32))) (t.v f.b)))
def execVoteAll (g : Guard) (f : V3S) (s : State) : Out :=
  crossOp g f (.voteAll g f) s (fun x _ t =>
    t.setP (f.d.extractLsb' 0 4) (lanes32.all (fun j => (x.c j).isNone || x.p j)))
def execVoteAny (g : Guard) (f : V3S) (s : State) : Out :=
  crossOp g f (.voteAny g f) s (fun x _ t => t.setP (f.d.extractLsb' 0 4) (lanes32.any x.p))
def execVoteBallot (g : Guard) (f : V3S) (s : State) : Out :=
  crossOp g f (.voteBallot g f) s (fun x _ t => t.setV f.d (maskOf x.p))
def execMatchAny (g : Guard) (f : V3S) (s : State) : Out :=
  crossOp g f (.matchAny g f) s (fun x L t =>
    t.setV f.d (match x.c L with | some v => maskOf (fun j => x.c j == some v) | none => 0))
def execMatchAll (g : Guard) (f : V3S) (s : State) : Out :=
  crossOp g f (.matchAll g f) s (fun x _ t =>
    t.setV f.d (match x.list with
      | [] => 0
      | (_, v) :: r => if r.all (fun y => y.2 == v) then maskOf (fun j => (x.c j).isSome) else 0))
def execBcast (g : Guard) (f : V3S) (s : State) : Out :=
  crossOp g f (.bcast g f) s (fun x _ t => t.setV f.d (x.from (some (f.cl.toNat % 32)) (t.v f.a)))
def execGscan (g : Guard) (f : V3S) (s : State) : Out :=
  crossOp g f (.gscan g f) s (fun x L t =>
    t.setV f.d ((x.list.filter (fun y => y.1 < L || (y.1 == L && !f.cl.getLsbD 0))).foldl (fun a y => a + y.2) 0))

/-- Whether a new value beats the one held so far: strictly, so that the lowest lane wins a tie (spec 05, R129). -/
def beats (isMax : Bool) (ty : BitVec 2) (new old : Word) : Bool :=
  if ty == 2 then (if isMax then Num.lt true (f32 old) (f32 new) else Num.lt true (f32 new) (f32 old))
  else if isMax then decide (intOf (tyU ty) old < intOf (tyU ty) new) else decide (intOf (tyU ty) new < intOf (tyU ty) old)

/-- The identity of a minimum or maximum of a type (spec 04, R103). -/
def extremeId (isMax : Bool) (ty : BitVec 2) : Word :=
  if ty == 2 then (if isMax then 0xFF800000 else 0x7F800000)
  else if tyU ty then (if isMax then 0 else 0xFFFFFFFF)
  else if isMax then 0x80000000 else 0x7FFFFFFF

/-- Extreme value and its lane (spec 05, R129). -/
def extreme (isMax : Bool) (ty : BitVec 2) (l : List (Nat × Word)) : Word × Word :=
  let ok := l.filter (fun y => !(ty == 2 && (f32 y.2).isNan))
  match ok, l with
  | y :: r, _ =>
    let b := r.foldl (fun b y => if beats isMax ty y.2 b.2 then y else b) y
    (b.2, BitVec.ofNat 32 b.1)
  | [], (j, _) :: _ => (0x7FC00000, BitVec.ofNat 32 j)
  | [], [] => (extremeId isMax ty, 0xFFFFFFFF)

def execMinidx (g : Guard) (f : V3S) (s : State) : Out :=
  crossOp g f (.minidx g f) s (fun x _ t => (t.setV f.d (extreme false f.ty x.list).1).setV (f.d + 1) (extreme false f.ty x.list).2)
def execMaxidx (g : Guard) (f : V3S) (s : State) : Out :=
  crossOp g f (.maxidx g f) s (fun x _ t => (t.setV f.d (extreme true f.ty x.list).1).setV (f.d + 1) (extreme true f.ty x.list).2)

/-- One level of the tree of R102: neighbours added, rounded to nearest even. -/
def addPairs : List Word → List Word
  | a :: b :: r => fadd .rne false 0 a b :: addPairs r
  | r => r

/-- `redux.fadd` over the 32 lanes, the identity −0.0 for the others (spec 04, R102, R103). -/
def faddTree (x : Lanes) : Word :=
  match addPairs (addPairs (addPairs (addPairs (addPairs (lanes32.map (fun j => (x.c j).getD 0x80000000)))))) with
  | r :: _ => r
  | [] => 0x80000000

/-- Combines the contributing values, or answers the identity where there are none. -/
def Lanes.fold (x : Lanes) (id : Word) (op : Word → Word → Word) : Word :=
  match x.list with
  | [] => id
  | (_, v) :: r => r.foldl (fun a y => op a y.2) v

/-- `redux.fmin` and `redux.fmax` over the 32 lanes, the infinity of R103 for the lanes that do not contribute: canonical NaN only where
every lane contributes one (spec 04, R97, R103; 05, R130). -/
def fextreme (isMax : Bool) (x : Lanes) : Word :=
  (lanes32.map (fun j => (x.c j).getD (extremeId isMax 2))).foldl (fminmax isMax) 0x7FC00000

/-- `redux` (spec 05, R130). -/
def reduce (op : ReduxOp) (ty : BitVec 2) (x : Lanes) : Word :=
  match op with
  | .add => x.fold 0 (· + ·)
  | .min => x.fold (extremeId false ty) (minW (tyU ty))
  | .max => x.fold (extremeId true ty) (maxW (tyU ty))
  | .and => x.fold 0xFFFFFFFF (· &&& ·)
  | .or => x.fold 0 (· ||| ·)
  | .xor => x.fold 0 (· ^^^ ·)
  | .fadd => faddTree x
  | .fmin => fextreme false x
  | .fmax => fextreme true x

def execRedux (g : Guard) (f : V3S) (op : ReduxOp) (s : State) : Out :=
  crossOp g f (.redux g f op) s (fun x _ t => t.setV f.d (reduce op f.ty x))

end Sys2Proof.Machine
end

