-- ==== Sys2Proof/Machine/Green.lean ====
section
/-! DEFINITION. Greenware versions: the words they hold, upstream sets, fire groups and the four-version limit (spec 15,
R345 to R347), and the one way a store reaches memory. -/

namespace Sys2Proof.Machine

/-- The version number of a thread (spec 15, R345). -/
def verNum (l : Launch) (sub : BitVec 8) : Word := (l.vl ++ sub : BitVec 32)

/-- A pending version by world and number. -/
def State.version? (s : State) (world : Nat) (num : Word) : Option Version :=
  s.versions.find? (fun v => v.world == world && v.num == num)

def State.modVersion (s : State) (id : Nat) (f : Version → Version) : State :=
  { s with versions := mapIf (fun v => v.id == id) f s.versions }

/-- The version number was settled by discarding: later writes under it are dropped (spec 15, R348). -/
def State.dropped (s : State) (world : Nat) (num : Word) : Bool :=
  s.checker.settled.any (fun x => x.1 == world && x.2.1 == num && x.2.2 == 1)

/-- Fire groups that the versions of some groups depend on. -/
def State.upGroups (s : State) (gs : List Nat) : List Nat :=
  let ids := (s.versions.filter (fun v => gs.contains v.group)).flatMap (·.up)
  (s.versions.filter (fun v => ids.contains v.id)).map (·.group)

/-- Fire groups reached from some groups, themselves included. -/
def State.reach (s : State) : Nat → List Nat → List Nat
  | 0, gs => gs
  | n + 1, gs => s.reach n (dedup (gs ++ s.upGroups gs))

/-- Records that V depends on U, or joins the fire groups of the cycle that would close (spec 15, R347). -/
def State.link (s : State) (v u : Version) : State :=
  if v.group == u.group then s
  else
    let n := s.versions.length
    let r := s.reach n [u.group]
    if r.contains v.group then
      let onCycle := r.filter (fun g => (s.reach n [g]).contains v.group)
      let all := v.group :: onCycle
      let least := all.foldl min v.group
      { s with versions := mapIf (fun x => all.contains x.group) (fun x => { x with group := least }) s.versions }
    else s.modVersion v.id (fun x => { x with up := if x.up.contains u.id then x.up else x.up ++ [u.id] })

/-- Links by name; what is not pending is passed over. -/
def State.linkIds (s : State) (v u : Nat) : State :=
  match s.versions.find? (fun x => x.id == v), s.versions.find? (fun x => x.id == u) with
  | some x, some y => s.link x y
  | _, _ => s

/-- V gains upstream U, with the 64 places and the two overflows (spec 15, R347). -/
def State.gain (s : State) (v u : Nat) : State :=
  match s.versions.find? (fun x => x.id == v), s.versions.find? (fun x => x.id == u) with
  | some x, some y =>
    if v == u || x.up.contains u then s
    else if x.future || (x.full && u < v) then s.link x y
    else
      let used := (x.up.filter (fun i => !x.full || v < i)).length
      if used < 64 then s.link x y
      else
        let pool := (s.versions.filter (fun z => z.world == x.world && z.id != v && (x.full || z.id < v))).map (·.id)
        let s := s.modVersion v (fun z => { z with full := true, future := z.full })
        (pool ++ [u]).foldl (fun s i => s.linkIds v i) s
  | _, _ => s

/-- The pending version of a number, created at its first access (spec 15, R345 to R347; 16, R364). -/
def State.openVersion (s : State) (l : Launch) (num : Word) : Nat × State :=
  match s.version? l.world num with
  | some v => (v.id, s)
  | none =>
    let (id, s) := s.fresh
    let v : Version :=
      { id, num, world := l.world, launch := l.id, attempt := l.attempt, lctr := BitVec.ofNat 16 l.lctr, words := []
        writers := 0, up := [], full := false, future := false, state := .openV, group := id, shadow := l.shadowOf.isSome
        passedTest := false, dual := false, matched := false, injected := false }
    let watching := (s.versions.filter (fun x => x.future && x.state == VState.openV && x.world == l.world)).map (·.id)
    let s := { s with versions := s.versions ++ [v] }
    let s := l.inherits.foldl (fun s u => s.gain id u) s
    (id, watching.foldl (fun s x => s.gain x id) s)

/-- A version gains the version of a number as upstream, if that is another (spec 15, R347). -/
def State.noteFrom (s : State) (l : Launch) (num : Word) (from' : Launch) (other : Word) : State :=
  if from'.world == l.world && other == num then s
  else
    let (u, s) := s.openVersion from' other
    let (v, s) := s.openVersion l num
    s.gain v u

/-- An access by a version reads at its home a word another version supplied (spec 15, R347). -/
def State.noteRead (s : State) (l : Launch) (num : Word) (word : Nat) : State :=
  match s.supplier l word with
  | none => s
  | some u =>
    if u.world == l.world && u.num == num then s
    else
      let (v, s) := s.openVersion l num
      s.gain v u.id

/-- The version number of a flight's writes. -/
def Flight.num (f : Flight) : Word := BitVec.ofNat 32 (f.version.getD 0)

/-- A load by a version of a core notes what supplied a word: the stores of its cluster on their way, and the home for the other
bytes (spec 07, R169; 15, R347). -/
def State.noteLoad (s : State) (l : Launch) (core : Nat) (num : Word) (word : Nat) : State :=
  let from' := (List.range 4).map (fun i => (s.transit l core (word + i)).map (·.1))
  let s := (dedup (from'.filterMap (fun f => f.map (fun f => (f.launch, f.num))))).foldl (fun s x =>
    match s.launch? x.1 with | some m => s.noteFrom l num m x.2 | none => s) s
  if from'.any Option.isNone then s.noteRead l num word else s

/-- A read that a group makes once, by the versions of some of its threads (spec 05, R124; 15, R347). -/
def State.noteFor (s : State) (e : Env) (tids : List Nat) (key : Nat) (green : Bool) : State :=
  if green then (dedup (tids.map (fun t => verNum e.l (s.thread e.w.id t).sub))).foldl (fun s n => s.noteLoad e.l e.g.core n (wordOf key)) s
  else s

/-- The 64 KiB page of a world that holds a device byte, its granules spread over dies (spec 14, R321). -/
def State.greenPage (s : State) (world k : Nat) : Nat :=
  match s.world? world with
  | some w => w.unplace k / 16
  | none => 0

/-- Pending versions of a world that hold words of a page (spec 15, R346). -/
def State.versionsOn (s : State) (world page : Nat) : List Version :=
  s.versions.filter (fun v => v.world == world && v.words.any (fun w => s.greenPage world w.1 == page))

/-- A write under a number would create a fifth version of the page (spec 15, R346). -/
def State.fifth (s : State) (world : Nat) (num : Word) (k : Nat) : Bool :=
  let p := s.versionsOn world (s.greenPage world k)
  !s.dropped world num && !p.any (fun v => v.num == num) && 4 ≤ p.length

/-- Bytes of one word written under a version number by a die (spec 15, R345 to R347). -/
def State.greenWrite (s : State) (l : Launch) (num : Word) (core key size : Nat) (data : Word) : State :=
  if s.dropped l.world num then s
  else
    let word := wordOf key
    let old : Word := BitVec.ofNat 32 (s.keptNat l word true 4)
    let s := if size == 4 then s else s.noteRead l num word
    let (v, s) := s.openVersion l num
    let others := (s.versions.filter (fun x => x.id != v && (assoc word x.words).isSome)).map (·.id)
    let s := others.foldl (fun s u => s.gain v u) s
    s.modVersion v (fun x => { x with
      words := assocSet word (mergeWord old (key % 4) size data) x.words
      writers := x.writers ||| (1 <<< Config.dieOfCore core) })

/-- A test-mode corruption of the next write of a die to a word (spec 15, R356). -/
def State.inject (s : State) (die key : Nat) (data : Word) : Word × State :=
  match s.injects.find? (fun x => x.die == die && x.key == wordOf key) with
  | none => (data, s)
  | some x => (data ^^^ (x.mask >>> (8 * (key % 4))), { s with injects := s.injects.erase x })

/-- An injection is armed on the next write of a die to a word. -/
def State.armed (s : State) (die key : Nat) : Bool := s.injects.any (fun x => x.die == die && x.key == wordOf key)

/-- The version of a number holds a word an injection has corrupted: the checker flags the events that follow (spec 15, R356). -/
def State.flagVersion (s : State) (world : Nat) (num : Word) (hit : Bool) : State :=
  if hit then { s with versions := mapIf (fun v => v.world == world && v.num == num) (fun v => { v with injected := true }) s.versions } else s

/-- The home refuses the access: another chip that cannot be reached, or a die out of service (spec 09, R230; 15, R357, R358). -/
def State.refuses (s : State) (k : Nat) : Bool := s.errs k && !s.poison.contains (lineOf k)

/-- Sub-word stores of one die on their way to another die's word carry what their die has written there since (spec 07, R171). -/
def State.refill (s : State) (die key size : Nat) (data : Word) : State :=
  let put (x : Elem) : Elem :=
    if wordOf x.key == wordOf key then { x with fill := x.fill.map (fun w => mergeWord w (key % 4) size data) } else x
  { s with flights := mapIf (fun f => f.kind == .store && Config.dieOfCore f.core == die) (fun f => { f with elems := f.elems.map put }) s.flights }

/-- One element written at its home: into a version on a greenware page, nowhere for a shadow run's other writes (spec 15,
R345, R353). -/
def State.writeElem (s : State) (l : Launch) (num : Word) (core : Nat) (e : Elem) : State :=
  if keySpad ≤ e.key then (s.homePut e.key (natLe e.size e.data.toNat)).soil e.key
  else
    let hit := s.armed (Config.dieOfCore core) e.key
    let (data, s) := s.inject (Config.dieOfCore core) e.key e.data
    if e.green then (s.greenWrite l num core e.key e.size data).flagVersion l.world num hit
    else if l.shadowOf.isSome then s
    else
      let o := e.out data
      (s.homePut o.1 (natLe o.2.1 o.2.2.toNat)).refill (Config.dieOfCore core) e.key e.size data

end Sys2Proof.Machine
end

