-- ==== Sys2Proof/Machine/Check.lean ====
section
/-! DEFINITION. The conditions an access meets before it takes effect (spec 08, R192, R194; 14, R317 to R320; 07, R184; 08,
R201), and the fault, trap or wait each leads to. -/

namespace Sys2Proof.Machine

/-- What an access does to memory. -/
inductive Access where
  | read | write | atomic
  deriving DecidableEq, Repr

/-- Conditions met by one lane: trap codes with data address and malformed bit, data addresses in pages not resident with log2 of the
page, a full page, and the lines and elements of an access that meets none. -/
structure Cond where
  traps : List (Nat × Nat × Bool) := []
  pages : List (Nat × Nat) := []
  full  : Option Nat := none
  absent : Option Nat := none
  elems : List Elem := []
  deriving DecidableEq, Repr

def Cond.trap (code va : Nat) (mal : Bool := false) : Cond := { traps := [(code, va, mal)] }

def Cond.and (a b : Cond) : Cond :=
  { traps := a.traps ++ b.traps, pages := a.pages ++ b.pages, full := a.full.or b.full, absent := a.absent.or b.absent
    elems := a.elems ++ b.elems }

/-- Two ranges given by first and end meet. -/
def meets (lo hi a b : Nat) : Bool := lo < b && a < hi

/-- A locked granule meets the access (spec 07, R184): writes of a source, any access of a destination, atomics of either. -/
def RangeLock.hits (k : RangeLock) (a : Access) (lo hi : Nat) : Bool :=
  (k.dst || a != .read) && meets k.lo k.hi lo hi

/-- Global granules: 256 bytes, by virtual address, in the table of a die (spec 07, R183, R184). -/
def State.globalHit (s : State) (world die : Nat) (a : Access) (va n : Nat) : Bool :=
  s.locks.any (fun k => !k.spad && k.world == world && k.place == die && k.hits a va (va + n))

/-- The core that holds a workgroup's scratchpad. -/
def Workgroup.home (w : Workgroup) : Nat := listGet 0 w.cores 0

/-- Scratchpad granules: 64 bytes, checked in the table of the accessing thread's own core alone (spec 07, R183, R184). -/
def State.spadHit (s : State) (core : Nat) (w : Workgroup) (a : Access) (va n : Nat) : Bool :=
  w.home == core && s.locks.any (fun k => k.spad && k.place == w.id && k.hits a va (va + n))

/-- Whether an owner tag admits writes from a die stack, or through the IOD as 8 (spec 14, R317). -/
def World.admits (w : World) (otag from' : Nat) : Bool := (listGet 0x1FF w.owntab otag).getLsbD from'

/-- The translation of one region with the permissions of an access, its key if it may go on (spec 14, R317). -/
def State.permit (s : State) (place world from' va : Nat) (a : Access) : Cond × Option Trans :=
  match s.translate place world va with
  | .error (.absent bits _) => ({ pages := [(va, bits)] }, none)
  | .error .prot => (.trap 0x23 va, none)
  | .error .malformed => (.trap 0x23 va true, none)
  | .ok t =>
    let w := (s.world? world).getD World.new
    let prot : Cond := if a != .read && !pteW t.leaf.pte then .trap 0x23 va else {}
    let own : Cond := if a != .read && !w.admits (pteOtag t.leaf.pte) from' then .trap 0x22 va else {}
    let gone : Cond := if keyAbsent t.key then { absent := some t.key } else {}
    (prot.and (own.and gone), some t)

/-- Elements of `n` registers of `e` bytes from an address, whose translation each takes from its own region. -/
def State.mkElems (s : State) (place world va e : Nat) (regs : List (Nat × Word)) : List Elem :=
  match regs with
  | [] => []
  | (r, d) :: rest =>
    (match s.translate place world va with
     | .ok t => [⟨va, t.key, e, d, r, pteGreen t.leaf.pte, none⟩]
     | .error _ => []) ++ s.mkElems place world ((va + e) % 2 ^ 56) e rest

/-- The conditions of a global access of one lane (spec 08, R192, R207; 14, R319, R320; 15, R346). -/
def State.globalCond (s : State) (e : Env) (a : Access) (num : Word) (va size : Nat) (regs : List (Nat × Word)) : Cond :=
  let die := Config.dieOfCore e.g.core
  let n := size * regs.length
  let first := s.permit e.g.core e.gang.world die va a
  let last := (va + n - 1) % 2 ^ 56
  let second := if last / 65536 == va / 65536 then ({}, none) else s.permit e.g.core e.gang.world die (last / 65536 * 65536) a
  let align : Cond := if va % size != 0 then .trap 0x24 va else {}
  let lock : Cond := if s.globalHit e.gang.world die a va n then .trap 0x21 va else {}
  let c := ((first.1.and second.1).and (align.and lock))
  if !c.traps.isEmpty || !c.pages.isEmpty then c
  else
    let elems := s.mkElems e.g.core e.gang.world va size regs
    let full := if a == .read then none
      else (elems.find? (fun x => x.green && s.fifth e.gang.world num x.key)).map (fun x => s.greenPage e.gang.world x.key)
    { c with elems, full }

/-- The scratchpad space a base register names: the workgroup, unless the gang member is absent (spec 02, R48; 08, R200).
DESIGN CHOICE (assumption 65): a member workgroup that has already ended is absent too; R48 traps only an index that is not below
the gang's count. -/
def State.space (s : State) (e : Env) (gangSpace : Bool) (base : Word) : Option Workgroup :=
  if !gangSpace then s.wg? e.w.id
  else if e.l.perGang ≤ base.toNat / 2 ^ 24 % 16 then none
  else s.wgs.find? (fun w => w.gang == e.gang.id && w.index % e.l.perGang == base.toNat / 2 ^ 24 % 16)

/-- The conditions of scratchpad bytes: SPAD_RANGE, RANGE_HIT, ALIGN (spec 08, R192). -/
def State.spadCond (s : State) (e : Env) (w : Option Workgroup) (a : Access) (va n align : Nat) : Cond :=
  match w with
  | none => .trap 0x20 va
  | some w =>
    let range : Cond := if e.l.spad < va + n then .trap 0x20 va else {}
    let lock : Cond := if s.spadHit e.g.core w a va n then .trap 0x21 va else {}
    let al : Cond := if va % align != 0 then .trap 0x24 va else {}
    range.and (lock.and al)

/-- The lane conditions of one instruction: the lowest code wins, at its lowest lane (spec 03, R78; 14, R324). -/
def worst (cs : List (Nat × Cond)) : Option (Nat × Nat × Bool) :=
  (cs.flatMap (fun c => c.2.traps)).foldl (fun b t =>
    match b with
    | none => some t
    | some x => if t.1 < x.1 then some t else b) none

/-- A lane that parks for a page that is not resident, or for a fifth version. -/
def Cond.parks (c : Cond) : Bool := !c.pages.isEmpty || c.full.isSome

/-- Each page of some addresses once, with the first address in it (spec 14, R324). -/
def pageReps (ps : List (Nat × Nat)) : List (Nat × Nat) :=
  ps.foldl (fun acc p => if acc.any (fun q => q.2 == p.2 && q.1 / 2 ^ p.2 == p.1 / 2 ^ p.2) then acc else acc ++ [p]) []

/-- Records pages that are not resident, each once (spec 14, R324, R325). -/
def State.recordPages (s : State) (world : Nat) (r : FaultRec) (ps : List (Nat × Nat)) : State :=
  (pageReps ps).foldl (fun s p => s.recordPage world (decide (16 < p.2)) r p.1) s

/-- Parks the faulting lanes with their page records, or with the version they wait for (spec 02, R32; 14, R320, R324;
15, R346). -/
def State.parkLanes (s : State) (e : Env) (wr : Bool) (cs : List (Nat × Cond)) : State :=
  let bad := cs.filter (fun c => c.2.parks)
  let lanes := laneMask ((bad.filter (fun c => !c.2.pages.isEmpty)).map (·.1))
  let r := { s.record e 0x30 0 [] with lanes := lanes, wr := wr }
  let s := s.recordPages e.gang.world r (bad.flatMap (fun c => c.2.pages))
  let one (s : State) (c : Nat × Cond) : State :=
    let why : Park := if !c.2.pages.isEmpty then .pages (c.2.pages.map (·.1)) else .version (c.2.full.getD 0)
    let s := s.modThread e.w.id c.1 (fun t => { t with status := .parked why })
    if c.2.pages.isEmpty then s.modCore e.g.core (fun k => { k with versionWait := k.versionWait + 1 }) else s
  let s := bad.foldl one s
  s.keepMembers e.g.id (e.g.members.filter (fun t => !bad.any (fun c => c.1 == t)))

/-- The instruction goes on without the parked lanes. -/
def Env.without (e : Env) (tids : List Nat) : Env :=
  { e with g := { e.g with members := e.g.members.filter (fun t => !tids.contains t) } }

/-! Range locks (spec 07, R183 to R186; 14, R329). -/

/-- The entry a world takes in a table of some entries, where one is free: one of its own reservation first, else a shared one; a
reservation that was lowered gives up its entries as they free, and one that was raised takes those that free (spec 14, R329). -/
def State.takeSlot (s : State) (total world : Nat) (quota : World → Nat) (own : Nat → Nat) (shared : Nat) : Option Bool :=
  let mine := match s.world? world with | some w => quota w | none => 0
  let reserved := (s.worlds.map (fun w => max (quota w.2) (own w.1))).foldl (· + ·) 0
  let held := (s.worlds.map (fun w => own w.1)).foldl (· + ·) shared
  if total ≤ held then none else if own world < mine then some true else if shared + reserved < total then some false else none

/-- The core in whose table a workgroup's scratchpad ranges lie: none while its gang is saved (spec 07, R183; 10, R287). -/
def State.spadCore (s : State) (wg : Nat) : Option Nat :=
  match s.wg? wg with
  | none => none
  | some w => if (s.gang? w.gang).any (fun g => g.status == .saved) then none else some w.home

/-- The entry of a range's table that the world may take: of 2,048 on a base die, or of 64 on a core. -/
def State.lockSlot (s : State) (world : Nat) (spad : Bool) (place : Nat) : Option Bool :=
  if spad then
    if (s.locks.filter (fun k => k.spad && k.entry.isSome && s.spadCore k.place == s.spadCore place)).length < 64 then some false else none
  else
    let here := s.locks.filter (fun k => !k.spad && k.place == place)
    let own (w : Nat) : Nat := (here.filter (fun k => k.entry == some true && k.world == w)).length
    s.takeSlot 2048 world (fun w => w.rlquota.toNat) own (here.filter (fun k => k.entry == some false)).length

/-- The table of a range has an entry that the world may take. -/
def State.lockRoom (s : State) (world : Nat) (spad : Bool) (place : Nat) : Bool := (s.lockSlot world spad place).isSome

/-- Registers a range, rounded outward to granules; without an entry it is checked all the same (spec 07, R183, R186). -/
def State.addLock (s : State) (owner world : Nat) (spad : Bool) (place lo hi : Nat) (dst : Bool) : State :=
  if hi ≤ lo then s
  else
    let g := if spad then 64 else 256
    let k : RangeLock := ⟨owner, world, spad, place, lo / g * g, (hi + g - 1) / g * g, dst, s.lockSlot world spad place⟩
    { s with locks := s.locks ++ [k] }

/-- Releases ranges of an owner (spec 07, R185). -/
def State.unlock (s : State) (owner : Nat) (p : RangeLock → Bool) : State :=
  { s with locks := s.locks.filter (fun k => !(k.owner == owner && p k)) }

/-- Gives the ranges of an operation their entries; none if one is still wanting. -/
def State.takeEntries (s : State) (owner : Nat) : Option State :=
  let mine := s.locks.filter (fun k => k.owner == owner && k.entry.isNone)
  mine.foldl (fun (r : Option State) k =>
    match r with
    | none => none
    | some s =>
      match s.lockSlot k.world k.spad k.place with
      | some b => some { s with locks := mapIf (fun x => decide (x = k)) (fun x => { x with entry := some b }) s.locks }
      | none => none) (some s)

/-- First and end of the scratchpad bytes some segments write in a workgroup's space. -/
def spadBounds (locs : List (Loc × Nat)) (wg : Nat) : Nat × Nat :=
  locs.foldl (fun (r : Nat × Nat) x =>
    match x.1 with
    | .spad w a => if w == wg then (if r.1 == r.2 then (a, a + x.2) else (min r.1 a, max r.2 (a + x.2))) else r
    | .va _ => r) (0, 0)

/-- The slot of a ring copy: its first byte in the scratchpad, and its length (spec 01, R13; 08, R222). -/
def State.slotOf (s : State) (o : EngineOp) : Option (Nat × Nat) :=
  match o.kind with
  | .ring n seq => ((s.wg? o.wg).bind (fun w => w.rings[n]?)).map (fun r => (r.base + seq.toNat % r.depth * r.bytes, r.bytes))
  | _ => none

/-- The slots of ring copies whose hold has ended are registered, each slot whole (spec 08, R222). -/
def State.registerSlots (s : State) (wg : Nat) : State :=
  let ready := s.engines.filter (fun o => o.wg == wg && s.ringFree o && (match o.kind with | .ring .. => true | _ => false) &&
    o.stage == .queued && !s.locks.any (fun k => k.owner == o.id && k.dst))
  ready.foldl (fun s o =>
    match s.slotOf o with
    | some b => s.addLock o.id o.world true wg b.1 (b.1 + b.2) true
    | none => s) s

/-! Miss-status entries (spec 08, R194). -/

/-- Entries held by the accesses of a partition: one for each line of an instruction, whichever of its lanes wait on it. An access
marked to be issued again waits on none, nor does a poisoned one (spec 08, R193; 10, R287). -/
def State.missUsed (s : State) (core part : Nat) : Nat :=
  (dedup ((s.flights.filter (fun f => f.core == core && f.part == part && !f.reserve && !f.replay && !f.poisoned)).flatMap
    (fun f => f.lines.map (fun l => (f.batch, l))))).length

/-- Whether an instruction that needs some lines gets entries: with its own, from the reserve, or not at all. -/
inductive Miss where
  | free | reserve | reject
  deriving DecidableEq, Repr

/-- An instruction, or an access issued again, that has been rejected some times since a clock asks for some entries. -/
def State.missOf (s : State) (core part lines rejects since : Nat) : Miss :=
  if s.missUsed core part + lines ≤ 96 then .free
  else if 16 ≤ rejects && !s.flights.any (fun f => f.core == core && f.part == part && f.reserve && !f.replay && !f.poisoned) &&
      !s.groups.any (fun g => g.core == core && g.part == part && 16 ≤ g.rejects && g.rejectedAt < since) &&
      !s.flights.any (fun f => f.core == core && f.part == part && f.replay && 16 ≤ f.rejects && f.rejectedAt < since)
  then .reserve
  else .reject

def State.miss (s : State) (e : Env) (lines : Nat) : Miss := s.missOf e.g.core e.g.part lines e.g.rejects e.g.rejectedAt

/-- A rejection is counted for its partition. -/
def State.countReject (s : State) (core part : Nat) : State :=
  s.modCore core (fun k => { k with rejections := tabSet 0 part (tabGet 0 part k.rejections + 1) k.rejections })

/-- A rejection: nothing issues, the counters rise, and the group stays ready. -/
def State.reject (s : State) (e : Env) : State :=
  (s.countReject e.g.core e.g.part).modGroup e.g.id (fun g => { g with
    rejects := g.rejects + 1, rejectedAt := if g.rejects == 0 then s.clock else g.rejectedAt, held := true })

/-! The scratchpad pager (spec 14, R327, R328; 08, R201). -/

/-- A frame of a core that no page holds. -/
def State.freeFrame (s : State) (core : Nat) : Option Nat :=
  let used := (s.stt.filter (fun x => x.core == core && x.present)).map (·.frame)
  (List.range (used.length + 1)).find? (fun n => n < Config.frames core && !used.contains n)

/-- Backing lines of a world in use, and its least free line. -/
def State.freeLine (s : State) (world : Nat) : Option Nat :=
  let mine := s.stt.filter (fun x => x.backed && (match s.wg? x.wg with
    | some w => (match s.gang? w.gang with | some g => g.world == world | none => false) | none => false))
  let used := mine.map (·.bline)
  let limit := match s.world? world with | some w => w.bksize.toNat * 64 | none => 0
  (List.range (used.length + 1)).find? (fun n => n < limit && !used.contains n)

/-- A page that a range lock covers stays (spec 14, R328). -/
def State.pageLocked (s : State) (wg page : Nat) : Bool :=
  s.locks.any (fun k => k.spad && k.place == wg && meets k.lo k.hi (page * 1024) (page * 1024 + 1024))

/-- Scratchpad bytes and pages meet. -/
def Loc.onPage (wg page : Nat) : Loc × Nat → Bool
  | (.spad w a, n) => w == wg && meets a (a + n) (page * 1024) (page * 1024 + 1024)
  | (.va _, _) => false

/-- An instruction or an engine operation is using a page (spec 14, R328). -/
def State.pageInUse (s : State) (wg page : Nat) : Bool :=
  let lo := spadKey wg (page * 1024)
  s.flights.any (fun f => f.elems.any (fun x => meets x.key (x.key + x.size) lo (lo + 1024))) ||
  s.tiles.any (fun o => match o.kind with
    | .load _ k | .store _ k _ => k.any (fun x => lo ≤ x && x < lo + 1024)
    | _ => false) ||
  s.engines.any (fun o => o.stage == .running && o.segs.any (fun g => Loc.onPage wg page (g.src, g.len) || Loc.onPage wg page (g.dst, g.len)))

/-- The page to evict on a core: the least recently touched of another workgroup, else of the same, if nothing is using it
(spec 14, R328). -/
def State.victim (s : State) (core wg : Nat) : Option SttEntry :=
  let ok := s.stt.filter (fun x => x.core == core && x.present && !s.pageLocked x.wg x.page)
  let oldest (l : List SttEntry) : Option SttEntry :=
    l.foldl (fun b x => match b with | none => some x | some y => if x.used < y.used then some x else b) none
  match oldest (ok.filter (fun x => x.wg != wg)) with
  | some x => some x
  | none => oldest (ok.filter (fun x => x.wg == wg && !s.pageInUse x.wg x.page))

/-- Where a backing line of a world lies in its device memory (spec 14, R328). -/
def State.backKey (s : State) (world line : Nat) : Option Nat :=
  match s.world? world with
  | some w => w.place (w.bkbase.toNat * 65536 + line * 1024)
  | none => none

/-- Evicts a page, writing it to its backing line first where it was written since it came in; none: no line is free (spec 08,
R201; 14, R328). -/
def State.evict (s : State) (x : SttEntry) : Option State :=
  let world := s.worldOfWg x.wg
  if !x.dirty then some (s.modStt x.wg x.page (fun y => { y with present := false }))
  else
    let line := if x.backed then some x.bline else s.freeLine world
    match line.bind (fun n => (s.backKey world n).map (fun k => (n, k))) with
    | none => none
    | some (n, k) =>
      let s := s.homePut k (memBytes s.mem (spadKey x.wg (x.page * 1024)) 1024)
      some (s.modStt x.wg x.page (fun y => { y with present := false, dirty := false, backed := true, bline := n }))

/-- A page comes into a frame: from its backing line, or zeros where it has none (spec 14, R328). -/
def State.pageIn (s : State) (x : SttEntry) (frame : Nat) : State :=
  let bytes := match (if x.backed then s.backKey (s.worldOfWg x.wg) x.bline else none) with
    | some k => memBytes s.mem k 1024
    | none => List.replicate 1024 0
  (s.homePut (spadKey x.wg (x.page * 1024)) bytes).modStt x.wg x.page (fun y => { y with present := true, frame, used := s.clock })

/-- What the search for a frame answers. -/
inductive Room where
  | frame (n : Nat) (s : State)
  /-- every frame holds a page that must stay -/
  | busy
  /-- the page to go needs a backing line, and none is free -/
  | exhausted

/-- Makes a frame free on a core if it can (spec 14, R328). -/
def State.makeRoom (s : State) (core wg : Nat) : Room :=
  match s.freeFrame core with
  | some n => .frame n s
  | none => match s.victim core wg with
    | none => .busy
    | some x => match s.evict x with
      | some s => .frame x.frame s
      | none => .exhausted

/-- Entries of a core's translation table (spec 14, R327). -/
def sttEntries : Nat := 4096

/-- A core's translation table has a free entry (spec 14, R327). -/
def State.sttRoom (s : State) (core : Nat) : Bool := (s.stt.filter (fun x => x.core == core)).length < sttEntries

/-- A place no core has: what a saved gang holds is on no core. -/
def noCore : Nat := 4096

/-- What the pager answers for a page. -/
inductive Page where
  | ready (s : State)
  | wait
  | backing (page : Nat)

/-- Touches a page: a first touch takes an entry and a frame filled with zeros, a page that is out is waited for, and where no
frame can come free for want of backing the driver must supply it (spec 08, R201; 14, R327, R328). -/
def State.touchPage (s : State) (w : Workgroup) (page : Nat) (write : Bool) : Page :=
  match s.stt? w.id page with
  | some x =>
    if x.present then .ready (s.modStt w.id page (fun y => { y with used := s.clock, dirty := y.dirty || write }))
    else match s.makeRoom w.home w.id with
      | .exhausted => .backing page
      | _ => .wait
  | none =>
    if !s.sttRoom w.home then .wait
    else match s.makeRoom w.home w.id with
      | .exhausted => .backing page
      | .busy => .wait
      | .frame n s => .ready { s with stt := s.stt ++ [⟨w.home, w.wslot, w.id, page, true, false, true, write, n, 0, s.clock⟩] }

/-- Touches several pages in order. -/
def State.touchPages (s : State) (write : Bool) : List (Workgroup × Nat) → Page
  | [] => .ready s
  | (w, p) :: r => match s.touchPage w p write with
    | .ready s => s.touchPages write r
    | x => x

/-- Pages of a byte range. -/
def pagesOf (va n : Nat) : List Nat :=
  if n == 0 then [] else (List.range ((va + n - 1) / 1024 + 1 - va / 1024)).map (fun i => va / 1024 + i)

end Sys2Proof.Machine
end

