-- ==== Sys2Proof/Machine/Access.lean ====
section
/-! DEFINITION. Per-lane loads, stores and atomics, prefetch and residency requests, fences and maintenance: opcodes 0x20 to
0x27 (spec 08, R192 to R210). -/

namespace Sys2Proof.Machine

/-! Issue. -/

/-- Active threads whose guard holds, lowest lane first (spec 08, R196, R206). -/
def State.lanesAsc (s : State) (e : Env) (g : Guard) : List Nat :=
  (List.range 32).filterMap (fun L => (s.lanes e g).find? (fun t => laneOf t == L))

/-- Distinct lines of elements. -/
def linesOf (xs : List Elem) : List Nat := dedup (xs.map (fun x => lineOf x.key))

/-- What the accesses of one instruction have in common. -/
structure Form where
  kind  : Thread → FlightKind
  sx    : Bool := false
  pred  : Option Nat := none
  inLd  : Bool := false
  scope : Nat := 0
  acq   : Bool := false
  rel   : Bool := false
  spad  : Bool := false
  /-- takes no miss-status entries -/
  bare  : Bool := false
  /-- pages that a `hand` behind its flag writes (spec 07, R182) -/
  pages : List (Nat × Nat) := []

/-- A write to global memory outside greenware pages, which a repeat of the launch would duplicate (spec 15, R354). -/
def FlightKind.repeats (k : FlightKind) (spad : Bool) (elems : List Elem) : Bool :=
  !spad && (match k with | .store | .atomic .. => true | _ => false) && elems.any (fun x => !x.green)

/-- The flight of an access by some threads, one of an instruction whose first flight is `batch`, before what it waits for is
known. DESIGN CHOICE (assumption 69): an atomic without a destination register takes an entry for its line too; R194 names loads,
atomic returns and write-throughs, and its request is written through to the home as a store's is. -/
def State.bareFlight (s : State) (e : Env) (m : Form) (tids : List Nat) (elems : List Elem) (reserve : Bool) (batch : Nat) : Flight :=
  let t := s.thread e.w.id (match tids with | t :: _ => t | [] => 0)
  { id := s.nextId, wg := e.w.id, gang := e.gang.id, launch := e.l.id, part := e.g.part, tids, iaddr := s.iaddr e, kind := m.kind t, elems
    sx := m.sx, pred := m.pred, inLd := m.inLd, scope := m.scope, acq := m.acq, rel := m.rel, spad := m.spad
    core := e.g.core, world := e.gang.world, version := some (verNum e.l t.sub).toNat, otag := 0, passed := false, passOrder := 0, batch
    replay := false, poisoned := false, denied := false, taken := false, lines := if m.spad || m.bare then [] else linesOf elems, reserve
    pages := m.pages, deps := [] }

/-- The flight of an access by some threads, with the operations that it follows (spec 07, R175). -/
def State.newFlight (s : State) (e : Env) (m : Form) (tids : List Nat) (elems : List Elem) (reserve : Bool)
    (before : List (Nat × Nat)) (batch : Nat) : Flight :=
  let f := s.bareFlight e m tids elems reserve batch
  { f with deps := dedup (tids.flatMap (fun t => s.depsOf e.w.id t f.info) ++ before) }

/-- Translations of the pages of an access come into the TLBs (spec 14, R318). -/
def State.fillPages (s : State) (e : Env) (elems : List Elem) : State :=
  (dedup (elems.map (fun x => x.va / 65536))).foldl (fun s p => s.tlbFill e.g.core e.gang.world (p * 65536)) s

/-- Raises a memory counter (spec 02, R40). -/
def Thread.issued (t : Thread) (inLd : Bool) : Thread := if inLd then { t with ld := t.ld + 1 } else { t with st := t.st + 1 }

/-- Adds a flight for some threads and raises their counter (spec 02, R40). -/
def State.addFlight (s : State) (e : Env) (m : Form) (tids : List Nat) (elems : List Elem) (reserve : Bool)
    (before : List (Nat × Nat)) (batch : Nat) : State :=
  let f := s.newFlight e m tids elems reserve before batch
  let s := { s with nextId := s.nextId + 1, flights := s.flights ++ [f] }
  let s := if m.spad then s else s.fillPages e elems
  let s := if f.kind.repeats m.spad elems then s.acts e else s
  s.modThreads e.w.id tids (fun t => t.issued m.inLd)

/-- Flights of the lanes of one instruction, lowest lane first; a write follows the lower lanes that touch its bytes
(spec 08, R196, R206). -/
def State.addFlights (s : State) (e : Env) (m : Form) (reserve writes : Bool) : List (Nat × List Elem) → List (Nat × List Elem) → State
  | _, [] => s
  | done, (t, xs) :: r =>
    let ranges (l : List Elem) := l.map (fun x => (x.key, x.size))
    let before := if writes then (done.filter (fun d => rangesMeet (ranges d.2) (ranges xs))).map (fun d => (d.1, 6)) else []
    let id := s.nextId
    (s.addFlight e m [t] xs reserve before (match done with | d :: _ => d.1 | [] => id)).addFlights e m reserve writes (done ++ [(id, xs)]) r

/-- The end of an access by the threads that did not park. -/
def State.doneWithout (s : State) (e : Env) (parked : List Nat) : Out :=
  let e := e.without parked
  .next ((s.advance e).modGroup e.g.id (fun g => { g with rejects := 0, paged := false })).progress

/-- A global access of some lanes: conditions, miss-status entries, then one flight for each lane that does not park
(spec 08, R192, R194). -/
def State.globalAccess (s : State) (e : Env) (a : Access) (m : Form) (cs : List (Nat × Cond)) : Out :=
  match cs.findSome? (fun c => c.2.absent) with
  | some k => .fault (.absentDram k)
  | none =>
    match worst cs with
    | some (code, va, mal) => .next (s.takeTrap e { code, daddr := va, wr := a != .read, mal })
    | none =>
      let ok := cs.filter (fun c => !c.2.parks)
      let parked := (cs.filter (fun c => c.2.parks)).map (·.1)
      let lines := linesOf (ok.flatMap (fun c => c.2.elems))
      match s.miss e lines.length with
      | .reject => .next (s.reject e)
      | r =>
        let s := (s.addFlights e m (r == .reserve) (a != .read) [] (ok.map (fun c => (c.1, c.2.elems)))).parkLanes e (a != .read) cs
        s.doneWithout e parked

/-- The address of a global operand (spec 03, R65). -/
def Env.va (e : Env) (t : Thread) (base : BitVec 9) (idx : BitVec 8) (disp : Int) : Nat :=
  (((e.pair base : Int) + (t.v idx).toNat + disp) % 2 ^ 56).toNat

/-- The address of a scratchpad operand (spec 08, R200). -/
def Env.spadVa (e : Env) (t : Thread) (base : BitVec 9) (idx : BitVec 8) (disp : Int) : Nat :=
  ((((e.s base).toNat % 2 ^ 24 : Nat) + (t.v idx).toNat + disp : Int) % 2 ^ 24).toNat

/-- Element bytes and register count of layout M. -/
def fmSize (f : FM) : Nat := 2 ^ f.sz.toNat
def fmCount (f : FM) : Nat := 2 ^ f.cnt.toNat

/-- Registers of the access with their values (spec 08, R196). -/
def regsOf (t : Thread) (d : BitVec 8) (n : Nat) : List (Nat × Word) :=
  (List.range n).map (fun r => let x := if d = 255 then 255 else d + BitVec.ofNat 8 r; (x.toNat, t.v x))

/-- Conditions of `ld` and `st`. -/
def State.ldstConds (s : State) (e : Env) (g : Guard) (a : Access) (f : FM) : List (Nat × Cond) :=
  (s.lanesAsc e g).map (fun tid =>
    let t := s.thread e.w.id tid
    (tid, s.globalCond e a (verNum e.l t.sub) (e.va t f.base f.idx f.disp.toInt) (fmSize f) (regsOf t f.d (fmCount f))))

def execLd (g : Guard) (f : FM) (s : State) : Out :=
  issue g (.ld g f) s (fun e =>
    s.globalAccess e .read
      { kind := fun _ => .load, sx := f.sx == 1, inLd := true, scope := f.scope.toNat, acq := f.ord == 1 } (s.ldstConds e g .read f))

def execSt (g : Guard) (f : FM) (s : State) : Out :=
  issue g (.st g f) s (fun e =>
    s.globalAccess e .write { kind := fun _ => .store, scope := f.scope.toNat, rel := f.ord == 2 } (s.ldstConds e g .write f))

/-- `ldp`: where no lane traps and the entries are there, the lanes whose page is out take 0 and a cleared predicate, and the
others issue (spec 08, R194, R197; the predicate is bits [7:4], spec 03, R65). -/
def execLdp (g : Guard) (f : FM) (s : State) : Out :=
  issue g (.ldp g f) s (fun e =>
    let p := ldpPred f
    let cs := (s.lanesAsc e g).map (fun tid =>
      let t := s.thread e.w.id tid
      (tid, s.globalCond e .read 0 (e.va t f.base f.idx f.disp.toInt) (fmSize f) (regsOf t f.d 1)))
    let out := cs.filter (fun c => !c.2.pages.isEmpty)
    let rest := (cs.map (fun c => (c.1, { c.2 with pages := [] }))).filter (fun c => !out.any (fun o => o.1 == c.1) || !c.2.traps.isEmpty)
    let issues := (worst cs).isNone && s.miss e (linesOf (rest.flatMap (fun c => c.2.elems))).length != .reject
    let s := if issues then s.modThreads e.w.id (out.map (·.1)) (fun t => (t.setV f.d 0).setP p false) else s
    s.globalAccess e .read { kind := fun _ => .load, pred := some p.toNat, inLd := true } rest)

/-! Scratchpad. -/

/-- An access that the pager holds counts once (spec 08, R201; assumption 66). -/
def State.countPaged (s : State) (e : Env) (core : Nat) : State :=
  if e.g.paged then s
  else (s.modCore core (fun k => { k with spadFault := k.spadFault + 1 })).modGroup e.g.id (fun g => { g with paged := true })

/-- A scratchpad access of some lanes: conditions, the pager, then one flight for each lane (spec 08, R200, R201). Each lane
names the space and the byte ranges it touches. -/
def State.spadAccess (s : State) (e : Env) (a : Access) (m : Form) (cs : List (Nat × Cond)) (w : Option Workgroup) : Out :=
  match worst cs, w with
  | some (code, va, mal), _ => .next (s.takeTrap e { code, daddr := va, wr := a != .read, mal })
  | none, none => s.done e
  | none, some w =>
    let pages := dedup (cs.flatMap (fun c => c.2.elems.flatMap (fun x => pagesOf x.va x.size)))
    match s.touchPages (a != .read) (pages.map (fun p => (w, p))) with
    | .wait => .next ((s.countPaged e w.home).hold e)
    | .backing p =>
      let need := (cs.filter (fun c => c.2.elems.any (fun x => (pagesOf x.va x.size).contains p))).map (·.1)
      .next ((s.pushRecord e.gang.world (s.record e 0x50 (p * 1024) need)).park e need (.backing p)).progress
    | .ready s => (s.addFlights e m false (a != .read) [] (cs.map (fun c => (c.1, c.2.elems)))).doneWithout e []

/-- Elements in a scratchpad space. -/
def spadElems (wg va size : Nat) (regs : List (Nat × Word)) : List Elem :=
  match regs with
  | [] => []
  | (r, d) :: rest => ⟨va, spadKey wg va, size, d, r, false, none⟩ :: spadElems wg (va + size) size rest

/-- Conditions and elements of `lds`, `sts` and `atoms`. -/
def State.spadConds (s : State) (e : Env) (g : Guard) (a : Access) (w : Option Workgroup) (va : Thread → Nat) (size : Nat)
    (regs : Thread → List (Nat × Word)) : List (Nat × Cond) :=
  (s.lanesAsc e g).map (fun tid =>
    let t := s.thread e.w.id tid
    let rs := regs t
    let c := s.spadCond e w a (va t) (size * rs.length) size
    (tid, { c with elems := match w with | some w => spadElems w.id (va t) size rs | none => [] }))

def execLds (g : Guard) (f : FM) (s : State) : Out :=
  issue g (.lds g f) s (fun e =>
    let w := s.space e (f.scope == 1) (e.s f.base)
    s.spadAccess e .read
      { kind := fun _ => .load, sx := f.sx == 1, inLd := true, scope := f.scope.toNat, acq := f.ord == 1, spad := true }
      (s.spadConds e g .read w (fun t => e.spadVa t f.base f.idx f.disp.toInt) (fmSize f) (fun t => regsOf t f.d (fmCount f))) w)

def execSts (g : Guard) (f : FM) (s : State) : Out :=
  issue g (.sts g f) s (fun e =>
    let w := s.space e (f.scope == 1) (e.s f.base)
    s.spadAccess e .write
      { kind := fun _ => .store, scope := f.scope.toNat, rel := f.ord == 2, spad := true }
      (s.spadConds e g .write w (fun t => e.spadVa t f.base f.idx f.disp.toInt) (fmSize f) (fun t => regsOf t f.d (fmCount f))) w)

/-! Layout words (spec 03, R74 to R76). -/

/-- A layout word. -/
structure Layout where
  base : Nat
  s0 : Int
  s1 : Int
  s2 : Int
  perm : Nat
  esize : Nat
  rsv : Nat

/-- Reads the fields of a 96-bit layout word. -/
def layoutOf (x : Nat) : Layout :=
  let stride (lo : Nat) : Int := signedOf 20 (x / 2 ^ lo % 2 ^ 20)
  ⟨x % 2 ^ 24, stride 24, stride 44, stride 64, x / 2 ^ 84 % 16, x / 2 ^ 88 % 16, x / 2 ^ 92⟩

/-- The layout word in three scalar registers. -/
def Env.layoutNat (e : Env) (r : BitVec 9) : Nat :=
  (e.s r).toNat + 2 ^ 32 * (e.s (r + 1)).toNat + 2 ^ 64 * (e.s (r + 2)).toNat

/-- Reserved field zero, ESIZE and PERM legal. -/
def Layout.ok (l : Layout) : Bool := l.rsv == 0 && l.esize < 4 && l.perm < 15

/-- The unpermuted address of an element. -/
def Layout.addr (l : Layout) (x y z disp : Int) : Nat := (((l.base : Int) + disp + x * l.s0 + y * l.s1 + z * l.s2) % 2 ^ 24).toNat

/-- The bank permutation (spec 03, R76). -/
def permute (perm a : Nat) : Nat :=
  let h := match perm / 4 with | 0 => 0 | 1 => a / 128 % 32 | 2 => a / 64 % 32 | _ => a / 32 % 32
  let k := perm % 4
  let rot := (h * 2 ^ k + h / 2 ^ (5 - k)) % 32
  a / 128 * 128 + (a / 4 % 32 ^^^ rot) * 4 + a % 4

/-- Elements of one lane of `ldfrag`: `m` to a register, each with its place in the register in `data` (spec 08, R203). -/
def fragElems (wg : Nat) (l : Layout) (mode lane n : Nat) (disp : Int) (d : BitVec 8) : List Elem :=
  let e := 2 ^ l.esize
  let m := 4 / e
  (List.range (n * m)).map (fun (k : Nat) =>
    let a := permute l.perm (if mode == 0 then l.addr (k : Int) (lane : Int) 0 disp else l.addr (lane : Int) (k : Int) 0 disp)
    let r := if d = 255 then 255 else (d + BitVec.ofNat 8 (k / m)).toNat
    ⟨a, spadKey wg a, e, BitVec.ofNat 32 (k % m), r, false, none⟩)

/-- `ldfrag`: the lanes' registers are filled from a tile (spec 08, R202, R203). -/
def execLdfrag (g : Guard) (f : FM) (s : State) : Out :=
  issue g (.ldfrag g f) s (fun e =>
    let l := layoutOf (e.layoutNat f.base)
    let mode := fragMode f
    let bad := !l.ok || l.esize == 3 || (mode == 1 && l.esize != 0) || (mode == 2 && l.esize != 1)
    if (s.lanes e g).isEmpty then s.done e
    else if bad then .next (s.takeTrap e { code := 0x01 })
    else
      let cs := (s.lanesAsc e g).map (fun tid =>
        let xs := fragElems e.w.id l mode.toNat (laneOf tid) (fmCount f) f.disp.toInt f.d
        let c := xs.foldl (fun (c : Cond) x => c.and (s.spadCond e (some e.w) .read x.va x.size x.size)) {}
        (tid, { c with elems := xs }))
      s.spadAccess e .read { kind := fun _ => .frag, inLd := true, spad := true } cs (some e.w))

/-! Atomics (spec 08, R204 to R207). -/

/-- The new value of an atomic (spec 08, R205). -/
def atomNew (op : AtomOp) (ty : BitVec 2) (o b c : Word) : Word :=
  match op with
  | .add => if ty == 2 then fadd .rne false 0 o b else o + b
  | .sub => o - b
  | .min => if ty == 2 then fminmax false o b else minW' (ty == 1) o b
  | .max => if ty == 2 then fminmax true o b else maxW' (ty == 1) o b
  | .and => o &&& b
  | .or => o ||| b
  | .xor => o ^^^ b
  | .exch => b
  | .cas => if o == c then b else o
where
  minW' (u : Bool) (a b : Word) : Word := if (if u then b.ult a else b.slt a) then b else a
  maxW' (u : Bool) (a b : Word) : Word := if (if u then a.ult b else a.slt b) then b else a

/-- What the host performs as a PCIe AtomicOp (spec 08, R207). -/
def hostAtomOk (op : AtomOp) (ty : BitVec 2) : Bool :=
  match op with | .add => ty != 2 | .exch | .cas => true | _ => false

def execAtom (g : Guard) (f : FMA) (op : AtomOp) (s : State) : Out :=
  issue g (.atom g f op) s (fun e =>
    let cs := (s.lanesAsc e g).map (fun tid =>
      let t := s.thread e.w.id tid
      let va := e.va t f.base f.idx 0
      let c := s.globalCond e .atomic (verNum e.l t.sub) va 4 [(f.d.toNat, 0)]
      let host := match s.translate e.g.core e.gang.world va with | .ok x => isHost x.key | .error _ => false
      (tid, if host && !hostAtomOk op f.ty then c.and (.trap 0x23 va) else c))
    s.globalAccess e .atomic
      { kind := fun t => .atomic op f.ty (t.v f.b) (t.v f.c), scope := f.scope.toNat
        acq := f.ord.getLsbD 0, rel := f.ord.getLsbD 1 } cs)

def execAtoms (g : Guard) (f : FMA) (op : AtomOp) (s : State) : Out :=
  issue g (.atoms g f op) s (fun e =>
    let w := s.space e (f.scope == 1) (e.s f.base)
    s.spadAccess e .atomic
      { kind := fun t => .atomic op f.ty (t.v f.b) (t.v f.c), scope := f.scope.toNat
        acq := f.ord.getLsbD 0, rel := f.ord.getLsbD 1, spad := true }
      (s.spadConds e g .atomic w (fun t => e.spadVa t f.base f.idx 0) 4 (fun _ => [(f.d.toNat, 0)])) w)

/-! Prefetch and residency (spec 08, R198, R199). -/

/-- `pref`: lines that can be read and are not locked come into the caches; the level is CNT. -/
def execPref (g : Guard) (f : FM) (s : State) : Out :=
  issue g (.pref g f) s (fun e =>
    let one (s : State) (tid : Nat) : State :=
      let va := e.va (s.thread e.w.id tid) f.base f.idx f.disp.toInt
      match s.permit e.g.core e.gang.world (Config.dieOfCore e.g.core) va .read with
      | (c, some t) =>
        if !c.traps.isEmpty || c.absent.isSome || s.errs t.key ||
            s.globalHit e.gang.world (Config.dieOfCore e.g.core) .read va 1 then s
        else
          let s := (s.tlbFill e.g.core e.gang.world va).fillHost t.key
          if f.cnt == 0 then s.fillL1 e.l e.g.core t.key (pteGreen t.leaf.pte) else s
      | (_, none) => s
    ((s.lanesAsc e g).foldl one s).done e)

/-- `pgreq`: pages that are not resident are recorded, and nothing waits. -/
def execPgreq (g : Guard) (f : FM) (s : State) : Out :=
  issue g (.pgreq g f) s (fun e =>
    let cs := (s.lanesAsc e g).map (fun tid =>
      (tid, (s.permit e.g.core e.gang.world (Config.dieOfCore e.g.core) (e.va (s.thread e.w.id tid) f.base f.idx f.disp.toInt) .read).1))
    match worst cs with
    | some (code, va, mal) => .next (s.takeTrap e { code, daddr := va, mal })
    | none =>
      let s := (s.lanesAsc e g).foldl (fun t tid =>
        t.tlbFill e.g.core e.gang.world (e.va (s.thread e.w.id tid) f.base f.idx f.disp.toInt)) s
      let lanes := laneMask ((cs.filter (fun c => !c.2.pages.isEmpty)).map (·.1))
      let r := { s.record e 0x30 0 [] with lanes := lanes }
      (s.recordPages e.gang.world r (cs.flatMap (fun c => c.2.pages))).done e)

/-! Fences (spec 08, R208). -/

/-- The kinds of IMM[4:3] and the scope of IMM[2:0]. -/
def fenceAcq (f : FC) : Bool := f.imm.getLsbD 3
def fenceRel (f : FC) : Bool := f.imm.getLsbD 4
def fenceScope (f : FC) : Nat := f.imm.toNat % 8

/-- What an acquire fence waits for in one thread: the operations of its column, and every operation for both kinds. -/
def State.fenceMet (s : State) (wg tid : Nat) (f : FC) : Bool :=
  if fenceAcq f && fenceRel f then
    s.depsMet ((s.flights.filter (fun x => x.wg == wg && x.tids.contains tid)).map (fun x => (x.id, fenceScope f))) &&
    !(s.tiles.any (fun o => o.wg == wg && o.tids.contains tid))
  else s.depsMet (s.depsOf wg tid ⟨.acqF, fenceScope f, true, false, [], false, false, none⟩)

/-- Marks a release fence in a thread, dropping marks that keep nothing any more. -/
def State.markFence (s : State) (wg tid scope : Nat) : State :=
  let live (k : Fence) : Bool := s.flights.any (fun x => x.wg == wg && x.tids.contains tid && x.id < k.before) ||
    s.tiles.any (fun o => o.wg == wg && o.tids.contains tid && o.id < k.before)
  s.modThread wg tid (fun t => { t with fences := t.fences.filter live ++ [⟨s.nextId, scope⟩] })

def execFence (g : Guard) (f : FC) (s : State) : Out :=
  issue g (.fence g f) s (fun e =>
    let ts := s.lanes e g
    if fenceAcq f && !ts.all (fun t => s.fenceMet e.w.id t f) then .next (s.hold e)
    else
      let s := if fenceAcq f && !ts.isEmpty then s.acquire e.g.core (fenceScope f) else s
      let s := if fenceRel f then ts.foldl (fun s t => s.markFence e.w.id t (fenceScope f)) s else s
      s.done e)

/-! Maintenance (spec 08, R209, R210). -/

/-- Address, key and length of the resident parts of a range, by 4 KiB granule, with the conditions of the others (spec 08, R210;
14, R321). -/
def State.rangeKeys (s : State) (e : Env) (lo hi : Nat) : Cond × List (Nat × Nat × Nat) :=
  (List.range ((hi - 1) / 4096 + 1 - lo / 4096)).foldl (fun (r : Cond × List (Nat × Nat × Nat)) i =>
    let a := max lo ((lo / 4096 + i) * 4096)
    let b := min hi ((lo / 4096 + i + 1) * 4096)
    match s.permit e.g.core e.gang.world (Config.dieOfCore e.g.core) (a % 2 ^ 56) .read with
    | (c, some t) => (r.1.and c, r.2 ++ [(a % 2 ^ 56, t.key, b - a)])
    | (c, none) => (r.1.and { c with pages := [] }, r.2)) ({}, [])

/-- `hflush`, `hinv` and `cwb`: the range is widened to lines and translated, then the lines travel; completion counts in st. -/
def maintain (g : Guard) (f : FMC) (i : Instr) (s : State) (kind : List (Nat × Nat) → FlightKind) : Out :=
  groupOp g i s (fun e ts =>
    let a := e.pair f.f1 % 2 ^ 56
    let n := (e.s f.f2).toNat
    if n == 0 then s.done e
    else
      let lo := a / 128 * 128
      let hi := (a + n + 127) / 128 * 128
      let r := s.rangeKeys e lo hi
      match worst [(0, { r.1 with absent := none })] with
      | some (code, va, mal) => .next (s.takeTrap e { code, daddr := va, mal })
      | none =>
        let bytes := r.2.map (fun x => (⟨x.1, x.2.1, x.2.2, 0, 255, false, none⟩ : Elem))
        (s.addFlight e { kind := fun _ => kind (r.2.map (·.2)), bare := true } ts bytes false [] s.nextId).done e)

def execHflush (g : Guard) (f : FMC) (s : State) : Out := maintain g f (.hflush g f) s (fun rs => .flush rs false)
def execHinv (g : Guard) (f : FMC) (s : State) : Out := maintain g f (.hinv g f) s (fun rs => .flush rs true)
def execCwb (g : Guard) (f : FMC) (s : State) : Out := maintain g f (.cwb g f) s (fun rs => .clean rs)

end Sys2Proof.Machine
end

