-- ==== Sys2Proof/Machine/Perform.lean ====
section
/-! DEFINITION. Events that perform issued loads, stores and atomics: LOAD_RETURN to POISONED_REPLY, LINE_STALENESS_DROP
(spec 07, R164 to R172; 08, R193, R196, R206, R210). -/

namespace Sys2Proof.Machine

/-- The launch of a flight, a launch with nothing if it is gone. -/
def Launch.gone : Launch :=
  { id := 0, world := 0, prio := 0, addr := 0, words := [], args := [], memb := [], vl := 0, attempt := 0, status := .ended
    placed := [], ended := 0, bars := [], acted := false, inherits := [], shadowOf := none, run := 0, bad := none, cancelled := false, counted := false
    shareOn := List.range 8, sum := [] }

def State.launchOf (s : State) (f : Flight) : Launch := (s.launch? f.launch).getD Launch.gone

/-- A loaded element as its register takes it (spec 08, R196). -/
def extendElem (sx : Bool) (size x : Nat) : Word :=
  if sx && 2 ^ (8 * size - 1) ≤ x then BitVec.ofNat 32 (x + 2 ^ 32 - 2 ^ (8 * size)) else BitVec.ofNat 32 x

/-- Writes a register of the flight's threads; 255 discards. -/
def State.toReg (s : State) (f : Flight) (reg : Nat) (x : Word → Word) : State :=
  if reg < 255 then s.modLive f.wg f.tids (fun t => t.setV (BitVec.ofNat 8 reg) (x (t.v (BitVec.ofNat 8 reg)))) else s

/-- A line comes into the caches a load passes (spec 07, R162, R170). -/
def State.cacheFill (s : State) (l : Launch) (core : Nat) (x : Elem) : State :=
  if keySpad ≤ x.key then s else (s.fillHost x.key).fillL1 l core x.key x.green

/-- An acquire that reads its own word at the home: at `pkg` or wider (spec 07, R170). -/
def Flight.fresh (f : Flight) : Bool := f.acq && 3 ≤ f.scope

/-- One element of a load: its value is fixed and written to its register. An acquire at `pkg` or wider drops the lines it must,
its own among them, and reads at the home (spec 07, R164, R170; 08, R196, R203). -/
def State.loadElem (s : State) (f : Flight) (x : Elem) : State :=
  let l := s.launchOf f
  let s := if f.acq then s.acquire f.core f.scope else s
  let s := if f.fresh then s.dropOwnLine f.core x.key else s
  let s := if x.green then s.noteLoad l f.core f.num (wordOf x.key) else s
  let s := s.cacheFill l f.core x
  let v := s.loadNat l f.core x.key f.fresh x.green x.size
  match f.kind with
  | .frag => s.toReg f x.reg (fun old => mergeWord old (x.size * x.data.toNat) x.size (BitVec.ofNat 32 v))
  | _ => s.toReg f x.reg (fun _ => extendElem f.sx x.size v)

/-- The word an element lies in, as the line that a sub-word store fills gives it: the cluster's stores on their way, else the home,
under all the sub-word elements of the store itself (spec 07, R165, R171). -/
def State.filledWord (s : State) (l : Launch) (core : Nat) (xs : List Elem) (word : Nat) : Word :=
  let byte (i : Nat) : Byte := match s.transit l core (word + i) with | some y => y.2 | none => s.homeByte (word + i)
  (xs.filter (fun x => wordOf x.key == word && x.size < 4)).foldl (fun w x => mergeWord w (x.key % 4) x.size x.data)
    (BitVec.ofNat 32 (leNat ((List.range 4).map byte)))

/-- A store to another die's line passes the cluster crossbar: a sub-word element carries the whole word of the filled line
(spec 07, R169, R171). -/
def State.widen (s : State) (l : Launch) (core : Nat) (xs : List Elem) (x : Elem) : Elem :=
  if isDevice x.key && untracked core x.key && x.size < 4 && !x.green then
    { x with fill := some (s.filledWord l core xs (wordOf x.key)) }
  else x

/-- Bytes put into a line from a key. -/
def putLine (bytes : List Byte) (key size : Nat) (data : Word) : List Byte :=
  (List.range size).foldl (fun b i => listPut 0 b ((key + i) % 128) (data.extractLsb' (8 * i) 8)) bytes

/-- A store passes the crossbar: other L1s of the cluster drop the line, the issuer's own copy takes the bytes, of a sub-word store the
whole word it leaves (spec 07, R165, R169, R171, R172). -/
def State.passElem (s : State) (l : Launch) (core : Nat) (xs : List Elem) (x : Elem) : State :=
  let own := s.l1Owner core
  let sub := untracked core x.key && x.size < 4
  let o := if sub then (wordOf x.key, 4, s.filledWord l core xs (wordOf x.key)) else (x.key, x.size, x.data)
  let s := if sub then s.fillL1 l core x.key x.green else s
  let kept := s.l1.filter (fun y => !(y.line == lineOf x.key && clusterOf y.owner == clusterOf core && y.owner != own))
  let put (y : L1Line) : L1Line :=
    if y.owner == own && y.line == lineOf x.key then { y with bytes := putLine y.bytes o.1 o.2.1 o.2.2 } else y
  { s with l1 := kept.map put }

/-- A store passes the crossbar with all its elements, after those that passed before it (spec 07, R165, R169). -/
def State.passStore (s : State) (f : Flight) : State :=
  if f.passed || f.spad then s
  else
    let l := s.launchOf f
    let xs := f.elems.map (s.widen l f.core f.elems)
    let s := xs.foldl (fun s x => if x.green || l.shadowOf.isSome then s else s.passElem l f.core f.elems x) s
    { s with nextId := s.nextId + 1 }.modFlight f.id (fun f => { f with passed := true, passOrder := s.nextId, elems := xs })

/-- A store of the cluster that passed before, or that has passed where the access has not, is still on its way to a common word:
it reaches the home first (spec 07, R165). -/
def State.passedBefore (s : State) (f : Flight) (xs : List Elem) : Bool :=
  !f.spad && s.flights.any (fun y => y.onWay f.core && y.id != f.id && (!f.passed || y.passOrder < f.passOrder) &&
    y.elems.any (fun a => xs.any (fun b => wordOf a.key == wordOf b.key)))

/-- Two writes of one word that cannot both be on their way past different crossbars: one of them leaves bytes of the word to the
other, so that the clusters would see words that are in no one order (spec 07, R165). Sub-word stores of two dies are outside the
promise (R161, R171). -/
def subClash (core core' : Nat) (a b : Elem) : Bool :=
  wordOf a.key == wordOf b.key && (a.size < 4 || b.size < 4) &&
  !(a.size < 4 && b.size < 4 && Config.dieOfCore core != Config.dieOfCore core')

/-- An access that has not passed meets such a store of another cluster on its way (spec 07, R165). -/
def State.subBlocked (s : State) (f : Flight) (xs : List Elem) : Bool :=
  !f.spad && !f.passed && s.flights.any (fun y => y.onWay y.core && clusterOf y.core != clusterOf f.core &&
    y.elems.any (fun a => xs.any (subClash y.core f.core a)))

/-- A write made at the home itself, by an engine or a tile operation of a core, would overtake a store on its way to the word: one of
its own cluster, which its cluster has seen, or a sub-word one of another, which leaves bytes of the word to it (spec 07, R165). -/
def State.wordBusy (s : State) (core key : Nat) : Bool :=
  s.flights.any (fun y => y.elems.any (fun a => wordOf a.key == wordOf key) &&
    (y.onWay core || (y.onWay y.core && y.elems.any (fun a => wordOf a.key == wordOf key && a.size < 4))))

/-- A write of the host or of a peer chip at the home would leave bytes of a word to a sub-word store on its way there, which its cluster
has seen: it waits for the store (spec 07, R165). -/
def State.wordHeld (s : State) (key : Nat) : Bool :=
  s.flights.any (fun y => y.onWay y.core && y.elems.any (fun a => wordOf a.key == wordOf key && a.size < 4))

/-- The same for any word of a line. -/
def State.lineBusy (s : State) (core key : Nat) : Bool := (List.range 32).any (fun i => s.wordBusy core (lineOf key * 128 + 4 * i))

/-- One element of a store reaches its home. -/
def State.storeElem (s : State) (f : Flight) (x : Elem) : State :=
  s.writeElem (s.launchOf f) f.num f.core x

/-- An atomic at its home: the new value is stored and the old one answered; the cluster's L1s drop the line (spec 07, R165; 08,
R205 to R207). In host memory it is the host's AtomicOp. -/
def State.atomElem (s : State) (f : Flight) (op : AtomOp) (ty : BitVec 2) (b c : Word) (x : Elem) : State :=
  let l := s.launchOf f
  let s := if f.acq then s.acquire f.core f.scope else s
  let s := s.dropLine f.core x.key
  let s := if x.green then s.noteRead l f.num (wordOf x.key) else s
  let old : Word := BitVec.ofNat 32 (if isHost x.key then s.hostWord x.key else s.keptNat l x.key x.green 4)
  let new := atomNew op ty old b c
  let s :=
    if isHost x.key then (if l.shadowOf.isSome then s else s.putHostWord x.key new.toNat)
    else s.writeElem l f.num f.core { x with data := new, size := 4 }
  s.toReg f x.reg (fun _ => old)

/-- The count an operation holds falls (spec 02, R40). -/
def State.lower (s : State) (f : Flight) : State :=
  s.modLive f.wg f.tids (fun t => if f.inLd then { t with ld := t.ld - 1 } else { t with st := t.st - 1 })

/-- A flight that has performed is gone, and its count has fallen. -/
def State.land (s : State) (f : Flight) : State :=
  let s := match f.pred with
    | some p => s.modLive f.wg f.tids (fun t => t.setP (BitVec.ofNat 4 p) true)
    | none => s
  { s.lower f with flights := s.flights.filter (fun x => !(x.id == f.id)) }

/-- Takes elements out of a flight; the last one ends it. -/
def State.landElem (s : State) (f : Flight) (n : Nat) : State :=
  match s.flight? f.id with
  | none => s
  | some g =>
    let rest := g.elems.eraseIdx n
    if rest.isEmpty then s.land g else s.modFlight g.id (fun g => { g with elems := rest })

/-- The elements an event performs: all, or one. -/
def Flight.chosen (f : Flight) : Option Nat → Option (List Elem)
  | none => some f.elems
  | some n => match f.elems[n]? with | some x => some [x] | none => none

/-- The home answers the access with an error: a store is refused only where its home takes nothing, and any access outside the
world's region (spec 08, R193; 09, R230; 14, R322). -/
def State.errorFor (s : State) (f : Flight) (x : Elem) : Bool :=
  s.outside f.world x.key || (match f.kind with | .store => s.refuses x.key | _ => s.errs x.key)

/-- What can answer an element with PROT: a peer chip that refuses the request, or a home outside whose region it lies (spec 09, R230,
R234; 14, R322); with POISON: a peer that is fenced or that the request is not sent to, or an error at the home. A request that no link
carries yet has no answer (spec 14, R333). -/
def State.mayRefuse (s : State) (f : Flight) (prot : Bool) (x : Elem) : Bool :=
  (isPeer x.key && !s.errs x.key && !s.uncrossed x.key) ||
  (if prot then s.outside f.world x.key else s.errorFor f x && !s.outside f.world x.key)

/-- A load's bytes lie in the L1 that its core uses (spec 07, R162, R170). -/
def State.l1Hit (s : State) (f : Flight) (x : Elem) : Bool :=
  f.kind.isLoad && !f.fresh && !x.green &&
  s.l1.any (fun y => y.owner == s.l1Owner f.core && y.line == lineOf x.key && s.clock < y.clock + 4096)

/-- An element reaches its home: another chip over a link that has a slot for the reply, unless an L1 answers (spec 09, R229, R235; 14,
R333). -/
def State.carried (s : State) (f : Flight) (x : Elem) : Bool := !s.uncrossed x.key || s.l1Hit f x

/-- An access may perform: nothing kept before it is still to come, it is neither poisoned nor marked for replay, its scratchpad
pages are in, a link carries what goes to another chip, and no store of the cluster is ahead of it on the way to its words. -/
def State.mayPerform (s : State) (f : Flight) (xs : List Elem) : Bool :=
  !f.poisoned && !f.replay && s.depsMet f.deps && !xs.any (s.errorFor f) &&
  xs.all (fun x => s.spadHere x.key x.size && s.carried f x) &&
  (f.kind.isLoad || (!s.passedBefore f xs && !s.subBlocked f xs))

/-- `LOAD_RETURN` of all elements or of one. -/
def execLoadReturn (fl : Nat) (elem : Option Nat) (s : State) : Out :=
  match s.flight? fl with
  | none => .refused .notEnabled
  | some f => match f.chosen elem with
    | none => .refused .notEnabled
    | some xs =>
      let t := xs.foldl (fun s x => s.loadElem f x) s
      event (f.kind.isLoad && s.mayPerform f xs) (match elem with | some n => t.landElem f n | none => t.land f)

/-- The front end has read past the slot of a submitted packet (spec 10, R299). -/
def State.submitted (s : State) (f : Flight) : Bool :=
  match f.kind with
  | .submit world prio index => (match s.world? world with
    | some w => let q := listGet Queue.new w.queues prio; (q.qtail - q.qhead).toNat ≤ (index - q.qhead).toNat
    | none => true)
  | _ => true

/-- A store under a number whose page is full waits, and a `launch` for the front end (spec 15, R346). -/
def State.roomFor (s : State) (f : Flight) (xs : List Elem) : Bool := s.submitted f && !xs.any (fun x => x.green && s.fifth f.world f.num x.key)

/-- What a store, an atomic without a register or a maintenance instruction does at its home. -/
def State.homeEffect (s : State) (f : Flight) (xs : List Elem) : State :=
  match f.kind with
  | .store => xs.foldl (fun s x => s.storeElem f x) s
  | .atomic op ty b c => xs.foldl (fun s x => s.atomElem f op ty b c x) s
  | .flush ranges inv => s.flushLines ((s.iod.hostLines.map (·.line)).filter (inRanges ranges)) inv
  | .clean ranges => { s with llcDirty := s.llcDirty.filter (fun x => !inRanges ranges x) }
  | _ => s

/-- An atomic that writes a register. -/
def Flight.returns (f : Flight) : Bool :=
  match f.kind with | .atomic .. => f.elems.any (fun x => x.reg < 255) | _ => false

/-- `STORE_PERFORMED`: past the crossbar, or at the home, whole or one element (spec 07, R164). -/
def execStorePerformed (fl : Nat) (home : Bool) (elem : Option Nat) (s : State) : Out :=
  match s.flight? fl with
  | none => .refused .notEnabled
  | some f =>
    if !home then event (f.kind == .store && !f.passed && !f.spad && !f.poisoned && s.depsMet f.deps && !s.subBlocked f f.elems) (s.passStore f)
    else
      let s1 := if f.kind == .store then s.passStore f else s
      match s1.flight? fl with
      | none => .refused .notEnabled
      | some f1 => match f1.chosen elem with
        | none => .refused .notEnabled
        | some xs =>
          let data := match f.kind with | .store | .atomic .. => true | _ => false
          let ok := !f.kind.isLoad && !f.returns && s.roomFor f1 xs && (elem.isNone || f.kind == .store) &&
            (if data then s.mayPerform f1 xs else !f.poisoned && s.depsMet f.deps)
          let t := s1.homeEffect f1 xs
          event ok (match elem with | some n => t.landElem f1 n | none => t.land f1)

/-- `ATOMIC_REPLY`: the old value arrives in the register. -/
def execAtomicReply (fl : Nat) (s : State) : Out :=
  match s.flight? fl with
  | none => .refused .notEnabled
  | some f => event (f.returns && s.mayPerform f f.elems && s.roomFor f f.elems) ((s.homeEffect f f.elems).land f)

/-- `POISONED_REPLY`: the destination is not written, the count falls and POISON is pending, or PROT where the request was refused
(spec 08, R193; 09, R230, R234). -/
def execPoisonedReply (r : ErrorReply) (s : State) : Out :=
  match s.flight? r.flight with
  | none => .refused .notEnabled
  | some f =>
    let data := match f.kind with | .load | .frag | .store | .atomic .. => true | _ => false
    event (data && !f.poisoned && !f.replay && s.depsMet f.deps && f.elems.any (s.mayRefuse f r.prot))
      ((f.elems.foldl (fun s x => s.dropLine f.core x.key) (s.lower f)).modFlight r.flight
        (fun f => { f with poisoned := true, denied := r.prot }))

/-- `LINE_STALENESS_DROP`: an L1 may drop a line it filled from elsewhere, and must after 4,096 clocks (spec 07, R170). -/
def execLineStalenessDrop (line : Nat) (s : State) : Out :=
  event (s.l1.any (fun x => x.id == line)) { s with l1 := s.l1.filter (fun x => !(x.id == line)) }

end Sys2Proof.Machine
end

