-- ==== Sys2Proof/Machine/Matrix.lean ====
section
/-! DEFINITION. The matrix engine: opcodes 0x30 and 0x31, MATRIX_STEP_PERFORMED and TILE_TRANSFER_PERFORMED (spec 06;
04, R98 to R101). -/

namespace Sys2Proof.Machine

/-! Tiles and convergence registers. -/

/-- An accumulator element. -/
def Workgroup.elem (w : Workgroup) (tile i j : Nat) : Word := tabGet 0 (tile * 1024 + i * 32 + j) w.acc

def setElem (acc : Tab Word) (tile i j : Nat) (x : Word) : Tab Word := tabSet 0 (tile * 1024 + i * 32 + j) x acc

/-- Tiles from one upward. -/
def tilesFrom (d n : Nat) : List Nat := (List.range n).map (fun i => d + i)

/-- Row-block and column-block of a sub-array (spec 06, R131); the independent mode has its own. -/
def blocksOf (mode q : Nat) : Nat × Nat :=
  match mode with | 0 => (q, q) | 1 => (0, q) | 2 => (q / 2, q % 2) | _ => (q, 0)

def Workgroup.cv (w : Workgroup) (n : Nat) : Cv := listGet ⟨0, 0, none, []⟩ w.cvs n

def State.setCv (s : State) (wg n : Nat) (c : Cv) : State := s.modWg wg (fun w => { w with cvs := listPut ⟨0, 0, none, []⟩ w.cvs n c })

/-- The count codes of `cvset` (spec 06, R149). -/
def cvCount (f : FT) : Nat := match f.cl.toNat % 4 with | 0 => 32 | 1 => 64 | 2 => 128 | _ => 96

/-- `cvset` (spec 06, R140, R150). -/
def execCvset (g : Guard) (f : FT) (s : State) : Out :=
  groupOp g (.cvset g f) s (fun e _ =>
    let n := f.a.toNat % 16
    let c := e.w.cv n
    let count := cvCount f
    let first := f.b.toNat
    if 32 * e.w.groups < first * 32 + count then .next (s.takeTrap e { code := 0x12 })
    else if c.count == count && c.first == first then s.done e
    else if !c.sigs.isEmpty then .next (s.takeTrap e { code := 0x12 })
    else (s.setCv e.w.id n ⟨count, first, none, []⟩).done e)

/-! Signing (spec 06, R135 to R139). -/

/-- Slots of A and B, of the launch (spec 06, R151). -/
def slotA (l : Launch) (f : CvFields) : Code := l.slot f.slot.toNat
def slotB (l : Launch) (f : CvFields) : Code := l.slot (if f.cl.getLsbD 3 then f.cl.toNat % 8 else f.slot.toNat)

/-- The pair may meet in a step (spec 06, R132; 04, R90). -/
def pairOk (a b : Code) : Bool :=
  let fa := slotFmt a
  let fb := slotFmt b
  let cls (x : Nat) : Nat := match x with | 5 | 6 => 1 | 7 | 8 => 2 | 2 | 3 => 3 | 9 => 4 | _ => 0
  cls fa != 0 && cls fa == cls fb && !(slotScale a == 2 && slotScale b == 2)

/-- The slots serve the instruction (spec 04, R92; 06, R132, R153). -/
def slotsServe (l : Launch) (f : CvFields) : Bool :=
  let a := slotA l f
  let b := slotB l f
  slotOk a && slotOk b && pairOk a b &&
  (!f.mmac || (slotScale a == 0 && slotFmt a != 9 && !(f.cl.getLsbD 4 && stepK (slotFmt a) == 32)))

/-- The recorded fields of a signing (spec 06, R136). -/
def cvFields (mmac : Bool) (f : FT) : CvFields :=
  ⟨mmac, f.mode, f.d, f.slot, f.cl, if mmac then f.b else 0⟩

/-- Sub-arrays of a round. -/
def subArrays (mode : BitVec 2) (count : Nat) : Nat := if mode == 0 then count / 32 else 4

/-- Source tiles of `mmac` (spec 06, R153). -/
def sourceTiles (f : CvFields) (count : Nat) : List Nat :=
  if f.mmac then dedup ((List.range (subArrays f.mode count)).map (fun q =>
    f.src.toNat % 16 + (blocksOf f.mode.toNat q).1 * (if f.cl.getLsbD 5 then 2 else 1)))
  else []

/-- Destination tiles (spec 06, R152). -/
def destTiles (f : CvFields) (count : Nat) : List Nat := tilesFrom (f.d.toNat % 16) (subArrays f.mode count)

/-- The rank of a thread in a signing set; none outside it. -/
def Cv.rank (c : Cv) (tid : Nat) : Option Nat :=
  if c.first * 32 ≤ tid && tid < c.first * 32 + c.count then some (tid - c.first * 32) else none

/-- The first rule of R136 that traps for a thread. -/
def cvOver (c : Cv) (f : CvFields) (tid : Nat) : Bool :=
  c.count == 0 || (c.rank tid).isNone || (f.mode != 0 && c.count != 128) ||
  (match c.fields with | some x => x != f | none => false)

/-- A thread that has signed the open round. -/
def Cv.signed (c : Cv) (tid : Nat) : Bool := c.sigs.any (fun x => x.tid == tid)

/-- Every rank with a thread has signed; absent ranks count as signed (spec 06, R138). -/
def Cv.full (c : Cv) (threads : Nat) : Bool :=
  c.count != 0 && (List.range c.count).all (fun r => threads ≤ c.first * 32 + r || c.sigs.any (fun x => x.rank == r))

/-- Fragment words of a thread. -/
def Thread.frag (t : Thread) (r : BitVec 8) (n : Nat) : List Word := (List.range n).map (fun j => t.v (r + BitVec.ofNat 8 j))

/-- Entry bytes and entries per row of a scaled slot (spec 06, R144). -/
def scaleUnit (x : Code) : Nat := if slotScale x == 2 then 4 else 2
def scaleRow (x : Code) : Nat := stepK (slotFmt x) / 32
def slotSbase (x : Code) : BitVec 9 := x.extractLsb' 24 9

/-- The scale address of each sub-array for A and B, by its home group's register. -/
def scaleBases (l : Launch) (w : Workgroup) (f : CvFields) (count first : Nat) : List (Nat × Nat) :=
  (List.range (subArrays f.mode count)).map (fun q =>
    ((w.s (first + q) (slotSbase (slotA l f))).toNat % 2 ^ 24, (w.s (first + q) (slotSbase (slotB l f))).toNat % 2 ^ 24))

/-- Conditions of the scale entries, ALIGN and SPAD_RANGE, with the address of the first entry that meets one (spec 06, R144; 14,
R324). -/
def scaleTrap (l : Launch) (x : Code) (base : Nat) : Option (Nat × Nat) :=
  if slotScale x == 0 then none
  else if l.spad < base + scaleUnit x * 32 * scaleRow x then some (0x20, base + scaleUnit x * ((l.spad - base) / scaleUnit x))
  else if base % scaleUnit x != 0 then some (0x24, base)
  else none

/-- A request for power leave of a die's governor (spec 10, R285; 18, R374). -/
def State.askLeave (s : State) (die op cost : Nat) (tile : Bool) : State :=
  s.modDie die (fun d => { d with leaves := d.leaves ++ [⟨cost, tile, op, s.clock⟩] })

/-- Issues a tile operation: it waits for what the matrices keep before it, and counts in tl. -/
def State.addTile (s : State) (e : Env) (tids : List Nat) (kind : TileKind) (mode : BitVec 2) (reads writes : List Nat)
    (leave : Bool) (core : Nat) : State :=
  let (id, s) := s.fresh
  let o : TileOp :=
    { id, wg := e.w.id, tids, active := e.g.members, iaddr := s.iaddr e, kind, mode, reads, writes, leave, issuedAt := s.clock, core
      poisoned := false, deps := [], sub := (s.thread e.w.id e.g.leader).sub }
  let deps := dedup (tids.flatMap (fun t => s.depsOf e.w.id t o.info))
  let s := { s with tiles := s.tiles ++ [{ o with deps }] }
  if leave then s.askLeave (Config.dieOfCore core) id 1 true else s

def State.countTl (s : State) (e : Env) (tids : List Nat) : State :=
  s.modThreads e.w.id tids (fun t => { t with tl := t.tl + 1 })

/-- The lowest trap a signing of a drawn group meets, with its data address: its tiles and its slots are checked whatever the guards
(spec 04, R92; 06, R136, R143, R144, R152, R153; 14, R324). -/
def signTrap (e : Env) (signers : List Nat) (c : Cv) (f : CvFields) : Option (Nat × Nat) :=
  if (destTiles f c.count ++ sourceTiles f c.count).any (fun t => e.l.acc ≤ t) then some (0x04, 0)
  else if !slotsServe e.l f then some (0x10, 0)
  else if signers.isEmpty then none
  else if signers.any (cvOver c f) then some (0x12, 0)
  else
    let new := signers.filter (fun t => !c.signed t)
    let c' : Cv := { c with sigs := c.sigs ++ new.map (fun t => ⟨(c.rank t).getD 0, t, [], []⟩) }
    if !c'.full e.w.threads then none
    else
      let bases := scaleBases e.l e.w f c.count c.first
      let codes := bases.flatMap (fun b =>
        (if f.mmac then [] else (scaleTrap e.l (slotA e.l f) b.1).toList) ++ (scaleTrap e.l (slotB e.l f) b.2).toList)
      codes.foldl (fun b x => match b with | none => some x | some y => if x.1 < y.1 then some x else b) none

/-- A signing instruction: a reform point, then the signatures of the group drawn; the last one issues the operation. -/
def signOp (g : Guard) (f : FT) (mmac : Bool) (i : Instr) (s : State) : Out :=
  issue g i s (fun e =>
    if !e.g.drawn then .next (s.fileHere e).progress
    else
      let n := f.a.toNat % 16
      let c := e.w.cv n
      let x := cvFields mmac f
      let signers := s.lanes e g
      match signTrap e signers c x with
      | some (code, daddr) => .next (s.takeTrap e { code, daddr })
      | none =>
        let new := signers.filter (fun t => !c.signed t)
        let stay := signers.filter c.signed
        let ka := if mmac then 0 else fragRegs (slotFmt (slotA e.l x))
        let kb := fragRegs (slotFmt (slotB e.l x))
        let sigs := new.map (fun t =>
          (⟨(c.rank t).getD 0, t, (s.thread e.w.id t).frag f.b ka, (s.thread e.w.id t).frag f.c kb⟩ : CvSig))
        let c' : Cv := { c with fields := if signers.isEmpty then c.fields else some x, sigs := c.sigs ++ sigs }
        let s := s.countTl e new
        let pc := s.iaddr e
        let s :=
          if !signers.isEmpty && c'.full e.w.threads then
            let s := s.setCv e.w.id n ⟨c.count, c.first, none, []⟩
            s.addTile e (c'.sigs.map (·.tid))
              (.step x c.count c.first c'.sigs (scaleBases e.l e.w x c.count c.first)) f.mode
              (destTiles x c.count ++ sourceTiles x c.count) (destTiles x c.count) (c.count == 128) e.w.home
          else s.setCv e.w.id n c'
        let s := s.fileFrom e pc stay
        (s.doneDrawn (e.without stay)))

def execMma (g : Guard) (f : FT) (s : State) : Out := signOp g f false (.mma g f) s
def execMmac (g : Guard) (f : FT) (s : State) : Out := signOp g f true (.mmac g f) s

/-! One step (spec 06, R142, R146, R154). -/

/-- Element k of a fragment (spec 06, R142; 04, R88). -/
def fragElem (fmt : Nat) (frag : List Word) (k : Nat) : Nat :=
  let w := fmtBits fmt
  if fmt == 9 then
    let unit := (List.range 3).foldl (fun x j => x + (listGet 0 frag (3 * (k / 16) + j)).toNat * 2 ^ (32 * j)) 0
    unit / 2 ^ (6 * (k % 16)) % 64
  else
    let per := 32 / w
    (listGet 0 frag (k / per)).toNat / 2 ^ (w * (k % per)) % 2 ^ w

/-- A scale entry: its E8M2 scale and zero point (spec 04, R89, R90; 06, R144). -/
def State.scaleEntry (s : State) (wg : Nat) (x : Code) (base i b : Nat) : Num × Int :=
  let u := scaleUnit x
  let v := memNat s.mem (spadKey wg (base + u * (i * scaleRow x + b))) u
  if slotScale x == 0 then (.fin false 1 0, 0)
  else (e8m2 v, if slotScale x == 2 then intDecode (slotFmt x) (v / 2 ^ 16 % 256) else 0)

/-- Sums without a window, for one block (spec 04, R98). DESIGN CHOICE (assumption 65): a sum that is zero is -0 only where every
addend is -0, as in an addition; R98 gives a block sum's value and no sign of its zero. -/
def numSum : List Num → Num
  | [] => .fin false 0 0
  | x :: r => r.foldl Num.add x

/-- The terms of a block of 32 products when either operand is scaled (spec 04, R87, R90, R98). -/
def blockTerm (fmtA fmtB : Nat) (a b : List Nat) (sa sb : Num × Int) : Num :=
  let sum : Num :=
    if fmtA == 9 then numSum ((a.zip b).map (fun p => l6Mul p.1 p.2))
    else if fmtA < 4 then
      numOfInt (((a.zip b).map (fun p => (intDecode fmtA p.1 - sa.2) * (intDecode fmtB p.2 - sb.2))).foldl (· + ·) 0)
    else numSum ((a.zip b).map (fun p => (fmtDecode fmtA p.1).mul (fmtDecode fmtB p.2)))
  (sum.mul sa.1).mul sb.1

/-- A block of a list. -/
def blockAt (l : List Nat) (b : Nat) : List Nat := (l.drop (32 * b)).take 32

/-- One element of a step: a and b are row and column, `c` the element before (spec 06, R146). -/
def stepElem (xa xb : Code) (a b : List Nat) (sa sb : Nat → Num × Int) (c : Word) : Word :=
  let fa := slotFmt xa
  let fb := slotFmt xb
  let scaled := slotScale xa != 0 || slotScale xb != 0
  if fa < 4 && !scaled then
    intCombine c (((a.zip b).map (fun p => intDecode fa p.1 * intDecode fb p.2)).foldl (· + ·) 0) (slotSat xa)
  else
    let terms :=
      if scaled || fa == 9 then
        (List.range (stepK fa / 32)).map (fun k => blockTerm fa fb (blockAt a k) (blockAt b k) (sa k) (sb k))
      else (a.zip b).map (fun p => (fmtDecode fa p.1).mul (fmtDecode fb p.2))
    mmCombine terms (f32 c)

/-- The fragment of a rank; an absent rank's bits are zero (spec 06, R138). -/
def sigOf (sigs : List CvSig) (rank : Nat) : CvSig := (sigs.find? (fun x => x.rank == rank)).getD ⟨rank, 0, [], []⟩

/-- Row i of A for a sub-array: the signed fragment, or the down-converted source tile (spec 06, R153, R154). -/
def aRow (s : State) (w : Workgroup) (l : Launch) (f : CvFields) (sigs : List CvSig) (q i : Nat) : List Nat :=
  let xa := slotA l f
  let fa := slotFmt xa
  let k := stepK fa
  if f.mmac then
    let src := f.src.toNat % 16 + (blocksOf f.mode.toNat q).1 * (if f.cl.getLsbD 5 then 2 else 1)
    let col := if f.cl.getLsbD 4 then 16 else 0
    (List.range k).map (fun n =>
      convert 4 fa (slotRnd xa) (slotSat xa) (Config.rand16 (s.draws + q * 1024 + i * 32 + n)) (w.elem src i (col + n)).toNat)
  else (List.range k).map (fragElem fa (sigOf sigs (32 * q + i)).a)

/-- The accumulator store after a step. -/
def State.stepAcc (s : State) (w : Workgroup) (l : Launch) (f : CvFields) (count : Nat) (sigs : List CvSig)
    (bases : List (Nat × Nat)) : Tab Word :=
  let xa := slotA l f
  let xb := slotB l f
  let fb := slotFmt xb
  (List.range (subArrays f.mode count)).foldl (fun acc q =>
    let base := listGet (0, 0) bases q
    let cols := (List.range 32).map (fun j => (List.range (stepK fb)).map (fragElem fb (sigOf sigs (32 * q + j)).b))
    (List.range 32).foldl (fun acc i =>
      let row := aRow s w l f sigs q i
      (List.range 32).foldl (fun acc j =>
        let t := f.d.toNat % 16 + q
        setElem acc t i j
          (stepElem xa xb row (listGet [] cols j) (s.scaleEntry w.id xa base.1 i) (s.scaleEntry w.id xb base.2 j) (w.elem t i j)))
        acc) acc) w.acc

/-! `accz`, `accld`, `accst` and `mproj` (spec 06, R155 to R160). -/

/-- Earlier operations that write some tiles have performed (spec 06, R147). -/
def State.tilesWritten (s : State) (wg : Nat) (ts : List Nat) : Bool :=
  !s.tiles.any (fun o => o.wg == wg && o.writes.any ts.contains)

def execAccz (g : Guard) (f : FT) (s : State) : Out :=
  groupOp g (.accz g f) s (fun e ts =>
    let d := tilesFrom (f.d.toNat % 16) (shapeTiles f.mode)
    ((s.addTile e ts .zero f.mode [] d false e.w.home).countTl e ts).done e)

/-- Width in words of a shape (spec 06, R157). -/
def shapeWidth (m : Nat) : Nat := match m with | 0 => 32 | 1 => 128 | 2 => 64 | _ => 32

/-- Tile, row and column of word n of a shape (spec 06, R131, R157). -/
def shapeAt (m d n : Nat) : Nat × Nat × Nat :=
  let w := shapeWidth m
  let i := n / w
  let j := n % w
  let q := match m with | 0 => 0 | 1 => j / 32 | 2 => 2 * (i / 32) + j / 32 | _ => i / 32
  (d + q, i % 32, j % 32)

/-- Address, extent words and conditions of a tile transfer (spec 06, R157, R158). -/
def State.tileConds (s : State) (e : Env) (f : FTM) (a : Access) (num : Word) : Nat × Option Workgroup × Cond :=
  let t := s.thread e.w.id e.g.leader
  let n := 4096 * shapeTiles (f.cl.extractLsb' 0 2)
  if f.space == 0 then
    let va := e.va t f.base f.idx f.disp.toInt
    let align : Cond := if va % 128 != 0 then .trap 0x24 va else {}
    let pages := (List.range ((va + n - 1) / 65536 + 1 - va / 65536)).map (fun i =>
      (s.permit e.g.core e.gang.world (Config.dieOfCore e.g.core) (max va ((va / 65536 + i) * 65536)) a).1)
    let c := pages.foldl Cond.and align
    if !c.traps.isEmpty || !c.pages.isEmpty then (va, none, c)
    else
      let elems := s.mkElems e.g.core e.gang.world va 4 (List.replicate (n / 4) (255, 0))
      let full := if a == .read then none
        else (elems.find? (fun x => x.green && s.fifth e.gang.world num x.key)).map (fun x => s.greenPage e.gang.world x.key)
      (va, none, { c with elems, full })
  else
    let va := e.spadVa t f.base f.idx f.disp.toInt
    let w := s.space e (f.space == 2) (e.s f.base)
    let range : Cond := match w with
      | none => .trap 0x20 va
      | some _ => if e.l.spad < va + n then .trap 0x20 va else {}
    let align : Cond := if va % 128 != 0 then .trap 0x24 va else {}
    let c := range.and align
    (va, w, { c with elems := match w with | some w => spadElems w.id va 4 (List.replicate (n / 4) (255, 0)) | none => [] })

/-- `accld` and `accst`: the whole extent is checked before anything moves, and the operation is then issued. -/
def tileMove (g : Guard) (f : FTM) (i : Instr) (a : Access) (s : State) : Out :=
  groupOp g i s (fun e ts =>
    let d := tilesFrom (f.d.toNat % 16) (shapeTiles (f.cl.extractLsb' 0 2))
    if a == .write && !s.tilesWritten e.w.id d then .next (s.hold e)
    else
      let num := verNum e.l (s.thread e.w.id e.g.leader).sub
      let (va, w, c) := s.tileConds e f a num
      match worst [(0, c)], c.absent with
      | some (code, va, mal), _ => .next (s.takeTrap e { code, daddr := va, wr := a == .write, mal })
      | none, some k => .fault (.absentDram k)
      | none, none =>
        if c.parks then .next (s.parkLanes e (a == .write) (e.g.members.map (fun t => (t, c)))).progress
        else
          let pages := match w with | some w => (pagesOf va (4 * c.elems.length)).map (fun p => (w, p)) | none => []
          match s.touchPages (a == .write) pages with
          | .wait => .next ((s.countPaged e (match w with | some w => w.home | none => e.g.core)).hold e)
          | .backing p =>
            .next ((s.pushRecord e.gang.world (s.record e 0x50 (p * 1024) e.g.members)).park e e.g.members (.backing p)).progress
          | .ready s =>
            let s := s.modGroup e.g.id (fun g => { g with paged := false })
            let keys := c.elems.map (·.key)
            let loc : Loc := match w with | some w => .spad w.id va | none => .va va
            let kind : TileKind := if a == .read then .load loc keys else .store loc keys (some num.toNat)
            let s := if a == .write && c.elems.any (fun x => keySpad > x.key && !x.green) then
              s.acts e else s
            ((s.addTile e ts kind (f.cl.extractLsb' 0 2) (if a == .read then [] else d) (if a == .read then d else []) false
              e.w.home).countTl e ts).done e)

def execAccld (g : Guard) (f : FTM) (s : State) : Out := tileMove g f (.accld g f) .read s
def execAccst (g : Guard) (f : FTM) (s : State) : Out := tileMove g f (.accst g f) .write s

/-- `proj_sign` before its last line (spec 06, R160; 15, R353). -/
def mix64 (seed : Code) (j : Nat) : Code :=
  let x := seed + BitVec.ofNat 64 j * 0x9E3779B97F4A7C15
  let x := (x ^^^ (x >>> 30)) * 0xBF58476D1CE4E5B9
  let x := (x ^^^ (x >>> 27)) * 0x94D049BB133111EB
  x ^^^ (x >>> 31)

/-- True where the sign is −1. -/
def projNeg (seed : Code) (j : Nat) : Bool := (mix64 seed j).getLsbD 0

/-- `mproj` is held until its tile is written, then issued (spec 06, R159, R160). -/
def execMproj (g : Guard) (f : FT) (s : State) : Out :=
  groupOp g (.mproj g f) s (fun e ts =>
    let d := tilesFrom (f.d.toNat % 16) (shapeTiles f.mode)
    if !s.tilesWritten e.w.id d then .next (s.hold e)
    else
      let w := f.b.toNat % 16
      let c0 := (s.thread e.w.id e.g.leader).v f.c
      ((s.addTile e ts (.proj (f.d.toNat % 16) c0 (f.cl.getLsbD 0) f.mode) f.mode d [w] false e.w.home).countTl e ts).done e)

/-- Columns of the receiving tile that a projection writes (spec 06, R160). -/
def projAcc (w : Workgroup) (seed : Code) (tile recv mode : Nat) (c0 : Word) (int : Bool) : Tab Word :=
  let width := shapeWidth mode
  let rows := if mode == 0 then 32 else 4096 / width
  (List.range rows).foldl (fun acc i =>
    let at' (j : Nat) : Word := let p := shapeAt mode tile (i * width + j); w.elem p.1 p.2.1 p.2.2
    let neg (j : Nat) : Bool := projNeg seed ((c0.toNat + j) % 2 ^ 32)
    let x : Word :=
      if int then (List.range width).foldl (fun x j => if neg j then x - at' j else x + at' j) 0
      else mmCombine ((List.range width).map (fun j => if neg j then (f32 (at' j)).neg else f32 (at' j))) (.fin false 0 0)
    setElem acc recv (i % 32) (i / 32) x) w.acc

/-! Performing (spec 06, R139, R147, R157). -/

/-- An earlier operation of the workgroup that names a common tile (spec 06, R147). -/
def TileOp.before (p o : TileOp) : Bool :=
  p.wg == o.wg && p.id < o.id && (p.reads ++ p.writes).any (fun t => (o.reads ++ o.writes).contains t)

/-- Operations that stand until the driver resumes their gang: transfers with a poisoned reply, and what follows them in tile order. They
take effect after the load is made again, so the save keeps them (spec 06, R147, R158; assumption 69). -/
def State.stuckTiles (s : State) : List Nat :=
  s.tiles.foldl (fun ids o => if o.poisoned || s.tiles.any (fun p => ids.contains p.id && p.before o) then ids ++ [o.id] else ids) []

/-- The gang of a workgroup is saved: nothing of it is on a core. -/
def State.wgSaved (s : State) (wg : Nat) : Bool :=
  match s.wg? wg with | some w => (s.gang? w.gang).any (fun g => g.status == .saved) | none => false

/-- Earlier operations of the workgroup that name a common tile, or that the matrices keep before this one, are done, and
power leave is granted, its scratchpad pages are in and what lies on another chip is answered. -/
def State.tileReady (s : State) (o : TileOp) : Bool :=
  !o.leave && !o.poisoned && !s.tiles.any (fun p => p.before o) && s.depsMet o.deps && o.kind.keys.all (fun k => s.spadHere k 4 && !s.uncrossed k) &&
  !s.wgSaved o.wg

/-- The launch of a workgroup. -/
def State.launchOfWg (s : State) (w : Workgroup) : Launch := (s.launch? w.launch).getD Launch.gone

/-- The signers' counts fall, and the operation is gone. -/
def State.landTile (s : State) (o : TileOp) : State :=
  let s := s.modLive o.wg o.tids (fun t => { t with tl := t.tl - 1 })
  { s with tiles := s.tiles.filter (fun x => !(x.id == o.id)) }

/-- Words of a tile load put into the tiles. -/
def loadTiles (acc : Tab Word) (mode d : Nat) (words : List (Nat × Word)) : Tab Word :=
  words.foldl (fun acc w => let p := shapeAt mode d w.1; setElem acc p.1 p.2.1 p.2.2 w.2) acc

/-- A load's words by place; with an error reply, old or loaded words stand, no one says which (spec 06, R158). -/
def State.tileWords (s : State) (l : Launch) (o : TileOp) (keys : List Nat) (bad : Bool) : List (Nat × Word) :=
  let green (k : Nat) : Bool := k < keySpad && s.versions.any (fun v => v.world == l.world && v.words.any (fun w => w.1 == k))
  ((List.range keys.length).zip keys).filterMap (fun (n, k) =>
    if bad && (s.errs k || s.outside l.world k || Config.tileSees (s.draws + n)) then none
    else some (n, BitVec.ofNat 32 (s.loadNat l o.core k false (green k) 4)))

/-- The version number of a tile operation's writes. -/
def TileOp.num (o : TileOp) : Word := match o.kind with | .store _ _ (some n) => BitVec.ofNat 32 n | _ => 0

/-- The elements a tile store writes. -/
def State.tileElems (s : State) (w : Workgroup) (world : Nat) (o : TileOp) (addr : Loc) (keys : List Nat) (d : Nat) : List Elem :=
  let g (n : Nat) : Bool := match addr with
    | .va a => (match s.leafAt o.core world ((a + 4 * n) % 2 ^ 56) with | .ok l => pteGreen l.pte | .error _ => false)
    | .spad .. => false
  ((List.range keys.length).zip keys).map (fun (n, k) =>
    let p := shapeAt o.mode.toNat d n
    ⟨0, k, 4, w.elem p.1 p.2.1 p.2.2, 255, g n, none⟩)

/-- `MATRIX_STEP_PERFORMED`. DESIGN CHOICE (assumption 11): the scale entries of a step are all read at this moment; R145 lets each aligned
word be read old or new by itself. -/
def execMatrixStepPerformed (op : Nat) (s : State) : Out :=
  match s.tile? op with
  | none => .refused .notEnabled
  | some o => match s.wg? o.wg, o.kind with
    | some w, .step f count _ sigs bases =>
      let acc := s.stepAcc w (s.launchOfWg w) f count sigs bases
      event (s.tileReady o) { (s.modWg o.wg (fun w => { w with acc })).landTile o with draws := s.draws + 4096 }
    | _, _ => .refused .notEnabled

/-- Lowest tile of an operation's memory shape. -/
def TileOp.tile (o : TileOp) : Nat := match o.reads ++ o.writes with | t :: r => r.foldl min t | [] => 0

/-- A home refuses a word of a tile transfer, with PROT outside the world's region (14, R322), or answers with an error (spec 06, R158). -/
def State.tileRefused (s : State) (world : Nat) (write : Bool) (k : Nat) : Option Nat :=
  if s.outside world k then some 0x23 else if (if write then s.refuses k else s.errs k) then some 0x25 else none

/-- A gang halts as at a trap; one that is halted or saved already stays so, and waits for the driver too (spec 03, R77; 08, R212). -/
def State.driverStop (s : State) (gang : Nat) : State :=
  match s.gang? gang with
  | some g => if g.status == GStatus.running then s.haltGang gang .trapped else s.modGang gang (fun g => { g with waits := true })
  | none => s

/-- A transfer that met an error stays to be made again whole, and its gang halts: the record has the lowest code, the address of the
first word that met it, and the lanes that were active at its issue (spec 06, R158; 14, R324). DESIGN CHOICE (assumption 70): CORE is
the core that holds the tiles, that of home group 0, while HGRP is the issuing group's; R324 does not say which of several. -/
def State.tileFault (s : State) (o : TileOp) (w : Workgroup) (l : Launch) (write : Bool) (addr : Loc) (keys : List Nat) : State :=
  let codes := keys.map (s.tileRefused l.world write)
  let code := if codes.contains (some 0x23) then 0x23 else 0x25
  let va := match addr with
    | .va a => (a + 4 * (codes.findIdx? (· == some code)).getD 0) % 2 ^ 56
    | .spad _ a => a
  let r := { FaultRec.none with
    code := BitVec.ofNat 8 code, daddr := BitVec.ofNat 56 va, iaddr := o.iaddr, lctr := BitVec.ofNat 16 l.lctr, core := BitVec.ofNat 10 o.core
    lanes := laneMask o.active, hgrp := BitVec.ofNat 8 (hgrpOf (o.active.foldl min (o.active.headD 0))), wr := write }
  ((s.modTile o.id (fun o => { o with poisoned := true })).driverStop w.gang).pushRecord l.world r

/-- `TILE_TRANSFER_PERFORMED`: `accld`, `accst`, `accz` or `mproj`. A poisoned reply to `accld` leaves a mixture in the tiles
and traps POISON; the load is made again at the resume (spec 06, R158). DESIGN CHOICE (assumption 65): an `accst` that its home
refuses does likewise; the words that were not refused are written.
DESIGN CHOICE (assumption 11): all words of a transfer move at one moment; R148 lets each be seen before or after by itself. -/
def execTileTransferPerformed (op : Nat) (s : State) : Out :=
  match s.tile? op with
  | none => .refused .notEnabled
  | some o => match s.wg? o.wg with
    | none => .refused .notEnabled
    | some w =>
      let l := s.launchOfWg w
      match o.kind with
      | .step .. => .refused .notEnabled
      | .zero =>
        let zero (acc : Tab Word) (t : Nat) : Tab Word := acc.filter (fun x => !(x.1 / 1024 == t))
        event (s.tileReady o) ((s.modWg o.wg (fun w => { w with acc := o.writes.foldl zero w.acc })).landTile o)
      | .proj tile c0 int mode =>
        let acc := projAcc w l.seed tile (o.writes.headD 0) mode.toNat c0 int
        event (s.tileReady o) ((s.modWg o.wg (fun w => { w with acc })).landTile o)
      | .load addr keys =>
        let bad := keys.any (fun k => (s.tileRefused l.world false k).isSome)
        let num := verNum l o.sub
        let words := s.tileWords l o keys bad
        let s1 := s.modWg o.wg (fun w => { w with acc := loadTiles w.acc o.mode.toNat o.tile words })
        let noted := keys.foldl (fun s k => if k < keySpad then s.noteLoad l o.core num k else s) s1
        if bad then event (s.tileReady o) ({ s1 with draws := s.draws + keys.length }.tileFault o w l false addr keys)
        else event (s.tileReady o) (noted.landTile o)
      | .store addr keys _ =>
        let xs := s.tileElems w l.world o addr keys o.tile
        let good := xs.filter (fun x => (s.tileRefused l.world true x.key).isNone)
        let room := !xs.any (fun x => x.green && s.fifth l.world o.num x.key)
        let put (s : State) (x : Elem) : State :=
          if x.key < keySpad && !x.green && l.shadowOf.isNone then (s.passElem l o.core [x] x).writeElem l o.num o.core x
          else s.writeElem l o.num o.core x
        let clear := !xs.any (fun x => x.key < keySpad && s.wordBusy o.core x.key)
        event (s.tileReady o && room && clear)
          (if good.length == xs.length then (xs.foldl put s).landTile o else (good.foldl put s).tileFault o w l true addr keys)

end Sys2Proof.Machine
end

