-- ==== Sys2Proof/Machine/Control.lean ====
section
/-! DEFINITION. Block entry and the control and barrier instructions: opcodes 0x50 and 0x51 (spec 03, R57 to R59; 10, R278
to R283, R291 to R297). -/

namespace Sys2Proof.Machine

/-! Entering a block (spec 03, R57, R58). -/

/-- Threads whose reconvergence mark names an address (spec 02, R31). -/
def State.marked (s : State) (e : Env) (pc : VA) : List Nat :=
  e.g.members.filter (fun t => (s.thread e.w.id t).reconv.contains pc)

/-- Home groups whose threads all enter a block here: what they wrote before is of no block they are still in (spec 02, R39). -/
def State.enterWhole (s : State) (e : Env) : List Nat :=
  e.g.hgrps.filter (fun h => (List.range 32).all (fun L =>
    e.g.members.contains (h * 32 + L) || e.w.threads ≤ h * 32 + L || (s.thread e.w.id (h * 32 + L)).status == .ended))

/-- The threads enter the block at their header. A home group that has threads in other blocks keeps the marks of what it has written
there (spec 02, R39; 10, R288). -/
def State.enter (s : State) (e : Env) (pc : VA) (h : Header) : State :=
  let s := s.modThreads e.w.id e.g.members (fun t =>
    { t with pc := pc + 8, left := h.len, block := pc, written := [], reconv := t.reconv.filter (· != pc) })
  let s := s.modWg e.w.id (fun w => { w with swritten := w.swritten.filter (fun r => !(s.enterWhole e).contains (r / 512)) })
  s.modGroup e.g.id (fun g => { g with drawn := false })

/-- A group whose threads stand at a header: the header is checked, and the entry is a reform point for KIND 01 and for
threads marked at a division (spec 02, R29, R31; 03, R57, R58). DESIGN CHOICE (assumption 70): the first word of a launch, or of a bin
that was drawn, has no instruction that transferred control to it; where it is no header the entering group traps BAD_TARGET, and
IADDR is that word's address. -/
def State.blockEntry (s : State) (e : Env) : Out :=
  let pc := s.iaddr e
  match s.atHeader e pc with
  | .inl f => s.badTarget e pc f
  | .inr h =>
    if !h.legal then .next (s.takeTrap e { code := 0x01, daddr := pc.toNat, fetch := true })
    else if e.g.drawn then .next (s.enter e pc h).progress
    else
      let out := if h.kind == 1 then e.g.members else s.marked e pc
      if out.isEmpty then .next (s.enter e pc h).progress
      else .next (s.fileFrom e pc out).progress

/-! Barriers (spec 10, R278 to R282). -/

/-- Level and number of IMM. -/
def barLevel (f : FC) : Nat := f.imm.toNat / 16 % 4
def barNum (f : FC) : Nat := f.imm.toNat % 16
/-- Name of a barrier in a thread's marks. -/
def barKey (f : FC) : Nat := f.imm.toNat % 64

/-- A halfword of the membership block; 0 where there is none (spec 10, R267, R278). -/
def Launch.member (l : Launch) (n : Nat) : Nat := (listGet 0 l.memb (2 * n)).toNat + 256 * (listGet 0 l.memb (2 * n + 1)).toNat

/-- A workgroup barrier that a ring takes (spec 01, R13). -/
def Launch.ringBar (l : Launch) (n : Nat) : Bool := 16 ≤ n + 2 * l.nring

/-- Membership of a thread in a barrier (spec 10, R278). -/
def isMember (l : Launch) (w : Workgroup) (level n tid : Nat) : Bool :=
  match level with
  | 0 =>
    let x := l.member n
    let first := x / 256
    let count := x % 256
    let last := if count == 0 then w.groups else min (first + count) w.groups
    !l.ringBar n && first ≤ hgrpOf tid && hgrpOf tid < last
  | 1 => let m := l.member (16 + n); m == 0 || m / 2 ^ (w.index % l.perGang) % 2 == 1
  | _ => true

/-- The name of a thread among a barrier's members. -/
def memberNo (w : Workgroup) (level tid : Nat) : Nat := if level == 0 then tid else w.index * 8192 + tid

/-- Workgroups whose threads are members at a level. -/
def State.barWgs (s : State) (w : Workgroup) (level : Nat) : List Workgroup :=
  s.wgs.filter (fun x => match level with | 0 => x.id == w.id | 1 => x.gang == w.gang | _ => x.launch == w.launch)

def State.getBar (s : State) (w : Workgroup) (level n : Nat) : Barrier :=
  match level with
  | 0 => listGet Barrier.new ((s.wg? w.id).getD w).bars n
  | 1 => match s.gang? w.gang with | some g => listGet Barrier.new g.bars n | none => Barrier.new
  | _ => match s.launch? w.launch with | some l => listGet Barrier.new l.bars n | none => Barrier.new

def State.putBar (s : State) (w : Workgroup) (level n : Nat) (b : Barrier) : State :=
  match level with
  | 0 => s.modWg w.id (fun x => { x with bars := listPut Barrier.new x.bars n b })
  | 1 => s.modGang w.gang (fun x => { x with bars := listPut Barrier.new x.bars n b })
  | _ => s.modLaunch w.launch (fun x => { x with bars := listPut Barrier.new x.bars n b })

/-- Every member has arrived or exited, and nothing is pending (spec 10, R279). -/
def State.barDone (s : State) (l : Launch) (w : Workgroup) (level n : Nat) : Bool :=
  let b := s.getBar w level n
  b.pending == 0 &&
  (s.barWgs w level).all (fun x => (List.range x.threads).all (fun t =>
    !isMember l x level n t || (s.thread x.id t).status == .ended || b.arrived.contains (memberNo x level t)))

/-- Completes the phase of a barrier if it can (spec 10, R279). -/
def State.tryBar (s : State) (l : Launch) (w : Workgroup) (level n : Nat) : State :=
  if s.barDone l w level n then
    let b := s.getBar w level n
    s.putBar w level n { b with phase := b.phase + 1, arrived := [], pending := 0 }
  else s

/-- Members arrive in the current phase. -/
def State.arrive (s : State) (w : Workgroup) (level n : Nat) (tids : List Nat) : State :=
  let b := s.getBar w level n
  s.putBar w level n { b with arrived := b.arrived ++ tids.map (memberNo w level) }

/-- The scope of arrival and leaving (spec 10, R278). -/
def barScope (level : Nat) : Nat := match level with | 0 => 0 | 1 => 1 | _ => 3

/-- A launch barrier outside a co-resident launch, then non-members (spec 03, R73; 10, R278). DESIGN CHOICE (assumption 65): both are
conditions of the arriving threads, so an instruction that no active thread's guard lets execute raises neither. -/
def barTrap (e : Env) (f : FC) (tids : List Nat) : Option Nat :=
  if tids.isEmpty then none
  else if barLevel f == 2 && !e.l.cores then some 0x04
  else if tids.any (fun t => !isMember e.l e.w (barLevel f) (barNum f) t) then some 0x14
  else none

/-- The part of a group that goes on past an instruction while the rest stays at it. -/
def State.passPart (s : State) (e : Env) (go stay : List Nat) : State :=
  let s := s.modThreads e.w.id go Thread.next
  if stay.isEmpty then s
  else if go.isEmpty then s
  else
    let pc := match go with | t :: _ => (s.thread e.w.id t).pc | [] => 0
    let s := s.modGroup e.g.id (fun g => { g with members := stay })
    if s.groupCount e.g.core e.g.part < Config.groupRecords then s.addGroup e.w.id e.g.core e.g.part go false
    else s.file e.w.id e.g.core e.g.part pc go

/-- `bar`: settles an owed mark or arrives, and waits for the phase (spec 10, R280, R297). -/
def execBar (g : Guard) (f : FC) (s : State) : Out :=
  issue g (.bar g f) s (fun e =>
    let ts := s.lanes e g
    let key := barKey f
    let level := barLevel f
    let n := barNum f
    let fresh := ts.filter (fun t =>
      let x := s.thread e.w.id t
      x.hold.isNone && !x.owed.any (fun o => o.1 == key))
    match barTrap e f ts with
    | some code => .next (s.takeTrap e { code })
    | none =>
      if !fresh.all (fun t => s.released e.w.id t (barScope level)) then .next (s.hold e)
      else
        let now := (s.getBar e.w level n).phase
        let mark (t : Thread) : Thread :=
          match t.hold, t.owed.find? (fun o => o.1 == key) with
          | some _, _ => t
          | none, some o => { t with hold := some (key, o.2), owed := t.owed.filter (fun o => !(o.1 == key)) }
          | none, none => { t with hold := some (key, now) }
        let s1 := (s.arrive e.w level n fresh).modThreads e.w.id ts mark
        let s2 := if fresh.isEmpty then s1 else s1.tryBar e.l e.w level n
        let phase := (s2.getBar e.w level n).phase
        let waits (t : Nat) : Bool := match (s2.thread e.w.id t).hold with | some h => h.2 == phase | none => false
        let stay := ts.filter waits
        let out := ts.filter (fun t => !waits t)
        let s3 := s2.modThreads e.w.id out (fun t => { t with hold := none })
        let s3 := if level == 2 && !out.isEmpty then s3.acquire e.g.core 3 else s3
        let s4 := s3.passPart e (out ++ s.offLanes e g) stay
        let still := fresh.isEmpty && out.isEmpty && (s.offLanes e g).isEmpty && ts.all (fun t => (s.thread e.w.id t).hold.isSome)
        if still && !stay.isEmpty then .next (s.hold e) else .next s4.progress)

/-- `barx`: arrives without waiting and posts an expectation once (spec 10, R280 to R282, R297). -/
def execBarx (g : Guard) (f : FC) (s : State) : Out :=
  groupOp g (.barx g f) s (fun e ts =>
    let key := barKey f
    let level := barLevel f
    let n := barNum f
    let x := e.s f.sa
    let b := s.getBar e.w level n
    if x.toNat / 2 ^ 24 != 0 then .next (s.takeTrap e { code := 0x01 })
    else if barTrap e f ts == some 0x04 then .next (s.takeTrap e { code := 0x04 })
    else if ts.any (fun t => (s.thread e.w.id t).owed.any (fun o => o.1 == key && o.2 == b.phase)) then
      .next (s.takeTrap e { code := 0x13 })
    else if barTrap e f ts == some 0x14 then .next (s.takeTrap e { code := 0x14 })
    else if 2 ^ 24 ≤ b.pending.toNat + x.toNat then .next (s.takeTrap e { code := 0x15 })
    else if !ts.all (fun t => s.released e.w.id t (barScope level)) then .next (s.hold e)
    else
      let s1 := s.putBar e.w level n { b with
        arrived := b.arrived ++ ts.map (memberNo e.w level), pending := b.pending + BitVec.ofNat 24 x.toNat }
      let s2 := s1.modThreads e.w.id ts (fun t => { t with owed := (key, b.phase) :: t.owed.filter (fun o => !(o.1 == key)) })
      (s2.tryBar e.l e.w level n).done e)

/-- Engine bytes credited to a barrier that still is in the recorded phase; the rest is dropped and counted (spec 10, R281). -/
def State.credit (s : State) (l : Launch) (w : Workgroup) (core level n : Nat) (phase : Word) (bytes : Nat) : State :=
  let b := s.getBar w level n
  let drop (s : State) (x : Nat) : State := if x == 0 then s else s.modCore core (fun c => { c with dropCredit := c.dropCredit + x })
  if b.phase != phase then drop s bytes
  else
    let take := min bytes b.pending.toNat
    let s := s.putBar w level n { b with pending := b.pending - BitVec.ofNat 24 take }
    (drop s (bytes - take)).tryBar l w level n

/-! Branches (spec 02, R31; 10, R291 to R293). -/

/-- The reconvergence address of the current block, if its header names one (spec 03, R56). DESIGN CHOICE (assumption 70): the header is
read again at the branch, and one that can no longer be read there names none; R58 does not say where RECONV is kept. -/
def State.reconvOf (s : State) (e : Env) : Option VA :=
  let b := (s.thread e.w.id e.g.leader).block
  match s.atHeader e b with
  | .inr h => if h.reconv = 0 then none else some (b + 8 * h.reconv.signExtend 56)
  | .inl _ => none

/-- A group that would divide, whose block names a reconvergence address that is no header (spec 03, R58). -/
def State.reconvBad (s : State) (e : Env) (take off : List Nat) : List (VA × Fetched) :=
  match (if off.isEmpty || take.isEmpty then none else s.reconvOf e) with
  | some m => (match s.atHeader e m with | .inl f => [(m, f)] | .inr _ => [])
  | none => []

/-- Takes the threads that branch to their new places and divides the group from the threads that go on (spec 02, R31).
`go` says where a taking thread continues. -/
def State.divide (s : State) (e : Env) (take off : List Nat) (back : Bool) (go : Thread → Thread) : State :=
  let mark := if off.isEmpty || take.isEmpty then none else s.reconvOf e
  let add (t : Thread) : Thread := match mark with
    | some m => { t with reconv := if t.reconv.contains m then t.reconv else m :: t.reconv }
    | none => t
  let pc := s.iaddr e
  let s := s.modThreads e.w.id e.g.members add
  let s := s.modThreads e.w.id take go
  let s := s.modThreads e.w.id off Thread.next
  let s := if back && !take.isEmpty then s.modGroup e.g.id (fun g => { g with stamp := s.clock }) else s
  (s.split e take off (pc + 8)).progress

/-- The target whose condition has the lowest code, the first of equals (spec 03, R78). -/
def lowestBad (bads : List (VA × Fetched)) : Option (VA × Fetched) :=
  bads.foldl (fun r b => match r with | none => some b | some a => if b.2.code < a.2.code then some b else r) none

/-- A transfer of control meets bad targets and perhaps CALL_DEPTH: the lowest code wins; else it goes on (spec 03, R57, R58, R78). -/
def State.transfer (s : State) (e : Env) (bads : List (VA × Fetched)) (depth : Bool) (go : Out) : Out :=
  match lowestBad bads with
  | some (a, f) => if depth && 0x16 < f.code then .next (s.takeTrap e { code := 0x16 }) else s.badTarget e a f
  | none => if depth then .next (s.takeTrap e { code := 0x16 }) else go

/-- A branch of the threads whose guard holds to one target. -/
def branchOp (g : Guard) (i : Instr) (s : State) (target : Env → VA) (call : Bool) : Out :=
  issue g i s (fun e =>
    let take := s.lanes e g
    let off := s.offLanes e g
    let pc := s.iaddr e
    if take.isEmpty then s.done e
    else
      let bads := (match s.atHeader e (target e) with | .inl f => [(target e, f)] | .inr _ => []) ++ s.reconvBad e take off
      s.transfer e bads (call && take.any (fun t => 16 ≤ (s.thread e.w.id t).stack.length))
        (.next (s.divide e take off ((target e).toNat ≤ pc.toNat)
          (fun t => ({ t with stack := if call then (pc + 8) :: t.stack else t.stack }).goto (target e)))))

/-- This word plus a count of words (spec 03, R73). -/
def State.wordTarget (s : State) (e : Env) (n : Word) : VA := s.iaddr e + 8 * n.signExtend 56

def execBr (g : Guard) (f : FC) (s : State) : Out := branchOp g (.br g f) s (fun e => s.wordTarget e f.imm) false
def execBrc (g : Guard) (f : FC) (s : State) : Out :=
  branchOp g (.brc g f) s (fun e => s.wordTarget e f.imm + 8 * (e.s f.sa).signExtend 56) false
def execCall (g : Guard) (f : FC) (s : State) : Out := branchOp g (.call g f) s (fun e => s.wordTarget e f.imm) true

/-- Where a thread's return goes. -/
def Thread.back (t : Thread) : Option VA := t.stack.head?

def Thread.popped (t : Thread) : Thread := match t.stack with | a :: r => ({ t with stack := r }).goto a | [] => t

/-- The return addresses of some threads that are no header. -/
def State.badReturns (s : State) (e : Env) (tids : List Nat) : List (VA × Fetched) :=
  tids.filterMap (fun t => match (s.thread e.w.id t).back with
    | some a => (match s.atHeader e a with | .inl f => some (a, f) | .inr _ => none)
    | none => none)

/-- `ret`: threads whose address equals the leader's go on as the group, the others are filed (spec 10, R293). DESIGN CHOICE (assumption
70): where the group's leader does not execute the `ret`, the leader is the lowest thread that does. -/
def execRet (g : Guard) (f : FC) (s : State) : Out :=
  issue g (.ret g f) s (fun e =>
    let take := s.lanes e g
    let off := s.offLanes e g
    let lead := take.foldl min (take.headD 0)
    let dest := ((s.thread e.w.id lead).back).getD 0
    let same := take.filter (fun t => (s.thread e.w.id t).back == some dest)
    let others := take.filter (fun t => (s.thread e.w.id t).back != some dest)
    let one (s : State) (t : Nat) : State :=
      let s := s.modThread e.w.id t Thread.popped
      s.file e.w.id e.g.core e.g.part (s.thread e.w.id t).pc [t]
    if take.isEmpty then s.done e
    else
      s.transfer e (s.badReturns e take ++ s.reconvBad e same off) (take.any (fun t => (s.thread e.w.id t).back.isNone))
        (let s1 := s.divide e same off (dest.toNat ≤ (s.iaddr e).toNat) Thread.popped
         let s2 := (dedup others).foldl one s1
         .next (s2.modGroup e.g.id (fun x => { x with members := x.members.filter (fun t => !others.contains t) }))))

/-- `reform`: filed into the bin keyed by the next word (spec 10, R292). -/
def execReform (g : Guard) (f : FC) (s : State) : Out :=
  issue g (.reform g f) s (fun e =>
    let pc := s.iaddr e
    .next ((s.advance e).fileFrom e (pc + 8) (s.lanes e g)).progress)

/-- Loads of ended threads are discarded (spec 10, R283). -/
def State.dropLoads (s : State) (wg : Nat) (tids : List Nat) : State :=
  let cut (f : Flight) : Flight := if f.wg == wg && f.kind.isLoad then { f with tids := f.tids.filter (fun t => !tids.contains t) } else f
  { s with flights := (s.flights.map cut).filter (fun f => !(f.kind.isLoad && f.tids.isEmpty)) }

/-- A poisoned access of some threads, in the counters of a mask: ld and st (spec 08, R193). -/
def State.pendingPoison (s : State) (wg : Nat) (tids : List Nat) (ld st : Bool) : Option Flight :=
  lowestPoison (s.flights.filter (fun f => f.wg == wg && f.poisoned && f.tids.any tids.contains && (if f.inLd then ld else st)))

/-- A ring's "empty" barrier: every thread of the workgroup has arrived or exited (spec 08, R224). -/
def State.tryRing (s : State) (wg n : Nat) : State :=
  match s.wg? wg with
  | none => s
  | some w =>
    match w.rings[n]? with
    | none => s
    | some r =>
      if (List.range w.threads).all (fun t => (s.thread wg t).status == .ended || r.arrived.contains t) then
        (s.modWg wg (fun w => { w with rings := listSet w.rings n { r with e := r.e + 1, arrived := [] } })).registerSlots wg
      else s

/-- Ended threads count as arrived: barriers and rings that waited for them go on (spec 10, R279, R283; 08, R224). -/
def State.afterExit (s : State) (l : Launch) (w : Workgroup) : State :=
  let some' (level n : Nat) (s : State) : Bool := !(s.getBar w level n).arrived.isEmpty
  let s := (List.range 16).foldl (fun s n => if some' 0 n s then s.tryBar l w 0 n else s) s
  let s := (List.range 8).foldl (fun s n => if some' 1 n s then s.tryBar l w 1 n else s) s
  let s := (List.range 4).foldl (fun s n => if some' 2 n s then s.tryBar l w 2 n else s) s
  (List.range w.rings.length).foldl (fun s n =>
    if ((s.wg? w.id).map (fun w => match w.rings[n]? with | some r => !r.arrived.isEmpty | none => false)) == some true
    then s.tryRing w.id n else s) s

/-- `exit`: the thread ends; a pending POISON is taken first (spec 10, R283). -/
def execExit (g : Guard) (f : FC) (s : State) : Out :=
  issue g (.exit g f) s (fun e =>
    let ts := s.lanes e g
    match s.pendingPoison e.w.id ts true true with
    | some f => .next (s.takeTrap e f.poisonTrap)
    | none =>
      let s := s.modThreads e.w.id (s.offLanes e g) Thread.next
      let s := (s.dropLoads e.w.id ts).modThreads e.w.id ts (fun t => { t with status := .ended, ld := 0 })
      .next ((s.keepMembers e.g.id (e.g.members.filter (fun t => !ts.contains t))).afterExit e.l e.w).progress)

/-- `yield` restamps the group (spec 10, R275, R292). -/
def execYield (g : Guard) (f : FC) (s : State) : Out :=
  groupOp g (.yield g f) s (fun e _ => (s.modGroup e.g.id (fun x => { x with stamp := s.clock })).done e)

def execNop (g : Guard) (f : FC) (s : State) : Out := groupOp g (.nop g f) s (fun e _ => s.done e)

/-- `trap`: USER_TRAP with the user code; the threads go on at the next word when they are resumed (spec 10, R292, R295;
03, R79). -/
def execTrap (g : Guard) (f : FC) (s : State) : Out :=
  groupOp g (.trap g f) s (fun e _ =>
    let s := s.takeTrap e { code := 0x17, daddr := f.imm.toNat % 65536 }
    .next (s.modGang e.gang.id (fun x => { x with skip := e.g.members.map (threadKey e.w.id) })))

/-- The counts of `wait`: enabled classes and their limits (spec 03, R73). -/
def waitField (f : FC) (lo : Nat) : Option Nat :=
  if f.imm.getLsbD (lo + 6) then some (f.imm.extractLsb' lo 6).toNat else none

/-- The thread's enabled counts are at most the stated ones (spec 10, R294). -/
def waitMet (f : FC) (t : Thread) : Bool :=
  let ok (lim : Option Nat) (c : BitVec 6) : Bool := match lim with | some n => c.toNat ≤ n | none => true
  ok (waitField f 21) t.ld && ok (waitField f 14) t.st && ok (waitField f 7) t.cp && ok (waitField f 0) t.tl

/-- `wait`: POISON of an access it counts, then the counts; an acquire of engine writes where cp is named (spec 10, R294;
08, R193). -/
def execWait (g : Guard) (f : FC) (s : State) : Out :=
  issue g (.wait g f) s (fun e =>
    let ts := s.lanes e g
    match s.pendingPoison e.w.id ts (waitField f 21).isSome (waitField f 14).isSome with
    | some x => .next (s.takeTrap e x.poisonTrap)
    | none =>
      if !ts.all (fun t => waitMet f (s.thread e.w.id t)) then .next (s.hold e)
      else ((if (waitField f 7).isSome && !ts.isEmpty then s.acquire e.g.core 4 else s)).done e)

end Sys2Proof.Machine
end

