-- ==== Sys2Proof/Machine/Threads.lean ====
section
/-! DEFINITION. Events of threads and groups: BIN_DRAW, BIN_AGED, LEAVE_GRANT and POWER_CREDIT_REFILL (spec 02, R29; 05, R125; 06,
R137; 10, R276, R285; 18, R374). -/

namespace Sys2Proof.Machine

/-- The gang of a workgroup runs: it is neither halted nor held (spec 10, R286; 14, R340). -/
def State.running (s : State) (wg : Nat) : Bool :=
  match s.wg? wg with
  | some w => (match s.gang? w.gang with | some g => g.status == .running && !g.held && !g.heldDie | none => false)
  | none => false

/-- The instruction a bin's threads stand at: what its address holds, or was last seen to hold. -/
def State.binInstr (s : State) (b : Bin) : Option Instr :=
  match b.entries with
  | [] => none
  | (t, _) :: _ => (s.instrAt b.wg b.core t b.pc).or b.known

/-- The mask register of a cross-lane instruction (spec 05, R127). -/
def crossMask : Instr → Option (BitVec 9)
  | .shflIdx _ f | .shflUp _ f | .shflDown _ f | .shflXor _ f | .voteAll _ f | .voteAny _ f | .voteBallot _ f | .matchAny _ f
  | .matchAll _ f | .bcast _ f | .gscan _ f | .minidx _ f | .maxidx _ f | .redux _ f _ => some f.s
  | _ => none

/-- The convergence register of a signing instruction. -/
def signReg : Instr → Option Nat
  | .mma _ f | .mmac _ f => some (f.a.toNat % 16)
  | _ => none

/-- The guard of a signing instruction. -/
def signGuard : Instr → Option Guard
  | .mma g _ | .mmac g _ => some g
  | _ => none

/-- Threads of a bin that a draw may take: not those that would sign and whose rank has signed the open round (spec 06, R136 to
R138). DESIGN CHOICE (assumption 65): such a thread is passed over though the round's recorded fields differ from its own: R137 says
that it never traps for getting ahead, R136 puts the fields' rule before the rank's. -/
def State.eligible (s : State) (b : Bin) : List (Nat × Nat) :=
  let i := s.binInstr b
  match i.bind signReg, i.bind signGuard, s.wg? b.wg with
  | some n, some g, some w =>
    b.entries.filter (fun x => !((w.cv n).signed x.1 && guardTruth g.neg ((s.thread b.wg x.1).p g.p)))
  | _, _, _ => b.entries

/-- A thread that has not ended and is no absent lane's. -/
def State.live (s : State) (w : Workgroup) (tid : Nat) : Bool := tid < w.threads && (s.thread w.id tid).status != .ended

/-- Home groups of a partition of a core. -/
def Workgroup.seats (w : Workgroup) (core part : Nat) : List Nat :=
  (List.range w.groups).filter (fun h => w.seat h == (core, part))

/-- The home groups of a cross-lane bin that can be drawn, in rising order (spec 05, R125). -/
def State.crossReady (s : State) (b : Bin) (w : Workgroup) (mask : BitVec 9) : List Nat :=
  (w.seats b.core b.part).filter (fun h =>
    b.entries.any (fun x => hgrpOf x.1 == h) &&
    (List.range 32).all (fun L =>
      !(w.s h mask).getLsbD L || b.entries.any (fun x => x.1 == h * 32 + L) || !s.live w (h * 32 + L)))

/-- For each lane, the thread that has waited longest; ties go to the lower home group (spec 02, R29). -/
def longest (xs : List (Nat × Nat)) : List Nat :=
  (List.range 32).filterMap (fun L =>
    ((xs.filter (fun x => laneOf x.1 == L)).foldl (fun (b : Option (Nat × Nat)) x =>
      match b with
      | none => some x
      | some y => if x.2 < y.2 || (x.2 == y.2 && x.1 < y.1) then some x else b) none).map (·.1))

/-- A bin holds a thread for every lane with a live thread in its partition's home groups (spec 02, R29). -/
def State.full (s : State) (b : Bin) (w : Workgroup) (xs : List (Nat × Nat)) : Bool :=
  !xs.isEmpty && (List.range 32).all (fun L =>
    xs.any (fun x => laneOf x.1 == L) || !(w.seats b.core b.part).any (fun h => s.live w (h * 32 + L)))

/-- The filing clock of the oldest thread. -/
def oldestClock (xs : List (Nat × Nat)) : Nat := match xs with | [] => 0 | x :: r => r.foldl (fun m y => min m y.2) x.2

/-- What a draw from a bin would take, with its place in the order: aged bins first, then full and cross-lane bins, each by
filing clock (spec 10, R276). DESIGN CHOICE (assumption 65): of several home groups of a cross-lane bin that can be drawn the lowest
goes first; R125 does not say. -/
def State.drawOf (s : State) (b : Bin) : Option (Nat × Nat × List Nat) :=
  match s.wg? b.wg with
  | none => none
  | some w =>
    if !s.running b.wg then none
    else match (s.binInstr b).bind crossMask with
    | some mask =>
      match s.crossReady b w mask with
      | h :: _ =>
        let xs := b.entries.filter (fun x => hgrpOf x.1 == h)
        some (1, oldestClock xs, longest xs)
      | [] => none
    | none =>
      let xs := s.eligible b
      if xs.isEmpty then none
      else if b.aged then some (0, oldestClock xs, longest xs)
      else if s.full b w xs then some (1, oldestClock xs, longest xs)
      else none

/-- The threads of a bin stand at a block header. -/
def State.atEntry (s : State) (b : Bin) : Bool :=
  match b.entries with
  | [] => false
  | (t, _) :: _ => (s.thread b.wg t).left == 0

/-- Draws the fresh group. It has passed the reform point it stands at: the entry of a block, or a cross-lane or signing instruction. A
word that has never been fetched is none: if it proves to be one of these, the group is filed for it (spec 02, R29; 05, R125). -/
def State.draw (s : State) (b : Bin) (tids : List Nat) : State :=
  let special := s.atEntry b || (match s.binInstr b with | some i => (crossMask i).isSome || (signReg i).isSome | none => false)
  let rest := b.entries.filter (fun x => !tids.contains x.1)
  let bins := if rest.isEmpty then s.bins.filter (fun x => !(x.id == b.id))
    else mapIf (fun x => x.id == b.id) (fun x => { x with entries := rest, aged := false, waitAt := none }) s.bins
  let s := s.modThreads b.wg tids (fun t => { t with status := .run })
  ({ s with bins }).addGroup b.wg b.core b.part tids special

/-- No bin of the partition stands before this one in the order of draws. -/
def State.firstDraw (s : State) (b : Bin) (cls clock : Nat) : Bool :=
  !s.bins.any (fun x => x.core == b.core && x.part == b.part && x.id != b.id &&
    (match s.drawOf x with
     | some (c, k, _) => c < cls || (c == cls && k < clock)
     | none => false))

/-- `BIN_DRAW`: the group is drawn, or the draw begins to wait for a free record (spec 02, R29; 10, R276, R277). -/
def execBinDraw (bin : Nat) (s : State) : Out :=
  match s.bin? bin with
  | none => .refused .notEnabled
  | some b => match s.drawOf b with
    | none => .refused .notEnabled
    | some (cls, clock, tids) =>
      if s.groupCount b.core b.part < Config.groupRecords then event (s.firstDraw b cls clock) (s.draw b tids)
      else event (s.firstDraw b cls clock && b.waitAt.isNone)
        { s with bins := mapIf (fun x => x.id == bin) (fun x => { x with waitAt := some s.clock }) s.bins }

/-- A bin whose oldest thread has waited 128 clocks; cross-lane bins never age (spec 02, R29; 05, R125). -/
def State.mayAge (s : State) (b : Bin) : Bool :=
  !b.aged && ((s.binInstr b).bind crossMask).isNone && !(s.eligible b).isEmpty && oldestClock (s.eligible b) + 128 ≤ s.clock

/-- `BIN_AGED`. -/
def execBinAged (bin : Nat) (s : State) : Out :=
  match s.bin? bin with
  | none => .refused .notEnabled
  | some b => event (s.mayAge b) { s with bins := mapIf (fun x => x.id == bin) (fun x => { x with aged := true }) s.bins }

/-- The most credits a bucket holds (spec 18, R374). -/
def bucketMax : Nat := 4096

/-- `LEAVE_GRANT`: the oldest request of the die, when its cost is there; a cost above the bucket takes a full one. -/
def execLeaveGrant (die : Nat) (s : State) : Out :=
  match (s.die die).leaves with
  | [] => .refused .notEnabled
  | r :: rest =>
    let d := s.die die
    let ok := die < 8 && (r.cost ≤ d.credits || (bucketMax < r.cost && d.credits == bucketMax))
    let core := match s.tile? r.op, s.engine? r.op with
      | some o, _ => o.core
      | none, some o => o.core
      | none, none => Config.firstCore die
    let s1 := s.modDie die (fun d => { d with credits := d.credits - r.cost, leaves := rest })
    let s2 := (s1.modTile r.op (fun o => { o with leave := false })).modEngine r.op (fun o => { o with leave := false })
    event ok (s2.modCore core (fun c => { c with leaveWait := c.leaveWait + (s.clock - r.since) }))

/-- `POWER_CREDIT_REFILL`: PWRCAP ÷ 8 credits every 1,024 clocks, up to 4,096 (spec 18, R374). -/
def execPowerCreditRefill (die : Nat) (s : State) : Out :=
  let d := s.die die
  event (die < 8 && d.refilled + 1024 ≤ s.clock)
    (s.modDie die (fun d => { d with credits := min bucketMax (d.credits + d.pwrcap.toNat / 8), refilled := d.refilled + 1024 }))

end Sys2Proof.Machine
end

