-- ==== Sys2Proof/Machine/Engine.lean ====
section
/-! DEFINITION. The copy engine: `cpy`, `cpy.lw`, `cpy.ring`, `cpyg`, `cpyb` (opcode 0x28), what an engine does in a move of its
own, and the events SOURCE_RANGE_RELEASED to ENGINE_STOP and COPY_RESTART_TIMEOUT (spec 07, R183 to R188; 08, R211 to R222; 10,
R281, R287). -/

namespace Sys2Proof.Machine

/-! Arrival entries (spec 09, R243, R245; 14, R329). -/

/-- The entry a world takes of the 65,536: one of its own reservation, or a shared one (spec 14, R329). -/
def State.arrivalSlot (s : State) (world : Nat) : Option Bool :=
  let own (w : Nat) : Nat := (s.iod.arrivals.filter (fun a => a.own && a.world == w)).length
  s.takeSlot 65536 world (fun w => w.acquota.toNat) own (s.iod.arrivals.filter (fun a => !a.own)).length

/-- An arrival entry that the world may take is free. -/
def State.arrivalRoom (s : State) (world : Nat) : Bool :=
  (s.arrivalSlot world).isSome

/-- The entry the IOD chooses, among those that are free. -/
def State.freeEntry (s : State) : Nat :=
  let used := s.iod.arrivals.map (·.entry)
  let x := (Config.arrivalEntry s.draws).toNat
  let n := (List.range (used.length + 1)).find? (fun i => !used.contains ((x + i) % 65536))
  (x + n.getD 0) % 65536

/-- The gang's arrival entry, allocated at its first need; none while the group must be held. -/
def State.arrivalFor (s : State) (gang : Gang) : Option (Nat × State) :=
  match gang.arrival with
  | some n => some (n, s)
  | none =>
    match s.arrivalSlot gang.world with
    | none => none
    | some own =>
      let n := s.freeEntry
      let a : Arrival := ⟨n, gang.world, gang.id, List.replicate 16 0, List.replicate 16 0, own, []⟩
      let s := { s with iod := { s.iod with arrivals := s.iod.arrivals ++ [a] }, draws := s.draws + 1 }
      some (n, s.modGang gang.id (fun g => { g with arrival := some n }))

/-! Segments: the words an operation moves. -/

def Loc.addr : Loc → Nat
  | .va a | .spad _ a => a

def Loc.add : Loc → Nat → Loc
  | .va a, n => .va ((a + n) % 2 ^ 56)
  | .spad w a, n => .spad w ((a + n) % 2 ^ 24)

/-- Words of a segment, the last one perhaps short. -/
def Seg.words (g : Seg) : Nat := (g.len + 3) / 4

/-- A segment without its first words, and its first words alone. -/
def Seg.after (g : Seg) (k : Nat) : Seg := ⟨g.src.add (4 * k), g.dst.add (4 * k), g.len - 4 * k⟩
def Seg.upto (g : Seg) (k : Nat) : Seg := ⟨g.src, g.dst, min g.len (4 * k)⟩

/-- The aligned word a byte lies in, and its place there. -/
def Loc.word : Loc → Loc
  | .va a => .va (a / 4 * 4)
  | .spad w a => .spad w (a / 4 * 4)
def Loc.inWord : Loc → Nat
  | .va a | .spad _ a => a % 4

/-- A piece cut where its destination passes from one aligned word to the next. -/
def Seg.cut (g : Seg) : List Seg :=
  let k := 4 - g.dst.inWord
  if g.len ≤ k then [g] else [⟨g.src, g.dst, k⟩, ⟨g.src.add k, g.dst.add k, g.len - k⟩]

/-- Word by word: no piece lies in two words of the source, nor of the destination (spec 08, R214). -/
def Seg.each (g : Seg) : List Seg := (List.range g.words).flatMap (fun i => ((g.after i).upto 1).cut)

/-- The first words of some segments, and what is left. -/
def splitSegs : Nat → List Seg → List Seg × List Seg
  | _, [] => ([], [])
  | n, g :: r =>
    if n == 0 then ([], g :: r)
    else if g.words ≤ n then
      let p := splitSegs (n - g.words) r
      (g :: p.1, p.2)
    else ([g.upto n], g.after n :: r)

/-- Where segments read and where they write. -/
def segFrom (gs : List Seg) : List (Loc × Nat) := gs.map (fun g => (g.src, g.len))
def segTo (gs : List Seg) : List (Loc × Nat) := gs.map (fun g => (g.dst, g.len))

/-- First and end of global ranges. -/
def vaBounds (locs : List (Loc × Nat)) : Nat × Nat :=
  locs.foldl (fun (r : Nat × Nat) x =>
    match x.1 with
    | .va a => if r.1 == r.2 then (a, a + x.2) else (min r.1 a, max r.2 (a + x.2))
    | .spad .. => r) (0, 0)

/-- Registers the bounding range of some places (spec 07, R183). -/
def State.lockLocs (s : State) (owner world die : Nat) (locs : List (Loc × Nat)) (dst : Bool) : State :=
  match locs with
  | [] => s
  | (.va _, _) :: _ => let b := vaBounds locs; s.addLock owner world false die b.1 b.2 dst
  | (.spad wg _, _) :: _ => let b := spadBounds locs wg; s.addLock owner world true wg b.1 b.2 dst

/-- Physical ranges of a place, by 4 KiB granule, as far as they are mapped (spec 14, R321). -/
def State.locKeys (s : State) (place world : Nat) : Loc × Nat → List (Nat × Nat)
  | (.spad w a, n) => [(spadKey w a, n)]
  | (.va a, n) =>
    if n == 0 then []
    else (List.range ((a + n - 1) / 4096 + 1 - a / 4096)).filterMap (fun i =>
      let lo := max a ((a / 4096 + i) * 4096)
      let hi := min (a + n) ((a / 4096 + i + 1) * 4096)
      match s.translate place world lo with | .ok t => some (t.key, hi - lo) | .error _ => none)

/-! Issue (spec 08, R211; 02, R52). -/

/-- Bytes of an operation. -/
def segBytes (gs : List Seg) : Nat := (gs.map (·.len)).foldl (· + ·) 0

/-- What an engine operation is issued with. -/
structure Order where
  kind : EngineKind
  segs : List Seg
  bytes : Nat
  landing : Bool := false
  /-- the destination is registered at issue -/
  lockDst : Bool := true
  /-- destinations beside the segments' own -/
  dsts : List (List (Loc × Nat)) := []
  /-- places read or written that the matrices order (R182 note a) -/
  cls : Cls := .copy
  deriving Repr

/-- An operation writes global memory outside greenware pages. A leaf with V = 0 has its G bit (spec 14, R316). DESIGN CHOICE
(assumption 67): a page without a leaf counts as one; spec 15, R354 counts what is in flight, and such a page has no G bit yet. -/
def State.copiesOut (s : State) (e : Env) (locs : List (Loc × Nat)) : Bool :=
  locs.any (fun x => match x.1 with
    | .va a => x.2 != 0 && (List.range ((a + x.2 - 1) / 65536 + 1 - a / 65536)).any (fun i =>
        match s.translate e.g.core e.gang.world ((a / 65536 + i) * 65536) with
        | .ok t => !pteGreen t.leaf.pte
        | .error (.absent _ green) => !green
        | .error _ => false)
    | .spad .. => false)

/-- Hands an operation to the core's engine: ranges are registered, cp rises in the issuing threads. -/
def State.addEngine (s : State) (e : Env) (ts : List Nat) (o : Order) : State :=
  let die := Config.dieOfCore e.g.core
  let iaddr := s.iaddr e
  let lead := s.thread e.w.id e.g.leader
  let first := ts.foldl min (ts.headD 0)
  let leave := decide (8192 ≤ o.bytes)
  let (id, s) := s.fresh
  let from' := (match o.kind with | .bins _ rows w _ => rows.map (fun r => (r.2, w)) | _ => segFrom o.segs)
  let places := from' ++ segTo o.segs ++ o.dsts.flatMap (fun l => l)
  let info : OpInfo :=
    { cls := o.cls, scope := 0, acq := false, rel := false, bytes := places.flatMap (s.locKeys e.g.core e.gang.world)
      reads := true, writes := true, space := none }
  let deps := dedup (ts.flatMap (fun t => s.depsOf e.w.id t info))
  let op : EngineOp :=
    { id, wg := e.w.id, gang := e.gang.id, launch := e.l.id, world := e.gang.world, core := e.g.core, die, tids := ts, iaddr
      kind := o.kind, segs := o.segs, todo := o.segs, buf := [], rows := o.kind.rows, skip := [], bytes := o.bytes
      stage := .queued, leave, landing := if o.landing then lead.owed.head? else none
      version := verNum e.l (s.thread e.w.id first).sub, haltAt := 0, sent := 0, acked := 0, awaits := [], deps }
  let s := { s with engines := s.engines ++ [op] }
  let s := if s.copiesOut e (segTo o.segs ++ o.dsts.flatMap (fun l => l) ++
    (match o.kind with | .bins table .. => [(.va table, 4096)] | _ => [])) then s.acts e else s
  let s := s.lockLocs id e.gang.world die from' false
  let s := if o.lockDst then s.lockLocs id e.gang.world die (segTo o.segs) true else s
  let s := o.dsts.foldl (fun s l => s.lockLocs id e.gang.world die l true) s
  let s := if leave then s.askLeave die id ((o.bytes + 8191) / 8192) false else s
  s.modThreads e.w.id ts (fun t => { t with cp := t.cp + 1 })

/-- The lowest code of some conditions, each with its data address and whether it is a write. -/
def lowestTrap (cs : List (Nat × Nat × Bool)) : Option (Nat × Nat × Bool) :=
  cs.foldl (fun b c => match b with | none => some c | some x => if c.1 < x.1 then some c else b) none

/-- Threads outside the producer home group (spec 02, R52). -/
def rightsTrap (e : Env) (ts : List Nat) : List (Nat × Nat × Bool) :=
  if ts.any (fun t => hgrpOf t != e.l.producer) then [(0x11, 0, false)] else []

/-- A copy recorded for restart whose gang is saved: no core's engine has it (spec 10, R287, R288). -/
def State.recorded (s : State) (o : EngineOp) : Bool :=
  (o.stage == .halted || o.stage == .stopped) && o.restarts && (s.gang? o.gang).any (fun g => g.status == .saved)

/-- The queue of a core's engine is full (spec 08, R211). -/
def State.engineFull (s : State) (core : Nat) : Bool :=
  Config.engineQueue ≤ (s.engines.filter (fun o => o.core == core && !s.recorded o)).length

/-- A copy-engine instruction: its conditions, the queue, then its effect (spec 08, R211). -/
def copyOp (g : Guard) (i : Instr) (s : State) (conds : Env → List (Nat × Nat × Bool)) (body : Env → List Nat → Out) : Out :=
  groupOp g i s (fun e ts =>
    match lowestTrap (rightsTrap e ts ++ conds e) with
    | some (code, va, wr) => .next (s.takeTrap e { code, daddr := va, wr })
    | none => if s.engineFull e.g.core then .next (s.hold e) else body e ts)

/-- A scratchpad side of `n` bytes: its place, and SPAD_RANGE and ALIGN (spec 02, R48; 08, R214). -/
def State.spadSide (s : State) (e : Env) (base idx : BitVec 9) (gangSpace : Bool) (n align : Nat) (wr : Bool) :
    Loc × List (Nat × Nat × Bool) :=
  let a := ((e.s base).toNat % 2 ^ 24 + (e.s idx).toNat) % 2 ^ 24
  match s.space e gangSpace (e.s base) with
  | none => (.spad e.w.id a, [(0x20, a, wr)])
  | some w =>
    (.spad w.id a, (if e.l.spad < a + n && n != 0 then [(0x20, a, wr)] else []) ++ (if a % align != 0 then [(0x24, a, wr)] else []))

/-- A global side: its place, and ALIGN. -/
def Env.globalSide (e : Env) (base idx : BitVec 9) (align : Nat) (wr : Bool) : Loc × List (Nat × Nat × Bool) :=
  let a := (e.pair base + (e.s idx).toNat) % 2 ^ 56
  (.va a, if a % align != 0 then [(0x24, a, wr)] else [])

/-- Both sides of `cpy` (spec 08, R213, R214). -/
def State.cpySides (s : State) (e : Env) (f : FMC) : (Loc × List (Nat × Nat × Bool)) × (Loc × List (Nat × Nat × Bool)) :=
  let n := f.cl.toNat / 16 * 64
  (if cpyDir f == 0 || cpyDir f == 3 then s.spadSide e f.f1 f.f2 (f.cl.getLsbD 2) n 4 true else e.globalSide f.f1 f.f2 4 true,
   if cpyDir f == 1 || cpyDir f == 3 then s.spadSide e f.f3 f.f4 false n 4 false else e.globalSide f.f3 f.f4 4 false)

def execCpy (g : Guard) (f : FMC) (s : State) : Out :=
  copyOp g (.cpy g f) s (fun e => (s.cpySides e f).1.2 ++ (s.cpySides e f).2.2) (fun e ts =>
    let n := f.cl.toNat / 16 * 64
    let segs : List Seg := [⟨(s.cpySides e f).2.1, (s.cpySides e f).1.1, n⟩]
    (s.addEngine e ts { kind := .copy, segs, bytes := n, landing := cpyDir f == 0 || cpyDir f == 3 }).done e)

/-- The tile of `cpy.lw`: the layout word, G and the pitch (spec 08, R215). -/
def Env.lwSides (e : Env) (f : FMC) : Layout × Nat × Nat :=
  if cpyDir f == 0 then (layoutOf (e.layoutNat f.f1), e.pair f.f3 % 2 ^ 56, (e.s f.f4).toNat)
  else (layoutOf (e.layoutNat f.f3), e.pair f.f1 % 2 ^ 56, (e.s f.f2).toNat)

/-- The scratchpad runs of an element at an unpermuted address, as global address, permuted address and length: an element that
crosses words is permuted byte by byte, so that no byte leaves its line (spec 03, R75). -/
def elemRuns (perm g u n : Nat) : List (Nat × Nat × Nat) :=
  if u % 4 + n ≤ 4 then [(g, permute perm u, n)]
  else (List.range n).map (fun j => ((g + j) % 2 ^ 56, permute perm ((u + j) % 2 ^ 24), 1))

/-- Its elements: global and scratchpad address, and length. -/
def lwElems (l : Layout) (base pitch : Nat) : List (Nat × Nat × Nat) :=
  (List.range 1024).flatMap (fun (k : Nat) =>
    let x := k % 32
    let y := k / 32
    elemRuns l.perm ((base + y * pitch + x * 2 ^ l.esize) % 2 ^ 56) (l.addr (x : Int) (y : Int) 0 0) (2 ^ l.esize))

/-- Conditions of `cpy.lw` (spec 08, R215). DESIGN CHOICE (assumption 67): a scratchpad element whose address is not a multiple of
the element size raises nothing, and its bytes are placed one by one; the rule says nothing of it. -/
def lwTraps (e : Env) (f : FMC) : List (Nat × Nat × Bool) :=
  let (l, base, pitch) := e.lwSides f
  if !l.ok || l.esize == 3 then [(0x01, 0, false)]
  else
    (if (lwElems l base pitch).any (fun x => e.l.spad < x.2.1 + x.2.2) then [(0x20, l.base, cpyDir f == 0)] else []) ++
    (if base % 2 ^ l.esize != 0 || pitch % 2 ^ l.esize != 0 then [(0x24, base, cpyDir f == 1)] else [])

def execCpyLw (g : Guard) (f : FMC) (s : State) : Out :=
  copyOp g (.cpyLw g f) s (fun e => lwTraps e f) (fun e ts =>
    let (l, base, pitch) := e.lwSides f
    let seg (x : Nat × Nat × Nat) : Seg :=
      if cpyDir f == 0 then ⟨.va x.1, .spad e.w.id x.2.1, x.2.2⟩ else ⟨.spad e.w.id x.2.1, .va x.1, x.2.2⟩
    let segs := (lwElems l base pitch).map seg
    (s.addEngine e ts { kind := .copy, segs, bytes := segBytes segs, landing := cpyDir f == 0 }).done e)

/-- The ring an instruction names (spec 08, R221). -/
def Env.ring (e : Env) (f : FMC) : Option Ring := e.w.rings[f.cl.toNat % 8]?

def ringTraps (e : Env) (f : FMC) : List (Nat × Nat × Bool) :=
  match e.ring f with
  | none => [(0x01, 0, false)]
  | some r =>
    (if r.bytes < f.cl.toNat / 16 * 64 || e.s f.f1 != r.i then [(0x01, 0, false)] else []) ++ (e.globalSide f.f2 f.f3 4 false).2

/-- `cpy.ring`: the copy of the next sequence (spec 08, R222). -/
def execCpyRing (g : Guard) (f : FMC) (s : State) : Out :=
  copyOp g (.cpyRing g f) s (fun e => ringTraps e f) (fun e ts =>
    match e.ring f with
    | none => s.done e
    | some r =>
      let k := f.cl.toNat % 8
      let n := f.cl.toNat / 16 * 64
      let slot := r.base + r.i.toNat % r.depth * r.bytes
      let segs : List Seg := [⟨(e.globalSide f.f2 f.f3 4 false).1, .spad e.w.id slot, n⟩]
      let s := s.modWg e.w.id (fun w => { w with rings := listSet w.rings k { r with i := r.i + 1 } })
      let s := s.addEngine e ts { kind := .ring k r.i, segs, bytes := n, lockDst := false }
      (s.registerSlots e.w.id).done e)

/-! Reading an array of own scratchpad at issue (spec 08, R216, R218). -/

/-- Holds, or parks for backing, until an own-scratchpad array can be read; then goes on in the state after the touch. -/
def State.readArray (s : State) (e : Env) (ts : List Nat) (a n : Nat) (go : State → Out) : Out :=
  let info : OpInfo := ⟨.copy, 0, false, false, [(spadKey e.w.id a, n)], true, false, none⟩
  if !ts.all (fun t => s.depsMet (s.depsOf e.w.id t info)) then .next (s.hold e)
  else match s.touchPages false ((pagesOf a n).map (fun p => (e.w, p))) with
    | .wait => .next (s.hold e)
    | .backing p =>
      .next ((s.pushRecord e.gang.world (s.record e 0x50 (p * 1024) ts)).park e e.g.members (.backing p)).progress
    | .ready s => go s

/-- `n` bytes of own scratchpad. -/
def State.spadNat (s : State) (e : Env) (a n : Nat) : Nat := memNat s.mem (spadKey e.w.id a) n

/-- Conditions of `cpyg` (spec 08, R216): they name no alignment of the destination, and the model checks none (assumption 69). -/
def cpygTraps (s : State) (e : Env) (f : FMC) : List (Nat × Nat × Bool) :=
  let m := (e.s f.f4).toNat
  let x := (e.s f.f3).toNat % 2 ^ 24
  let w := f.cl.toNat / 16 * 64
  (s.spadSide e f.f1 511 (f.cl.getLsbD 2) (m * w) 1 true).2 ++
  (if m != 0 && e.l.spad < x + 4 * m then [(0x20, x, false)] else []) ++
  (if x % 4 != 0 then [(0x24, x, false)] else []) ++ (e.globalSide f.f2 511 4 false).2

/-- `cpyg`: gathers rows (spec 08, R216). -/
def execCpyg (g : Guard) (f : FMC) (s : State) : Out :=
  copyOp g (.cpyg g f) s (fun e => cpygTraps s e f) (fun e ts =>
    let m := (e.s f.f4).toNat
    let x := (e.s f.f3).toNat % 2 ^ 24
    let w := f.cl.toNat / 16 * 64
    if m == 0 then s.done e
    else s.readArray e ts x (4 * m) (fun s =>
      let base := e.pair f.f2 % 2 ^ 56
      let dst := (s.spadSide e f.f1 511 (f.cl.getLsbD 2) (m * w) 1 true).1
      let segs := (List.range m).map (fun i => (⟨.va ((base + s.spadNat e (x + 4 * i) 4 * w) % 2 ^ 56), dst.add (i * w), w⟩ : Seg))
      (s.addEngine e ts { kind := .gather, segs, bytes := m * w, landing := true }).done e))

/-! `cpyb` (spec 08, R217 to R219). -/

/-- Conditions of `cpyb` (spec 08, R211, R217). DESIGN CHOICE (assumption 69): a token source that is not a multiple of 4 takes ALIGN, as
both sides of a `cpy` do; R217 gives ALIGN for B alone. -/
def cpybTraps (s : State) (e : Env) (f : FMC) : List (Nat × Nat × Bool) :=
  let m := (e.s f.f4).toNat
  let x := (e.s f.f3).toNat % 2 ^ 24
  let w := f.cl.toNat / 16 * 64
  (if f.cl.getLsbD 0 then (e.globalSide f.f1 511 4 false).2 else (s.spadSide e f.f1 511 false (m * w) 4 false).2) ++
  (if m != 0 && e.l.spad < x + m then [(0x20, x, false)] else []) ++ (e.globalSide f.f2 511 16 false).2

/-- A bin's BASE and CAP, read where the table is mapped. -/
def State.binEntry (s : State) (e : Env) (table b : Nat) : Cond × Nat × Nat × Nat :=
  let a := (table + 16 * b) % 2 ^ 56
  match s.permit e.g.core e.gang.world (Config.dieOfCore e.g.core) a .read with
  | (c, some t) =>
    let c := if s.errs t.key then c.and (.trap 0x25 a) else c
    (c, b, s.engineNat e.l e.g.core t.key (pteGreen t.leaf.pte) 8 % 2 ^ 56, s.engineNat e.l e.g.core (t.key + 8) (pteGreen t.leaf.pte) 4)
  | (c, none) => (c, b, 0, 0)

/-- The reading of a bin's BASE and CAP is noted for the operation's version (spec 15, R347). -/
def State.noteBin (s : State) (e : Env) (ts : List Nat) (table b : Nat) : State :=
  match s.permit e.g.core e.gang.world (Config.dieOfCore e.g.core) ((table + 16 * b) % 2 ^ 56) .read with
  | (_, some t) => [0, 4, 8].foldl (fun s i => s.noteFor e [ts.foldl min (ts.headD 0)] (t.key + i) (pteGreen t.leaf.pte)) s
  | (_, none) => s

/-- A bin of the table lies on another chip that nothing answers yet (spec 09, R235; 14, R333). -/
def State.binAway (s : State) (e : Env) (table b : Nat) : Bool :=
  match s.permit e.g.core e.gang.world (Config.dieOfCore e.g.core) ((table + 16 * b) % 2 ^ 56) .read with
  | (_, some t) => s.uncrossed t.key
  | (_, none) => false

/-- Records the pages of the bin table that are not resident, each once while the instruction waits (spec 08, R212). -/
def State.recordBins (s : State) (e : Env) (ts : List Nat) (ps : List (Nat × Nat)) : State :=
  let new := (pageReps ps).filter (fun p => !e.g.noted.any (fun q => q.2 == p.2 && q.1 / 2 ^ p.2 == p.1 / 2 ^ p.2))
  (s.recordPages e.gang.world { s.record e 0x30 0 ts with eng := true } new).modGroup e.g.id (fun g => { g with noted := g.noted ++ new })

/-- `cpyb`: the bin numbers and the bins' BASE and CAP, bin 255's among them, are read at issue; a page of the table that is not
resident is recorded and waited for, and one that is denied stops the operation (spec 08, R212, R218, R219). -/
def execCpyb (g : Guard) (f : FMC) (s : State) : Out :=
  copyOp g (.cpyb g f) s (fun e => cpybTraps s e f) (fun e ts =>
    let m := (e.s f.f4).toNat
    let x := (e.s f.f3).toNat % 2 ^ 24
    let w := f.cl.toNat / 16 * 64
    let table := e.pair f.f2 % 2 ^ 56
    s.readArray e ts x m (fun s1 =>
      let bins := (List.range m).map (fun i => s1.spadNat e (x + i) 1)
      let caps := (dedup (bins ++ [255])).map (s1.binEntry e table)
      let c := caps.foldl (fun (c : Cond) k => c.and k.1) {}
      match c.absent, worst [(0, c)], c.pages with
      | some k, _, _ => .fault (.absentDram k)
      | none, some (code, va, mal), _ => .next (s.takeTrap e { code, daddr := va, mal, eng := true })
      | none, none, _ :: _ => .next ((s.recordBins e ts c.pages).hold e)
      | none, none, [] =>
        match (if (bins ++ [255]).any (s1.binAway e table) then none else s1.arrivalFor e.gang) with
        | none => .next (s.hold e)
        | some (_, s2) =>
          let s2 := ((dedup (bins ++ [255])).foldl (fun s b => s.noteBin e ts table b) s2).modGroup e.g.id (fun g => { g with noted := [] })
          if m == 0 then s2.done e
          else
          let src : Loc := if f.cl.getLsbD 0 then (e.globalSide f.f1 511 4 false).1 else (s2.spadSide e f.f1 511 false (m * w) 4 false).1
          let rows := (bins.zip (List.range m)).map (fun b => (b.1, src.add (b.2 * w)))
          let dsts := caps.map (fun k => [(Loc.va k.2.2.1, k.2.2.2 * w)])
          (s2.addEngine e ts { kind := .bins table rows w (caps.map (·.2)), segs := [], bytes := m * w, dsts }).done e))

/-! What an operation meets as it goes (spec 08, R212). -/

inductive Met where
  | ok (key : Nat) (green : Bool)
  /-- an address in a page that is not resident, and log2 of the page -/
  | page (va bits : Nat) (wr : Bool)
  | deny (code va : Nat) (mal wr : Bool)
  /-- a word of a pending version that would leave the package: its key, and the version's world and number -/
  | await (word world : Nat) (num : Word)
  | wait
  | absent (key : Nat)
  deriving DecidableEq, Repr

/-- Scratchpad bytes as an operation reaches them: in their frame, or in the page's backing line while the page is out (spec 10,
R287; 14, R328). -/
def State.meetSpad (s : State) (a : Access) (w x : Nat) : Met :=
  match s.stt? w (x / 1024) with
  | none => .ok (spadKey w x) false
  | some p =>
    if p.present || (!p.backed && a == .read) then .ok (spadKey w x) false
    else if !p.backed then .wait
    else match s.backKey (s.worldOfWg w) p.bline with
      | some k => .ok (k + x % 1024) false
      | none => .wait

/-- The home of some bytes of one word, or what stands in the way: what an engine writes waits for the stores on their way to the word
that it must not overtake, and what lies on another chip for its answer (spec 07, R165; 09, R235; 14, R333). -/
def State.meetLoc (s : State) (o : EngineOp) (a : Access) : Loc → Met
  | .spad w x => s.meetSpad a w x
  | .va x =>
    match s.permit o.core o.world o.die x a with
    | (c, t) => match c.absent, worst [(0, c)], c.pages, t with
      | some k, _, _, _ => .absent k
      | none, some (code, va, mal), _, _ => .deny code va mal (a != .read)
      | none, none, (_, bits) :: _, _ => .page x bits (a != .read)
      | none, none, [], none => .wait
      | none, none, [], some t =>
        let line := match o.kind with | .bulk .. => true | _ => false
        if (if a == .write then s.refuses t.key else s.errs t.key) then .deny 0x25 x false (a != .read)
        else if !(line && a == .write) && (s.uncrossed t.key || (a != .read && s.wordBusy o.core t.key)) then .wait
        else if a != .read && pteGreen t.leaf.pte && s.fifth o.world o.version t.key then .wait
        else .ok t.key (pteGreen t.leaf.pte)

/-- The launch an operation belongs to. -/
def State.launchOfOp (s : State) (o : EngineOp) : Launch := (s.launch? o.launch).getD Launch.gone

/-- What an operation reads for a destination leaves the package, or what the destination meets (spec 15, R348). -/
def State.goesOut (s : State) (o : EngineOp) (dst : Loc) : Except Met Bool :=
  match o.kind with
  | .send eth dest _ _ => .ok (eth || dest != s.iod.chip.toNat)
  | .bulk 0 .. | .copy | .ring .. | .gather | .bins .. =>
    match s.meetLoc o .write dst with
    | .ok k _ => .ok (isHost k || isPeer k)
    | m => .error m
  | .bulk .. => .ok true

/-- Where a word is read. A word of a pending version that would leave the package waits until the version fires, and then the
fired contents are read, as one that a store of the cluster is still on its way to waits for the store; if the version is discarded the
operation stops with POISON (spec 02, R49; 15, R341, R347, R348). -/
def State.meetRead (s : State) (l : Launch) (o : EngineOp) (g : Seg) : Met :=
  match s.meetLoc o .read g.src with
  | .ok key true =>
    let word := wordOf key
    let moving := (List.range 4).any (fun i => (s.transit l o.core (word + i)).isSome)
    match moving, s.supplier l word, o.awaits.find? (fun a => a.1 == word) with
    | false, none, none => .ok key true
    | moving, v, a => match s.goesOut o g.dst, moving, a, v with
      | .error m, _, _, _ => m
      | .ok false, _, _, _ => .ok key true
      | .ok true, true, _, _ => .wait
      | .ok true, false, some (_, w, n), _ =>
        if s.dropped w n then .deny 0x25 g.src.addr false false
        else if (s.version? w n).isSome then .wait
        else .ok key false
      | .ok true, false, none, some v => .await word v.world v.num
      | .ok true, false, none, none => .ok key false
  | m => m

/-- The translation an engine has used comes into the TLBs (spec 14, R318). -/
def State.fillLoc (s : State) (o : EngineOp) : Loc → State
  | .va a => s.tlbFill o.core o.world (a % 2 ^ 56)
  | .spad .. => s

/-- Reads words in order, under the stores of the cluster that have passed its crossbar, until one is not there: what was read for each
destination, and what is left (spec 07, R163, R164). -/
def State.readWords (s : State) (l : Launch) (o : EngineOp) : List Seg → State × List (Loc × List Byte) × List Seg × Option Met
  | [] => (s, [], [], none)
  | g :: r =>
    match s.meetRead l o g with
    | .ok key green =>
      let bytes := natLe g.len (s.engineNat l o.core key green g.len)
      let s := if green then s.noteLoad l o.core o.version (wordOf key) else s
      let s := s.fillLoc o g.src
      let x := s.readWords l o r
      (x.1, (g.dst, bytes) :: x.2.1, x.2.2)
    | m => (s, [], g :: r, some m)

/-- Two places share a byte. -/
def locMeets (a : Loc) (n : Nat) (b : Loc) (m : Nat) : Bool :=
  match a, b with
  | .va x, .va y => meets x (x + n) y (y + m)
  | .spad v x, .spad w y => v == w && meets x (x + n) y (y + m)
  | _, _ => false

/-- Earlier operations of the same producer group and engine write these bytes no more (spec 07, R188). -/
def State.overtake (s : State) (o : EngineOp) (dst : Loc) (n key : Nat) : State :=
  let hit (x : EngineOp) : Bool := x.wg == o.wg && x.core == o.core && x.id < o.id &&
    ((segTo x.segs).any (fun y => locMeets dst n y.1 y.2) || (match x.kind with | .bins .. => true | _ => false))
  { s with engines := mapIf hit (fun x => { x with skip := x.skip ++ (List.range n).map (key + ·) }) s.engines }

/-- An element an engine writes at its home, past the cluster's L1s. -/
def State.engineElem (s : State) (l : Launch) (o : EngineOp) (x : Elem) : State :=
  if x.key < keySpad && !x.green && l.shadowOf.isNone then
    ((s.passElem l o.core [x] x).writeElem l o.version o.core x).modLaunch l.id (fun l => { l with acted := true })
  else s.writeElem l o.version o.core x

/-- Bytes of one word written. -/
def State.putWord (s : State) (l : Launch) (o : EngineOp) (dst : Loc) (key : Nat) (green : Bool) (bytes : List Byte) : State :=
  let n := bytes.length
  let s := s.overtake o dst n key
  if !o.skip.any (fun k => key ≤ k && k < key + n) then
    s.engineElem l o ⟨0, key, n, BitVec.ofNat 32 (leNat bytes), 255, green, none⟩
  else
    (bytes.zip (List.range n)).foldl (fun s b =>
      if o.skip.contains (key + b.2) then s else s.engineElem l o ⟨0, key + b.2, 1, b.1.setWidth 32, 255, green, none⟩) s

/-- This chip's number. -/
def State.me (s : State) : Nat := s.iod.chip.toNat

/-- A chip the routing table can reach (spec 09, R229, R230). -/
def State.reachable (s : State) (chip : Nat) : Bool :=
  chip == s.me ||
  (let e := tabGet 0 chip s.iod.routing
   e.getLsbD 63 && e.extractLsb' 42 21 == 0 && e.extractLsb' 0 32 != 0)

/-- A collective group that a world may use for a kind of operation (spec 09, R237). DESIGN CHOICE (assumption 69): a group of the other
kind is none, and a `bulk` that names it takes PROT as for an absent one; R237 speaks of an absent group and of another world's. -/
def State.collGroup (s : State) (world n : Nat) (reduction : Bool) : Option CollGroup :=
  match assoc n s.iod.coll with
  | some g => if g.valid && g.world == world && g.reduction == reduction then some g else none
  | none => none

/-- A line of a bulk transfer sets out for a chip. -/
def State.sendBulk (s : State) (x : BulkLine) : State :=
  let (id, s) := s.fresh
  { s with iod := { s.iod with bulk := s.iod.bulk ++ [{ x with id }] } }

/-- The line of a unicast or multicast that goes out. -/
def bulkOut (o : EngineOp) (dst : Loc) (bytes : List Byte) (count : Bool) (handle : Word) (chip src : Nat) : BulkLine :=
  { id := 0, world := o.world, dst := chip, va := dst.addr, key := none, green := false
    data := bytes, count, handle, group := none, op := some o.id, src, owner := none, last := false }

/-- One word, or the line of a bulk transfer, written where the operation's kind puts it (spec 08, R214; 09, R238, R241). -/
def State.writeWord (s : State) (l : Launch) (o : EngineOp) (dst : Loc) (bytes : List Byte) : State ⊕ Met :=
  let me := s.iod.chip.toNat
  match o.kind with
  | .bulk 0 _ count handle _ _ =>
    match s.meetLoc o .write dst with
    | .ok key green =>
      let s := s.fillLoc o dst
      let chip := if isPeer key then keyChip key else me
      let s := s.sendBulk { bulkOut o dst bytes count handle chip me with key := some key, green := green }
      .inl (s.modEngine o.id (fun o => { o with sent := o.sent + 1 }))
    | m => .inr m
  | .bulk _ _ count handle group _ =>
    match s.collGroup o.world group false with
    | none => .inr (.deny 0x23 dst.addr false true)
    | some g =>
      let dests := g.chips.filter (· != me)
      if !dests.all s.reachable then .inr (.deny 0x25 dst.addr false true)
      else
      let s := dests.foldl (fun s c => s.sendBulk { bulkOut o dst bytes count handle c me with group := some group }) s
      .inl (s.modEngine o.id (fun o => { o with sent := o.sent + dests.length }))
  | _ =>
    match s.meetLoc o .write dst with
    | .ok key green => .inl ((s.fillLoc o dst).putWord l o dst key green bytes)
    | m => .inr m

/-- Writes words in order, until one cannot be: what is left. -/
def State.writeWords (s : State) (l : Launch) (op : Nat) : List (Loc × List Byte) → State × List (Loc × List Byte) × Option Met
  | [] => (s, [], none)
  | b :: r =>
    match s.engine? op with
    | none => (s, b :: r, none)
    | some o => match s.writeWord l o b.1 b.2 with
      | .inl s => s.writeWords l op r
      | .inr m => (s, b :: r, some m)

/-- Lines of a bulk transfer, by destination address. -/
def bufLines (buf : List (Loc × List Byte)) : List Nat :=
  dedup (buf.filterMap (fun b => match b.1 with | .va a => some (a / 128) | .spad .. => none))

/-- The words of a line that have been read, by address. -/
def lineWords (buf : List (Loc × List Byte)) (line : Nat) : List (Loc × List Byte) :=
  (List.range 32).filterMap (fun i => buf.find? (fun b => b.1 == .va (line * 128 + 4 * i)))

/-- Bytes an operation has for a destination line. -/
def EngineOp.lineBytes (o : EngineOp) (line : Nat) : Nat :=
  o.segs.foldl (fun n g => match g.dst with
    | .va a =>
      let part (x : Nat) : Nat := min (a + g.len) (x + 128) - max a x
      n + part (line * 128) + part (line * 128 + 2 ^ 56)
    | .spad .. => n) 0

/-- The lines of a unicast or multicast that have been read whole. -/
def EngineOp.wholeLines (o : EngineOp) : List Nat :=
  (bufLines o.buf).filter (fun n => 4 * (lineWords o.buf n).length == o.lineBytes n)

/-- Sends lines that have been read whole, until one cannot go: the words that are left (spec 09, R231, R242). -/
def State.sendLines (s : State) (l : Launch) (op : Nat) : List Nat → List (Loc × List Byte) → State × List (Loc × List Byte) × Option Met
  | [], buf => (s, buf, none)
  | n :: r, buf =>
    let ws := lineWords buf n
    match s.engine? op, ws with
    | some o, w :: _ => match s.writeWord l o w.1 (ws.flatMap (·.2)) with
      | .inl s => s.sendLines l op r (buf.filter (fun b => !ws.contains b))
      | .inr m => (s, buf, some m)
    | _, _ => s.sendLines l op r buf

/-- Lines a reduction has read whole are sent (spec 09, R239). -/
def State.sendReduction (s : State) (o : EngineOp) (code : BitVec 4) (group turn : Nat) (count : Bool) :
    Nat → List (Loc × List Byte) → State × List (Loc × List Byte)
  | 0, buf => (s, buf)
  | n + 1, buf =>
    if buf.length < 32 then (s, buf)
    else
      let data := (buf.take 32).flatMap (·.2)
      let va := match buf with | (.va a, _) :: _ => a | _ => 0
      let x : RedLine := ⟨group, turn, (match s.engine? o.id with | some o => o.sent | none => 0), o.world, o.id, code, va, count, data⟩
      let s := { s with iod := { s.iod with red := s.iod.red ++ [x] } }
      (s.modEngine o.id (fun o => { o with sent := o.sent + 1 })).sendReduction o code group turn count n (buf.drop 32)

/-! Records, stops and waits (spec 08, R212). -/

/-- A fault record of an engine operation. -/
def State.engineRecord (s : State) (o : EngineOp) (code va : Nat) (wr mal : Bool) : FaultRec :=
  { FaultRec.none with
    daddr := BitVec.ofNat 56 va, iaddr := o.iaddr, lanes := laneMask o.tids, lctr := BitVec.ofNat 16 (s.launchOfOp o).lctr
    core := BitVec.ofNat 10 o.core, hgrp := BitVec.ofNat 8 (hgrpOf (o.tids.headD 0)), eng := true, wr, mal
    code := BitVec.ofNat 8 code }

/-- Where an operation reads. -/
def EngineOp.sources (o : EngineOp) : List (Loc × Nat) :=
  match o.kind with | .bins _ rows w _ => rows.map (fun r => (r.2, w)) | _ => segFrom o.segs

/-- An operation that will start again from its first byte has its source range registered (spec 08, R212; 07, R190). -/
def State.relock (s : State) (o : EngineOp) : State :=
  if s.locks.any (fun k => k.owner == o.id && !k.dst) then s else s.lockLocs o.id o.world o.die o.sources false

/-- The operation stops at once and its gang halts as at a trap; a gang that is halted or saved already stays so, and waits for
the driver too (spec 08, R212). -/
def State.engineStop (s : State) (o : EngineOp) (code va : Nat) (mal wr : Bool) : State :=
  let s := (s.pushRecord o.world (s.engineRecord o code va wr mal)).relock o
  let s := s.driverStop o.gang
  let s := { s with iod := { s.iod with
    bulk := s.iod.bulk.filter (fun x => x.op != some o.id), red := s.iod.red.filter (fun x => x.op != o.id) } }
  s.modEngine o.id (fun o => { o with stage := .stopped })

/-- What follows from what an operation met. -/
def State.engineMeets (s : State) (o : EngineOp) : Met → Out
  | .page va bits wr =>
    let r := s.engineRecord o 0x30 0 wr false
    .next ((s.recordPages o.world r [(va, bits)]).modEngine o.id (fun o => { o with stage := .waitPage va }))
  | .deny code va mal wr => .next (s.engineStop o code va mal wr)
  | .await word world num => .next (s.modEngine o.id (fun o => { o with awaits := o.awaits ++ [(word, world, num)] }))
  | .absent k => .fault (.absentDram k)
  | _ => .next s

/-- Outcome of making a bump. -/
inductive Bumped where
  | count (s : State) (old : Nat)
  | met (m : Met)

/-- Adds 1 to a bin's COUNT at its home, of a table in host memory as the host's FetchAdd (spec 08, R207, R218). -/
def State.bump (s : State) (l : Launch) (o : EngineOp) (table b : Nat) : Bumped :=
  let a := (table + 16 * b + 12) % 2 ^ 56
  match s.meetLoc o .atomic (.va a) with
  | .ok key green =>
    let old := if isHost key then s.hostWord key else s.keptNat l key green 4
    let new : Word := BitVec.ofNat 32 (old + 1)
    let s := s.fillLoc o (.va a)
    let s := if green then s.noteRead l o.version (wordOf key) else s
    .count (if isHost key && l.shadowOf.isNone then (s.putHostWord key new.toNat).modLaunch l.id (fun l => { l with acted := true })
      else s.engineElem l o ⟨a, key, 4, new, 255, green, none⟩) old
  | m => .met m

/-- BASE and CAP of a bin as read at issue. -/
def binCap (caps : List (Nat × Nat × Nat)) (b : Nat) : Nat × Nat := (assoc b caps).getD (0, 0)

/-- The token of one row gets its place, or none (spec 08, R218). The second bump of an overflowing token waits with the row
turned over to bin 255. -/
def State.placeRow (s : State) (l : Launch) (o : EngineOp) (table w : Nat) (caps : List (Nat × Nat × Nat)) (n : Nat) : Out :=
  match o.rows[n]? with
  | none => .next s
  | some (b, src) =>
    match s.bump l o table b with
    | .met m => s.engineMeets o m
    | .count s old =>
      let rest := o.rows.eraseIdx n
      let (base, cap) := binCap caps b
      if old < cap then
        let g : Seg := ⟨src, .va ((base + old * w) % 2 ^ 56), w⟩
        .next (s.modEngine o.id (fun o => { o with rows := rest, todo := o.todo ++ [g] }))
      else if b == 255 then .next (s.modEngine o.id (fun o => { o with rows := rest }))
      else .next (s.modEngine o.id (fun o => { o with rows := listSet o.rows n (255, src) }))

/-! Starting and going on (spec 08, R211, R222). -/

/-- Scratchpad pages an operation reads or writes, with their workgroups. -/
def State.opPages (s : State) (locs : List (Loc × Nat)) : List (Workgroup × Nat) :=
  locs.flatMap (fun x => match x.1 with
    | .spad wg a => (match s.wg? wg with | some w => (pagesOf a x.2).map (fun p => (w, p)) | none => [])
    | .va _ => [])

inductive Started where
  | yes (s : State)
  | no
  /-- it has its table entries, and does not start -/
  | entered (s : State)
  | backing (page : Nat)

/-- A range of an operation has no table entry yet. -/
def State.unentered (s : State) (op : Nat) : Bool := s.locks.any (fun k => k.owner == op && k.entry.isNone)

/-- An earlier operation of the engine that waits in its queue: those behind it wait too, but for a ring copy that has its entries
and waits for its slot (spec 07, R186; 08, R211, R222). -/
def State.queuedBefore (s : State) (o : EngineOp) : Bool :=
  s.engines.any (fun x => x.core == o.core && x.id < o.id && x.stage == .queued && (s.ringFree x || s.unentered x.id))

/-- Scratchpad pages an operation must have in their frames: none while its gang is saved, when it reaches them through their backing
lines (spec 10, R287). -/
def State.startPages (s : State) (o : EngineOp) (locs : List (Loc × Nat)) : List (Workgroup × Nat) :=
  match s.gang? o.gang with
  | some g => if g.status == .saved then [] else s.opPages locs
  | none => s.opPages locs

/-- An operation starts in its turn, when its entries, leave and pages are there and what the matrices keep before it is done. -/
def State.engineStart (s : State) (o : EngineOp) : Started :=
  if o.stage != .queued || s.queuedBefore o then .no
  else if o.leave || !s.ringFree o || !s.depsMet o.deps then
    (match s.takeEntries o.id with | some s => .entered s | none => .no)
  else
    match (s.registerSlots o.wg).takeEntries o.id with
    | none => .no
    | some s => match s.touchPages true (s.startPages o (segTo o.segs)) with
      | .wait => .no
      | .backing p => .backing p
      | .ready s =>
        match s.touchPages false (s.startPages o o.sources) with
        | .wait => .no
        | .backing p => .backing p
        | .ready s => .yes (s.modEngine o.id (fun o => { o with stage := .running }))

/-- A copy's 512 clocks after its gang's halt are over (spec 10, R287). -/
def State.overdue (s : State) (o : EngineOp) : Bool :=
  o.restarts && (match s.gang? o.gang with | some g => g.status != .running && o.haltAt + 512 < s.clock | none => false)

/-- The source is free once its last byte is read (spec 07, R185). -/
def State.freeSource (s : State) (op : Nat) : State :=
  match s.engine? op with
  | some o => if o.todo.isEmpty && o.rows.isEmpty then s.unlock op (fun k => !k.dst) else s
  | none => s

/-- The pieces that some chosen ones share a word with, and the others: a word moves whole (spec 08, R214; 07, R188). -/
def joinWords (loc : α → Loc) (len : α → Nat) (chosen rest : List α) : List α × List α :=
  let short := (chosen.filter (fun c => decide (len c < 4))).map (fun c => (loc c).word)
  if short.isEmpty then ([], rest) else rest.partition (fun r => decide (len r < 4) && short.contains (loc r).word)

/-- The rest of a buffered piece's word has been read too. -/
def EngineOp.wordRead (o : EngineOp) (b : Loc × List Byte) : Bool :=
  4 ≤ b.2.length || !o.todo.any (fun g => locMeets b.1.word 4 g.dst g.len)

/-- Words written from the buffer, each whole, lines of a bulk transfer whole. -/
def State.drainBuf (s : State) (l : Launch) (o : EngineOp) (skip n : Nat) : State × Option Met :=
  match o.kind with
  | .bulk 2 code count _ group turn =>
    let x := s.sendReduction o code group turn count o.buf.length o.buf
    (x.1.modEngine o.id (fun o => { o with buf := x.2 }), none)
  | .bulk .. =>
    let x := s.sendLines l o.id ((o.wholeLines.drop skip).take n) o.buf
    (x.1.modEngine o.id (fun o => { o with buf := x.2.1 }), x.2.2)
  | _ =>
    let b := o.buf
    let p := ((b.drop skip).take n).partition o.wordRead
    let q := joinWords (·.1) (·.2.length) p.1 (b.take skip ++ p.2 ++ (b.drop skip).drop n)
    let x := s.writeWords l o.id (p.1 ++ q.1)
    (x.1.modEngine o.id (fun o => { o with buf := x.2.1 ++ q.2 }), x.2.2)

/-- A running operation reads some words and writes some. -/
def State.engineWords (s : State) (l : Launch) (o : EngineOp) (rskip reads wskip writes : Nat) : Out :=
  let op := o.id
  let rskip := match o.kind with | .bulk 2 .. => 0 | _ => rskip
  let a := splitSegs rskip o.todo
  let b := splitSegs reads a.2
  let chosen := b.1.flatMap Seg.each
  let q := joinWords (·.src) (·.len) chosen (a.1 ++ b.2)
  let x := s.readWords l o (chosen ++ q.1)
  let s := x.1.modEngine op (fun o => { o with todo := x.2.2.1 ++ q.2, buf := o.buf ++ x.2.1 })
  match x.2.2.2, s.engine? op with
  | some m, some o => s.engineMeets o m
  | none, some o =>
    let y := s.drainBuf l o wskip writes
    (match y.2, y.1.engine? op with
     | some m, some o => y.1.engineMeets o m
     | _, _ => .next (y.1.freeSource op))
  | _, none => .next s

/-- A running operation goes on. Of a `cpyb` a move makes a bump where it moves no word, or none waits: bumps and row copies interleave as
the moves say (spec 08, R218). -/
def State.engineRun (s : State) (op rskip reads wskip writes : Nat) : Out :=
  match s.engine? op with
  | none => .next s
  | some o =>
    let l := s.launchOfOp o
    match o.kind, o.rows with
    | .bins table _ w caps, r :: rs =>
      if reads + writes == 0 || (o.todo.isEmpty && o.buf.isEmpty) then s.placeRow l o table w caps (rskip % (r :: rs).length)
      else s.engineWords l o rskip reads wskip writes
    | .send .., _ =>
      match (o.segs.flatMap Seg.each).findSome? (fun g => match s.meetRead l o g with | .ok .. => none | m => some m) with
      | some m => s.engineMeets o m
      | none => .next s
    | _, _ => s.engineWords l o rskip reads wskip writes

/-- Progress of an engine's move. -/
def Out.moved : Out → Out
  | .next s => .next s.progress
  | x => x

/-- An engine's move: an operation starts if it can, and a running one goes on. -/
def engineMove (s : State) (op rskip reads wskip writes : Nat) : Out :=
  match s.engine? op with
  | none => .next s
  | some o =>
    if s.overdue o then .next ((s.relock o).modEngine op (fun o => { o with stage := .halted }))
    else match o.stage with
      | .running => Out.moved (s.engineRun op rskip reads wskip writes)
      | .queued => match s.engineStart o with
        | .yes s => Out.moved (s.engineRun op rskip reads wskip writes)
        | .entered s => .next s
        | .no => .next s
        | .backing p =>
          .next ((s.pushRecord o.world (s.engineRecord o 0x50 (p * 1024) true false)).modEngine op (fun o => { o with stage := .waitBacking }))
      | _ => .next s

/-! Completion (spec 07, R167; 08, R214, R222; 10, R281). -/

/-- cp falls, every range is released, and the operation is gone. -/
def State.landEngine (s : State) (o : EngineOp) : State :=
  let s := s.modLive o.wg o.tids (fun t => { t with cp := t.cp - 1 })
  { (s.unlock o.id (fun _ => true)) with engines := s.engines.filter (fun x => !(x.id == o.id)) }

/-- A workgroup that has ended, as its gang's barriers see it. -/
def Workgroup.endedIn (id gang launch : Nat) : Workgroup :=
  { id, gang, launch, index := 0, x := 0, y := 0, z := 0, threads := 0, cores := [], wslot := 0, sregs := [], swritten := [], acc := []
    cvs := [], bars := [], rings := [], recs := [] }

/-- The bytes of a landing go to the barrier recorded at issue, if its level contains the destination: a workgroup's own until the
workgroup ends, a gang's until the gang ends (spec 10, R281). -/
def State.creditLanding (s : State) (o : EngineOp) : State :=
  match o.landing with
  | none => s
  | some (key, phase) =>
    let own := (segTo o.segs).all (fun x => match x.1 with | .spad wg _ => wg == o.wg | .va _ => false)
    let w := (s.wg? o.wg).getD (Workgroup.endedIn o.wg o.gang o.launch)
    if key / 16 == 1 || (key / 16 == 0 && own && (s.wg? o.wg).isSome) then
      s.credit (s.launchOfOp o) w o.core (key / 16) (key % 16) phase o.bytes
    else s.modCore o.core (fun c => { c with dropCredit := c.dropCredit + o.bytes })

/-- Everything still to be read is read; none if something stands in the way. -/
def State.readRest (s : State) (o : EngineOp) : Option State :=
  let x := s.readWords (s.launchOfOp o) o (o.todo.flatMap Seg.each)
  if x.2.2.2.isSome || !o.rows.isEmpty then none
  else some (((x.1.modEngine o.id (fun o => { o with todo := [], buf := o.buf ++ x.2.1 }))).freeSource o.id)

/-- Everything still to be written is written. -/
def State.writeRest (s : State) (op : Nat) : Option State :=
  match s.engine? op with
  | none => none
  | some o =>
    let x := s.drainBuf (s.launchOfOp o) o 0 o.buf.length
    if x.2.isSome then none else some x.1

/-- A running copy, complete. -/
def State.finishCopy (s : State) (o : EngineOp) : Option State :=
  if o.stage != EngineStage.running || s.overdue o then none
  else ((s.readRest o).bind (fun s => s.writeRest o.id)).map (fun s => s.landEngine o)

/-- An event that happens where it gives a state. -/
def eventOf (t : Option State) : Out :=
  match t with
  | some s => .next s.progress
  | none => .refused .notEnabled

/-- `SOURCE_RANGE_RELEASED`: the last source byte is read. -/
def execSourceRangeReleased (op : Nat) (s : State) : Out :=
  match s.engine? op with
  | none => .refused .notEnabled
  | some o =>
    let send := match o.kind with | .send .. => true | _ => false
    eventOf (if o.stage == EngineStage.running && !send then s.readRest o else none)

/-- `COPY_COMPLETE`: the completion event of a copy that is no ring copy. -/
def execCopyComplete (op : Nat) (s : State) : Out :=
  match s.engine? op with
  | none => .refused .notEnabled
  | some o => match o.kind with
    | .copy | .gather | .bins .. => eventOf ((s.finishCopy o).map (fun s => s.creditLanding o))
    | _ => .refused .notEnabled

/-- `RING_SEQUENCE_LANDED`: the arrival on "full", in order. -/
def execRingSequenceLanded (op : Nat) (s : State) : Out :=
  match s.engine? op with
  | none => .refused .notEnabled
  | some o => match o.kind, s.wg? o.wg with
    | .ring n seq, some w =>
      match w.rings[n]? with
      | none => .refused .notEnabled
      | some r =>
        let land (s : State) : State := s.modWg w.id (fun w => { w with rings := listSet w.rings n { r with f := seq + 1 } })
        eventOf (if r.f == seq then (s.finishCopy o).map land else none)
    | _, _ => .refused .notEnabled

/-- `ENGINE_PAGE_RESIDENT`: the page, or the backing, is there. -/
def execEnginePageResident (op : Nat) (s : State) : Out :=
  match s.engine? op with
  | none => .refused .notEnabled
  | some o =>
    let there := match o.stage with
      | .waitPage va => (match s.translate o.core o.world va with | .error (.absent ..) => false | _ => true)
      | .waitBacking => (s.opPages (segFrom o.segs ++ segTo o.segs)).all (fun x =>
          (s.stt? x.1.id x.2).any (·.present) || (match s.makeRoom x.1.home x.1.id with | .exhausted => false | _ => true))
      | _ => false
    event there (s.modEngine op (fun o => { o with stage := .queued }))

/-- Where an operation's source begins. -/
def EngineOp.payload (o : EngineOp) : Nat := match o.segs with | g :: _ => g.src.addr | [] => 0

/-- A request an operation makes next: what it meets, its data address, whether it writes, and whether another chip may answer it. -/
structure NextReq where
  met  : Met
  va   : Nat
  wr   : Bool
  asks : Bool

/-- What the next word, bump or payload byte of an operation meets. -/
def State.nextMet (s : State) (o : EngineOp) : List NextReq :=
  let write (b : Loc × List Byte) (asks : Bool) : NextReq := ⟨s.meetLoc o .write b.1, b.1.addr, true, asks⟩
  let payload := o.payload
  (match o.kind, o.rows with
   | .bins table _ _ _, (b, _) :: _ =>
     let a := (table + 16 * b + 12) % 2 ^ 56
     [⟨s.meetLoc o .atomic (.va a), a, true, true⟩]
   | _, _ => []) ++
  (match o.todo with | g :: _ => [⟨s.meetRead (s.launchOfOp o) o g, g.src.addr, false, true⟩] | [] => []) ++
  (match o.kind, o.buf with
   | .bulk 0 .., b :: _ => [write b false]
   | .bulk .., _ => []
   | _, b :: _ => [write b true]
   | _, [] => []) ++
  (match o.kind with
   | .send true dest _ _ => (match assoc dest s.iod.endpoints with
     | some x => if x.live then [] else [⟨.deny 0x23 payload false false, payload, false, false⟩]
     | none => [⟨.deny 0x23 payload false false, payload, false, false⟩])
   | .send false dest _ _ => if s.reachable dest then [] else [⟨.deny 0x25 payload false false, payload, false, false⟩]
   | _ => [])

/-- What an operation meets where a peer chip refuses its next request, with the code of the reply (spec 09, R230, R234; 14, R324). -/
def NextReq.atPeer (peer : Option Nat) (r : NextReq) : Option Met :=
  match r.met with
  | .deny code va mal wr => if peer.isNone then some (.deny code va mal wr) else none
  | .ok key _ => if r.asks && isPeer key && (peer == some 0x23 || peer == some 0x25) then some (.deny (peer.getD 0) r.va false r.wr) else none
  | _ => none

/-- `ENGINE_STOP`: a page that is denied, a former owner's write, a poisoned reply, or a peer chip's refusal (spec 08, R212; 09,
R230, R234). -/
def execEngineStop (op : Answered) (s : State) : Out :=
  match s.engine? op.it with
  | none => .refused .notEnabled
  | some o =>
    if o.stage != EngineStage.running then .refused .notEnabled
    else match (s.nextMet o).findSome? (NextReq.atPeer op.code) with
      | some m => Out.moved (s.engineMeets o m)
      | none => .refused .notEnabled

/-- `COPY_RESTART_TIMEOUT`: a copy that is not done 512 clocks after its gang's halt is recorded for restart (spec 10, R287). -/
def execCopyRestartTimeout (op : Nat) (s : State) : Out :=
  match s.engine? op with
  | none => .refused .notEnabled
  | some o =>
    let halted := match s.gang? o.gang with | some g => g.status != .running | none => false
    let going := match o.stage with | .stopped | .halted => false | _ => true
    event (o.restarts && halted && going && o.haltAt + 512 ≤ s.clock) ((s.relock o).modEngine op (fun o => { o with stage := .halted }))

end Sys2Proof.Machine
end

