-- ==== Sys2Proof/Machine/Handover.lean ====
section
/-! DEFINITION. `stwait`, `strel` (opcode 0x29), `hand` and `take` (opcode 0x2A) (spec 07, R189; 08, R220 to R227). -/

namespace Sys2Proof.Machine

/-- The sequence that a register names has landed on a ring. -/
def Ring.landed (r : Ring) (x : Word) : Bool := decide (0 < seqDiff r.f x)

/-- `stwait` holds until the sequence has landed (spec 08, R223). -/
def execStwait (g : Guard) (f : FMC) (s : State) : Out :=
  groupOp g (.stwait g f) s (fun e _ =>
    match e.ring f with
    | none => .next (s.takeTrap e { code := 0x01 })
    | some r => if r.landed (e.s f.f1) then s.done e else .next (s.hold e))

/-- `strel`: arrival on a ring's "empty" barrier, a release at `wg` (spec 08, R224). -/
def execStrel (g : Guard) (f : FMC) (s : State) : Out :=
  groupOp g (.strel g f) s (fun e ts =>
    match e.ring f with
    | none => .next (s.takeTrap e { code := 0x01 })
    | some r =>
      let d := seqDiff (e.s f.f1) r.e
      let k := f.cl.toNat % 8
      if d < 0 || (d == 0 && ts.any r.arrived.contains) then .next (s.takeTrap e { code := 0x13 })
      else if 0 < d || !ts.all (fun t => s.released e.w.id t 0) then .next (s.hold e)
      else
        let s := s.modWg e.w.id (fun w => { w with rings := listSet w.rings k { r with arrived := r.arrived ++ ts } })
        (s.tryRing e.w.id k).done e)

/-! Handover. -/

/-- The key of the leaf entry of an address, at level 1 to 4 (spec 14, R315). -/
def World.leafKey (w : World) (m : List Host.Cell) (va : Nat) : Option Nat :=
  let key (table index : Nat) : Option Nat := w.place (table + 8 * index)
  let entry (k : Nat) : BitVec 64 := BitVec.ofNat 64 (memNat m k 8)
  (key (w.ptroot.toNat * 2 ^ 16) (va / 2 ^ 43 % 8192)).bind (fun k1 =>
  (key (pteNext (entry k1)) (va / 2 ^ 30 % 8192)).bind (fun k2 =>
    if pteLeaf (entry k2) then some k2
    else (key (pteNext (entry k2)) (va / 2 ^ 21 % 512)).bind (fun k3 =>
      if pteLeaf (entry k3) then some k3 else key (pteNext (entry k3)) (va / 2 ^ 16 % 32))))

/-- An entry with a new owner tag (spec 14, R316). -/
def withOtag (e : BitVec 64) (tag : Nat) : BitVec 64 :=
  BitVec.ofNat 64 (e.toNat / 2 ^ 60 * 2 ^ 60 + tag % 16 * 2 ^ 56 + e.toNat % 2 ^ 56)

/-- A page's owner tag changes in the page table and in every TLB. -/
def State.flipPage (s : State) (world va tag : Nat) : State :=
  let s := match (s.world? world).bind (fun w => w.leafKey s.mem va) with
    | some k => s.homePut k (natLe 8 (withOtag (BitVec.ofNat 64 (memNat s.mem k 8)) tag).toNat)
    | none => s
  { s with tlb := mapIf (fun t => t.covers world va) (fun t => { t with leaf := withOtag t.leaf tag }) s.tlb }

/-- The pages a `hand` names: the log2 of their size, and their addresses. Where the first address has no page yet, nothing gives the
size of the others, and the first is the one to wait for (spec 08, R226). -/
def State.handPages (s : State) (e : Env) (f : FMC) : Nat × List Nat :=
  let first := e.pair f.f1 % 2 ^ 56
  let n := (e.s f.f2).toNat
  match s.translate e.g.core e.gang.world first with
  | .ok t => (t.leaf.bits, (List.range n).map (fun i => (first + i * 2 ^ t.leaf.bits) % 2 ^ 56))
  | .error (.absent bits _) => (bits, (List.range (min n 1)).map (fun _ => first))
  | .error _ => (16, (List.range n).map (fun i => (first + i * 2 ^ 16) % 2 ^ 56))

/-- Conditions of one page: ALIGN of the first, another size, a page that may not be written, the tag (spec 08, R226). -/
def State.handCond (s : State) (e : Env) (bits va : Nat) : Cond :=
  let c := (s.permit e.g.core e.gang.world (Config.dieOfCore e.g.core) va .write).1
  match s.translate e.g.core e.gang.world va with
  | .ok t => if t.leaf.bits != bits then c.and (.trap 0x23 va) else c
  | .error _ => c

/-- Writes that have passed translation to some pages and have not performed (spec 07, R189 step 2). -/
def State.undrained (s : State) (keys : List (Nat × Nat)) : Bool :=
  let inside (k n : Nat) : Bool := keys.any (fun p => meets k (k + n) p.1 (p.1 + p.2))
  s.flights.any (fun f => (match f.kind with | .store | .atomic .. => true | _ => false) && f.elems.any (fun x => inside x.key x.size)) ||
  s.tiles.any (fun o => match o.kind with | .store _ ks _ => ks.any (fun k => inside k 4) | _ => false) ||
  s.iod.bulk.any (fun x => match x.key with | some k => inside k x.data.length | none => false) ||
  s.iod.hostWrites.any (fun w => w.keys.any (fun k => inside k.1 1))

/-- `hand` (spec 07, R189; 08, R226). -/
def execHand (g : Guard) (f : FMC) (s : State) : Out :=
  groupOp g (.hand g f) s (fun e ts =>
    let scope := f.cl.toNat % 8
    let flag := e.pair f.f3 % 2 ^ 56
    let first := e.pair f.f1 % 2 ^ 56
    let count := (e.s f.f2).toNat
    if e.l.shadowOf.isSome then s.done e
    else if 64 < count then .next (s.takeTrap e { code := 0x01 })
    else
      let (bits, pages) := s.handPages e f
      let lead := s.thread e.w.id (ts.foldl min (ts.headD 0))
      let flagCond := s.globalCond e .write (verNum e.l lead.sub) flag 4 [(255, e.s f.f4)]
      let align : Cond := if count != 0 && first % 2 ^ bits != 0 then .trap 0x24 first else {}
      let c := (pages.map (s.handCond e bits)).foldl Cond.and (align.and flagCond)
      match worst [(0, c)], c.absent with
      | some (code, va, mal), _ => .next (s.takeTrap e { code, daddr := va, wr := true, mal })
      | none, some k => .fault (.absentDram k)
      | none, none =>
        if c.parks then .next (s.parkLanes e true (ts.map (fun t => (t, c)))).progress
        else
          let keys := pages.flatMap (fun p => s.locKeys e.g.core e.gang.world (.va p, 2 ^ bits))
          let info : OpInfo := ⟨.hand, scope, false, true, flagCond.elems.map (fun x => (x.key, x.size)) ++ keys, false, true, none⟩
          let miss := s.miss e (linesOf flagCond.elems).length
          if !ts.all (fun t => s.depsMet (s.depsOf e.w.id t info)) || s.undrained keys then .next (s.hold e)
          else if miss == .reject then .next (s.reject e)
          else
            let tag := f.cl.toNat / 8 % 16
            let s := pages.foldl (fun s p => s.flipPage e.gang.world p tag) s
            let s := s.acts e
            let m : Form := { kind := fun _ => .store, scope, rel := true, pages := keys }
            let s := s.addFlight e m ts flagCond.elems (miss == .reserve) [] s.nextId
            (s.modGroup e.g.id (fun g => { g with rejects := 0 })).done e)

/-- `take`: one acquire load of the flag for the group (spec 08, R227). -/
def execTake (g : Guard) (f : FMC) (s : State) : Out :=
  groupOp g (.take g f) s (fun e ts =>
    let scope := f.cl.toNat % 8
    let lead := s.thread e.w.id (ts.foldl min (ts.headD 0))
    let c := s.globalCond e .read (verNum e.l lead.sub) (e.pair f.f2 % 2 ^ 56) 4 [(f.f1.toNat % 256, 0)]
    match worst [(0, c)], c.absent with
    | some (code, va, mal), _ => .next (s.takeTrap e { code, daddr := va, mal })
    | none, some k => .fault (.absentDram k)
    | none, none =>
      if c.parks then .next (s.parkLanes e false (e.g.members.map (fun t => (t, c)))).progress
      else match s.miss e (linesOf c.elems).length with
        | .reject => .next (s.reject e)
        | r =>
          let s := s.addFlight e { kind := fun _ => .load, inLd := true, scope, acq := true } ts c.elems (r == .reserve) [] s.nextId
          (s.modGroup e.g.id (fun g => { g with rejects := 0 })).done e)

end Sys2Proof.Machine
end

