-- ==== Sys2Proof/Machine/Fabric.lean ====
section
/-! DEFINITION. The Qormon fabric: `bulk` (opcode 0x28), `acset` and `acwait` (opcode 0x2C), bulk lines, reductions, packets from
peer chips and the links (spec 09, R228 to R246; 14, R331 to R333). -/

namespace Sys2Proof.Machine

/-- A world is live on this chip (spec 14, R379). -/
def State.liveWorld (s : State) (world : Nat) : Bool :=
  match s.world? world with
  | some w => (w.state == 1 || w.state == 3) && !w.error
  | none => false

/-- The world's peer-access table admits a chip (spec 09, R234; 14, R323). -/
def State.peerAdmits (s : State) (world chip : Nat) : Bool :=
  match s.world? world with
  | none => false
  | some w => w.peertab.getLsbD 31 &&
    (match w.place ((w.peertab.extractLsb' 0 31).toNat * 512 + chip / 8) with
     | some k => (memGet s.mem k).getLsbD (chip % 8)
     | none => false)

/-! `bulk` (spec 09, R240, R241). -/

/-- Source and destination with their alignment. -/
def State.bulkSides (s : State) (e : Env) (f : FMC) : (Loc × List (Nat × Nat × Bool)) × (Loc × List (Nat × Nat × Bool)) :=
  let n := (e.s f.f3).toNat
  let align := if cpyDir f == 2 then 128 else 4
  (if f.cl.getLsbD 2 then s.spadSide e f.f2 511 false n align false else e.globalSide f.f2 511 align false,
   e.globalSide f.f1 511 align true)

def bulkTraps (s : State) (e : Env) (f : FMC) : List (Nat × Nat × Bool) :=
  let n := (e.s f.f3).toNat
  let align := if cpyDir f == 2 then 128 else 4
  let group := (e.s f.f4).toNat % 256
  (if 2 ^ 24 ≤ n then [(0x01, 0, false)] else []) ++
  (if cpyDir f != 0 && (s.collGroup e.gang.world group (cpyDir f == 2)).isNone then [(0x23, 0, false)] else []) ++
  (if n % align != 0 then [(0x24, n, false)] else []) ++ (s.bulkSides e f).1.2 ++ (s.bulkSides e f).2.2

def execBulk (g : Guard) (f : FMC) (s : State) : Out :=
  copyOp g (.bulk g f) s (fun e => bulkTraps s e f) (fun e ts =>
    let n := (e.s f.f3).toNat
    if e.l.shadowOf.isSome then s.done e
    else match s.arrivalFor e.gang with
      | none => .next (s.hold e)
      | some (_, s) =>
        let group := (e.s f.f4).toNat % 256
        let turn := tabGet 0 group s.iod.redTurns
        let s := if cpyDir f == 2 then { s with iod := { s.iod with redTurns := tabSet 0 group (turn + 1) s.iod.redTurns } } else s
        if n == 0 then s.done e
        else
        let s := s.acts e
        let kind : EngineKind := .bulk (cpyDir f) (f.cl.extractLsb' 8 4) (f.cl.getLsbD 3) (e.s f.f4) group turn
        let segs : List Seg := [⟨(s.bulkSides e f).1.1, (s.bulkSides e f).2.1, n⟩]
        (s.addEngine e ts { kind, segs, bytes := n, lockDst := false }).done e)

/-! Arrival counters (spec 09, R243 to R246). -/

/-- Adds to a counter of an entry, for a bulk line or a landing; a count saturates, and an arrival that names no entry of its world is
dropped. -/
def State.addArrival (s : State) (bulk : Bool) (entry world ctr n : Nat) : State :=
  if s.iod.arrivals.any (fun a => a.entry == entry && a.world == world) then
    let put (a : Arrival) : Arrival :=
      { a with
        counts := listPut 0 a.counts ctr (BitVec.ofNat 24 (min ((listGet 0 a.counts ctr).toNat + n) 16777215))
        bulked := if bulk then dedup (a.bulked ++ [ctr]) else a.bulked }
    { s with iod := { s.iod with arrivals := mapIf (fun a => a.entry == entry && a.world == world) put s.iod.arrivals } }
  else { s with iod := { s.iod with dropped := s.iod.dropped + 1 } }

/-- Counts the bytes of a line at the counter it names on this chip (spec 09, R242, R243). DESIGN CHOICE (assumption 69): a handle of
another chip names no entry here, and its arrival is dropped and counted as one that names a free entry. -/
def State.countLine (s : State) (x : BulkLine) : State :=
  if !x.count then s
  else match x.group with
    | none =>
      if x.handle.toNat / 2 ^ 20 == s.me then
        s.addArrival true (x.handle.toNat / 16 % 65536) x.world (x.handle.toNat % 16) x.data.length
      else { s with iod := { s.iod with dropped := s.iod.dropped + 1 } }
    | some g => match s.iod.bindings.find? (fun b => b.1 == g) with
      | none => s
      | some b => match (s.gang? b.2.1).bind (·.arrival) with
        | some n => s.addArrival true n x.world b.2.2 x.data.length
        | none => s

/-- `acset`: count 0 and a new target in one step (spec 09, R245). -/
def execAcset (g : Guard) (f : FMC) (s : State) : Out :=
  groupOp g (.acset g f) s (fun e _ =>
    let target := (e.s f.f2).toNat
    let group := (e.s f.f3).toNat % 256
    let bind := f.cl.getLsbD 4
    let ctr := f.cl.toNat % 16
    let bad := (s.collGroup e.gang.world group false).isNone && (s.collGroup e.gang.world group true).isNone
    if 2 ^ 24 ≤ target then .next (s.takeTrap e { code := 0x01 })
    else if bind && bad then .next (s.takeTrap e { code := 0x23 })
    else match s.arrivalFor e.gang with
      | none => .next (s.hold e)
      | some (n, s) =>
        let put (a : Arrival) : Arrival :=
          { a with
            counts := listPut 0 a.counts ctr 0, targets := listPut 0 a.targets ctr (BitVec.ofNat 24 target)
            bulked := a.bulked.filter (· != ctr) }
        let bindings := if bind then s.iod.bindings.filter (fun b => b.1 != group) ++ [(group, e.gang.id, ctr)] else s.iod.bindings
        let s := { s with iod := { s.iod with
          arrivals := mapIf (fun a => a.gang == e.gang.id) put s.iod.arrivals, bindings } }
        (s.setS e f.f1 (BitVec.ofNat 32 (s.me * 2 ^ 20 + n * 16 + ctr))).done e)

/-- An arrival counter of a gang has reached its target; a counter never set has the target 0 (spec 09, R246). -/
def State.arrived (s : State) (gang ctr : Nat) : Bool :=
  match s.iod.arrivals.find? (fun a => a.gang == gang) with
  | none => true
  | some a => decide ((listGet 0 a.targets ctr).toNat ≤ (listGet 0 a.counts ctr).toNat)

/-- The scope of the writes a counter has counted: `pkg` where bulk lines are among them, `wg` for landings alone (spec 09, R246). -/
def State.arrivalScope (s : State) (gang ctr : Nat) : Nat :=
  match s.iod.arrivals.find? (fun a => a.gang == gang) with
  | some a => if a.bulked.contains ctr then 3 else 0
  | none => 0

/-- `acwait` holds until the count is at least the target; then an acquire at the scope of the counted writes (spec 09, R246). -/
def execAcwait (g : Guard) (f : FMC) (s : State) : Out :=
  groupOp g (.acwait g f) s (fun e ts =>
    let ctr := f.cl.toNat % 16
    let scope := s.arrivalScope e.gang.id ctr
    if s.arrived e.gang.id ctr && ts.all (fun t => s.mayAcquire e.w.id t scope) then (s.acquire e.g.core scope).done e
    else .next (s.hold e))

/-! Owner tags at the homes (spec 14, R317). -/

/-- Valid entries that memory lists in a table of some bytes at a world-physical address; an entry nowhere listed reads 0 and is not
valid. -/
def World.entriesOf (w : World) (m : List Host.Cell) (table bytes : Nat) : List (BitVec 64) :=
  (dedup (m.map (fun c => c.1 / 8 * 8))).filterMap (fun k =>
    let a := w.unplace k * 4096 + k % 4096
    if isDevice k && table ≤ a && a < table + bytes && w.place a == some k then
      (let e := BitVec.ofNat 64 (memNat m k 8); if pteValid e then some e else none)
    else none)

/-- The leaves of a world's page table, each with the log2 of its page (spec 14, R315). -/
def World.leaves (w : World) (m : List Host.Cell) : List Leaf :=
  let tables (es : List (BitVec 64)) (bits : Nat) : List (BitVec 64) :=
    (es.filter (fun e => !pteLeaf e)).flatMap (fun e => w.entriesOf m (pteNext e) (2 ^ bits))
  let leaves (es : List (BitVec 64)) (bits : Nat) : List Leaf := (es.filter (fun e => pteLeaf e && leafOk e bits)).map (fun e => ⟨e, bits⟩)
  let l1 := w.entriesOf m (w.ptroot.toNat * 2 ^ 16) (2 ^ 16)
  let l2 := tables l1 16
  let l3 := tables l2 12
  leaves l2 30 ++ leaves l3 21 ++ leaves (tables l3 8) 16

/-- The tags of a page admit writes through the IOD: as the TLBs hold them, and as the page table has them (spec 14, R317; assumption
26). -/
def State.tagAdmits (s : State) (world wpa : Nat) : Bool :=
  match s.world? world with
  | none => false
  | some w =>
    let ok (e : BitVec 64) (bits : Nat) : Bool :=
      !(pteTgt e == 0 && pteAddr e / 2 ^ bits == wpa / 2 ^ bits) || w.admits (pteOtag e) 8
    s.tlb.all (fun t => t.world != world || ok t.leaf (sizeBits t.size)) && (w.leaves s.mem).all (fun l => ok l.pte l.bits)

/-! Arrival of bulk lines (spec 09, R238, R242). -/

/-- A write of an operation's version to a greenware page would create a fifth version: the line waits (spec 15, R346). -/
def State.lineFull (s : State) (x : BulkLine) (key : Nat) (green : Bool) : Bool :=
  green && (match x.op.bind s.engine? with | some o => s.fifth o.world o.version key | none => false)

/-- A unicast line of another chip, which its own chip has translated, meets the owner tag of its page at the home (spec 14, R317). -/
def State.lineTag (s : State) (x : BulkLine) (k : Nat) : Bool :=
  x.op.isSome || x.key.isNone ||
  (match s.world? x.world with | some w => s.tagAdmits x.world (w.unplace k * 4096 + k % 4096) | none => false)

/-- Where a line lands on this chip: its home, or what stands in the way. A line of a multicast or a reduction is translated
here, and passes the owner tags as a write through the IOD; the home checks the world's region, and the tag that a peer's unicast line
meets (spec 14, R317, R322). -/
def State.lineHome (s : State) (x : BulkLine) : Met :=
  let at' (k : Nat) (green : Bool) : Met :=
    if s.outside x.world k then .deny 0x23 x.va false true
    else if s.refuses k then .deny 0x25 x.va false true
    else if !s.lineTag x k then .deny 0x22 x.va false true
    else if s.lineFull x k green then .wait
    else .ok k green
  match x.key with
  | some k => at' k x.green
  | none =>
    match s.permit 2000 x.world 8 x.va .write with
    | (c, t) => match c.absent, worst [(0, c)], c.pages, t with
      | some k, _, _, _ => .absent k
      | none, some (code, va, mal), _, _ => .deny code va mal true
      | none, none, (_, bits) :: _, _ => .page x.va bits true
      | none, none, [], none => .wait
      | none, none, [], some t => at' t.key (pteGreen t.leaf.pte)

/-- The die that homes a line here, once its page is known. -/
def State.lineDie (s : State) (x : BulkLine) : Option Nat :=
  match x.key, s.lineHome x with
  | some k, _ => some (keyDie k)
  | none, .ok k _ => some (keyDie k)
  | none, _ => none

/-- Something of one world and source chip was presented to a die before the packet of a sequence number, and its home has not performed
it yet (spec 09, R232). -/
def State.behindAtHome (s : State) (world src seq die : Nat) : Bool :=
  s.iod.atHome.any (fun q => q.1.world == world && q.1.src == src && q.1.seq < seq && keyDie q.2 == die) ||
  s.iod.bulk.any (fun y => y.dst == s.me && y.world == world && y.src == src && (y.seq.any (· < seq)) && s.lineDie y == some die)

/-- A peer's line is behind what its chip sent to the die before it (spec 09, R232). -/
def State.lineBehind (s : State) (x : BulkLine) (key : Nat) : Bool :=
  x.seq.any (fun n => s.behindAtHome x.world x.src n (keyDie key))

/-- A write at a home, by an engine or by a peer chip, would overtake a store on its way to a word of the line (spec 07, R165). -/
def State.lineHeld (s : State) (x : BulkLine) (key : Nat) : Bool :=
  match x.op.bind s.engine? with
  | some o => s.lineBusy o.core key
  | none => (List.range 32).any (fun i => s.wordHeld (lineOf key * 128 + 4 * i))

/-- Words of a run of bytes. -/
def wordsOf (key : Nat) : Nat → List Byte → List (Nat × List Byte)
  | 0, _ => []
  | n + 1, bytes => if bytes.isEmpty then [] else (key, bytes.take 4) :: wordsOf (key + 4) n (bytes.drop 4)

/-- The destination range of an operation at a die: it grows as lines arrive, and takes an entry for the first (spec 07, R183; 09,
R241). -/
def State.lineLock (s : State) (x : BulkLine) (key : Nat) : State :=
  match x.op.or x.owner with
  | none => s
  | some owner =>
    let mine (k : RangeLock) : Bool := k.owner == owner && k.dst && k.place == keyDie key && !k.spad
    let widen (k : RangeLock) : RangeLock :=
      { k with lo := min k.lo (x.va / 256 * 256), hi := max k.hi ((x.va + x.data.length + 255) / 256 * 256) }
    if !isDevice key then s
    else if s.locks.any mine then { s with locks := mapIf mine widen s.locks }
    else s.addLock owner x.world false (keyDie key) x.va (x.va + x.data.length) true

/-- The die's table has the entry that a line needs (spec 07, R186). -/
def State.lineRoom (s : State) (x : BulkLine) (key : Nat) : Bool := !(s.lineLock x key).locks.any (fun k => k.dst && k.entry.isNone &&
  some k.owner == x.op.or x.owner)

/-- The bytes of a line are written at their home. -/
def State.putLine (s : State) (x : BulkLine) (key : Nat) (green : Bool) : State :=
  let s := s.lineLock x key
  match x.op.bind s.engine? with
  | some o => (wordsOf key x.data.length x.data).foldl (fun s w =>
      s.putWord (s.launchOfOp o) o (.va (x.va + (w.1 - key))) w.1 green w.2) s
  | none => s.homePut key x.data

/-- A destination's acknowledgement reaches the issuer, or with the packet's sequence number a peer (spec 09, R231). -/
def State.ackLine (s : State) (x : BulkLine) (code : Nat) : State :=
  match x.op with
  | some op => s.modEngine op (fun o => { o with acked := o.acked + 1 })
  | none => { s with iod := { s.iod with replies := s.iod.replies ++ [.peer x.src (x.seq.getD 0) code []] } }

/-- A line is gone; with a peer operation's last one its ranges here are released (spec 07, R185; 09, R241). -/
def State.endLine (s : State) (x : BulkLine) : State :=
  let rest := s.iod.bulk.filter (fun y => !(y.id == x.id))
  match x.owner with
  | none => { s with iod := { s.iod with bulk := rest } }
  | some n =>
    let others (y : BulkLine) : Bool := y.owner == some n
    let s := if x.last && !rest.any others then s.unlock n (fun _ => true) else s
    { s with iod := { s.iod with bulk := mapIf others (fun y => { y with last := y.last || x.last }) rest } }

/-- A line has arrived at another chip, and is performed there, or refused with a code: what the other chip answers comes from
outside over a link, but for a chip that cannot be reached (spec 09, R230, R234, R242; 14, R333). -/
def State.lineAway (s : State) (x : BulkLine) (err : Option Nat) : Out :=
  match err, x.op.bind s.engine? with
  | none, _ =>
    let s1 := match x.key with | some k => s.putLine x k x.green | none => s
    event (s.reachable x.dst && s.answers x.world x.dst && !(x.key.any (s.lineHeld x))) ((s1.ackLine x 0).endLine x)
  | some code, some o =>
    event (if s.reachable x.dst then s.answers x.world x.dst && (code == 0x25 || code == 0x23) else code == 0x25)
      ((s.engineStop o code x.va false true).endLine x)
  | some _, none => .refused .notEnabled

/-- `BULK_LINE_ARRIVAL`: performed at its destination, counted and acknowledged; a page that is not resident is recorded and
waited for, as are a table entry and a fifth version, and a denied page stops the operation. Another chip may answer an error reply. -/
def execBulkLineArrival (line : Answered) (s : State) : Out :=
  match s.iod.bulk.find? (fun x => x.id == line.it) with
  | none => .refused .notEnabled
  | some x =>
    if x.dst != s.me then s.lineAway x line.code
    else if line.code.isSome then .refused .notEnabled
    else match s.lineHome x with
      | .ok key green => event (s.lineRoom x key && !s.lineBehind x key && !s.lineHeld x key) ((((s.putLine x key green).countLine x).ackLine x 0).endLine x)
      | .absent k => .fault (.absentDram k)
      | .wait | .await .. => .refused .notEnabled
      | .page va bits wr =>
        let r := match x.op.bind s.engine? with
          | some o => s.engineRecord o 0x30 0 wr false
          | none => { FaultRec.none with code := 0x30, wr := wr, eng := true }
        .next (s.recordPages x.world r [(va, bits)])
      | .deny code va mal wr => match x.op.bind s.engine? with
        | some o => .next ((s.engineStop o code va mal wr).endLine x).progress
        | none => .next ((s.ackLine x code).endLine x).progress

/-- `BULK_COMPLETE`: every destination has acknowledged, or every result line has been performed here (spec 09, R242). -/
def execBulkComplete (op : Nat) (s : State) : Out :=
  match s.engine? op with
  | none => .refused .notEnabled
  | some o =>
    let all := match o.kind with
      | .bulk 2 .. => o.acked == o.bytes / 128
      | .bulk .. => o.acked == o.sent
      | _ => false
    event (o.stage == .running && o.todo.isEmpty && o.buf.isEmpty && all) (s.landEngine o)

/-! Reductions (spec 09, R239, R240). -/

/-- One element of a combination. -/
def redElem (op : BitVec 4) (a b : Word) : Word :=
  match op.toNat with
  | 0 => a + b
  | 1 => fadd .rne false 0 a b
  | 2 => if b.slt a then b else a
  | 3 => if a.slt b then b else a
  | 4 => if b.ult a then b else a
  | 5 => if a.ult b then b else a
  | 6 => fminmax false a b
  | _ => fminmax true a b

/-- Bytes as 32-bit elements, and back. -/
def elemsOf (bytes : List Byte) : List Word := (wordsOf 0 bytes.length bytes).map (fun w => BitVec.ofNat 32 (leNat w.2))
def bytesOf (ws : List Word) : List Byte := ws.flatMap (fun w => natLe 4 w.toNat)

/-- Combines lines in the order of a list. -/
def combine (op : BitVec 4) (lines : List (List Word)) : List Word :=
  match lines with
  | [] => []
  | x :: r => r.foldl (fun a b => (a.zip b).map (fun p => redElem op p.1 p.2)) x

/-- The result: leaves combine their members by rank, then spines the leaves by number; the group fixes each member's leaf. -/
def reduceParts (op : BitVec 4) (parts : List RedPart) (leaves : List Nat) : List Word :=
  let sorted := (List.range 1024).filter leaves.contains
  let byRank (leaf : Nat) : List (List Word) :=
    (List.range leaves.length).filterMap (fun r =>
      if listGet 0 leaves r == leaf then (parts.find? (fun p => p.rank == r)).map (fun p => elemsOf p.data) else none)
  combine op (sorted.map (fun leaf => combine op (byRank leaf)))

/-- `REDUCTION_COMBINE`: `parts` holds every member's line of the group's operation `turn` and position `pos`, this chip's own among
them. -/
def execReductionCombine (group : GroupTurn) (pos : Nat) (parts : List RedPart) (s : State) : Out :=
  match s.iod.red.find? (fun x => x.group == group.group && x.turn == group.turn && x.pos == pos) with
  | none => .refused .notEnabled
  | some x => match s.collGroup x.world group.group true with
    | none => .refused .notEnabled
    | some g =>
      let n := g.chips.length
      let whole := parts.length == n && (List.range n).all (fun r => parts.any (fun p => p.rank == r)) &&
        parts.all (fun p => p.data.length == x.data.length) &&
        parts.any (fun p => p.rank == g.rank && p.op == x.code && p.data == x.data)
      let op := match parts.find? (fun p => p.rank == 0) with | some p => p.op | none => x.code
      let data := bytesOf (reduceParts op parts g.leaves)
      let line : BulkLine :=
        { id := 0, world := x.world, dst := s.me, va := x.va, key := none, green := false, data, count := x.count, handle := 0
          group := some group.group, op := some x.op, src := s.me, owner := none, last := false }
      event whole (({ s with iod := { s.iod with red := s.iod.red.erase x } }).sendBulk line)

/-! Packets from peer chips (spec 09, R230 to R234). -/

/-- Key of the sequence of a source in a world. -/
def seqKey (world chip : Nat) : Nat := world * 4096 + chip

def State.replyPeer (s : State) (chip seq code : Nat) (bytes : List Byte) : State :=
  { s with iod := { s.iod with replies := s.iod.replies ++ [.peer chip seq code bytes] } }

/-- Writes the enabled bytes of a packet. -/
def State.putEnabled (s : State) (key : Nat) (data : List Byte) (en : BitVec 128) : State :=
  ((List.range data.length).zip data).foldl (fun s b => if en.getLsbD b.1 then s.homePut (key + b.1) [b.2] else s) s

/-- Places of the enabled bytes of a line. -/
def enabled (en : BitVec 128) : List Nat := (List.range 128).filter (fun i => en.getLsbD i)

/-- A packet has the form of its kind: a line has 128 bytes, and a bulk line's enabled bytes are one run (spec 09, R231, R238). -/
def packetOk (p : Packet) : Bool :=
  p.covers != 0 && match p.kind with
  | .read => true
  | .write data _ => data.length == 128
  | .atomic .. => p.addr.toNat % 4 == 0
  | .bulkLine va data en .. =>
    data.length == 128 && va.toNat % 128 == 0 && enabled en == (List.range (enabled en).length).map (· + (enabled en).headD 0)

/-- A packet in its turn: admitted and presented to its home, or refused with nothing changed (spec 09, R232, R234). -/
def State.present (s : State) (p : Packet) : State :=
  let no := s.replyPeer p.src p.seq 0x23 []
  if !s.liveWorld p.world || !s.peerAdmits p.world p.src then no
  else
    let home := (s.world? p.world).bind (fun w => w.place (p.addr.toNat % 2 ^ 40))
    match p.kind, home with
    | .bulkLine va data en count handle group op last, home =>
      let off := (enabled en).headD 0
      if group.isNone && home.isNone then no
      else s.sendBulk { id := 0, world := p.world, dst := s.me, va := va.toNat + off, key := if group.isNone then home.map (· + off) else none
                        green := false, data := (enabled en).map (listGet 0 data), count, handle, group, op := none, src := p.src
                        owner := some (2 ^ 64 + p.src * 2 ^ 32 + op), last, seq := some p.seq }
    | _, none => no
    | _, some k => { s with iod := { s.iod with atHome := s.iod.atHome ++ [(p, k)] } }

/-- A home performs a packet, or answers with an error: the region of its world, an error of the home, an owner tag (spec 09, R230; 14,
R317, R322). -/
def State.performPacket (s : State) (p : Packet) (k : Nat) : Out :=
  let no (code : Nat) : Out := .next (s.replyPeer p.src p.seq code []).progress
  let yes (t : State) (bytes : List Byte) : Out := .next (t.replyPeer p.src p.seq 0 bytes).progress
  if keyAbsent k then .fault (.absentDram k)
  else if s.outside p.world k then no 0x23
  else match p.kind with
    | .read => if s.errs k then no 0x25 else yes s ((List.range 128).map (fun i => s.homeByte (lineOf k * 128 + i)))
    | .write data en =>
      if s.refuses k then no 0x25 else if !s.tagAdmits p.world p.addr.toNat then no 0x22 else yes (s.putEnabled (lineOf k * 128) data en) []
    | .atomic op ty b c =>
      if s.errs k then no 0x25
      else if !s.tagAdmits p.world p.addr.toNat then no 0x22
      else
        let old : Word := BitVec.ofNat 32 (leNat ((List.range 4).map (fun i => s.homeByte (k + i))))
        yes (s.homePut k (natLe 4 (atomNew op ty old b c).toNat)) (natLe 4 old.toNat)
    | .bulkLine .. => no 0x23

/-- A packet would write a word at its home that a store of this chip is on its way to (spec 07, R165). -/
def State.packetHeld (s : State) (p : Packet) (k : Nat) : Bool :=
  match p.kind with
  | .write _ en => (enabled en).any (fun i => s.wordHeld (lineOf k * 128 + i))
  | .atomic .. => s.wordHeld k
  | _ => false

/-- A presented packet is in its turn, and nothing on its way holds it (spec 07, R165; 09, R232). -/
def State.homeReady (s : State) (p : Packet) (k : Nat) : Bool := !s.behindAtHome p.world p.src p.seq (keyDie k) && !s.packetHeld p k

/-- A presented packet is performed in its turn at its die: those of one world and source in order, and packets of different dies, sources
or worlds independently (spec 09, R232). -/
def homeMove (s : State) (pos : Nat) : Out :=
  match s.iod.atHome[pos]? with
  | none => .next s
  | some (p, k) =>
    if !s.homeReady p k then .next s
    else ({ s with iod := { s.iod with atHome := s.iod.atHome.eraseIdx pos } }).performPacket p k

/-- Presents a packet, and then those that waited for it (spec 09, R232). -/
def State.presentAll (s : State) (p : Packet) : Nat → State
  | 0 => s
  | n + 1 =>
    let key := seqKey p.world p.src
    let s := s.present p
    let s := { s with iod := { s.iod with gotSeq := tabSet 0 key (p.seq + p.covers) s.iod.gotSeq } }
    match s.iod.reorder.find? (fun q => q.world == p.world && q.src == p.src && q.seq == p.seq + p.covers) with
    | some q => ({ s with iod := { s.iod with reorder := s.iod.reorder.erase q } }).presentAll q n
    | none => s

/-! Receive ports (spec 09, R235). -/

/-- An event is what the reply of a chip to a request of a world brings about. -/
def State.asked (s : State) (world src : Nat) : Instr → Bool
  | .loadReturn fl _ | .storePerformed fl true _ | .atomicReply fl | .poisonedReply ⟨fl, _⟩ =>
    (s.flight? fl).any (fun f => f.world == world && f.elems.any (fun x => isPeer x.key && keyChip x.key == src))
  | .bulkLineArrival x => s.iod.bulk.any (fun y => y.id == x.it && y.world == world && y.dst == src)
  | .sendComplete op _ => (s.engine? op).any (fun o => o.world == world && (match o.kind with | .send false dest .. => dest == src | _ => false))
  | .engineStop x => (s.engine? x.it).any (fun o => o.world == world)
  | .sourceRangeReleased op | .copyComplete op | .ringSequenceLanded op => (s.engine? op).any (fun o => o.world == world)
  | .tileTransferPerformed op => (s.tile? op).any (fun o => s.worldOfWg o.wg == world && o.kind.keys.any (fun k => isPeer k && keyChip k == src))
  | _ => false

/-- A packet or a message of an admitted chip reaches a receive port over a link that is up; the link holds it back while there is no
slot (spec 09, R235; 14, R333). -/
def receiveMove (s : State) (link : Nat) (x : PortItem) : Out :=
  let up := match s.iod.links[link]? with | some k => k.up && k.peer.isSome | none => false
  let fresh := match x with
    | .request p => packetOk p && !s.iod.ports.any (fun q => match q.item with
        | .request y => y.world == p.world && y.src == p.src && y.seq == p.seq
        | _ => false)
    | .reply world src i => s.asked world src i
    | .message m => m.op.isNone && m.size == m.data.length
  match s.portSlot link x.chan x.world with
  | none => .next s
  | some reserved =>
    if s.powered && up && fresh && x.src < 4096 && x.src != s.me && s.checker.admitted.contains x.src then
      .next { s with iod := { s.iod with ports := s.iod.ports ++ [⟨link, reserved, x⟩] } }
    else .next s

/-- Something that waits in a receive port. -/
def State.waiting? (s : State) (x : PortItem) : Option PortSlot := s.iod.ports.find? (fun q => q.item == x)

/-- It leaves its slot. -/
def State.freeSlot (s : State) (q : PortSlot) : State := { s with iod := { s.iod with ports := s.iod.ports.erase q } }

/-- A reply leaves its slot, and its event happens next: replies wait behind nothing (spec 09, R235). -/
def answerMove (s : State) (pos : Nat) : Out :=
  match s.iod.ports[pos]? with
  | some q => match q.item with
    | .reply _ _ i => .next { s with agenda := .event i :: s.agenda, iod := { s.iod with ports := s.iod.ports.eraseIdx pos } }
    | _ => .next s
  | none => .next s

/-- `FABRIC_PACKET_ARRIVAL`: a packet of an admitted peer leaves its receive port for the reorder buffer, 2,048 packets for each source,
and is presented in source order (spec 09, R232, R234, R235; 14, R333). -/
def execFabricPacketArrival (p : Packet) (s : State) : Out :=
  let want := tabGet 0 (seqKey p.world p.src) s.iod.gotSeq
  let known := s.iod.reorder.any (fun q => q.world == p.world && q.src == p.src && q.seq == p.seq)
  match s.waiting? (.request p) with
  | none => .refused .notEnabled
  | some q =>
    if p.seq < want || want + 2048 ≤ p.seq || known || !s.checker.admitted.contains p.src then .refused .notEnabled
    else if p.seq == want then .next ((s.freeSlot q).presentAll p (s.iod.reorder.length + 1)).progress
    else if 2048 ≤ (s.iod.reorder.filter (fun q => q.src == p.src)).length then .refused .notEnabled
    else .next { s.freeSlot q with iod := { (s.freeSlot q).iod with reorder := s.iod.reorder ++ [p] } }

/-- Two packets that may be merged (spec 09, R233). -/
def mergePackets (p q : Packet) : Option Packet :=
  match p.kind, q.kind with
  | .write d e, .write d' e' =>
    if p.world == q.world && p.src == q.src && p.addr == q.addr && q.seq == p.seq + p.covers && !p.release && !q.release &&
        d.length == d'.length then
      let data := (List.range d.length).map (fun i => listGet 0 (if e'.getLsbD i then d' else d) i)
      some { p with covers := p.covers + q.covers, kind := .write data (e ||| e') }
    else none
  | _, _ => none

/-- `WRITE_MERGE`: two queued writes become one with their effect. -/
def execWriteMerge (pos : Nat) (s : State) : Out :=
  match s.iod.reorder[pos]? with
  | none => .refused .notEnabled
  | some p => match s.iod.reorder.find? (fun q => q.world == p.world && q.src == p.src && q.seq == p.seq + p.covers) with
    | none => .refused .notEnabled
    | some q => match mergePackets p q with
      | none => .refused .notEnabled
      | some m => .next { s with iod := { s.iod with reorder := listSet s.iod.reorder pos m |>.erase q } }

/-! Links (spec 09, R236; 14, R331, R333). -/

def State.link? (s : State) (n : Nat) : Option Link := s.iod.links[n]?

def State.modLink (s : State) (n : Nat) (f : Link → Link) : State :=
  match s.link? n with
  | some x => { s with iod := { s.iod with links := listSet s.iod.links n (f x) } }
  | none => s

/-- A link leaves every routing entry marked for failover. -/
def State.linkDown (s : State) (n : Nat) : State :=
  let cut (e : Nat × BitVec 64) : Nat × BitVec 64 :=
    if Config.failover e.1 then (e.1, e.2 &&& ~~~((1 : BitVec 64) <<< n)) else e
  let s := s.modLink n (fun x => { x with up := false, replays := 0, tagFails := 0, unacked := 0 })
  { s with iod := { s.iod with routing := (s.iod.routing.map cut).filter (fun e => e.2 != 0) } }

/-- `FLIT_REPLAY`: a failing flit is sent again from the replay buffer; nothing else changes. -/
def execFlitReplay (link : Nat) (s : State) : Out :=
  event (match s.link? link with | some x => x.up | none => false) (s.modLink link (fun x => { x with replays := x.replays + 1 }))

/-- `LINK_TAKEN_DOWN`: after 16 failing replays in a row. -/
def execLinkTakenDown (link : Nat) (s : State) : Out :=
  event (match s.link? link with | some x => x.up && 16 ≤ x.replays | none => false) (s.linkDown link)

/-- Flits cross an edge whole: those sent stay in the replay buffer of 64 until they are acknowledged, the counter of each direction
rises by what goes that way, below 2^48 (a re-key comes first), and a run of failures ends (spec 09, R236; 14, R330, R331). -/
def flitsMove (s : State) (edge : Edge) (sent acked got : Nat) : Out :=
  match edge with
  | .ucie die =>
    let d := s.die die
    if die < 8 && d.linkFails < 3 && d.linkCounter.toNat + sent < 2 ^ 48 && d.linkCounterIn.toNat + got < 2 ^ 48 && 0 < sent + got then
      .next (s.modDie die (fun d => { d with
        linkFails := 0, linkCounter := d.linkCounter + BitVec.ofNat 64 sent, linkCounterIn := d.linkCounterIn + BitVec.ofNat 64 got }))
    else .next s
  | .qormon n => match s.link? n with
    | none => .next s
    | some x =>
      if x.up && x.unacked + sent ≤ 64 && acked ≤ x.unacked && x.counter.toNat + sent < 2 ^ 48 && x.counterIn.toNat + got < 2 ^ 48 &&
          0 < sent + acked + got then
        .next (s.modLink n (fun x => { x with
          replays := 0, tagFails := 0, unacked := x.unacked + sent - acked, counter := x.counter + BitVec.ofNat 48 sent
          counterIn := x.counterIn + BitVec.ofNat 48 got }))
      else .next s

/-- Evidence that meets the policy (spec 14, R333). -/
def Checker.accepts (c : Checker) (ev : PeerEvidence) : Bool :=
  c.roots.contains ev.root && ev.chainOk && ev.transcriptOk && ev.versions.length == 5 &&
  (List.range 5).all (fun i => listGet 0 c.minima i ≤ listGet 0 ev.versions i)

/-- `PEER_ADMISSION`: both chips authenticate; a peer that fails is not admitted, and one that was admitted is taken down. -/
def execPeerAdmission (link : Nat) (ev : PeerEvidence) (s : State) : Out :=
  match s.link? link with
  | none => .refused .notEnabled
  | some x =>
    if s.checker.accepts ev then
      let s1 := s.modLink link (fun x => { x with
        up := true, peer := some ev.chip, shown := some ev, slot := !x.slot, counter := 0, counterIn := 0, replays := 0, tagFails := 0, unacked := 0 })
      let add := if s.checker.admitted.contains ev.chip then s.checker.admitted else s.checker.admitted ++ [ev.chip]
      event true { s1 with checker := { s.checker with admitted := add } }
    else
      let s1 := { s with checker := { s.checker with admitted := s.checker.admitted.filter (· != ev.chip) } }
      event true ((if x.peer.isSome then s1.linkDown link else s1).modLink link (fun x => { x with peer := none, shown := none }))

/-- A peer chip fails the policy: it is admitted no more, and the link it answered on is taken down (spec 14, R333). -/
def State.expel (s : State) (link chip : Nat) : State :=
  ({ s with checker := { s.checker with admitted := s.checker.admitted.filter (· != chip) } }.linkDown link).modLink link
    (fun x => { x with peer := none, shown := none })

/-- A link takes its other key slot. -/
def Link.rekeyed (x : Link) : Link := { x with slot := !x.slot, counter := 0, counterIn := 0 }

/-- A Qormon link re-keys: its peer is checked again under the policy there is now (spec 14, R333). -/
def State.rekeyLink (s : State) (n : Nat) : State :=
  match s.link? n with
  | none => s
  | some x => match x.peer with
    | some chip => if x.shown.any s.checker.accepts then s.modLink n Link.rekeyed else s.expel n chip
    | none => s.modLink n Link.rekeyed

/-- A die stack's UCIe link re-keys. -/
def Die.rekeyed (d : Die) : Die := { d with linkFails := 0, linkSlot := !d.linkSlot, linkCounter := 0, linkCounterIn := 0 }

/-- Every link of the package re-keys (spec 14, R335). -/
def State.rekeyAll (s : State) : State :=
  let s := (List.range 32).foldl State.rekeyLink s
  { s with dies := s.dies.map Die.rekeyed, iod := { s.iod with eth := s.iod.eth.map Link.rekeyed } }

/-- `LINK_REKEY`: the other key slot, from counter 0; the peer is checked again under the policy there is now, and taken down if it fails.
Links 32 to 39 are the UCIe links of the die stacks, 40 to 47 the Ethernet ports (spec 14, R330, R331, R333). -/
def execLinkRekey (link : Nat) (s : State) : Out :=
  if 40 ≤ link then
    event (link < 48) { s with iod := { s.iod with eth := (s.iod.eth.zip (List.range s.iod.eth.length)).map (fun x =>
      if x.2 + 40 == link then x.1.rekeyed else x.1) } }
  else if 32 ≤ link then
    event (s.die (link - 32)).live (s.modDie (link - 32) (fun d => { d with linkSlot := !d.linkSlot, linkCounter := 0, linkCounterIn := 0 }))
  else match s.link? link with
    | none => .refused .notEnabled
    | some x => event (x.up && x.peer.isSome) (s.rekeyLink link)

/-- The host sets the roots, at most four, and the minimum security versions of the admission policy (spec 14, R333; 15, R341). -/
def policyMove (s : State) (roots minima : List Nat) : Out :=
  if roots.length ≤ 4 && minima.length == 5 then .next { s with checker := { s.checker with roots, minima } } else .next s

end Sys2Proof.Machine
end

