-- ==== Sys2Proof/Machine/Messages.lean ====
section
/-! DEFINITION. Two-sided messages: `send`, `post`, `rprobe`, `rwait` and `rcancel` (opcode 0x2B), the receive engine and the
scale-out ports (spec 09, R247 to R257, R259). -/

namespace Sys2Proof.Machine

/-! `send` (spec 09, R251, R252). -/

/-- The payload's place, with ALIGN and SPAD_RANGE. -/
def State.sendSide (s : State) (e : Env) (f : FMC) : Loc × List (Nat × Nat × Bool) :=
  let n := (e.s f.f4).toNat
  if f.cl.getLsbD 0 then s.spadSide e f.f1 511 false n 4 false else e.globalSide f.f1 511 4 false

def sendTraps (s : State) (e : Env) (f : FMC) : List (Nat × Nat × Bool) :=
  (if 4096 ≤ (e.s f.f2).toNat || 2 ^ 24 ≤ (e.s f.f4).toNat then [(0x01, 0, false)] else []) ++ (s.sendSide e f).2

def execSend (g : Guard) (f : FMC) (s : State) : Out :=
  copyOp g (.send g f) s (fun e => sendTraps s e f) (fun e ts =>
    if e.l.shadowOf.isSome then s.done e
    else match s.arrivalFor e.gang with
    | none => .next (s.hold e)
    | some (_, s) =>
      let s := s.acts e
      let n := (e.s f.f4).toNat
      let p := (s.sendSide e f).1
      let segs : List Seg := if n == 0 then [] else [⟨p, p, n⟩]
      let kind : EngineKind := .send (f.cl.getLsbD 1) (e.s f.f2).toNat (e.s f.f3) n
      (s.addEngine e ts { kind, segs, bytes := n, lockDst := false, cls := .send }).done e)

/-! Matching (spec 09, R247, R248). -/

def Receive.matches (r : Receive) (m : Message) : Bool :=
  ((m.src ^^^ r.src) &&& ~~~r.smask) == 0 && ((m.tag ^^^ r.tag) &&& ~~~r.tmask) == 0

/-- Receives of a world that are on the posted list. -/
def World.postedList (w : World) : List Receive := w.posted.filter (fun r => r.status == .posted)

/-- A header is taken by the first matching receive, or joins the unexpected queue; none when that is full. -/
def State.takeHeader (s : State) (m : Message) : Option State :=
  match s.world? m.world with
  | none => none
  | some w =>
    match w.postedList.find? (fun r => r.matches m) with
    | some r =>
      let take (x : Receive) : Receive := { x with status := .matched m }
      some (s.modWorld m.world (fun w => { w with posted := mapIf (fun x => x.id == r.id) take w.posted }))
    | none =>
      if w.unexp.length < 1024 then some (s.modWorld m.world (fun w => { w with unexp := w.unexp ++ [m] })) else none

/-- The header of a send of this chip was accepted. -/
def State.headerTaken (s : State) (m : Message) : State :=
  match m.op with
  | some op => s.modEngine op (fun o => { o with sent := 1 })
  | none => s

/-- A header that this chip's own send brings: in its turn, and as the operation has it (spec 09, R249, R250). DESIGN CHOICE (assumption
69): the sends of different threads reach the IOD in the order in which their operations were issued; R249 gives the order of one thread's
alone. -/
def State.ownHeader (s : State) (m : Message) (op : Nat) : Bool :=
  match s.engine? op with
  | none => false
  | some o => match o.kind with
    | .send false dest tag size =>
      o.stage == .running && dest == s.me && o.sent == 0 && m.world == o.world && m.src.toNat == s.me && m.tag == tag &&
      m.size == size && m.data.isEmpty &&
      !s.engines.any (fun x => x.id < o.id && x.world == o.world && x.sent == 0 && (match x.kind with
        | .send false d t _ => d == dest && t == tag
        | _ => false))
    | _ => false

/-- A peer's header is the first of its source, world and tag that waits in the receive ports (spec 09, R249). -/
def State.headerFirst (s : State) (m : Message) : Bool :=
  s.iod.ports.findSome? (fun q => match q.item with
    | .message y => if y.world == m.world && y.src == m.src && y.tag == m.tag then some y else none
    | _ => none) == some m

/-- `MESSAGE_HEADER_ARRIVAL`: from this chip by loopback, or from an admitted peer, out of the message channel of a receive port; a header
that finds the unexpected queue full leaves the port, and its sender sends it again (spec 09, R234, R235, R248, R250). -/
def execMessageHeaderArrival (m : Message) (s : State) : Out :=
  match m.op with
  | some op =>
    if !s.ownHeader m op || s.iod.resend.any (fun x => x.1.op == some op) then .refused .notEnabled
    else match s.takeHeader m with
      | some t => .next (t.headerTaken m).progress
      | none => .next { s with iod := { s.iod with resend := s.iod.resend ++ [(m, s.clock + 1024)] } }
  | none =>
    let src := m.src.toNat
    match s.waiting? (.message m) with
    | none => .refused .notEnabled
    | some q =>
      let u := s.freeSlot q
      if !s.checker.admitted.contains src || !s.headerFirst m then .refused .notEnabled
      else if !s.liveWorld m.world || !s.peerAdmits m.world src then .next (u.replyPeer src 0 0x23 [])
      else match u.takeHeader m with
        | some t => .next t.progress
        | none => .next u

/-- `MESSAGE_RESEND`: no sooner than 1,024 clocks after the refusal. -/
def execMessageResend (op : Nat) (s : State) : Out :=
  match s.iod.resend.find? (fun x => x.1.op == some op && x.2 ≤ s.clock) with
  | none => .refused .notEnabled
  | some x =>
    let s1 := { s with iod := { s.iod with resend := s.iod.resend.erase x } }
    match s1.takeHeader x.1 with
    | some t => .next (t.headerTaken x.1).progress
    | none => .next { s1 with iod := { s1.iod with resend := s1.iod.resend ++ [(x.1, s.clock + 1024)] } }

/-! `post` and the status instructions (spec 09, R253 to R257). -/

/-- The descriptor's registers. -/
def Env.desc (e : Env) (f : FMC) (i : Nat) : Word := e.s (f.f2 + BitVec.ofNat 9 i)

def descX (e : Env) (f : FMC) : Nat := (e.desc f 7).toNat % 65536
def descY (e : Env) (f : FMC) : Nat := (e.desc f 7).toNat / 65536

/-- Address of payload byte b of a landing tensor: each byte of an element is permuted with its own bank (spec 03, R74, R75). -/
def tensorByte (l : Layout) (xe ye b : Nat) : Nat :=
  let i := b / 2 ^ l.esize
  permute l.perm ((l.addr ((i % xe : Nat) : Int) ((i / xe % ye : Nat) : Int) ((i / (xe * ye) : Nat) : Int) 0 + b % 2 ^ l.esize) % 2 ^ 24)

/-- Bounding range of the elements that `n` bytes fill. -/
def tensorBounds (l : Layout) (xe ye n : Nat) : Nat × Nat :=
  let e := 2 ^ l.esize
  (List.range ((n + e - 1) / e * e)).foldl (fun (r : Nat × Nat) b =>
    let a := tensorByte l xe ye b
    if r.1 == r.2 then (a, a + 1) else (min r.1 a, max r.2 (a + 1))) (0, 0)

/-- A handle no receive of the world has. -/
def State.freeHandle (s : State) (w : World) : Word :=
  let used := w.posted.map (·.handle)
  let x := Config.receiveHandle s.draws
  let n := (List.range (used.length + 1)).find? (fun i => !used.contains (x + BitVec.ofNat 32 i))
  x + BitVec.ofNat 32 (n.getD 0)

/-- Scratchpad accesses of a group that have not performed: kept before the landing of a receive it posts (spec 09, R255). -/
def State.spadPending (s : State) (e : Env) : List (Nat × Nat) :=
  (s.flights.filter (fun x => x.spad && x.wg == e.w.id && x.tids.any e.g.members.contains)).map (fun x => (x.id, 6)) ++
  (s.tiles.filter (fun o => o.wg == e.w.id && o.active.any e.g.members.contains && o.kind.keys.any (keySpad ≤ ·))).map (fun o => (o.id, 6))

/-- `post` (spec 09, R255). -/
def execPost (g : Guard) (f : FMC) (s : State) : Out :=
  groupOp g (.post g f) s (fun e _ =>
    let l := layoutOf (e.layoutNat f.f2)
    let cap := (e.desc f 3).toNat
    let c := e.desc f 6
    let xe := descX e f
    let ye := descY e f
    let bad := c.getLsbD 31 || xe == 0 || ye == 0 || !l.ok
    if bad then .next (s.takeTrap e { code := 0x01 })
    else
      let b := tensorBounds l xe ye cap
      if e.l.spad < b.2 then .next (s.takeTrap e { code := 0x20, daddr := l.base })
      else if e.l.shadowOf.isSome then s.done e
      else match s.world? e.gang.world with
        | none => .refused .noGroup
        | some w =>
          if 2048 ≤ w.postedList.length || !s.lockRoom e.gang.world true e.w.id then .next (s.hold e)
          else
            let handle := s.freeHandle w
            let (id, s) := s.fresh
            let s := { s with draws := s.draws + 1 }
            let r : Receive :=
              { id, handle, wg := e.w.id, hgrp := hgrpOf e.g.leader, iaddr := s.iaddr e, core := e.w.home
                layout := BitVec.ofNat 96 (e.layoutNat f.f2), cap, tag := e.desc f 4, tmask := e.desc f 5
                smask := c.extractLsb' 13 13, src := c.extractLsb' 0 13
                count := if c.getLsbD 30 then some (c.extractLsb' 26 4).toNat else none, xext := xe, yext := ye
                deps := s.spadPending e, gang := e.gang.id, status := .posted }
            let s := s.addLock id e.gang.world true e.w.id b.1 b.2 true
            let s := match w.unexp.find? r.matches with
              | some m => s.modWorld e.gang.world (fun w => { w with
                  unexp := w.unexp.erase m, posted := w.posted ++ [{ r with status := .matched m }] })
              | none => s.modWorld e.gang.world (fun w => { w with posted := w.posted ++ [r] })
            (s.setS e f.f1 handle).done e)

/-- The receive of a workgroup that a handle names. -/
def State.receive? (s : State) (e : Env) (h : Word) : Option Receive :=
  match s.world? e.gang.world with
  | some w => w.posted.find? (fun r => r.handle == h && r.wg == e.w.id)
  | none => none

/-- The three status words. -/
def statusWords (r : Option Receive) : Word × Word × Word :=
  match r with
  | none => (0x08000000, 0, 0)
  | some r => match r.status with
    | .complete k trunc aborted tag src =>
      (BitVec.ofNat 32 (k + 2 ^ 24 + (if trunc then 2 ^ 25 else 0) + (if aborted then 2 ^ 28 else 0)), tag, src.setWidth 32)
    | .cancelled => (0x04000000, 0, 0)
    | _ => (0, 0, 0)

/-- Nothing more can become of a receive. -/
def Receive.over (r : Receive) : Bool := match r.status with | .complete .. | .cancelled => true | _ => false

/-- Writes the status, and frees the handle if the status says that the receive is over. -/
def State.report (s : State) (e : Env) (f : FMC) : State :=
  let r := s.receive? e (e.s f.f2)
  let (a, b, c) := statusWords r
  let s := ((s.setS e f.f1 a).setS e (f.f1 + 1) b).setS e (f.f1 + 2) c
  match r with
  | some r => if r.over then s.modWorld e.gang.world (fun w => { w with posted := w.posted.filter (fun x => !(x.id == r.id)) }) else s
  | none => s

def execRprobe (g : Guard) (f : FMC) (s : State) : Out := groupOp g (.rprobe g f) s (fun e _ => (s.report e f).done e)

/-- `rwait` holds while the receive is neither complete nor cancelled. -/
def execRwait (g : Guard) (f : FMC) (s : State) : Out :=
  groupOp g (.rwait g f) s (fun e _ =>
    match s.receive? e (e.s f.f2) with
    | some r => if r.over then (s.report e f).done e else .next (s.hold e)
    | none => (s.report e f).done e)

/-- Cancels receives of a world that are on the posted list. -/
def State.cancelPosted (s : State) (world : Nat) (p : Receive → Bool) : State :=
  match s.world? world with
  | none => s
  | some w =>
    let mine := w.postedList.filter p
    let s := mine.foldl (fun s r => s.unlock r.id (fun _ => true)) s
    s.modWorld world (fun w => { w with
      posted := mapIf (fun r => r.status == .posted && p r) (fun r => { r with status := .cancelled }) w.posted })

def execRcancel (g : Guard) (f : FMC) (s : State) : Out :=
  groupOp g (.rcancel g f) s (fun e _ =>
    match s.receive? e (e.s f.f1) with
    | some r => (s.cancelPosted e.gang.world (fun x => x.id == r.id)).done e
    | none => s.done e)

/-! Landing (spec 09, R253, R256). -/

/-- The payload of a message: what its sender holds, or what a send of this chip reads now; none if it cannot be read whole. -/
def State.payload (s : State) (m : Message) : Option (State × List Byte) :=
  match m.op with
  | none => some (s, m.data)
  | some op => match s.engine? op with
    | none => none
    | some o =>
      if o.stage != EngineStage.running then none
      else
        let x := s.readWords (s.launchOfOp o) o (o.segs.flatMap Seg.each)
        if x.2.2.2.isSome then none else some (x.1, x.2.1.flatMap (·.2))

/-- Where a payload byte of a receive lies in its scratchpad. -/
def Receive.place (r : Receive) (b : Nat) : Nat := tensorByte (layoutOf r.layout.toNat) r.xext r.yext b

/-- A landed byte is written: on a page that is out, to its backing line (spec 09, R256; 14, R328). -/
def State.landByte (s : State) (wg a : Nat) (b : Byte) : State :=
  match s.stt? wg (a / 1024) with
  | some x =>
    if x.present then s.homeWrite (spadKey wg a) b
    else match s.backKey (s.worldOfWg wg) x.bline with
      | some k => s.homeWrite (k + a % 1024) b
      | none => s
  | none => s.homeWrite (spadKey wg a) b

/-- Payload bytes, by number, put into the tensor. -/
def State.landBytes (s : State) (r : Receive) (bytes : List (Nat × Byte)) : State :=
  bytes.foldl (fun s b => s.landByte r.wg (r.place b.1) b.2) s

/-- A page that is out has a backing line that a landing can write. -/
def State.backPage (s : State) (wg page : Nat) : Option State :=
  match s.stt? wg page with
  | some x =>
    if x.present || x.backed then some s
    else match s.freeLine (s.worldOfWg wg) with
      | none => none
      | some n => match s.backKey (s.worldOfWg wg) n with
        | none => none
        | some k => some ((s.homePut k (List.replicate 1024 0)).modStt wg page (fun y => { y with backed := true, bline := n }))
  | none => some s

/-- Scratchpad pages a landing touches come in through the pager, or have their backing lines, as all have while the gang is saved; none
while they have neither (spec 09, R256; 10, R287). -/
def State.landPages (s : State) (r : Receive) (bytes : List Nat) : Option State :=
  match s.wg? r.wg with
  | none => some s
  | some w =>
    let pages := dedup (bytes.map (fun b => r.place b / 1024))
    let fresh := pages.filter (fun p => (s.stt? r.wg p).isNone)
    let out : Bool := match s.gang? w.gang with | some g => g.status == .saved | none => false
    let s := if out then { s with stt := s.stt ++ fresh.map (fun p => ⟨noCore, w.wslot, w.id, p, false, false, true, false, 0, 0, s.clock⟩) } else s
    let fresh := if out then [] else fresh
    match s.touchPages true (fresh.map (fun p => (w, p))) with
    | .ready s =>
      (pages.foldl (fun (t : Option State) p => t.bind (fun s => s.backPage r.wg p)) (some s)).map (fun s =>
        { s with stt := mapIf (fun x => x.wg == r.wg && x.present && pages.contains x.page) (fun x => { x with dirty := true }) s.stt })
    | _ => none

/-- A receive is complete with some landed bytes (spec 09, R256; 14, R380). -/
def State.finishReceive (s : State) (world : Nat) (r : Receive) (m : Message) (k : Nat) (aborted : Bool) : State :=
  let trunc := decide (r.cap < m.size)
  let done (x : Receive) : Receive := { x with status := .complete k trunc aborted m.tag m.src }
  let s := (s.unlock r.id (fun _ => true)).modWorld world (fun w => { w with posted := mapIf (fun x => x.id == r.id) done w.posted })
  let s := match r.count, (s.gang? r.gang).bind (·.arrival) with
    | some c, some n => s.addArrival false n world c k
    | _, _ => s
  let s := match m.op with
    | some op => if aborted then s else (s.unlock op (fun k => !k.dst)).modEngine op (fun o => { o with acked := 1 })
    | none => if m.src.toNat < 4096 && !aborted then s.replyPeer m.src.toNat 0 0 [] else s
  if !trunc || aborted then s
  else
    let lctr := match s.wg? r.wg with
      | some w => (match s.launch? w.launch with | some l => l.lctr | none => 0xFFFF)
      | none => 0xFFFF
    s.pushRecord world { FaultRec.none with
      code := 0x40, lctr := BitVec.ofNat 16 lctr, core := BitVec.ofNat 10 (r.landAt.getD (((s.wg? r.wg).map Workgroup.home).getD r.core)), hgrp := BitVec.ofNat 8 r.hgrp, iaddr := r.iaddr
      daddr := (r.layout.extractLsb' 0 24).setWidth 56 }

/-- A matched receive of a world. -/
def State.matched? (s : State) (world rcv : Nat) : Option (Receive × Message) :=
  match s.world? world with
  | none => none
  | some w => match w.posted.find? (fun r => r.id == rcv) with
    | none => none
    | some r => match r.status with | .matched m => some (r, m) | _ => none

/-- `RECEIVE_LANDING_COMPLETE`. -/
def execReceiveLandingComplete (world rcv : Nat) (s : State) : Out :=
  match s.matched? world rcv with
  | none => .refused .notEnabled
  | some (r, m) => match s.payload m with
    | none => .refused .notEnabled
    | some (s1, bytes) =>
      let k := min m.size r.cap
      let data := ((List.range k).zip bytes).filter (fun b => !r.landed.contains b.1)
      if !s.depsMet r.deps then .refused .notEnabled
      else eventOf ((s1.landPages r (List.range k)).map (fun s => (s.landBytes r data).finishReceive world r m k false))

/-- Bytes of a payload that may be those written so far: any, but each word of the tensor whole (spec 09, R256). -/
def Receive.mayLand (r : Receive) (size : Nat) (landed : List Nat) : Bool :=
  landed.all (fun b => b < size) && (dedup landed).length == landed.length &&
  landed.all (fun b => (List.range size).all (fun c => r.place c / 4 != r.place b / 4 || landed.contains c))

/-- A payload byte of a message: what its sender holds, or what a send of this chip reads now; none where it cannot be read. -/
def State.payloadByte (s : State) (m : Message) (b : Nat) : Option (State × Byte) :=
  match m.op with
  | none => (m.data[b]?).map (fun x => (s, x))
  | some op => (s.engine? op).bind (fun o =>
      let x := s.readWords (s.launchOfOp o) { o with stage := .running } ((o.segs.flatMap Seg.each).drop (b / 4) |>.take 1)
      ((x.2.1.flatMap (·.2))[b % 4]?).map (fun y => (x.1, y)))

/-- Payload bytes, each with its number; none where one cannot be read. -/
def State.payloadBytes (s : State) (m : Message) : List Nat → Option (State × List (Nat × Byte))
  | [] => some (s, [])
  | b :: r => (s.payloadByte m b).bind (fun x => (x.1.payloadBytes m r).map (fun y => (y.1, (b, x.2) :: y.2)))

/-- Some bytes of a matched receive's payload land, in any order, each word of the tensor whole (spec 09, R256). -/
def landMove (s : State) (world rcv : Nat) (bytes : List Nat) : Out :=
  match s.matched? world rcv with
  | none => .next s
  | some (r, m) =>
    let going := match m.op with | none => true | some op => (s.engine? op).any (fun o => o.stage == .running)
    if !going || !s.depsMet r.deps || !r.mayLand (min m.size r.cap) (r.landed ++ bytes) then .next s
    else match ((s.payloadBytes m bytes).bind (fun x => (x.1.landPages r bytes).map (fun s => s.landBytes r x.2))) with
      | none => .next s
      | some t =>
        let home := ((s.wgs.find? (fun w => w.id == r.wg)).map Workgroup.home).getD r.core
        .next (t.modWorld world (fun w => { w with
          posted := mapIf (fun x => x.id == rcv) (fun x => { x with landed := x.landed ++ bytes, landAt := x.landAt.or (some home) }) w.posted })).progress

/-- `LANDING_ABORTED`: the payload cannot be read whole; `landed` are the bytes of it that were written so far, those that had landed
before the event among them (spec 09, R256). -/
def execLandingAborted (world rcv : Nat) (landed : List Nat) (s : State) : Out :=
  match s.matched? world rcv with
  | none => .refused .notEnabled
  | some (r, m) =>
    let new := landed.filter (fun b => !r.landed.contains b)
    let lost := match m.op with
      | none => true
      | some op => (match s.engine? op with | some o => o.stage == .stopped | none => true)
    let whole := min m.size r.cap
    if !lost || !s.depsMet r.deps || !r.landed.all landed.contains || !r.mayLand whole landed then .refused .notEnabled
    else eventOf ((s.payloadBytes m new).bind (fun x => (x.1.landPages r new).map (fun s =>
      (s.landBytes r x.2).finishReceive world r m landed.length true)))

/-- A message has gone out to an endpoint: its sequence number advances (spec 09, R259). -/
def State.frameSent (s : State) (n : Nat) : State :=
  { s with iod := { s.iod with endpoints := mapIf (fun x => x.1 == n) (fun x => (x.1, { x.2 with sent := x.2.sent + 1 })) s.iod.endpoints } }

/-- `SEND_COMPLETE`: the receiver has read the payload, or the destination refused the message (spec 09, R252). -/
def execSendComplete (op : Nat) (refused : Bool) (s : State) : Out :=
  match s.engine? op with
  | none => .refused .notEnabled
  | some o => match o.kind with
    | .send eth dest _ _ =>
      let loop := !eth && dest == s.me
      if o.stage != EngineStage.running || (s.nextMet o).any (fun m => match m.met with | .deny .. => true | _ => false) ||
          (!eth && !loop && !s.answers o.world dest) then
        .refused .notEnabled
      else if refused then (if loop then .refused .notEnabled else .next (s.engineStop o 0x23 o.payload false false).progress)
      else if loop then event (o.acked == 1) (s.landEngine o)
      else
        let x := s.readWords (s.launchOfOp o) o (o.todo.flatMap Seg.each)
        let t := x.1.landEngine o
        event x.2.2.2.isNone (if eth then t.frameSent dest else t)
    | _ => .refused .notEnabled

/-! Scale-out (spec 09, R259). -/

/-- `ETH_FRAME_ARRIVAL`, at one of the eight Ethernet ports: in order per endpoint; a frame out of order is dropped and comes again, one
that matches no live endpoint is dropped and counted. DESIGN CHOICE (assumption 69): so is one of a live endpoint whose world is not live,
and its sender is told nothing. -/
def execEthFrameArrival (f : Frame) (s : State) : Out :=
  let up := match s.iod.eth[f.eth]? with | some p => p.up | none => false
  if !s.powered || !up || f.msg.size != f.msg.data.length || f.msg.op.isSome then .refused .notEnabled
  else match s.iod.endpoints.find? (fun x => x.2.live && x.2.addr == f.addr && x.2.port == f.port) with
    | none => .next { s with iod := { s.iod with ethDropped := s.iod.ethDropped + 1 } }
    | some (n, x) =>
      if f.seq != x.got then .next s
      else if !s.liveWorld f.msg.world then .next { s with iod := { s.iod with ethDropped := s.iod.ethDropped + 1 } }
      else
        let m := { f.msg with src := BitVec.ofNat 13 (4096 + n % 4096) }
        match s.takeHeader m with
        | none => .next s
        | some t => .next { t with iod := { t.iod with endpoints := assocSet n { x with got := x.got + 1 } t.iod.endpoints } }.progress

/-- `ETH_RETRANSMIT`: lost frames of a send go out again; nothing here changes. -/
def execEthRetransmit (op : Nat) (s : State) : Out :=
  event (match s.engine? op with
    | some o => o.stage == .running && (match o.kind with | .send true .. => true | _ => false)
    | none => false) s

end Sys2Proof.Machine
end

