-- ==== Sys2Proof/Machine/Instances.lean ====
section
/-! DEFINITION. Instances of the work hierarchy and what ends them: completion counters and notifies, discarding a gang,
settling versions, the fire ring, re-execution and cancel (spec 10, R263 to R266, R290; 15, R345 to R349, R353, R354; 16, R364;
18, R372). -/

namespace Sys2Proof.Machine

/-! Completion counters (spec 10, R263 to R265). -/

/-- A counter entry (spec 10, R264). -/
structure Ctr where
  target : Nat
  count  : Nat
  status : Nat
  code   : Nat
  level  : Nat
  deriving DecidableEq, Repr

/-- The fields of an entry's word, and the word again. -/
def ctrOf (x : BitVec 128) : Ctr :=
  ⟨(x.extractLsb' 96 32).toNat, (x.extractLsb' 64 32).toNat, (x.extractLsb' 60 4).toNat, (x.extractLsb' 52 8).toNat,
    (x.extractLsb' 48 4).toNat⟩
def Ctr.bits (c : Ctr) : BitVec 128 :=
  BitVec.ofNat 128 (c.target % 2 ^ 32 * 2 ^ 96 + c.count % 2 ^ 32 * 2 ^ 64 + c.status % 16 * 2 ^ 60 + c.code % 256 * 2 ^ 52 +
    c.level % 16 * 2 ^ 48)

/-- An entry of a world's table; a free entry where there is none. -/
def State.ctr (s : State) (world id : Nat) : Ctr :=
  match s.world? world with
  | some w => if id < 4096 then ctrOf (tabGet 0 id w.ctrs) else ctrOf 0
  | none => ctrOf 0

def Ctr.free (c : Ctr) : Bool := c.status == 0
/-- Ended in any state; ended otherwise than complete. -/
def Ctr.over (c : Ctr) : Bool := 3 ≤ c.status && c.status ≤ 6
def Ctr.failed (c : Ctr) : Bool := 4 ≤ c.status && c.status ≤ 6

/-- The counter meets a threshold (spec 10, R263). -/
def Ctr.meets (c : Ctr) (thresh : Nat) : Bool := !c.free && (if thresh == 0 then c.over else thresh ≤ c.count)

/-- Fires the notify registers of a world that are met: the vector is raised and V cleared (spec 18, R372). -/
def State.notifyMet (s : State) (world : Nat) : State :=
  (List.range 16).foldl (fun s n =>
    match s.world? world with
    | none => s
    | some w =>
      let r := listGet 0 w.notify n
      if r.getLsbD 63 && (s.ctr world (r.extractLsb' 32 16).toNat).meets (r.extractLsb' 0 32).toNat then
        (s.modWorld world (fun w => { w with notify := listPut 0 w.notify n (r &&& 0x7FFFFFFFFFFFFFFF) })).raiseIrq world (2 + n)
      else s) s

/-- Writes an entry, and fires what it meets. -/
def State.putCtr (s : State) (world id : Nat) (c : Ctr) : State :=
  if id < 4096 then (s.modWorld world (fun w => { w with ctrs := tabSet 0 id c.bits w.ctrs })).notifyMet world else s

def CtrEnd.new : CtrEnd := ⟨none, false⟩

def State.ctrEnd (s : State) (world id : Nat) : CtrEnd :=
  match s.world? world with | some w => tabGet CtrEnd.new id w.ends | none => CtrEnd.new

/-- An entry's counted ends release at a scope too (spec 10, R266). -/
def State.addScope (s : State) (world id scope : Nat) : State :=
  s.modWorld world (fun w => { w with scopes := tabSet 0 id (max scope (tabGet 0 id w.scopes)) w.scopes })

def State.setEnd (s : State) (world id : Nat) (e : CtrEnd) : State :=
  s.modWorld world (fun w => { w with ends := tabSet CtrEnd.new id e w.ends })

/-- A launch that takes part in the hierarchy: no shadow run. -/
def Launch.real (l : Launch) : Bool := l.shadowOf.isNone

/-- The ID of a level in a launch's packet: 1 launch to 4 job. -/
def Launch.idAt (l : Launch) (level : Nat) : Nat :=
  match level with | 1 => l.lctr | 2 => l.gctr | 3 => l.pctr | _ => l.jctr

/-- A launch waits for its re-execution (spec 15, R354). -/
def State.awaitsRerun (s : State) (l : Nat) : Bool := s.checker.rerun.any (fun x => x.1 == l)

/-- Accepted launches of an instance that have not ended, or that wait to be run again. -/
def State.openUnder (s : State) (world level id : Nat) : List Launch :=
  s.launches.filter (fun l => l.world == world && l.real && (l.status != .ended || s.awaitsRerun l.id) && l.idAt level == id)

/-- An entry at its end: complete, or as its first other sub-instance. -/
def Ctr.endAs (c : Ctr) (bad : Option (BitVec 4 × BitVec 8)) : Ctr :=
  match bad with
  | some b => { c with status := b.1.toNat, code := b.2.toNat }
  | none => { c with status := 3, code := 0 }

/-- An instance has ended: the first level above it that its packet names counts it, and ends in turn (spec 10, R265). A
cancelled instance ends when no accepted launch of it is left (R290). -/
def State.carry (s : State) (world scope : Nat) (bad : Option (BitVec 4 × BitVec 8)) : List (Nat × Nat) → State
  | [] => s
  | (level, id) :: r =>
    if id == 0xFFFF then s.carry world scope bad r
    else
      let c := s.ctr world id
      if c.free || c.level != level then s
      else
        let e := s.ctrEnd world id
        let bad := e.bad.or bad
        let c := { c with count := c.count + 1 }
        let s := s.addScope world id scope
        if !c.over && (c.count == c.target || (e.whole && (s.openUnder world level id).isEmpty)) then
          ((s.putCtr world id (c.endAs bad)).setEnd world id CtrEnd.new).carry world scope bad r
        else (s.putCtr world id c).setEnd world id { e with bad }

/-- The levels above a launch. -/
def Launch.above (l : Launch) : List (Nat × Nat) := [(2, l.gctr), (3, l.pctr), (4, l.jctr)]

/-- A launch has started: its entry, and waiting entries above it, are running (spec 10, R264). -/
def State.runCtrs (s : State) (l : Launch) : State :=
  if !l.real then s
  else ((1, l.lctr) :: l.above).foldl (fun s x =>
    let c := s.ctr l.world x.2
    if c.status == 1 && c.level == x.1 then s.putCtr l.world x.2 { c with status := 2 } else s) s

/-- A launch leaves its queue's order. -/
def State.unqueue (s : State) (l : Launch) : State :=
  let drop (q : Queue) : Queue := { q with order := q.order.filter (fun i => !(i == l.id)) }
  s.modWorld l.world (fun w => { w with queues := w.queues.map drop })

/-- A launch ends: its entry takes its status, and the end is counted above it once (spec 10, R265; 15, R354). -/
def State.endLaunch (s : State) (l : Launch) (bad : Option (BitVec 4 × BitVec 8)) : State :=
  let s := (s.unqueue l).modLaunch l.id (fun l => { l with status := .ended, bad, counted := true, cancelled := true })
  if !l.real then s
  else
    let c := s.ctr l.world l.lctr
    let s := s.addScope l.world l.lctr l.cscope
    let s := if c.level == 1 then (s.putCtr l.world l.lctr (c.endAs bad)).setEnd l.world l.lctr CtrEnd.new else s
    if l.counted then s else s.carry l.world l.cscope bad l.above

/-! The fire ring (spec 15, R349). -/

/-- An entry of the ring. -/
def fireEntry (lctr attempt version event writers test rslot index : Nat) : BitVec 128 :=
  BitVec.ofNat 128 (lctr % 2 ^ 16 * 2 ^ 112 + attempt % 256 * 2 ^ 104 + version % 2 ^ 32 * 2 ^ 72 + event % 256 * 2 ^ 64 +
    writers % 256 * 2 ^ 56 + test % 16 * 2 ^ 52 + rslot % 16 * 2 ^ 48 + index % 2 ^ 48)

/-- The ring takes no entry: it was never set, it is full, or entries are held for it. -/
def FireRing.blocked (r : FireRing) : Bool :=
  !r.baseSet || !r.sizeSet || !r.held.isEmpty || 2 ^ r.size.toNat ≤ ringCount r.head r.wpos r.lapped

/-- Writes an entry into the ring, or holds it in order. -/
def State.pushFire (s : State) (world : Nat) (x : BitVec 128) : State :=
  match s.world? world with
  | none => s
  | some w =>
    let r := w.fire
    let hold := s.modWorld world (fun w => { w with fire := { r with held := r.held ++ [x] } })
    if r.blocked then hold
    else match w.place (r.base.toNat * 16 + 16 * (r.wpos.toNat % 2 ^ r.size.toNat)) with
      | none => hold
      | some k =>
        ((s.homePut k (natLe 16 x.toNat)).modWorld world (fun w => { w with fire := { r with wpos := r.wpos + 1, lapped := r.wpos + 1 == r.head } })).raiseIrq world 0

/-- Entries that were held go out again in order. -/
def State.flushFire (s : State) (world : Nat) : State :=
  match s.world? world with
  | none => s
  | some w =>
    w.fire.held.foldl (fun s x => s.pushFire world x)
      (s.modWorld world (fun w => { w with fire := { w.fire with held := [] } }))

/-- Fired and discarded versions report themselves, but not those of a shadow run. -/
def State.reportVersion (s : State) (v : Version) (event test rslot index : Nat) : State :=
  if v.shadow then s
  else s.pushFire v.world (fireEntry v.lctr.toNat v.attempt v.num.toNat event v.writers.toNat test rslot index)

/-! Discarding a gang (spec 10, R290). -/

/-- Workgroups of a gang. -/
def State.wgsOf (s : State) (gang : Nat) : List Nat := (s.wgs.filter (fun w => w.gang == gang)).map (·.id)

/-- An engine operation stops at once, with its ranges, its request for leave and what it has under way (spec 10, R285, R290). -/
def State.dropEngine (s : State) (op : Nat) : State :=
  let s := s.unlock op (fun _ => true)
  { s with
    engines := s.engines.filter (fun o => !(o.id == op))
    dies := s.dies.map (fun d => { d with leaves := d.leaves.filter (fun q => q.tile || q.op != op) })
    iod := { s.iod with
      bulk := s.iod.bulk.filter (fun x => x.op != some op), red := s.iod.red.filter (fun x => x.op != op)
      resend := s.iod.resend.filter (fun x => x.1.op != some op) } }

/-- The arrival entry of a gang and its bindings are freed. -/
def State.freeArrival (s : State) (gang : Nat) : State :=
  { s with
    iod := { s.iod with
      arrivals := s.iod.arrivals.filter (fun a => !(a.gang == gang)), bindings := s.iod.bindings.filter (fun b => !(b.2.1 == gang)) }
    gangs := mapIf (fun g => g.id == gang) (fun g => { g with arrival := none }) s.gangs }

/-- Receives of a workgroup that are on the posted list are cancelled, and its statuses discarded (spec 09, R257). -/
def State.dropReceives (s : State) (world wg : Nat) : State :=
  let s := s.cancelPosted world (fun r => r.wg == wg)
  s.modWorld world (fun w => { w with posted := w.posted.filter (fun r => !(r.wg == wg && r.over)) })

/-- A gang halts and will never run again: its threads stop, its loads are dropped, its engines stop, its receives and arrival
entry go; its stores, atomics and tile operations still drain, but for those that
an error reply has ended. -/
def State.discardGang (s : State) (gang : Nat) : State :=
  match s.gang? gang with
  | none => s
  | some g =>
    let mine := s.wgsOf gang
    let s := s.modGang gang (fun g => { g with status := .discarding, haltAt := s.clock })
    let s := { s with
      groups := s.groups.filter (fun x => !mine.contains x.wg), bins := s.bins.filter (fun x => !mine.contains x.wg)
      flights := s.flights.filter (fun f => !(mine.contains f.wg && (f.kind.isLoad || f.poisoned || f.replay)))
      tiles := s.tiles.filter (fun o => !(mine.contains o.wg && o.poisoned)) }
    let s := ((s.engines.filter (fun o => o.gang == gang)).map (·.id)).foldl State.dropEngine s
    (mine.foldl (fun s w => s.dropReceives g.world w) s).freeArrival gang

/-- Gangs of a launch. -/
def State.gangsOf (s : State) (launch : Nat) : List Nat := (s.gangs.filter (fun g => g.launch == launch)).map (·.id)

def State.discardGangs (s : State) (launch : Nat) : State := (s.gangsOf launch).foldl State.discardGang s

/-- Some shadow runs are given up: they are runs of no number any more. -/
def State.dropRuns (s : State) (p : Launch → Bool) : State :=
  (s.launches.filter (fun x => x.shadowOf.isSome && x.run != 0 && p x)).foldl (fun s x =>
    let s := s.modLaunch x.id (fun x => { x with run := 0 })
    let s := { s with versions := s.versions.filter (fun v => !(v.launch == x.id && v.shadow)) }
    ((s.endLaunch x (some (4, 0)))).discardGangs x.id) s

/-- Those of one attempt of a launch. -/
def State.dropShadows (s : State) (l : Launch) : State := s.dropRuns (fun x => x.shadowOf == some l.id && x.attempt == l.attempt)

/-- Those whose first run has no version left that they are compared for (spec 15, R353). -/
def State.giveUpRuns (s : State) : State :=
  s.dropRuns (fun x => !s.versions.any (fun v => x.shadowOf == some v.launch && v.attempt == x.attempt && !v.shadow && !v.matched &&
    (v.dual || x.wkind == 3)))

/-- A launch as one of its attempts was. -/
def Launch.asOf (l : Launch) (attempt : Nat) : Launch :=
  match l.past.find? (fun p => p.number == attempt) with
  | some p => { l with attempt, words := p.words, vl := p.vl, shareOn := p.shareOn, sum := p.sum, status := .ended, bad := none }
  | none => l

/-! Re-execution (spec 15, R354; 16, R364). -/

/-- Live die stacks: neither retired, excluded nor fenced (spec 00, R5; 15, R344, R358). -/
def Die.up (d : Die) : Bool := d.live && !d.retired && !d.excluded && !d.fenced
def State.liveMask (s : State) : BitVec 8 := (List.range 8).foldl (fun m d => if (s.die d).up then m ||| (1 <<< d) else m) 0

/-- A partition vector over some dies in increasing number (spec 13, R307). -/
def partOver (gangs : Nat) (dies : List Nat) : List Code :=
  let each := if dies.isEmpty then 0 else (gangs + dies.length - 1) / dies.length
  (List.range 8).map (fun d =>
    match dies.findIdx? (· == d) with
    | some i =>
      let start := min gangs (i * each)
      let n := min each (gangs - start)
      if n == 0 then 0 else BitVec.ofNat 64 (start * 2 ^ 40 + n * 2 ^ 16)
    | none => 0)

/-- Launch versions in use in a world; the checker gives another one (spec 15, R345). -/
def State.freeVl (s : State) (world : Nat) : BitVec 24 :=
  let used := (s.launches.filter (fun l => l.world == world)).map (fun l => l.vl) ++
    (s.versions.filter (fun v => v.world == world)).map (fun v => v.num.extractLsb' 8 24) ++
    (s.checker.settled.filter (fun x => x.1 == world)).map (fun x => x.2.1.extractLsb' 8 24)
  let x := Config.launchVersion s.draws
  let n := (List.range (used.length + 1)).find? (fun i => !used.contains (x + BitVec.ofNat 24 i))
  x + BitVec.ofNat 24 (n.getD 0)

/-- Puts a re-submission into its queue's order, at the head among the re-submissions: behind those of launches that started before it,
of which it may depend (spec 15, R354). -/
def State.requeue (s : State) (l : Launch) : State :=
  let again (i : Nat) : Bool := match s.launch? i with | some x => 0 < x.attempt && x.begun ≤ l.begun | none => false
  let put (q : Queue) : Queue :=
    { q with order := q.order.takeWhile again ++ [l.id] ++ q.order.dropWhile again }
  s.modWorld l.world (fun w => { w with queues := listPut Queue.new w.queues l.prio (put (listGet Queue.new w.queues l.prio)) })

/-- A launch's entry is open again (spec 15, R354). -/
def State.reopen (s : State) (l : Launch) : State :=
  s.putCtr l.world l.lctr { s.ctr l.world l.lctr with status := 2, count := 0, code := 0, level := 1, target := l.gangs }

/-- The checker submits the packet it kept again: a new attempt, version and seed, and a vector over the live dies without those
to avoid; the entry is reopened and event 6 is written (spec 15, R354; 16, R364). -/
def State.resubmit (s : State) (l : Launch) (avoid : BitVec 8) : State :=
  let mask := match s.world? l.world with | some w => w.diemask | none => 0
  let part := partOver l.gangs (dieList (mask &&& s.liveMask &&& ~~~avoid))
  let vl := s.freeVl l.world
  let words := (l.words.take 4) ++ [Config.witnessSeed s.draws] ++ (l.words.drop 5).take 5 ++ part ++ l.words.drop 18
  let dies : BitVec 8 := ((List.range 8).zip part).foldl (fun (m : BitVec 8) (p : Nat × Code) => if p.2 == 0 then m else m ||| (1 <<< p.1)) 0
  let n : Launch := { l with
    words, vl, attempt := l.attempt + 1, status := .waiting, placed := List.replicate 8 0, ended := 0, bad := none
    bars := List.replicate 4 Barrier.new, acted := false, inherits := [], cancelled := false, shareOn := List.range 8, sum := []
    past := l.past ++ [⟨l.attempt, l.words, l.vl, l.shareOn, l.sum⟩] }
  let s := { (s.unqueue l).modLaunch l.id (fun _ => n) with draws := s.draws + 1 }
  let s := s.reopen l
  (s.requeue n).pushFire l.world (fireEntry l.lctr n.attempt (vl.toNat * 256) 6 dies.toNat 0 0 0)

/-- No die is left for a re-execution of a launch (spec 15, R354). -/
def State.dieless (s : State) (l : Launch) (avoid : BitVec 8) : Bool :=
  match s.world? l.world with | some w => w.diemask &&& s.liveMask &&& ~~~avoid == 0 | none => true

/-- A launch fails for good: STATUS failed with CODE POISON, and event 7 (spec 15, R354). -/
def State.failLaunch (s : State) (l : Launch) : State :=
  let s := ((s.dropShadows l).endLaunch l (some (6, 0x25))).discardGangs l.id
  let s := { s with checker := { s.checker with rerun := s.checker.rerun.filter (fun x => !(x.1 == l.id)) } }
  s.pushFire l.world (fireEntry l.lctr l.attempt (l.vl.toNat * 256) 7 0 0 0 0)

/-- Re-submissions whose launch has stopped are made, in order; one that has to wait holds those of its world behind it, and one that no
die is left for fails (spec 15, R354). -/
def State.rerunFrom (s : State) (kept : List (Nat × BitVec 8)) : List (Nat × BitVec 8) → State
  | [] => { s with checker := { s.checker with rerun := kept } }
  | (id, avoid) :: r =>
    match s.launch? id with
    | none => s.rerunFrom kept r
    | some l =>
      if (s.gangsOf id).isEmpty && !kept.any (fun k => (s.launch? k.1).any (fun x => x.world == l.world)) then
        (if s.dieless l avoid then s.failLaunch l else s.resubmit l avoid).rerunFrom kept r
      else s.rerunFrom (kept ++ [(id, avoid)]) r

def State.rerunReady (s : State) (r : List (Nat × BitVec 8)) : State := s.rerunFrom [] r

/-! Settling versions (spec 15, R348, R354; 16, R364). -/

/-- What is still to be done after a version was found bad: a version to discard with an event and its details and the dies to
avoid, a launch to run again, a launch to fail. -/
inductive Work where
  | drop (v event : Nat) (avoid : BitVec 8) (test rslot index : Nat)
  | again (l : Nat) (avoid : BitVec 8)
  | fail (l : Nat)
  deriving DecidableEq, Repr

def Work.isDrop : Work → Bool | .drop .. => true | _ => false

/-- Pending versions of a launch, of every attempt. -/
def State.versionsOf (s : State) (l : Nat) : List Version := s.versions.filter (fun v => v.launch == l)

/-- Pending versions of a launch's present attempt. -/
def State.held (s : State) (l : Launch) : List Version := s.versions.filter (fun v => v.launch == l.id && v.attempt == l.attempt)

/-- What a cancel of the present attempt discards: its versions that are OPEN (spec 15, R348). -/
def State.lost (s : State) (l : Launch) : List Work :=
  ((s.held l).filter (fun v => v.state == VState.openV)).map (fun v => Work.drop v.id 4 0 0 0 0)

/-- The version's words are removed, and its number remembered: later writes under it are dropped. -/
def State.dropVersion (s : State) (v : Version) (event test rslot index : Nat) : State :=
  let s := { s with
    versions := s.versions.filter (fun x => !(x.id == v.id))
    checker := { s.checker with
      settled := s.checker.settled ++ [(v.world, v.num, 1)]
      subs := s.checker.subs.filter (fun r => !(r.world == v.world && r.body.version == v.num)) } }
  s.reportVersion v event test rslot index

/-- The versions and launches that a discarded version takes with it: its fire group, what depends on it, and launches that have
inherited it and have written nothing. -/
def State.fallOut (s : State) (v : Version) (event : Nat) (avoid : BitVec 8) : List Work × List Work :=
  let mates := (s.versions.filter (fun x => x.group == v.group && x.id != v.id)).map (fun x => Work.drop x.id event avoid 0 0 0)
  let deps := (s.versions.filter (fun x => x.up.contains v.id && x.group != v.group)).map (fun x => Work.drop x.id 3 avoid 0 0 0)
  let heirs := (s.launches.filter (fun l => l.inherits.contains v.id && l.real && l.bad.isNone &&
    (s.held l).all (fun x => x.words.isEmpty))).map (fun l => Work.again l.id avoid)
  let own := if v.shadow || (event != 2 && event != 3 && event != 5) then [] else [Work.again v.launch avoid]
  (mates ++ deps, own ++ heirs)

/-- Adds one thing to do at the end, once: a launch that runs again already avoids the dies of both reasons. -/
def joinWork (w : List Work) (x : Work) : List Work :=
  match x with
  | .again l avoid =>
    let same (y : Work) : Bool := match y with | .again m _ => m == l | _ => false
    let both (y : Work) : Work := match y with | .again m a => .again m (a ||| avoid) | y => y
    (match w.find? same with | some _ => mapIf same both w | none => w ++ [x])
  | x => if w.contains x then w else w ++ [x]

/-- Adds drops behind the drops at the front, and the rest at the end, each once. -/
def addWork (w : List Work) (drops rest : List Work) : List Work :=
  rest.foldl joinWork (w.takeWhile Work.isDrop ++ drops.filter (fun x => !w.contains x) ++ w.dropWhile Work.isDrop)

/-- A launch cannot be run again: its attempt did something a repeat would duplicate, it has had its attempts, or no die is left
(spec 15, R354). -/
def State.cannotRepeat (s : State) (l : Launch) (avoid : BitVec 8) : Bool :=
  l.acted || 2 ≤ l.attempt || s.dieless l avoid

/-- Joins a re-execution to those that wait, behind those of launches that started before it: what it depends on among them (spec 15,
R354). -/
def State.addRerun (s : State) (l : Launch) (avoid : BitVec 8) : State :=
  let first (x : Nat × BitVec 8) : Bool := match s.launch? x.1 with | some y => y.begun ≤ l.begun | none => true
  let r := s.checker.rerun
  let mine (x : Nat × BitVec 8) : Bool := x.1 == l.id
  let rerun := if r.any mine then mapIf mine (fun x => (x.1, x.2 ||| avoid)) r else r.takeWhile first ++ [(l.id, avoid)] ++ r.dropWhile first
  { s with checker := { s.checker with rerun } }

/-- A launch that has failed for good: it runs no more (spec 15, R354). -/
def Launch.failed (l : Launch) : Bool := l.status == .ended && l.bad == some (6, 0x25)

/-- A launch that is cancelled, or has ended otherwise than complete: it is not run again. -/
def Launch.doomed (l : Launch) : Bool := l.failed || (l.cancelled && l.bad.isSome)

/-- Works off a list of discards, re-executions and failures. An attempt whose gangs still run is cancelled first, and what it leaves OPEN
is discarded when the cancel has completed (spec 15, R348; 16, R364). -/
def State.workOff (s : State) : Nat → List Work → State
  | 0, _ => s
  | _, [] => s
  | n + 1, .drop id event avoid test rslot index :: r =>
    match s.versions.find? (fun v => v.id == id) with
    | none => s.workOff n r
    | some v =>
      let f := s.fallOut v event avoid
      (s.dropVersion v event test rslot index).workOff n (addWork r f.1 f.2)
  | n + 1, .again id avoid :: r =>
    match s.launch? id with
    | none => s.workOff n r
    | some l =>
      if !l.real then (if l.status == .ended then s else (s.endLaunch l (some (6, 0x25))).discardGangs id).workOff n r
      else if l.doomed then s.workOff n r
      else if s.cannotRepeat l avoid then
        s.workOff n ((s.held l).map (fun v => Work.drop v.id 4 avoid 0 0 0) ++ .fail id :: r)
      else
        let running := l.status == .running
        let lost := if running && (s.gangsOf id).isEmpty then s.lost l else []
        let s := if running then (s.modLaunch id (fun l => { l with cancelled := true, bad := none })).discardGangs id else s
        ((s.addRerun l avoid).reopen l).workOff n (lost ++ r)
  | n + 1, .fail id :: r =>
    match s.launch? id with
    | none => s.workOff n r
    | some l =>
      if l.failed then s.workOff n r else (s.failLaunch l).workOff n r

/-- Fired words reach their homes, in the order the versions were created (spec 15, R348). -/
def State.fireVersion (s : State) (v : Version) : State :=
  let s := v.words.foldl (fun s w => s.homePut w.1 (natLe 4 w.2.toNat)) s
  ({ s with versions := s.versions.filter (fun x => !(x.id == v.id)) }).reportVersion v 1 0 0 0

/-- A warm reset of a stack that wrote a version is under way: its test goes on and it fires after the re-admission (spec 15, R357). -/
def State.writerReset (s : State) (v : Version) : Bool :=
  (dieList v.writers).any (fun d => (s.die d).resetReq || (s.die d).resetting)

/-- A fire group may fire: every member waits, none was written by a stack that is being reset, and nothing outside it that a member
depends on is pending. -/
def State.mayFire (s : State) (v : Version) : Bool :=
  !v.shadow && (match s.world? v.world with | some w => !w.fire.blocked | none => false) &&
  (s.versions.filter (fun x => x.group == v.group)).all (fun x =>
    x.state == .waitingV && !s.writerReset x && x.up.all (fun u => !s.versions.any (fun y => y.id == u && y.group != v.group)))

/-- Fires what may fire. -/
def State.fireAll (s : State) : Nat → State
  | 0 => s
  | n + 1 =>
    match s.versions.find? s.mayFire with
    | none => s
    | some v => ((s.versions.filter (fun x => x.group == v.group)).foldl State.fireVersion s).fireAll n

/-- Launches nobody needs any more are forgotten. One that ended complete while a version it has inherited is pending may have to run
again (spec 16, R364). -/
def State.sweep (s : State) : State :=
  let needed (l : Launch) : Bool :=
    l.status != .ended || !(s.gangsOf l.id).isEmpty || !(s.versionsOf l.id).isEmpty || s.awaitsRerun l.id ||
    (l.real && l.bad.isNone && l.inherits.any (fun u => s.versions.any (fun v => v.id == u))) ||
    (match l.shadowOf with
     | some o => l.run != 0 && s.versions.any (fun v => v.launch == o && v.attempt == l.attempt && v.dual)
     | none => s.launches.any (fun x => x.shadowOf == some l.id))
  { s with launches := s.launches.filter needed }

/-- What cancelled attempts whose gangs have all drained have left OPEN (spec 16, R364). -/
def State.drained (s : State) : List Work :=
  (s.launches.filter (fun l => s.awaitsRerun l.id && (s.gangsOf l.id).isEmpty)).flatMap s.lost

/-- Settles: the discards and what follows, shadow runs with nothing to compare, then what may fire, then re-submissions that may be
made. -/
def State.settle (s : State) (w : List Work) : State :=
  let n := s.versions.length + s.launches.length + w.length + 4
  let s := s.workOff (8 * n * n) w
  let s := (s.workOff (8 * n * n) s.drained).giveUpRuns
  let s := s.fireAll (s.versions.length + 1)
  (s.rerunReady s.checker.rerun).sweep

/-! The end of a launch (spec 10, R265; 15, R348, R353). -/

/-- The dies that place gangs of a launch. -/
def Launch.dies (l : Launch) : List Nat :=
  dedup ((List.range 8).filterMap (fun d => if l.count d == 0 then none else some (listGet d l.shareOn d)))

/-- The next die after one, around. -/
def nextDie (d : Nat) (dies : List Nat) : Option Nat := (dies.find? (fun x => d < x)).or dies.head?

/-- Submits a shadow run or a third run of a launch, with its dies (spec 15, R353). -/
def State.submitShadow (s : State) (l : Launch) (run : Nat) (shareOn : List Nat) : State :=
  let (id, s) := s.fresh
  let x : Launch := { l with
    id, vl := s.freeVl l.world, status := .waiting, placed := List.replicate 8 0, ended := 0, bars := List.replicate 4 Barrier.new
    acted := false, shadowOf := some l.id, run, bad := none, cancelled := false, counted := true, shareOn, sum := [], past := [] }
  let put (q : Queue) : Queue := { q with order := id :: q.order }
  { s with launches := s.launches ++ [x], draws := s.draws + 1 }
    |>.modWorld l.world (fun w => { w with queues := listPut Queue.new w.queues l.prio (put (listGet Queue.new w.queues l.prio)) })

/-- The second run: each die's share goes to the next live die of the world that the first run did not use, or to the next live
one. -/
def State.shadowRun (s : State) (l : Launch) : State :=
  if s.launches.any (fun x => x.shadowOf == some l.id && x.attempt == l.attempt && x.run != 0) then s
  else
    let mask := match s.world? l.world with | some w => w.diemask | none => 0
    let live := dieList (mask &&& s.liveMask)
    let fresh := live.filter (fun d => !l.dies.contains d)
    let place (d : Nat) : Nat := let at' := listGet d l.shareOn d; ((nextDie at' fresh).or (nextDie at' live)).getD at'
    s.submitShadow l 2 ((List.range 8).map place)

/-- Inserts a word by address, then value. -/
def insertWord (x : Nat × Word) : List (Nat × Word) → List (Nat × Word)
  | [] => [x]
  | y :: r => if y.1 < x.1 || (y.1 == x.1 && y.2.toNat < x.2.toNat) then y :: insertWord x r else x :: y :: r

/-- What the digest of a run is taken over: every word of its versions in ascending address order, then by value. The digest is modelled
by the words themselves (spec 15, R353; assumption 17). -/
def digest (vs : List Version) : List (Nat × Word) := vs.foldl (fun r v => v.words.foldl (fun r w => insertWord w r) r) []

/-- Every gang of the launch has ended, or it was cancelled and none is left: it ends, and its versions go to their tests or are
discarded. -/
def State.finishLaunch (s : State) (id : Nat) : State :=
  match s.launch? id with
  | none => s
  | some l =>
    let s := (s.modLaunch id (fun x => { x with sum := digest (s.held l) })).endLaunch l l.bad
    if !l.real then s.sweep
    else match l.bad with
      | some _ => s.settle (s.lost l)
      | none =>
        let dual := l.wkind == 3
        let records (v : Version) : Bool := s.checker.subs.any (fun r => r.world == v.world && r.body.version == v.num)
        let test (v : Version) : Version := { v with state := .testing, dual := v.dual || dual, passedTest := dual && !records v }
        let s := { s with versions := mapIf (fun v => v.launch == id && v.state == VState.openV) test s.versions }
        let s := if dual && !(s.held l).isEmpty then s.shadowRun l else s
        s.settle []

/-- The launch is over if its last gang has ended, or it was cancelled and has no gang left. What the last gangs of a failed launch have
left OPEN is discarded (spec 15, R348). -/
def State.tryFinish (s : State) (id : Nat) : State :=
  match s.launch? id with
  | none => s
  | some l =>
    if s.awaitsRerun id then s.settle []
    else if l.status == .ended then (if (s.gangsOf id).isEmpty then s.settle (s.lost l) else s.sweep)
    else if (s.gangsOf id).isEmpty && (l.ended == l.gangs || l.cancelled) then s.finishLaunch id
    else s

/-! Cancel (spec 10, R290, R300). -/

/-- Cancels an accepted launch that has not ended. -/
def State.cancelLaunch (s : State) (id : Nat) : State :=
  match s.launch? id with
  | none => s
  | some l =>
    if l.status == .ended && !s.awaitsRerun id then s
    else
      let s := { s with checker := { s.checker with rerun := s.checker.rerun.filter (fun x => !(x.1 == id)) } }
      let s := (s.unqueue l).modLaunch id (fun l => { l with cancelled := true, bad := some (4, 0) })
      if l.status == .ended then (s.endLaunch l (some (4, 0))).settle []
      else (s.discardGangs id).tryFinish id

/-- Cancels the instance a counter names, with everything it holds. DESIGN CHOICE (assumption 70): an instance above a launch with no
accepted launch open ends at once, and no level counts it, since no packet is left to name its parent; a packet that still lies in a
queue's ring is accepted and runs, whatever instance it names: R290 speaks of queued launches. -/
def State.cancelInstance (s : State) (world level id : Nat) : State :=
  let c := s.ctr world id
  if c.free || c.level != level || c.over then s
  else if level == 1 then (s.openUnder world 1 id).foldl (fun s l => s.cancelLaunch l.id) s
  else
    let mine := s.openUnder world level id
    let inner := dedup (mine.flatMap (fun l => (l.above.filter (fun x => x.1 ≤ level && x.2 != 0xFFFF)).map (·.2)) ++ [id])
    let s := inner.foldl (fun s i =>
      if (s.ctr world i).over || (s.ctr world i).free then s
      else s.setEnd world i { bad := some (4, 0), whole := true }) s
    let s := mine.foldl (fun s l => s.cancelLaunch l.id) s
    let c := s.ctr world id
    if !c.over && (s.openUnder world level id).isEmpty then
      (s.putCtr world id (c.endAs (some (4, 0)))).setEnd world id CtrEnd.new
    else s

/-- Every instance of a world is cancelled (spec 18, R373; 14, R379). -/
def State.cancelWorld (s : State) (world : Nat) : State :=
  let s := (s.launches.filter (fun l => l.world == world && l.real)).foldl (fun s l =>
    (s.dropRuns (fun x => x.shadowOf == some l.id)).cancelLaunch l.id) s
  (List.range 4096).foldl (fun s id =>
    let c := s.ctr world id
    if c.free || c.over then s
    else if c.level == 1 then s
    else if (s.openUnder world c.level id).isEmpty then s.putCtr world id (c.endAs (some (4, 0)))
    else s.setEnd world id { bad := some (4, 0), whole := true }) s

end Sys2Proof.Machine
end

