-- ==== Sys2Proof/Machine/Launching.lean ====
section
/-! DEFINITION. Launch queues, acceptance, placement and the ends of workgroups and gangs: `launch`, `cancel`, `hcwait` (opcode
0x52) and the events QTAIL to GANG_END, DRIVER_CANCEL, NOTIFY_WRITE and COMPLETION_COUNTER_WRITE (spec 02, R26 to R28, R35, R38,
R45, R53; 09, R258; 10, R262 to R273, R284, R298 to R301; 18, R371, R372). -/

namespace Sys2Proof.Machine

/-! Reading blocks through a world's translation (spec 10, R268). -/

/-- The entry a walk ends at: a leaf, or one with V = 0. -/
def World.lastEntry (w : World) (m : List Host.Cell) : Nat → List Nat → Option (BitVec 64)
  | _, [] => none
  | table, i :: r => match w.pte m table i with
    | none => none
    | some e => if !pteValid e || pteLeaf e then some e else w.lastEntry m (pteNext e) r

/-- The walk ends at an absent entry, not at a leaf that is not resident (spec 14, R316). -/
def World.absentEntry (w : World) (m : List Host.Cell) (va : Nat) : Bool :=
  match w.lastEntry m (w.ptroot.toNat * 2 ^ 16) [va / 2 ^ 43 % 8192, va / 2 ^ 30 % 8192, va / 2 ^ 21 % 512, va / 2 ^ 16 % 32] with
  | some e => !pteValid e && !pteLeaf e
  | none => false

/-- What reading a block answers. -/
inductive Block where
  | bytes (b : List Byte)
  /-- an address in a page that is not resident, and log2 of the page -/
  | wait (va bits : Nat)
  | denied
  | absent (key : Nat)
  /-- a part lies on another chip, to which no packet crosses yet -/
  | hold
  deriving DecidableEq, Repr

/-- First bytes of each 64 KiB region a range touches. -/
def regionsOf (va n : Nat) : List Nat :=
  if n == 0 then [] else (List.range ((va + n - 1) / 65536 + 1 - va / 65536)).map (fun i => max va ((va / 65536 + i) * 65536) % 2 ^ 56)

/-- First bytes of each 4 KiB granule a range touches (spec 14, R321). -/
def granulesOf (va n : Nat) : List Nat :=
  if n == 0 then [] else (List.range ((va + n - 1) / 4096 + 1 - va / 4096)).map (fun i => max va ((va / 4096 + i) * 4096) % 2 ^ 56)

/-- The first thing in the way of a read of some granules by the IOD. -/
def State.blockBar (s : State) (world : Nat) : List Nat → Option Block
  | [] => none
  | va :: r =>
    match s.permit 2000 world 8 va .read with
    | (c, t) => match c.absent, c.traps, c.pages, t with
      | some k, _, _, _ => some (.absent k)
      | none, _ :: _, _, _ => some .denied
      | none, [], (_, bits) :: _, _ =>
        if (match s.world? world with | some w => w.absentEntry s.mem va | none => true) then some .denied else some (.wait va bits)
      | none, [], [], none => some .denied
      | none, [], [], some t => if s.errs t.key then some .denied else if s.uncrossed t.key then some .hold else s.blockBar world r

/-- Bytes at a global address as the front end reads them: fired contents at their homes. -/
def State.readBlock (s : State) (world va n : Nat) : Block :=
  match s.blockBar world (granulesOf va n) with
  | some b => b
  | none => .bytes ((List.range n).map (fun i =>
      match s.translate 2000 world ((va + i) % 2 ^ 56) with | .ok t => s.homeByte t.key | .error _ => 0))

/-- Bytes as 64-bit words. -/
def wordsOf64 : Nat → List Byte → List Code
  | 0, _ => []
  | n + 1, b => BitVec.ofNat 64 (leNat (b.take 8)) :: wordsOf64 n (b.drop 8)

/-! The checks of acceptance (spec 10, R268). -/

/-- Home groups of a packet's workgroups. -/
def Launch.hgroups (l : Launch) : Nat := (l.threads + 31) / 32

/-- Home groups a partition holds at most for a register demand (spec 02, R35). -/
def residency (vregs : Nat) : Nat := min 64 (3072 / vregs)

/-- Cores a workgroup takes (spec 02, R28). -/
def coresFor (hgs vregs : Nat) : Option Nat := [1, 2, 4].find? (fun k => (hgs + 8 * k - 1) / (8 * k) ≤ residency vregs)

/-- Fields of a ring word (spec 10, R267). -/
def ringDepth (x : Nat) : Nat := x / 2 ^ 29 + 1
def ringUnits (x : Nat) : Nat := x % 2 ^ 19

/-- Bases of the rings, in order, and the end of the last (spec 01, R13). -/
def ringPlaces (rings : List Nat) : List Nat × Nat :=
  rings.foldl (fun (r : List Nat × Nat) x =>
    let base := (r.2 + 1023) / 1024 * 1024
    (r.1 ++ [base], base + ringDepth x * ringUnits x * 64)) ([], 0)

def Launch.ringWords (l : Launch) : List Nat := (List.range l.nring).map l.ring

/-- Every reserved field is zero. -/
def Launch.reservedOk (l : Launch) : Bool :=
  l.field 0 0 3 == 0 && l.field 2 0 1 == 0 && l.field 3 0 4 == 0 &&
  (List.range 4).all (fun i => l.field (6 + i) 48 14 == 0) && (List.range 8).all (fun d => l.field (10 + d) 0 16 == 0) &&
  l.field 26 56 2 == 0 && l.field 31 56 8 == 0 &&
  (List.range 8).all (fun r => if r < l.nring then l.ring r / 2 ^ 19 % 2 ^ 10 == 0 else l.ring r == 0)

/-- A dependence of the packet (spec 10, R263, R267). -/
def Launch.dep (l : Launch) (i : Nat) : Code := l.word (6 + i)
def depValid (x : Code) : Bool := x.getLsbD 63
def depAny (x : Code) : Bool := x.getLsbD 62
def depCtr (x : Code) : Nat := (x.extractLsb' 32 16).toNat
def depThresh (x : Code) : Nat := (x.extractLsb' 0 32).toNat
def Launch.deps (l : Launch) : List Code := ((List.range 4).map l.dep).filter depValid

def Launch.argn (l : Launch) : Nat := l.field 26 58 6
def Launch.argp (l : Launch) : Nat := l.field 26 0 56
def Launch.membp (l : Launch) : Nat := l.field 31 0 56

/-- Counter IDs are table entries or none. -/
def idOk (x : Nat) : Bool := x < 4096 || x == 0xFFFF

/-- The shape rules, but for the counter entry and the blocks (spec 10, R268). DESIGN CHOICE (assumption 69): an ARGP that is no multiple
of 4, with ARGN not 0, and a MEMBP that is no multiple of 8 break them; R268 lists no check of either. -/
def Launch.shapeOk (l : Launch) : Bool :=
  l.reservedOk && 1 ≤ l.vregs && 1 ≤ l.sregs && l.sregs ≤ 384 && l.acc ≤ 16 && l.field 3 23 15 ≤ 16384 &&
  1 ≤ l.threads && l.threads ≤ 8192 && (coresFor l.hgroups l.vregs).isSome && l.workgroups % l.perGang == 0 &&
  l.producer < l.hgroups && l.nring ≤ 8 && l.ringWords.all (fun x => 0 < ringUnits x) && (ringPlaces l.ringWords).2 ≤ l.spad &&
  2 ≤ l.cscope && l.cscope ≤ 5 && l.ksize != 0 && l.argn ≤ 32 && (l.argn == 0 || l.argp % 4 == 0) && l.membp % 8 == 0 &&
  idOk l.gctr && idOk l.pctr && idOk l.jctr && l.lctr < 4096 && l.deps.all (fun x => idOk (depCtr x))

/-- Shares of the partition vector that are not empty: entry, start and count. -/
def Launch.shares (l : Launch) : List (Nat × Nat × Nat) :=
  ((List.range 8).map (fun d => (d, l.start d, l.count d))).filter (fun x => x.2.2 != 0)

/-- The vector's ranges are disjoint, cover every gang and no more, and name live dies of the mask (spec 02, R53). -/
def State.partOk (s : State) (mask : BitVec 8) (l : Launch) : Bool :=
  l.shares.all (fun x => mask.getLsbD x.1 && (s.die x.1).up && x.2.1 + x.2.2 ≤ l.gangs) &&
  l.shares.all (fun x => l.shares.all (fun y => x.1 == y.1 || !meets x.2.1 (x.2.1 + x.2.2) y.2.1 (y.2.1 + y.2.2))) &&
  (l.shares.map (fun x => x.2.2)).foldl (· + ·) 0 == l.gangs

/-! Room on a core (spec 02, R28, R35; 10, R270). -/

/-- Home groups that core j of k gives partition p, of some home groups. -/
def shareOf (hgs k j p : Nat) : Nat :=
  let per := (hgs + k - 1) / k
  (min ((j + 1) * per) hgs - j * per + 7 - p) / 8

/-- Workgroups that hold places: those of gangs that are not saved. -/
def State.residents (s : State) (core : Nat) : List (Workgroup × Launch) :=
  (s.wgs.filter (fun w => w.cores.contains core && (match s.gang? w.gang with | some g => g.status != .saved | none => false))).map
    (fun w => (w, s.launchOfWg w))

/-- Home groups of a workgroup on a partition that hold their registers: some thread of the home group has not ended (spec 10, R283). -/
def State.heldGroups (s : State) (w : Workgroup) (core p : Nat) : Nat :=
  ((List.range w.groups).filter (fun h => w.seat h == (core, p) &&
    (List.range 32).any (fun i => h * 32 + i < w.threads && (s.thread w.id (h * 32 + i)).status != .ended))).length

/-- Home groups and group-registers a partition holds. DESIGN CHOICE (assumption 65): a home group whose threads have ended keeps its
place among the 64 until its workgroup ends; R283 frees its registers. -/
def State.partUse (s : State) (core p : Nat) : Nat × Nat :=
  (s.residents core).foldl (fun (u : Nat × Nat) x =>
    let n := shareOf x.1.groups x.1.cores.length ((x.1.cores.findIdx? (· == core)).getD 0) p
    (u.1 + n, u.2 + s.heldGroups x.1 core p * x.2.vregs)) (0, 0)

/-- Core j of a workgroup's k fits on a core. -/
def State.shareFits (s : State) (l : Launch) (k j core : Nat) : Bool :=
  (s.residents core).length < 64 &&
  (List.range 8).all (fun p =>
    let u := s.partUse core p
    let n := shareOf l.hgroups k j p
    u.1 + n ≤ 64 && u.2 + n * l.vregs ≤ 3072)

/-- The core has room for the accumulator slots. -/
def State.accFits (s : State) (l : Launch) (core : Nat) : Bool :=
  (((s.residents core).filter (fun x => x.1.home == core)).map (fun x => x.2.acc)).foldl (· + ·) l.acc ≤ 128

/-- Choices of k cores of a cluster, the lowest-numbered first. -/
def coreSets (k cluster : Nat) : List (List Nat) :=
  let c (i : Nat) : Nat := cluster * 4 + i
  match k with
  | 1 => [[c 0], [c 1], [c 2], [c 3]]
  | 2 => [[c 0, c 1], [c 0, c 2], [c 0, c 3], [c 1, c 2], [c 1, c 3], [c 2, c 3]]
  | _ => [[c 0, c 1, c 2, c 3]]

/-- The cores a workgroup takes in a cluster. -/
def State.coresIn (s : State) (l : Launch) (cluster : Nat) : Option (List Nat) :=
  (coresFor l.hgroups l.vregs).bind (fun k => (coreSets k cluster).find? (fun cs =>
    (match cs with | c :: _ => s.accFits l c | [] => false) && ((List.range k).zip cs).all (fun x => s.shareFits l k x.1 x.2)))

/-- Free home-group places of a cluster for a launch's gangs. -/
def State.freePlaces (s : State) (l : Launch) (cluster : Nat) : Nat :=
  ((List.range 4).map (fun c => ((List.range 8).map (fun p =>
    let u := s.partUse (cluster * 4 + c) p
    min (64 - u.1) ((3072 - u.2) / l.vregs))).foldl (· + ·) 0)).foldl (· + ·) 0

/-- The lowest workgroup slot of a core that no resident workgroup has. -/
def State.freeWslot (s : State) (core : Nat) : Nat :=
  let used := ((s.residents core).filter (fun x => x.1.home == core)).map (fun x => x.1.wslot)
  ((List.range 64).find? (fun i => !used.contains i)).getD 0

/-! Creating a workgroup and a gang (spec 02, R38, R45). -/

/-- A thread at placement. -/
def Thread.start (code : VA) : Thread := { Thread.gone with status := .run, pc := code, block := code }

/-- Stage rings at placement (spec 01, R13). -/
def Launch.newRings (l : Launch) : List Ring :=
  ((ringPlaces l.ringWords).1.zip l.ringWords).map (fun x => ⟨x.1, ringDepth x.2, ringUnits x.2 * 64, 0, 0, 0, []⟩)

/-- The threads of each home group become an issue group where their partition has a record. DESIGN CHOICE (assumption 69): where all 128
are in use they are filed into a bin; spec 02, R31 names filing for a division alone. -/
def State.seatThreads (s : State) (w : Workgroup) (pc : VA) : State :=
  (List.range w.groups).foldl (fun s h =>
    let seat := w.seat h
    let tids := (List.range 32).filterMap (fun i => if h * 32 + i < w.threads then some (h * 32 + i) else none)
    if s.groupCount seat.1 seat.2 < Config.groupRecords then s.addGroup w.id seat.1 seat.2 tids false
    else s.file w.id seat.1 seat.2 pc tids) s

/-- Places a workgroup of a gang on some cores. -/
def State.addWorkgroup (s : State) (l : Launch) (gang index : Nat) (cores : List Nat) : State :=
  let slot := s.freeWslot (listGet 0 cores 0)
  let (id, s) := s.fresh
  let args := (List.range l.args.length).zip l.args
  let sregs : Tab Word := (List.range l.hgroups).flatMap (fun h =>
    (args.filter (fun a => a.2 != 0)).map (fun a => (h * 512 + a.1, a.2)))
  let w : Workgroup :=
    { id, gang, launch := l.id, index, x := index % l.gx, y := index / l.gx % l.gy, z := index / (l.gx * l.gy)
      threads := l.threads, cores, wslot := slot, sregs, swritten := [], acc := [], cvs := List.replicate 16 ⟨0, 0, none, []⟩
      bars := List.replicate 16 Barrier.new, rings := l.newRings, recs := List.replicate 4 none }
  let code : VA := BitVec.ofNat 56 l.code
  let new := (List.range l.threads).map (fun t => (threadKey id t, Thread.start code))
  ({ s with wgs := s.wgs ++ [w], threads := s.threads ++ new }).seatThreads w code

/-- Places the workgroups of a gang one after another. -/
def State.addWorkgroups (s : State) (l : Launch) (gang cluster : Nat) : List Nat → Option State
  | [] => some s
  | i :: r => match s.coresIn l cluster with
    | none => none
    | some cs => (s.addWorkgroup l gang i cs).addWorkgroups l gang cluster r

/-- Places a gang on a cluster, whole or not at all (spec 10, R270). -/
def State.placeGang (s : State) (l : Launch) (index cluster : Nat) : Option State :=
  let (id, s) := s.fresh
  let g : Gang :=
    { id, launch := l.id, world := l.world, index, die := Config.dieOfCore (cluster * 4), cluster, order := id, status := .running
      haltAt := 0, held := false, heldDie := false, waits := false, skip := [], bars := List.replicate 8 Barrier.new, unit := 0
      size := l.perGang, arrival := none, cancelled := false, saggar := none }
  (({ s with gangs := s.gangs ++ [g] }).formL1 cluster l.fused).addWorkgroups l id cluster ((List.range l.perGang).map (fun i => index * l.perGang + i))

/-- Clusters of a die. -/
def clustersOf (die : Nat) : List Nat := (List.range (Config.coresOfDie die / 4)).map (fun i => Config.firstCore die / 4 + i)

/-- The cluster a gang takes on a die, and the state with it there (spec 10, R270). -/
def State.placeOn (s : State) (l : Launch) (index die : Nat) : Option (Nat × State) :=
  ((clustersOf die).filterMap (fun c => (s.placeGang l index c).map (fun t => (s.freePlaces l c, c, t)))).foldl
    (fun (b : Option (Nat × Nat × State)) x => match b with
      | none => some x
      | some y => if y.1 < x.1 then some x else b) none |>.map (·.2)

/-- Places gangs one after another, each with its die. -/
def State.placeAll (s : State) (l : Launch) : List (Nat × Nat) → Option State
  | [] => some s
  | (index, die) :: r => match s.placeOn l index die with
    | none => none
    | some x => x.2.placeAll l r

/-- Every gang of a launch with the die that places it, in order of index within each share. -/
def Launch.allGangs (l : Launch) : List (Nat × Nat) :=
  l.shares.flatMap (fun x => (List.range x.2.2).map (fun i => (x.2.1 + i, listGet x.1 l.shareOn x.1)))

/-- A co-resident launch would fit on dies that hold nothing else (spec 10, R272). -/
def State.couldFit (s : State) (l : Launch) : Bool :=
  (({ s with wgs := [], gangs := [], threads := [], groups := [], bins := [], launches := [l] }).placeAll l l.allGangs).isSome

/-! Acceptance and rejection (spec 10, R268, R269; 14, R380). -/

/-- The entry LCTR names can be taken. -/
def State.lctrUsable (s : State) (world id : Nat) : Bool :=
  id < 4096 && (let c := s.ctr world id; c.status != 1 && c.status != 2)

/-- An entry comes into use: what is accepted from now on is what it can count (spec 10, R264). -/
def State.useCtr (s : State) (world id : Nat) (c : Ctr) : State :=
  (s.modWorld world (fun w => { w with since := tabSet 0 id s.nextId w.since })).putCtr world id c

/-- A launch is rejected: its code goes to the fault queue and to a usable entry, and the level above counts it. -/
def State.rejectLaunch (s : State) (world lctr code va : Nat) (above : List (Nat × Nat)) : State :=
  let r : FaultRec := { FaultRec.none with
    code := BitVec.ofNat 8 code, lctr := if lctr < 4096 then BitVec.ofNat 16 lctr else 0xFFFF, daddr := BitVec.ofNat 56 va }
  let s := s.pushRecord world r
  let s := if s.lctrUsable world lctr then s.useCtr world lctr ⟨0, 0, 5, code, 1⟩ else s
  s.carry world 0 (some (5, BitVec.ofNat 8 code)) above

/-- The code of the check a packet fails. -/
def State.acceptCode (s : State) (world : Nat) (l : Launch) (blocks : Bool) : Option Nat :=
  let mask := match s.world? world with | some w => w.diemask | none => 0
  if l.field 0 56 8 != world then some 0x4B
  else if !l.shapeOk || !s.lctrUsable world l.lctr || !blocks then some 0x48
  else if !s.partOk mask l then some 0x49
  else if l.cores && !s.couldFit l then some 0x4A
  else none

def State.modQueue (s : State) (world prio : Nat) (f : Queue → Queue) : State :=
  s.modWorld world (fun w => { w with queues := listPut Queue.new w.queues prio (f (listGet Queue.new w.queues prio)) })

/-- An accepted packet as a launch. -/
def packetLaunch (id world prio : Nat) (va : Nat) (words : List Code) : Launch :=
  { Launch.gone with
    id, world, prio, addr := BitVec.ofNat 56 va, words, status := .waiting, placed := List.replicate 8 0
    bars := List.replicate 4 Barrier.new }

/-- Accepts a packet whose blocks have been read: the entry is initialised, VL and the seed are given. -/
def State.accept (s : State) (l : Launch) (args : List Byte) (memb : List Byte) : State :=
  let s := s.useCtr l.world l.lctr ⟨l.gangs, 0, 1, 0, 1⟩
  let (id, s) := s.fresh
  let words := l.words.take 4 ++ [Config.witnessSeed s.draws] ++ l.words.drop 5
  let n : Launch := { l with
    id, words, args := (wordsOf 0 l.argn args).map (fun x => BitVec.ofNat 32 (leNat x.2)), memb, vl := s.freeVl l.world }
  let s := { s with launches := s.launches ++ [n], draws := s.draws + 1 }
  let s := s.modWorld l.world (fun w => { w with scopes := tabSet 0 l.lctr 0 w.scopes, ends := tabSet CtrEnd.new l.lctr CtrEnd.new w.ends })
  s.modQueue l.world l.prio (fun q => { q with order := q.order ++ [id] })

/-- A page the head packet needs is not resident: it is recorded once, and the queue waits. -/
def State.queueWait (s : State) (world prio va bits : Nat) (q : Queue) : Out :=
  match q.wait with
  | some p => if p == va / 65536 then .refused .notEnabled else go
  | none => go
where go : Out :=
  .next ((s.recordPages world { FaultRec.none with code := 0x30, eng := true, lctr := 0xFFFF } [(va, bits)]).modQueue world prio
    (fun q => { q with wait := some (va / 65536) })).progress

/-- The head packet has been dealt with. -/
def State.headDone (s : State) (world prio : Nat) : State :=
  s.modQueue world prio (fun q => { q with qhead := q.qhead + 1, wait := none })

/-- `LAUNCH_ACCEPT`: the front end reads the packet at the head of a queue and its blocks, and accepts or rejects it. -/
def execLaunchAccept (world prio : Nat) (s : State) : Out :=
  match s.world? world with
  | none => .refused .notEnabled
  | some w =>
    let q := listGet Queue.new w.queues prio
    let va := (q.qbase.toNat + 256 * (q.qhead.toNat % 2 ^ q.qsize.toNat)) % 2 ^ 56
    if !s.powered || 8 ≤ prio || !s.liveWorld world || q.qsize == 0 || q.qhead == q.qtail then .refused .notEnabled
    else match s.readBlock world va 256 with
      | .wait p bits => s.queueWait world prio p bits q
      | .absent k => .fault (.absentDram k)
      | .hold => .refused .notEnabled
      | .denied => .next ((s.rejectLaunch world 0xFFFF 0x48 va []).headDone world prio).progress
      | .bytes b =>
        let l := packetLaunch s.nextId world prio va (wordsOf64 32 b)
        let reject (code : Nat) : Out := .next ((s.rejectLaunch world l.lctr code va l.above).headDone world prio).progress
        let a := s.readBlock world l.argp (4 * l.argn)
        let m : Block := if l.membp == 0 then .bytes [] else s.readBlock world l.membp 48
        match s.acceptCode world l (a != .denied && m != .denied) with
        | some code => reject code
        | none =>
          match a, m with
          | .absent k, _ => .fault (.absentDram k)
          | _, .absent k => .fault (.absentDram k)
          | .denied, _ => reject 0x48
          | _, .denied => reject 0x48
          | .wait p bits, _ => s.queueWait world prio p bits q
          | _, .wait p bits => s.queueWait world prio p bits q
          | .hold, _ => .refused .notEnabled
          | _, .hold => .refused .notEnabled
          | .bytes args, .bytes memb => .next ((s.accept l args memb).headDone world prio).progress

/-! Queues (spec 18, R370, R371; 09, R258). -/

/-- A doorbell that announces nothing: LAUNCH_SHAPE goes to the fault queue (spec 14, R380). -/
def State.noBell (s : State) (world : Nat) : State :=
  s.pushRecord world { FaultRec.none with code := 0x48, lctr := 0xFFFF }

/-- A doorbell write that reaches the queue. -/
def State.ring (s : State) (world prio : Nat) (value : BitVec 16) : State :=
  match s.world? world with
  | none => s
  | some w =>
    let q := listGet Queue.new w.queues prio
    if q.qsize == 0 || 2 ^ q.qsize.toNat < (value - q.qhead).toNat then s.noBell world
    else s.modQueue world prio (fun q => { q with qtail := value })

/-- A register write of a function comes in its turn: its earlier posted writes have been acknowledged (spec 07, R191; assumption 61). -/
def State.postedDone (s : State) (fn : Nat) : Bool := !s.iod.hostWrites.any (fun w => w.world == fn)

/-- `QTAIL`: the host's doorbell, through a function; that of another function than the queue's is dropped and counted (spec 14, R313). -/
def execQtail (world : Requested) (prio : Nat) (value : BitVec 16) (s : State) : Out :=
  let other := { s with iod := { s.iod with bellDropped := s.iod.bellDropped + 1 } }
  event (s.powered && prio < 8 && (s.world? world.world).isSome && s.postedDone world.fn)
    (if world.fn == world.world then s.ring world.world prio value else other)

/-- `QUEUE_CONFIG_WRITE`: dropped while the queue is not empty, or where a bit or a size is not legal. -/
def execQueueConfigWrite (world prio : Nat) (size : Bool) (value : BitVec 64) (s : State) : Out :=
  match s.world? world with
  | none => .refused .notEnabled
  | some w =>
    let q := listGet Queue.new w.queues prio
    let drop := q.qhead != q.qtail
    let s1 :=
      if drop then s
      else if size then
        (if value == 0 || (4 ≤ value.toNat && value.toNat ≤ 16) then
          s.modQueue world prio (fun q => { q with qsize := value.setWidth 5 }) else s)
      else if value.extractLsb' 56 8 != 0 || value.extractLsb' 0 6 != 0 then s
      else s.modQueue world prio (fun q => { q with qbase := value.setWidth 56 })
    event (s.powered && prio < 8 && s.postedDone world) s1

/-- An entry of a queue's access-control table admits a source (spec 09, R258). -/
def aclAdmits (e : BitVec 32) (chip world : Nat) : Bool :=
  e.getLsbD 31 && e.extractLsb' 20 10 == 0 && (e.extractLsb' 12 8).toNat == world && (e.getLsbD 30 || (e.extractLsb' 0 12).toNat == chip)

/-- A packet that is discarded with its queue or a refused doorbell is rejected: LAUNCH_ACCESS goes to the fault queue, with the packet's
address and its LCTR if it could be read, and to its completion record (spec 09, R258; 14, R380). DESIGN CHOICE (assumption 70): like
every rejected launch it adds 1 to the level above. -/
def State.discardPacket (s : State) (world va : Nat) : State :=
  match s.readBlock world va 256 with
  | .bytes b =>
    let l := packetLaunch 0 world 0 va (wordsOf64 32 b)
    s.rejectLaunch world l.lctr 0x4B va l.above
  | _ => s.rejectLaunch world 0xFFFF 0x4B va []

/-- Addresses of the packets a doorbell announces: none beyond the ring, nor behind the tail (spec 18, R371). -/
def Queue.announced (q : Queue) (value : BitVec 16) : List Nat :=
  if q.qsize == 0 || 2 ^ q.qsize.toNat < (value - q.qhead).toNat || (value - q.qhead).toNat < (q.qtail - q.qhead).toNat then []
  else (List.range (value - q.qtail).toNat).map (fun i => (q.qbase.toNat + 256 * ((q.qtail.toNat + i) % 2 ^ q.qsize.toNat)) % 2 ^ 56)

/-- A refused doorbell (spec 09, R258): one record for each packet it announces, or one alone where it announces nothing. -/
def State.refuseBell (s : State) (world : Nat) (q : Queue) (value : BitVec 16) : State :=
  match q.announced value with
  | [] => s.pushRecord world { FaultRec.none with code := 0x4B, lctr := 0xFFFF }
  | vas => vas.foldl (fun s va => s.discardPacket world va) s

/-- `PEER_DOORBELL`: a doorbell over the fabric. Its packet's own world must be live here and admit the chip (spec 09, R234); then the
queue's table admits it, and the queue's world must be live, or it is refused (spec 09, R258; 14, R379). It takes a slot of a receive port
(R235). -/
def execPeerDoorbell (world prio srcChip srcWorld : Nat) (value : BitVec 16) (s : State) : Out :=
  match s.world? world with
  | none => .refused .notEnabled
  | some w =>
    let q := listGet Queue.new w.queues prio
    let ok := s.liveWorld world && q.acl.any (fun e => aclAdmits e srcChip srcWorld)
    let t :=
      if !s.liveWorld srcWorld || !s.peerAdmits srcWorld srcChip then s.replyPeer srcChip 0 0x23 []
      else if ok then s.ring world prio value else s.refuseBell world q value
    event (s.powered && prio < 8 && s.checker.admitted.contains srcChip && srcChip != s.me && s.portRoom 0 srcWorld (fun _ => true)) t

/-! Placement (spec 10, R262, R263, R270 to R273). -/

/-- Where a launch's dependences stand. -/
inductive Deps where
  | met | wait | cancel
  deriving DecidableEq, Repr

/-- One dependence: an instance that ended otherwise than complete cancels, unless ANY is set (spec 10, R263). -/
def State.depState (s : State) (world : Nat) (x : Code) : Deps :=
  let c := s.ctr world (depCtr x)
  if c.free then .wait
  else if c.failed then (if depAny x then .met else .cancel)
  else if c.meets (depThresh x) then .met else .wait

/-- The dependences gate the start alone: a launch that has started keeps on (spec 10, R262, R263). -/
def State.depsState (s : State) (l : Launch) : Deps :=
  if !l.real || l.status != .waiting then .met
  else
    let ds := l.deps.map (s.depState l.world)
    if ds.contains .cancel then .cancel else if ds.contains .wait then .wait else .met

/-- The launch at the head of each queue of a world. -/
def World.heads (w : World) : List Nat := w.queues.filterMap (fun q => q.order.head?)

/-- A world whose launches may be placed (spec 14, R340, R326, R379). -/
def State.worldOpen (s : State) (world : Nat) : Bool :=
  s.liveWorld world && !s.checker.draining && (match s.world? world with | some w => !w.halted && !w.stalled | none => false)

/-- A die that takes gangs of a world: live, not halted, and no reset of a stack of the world is under way (spec 14, R340; 15,
R344, R357). -/
def State.dieOpen (s : State) (world die : Nat) : Bool :=
  let mask := match s.world? world with | some w => w.diemask | none => 0
  let d := s.die die
  die < 8 && d.up && !d.halted &&
  (List.range 8).all (fun r => !((s.die r).resetReq || (s.die r).resetting) || (r != die && !mask.getLsbD r))

/-- The next gang of a die's shares of a launch: entry and gang index. -/
def Launch.nextGang (l : Launch) (die : Nat) : Option (Nat × Nat) :=
  let mine := l.shares.filter (fun x => listGet x.1 l.shareOn x.1 == die && listGet 0 l.placed x.1 < x.2.2)
  (mine.foldl (fun (b : Option (Nat × Nat × Nat)) x => match b with
    | none => some x
    | some y => if x.2.1 < y.2.1 then some x else b) none).map (fun x => (x.1, x.2.1 + listGet 0 l.placed x.1))

/-- Every gang of the launch has been placed. -/
def Launch.allPlaced (l : Launch) : Bool := l.shares.all (fun x => x.2.2 ≤ listGet 0 l.placed x.1)

/-- Pending versions of the launches that met dependences count: those accepted since their entries came into this use, and counted there:
of a graph, a phase or a job the launches that have ended, with every level below it (spec 10, R265; 16, R364). -/
def State.inherited (s : State) (l : Launch) : List Nat :=
  let ids := l.deps.map depCtr
  let since (i : Nat) : Nat := match s.world? l.world with | some w => tabGet 0 i w.since | none => 0
  let past (x : Launch) (i : Nat) : Bool := i == 0xFFFF || (s.ctr l.world i).over || (s.ctr l.world i).free || x.id < since i
  let counts (x : Launch) (i : Nat) : Bool :=
    x.lctr == i || (x.counted && (x.gctr == i || (x.pctr == i && past x x.gctr) || (x.jctr == i && past x x.gctr && past x x.pctr)))
  dedup ((s.launches.filter (fun x => x.id != l.id && x.world == l.world && x.real &&
    ids.any (fun i => i != 0xFFFF && since i ≤ x.id && counts x i))).flatMap (fun x => (s.versionsOf x.id).map (·.id)))

/-- A launch starts: what it inherits is fixed, and its counters run. -/
def State.startLaunch (s : State) (l : Launch) : State :=
  if l.status == .waiting then
    (s.modLaunch l.id (fun x => { x with
      status := .running, inherits := s.inherited l, begun := if x.attempt == 0 then s.clock else x.begun })).runCtrs l
  else s

/-- A dependent launch observes the completions it depended on (spec 07, R167). -/
def State.observe (s : State) (l : Launch) (cluster : Nat) : State :=
  match s.world? l.world with
  | none => s
  | some w =>
    let scope := (l.deps.map (fun x => tabGet 0 (depCtr x) w.scopes)).foldl max 0
    (List.range 4).foldl (fun s i => s.acquire (cluster * 4 + i) scope) s

/-- A saved gang that may be placed: nothing holds it and the driver has let it go on. -/
def Gang.resumable (g : Gang) : Bool := g.status == .saved && !g.held && !g.heldDie && !g.waits

/-- A gang that was halted to be saved, or is saved, and that nothing holds: its launch places no further gang before it (spec 10,
R271). -/
def Gang.comesBack (g : Gang) : Bool := (g.status == .saved || g.status == .halting) && !g.held && !g.heldDie && !g.waits

/-- Saved gangs of a launch that may be placed: they come before the gangs it has not placed yet (spec 10, R271). -/
def State.savedGangs (s : State) (launch : Nat) : List Gang := s.gangs.filter (fun g => g.launch == launch && g.resumable)

/-- Places the next gang of a die's share, or all gangs of a co-resident launch; none where they do not fit. -/
def State.placeNext (s : State) (l : Launch) (die : Nat) : Option State :=
  let again := s.gangs.any (fun g => g.launch == l.id && g.comesBack)
  let s := s.startLaunch l
  let l := (s.launch? l.id).getD l
  if again then none
  else if l.cores then
    let dies := dedup (l.allGangs.map (·.2))
    if !(dies.contains die && dies.all (s.dieOpen l.world)) then none
    else ((s.placeAll l l.allGangs).map (fun t =>
      let t := (t.gangs.filter (fun g => g.launch == l.id)).foldl (fun t g => t.observe l g.cluster) t
      t.modLaunch l.id (fun x => { x with placed := (List.range 8).map x.count })))
  else match l.nextGang die with
    | none => none
    | some (entry, index) => (s.placeOn l index die).map (fun x =>
        (x.2.observe l x.1).modLaunch l.id (fun x => { x with placed := listPut 0 x.placed entry (listGet 0 x.placed entry + 1) }))

/-- A cluster whose die takes gangs of a world. -/
def State.clusterOpen (s : State) (world cluster : Nat) : Bool :=
  cluster < 200 && s.dieOpen world (Config.dieOfCore (cluster * 4)) &&
  (match s.world? world with | some w => w.diemask.getLsbD (Config.dieOfCore (cluster * 4)) | none => false)

/-- The first of some gangs of a launch that no cluster takes beside the others, and the state that those are placed in. -/
def State.unseated (s : State) (l : Launch) : List Gang → Option (Nat × State)
  | [] => none
  | g :: r => match (List.range 200).findSome? (fun c => if s.clusterOpen l.world c then s.placeGang l g.index c else none) with
    | none => some (g.index, s)
    | some t => t.unseated l r

/-- Gangs that a resume places in one step: those of a co-resident launch together (spec 10, R272). -/
def State.together (s : State) (l : Launch) (g : Gang) : List Gang :=
  if l.cores then s.gangs.filter (fun x => x.launch == l.id && x.id != g.id) else []

/-- A saved gang fits a cluster, with those that are placed with it (spec 10, R271, R272). -/
def State.seatable (s : State) (l : Launch) (g : Gang) (cluster : Nat) : Bool :=
  s.clusterOpen l.world cluster && (s.together l g).all Gang.resumable &&
  (match s.placeGang l g.index cluster with | some t => (t.unseated l (s.together l g)).isNone | none => false)

/-- A saved gang of a launch can be placed on a die now. -/
def State.resumes (s : State) (l : Launch) (die : Nat) : Bool :=
  (s.savedGangs l.id).any (fun g => s.worldOpen l.world && (clustersOf die).any (s.seatable l g))

/-- Launches that can place a gang on a die now, a new one or a saved one. -/
def State.placeable (s : State) (die : Nat) : List Launch :=
  (s.worlds.filter (fun w => s.worldOpen w.1 && s.dieOpen w.1 die)).flatMap (fun w =>
    (w.2.heads.filterMap s.launch?).filter (fun l => s.depsState l == .met && !l.cancelled && (s.placeNext l die).isSome)) ++
  s.launches.filter (fun l => s.resumes l die)

/-- Worlds in turn after the one served last. -/
def turnOf (served world : Nat) : Nat := (world + 255 - served % 256) % 256

/-- The launch a die's dispatcher serves: the highest priority, then worlds in turn (spec 10, R262). -/
def State.served (s : State) (die : Nat) : Option Launch :=
  (s.placeable die).foldl (fun (b : Option Launch) l => match b with
    | none => some l
    | some x =>
      if x.prio < l.prio || (x.prio == l.prio && turnOf (s.die die).served l.world < turnOf (s.die die).served x.world) then some l
      else b) none

/-! The dispatcher's own pre-emption (spec 10, R271, R272). -/

/-- Halts gangs at an instruction boundary; of a co-resident launch, all of them (spec 10, R272, R286). -/
def State.preempt (s : State) (p : Gang → Bool) : State :=
  let whole (g : Gang) : Bool := s.gangs.any (fun x => x.launch == g.launch && p x &&
    (match s.launch? x.launch with | some l => l.cores | none => false))
  s.haltGangs .halting (fun g => p g || whole g)

/-- The first gang of some that cannot be placed, with its die and the state that the others are placed in. -/
def State.firstUnplaced (s : State) (l : Launch) : List (Nat × Nat) → Option (Nat × Nat × State)
  | [] => none
  | (index, die) :: r => match s.placeOn l index die with
    | none => some (index, die, s)
    | some x => x.2.firstUnplaced l r

/-- The gang that a die's dispatcher cannot place next of a launch, with the die that it wants and the state that the gangs with it are
placed in: one that was pre-empted, before any other of its launch; of a co-resident launch, any of all its gangs (spec 10, R271, R272). -/
def State.keptFrom (s : State) (l : Launch) (die : Nat) : Option (Nat × Nat × State) :=
  match s.savedGangs l.id with
  | g :: r => (s.unseated l (if l.cores then g :: r else [g])).map (fun x => (x.1, die, x.2))
  | [] => s.firstUnplaced l (if l.cores then l.allGangs else (match l.nextGang die with | some x => [(x.2, die)] | none => []))

/-- The gang to pre-empt for another: of a strictly lower priority, in a world whose gangs the driver lets be pre-empted, with a cluster
that would then fit; the lowest priority, and of equals the one placed last (spec 10, R271). -/
def State.outranked (s : State) (l : Launch) (index die : Nat) : Option Gang :=
  let prio (g : Gang) : Nat := match s.launch? g.launch with | some x => x.prio | none => 8
  let granted (g : Gang) : Bool := match s.world? g.world with | some w => w.grant | none => false
  let may (g : Gang) : Bool := g.die == die && g.status == .running && prio g < l.prio && granted g &&
    ((s.modGang g.id (fun x => { x with status := .saved })).placeGang l index g.cluster).isSome
  (s.gangs.filter may).foldl (fun (b : Option Gang) g => match b with
    | none => some g
    | some x => if prio g < prio x || (prio g == prio x && x.order < g.order) then some g else b) none

/-- A launch that fits nowhere on a die pre-empts a gang there, unless the gangs that are halting already will make room. -/
def State.preemptFor (s : State) (l : Launch) (die : Nat) : Option State :=
  let t : State := { s with gangs := mapIf (fun (g : Gang) => g.status == .halting) (fun g => { g with status := .saved }) s.gangs }
  match t.keptFrom l die with
  | none => none
  | some (index, at', t) => (t.outranked l index at').map (fun (g : Gang) => s.preempt (fun x => x.id == g.id))

/-- A launch whose every gang is placed leaves its queue's order. -/
def State.afterPlacement (s : State) (id : Nat) : State :=
  match s.launch? id with
  | some l => if l.allPlaced then s.unqueue l else s
  | none => s

/-- A saved gang of a launch is kept out: no die that takes gangs of its world has a cluster for it (spec 10, R271). -/
def State.keptOut (s : State) (l : Launch) (die : Nat) : Bool :=
  !(s.savedGangs l.id).isEmpty && s.worldOpen l.world && (clustersOf die).any (s.clusterOpen l.world) &&
  !(List.range 8).any (s.resumes l)

/-- `GANG_PLACEMENT`: the head launch of a queue is cancelled by its dependences, completes with no gangs, has a gang placed, or
pre-empts one where none fits; a launch that a saved gang of its keeps waiting pre-empts one too. -/
def execGangPlacement (launch die : Nat) (s : State) : Out :=
  match s.launch? launch with
  | none => .refused .notEnabled
  | some l =>
    let head := match s.world? l.world with | some w => w.heads.contains launch | none => false
    if s.powered && !(s.savedGangs launch).isEmpty then (if s.keptOut l die then eventOf (s.preemptFor l die) else .refused .notEnabled)
    else if !s.powered || !head || l.status == .ended || l.cancelled then .refused .notEnabled
    else match s.depsState l with
      | .wait => .refused .notEnabled
      | .cancel => .next (s.cancelLaunch launch).progress
      | .met =>
        if l.gangs == 0 then event (s.worldOpen l.world) ((s.startLaunch l).finishLaunch launch)
        else if !s.worldOpen l.world || !s.dieOpen l.world die then .refused .notEnabled
        else match s.placeNext l die, s.served die with
          | none, _ => eventOf (s.preemptFor l die)
          | some _, none => .refused .notEnabled
          | some t, some x =>
            if x.id != launch then .refused .notEnabled
            else .next ((t.modDie die (fun d => { d with served := l.world })).afterPlacement launch).progress

/-! Ends (spec 10, R265, R284). -/

/-- Operations whose destination is a workgroup's own scratchpad; a send only reads it (spec 10, R284). -/
def State.writesSpad (s : State) (wg : Nat) : Bool :=
  s.engines.any (fun o => !(match o.kind with | .send .. => true | _ => false) && (segTo o.segs).any (fun x => match x.1 with | .spad w _ => w == wg | .va _ => false))

/-- A workgroup's slots and scratchpad are freed and its gang's unit counter advances. -/
def State.endWorkgroup (s : State) (w : Workgroup) : State :=
  let s := s.dropReceives (s.worldOfWg w.id) w.id
  let s := { s with
    wgs := s.wgs.filter (fun x => !(x.id == w.id)), threads := s.threads.filter (fun t => !(t.1 / 8192 == w.id))
    groups := s.groups.filter (fun g => !(g.wg == w.id)), bins := s.bins.filter (fun b => !(b.wg == w.id))
    stt := s.stt.filter (fun x => !(x.wg == w.id))
    flights := s.flights.filter (fun f => !(f.wg == w.id && (f.kind.isLoad || f.poisoned))) }
  s.modGang w.gang (fun g => { g with unit := g.unit + 1 })

/-- `WORKGROUP_END`: every thread has ended, and tile operations and engine writes to its scratchpad have drained. -/
def execWorkgroupEnd (wg : Nat) (s : State) : Out :=
  match s.wg? wg with
  | none => .refused .notEnabled
  | some w =>
    let allEnded := (List.range w.threads).all (fun t => (s.thread wg t).status == .ended)
    let runs := match s.gang? w.gang with | some g => g.status != .discarding | none => false
    event (runs && allEnded && !s.tiles.any (fun o => o.wg == wg) && !s.writesSpad wg) (s.endWorkgroup w)

/-- A gang has gone: its launch counts it, and ends with its last gang. -/
def State.countGang (s : State) (g : Gang) : State :=
  match s.launch? g.launch with
  | none => s
  | some l =>
    if l.status == .ended || s.awaitsRerun l.id then s.tryFinish l.id
    else
      let s := s.modLaunch l.id (fun l => { l with ended := l.ended + 1, bad := l.bad.or (if g.cancelled then some (4, 0) else none) })
      let c := s.ctr l.world l.lctr
      let s := if l.real && c.level == 1 then s.putCtr l.world l.lctr { c with count := c.count + 1 } else s
      s.tryFinish l.id

/-- No store or atomic of a gang has still to perform and no tile operation to drain; one that an error reply has ended does neither
(spec 06, R141; 10, R287, R290). -/
def State.drains (s : State) (gang : Nat) : Bool :=
  !s.flights.any (fun f => f.gang == gang && !f.kind.isLoad && !f.poisoned) &&
  !s.tiles.any (fun o => (s.wgsOf gang).contains o.wg && !s.stuckTiles.contains o.id)

/-- A gang's places are free. -/
def State.removeGang (s : State) (g : Gang) : State :=
  let s := ((s.wgs.filter (fun w => w.gang == g.id))).foldl State.endWorkgroup s
  let s := s.freeArrival g.id
  { s with
    gangs := s.gangs.filter (fun x => !(x.id == g.id))
    tiles := s.tiles.filter (fun o => !((s.wgsOf g.id).contains o.wg)), flights := s.flights.filter (fun f => !(f.gang == g.id)) }

/-- Nothing of a world runs or will run. -/
def State.worldIdle (s : State) (world : Nat) : Bool :=
  s.gangs.all (fun g => g.world != world) && s.launches.all (fun l => l.world != world || l.status == .ended)

/-- Halts of kinds 0 and 1 of a world are released (spec 14, R340). -/
def State.releaseWorld (s : State) (world : Nat) : State :=
  let s := s.modWorld world (fun w => { w with halted := false })
  ({ s with gangs := mapIf (fun g => g.world == world) (fun g => { g with held := false }) s.gangs }).progress

/-- A write of `state` takes effect: ERROR and the halts of kinds 0 and 1 are cleared (spec 14, R379). -/
def State.leaveError (s : State) (world : Nat) (v : BitVec 2) : State :=
  (s.modWorld world (fun w => { w with state := v, error := false, stateTo := none })).releaseWorld world

/-- The writes of `state` that waited for a world's instances to be cancelled (spec 14, R379; 18, R377). -/
def State.stateWrites (s : State) : State :=
  s.worlds.foldl (fun s w => match w.2.stateTo with
    | none => s
    | some v =>
      if !w.2.error then s.modWorld w.1 (fun w => { w with stateTo := none })
      else if s.worldIdle w.1 then s.leaveError w.1 v
      else s) s

/-- `GANG_END`: every workgroup has ended, and every engine operation and store has completed; or a discarded gang has drained. -/
def execGangEnd (gang : Nat) (s : State) : Out :=
  match s.gang? gang with
  | none => .refused .notEnabled
  | some g =>
    let ended := g.unit == g.size && !s.engines.any (fun o => o.gang == gang)
    event (s.drains gang && (g.status == .discarding || ended)) ((s.removeGang g).countGang g).stateWrites

/-! `launch`, `cancel`, `hcwait` (spec 10, R298 to R301). -/

/-- Copies a packet into a queue's ring at its tail; none where a page of the ring cannot be written. DESIGN CHOICE (assumption 69): the
`launch` is then rejected with LAUNCH_ACCESS and its issuer goes on, though the page may only be out; R299 says nothing of it. -/
def State.submit (s : State) (world prio : Nat) (bytes : List Byte) : Option State :=
  match s.world? world with
  | none => none
  | some w =>
    let q := listGet Queue.new w.queues prio
    let va := (q.qbase.toNat + 256 * (q.qtail.toNat % 2 ^ q.qsize.toNat)) % 2 ^ 56
    match s.blockBar world (granulesOf va 256) with
    | some _ => none
    | none =>
      let put (s : State) (b : Nat × Byte) : State :=
        match s.translate 2000 world ((va + b.1) % 2 ^ 56) with | .ok t => s.homeWrite t.key b.2 | .error _ => s
      some ((((List.range 256).zip bytes).foldl put s).modQueue world prio (fun q => { q with qtail := q.qtail + 1 }))

/-- Bytes of a packet as the group reads them. -/
def State.packetBytes (s : State) (e : Env) (va : Nat) : List Byte :=
  (List.range 256).map (fun i => match s.translate e.g.core e.gang.world ((va + i) % 2 ^ 56) with
    | .ok t => s.loadByte e.l e.g.core t.key true (pteGreen t.leaf.pte)
    | .error _ => 0)

/-- A green packet is read by the versions of the group's threads (spec 15, R347). -/
def State.notePacket (s : State) (e : Env) (ts : List Nat) (va : Nat) : State :=
  (List.range 64).foldl (fun s i => match s.translate e.g.core e.gang.world ((va + 4 * i) % 2 ^ 56) with
    | .ok t => s.noteFor e ts t.key (pteGreen t.leaf.pte)
    | .error _ => s) s

/-- Keys of the packet that a `launch` copies. -/
def State.packetKeys (s : State) (e : Env) (va : Nat) : List Nat :=
  (granulesOf va 256).filterMap (fun a => match s.translate e.g.core e.gang.world a with | .ok t => some t.key | .error _ => none)

/-- The ring's place at a queue's tail, or a place of the packet, lies on another chip, to which no packet crosses yet (spec 14, R333). -/
def State.submitAway (s : State) (e : Env) (va : Nat) (q : Queue) : Bool :=
  (s.packetKeys e va).any s.uncrossed ||
  s.blockBar e.gang.world (granulesOf ((q.qbase.toNat + 256 * (q.qtail.toNat % 2 ^ q.qsize.toNat)) % 2 ^ 56) 256) == some .hold

/-- `launch` (spec 10, R299); a ring slot that cannot be written rejects it (assumption 69). DESIGN CHOICE (assumption 70): where the
packet's home answers an error the issuer traps POISON. -/
def execLaunch (g : Guard) (f : FMC) (s : State) : Out :=
  groupOp g (.launch g f) s (fun e ts =>
    let va := e.pair f.f1 % 2 ^ 56
    let x := (e.s f.f2).toNat
    let prio := x % 8
    let c := (regionsOf va 256).foldl (fun (c : Cond) a =>
      c.and (s.permit e.g.core e.gang.world (Config.dieOfCore e.g.core) a .read).1) (if va % 64 != 0 then .trap 0x24 va else {})
    if x / 8 != 0 then .next (s.takeTrap e { code := 0x01 })
    else match worst [(0, c)], c.absent with
      | some (code, va, mal), _ => .next (s.takeTrap e { code, daddr := va, mal })
      | none, some k => .fault (.absentDram k)
      | none, none =>
        if c.parks then .next (s.parkLanes e false (e.g.members.map (fun t => (t, c)))).progress
        else if e.l.shadowOf.isSome then s.done e
        else match s.world? e.gang.world with
          | none => .refused .noGroup
          | some w =>
            let q := listGet Queue.new w.queues prio
            let bytes := s.packetBytes e va
            let l := packetLaunch 0 e.gang.world prio va (wordsOf64 32 bytes)
            if !e.g.members.all (fun t => s.released e.w.id t 3) || s.submitAway e va q then .next (s.hold e)
            else if (s.packetKeys e va).any s.errs then .next (s.takeTrap e { code := 0x25, daddr := va })
            else if q.qsize == 0 then (((s.notePacket e ts va).acts e).rejectLaunch e.gang.world l.lctr 0x4B va l.above).done e
            else if (q.qtail - q.qhead).toNat == 2 ^ q.qsize.toNat then .next (s.hold e)
            else match (s.notePacket e ts va).submit e.gang.world prio bytes with
              | none => (((s.notePacket e ts va).acts e).rejectLaunch e.gang.world l.lctr 0x4B va l.above).done e
              | some t =>
                ((t.acts e).addFlight e { kind := fun _ => .submit e.gang.world prio q.qtail } ts [] false [] t.nextId).done e)

/-- `cancel` (spec 10, R300). DESIGN CHOICE (assumption 70): the group waits at issue until what its threads issued before is released at
`pkg`, where the rule only says that the effect comes after it. -/
def execCancel (g : Guard) (f : FMC) (s : State) : Out :=
  groupOp g (.cancel g f) s (fun e ts =>
    let x := (e.s f.f1).toNat
    let level := x / 2 ^ 28
    let id := x % 2 ^ 16
    if x / 2 ^ 16 % 2 ^ 12 != 0 || 5 ≤ level then .next (s.takeTrap e { code := 0x01 })
    else if !ts.all (fun t => s.released e.w.id t 3) then .next (s.hold e)
    else if e.l.shadowOf.isSome then s.done e
    else
      let s := s.advance e
      .next (if level == 0 then (s.modGang e.gang.id (fun g => { g with cancelled := true })).discardGang e.gang.id
             else s.cancelInstance e.gang.world level id).progress)

/-- The counter that `hcwait` names: a free one where the register holds no ID. -/
def State.hcCtr (s : State) (e : Env) (f : FMC) : Ctr :=
  let x := (e.s f.f2).toNat
  if x / 2 ^ 16 != 0 then ctrOf 0 else s.ctr e.gang.world x

/-- What `hcwait` waits for is there. -/
def State.hcMet (s : State) (e : Env) (f : FMC) : Bool :=
  let c := s.hcCtr e f
  c.free || c.failed || c.meets (e.s f.f3).toNat

/-- `hcwait`: an acquire load's place in the matrices (spec 10, R301; 07, R175). -/
def execHcwait (g : Guard) (f : FMC) (s : State) : Out :=
  groupOp g (.hcwait g f) s (fun e ts =>
    let c := s.hcCtr e f
    if !s.hcMet e f || !ts.all (fun t => s.mayAcquire e.w.id t (f.cl.toNat % 8)) then .next (s.hold e)
    else
      let s := s.acquire e.g.core (f.cl.toNat % 8)
      (s.setS e f.f1 (BitVec.ofNat 32 (c.status * 2 ^ 28 + c.code * 2 ^ 20 + c.count % 2 ^ 20))).done e)

/-! The driver's writes (spec 10, R264, R290; 18, R372). -/

/-- `DRIVER_CANCEL`: a launch halted by a trap or a stopped engine operation (spec 03, R77), or any other, by R290. -/
def execDriverCancel (launch : Nat) (s : State) : Out :=
  event ((s.launch? launch).map Launch.real == some true) (s.cancelLaunch launch)

/-- `COMPLETION_COUNTER_WRITE`: a graph, phase or job entry comes into use. -/
def execCompletionCounterWrite (world ctr : Nat) (value : BitVec 128) (s : State) : Out :=
  let c := ctrOf value
  let ok := 2 ≤ c.level && c.level ≤ 4 && c.status ≤ 6 && value.extractLsb' 0 48 == 0
  let t := s.modWorld world (fun w => { w with scopes := tabSet 0 ctr 0 w.scopes, ends := tabSet CtrEnd.new ctr CtrEnd.new w.ends })
  event (s.powered && (s.world? world).isSome && ctr < 4096 && ok && s.postedDone world) (t.useCtr world ctr c)

/-- `NOTIFY_WRITE`: fires at once where its counter meets it already; the write of another function is dropped (spec 14, R313). -/
def execNotifyWrite (world : Requested) (n : Nat) (value : BitVec 64) (s : State) : Out :=
  let t := (s.modWorld world.world (fun w => { w with notify := listPut 0 w.notify n value })).notifyMet world.world
  event (s.powered && (s.world? world.world).isSome && n < 16 && s.postedDone world.fn) (if world.fn == world.world then t else s)

end Sys2Proof.Machine
end

