-- ==== Sys2Proof/Machine/Preempt.lean ====
section
/-! DEFINITION. Pre-emption, the save and the resume of a gang, the accesses issued again, the driver's resume after a trap, the
pager's page-in, and the fault queue's FQCLOSE and FQHEAD (spec 03, R77; 08, R201; 10, R271, R286 to R289; 14, R325, R326, R328,
R334). -/

namespace Sys2Proof.Machine

/-! Halting (spec 10, R286; 14, R340). -/

/-- `PREEMPT_REQUEST`. -/
def execPreemptRequest (t : Target) (s : State) : Out :=
  let p (g : Gang) : Bool := match t with
    | .gang id => g.id == id
    | .launch id => g.launch == id
    | .die d => g.die == d
  event (s.powered && s.gangs.any (fun g => p g && g.status == .running)) (s.preempt p)

/-! The save (spec 10, R287, R288; 14, R328, R334). -/

/-- Nothing of the gang that the save waits for is under way. -/
def State.quiet (s : State) (g : Gang) : Bool :=
  s.drains g.id &&
  s.engines.all (fun o => o.gang != g.id || !o.restarts || o.stage == .halted || o.stage == .stopped)

/-- A register at or above the block's live number that nothing in the block has written may be dropped (spec 02, R39). -/
def dropDead (live : Nat) (written : List Nat) (draw : Nat) (regs : Tab Word) : Tab Word :=
  regs.filter (fun r => r.1 < live || written.contains r.1 || !Config.saveDrops (draw + r.1))

/-- The header of a thread's block, as it stands in memory. -/
def State.blockHeader (s : State) (w : Workgroup) (world : Nat) (t : Thread) : Option Header :=
  match s.translate w.home world t.block.toNat with
  | .ok x =>
    let c : Code := BitVec.ofNat 64 (leWord (memBytes s.mem x.key 8))
    if isHeader c then some (headerOf c) else none
  | .error _ => none

/-- Threads and scalar registers as the save keeps them. A thread not yet in a block has written nothing in it, and keeps all. -/
def State.saveRegs (s : State) (wg : Nat) : State :=
  match s.wg? wg with
  | none => s
  | some w =>
    let world := s.worldOfWg wg
    let keep (i : Nat) (t : Thread) : Thread :=
      match (if t.left == 0 then none else s.blockHeader w world t) with
      | some h => { t with vregs := dropDead h.vlive.toNat t.written (s.draws + i * 1024) t.vregs }
      | none => t
    let s := { s with threads := s.threads.map (fun (t : Nat × Thread) => if t.1 / 8192 == wg then (t.1, keep (t.1 % 8192) t.2) else t) }
    let slive (hg : Nat) : Nat :=
      let mine := (List.range 32).filterMap (fun i =>
        let t : Thread := s.thread wg (hg * 32 + i)
        if t.status == TStatus.ended then none
        else if t.left == 0 then some 384
        else some (match s.blockHeader w world t with | some h => h.slive.toNat | none => 384))
      mine.foldl max 0
    let sregs := w.sregs.filter (fun r =>
      r.1 % 512 < slive (r.1 / 512) || w.swritten.contains r.1 || !Config.saveDrops (s.draws + 2 ^ 24 + r.1))
    { s.modWg wg (fun w => { w with sregs }) with draws := s.draws + 2 ^ 25 }

/-- Present pages that were written go to their backing lines, and the entries are saved with P = 0; none if a line is wanting. -/
def State.savePages (s : State) (mine : List Nat) : Option State :=
  (s.stt.filter (fun x => mine.contains x.wg && x.present)).foldl (fun (s : Option State) x => s.bind (fun s => s.evict x)) (some s)

/-- The image of a world's next save: sealed where the world is protected, with a zero tag where it is not (spec 14, R334). The body is
the gang's own record (assumption 18). -/
def State.saggarOf (s : State) (world : Nat) (w : World) : Saggar :=
  let seq := w.saveSeq + 1
  { world := BitVec.ofNat 8 world, kind := 1, len := Config.contextBytes s.draws, seq, nonce := Config.saveNonce s.draws
    tag := if w.prot then Config.saveTag world seq else 0 }

/-- The gang is saved and its cluster is free: its groups and bins hold no records, and the world's next sequence number is its last. -/
def State.saveGang (s : State) (g : Gang) : State :=
  let mine := s.wgsOf g.id
  let s := mine.foldl State.saveRegs s
  let s := { s with
    groups := mapIf (fun x => mine.contains x.wg) (fun x => { x with core := noCore }) s.groups
    bins := mapIf (fun x => mine.contains x.wg) (fun x => { x with core := noCore }) s.bins
    stt := mapIf (fun x => mine.contains x.wg) (fun x => { x with core := noCore }) s.stt
    draws := s.draws + 1 }
  let image := (s.world? g.world).map (s.saggarOf g.world)
  let s := s.modWorld g.world (fun w => { w with saveSeq := w.saveSeq + 1, lastSeq := assocSet g.id (w.saveSeq + 1) w.lastSeq })
  s.modGang g.id (fun x => { x with
    status := .saved, waits := x.waits || g.status == .trapped, saggar := image, sealed := image, savedAt := s.nextId })

/-- `CONTEXT_SAVE_COMPLETE`. -/
def execContextSaveComplete (gang : Nat) (s : State) : Out :=
  match s.gang? gang with
  | none => .refused .notEnabled
  | some g =>
    let halted := g.status == .halting || g.status == .trapped || g.status == .stalled
    if !halted || !s.quiet g then .refused .notEnabled
    else eventOf ((s.savePages (s.wgsOf gang)).map (fun s => s.saveGang g))

/-! Accesses issued again (spec 08, R193; 10, R289). -/

/-- What a flight does to memory. -/
def FlightKind.access : FlightKind → Access
  | .store => .write
  | .atomic .. => .atomic
  | _ => .read

/-- What the elements of a marked access meet now, on the core its gang runs on. Ranges registered since the first issue are those of
operations that the matrices keep after it, and do not stop it (spec 07, R190). -/
def State.replayCond (s : State) (f : Flight) : Cond :=
  f.elems.foldl (fun c x =>
    let p := s.permit f.core f.world (Config.dieOfCore f.core) x.va f.kind.access
    let e : Cond := match p.2 with | some t => { elems := [{ x with key := t.key, green := pteGreen t.leaf.pte }] } | none => {}
    (c.and p.1).and e) {}

/-- The record of a condition that a marked access meets. -/
def State.flightRecord (s : State) (f : Flight) (code va : Nat) (mal : Bool) : FaultRec :=
  { FaultRec.none with
    daddr := BitVec.ofNat 56 va, iaddr := f.iaddr, lanes := laneMask f.tids, lctr := BitVec.ofNat 16 (s.launchOf f).lctr
    core := BitVec.ofNat 10 f.core, hgrp := BitVec.ofNat 8 (hgrpOf (f.tids.headD 0)), wr := f.kind.access != .read, mal
    code := BitVec.ofNat 8 code }

/-- A marked access meets a trap: its gang halts as at the instruction, and waits for the driver. -/
def State.replayTrap (s : State) (f : Flight) (code va : Nat) (mal : Bool) : State :=
  (s.driverStop f.gang).pushRecord f.world (s.flightRecord f code va mal)

/-- Pages of scratchpad elements. -/
def State.flightPages (s : State) (f : Flight) : List (Workgroup × Nat) :=
  f.elems.flatMap (fun x => match s.wg? ((x.key - keySpad) / 2 ^ 24) with
    | some w => (pagesOf x.va x.size).map (fun p => (w, p))
    | none => [])

/-- Whether a marked access gets the miss-status entries it needs beside those of its instruction's other lanes (spec 08, R194). -/
def State.reissueMiss (s : State) (f : Flight) (xs : List Elem) : Miss :=
  let mine := s.flights.filter (fun x => x.batch == f.batch && x.core == f.core && x.part == f.part && !x.replay && !x.poisoned)
  let need := if f.lines.isEmpty then [] else (linesOf xs).filter (fun n => !mine.any (fun x => x.lines.contains n))
  s.missOf f.core f.part need.length f.rejects f.rejectedAt

/-- An access whose POISON lowered the count counts again when it is issued again (spec 02, R40; 08, R193). -/
def State.countAgain (s : State) (f : Flight) : State :=
  if f.uncounted then (s.modLive f.wg f.tids (fun t => t.issued f.inLd)).modFlight f.id (fun f => { f with uncounted := false }) else s

/-- A marked access meets a page that is out: what `first` does happens once for it. -/
def State.meet (s : State) (f : Flight) (first : State → State) : State :=
  if f.met then s else (first s).modFlight f.id (fun f => { f with met := true })

/-- An `ldp` whose page is out when it is issued again: the register takes 0, the predicate is cleared, no record is written and the
access is over (spec 08, R197). -/
def State.ldpOut (s : State) (f : Flight) (p : Nat) : State :=
  let s := (f.elems.foldl (fun s x => s.toReg f x.reg (fun _ => 0)) s).modLive f.wg f.tids (fun t => t.setP (BitVec.ofNat 4 p) false)
  let s := if f.uncounted then s else s.lower f
  { s with flights := s.flights.filter (fun x => !(x.id == f.id)) }

/-- A marked access whose pages are in is issued again: it takes its miss-status entries or is rejected (spec 08, R194). -/
def State.reissueIn (s : State) (f : Flight) (xs : List Elem) : State :=
  match s.reissueMiss f xs with
  | .reject =>
    (s.countReject f.core f.part).modFlight f.id (fun f => { f with
      rejects := f.rejects + 1, rejectedAt := if f.rejects == 0 then s.clock else f.rejectedAt })
  | r =>
    let s := (dedup (xs.map (fun x => x.va / 65536))).foldl (fun s p => s.tlbFill f.core f.world (p * 65536)) (s.countAgain f)
    s.modFlight f.id (fun f => { f with
      replay := false, elems := xs, lines := if f.lines.isEmpty then [] else linesOf xs
      reserve := r == .reserve, rejects := 0, rejectedAt := 0 })

/-- A marked access is issued again: it is translated and checked anew, as its first issue was. Where a page is out it stays marked,
recorded or counted as held by the pager of its home core once, but an `ldp` ends (spec 10, R289; 08, R194, R197, R201). -/
def State.reissue (s : State) (f : Flight) : State :=
  if f.spad then
    match s.touchPages (f.kind.access != .read) (s.flightPages f) with
    | .ready s => (s.countAgain f).modFlight f.id (fun f => { f with replay := false })
    | .wait =>
      let home := match s.flightPages f with | (w, _) :: _ => w.home | [] => f.core
      s.meet f (fun s => s.modCore home (fun k => { k with spadFault := k.spadFault + 1 }))
    | .backing p => s.meet f (fun s => s.pushRecord f.world (s.flightRecord f 0x50 (p * 1024) false))
  else
    let c := s.replayCond f
    match c.absent, worst [(0, c)] with
    | some _, _ => s
    | none, some (code, va, mal) => s.replayTrap f code va mal
    | none, none =>
      if c.pages.isEmpty then s.reissueIn f c.elems
      else match f.pred with
        | some p => s.ldpOut f p
        | none => s.meet f (fun s => s.recordPages f.world (s.flightRecord f 0x30 0 false) c.pages)

/-- A marked access can be issued again now: loads once their gang runs, and others, which the save waits for, at any time; one that
has to count again needs its counters below 63 (spec 02, R40). -/
def State.mayReissue (s : State) (f : Flight) : Bool :=
  f.replay && (!f.uncounted || f.tids.all (fun t => (s.thread f.wg t).counter (if f.inLd then .ld else .st) != 63)) &&
  match s.gang? f.gang with | some g => g.status == .running || !f.kind.isLoad | none => false

/-- Every marked access of a gang is issued again, in order. -/
def State.reissueAll (s : State) (gang : Nat) : State :=
  (s.flights.filter (fun f => f.gang == gang && f.replay)).foldl (fun s f => if s.mayReissue f then s.reissue f else s) s

/-- A marked access whose page was out is tried again. -/
def reissueMove (s : State) (flight : Nat) : Out :=
  match s.flight? flight with
  | none => .next s
  | some f =>
    if !s.mayReissue f then .next s
    else match (if f.spad then none else (s.replayCond f).absent) with
      | some k => .fault (.absentDram k)
      | none => .next (s.reissue f).progress

/-- The save area of a saved gang is changed from outside (spec 14, R334). -/
def saveAreaMove (s : State) (gang : Nat) (image : Saggar) : Out :=
  match s.gang? gang with
  | none => .next s
  | some g => .next (if g.status == .saved then s.modGang gang (fun x => { x with saggar := some image }) else s)

/-! The resume (spec 10, R271, R289). -/

/-- Keys of the bytes of a world's regions that exist (spec 14, R322). -/
def World.regionKeys (w : World) : List Nat :=
  (List.range 8).flatMap (fun d =>
    if w.diemask.getLsbD d then
      ((List.range (w.qlimit.toNat * 4096)).map (fun i => d * 2 ^ 40 + (listGet 0 w.dbase d).toNat * 4096 + i)).filter (fun k => !keyAbsent k)
    else [])

/-- A world's device memory reads as no one can say, and no cache holds a line of it. -/
def State.eraseRegion (s : State) (w : World) : State :=
  { s with
    mem := w.regionKeys.foldl (fun m k => memSet m k (Config.erased (s.draws + k))) s.mem, draws := s.draws + 2 ^ 44
    l1 := s.l1.filter (fun x => !w.holds (x.line * 128)), llcDirty := s.llcDirty.filter (fun x => !w.holds (x * 128)) }

/-- Without its keys every byte of a protected world's device memory reads as no one can say, and its pending versions are lost (spec
14, R332; 15, R342). -/
def State.cryptoErase (s : State) (world : Nat) : State :=
  match s.world? world with
  | none => s
  | some w =>
    if !w.keys then s
    else ({ s with
      versions := s.versions.filter (fun v => v.world != world)
      checker := { s.checker with subs := s.checker.subs.filter (fun r => r.world != world) } }).eraseRegion w

/-- A world goes to ERROR: its gangs halt and its keys are discarded (spec 14, R332, R334; 18, R373). -/
def State.worldError (s : State) (world : Nat) : State :=
  ((s.cryptoErase world).modWorld world (fun w => { w with error := true, keys := false, prot := false })).haltGangs .halting (fun g => g.world == world)

/-- The image is of the gang's world and the last one saved of the gang, and of a protected world it is the one that was sealed: its tag
covers every byte of it (spec 14, R334). -/
def State.saggarOk (s : State) (g : Gang) : Bool :=
  match g.saggar, s.world? g.world with
  | some x, some w =>
    x.world.toNat == g.world && assoc g.id w.lastSeq == some x.seq && (!w.prot || (w.keys && g.sealed == some x))
  | none, _ => true
  | some _, none => false

/-- Seats the workgroups of a gang again, one after another; its groups and bins have the resume clock, their ages begin again and so do
waits for a record (spec 10, R289). DESIGN CHOICE (assumption 69): R289 restores every group as saved, so a partition may then hold more
than the 128 records of R31; it gives out none until it holds fewer. -/
def State.reseat (s : State) (l : Launch) (cluster : Nat) : List Nat → Option State
  | [] => some s
  | i :: r => match s.wg? i with
    | none => s.reseat l cluster r
    | some w => match s.coresIn l cluster with
      | none => none
      | some cs =>
        let slot := s.freeWslot (listGet 0 cs 0)
        let w' := { w with cores := cs, wslot := slot }
        let s := s.modWg i (fun _ => w')
        let s := { s with
          groups := mapIf (fun g => g.wg == i)
            (fun g => let seat := w'.seat (hgrpOf g.leader); { g with core := seat.1, part := seat.2, stamp := s.clock, held := false }) s.groups
          bins := mapIf (fun b => b.wg == i)
            (fun b =>
              let seat := w'.seat (hgrpOf (match b.entries with | e :: _ => e.1 | [] => 0))
              let entries := b.entries.map (fun (e : Nat × Nat) => (e.1, s.clock))
              { b with core := seat.1, part := seat.2, entries, aged := false, waitAt := none }) s.bins
          stt := mapIf (fun x => x.wg == i) (fun x => { x with core := w'.home, wslot := slot }) s.stt }
        s.reseat l cluster r

/-- Scratchpad ranges of a resumed gang are registered again, in the tables of its new cores (spec 10, R287, R289). -/
def State.relockSpad (s : State) (mine : List Nat) : State :=
  let here (k : RangeLock) : Bool := k.spad && mine.contains k.place
  let s1 := { s with locks := mapIf here (fun k => { k with entry := none }) s.locks }
  (dedup ((s1.locks.filter here).map (·.owner))).foldl (fun s o => (s.takeEntries o).getD s) s1

/-- Recorded copies go to the new core's engine, and what the save kept of accesses and tile transfers to the new core; global ranges
keep their places in the table of the original die (spec 07, R190; 10, R289). -/
def State.restartWork (s : State) (g : Gang) (die : Nat) : State :=
  let mine := s.wgsOf g.id
  let seat (wg : Nat) (tids : List Nat) : Nat × Nat := match s.wg? wg with | some w => w.seat (hgrpOf (tids.headD 0)) | none => (0, 0)
  let engine (o : EngineOp) : EngineOp :=
    if o.gang == g.id && o.stage == EngineStage.halted then { o.restart with core := (seat o.wg o.tids).1, die } else o
  let flight (f : Flight) : Flight :=
    if mine.contains f.wg then { f with core := (seat f.wg f.tids).1, part := (seat f.wg f.tids).2 } else f
  let tile (o : TileOp) : TileOp :=
    if mine.contains o.wg then { o with core := match s.wg? o.wg with | some w => w.home | none => o.core } else o
  { s with engines := s.engines.map engine, flights := s.flights.map flight, tiles := s.tiles.map tile }

/-- The gang runs again on a cluster, whose L1s hold no line from before (spec 07, R190): its workgroups are seated anew, each beside
those seated before it (R270), and its marked accesses are issued again. -/
def State.resumeGang (s : State) (g : Gang) (l : Launch) (cluster : Nat) : Option State :=
  let die := Config.dieOfCore (cluster * 4)
  let mine := s.wgsOf g.id
  if s.stt.any (fun x => mine.contains x.wg && x.present) then none
  else
    let s := { s with
      nextId := s.nextId + 1, l1 := s.l1.filter (fun x => clusterOf x.owner != cluster)
      wgs := mapIf (fun w => w.gang == g.id) (fun w => { w with cores := [] }) s.wgs
    }.modGang g.id (fun x => { x with status := .running, die, cluster, order := s.nextId, saggar := none, sealed := none })
    ((s.formL1 cluster l.fused).reseat l cluster mine).map (fun s => ((s.relockSpad mine).restartWork g die).reissueAll g.id)

/-- A store that passed the crossbars of the gang's old cluster before the save, so that the gang may have read it, is still on its way:
elsewhere the gang could read what was there before it (spec 07, R161, R165, R190). One that waits for room among the versions of its
page is not waited for (spec 15, R346). -/
def State.leftBehind (s : State) (g : Gang) (cluster : Nat) : Bool :=
  cluster != g.cluster && s.flights.any (fun f => f.onWay (4 * g.cluster) && f.passOrder < g.savedAt && s.roomFor f f.elems)

/-- The other gangs of a co-resident launch are placed with the first, each on a cluster that fits it, or none is (spec 10, R272). -/
def State.resumeRest (s : State) (l : Launch) : List Gang → Option State
  | [] => some s
  | g :: r => match (List.range 200).findSome? (fun c => if s.clusterOpen l.world c && !s.leftBehind g c then s.resumeGang g l c else none) with
    | none => none
    | some t => t.resumeRest l r

/-- `GANG_RESUME`: on any cluster of a live die of its world's mask that fits it, unless a halt holds it, in the turn of its launch among
those that the die's dispatcher can serve, and once what its old cluster saw is at its home (spec 07, R165; 10, R262, R271). -/
def execGangResume (gang cluster : Nat) (s : State) : Out :=
  match s.gang? gang with
  | none => .refused .notEnabled
  | some g => match s.launch? g.launch, s.world? g.world with
    | some l, some w =>
      let others := s.together l g
      if !s.powered || !g.resumable || !others.all Gang.resumable || w.stalled || w.halted || !s.clusterOpen g.world cluster ||
          !s.worldOpen g.world || s.leftBehind g cluster then .refused .notEnabled
      else if !s.saggarOk g || !others.all s.saggarOk then .next (s.worldError g.world).progress
      else
        let die := Config.dieOfCore (cluster * 4)
        let turn := (s.served die).any (fun x => x.id == l.id)
        eventOf (if turn then ((s.resumeGang g l cluster).bind (fun t => t.resumeRest l others)).map (fun t =>
            t.modDie die (fun d => { d with served := l.world })) else none)
    | _, _ => .refused .notEnabled

/-- The driver may let the gang go on: it was halted by a trap, or an operation of it stopped while it was halted or saved. -/
def Gang.awaitsDriver (g : Gang) : Bool :=
  g.status == .trapped || (g.waits && (g.status == .saved || g.status == .halting || g.status == .stalled))

/-- `TRAP_RESUME`: the driver resumes a gang that waits for it (spec 03, R77; 10, R295); one that was saved meanwhile may be placed
again, and one that a halt or a stall of its world holds goes on when that ends (spec 14, R326, R340). -/
def execTrapResume (gang : Nat) (s : State) : Out :=
  match s.gang? gang with
  | none => .refused .notEnabled
  | some g => if g.awaitsDriver then .next ((s.trapResume g).reissueAll gang).progress else .refused .notEnabled

/-! The pager (spec 08, R201; 14, R328). -/

/-- `PAGE_IN_COMPLETE`: a page of a placed gang comes in from its backing line into a frame. -/
def execPageInComplete (wg page : Nat) (s : State) : Out :=
  match s.stt? wg page, s.wg? wg with
  | some x, some w =>
    let out : Bool := match s.gang? w.gang with | some g => g.status == .saved | none => true
    if x.present || out then .refused .notEnabled
    else match s.makeRoom w.home wg with
      | .frame n t => .next (t.pageIn x n).progress
      | _ => .refused .notEnabled
  | _, _ => .refused .notEnabled

/-! The fault queue (spec 14, R325, R326). -/

/-- Closes the record at an index: OPEN is cleared. -/
def State.closeRecord (s : State) (world : Nat) (index : BitVec 16) : State :=
  match s.world? world with
  | none => s
  | some w =>
    if w.fqCount ≤ (index - w.fqhead).toNat then s
    else match w.fqSlot index with
      | none => s
      | some k =>
        let x := memNat s.mem k 32
        if x / 2 ^ 13 % 2 == 1 then s.homePut k (natLe 32 (x - 2 ^ 13)) else s

/-- `FQCLOSE`. -/
def execFqclose (world : Nat) (index : BitVec 16) (s : State) : Out :=
  event (s.powered && (s.world? world).isSome && s.postedDone 0) (s.closeRecord world index)

/-- Waiting records are written in order while there is space. -/
def State.flushRecords (s : State) (world : Nat) : State :=
  match s.world? world with
  | none => s
  | some w => w.waiting.foldl (fun s r => s.pushRecord world r) (s.modWorld world (fun w => { w with waiting := [] }))

/-- A stalled gang goes on, unless a halt holds it: recorded copies begin again and its marked accesses are issued again. -/
def State.unstallGang (s : State) (g : Gang) : State :=
  let st := s.runStatus g
  let s := s.modGang g.id (fun g => { g with status := st })
  let s := { s with engines := s.engines.map (fun (o : EngineOp) =>
    if (o : EngineOp).gang == g.id && o.stage == EngineStage.halted && st == GStatus.running then o.restart else o) }
  s.reissueAll g.id

/-- A world whose records all found a place goes on: its stalled gangs run again (spec 14, R326). -/
def State.unstall (s : State) (world : Nat) : State :=
  match s.world? world with
  | none => s
  | some w =>
    if w.stalled && w.waiting.length ≤ 256 then
      let s := s.modWorld world (fun w => { w with stalled := false })
      (s.gangs.filter (fun g => g.world == world && g.status == .stalled && !g.waits)).foldl State.unstallGang s
    else s

/-- The driver consumes records: space is freed, waiting records are written, stalled gangs resume. -/
def State.consume (s : State) (world : Nat) (head : BitVec 16) : State :=
  ((s.modWorld world (fun w => w.setHead head)).flushRecords world).unstall world

/-- `FQHEAD`. -/
def execFqhead (world : Nat) (value : BitVec 16) (s : State) : Out :=
  event (s.powered && (s.world? world).isSome && s.postedDone 0) (s.consume world value)

end Sys2Proof.Machine
end

