-- ==== Sys2Proof/Machine/Reform.lean ====
section
/-! DEFINITION. PARKED_THREAD_REFILE and GROUP_DISSOLVE: threads that return to the bins (spec 02, R32; 10, R277). -/

namespace Sys2Proof.Machine

/-- What a thread would issue alone. -/
def State.alone (s : State) (w : Workgroup) (tid : Nat) : Option Env :=
  let seat := w.seat (hgrpOf tid)
  match s.gang? w.gang, s.launch? w.launch with
  | some gang, some l => some ⟨⟨0, w.id, seat.1, seat.2, [tid], 0, false, false, 0, 0, false, []⟩, w, gang, l⟩
  | _, _ => none

/-- A thread that has arrived at a barrier waits for its phase to end; one that has not waits for its release (spec 10, R280). -/
def State.barFree (s : State) (e : Env) (f : FC) (t : Nat) : Bool :=
  match (s.thread e.w.id t).hold with
  | some h => (s.getBar e.w (barLevel f) (barNum f)).phase != h.2
  | none => (s.thread e.w.id t).owed.any (fun o => o.1 == barKey f) || s.released e.w.id t (barScope (barLevel f))

/-- A thread may arrive on a ring's barrier (spec 08, R224). -/
def State.strelFree (s : State) (e : Env) (f : FMC) (t : Nat) : Bool :=
  match e.ring f with
  | some r => seqDiff (e.s f.f1) r.e ≤ 0 && s.released e.w.id t 0
  | none => true

/-- The guard of an instruction at which a dissolved group's threads stay held, and whether a thread's hold there has ended
(spec 10, R277). -/
def State.holder (s : State) (e : Env) (t : Nat) : Instr → Option (Guard × Bool)
  | .bar g f => some (g, s.barFree e f t)
  | .acwait g f => some (g, s.arrived e.gang.id (f.cl.toNat % 16) && s.mayAcquire e.w.id t (s.arrivalScope e.gang.id (f.cl.toNat % 16)))
  | .stwait g f => some (g, match e.ring f with | some r => r.landed (e.s f.f1) | none => true)
  | .strel g f => some (g, s.strelFree e f t)
  | .rwait g f => some (g, match s.receive? e (e.s f.f2) with | some r => r.over | none => true)
  | .hcwait g f => some (g, s.hcMet e f && s.mayAcquire e.w.id t (f.cl.toNat % 8))
  | .wait g f => some (g, waitMet f (s.thread e.w.id t))
  | _ => none

/-- Nothing holds a thread at the word it stands at. -/
def State.free (s : State) (w : Workgroup) (tid : Nat) : Bool :=
  match s.alone w tid with
  | none => true
  | some e =>
    let t := s.thread w.id tid
    match (s.instrAt w.id e.g.core tid t.pc).bind (s.holder e tid) with
    | some (g, ended) => ended || !guardTruth g.neg (t.p g.p)
    | none => true

/-- Whether what a thread waits for while parked is there (spec 02, R32; 08, R201; 10, R277; 15, R346). -/
def State.resolved (s : State) (w : Workgroup) (world core tid : Nat) (why : Park) : Bool :=
  match why with
  | .pages vas => vas.all (fun va => match s.translate core world va with | .error (.absent ..) => false | _ => true)
  | .version page => (s.versionsOn world page).length < 4
  | .backing _ => (match s.makeRoom w.home w.id with | .frame .. => true | _ => false)
  | .held => s.free w tid

/-- `PARKED_THREAD_REFILE`: the thread is filed into the bin keyed by the instruction's address; while its gang is saved its bins are
on no core, and it waits for the resume (spec 02, R32; 10, R288). -/
def execParkedThreadRefile (wg tid : Nat) (s : State) : Out :=
  match s.wg? wg, (s.thread wg tid).status with
  | some w, .parked why =>
    let seat := w.seat (hgrpOf tid)
    let world := s.worldOfWg wg
    let saved : Bool := match s.gang? w.gang with | some g => g.status == .saved | none => false
    event (!saved && s.resolved w world seat.1 tid why) (s.file wg seat.1 seat.2 (s.thread wg tid).pc [tid])
  | _, _ => .refused .notEnabled

/-- In the middle of a signing: drawn for the signing instruction it stands at (spec 10, R277). -/
def State.signing (s : State) (g : Group) : Bool :=
  g.drawn && ((s.instrAt g.wg g.core g.leader (s.thread g.wg g.leader).pc).bind signReg).isSome

/-- The group of a partition with the oldest stamp, ties to the lower record, passing over groups that sign (spec 10, R277). -/
def State.oldestGroup (s : State) (core part : Nat) : Option Group :=
  (s.groups.filter (fun g => g.core == core && g.part == part && !s.signing g)).foldl (fun b g =>
    match b with
    | none => some g
    | some x => if g.stamp < x.stamp then some g else b) none

/-- A draw of the partition has waited 128 clocks for a free record and still waits (spec 10, R277). -/
def State.drawWaits (s : State) (core part : Nat) : Bool :=
  Config.groupRecords ≤ s.groupCount core part &&
  s.bins.any (fun b => b.core == core && b.part == part && (s.drawOf b).isSome &&
    (match b.waitAt with | some c => decide (c + 128 ≤ s.clock) | none => false))

/-- The threads of a group return to the bins: those not held now, the others when their hold ends (spec 10, R277). -/
def State.dissolve (s : State) (w : Workgroup) (g : Group) : State :=
  let pc := (s.thread g.wg g.leader).pc
  let s1 := { s with groups := s.groups.filter (fun x => !(x.id == g.id)) }
  (s1.modThreads g.wg (g.members.filter (fun t => !s.free w t)) (fun t => { t with status := .parked .held })).file
    g.wg g.core g.part pc (g.members.filter (s.free w))

/-- `GROUP_DISSOLVE` (spec 10, R277). -/
def execGroupDissolve (core part : Nat) (s : State) : Out :=
  match s.oldestGroup core part with
  | none => .refused .notEnabled
  | some g => match s.wg? g.wg with
    | none => .refused .notEnabled
    | some w => event (s.drawWaits core part) (s.dissolve w g)

end Sys2Proof.Machine
end

