-- ==== Sys2Proof/Machine/Agenda.lean ====
section
/-! DEFINITION. Which agent moves next, the issue of a group, and how a program is placed for a test: what `step` calls. -/

namespace Sys2Proof.Machine

/-- A group its partition may issue: its gang runs, nothing was found to hold it, and no access of its threads waits to be issued again
(spec 10, R274, R286, R289). -/
def State.ready (s : State) (g : Group) : Bool :=
  !g.held && s.running g.wg && !s.flights.any (fun f => f.replay && f.wg == g.wg && f.tids.any g.members.contains)

/-- The ready group with the lowest stamp, ties to the lower record (spec 10, R275). -/
def leastStamp (gs : List Group) : Option Group :=
  gs.foldl (fun b g => match b with | none => some g | some x => if g.stamp < x.stamp then some g else b) none

/-! The scan of a clock (spec 10, R274, R275). -/

/-- The issue class of a word by its opcode: vector ALU; memory and cross-lane; matrix, scalar and control (spec 10, R274). -/
def issueClass (w : Code) : Nat :=
  let op := (w.extractLsb' 57 7).toNat
  if 0x01 ≤ op && op ≤ 0x0B then 0
  else if op == 0x10 || op == 0x11 || (0x20 ≤ op && op ≤ 0x2C) || op == 0x38 then 1
  else 2

/-- Instructions of a class that a partition issues in a clock, of four in all (spec 10, R274). -/
def classRoom (cls : Nat) : Nat := if cls == 0 then 2 else 1

/-- The class of what a group issues next: none at a block header, or where no word is there. -/
def State.nextClass (s : State) (g : Group) : Nat :=
  if (s.thread g.wg g.leader).left == 0 then 3
  else match s.fetch g.core (s.worldOfWg g.wg) (s.thread g.wg g.leader).pc with
    | .word w => issueClass w
    | _ => 3

/-- What the scan of a partition has considered at this clock. -/
def State.scanOf (s : State) (core part : Nat) : List Scanned :=
  let c := tabGet {} core s.cores
  if c.scanAt == s.clock then c.scan.filter (fun x => x.part == part) else []

/-- The scan of the group's partition has not passed the group, and its class has room. -/
def State.inScan (s : State) (g : Group) : Bool :=
  let scan := s.scanOf g.core g.part
  let issued := scan.filter (fun x => x.cls < 3)
  let cls := s.nextClass g
  scan.all (fun x => x.group != g.id && x.stamp ≤ g.stamp) && issued.length < 4 &&
  (cls == 3 || (issued.filter (fun x => x.cls == cls)).length < classRoom cls)

/-- The scan of a partition comes to a group; `cls` is what it issues. -/
def State.noteScan (s : State) (g : Group) (cls : Nat) : State :=
  s.modCore g.core (fun c => { c with
    scanAt := s.clock, scan := (if c.scanAt == s.clock then c.scan else []) ++ [⟨g.part, g.id, g.stamp, cls⟩] })

/-- Some partition's scan of this clock has begun. -/
def State.scanning (s : State) : Bool := s.cores.any (fun c => c.2.scanAt == s.clock && !c.2.scan.isEmpty)

/-- The group that the scan of a partition issues next: the ready one with the lowest stamp that it has not passed and whose class has
room (spec 10, R275). -/
def State.choose (s : State) (core part : Nat) : Option Group :=
  leastStamp (s.groups.filter (fun g => g.core == core && g.part == part && s.ready g && s.inScan g))

/-- A group that any partition may issue: in the scans of this clock while they last. -/
def State.chooseAny (s : State) : Option Group :=
  (leastStamp (s.groups.filter (fun g => s.ready g && s.inScan g))).or (leastStamp (s.groups.filter s.ready))

/-- The clocks before an issue: none while the scans of the clock go on, of the partition's or of others' groups; else the next clock
begins (spec 10, R275). -/
def State.issueClocks (s : State) (core part : Nat) : Nat := if s.scanning && (s.choose core part).isSome then 0 else 1

/-- A pending flight that may perform, as its event. -/
def State.flightMove (s : State) : Option Instr :=
  s.flights.findSome? (fun f =>
    if f.kind.isLoad && s.mayPerform f f.elems then some (.loadReturn f.id none)
    else if f.returns && s.mayPerform f f.elems && s.roomFor f f.elems then some (.atomicReply f.id)
    else if !f.kind.isLoad && !f.returns && s.roomFor f f.elems && s.mayPerform f f.elems then some (.storePerformed f.id true none)
    else none)

/-- A tile operation that may perform. -/
def State.tileMove' (s : State) : Option Instr :=
  (s.tiles.find? s.tileReady).map (fun o => match o.kind with
    | .step .. => .matrixStepPerformed o.id
    | _ => .tileTransferPerformed o.id)

/-- A bin that can be drawn now or whose draw begins to wait, one whose draw has waited long enough for a group to be dissolved, or one
that ages. -/
def State.binMove (s : State) : Option Instr :=
  s.bins.findSome? (fun b => match s.drawOf b with
    | some (cls, clock, _) =>
      if s.firstDraw b cls clock && (s.groupCount b.core b.part < Config.groupRecords || b.waitAt.isNone) then some (.binDraw b.id)
      else if s.drawWaits b.core b.part && (s.oldestGroup b.core b.part).isSome then some (.groupDissolve b.core b.part)
      else none
    | none => if s.mayAge b then some (.binAged b.id) else none)

/-- The event can happen now. -/
def Out.goes : Out → Bool
  | .next _ => true
  | _ => false

/-- A marked access that is issued again, or meets a trap or no memory, or a page that is out for the first time (spec 10, R289). -/
def State.reissueNow (s : State) (f : Flight) : Bool :=
  s.mayReissue f && (!f.met || if f.spad then (match s.touchPages (f.kind.access != .read) (s.flightPages f) with | .ready _ => true | _ => false)
    else (s.replayCond f).absent.isSome || (worst [(0, s.replayCond f)]).isSome ||
      ((s.replayCond f).pages.isEmpty && (f.rejects < 16 || s.reissueMiss f (s.replayCond f).elems != .reject)))

/-- What waits in a fabric receive port and can be taken from it (spec 09, R232, R235, R248). -/
def State.portMove (s : State) : Option Instr :=
  s.iod.ports.findSome? (fun q =>
    match q.item with
    | .request p => if Out.goes (execFabricPacketArrival p s) then some (.fabricPacketArrival p) else none
    | .message m => if Out.goes (execMessageHeaderArrival m s) then some (.messageHeaderArrival m) else none
    | .reply .. => none)

/-- A reply that waits in a receive port. -/
def State.replyMove (s : State) : Option Move :=
  (s.iod.ports.findIdx? (fun q => q.item.chan == 1)).map Move.answer

/-- A reply, an access that is issued again, or a presented packet: these are moves and no events. -/
def State.innerMove (s : State) : Option Move :=
  (s.replyMove.or ((s.flights.find? s.reissueNow).map (fun f => Move.reissue f.id))).or ((s.iod.atHome.findIdx? (fun q => s.homeReady q.1 q.2)).map Move.home)

/-- A completion of an engine operation that has moved everything. -/
def State.engineEnd (s : State) : Option Instr :=
  s.engines.findSome? (fun o =>
    if o.stage != EngineStage.running || !o.todo.isEmpty || !o.buf.isEmpty || !o.rows.isEmpty then none
    else if Out.goes (execCopyComplete o.id s) then some (.copyComplete o.id)
    else if Out.goes (execRingSequenceLanded o.id s) then some (.ringSequenceLanded o.id)
    else none)

/-- A parked thread whose reason to wait is gone. -/
def State.refileMove (s : State) : Option Instr :=
  (s.threads.find? (fun t => match t.2.status with
    | .parked _ => Out.goes (execParkedThreadRefile (t.1 / 8192) (t.1 % 8192) s)
    | _ => false)).map (fun t => .parkedThreadRefile (t.1 / 8192) (t.1 % 8192))

/-- A leave that can be granted, or a refill that is due. -/
def State.powerMove (s : State) : Option Instr :=
  (((List.range 8).find? (fun d => Out.goes (execLeaveGrant d s))).map Instr.leaveGrant).or
    (((List.range 8).find? (fun d => Out.goes (execPowerCreditRefill d s))).map Instr.powerCreditRefill)

/-- The front end's next step: an end, an acceptance, or a placement. -/
def State.frontMove (s : State) : Option Instr :=
  let wgEnd := (s.wgs.find? (fun w => Out.goes (execWorkgroupEnd w.id s))).map (fun w => Instr.workgroupEnd w.id)
  let gEnd := (s.gangs.find? (fun g => Out.goes (execGangEnd g.id s))).map (fun g => Instr.gangEnd g.id)
  let accept := s.worlds.findSome? (fun w =>
    ((List.range 8).find? (fun p => Out.goes (execLaunchAccept w.1 p s))).map (fun p => Instr.launchAccept w.1 p))
  let place := s.launches.findSome? (fun l =>
    ((List.range 8).find? (fun d => Out.goes (execGangPlacement l.id d s))).map (fun d => Instr.gangPlacement l.id d))
  ((wgEnd.or gEnd).or accept).or place

/-- An engine operation in turn that may start or go on. -/
def State.engineTurn (s : State) : Option Move :=
  let live := s.engines.filter (fun o => o.stage == EngineStage.queued || o.stage == EngineStage.running)
  live[s.clock % max 1 live.length]?.map (fun o => Move.engine o.id 0 1 0 1)

/-- The move when the agenda is empty: the oldest pending completion, a draw, an issue, the front end, an engine, else a clock
(assumption 2). -/
def State.defaultMove (s : State) : Move :=
  match (((s.flightMove.or s.tileMove').or s.engineEnd).or s.powerMove).or (s.binMove.or s.refileMove) with
  | some i => .event i
  | none => match s.innerMove with
    | some m => m
    | none => match s.chooseAny with
      | some g => .issue g.core g.part
      | none => match s.portMove.or s.frontMove with
        | some i => .event i
        | none => s.engineTurn.getD (.tick 1)

/-- The next move and the agenda after it. -/
def State.nextMove (s : State) : Move × List Move :=
  match s.agenda with
  | m :: r => (m, r)
  | [] => (s.defaultMove, [])

/-- What the issuing group does: it enters a block, or executes the word at its address (spec 03, R55, R57, R61). -/
inductive Issue where
  | enter
  | word (i : Instr)
  | stop (o : Out)

/-- The word a group stands at. -/
def State.issueOf (s : State) (e : Env) : Issue :=
  if (s.thread e.w.id e.g.leader).left == 0 then .enter
  else
    let pc := s.iaddr e
    match s.fetch e.g.core e.gang.world pc with
    | .word w => (match decode w with | .ok i => .word i | .error _ => .word (.unassignedEncoding w))
    | .fault (.absent bits _) => .stop (.next (s.fetchFault e pc bits))
    | .fault .prot => .stop (.next (s.takeTrap e { code := 0x23, daddr := pc.toNat, fetch := true }))
    | .fault .malformed => .stop (.next (s.takeTrap e { code := 0x23, daddr := pc.toNat, fetch := true, mal := true }))
    | .absent k => .stop (.fault (.absentDram k))
    | .away => .stop (.next (s.hold e))

/-- Names the issuing group and fills the TLBs with its fetch (spec 14, R318); the scan of its partition comes to it, unless it enters a
block (spec 10, R275). -/
def State.issuing (s : State) (g : Group) : State :=
  let t := if (s.thread g.wg g.leader).left == 0 then s else s.noteScan g (s.nextClass g)
  { t.tlbFill g.core (s.worldOfWg g.wg) (s.thread g.wg g.leader).pc.toNat with cur := some g.id }

/-- A group that its instruction still holds was not ready: it has issued nothing (spec 10, R274, R275). -/
def State.unissue (s : State) (id : Nat) : State :=
  match s.group? id with
  | none => s
  | some g =>
    if g.held then s.modCore g.core (fun c => { c with scan := mapIf (fun x => x.group == id) (fun x => { x with cls := 3 }) c.scan }) else s

/-- The group that was issuing is named no longer, nor the trap it raised; one that was held has issued nothing. -/
def Out.endIssue : Out → Out
  | .next s => .next { (match s.cur with | some id => s.unissue id | none => s) with cur := none, raised := none }
  | x => x

/-- One agent's clock. -/
def State.tick (s : State) (n : Nat) (agenda : List Move) : State :=
  { s with clock := s.clock + n, agenda, raised := none }

/-! A program for one step (assumption 4). -/

/-- Bytes of a 64-bit number at a key. -/
def State.poke (s : State) (key x : Nat) : State := { s with mem := memPutNat s.mem key 8 x }

/-- The bench: world 0 on die 0, page 0 mapped as privileged code, one workgroup of 32 threads in one group. -/
def benchThread : Thread := { Thread.gone with status := .run, pc := 8, left := 1 }

def benchGroup (id : Nat) : Group := ⟨id, id, 0, 0, List.range 32, 0, true, false, 0, 0, false, []⟩

def benchWg (id : Nat) : Workgroup :=
  { id, gang := id, launch := id, index := 0, x := 0, y := 0, z := 0, threads := 32, cores := [0], wslot := 0, sregs := []
    swritten := [], acc := [], cvs := List.replicate 16 ⟨0, 0, none, []⟩, bars := List.replicate 16 Barrier.new, rings := []
    recs := List.replicate 4 none }

def benchGang (id : Nat) : Gang :=
  { id, launch := id, world := 0, index := 0, die := 0, cluster := 0, order := 0, status := .running, haltAt := 0, held := false
    heldDie := false, waits := false, skip := [], bars := List.replicate 8 Barrier.new, unit := 0, size := 1, arrival := none, cancelled := false, saggar := none }

/-- Packet words of the bench: 255 vector registers, 16 tiles, 64 KiB of scratchpad, one gang, no counters. -/
def benchWords : List Code :=
  [0, BitVec.ofNat 64 (2 ^ 40 + 2 ^ 16 + 1), BitVec.ofNat 64 (2 ^ 40 + 31 * 2 ^ 27),
   BitVec.ofNat 64 (255 * 2 ^ 52 + 384 * 2 ^ 43 + 16 * 2 ^ 38 + 64 * 2 ^ 23 + 3 * 2 ^ 11 + 3 * 2 ^ 4), 0, BitVec.allOnes 64]
  ++ List.replicate 4 0 ++ [BitVec.ofNat 64 (2 ^ 16)] ++ List.replicate 21 0

def benchLaunch (id : Nat) : Launch :=
  { Launch.gone with id, words := benchWords, status := .running, placed := [1], bars := List.replicate 4 Barrier.new }

/-- The state with the bench and some words of code from address 0. -/
def State.bench (s : State) (code : List Nat) : State :=
  let id := s.nextId
  let w := (s.world? 0).getD World.new
  let w := { w with diemask := 1, qlimit := 0xFFF, ptroot := 1 }
  let leaf (k : Nat) : Nat := 2 ^ 63 + 2 ^ 62 + 2 ^ 54 + 2 ^ 53 + 2 ^ 52 + k * 2 ^ 16
  let s := { s with
    nextId := id + 1, worlds := assocSet 0 w s.worlds, wgs := s.wgs ++ [benchWg id], gangs := s.gangs ++ [benchGang id]
    launches := s.launches ++ [benchLaunch id]
    groups := benchGroup id :: s.groups.filter (fun g => !(g.core == 0 && g.part == 0))
    agenda := .issue 0 0 :: s.agenda }
  let s := s.modThreads id (List.range 32) (fun _ => benchThread)
  let s := ((s.poke 0x10000 (2 ^ 63 + 0x20000)).poke 0x20000 (2 ^ 63 + 0x30000)).poke 0x30000 (2 ^ 63 + 0x31000)
  let s := s.poke 0x31000 (leaf 0)
  (code.zip (List.range code.length)).foldl (fun s c => s.poke (8 * c.2) c.1) s

/-- A plain header of one instruction (spec 03, R56). -/
def benchHeader : Nat := 0x7F * 2 ^ 57 + 2 ^ 47

end Sys2Proof.Machine
end

