-- ==== Sys2Proof/Machine/Witness.lean ====
section
/-! DEFINITION. Witness records: `witb`, `witp`, `wite` and `gver` (opcode 0x38), the tests and the comparison of runs, failure
scores and retirement (spec 15, R344, R350 to R353; 16, R363). -/

namespace Sys2Proof.Machine

/-! Failure scores (spec 15, R344). -/

/-- The memory of a retired stack leaves service when no world's DIEMASK holds it. -/
def State.dropMemory (s : State) : State :=
  let held (d : Nat) : Bool := s.worlds.any (fun w => w.2.diemask.getLsbD d)
  let out := (List.range s.dies.length).filter (fun d => (s.die d).retired && !held d)
  let s := (out.filter (fun d => (s.die d).memory)).foldl State.emptySlice s
  { s with dies := (List.range s.dies.length).map (fun d =>
      let x := s.die d
      if out.contains d then { x with memory := false } else x) }

/-- Retires the compute dies whose score is at or above the threshold: no gang is placed there, and its gangs are pre-empted. -/
def State.retireAll (s : State) : State :=
  (List.range 8).foldl (fun s d =>
    let x := s.die d
    if x.live && !x.retired && s.garrun.thresh.toNat ≤ x.score.toNat then
      ((s.modDie d (fun x => { x with retired := true })).preempt (fun g => g.die == d)).dropMemory
    else s) s

/-- A stack's score rises, saturating; the checker writes the event, with the injected flag where an injection caused it (spec 15, R343,
R356). -/
def State.addScore (s : State) (d n : Nat) (injected : Bool := false) : State :=
  { (s.modDie d (fun x => { x with score := BitVec.ofNat 8 (min 255 (x.score.toNat + n)) })).retireAll with
    checker := { s.checker with events := s.checker.events ++ [⟨d, n, injected⟩] } }

/-- Several stacks gain the same. -/
def State.addScores (s : State) (ds : List Nat) (n : Nat) (injected : Bool := false) : State :=
  ds.foldl (fun s d => s.addScore d n injected) s

/-! The four instructions (spec 15, R351, R352). -/

/-- The record slot an instruction names. -/
def witSlot (f : FMC) : Nat := f.cl.toNat / 1024 % 4

def Workgroup.rec? (w : Workgroup) (slot : Nat) : Option WitRec := listGet none w.recs slot

def State.setRec (s : State) (wg slot : Nat) (r : Option WitRec) : State :=
  s.modWg wg (fun w => { w with recs := listPut none w.recs slot r })

/-- The record `witb` opens. -/
def witNew (e : Env) (f : FMC) (version : Word) : WitRec :=
  let mm := witKind f == 0
  { kind := witKind f, m := (e.s f.f1).toNat, n := if mm then (e.s f.f2).toNat else (e.s f.f1).toNat
    k := if mm then (e.s f.f3).toNat else 0, q := if mm then (e.s f.f4).toNat % 65536 else 0
    h := if mm then (e.s f.f4).toNat / 65536 else 0, slotA := if mm then f.cl.toNat / 32 % 8 else 0
    slotB := if mm then f.cl.toNat / 16 % 2 * 4 + f.cl.toNat / 4 % 4 else 0, conv := mm && f.cl.getLsbD 1
    uns := witKind f == 1 && f.cl.getLsbD 6, version, parts := [] }

/-- A tile edge a record may name. -/
def tileEdge (x : Nat) : Bool := x == 32 || x == 64 || x == 128

/-- The A slot of an MM record has a step K for the shape check (spec 06, R132). -/
def WitRec.hasStep (r : WitRec) (a : Code) : Bool := r.kind != 0 || stepK (slotFmt a) != 0

/-- The shape a record may have; K must be whole steps of the A slot's format. -/
def WitRec.shapeOk (r : WitRec) (a : Code) : Bool :=
  if r.kind == 0 then
    1 ≤ r.m && r.m ≤ 2 ^ 20 && 1 ≤ r.n && r.n ≤ 2 ^ 20 && 1 ≤ r.k && r.k ≤ 2 ^ 20 &&
    r.k % stepK (slotFmt a) == 0 && tileEdge r.q && r.n % r.q == 0 && tileEdge r.h
  else 1 ≤ r.n && r.n ≤ 2 ^ 24

/-- The slots serve an `mma` naming them, or with CONV an `mmac`. -/
def WitRec.slotsOk (r : WitRec) (a b : Code) : Bool :=
  r.kind != 0 || (r.hasStep a && slotOk a && slotOk b && pairOk a b && (!r.conv || (slotScale a == 0 && slotFmt a != 9)))

def execWitb (g : Guard) (f : FMC) (s : State) : Out :=
  groupOp g (.witb g f) s (fun e _ =>
    let r := witNew e f (verNum e.l (s.thread e.w.id e.g.leader).sub)
    let a := e.l.slot r.slotA
    if (e.w.rec? (witSlot f)).isSome || (r.hasStep a && !r.shapeOk a) then .next (s.takeTrap e { code := 0x01 })
    else if !r.slotsOk a (e.l.slot r.slotB) then .next (s.takeTrap e { code := 0x10 })
    else (s.setRec e.w.id (witSlot f) (some r)).done e)

/-- The roles of a kind. -/
def roleFits (kind role : Nat) : Bool :=
  match kind with
  | 0 => role < 6
  | 1 => 8 ≤ role && role ≤ 11
  | _ => role == 8 || role == 9 || role == 12

def WitRec.part? (r : WitRec) (role : Nat) : Option WitPart := r.parts.find? (fun p => p.role == role)

def execWitp (g : Guard) (f : FMC) (s : State) : Out :=
  groupOp g (.witp g f) s (fun e _ =>
    let role := f.cl.toNat % 16
    let va := e.pair f.f1 % 2 ^ 56
    match e.w.rec? (witSlot f) with
    | none => .next (s.takeTrap e { code := 0x01 })
    | some r =>
      if !roleFits r.kind role then .next (s.takeTrap e { code := 0x01 })
      else if va % 4 != 0 then .next (s.takeTrap e { code := 0x24, daddr := va })
      else
        let p : WitPart := ⟨role, BitVec.ofNat 56 va, e.s f.f2⟩
        (s.setRec e.w.id (witSlot f) (some { r with parts := r.parts.filter (fun x => x.role != role) ++ [p] })).done e)

/-- The roles a record requires. -/
def WitRec.needs (r : WitRec) (a b : Code) : List Nat :=
  match r.kind with
  | 0 => [0, 1, 2, 3] ++ (if slotScale a != 0 then [4] else []) ++ (if slotScale b != 0 then [5] else [])
  | 1 => [8, 9, 10, 11]
  | _ => [8, 9, 12]

/-- A ticket no untested record of the world has. -/
def State.freeTicket (s : State) (world : Nat) : Word :=
  let used := (s.checker.subs.filter (fun r => r.world == world)).map (·.ticket)
  let x := Config.ticket s.draws
  x + BitVec.ofNat 32 (((List.range (used.length + 1)).find? (fun i => !used.contains (x + BitVec.ofNat 32 i))).getD 0)

/-- Submits a record; a shadow run's are not tested. -/
def State.submitRec (s : State) (e : Env) (slot : Nat) (r : WitRec) (ticket : Word) : State :=
  if e.l.shadowOf.isSome then s
  else
    let (id, s) := s.fresh
    { s with checker := { s.checker with subs := s.checker.subs ++ [⟨id, e.l.world, e.l.id, slot, ticket, r, none⟩] } }

def execWite (g : Guard) (f : FMC) (s : State) : Out :=
  groupOp g (.wite g f) s (fun e ts =>
    match e.w.rec? (witSlot f) with
    | none => .next (s.takeTrap e { code := 0x01 })
    | some r =>
      if !(r.needs (e.l.slot r.slotA) (e.l.slot r.slotB)).all (fun n => (r.part? n).isSome) then .next (s.takeTrap e { code := 0x01 })
      else if !ts.all (fun t => s.released e.w.id t 3) ||
          4096 ≤ (s.checker.subs.filter (fun x => x.world == e.l.world)).length then .next (s.hold e)
      else
        let ticket := s.freeTicket e.l.world
        let s := (s.submitRec e (witSlot f) r ticket).setRec e.w.id (witSlot f) none
        (({ s with draws := s.draws + 1 }).setS e f.f1 ticket).done e)

def execGver (g : Guard) (f : FMC) (s : State) : Out :=
  issue g (.gver g f) s (fun e =>
    let sub := e.s f.f1
    let ts := s.lanes e g
    if ts.isEmpty then s.done e
    else if sub.extractLsb' 8 24 != 0 then .next (s.takeTrap e { code := 0x01 })
    else
      let s := s.modThreads e.w.id ts (fun t => { t with sub := sub.setWidth 8 })
      (s.setS e f.f2 (verNum e.l (sub.setWidth 8))).done e)

/-! Reading parts (spec 15, R350, R352). -/

/-- Bytes of an element of an input matrix in memory; FP32 with CONV. -/
def WitRec.bitsA (r : WitRec) (a : Code) : Nat := if r.conv then 32 else fmtBits (slotFmt a)

/-- Row pitch of a part, where 0 is dense. -/
def WitRec.pitch (r : WitRec) (a b : Code) (role : Nat) : Nat :=
  let given := match r.part? role with | some p => p.pitch.toNat | none => 0
  if given != 0 then given
  else match role with
    | 0 => r.k * r.bitsA a / 8
    | 1 => r.n * fmtBits (slotFmt b) / 8
    | 2 => 4 * r.n
    | 3 => 4096 * ((r.m + r.h - 1) / r.h)
    | 4 => r.k / 32 * scaleUnit a
    | _ => r.k / 32 * scaleUnit b

def WitRec.addr (r : WitRec) (role : Nat) : Nat := match r.part? role with | some p => p.addr.toNat | none => 0

/-- The address of row i's projection onto column tile u. -/
def WitRec.projAddr (r : WitRec) (a b : Code) (i u : Nat) : Nat :=
  r.addr 3 + r.pitch a b 3 * u + 4096 * (i / r.h) + 4 * (32 * (i % 32) + i % r.h / 32)

/-- The byte ranges of a part. -/
def WitRec.ranges (r : WitRec) (a b : Code) (role : Nat) : List (Nat × Nat) :=
  let rows (n len : Nat) : List (Nat × Nat) := (List.range n).map (fun i => (r.addr role + r.pitch a b role * i, len))
  match role with
  | 0 => rows r.m (r.k * r.bitsA a / 8)
  | 1 => rows r.k (r.n * fmtBits (slotFmt b) / 8)
  | 2 => rows r.m (4 * r.n)
  | 3 => (List.range (r.n / r.q)).flatMap (fun u => (List.range r.m).map (fun i => (r.projAddr a b i u, 4)))
  | 4 => rows r.m (r.k / 32 * scaleUnit a)
  | 5 => rows r.n (r.k / 32 * scaleUnit b)
  | 11 => [(r.addr role, (r.n - 1 + 7) / 8)]
  | 12 => [(r.addr role, 8 * ((r.n + 255) / 256))]
  | _ => [(r.addr role, 4 * r.n)]

/-- The output roles of a kind. -/
def outRoles (kind : Nat) : List Nat := match kind with | 0 => [2, 3] | 1 => [9, 10, 11] | _ => [9, 12]

/-- What a test of a record answers. -/
inductive Verdict where
  | pass | dual
  /-- a part's home is in reset: the test goes on after its re-admission (spec 15, R357) -/
  | hold
  | fail (test index : Nat)
  | wait (va bits : Nat)
  | absent (key : Nat)
  deriving DecidableEq, Repr

/-- What stands in the way of reading some granules: a page that is not resident is waited for, one that is absent, denied, malformed
or no device memory cannot be tested. -/
def State.partBar (s : State) (world : Nat) : List Nat → Option Verdict
  | [] => none
  | va :: r =>
    let rest := s.partBar world r
    match s.permit 2000 world 8 va .read with
    | (c, t) => match c.absent, c.traps, c.pages, t with
      | some k, _, _, _ => some (.absent k)
      | none, _ :: _, _, _ => some .dual
      | none, [], (_, bits) :: _, _ =>
        if (match s.world? world with | some w => w.absentEntry s.mem va | none => true) then some .dual
        else (match rest with | some .dual => some .dual | some .hold => some .hold | _ => some (.wait va bits))
      | none, [], [], none => some .dual
      | none, [], [], some t =>
        if t.tgt != 0 then some .dual
        else if (s.die (keyDie t.key)).resetting then some .hold
        else if s.errs t.key then some .dual else rest

/-- A byte as a load by the covered version reads it. -/
def State.partByte (s : State) (l : Launch) (va : Nat) : Byte :=
  match s.translate 2000 l.world (va % 2 ^ 56) with
  | .error _ => 0
  | .ok t =>
    match (if t.green then s.supplier l (wordOf t.key) else none) with
    | some v => byteOf ((assoc (wordOf t.key) v.words).getD 0) t.key
    | none => s.homeByte t.key

/-- A little-endian number of `n` bytes. -/
def State.partNat (s : State) (l : Launch) (va n : Nat) : Nat := leNat ((List.range n).map (fun i => s.partByte l (va + i)))

def State.partWord (s : State) (l : Launch) (va : Nat) : Word := BitVec.ofNat 32 (s.partNat l va 4)

/-! The tests (spec 15, R353). -/

/-- Rows or positions that are sampled; row 0 when none is. -/
def sampled (seed : Code) (n : Nat) : List Nat :=
  let xs := (List.range n).filter (fun j => (mix64 (seed ^^^ 0xA5A5A5A5A5A5A5A5) j).extractLsb' 0 4 == 0)
  if xs.isEmpty then [0] else xs

/-- An element's value with its scale. -/
def witElem (x : Code) (q : Nat) (sc : Num × Int) : Num :=
  if slotFmt x < 4 then (numOfInt (intDecode (slotFmt x) q - sc.2)).mul sc.1 else (fmtDecode (slotFmt x) q).mul sc.1

/-- A scale entry of a part. -/
def State.partScale (s : State) (l : Launch) (r : WitRec) (a b x : Code) (role i blk : Nat) : Num × Int :=
  if slotScale x == 0 then (.fin false 1 0, 0)
  else
    let v := s.partNat l (r.addr role + r.pitch a b role * i + scaleUnit x * blk) (scaleUnit x)
    (e8m2 v, if slotScale x == 2 then intDecode (slotFmt x) (v / 2 ^ 16 % 256) else 0)

/-- A, as rows of exact values. -/
def State.witA (s : State) (l : Launch) (r : WitRec) (a b : Code) : List (List Num) :=
  (List.range r.m).map (fun i => (List.range r.k).map (fun k =>
    let n := r.bitsA a / 8
    let q := s.partNat l (r.addr 0 + r.pitch a b 0 * i + n * k) n
    let q := if r.conv then convert 4 (slotFmt a) (slotRnd a) (slotSat a) 0 q else q
    witElem a q (s.partScale l r a b a 4 i (k / 32))))

/-- B, as rows of exact values. -/
def State.witB (s : State) (l : Launch) (r : WitRec) (a b : Code) : List (List Num) :=
  (List.range r.k).map (fun k => (List.range r.n).map (fun j =>
    let n := fmtBits (slotFmt b) / 8
    witElem b (s.partNat l (r.addr 1 + r.pitch a b 1 * k + n * j) n) (s.partScale l r a b b 5 j (k / 32))))

def Num.finite : Num → Bool | .fin .. => true | _ => false
def Num.abs : Num → Num | .nan => .nan | .inf _ => .inf false | .fin _ m e => .fin false m e

/-- The exact sum of products. -/
def dot (x y : List Num) : Num := numSum ((x.zip y).map (fun p => p.1.mul p.2))

/-- The columns of tile u, as a slice of a row. -/
def tileOf' (q u : Nat) (row : List Num) : List Num := (row.drop (q * u)).take q

/-- Signs as values. -/
def signsOf (seed : Code) (q u : Nat) : List Num := (List.range q).map (fun j => .fin (projNeg seed (q * u + j)) 1 0)

/-- Both slots take the integer path (spec 04, R101). -/
def intPath (a b : Code) : Bool := slotFmt a < 4 && slotScale a == 0 && slotScale b == 0

/-- |d − w| is above (S + 1) × 2^−22 × p + (S + 1) × Q × 2^−148. -/
def beyond (d w p : Num) (steps q : Nat) : Bool :=
  let tol := (p.mul (.fin false (steps + 1) (-22))).add (.fin false ((steps + 1) * q) (-148))
  match w with
  | .fin .. => Num.lt false tol ((d.add w.neg).abs)
  | _ => true

/-- Check 2 of one row and tile. -/
def check2 (int : Bool) (d p : Num) (w : Word) (steps q : Nat) : Bool :=
  if int then wrapInt 32 (d.units 0) == w.toNat else !beyond d (f32 w) p steps q

/-- Check 3 of one row and tile: the projection of C, bit for bit. -/
def check3 (int : Bool) (seed : Code) (q u : Nat) (c : List Word) (w : Word) : Bool :=
  if int then
    wrapInt 32 (((List.range q).map (fun j => let x := (listGet 0 c j).toInt; if projNeg seed (q * u + j) then -x else x)).foldl (· + ·) 0) == w.toNat
  else mmCombine ((List.range q).map (fun j => let x := f32 (listGet 0 c j); if projNeg seed (q * u + j) then x.neg else x)) (.fin false 0 0) == w

/-- The MM test, once every part can be read. -/
def State.mmTest (s : State) (l : Launch) (r : WitRec) (a b : Code) : Verdict :=
  let ma := s.witA l r a b
  let mb := s.witB l r a b
  let int := intPath a b
  let steps := r.k / stepK (slotFmt a)
  let y (u : Nat) : List Num := mb.map (fun row => numSum ((tileOf' r.q u row).map Num.abs))
  let z (u : Nat) : List Num := mb.map (fun row => dot (signsOf l.seed r.q u) (tileOf' r.q u row))
  let p (u : Nat) (row : List Num) : Num := dot (row.map Num.abs) (y u)
  let tiles := List.range (r.n / r.q)
  let huge := tiles.any (fun u => ma.any (fun row => !Num.lt false (p u row) (.fin false 1 127)))
  if !ma.all (fun row => row.all Num.finite) || !mb.all (fun row => row.all Num.finite) || huge then .dual
  else
    let w (i u : Nat) : Word := s.partWord l (r.projAddr a b i u)
    let rows := (List.range r.m).zip ma
    let one (u : Nat) : Option Verdict :=
      match rows.find? (fun x => !check2 int (dot x.2 (z u)) (p u x.2) (w x.1 u) steps r.q) with
      | some x => some (.fail 2 x.1)
      | none =>
        let c (i : Nat) : List Word := (List.range r.q).map (fun j => s.partWord l (r.addr 2 + r.pitch a b 2 * i + 4 * (r.q * u + j)))
        ((sampled l.seed r.m).find? (fun i => !check3 int l.seed r.q u (c i) (w i u))).map (fun i => .fail 3 i)
    (tiles.findSome? one).getD .pass

/-- The first index below n that fails. -/
def firstBad (n : Nat) (ok : Nat → Bool) : Option Nat := (List.range n).find? (fun i => !ok i)

/-- The first check that fails, with its index. -/
def verdictOf (checks : List (Nat × Option Nat)) : Verdict :=
  match checks.findSome? (fun c => c.2.map (fun i => (c.1, i))) with
  | some (t, i) => .fail t i
  | none => .pass

/-- The words of a part of a SORT or SCAN record. -/
def State.partWords (s : State) (l : Launch) (r : WitRec) (role n : Nat) : List Word :=
  (List.range n).map (fun i => s.partWord l (r.addr role + 4 * i))

/-- The SORT test. -/
def State.sortTest (s : State) (l : Launch) (r : WitRec) : Verdict :=
  let x := s.partWords l r 8 r.n
  let y := s.partWords l r 9 r.n
  let p := s.partWords l r 10 r.n
  let at' (t : List Word) (i : Nat) : Word := listGet 0 t i
  let flag (i : Nat) : Bool := (s.partByte l (r.addr 11 + i / 8)).getLsbD (i % 8)
  let lt (a b : Word) : Bool := if r.uns then a.ult b else a.slt b
  verdictOf [
    (1, firstBad r.n (fun i => (at' p i).toNat < r.n && !(p.take i).contains (at' p i))),
    (2, firstBad r.n (fun i => at' y i == at' x (at' p i).toNat)),
    (3, firstBad (r.n - 1) (fun i => if flag i then at' y i == at' y (i + 1) else lt (at' y i) (at' y (i + 1)))),
    (4, firstBad (r.n - 1) (fun i => !flag i || (at' p i).toNat < (at' p (i + 1)).toNat))]

/-- The SCAN test. -/
def State.scanTest (s : State) (l : Launch) (r : WitRec) : Verdict :=
  let x := s.partWords l r 8 r.n
  let y := s.partWords l r 9 r.n
  let blocks := (r.n + 255) / 256
  let e (m : Nat) : Word := s.partWord l (r.addr 12 + 8 * m)
  let t (m : Nat) : Word := s.partWord l (r.addr 12 + 8 * m + 4)
  let before (m : Nat) : Word := if m == 0 then 0 else e (m - 1)
  let sum (lo n : Nat) : Word := ((x.drop lo).take n).foldl (· + ·) 0
  verdictOf [
    (1, firstBad blocks (fun m => t m == sum (256 * m) 256)),
    (2, firstBad blocks (fun m => e m == before m + t m)),
    (3, firstBad blocks (fun m => e m == listGet 0 y (min (256 * m + 255) (r.n - 1)))),
    (4, (sampled l.seed r.n).find? (fun i => listGet 0 y i != before (i / 256) + sum (256 * (i / 256)) (i % 256 + 1)))]

/-- A record whose slots leave it to a comparison of runs. -/
def WitRec.untestable (r : WitRec) (a b : Code) : Bool :=
  r.kind == 0 && (slotFmt a == 9 || slotFmt b == 9 || (intPath a b && slotSat a) || (r.conv && slotRnd a == .sr))

/-- The test of one record. -/
def State.testRec (s : State) (l : Launch) (r : WitRec) : Verdict :=
  let a := l.slot r.slotA
  let b := l.slot r.slotB
  if r.untestable a b then .dual
  else
    let ranges := (r.parts.map (·.role)).flatMap (fun role => if (r.needs a b).contains role then r.ranges a b role else [])
    match s.partBar l.world (ranges.flatMap (fun x => granulesOf x.1 x.2)) with
    | some v => v
    | none => match r.kind with
      | 0 => s.mmTest l r a b
      | 1 => s.sortTest l r
      | _ => s.scanTest l r

/-- The key ranges of a record's output parts (spec 16, R363). -/
def State.outKeys (s : State) (l : Launch) (r : WitRec) : List (Nat × Nat) :=
  let a := l.slot r.slotA
  let b := l.slot r.slotB
  let ranges := (outRoles r.kind).flatMap (r.ranges a b)
  ranges.flatMap (fun x => (granulesOf x.1 x.2).filterMap (fun va =>
    match s.translate 2000 l.world va with
    | .ok t => some (t.key, min (x.1 + x.2) (va / 4096 * 4096 + 4096) - va)
    | .error _ => none))

/-- Every word of a version lies in an output part of its records. -/
def State.coveredBy (s : State) (l : Launch) (v : Version) (rs : List WitRec) : Bool :=
  let keys := rs.flatMap (s.outKeys l)
  v.words.all (fun w => keys.any (fun k => meets k.1 (k.1 + k.2) w.1 (w.1 + 4)))

/-! Results (spec 15, R348, R350, R353, R354). -/

/-- A version passes what is asked of it: it waits for its upstream. -/
def Version.settleTest (v : Version) : Version :=
  if v.passedTest && (!v.dual || v.matched) then { v with state := .waitingV } else v

/-- A failed test: the writers gain 32, and the version is discarded with event 2. -/
def State.failVersion (s : State) (v : Version) (test slot index : Nat) : State :=
  (s.addScores (dieList v.writers) 32 v.injected).settle [.drop v.id 2 v.writers test slot index]

/-- The record a test waits for is noted once. -/
def State.waitRec (s : State) (l : Launch) (r : SubRec) (va bits : Nat) : Out :=
  if r.wait == some (va / 65536) then .refused .notEnabled
  else
    let note := { FaultRec.none with code := 0x30, eng := true, lctr := BitVec.ofNat 16 l.lctr }
    let mark (x : SubRec) : SubRec := { x with wait := some (va / 65536) }
    let s := s.recordPages l.world note [(va, bits)]
    .next { s with checker := { s.checker with subs := mapIf (fun x => x.id == r.id) mark s.checker.subs } }.progress

/-- Every record has passed, or is left to the comparison of runs. -/
def State.passVersion (s : State) (l : Launch) (v : Version) (dual : Bool) : State :=
  let s := s.modVersion v.id (fun v => { v with passedTest := true, dual := v.dual || dual }.settleTest)
  let s := { s with checker := { s.checker with subs := s.checker.subs.filter (fun r => !(r.world == v.world && r.body.version == v.num)) } }
  (if dual && !v.matched then s.shadowRun l else s).settle []

/-- `WITNESS_TEST_RESULT`: the records that cover a version are tested in the order they were submitted. -/
def execWitnessTestResult (world version : Nat) (s : State) : Out :=
  match s.versions.find? (fun v => v.id == version && v.world == world) with
  | none => .refused .notEnabled
  | some v => match (s.launch? v.launch).map (fun l => l.asOf v.attempt) with
    | none => .refused .notEnabled
    | some l =>
      let rs := s.checker.subs.filter (fun r => r.world == world && r.body.version == v.num)
      let vs := rs.map (fun r => (r, s.testRec l r.body))
      if !s.powered || v.state != .testing || v.shadow || v.passedTest || s.writerReset v || vs.any (fun x => x.2 == .hold) then .refused .notEnabled
      else match vs.findSome? (fun x => match x.2 with | .absent k => some k | _ => none) with
      | some k => .fault (.absentDram k)
      | none => match vs.find? (fun x => match x.2 with | .fail .. => true | _ => false) with
      | some (r, .fail t i) => .next (s.failVersion v t r.slot i).progress
      | _ => match vs.find? (fun x => match x.2 with | .wait .. => true | _ => false) with
      | some (r, .wait va bits) => s.waitRec l r va bits
      | _ =>
        let dual := vs.any (fun x => x.2 == .dual) || (l.wkind == 3 && !rs.isEmpty) || (l.wkind != 3 && !s.coveredBy l v (rs.map (·.body)))
        .next (s.passVersion l v dual).progress

/-! The comparison of runs (spec 15, R353). -/

/-- The sub-index of a version number. -/
def Version.sub (v : Version) : BitVec 8 := v.num.setWidth 8

/-- The versions of a run that pass or fail by the comparison: all where WKIND is `dual`, else those of the compared sub-indices. -/
def comparedIn (all : Bool) (subs : List (BitVec 8)) (vs : List Version) : List Version :=
  if all then vs else vs.filter (fun v => subs.contains v.sub)

/-- The first run's versions pass, and what was run for the comparison is dropped. -/
def State.passRun (s : State) (l : Launch) (ids : List Nat) : State :=
  let pass (v : Version) : Version := { v with matched := true, dual := true }.settleTest
  (({ s with versions := mapIf (fun v => ids.contains v.id) pass s.versions }).dropShadows l).settle []

/-- The second run's versions pass in place of the first run's: each takes the words and writers of its counterpart and gains what that
depends on, its own run's versions standing for those of the other, and one without a counterpart joins (spec 15, R347, R353). -/
def State.takeRun (s : State) (l : Launch) (ids : List Nat) (second : List Version) : State :=
  let swap (v : Version) : Version := match second.find? (fun x => x.sub == v.sub) with
    | some x => { v with words := x.words, writers := x.writers }
    | none => { v with words := [] }
  let first := s.versions.filter (fun v => ids.contains v.id)
  let extra := second.filter (fun x => !first.any (fun v => v.sub == x.sub))
  let join (x : Version) : Version :=
    { x with num := verNum l x.sub, launch := l.id, shadow := false, passedTest := true, dual := true, state := .testing, up := [] }
  let name (u : Nat) : Nat := match second.find? (fun x => x.id == u) with
    | some x => ((first.find? (fun v => v.sub == x.sub)).map (·.id)).getD u
    | none => u
  let links := second.flatMap (fun x => x.up.map (fun u => (name x.id, name u)))
  let change (v : Version) : Version :=
    if ids.contains v.id then swap v else if extra.any (fun x => x.id == v.id) then join v else v
  let s := links.foldl (fun s x => s.gain x.1 x.2) { s with versions := s.versions.map change }
  s.passRun l (ids ++ extra.map (·.id))

/-- No two runs agree: the test fails, flagged where an injection has corrupted any of the runs (spec 15, R356). -/
def State.failRun (s : State) (l : Launch) (vs : List Version) : State :=
  let dies := dedup (vs.flatMap (fun v => dieList v.writers))
  let runs := s.launches.filter (fun y => y.shadowOf == some l.id && y.attempt == l.attempt)
  let hit := vs.any (·.injected) || s.versions.any (fun v => v.injected && runs.any (fun y => y.id == v.launch))
  ((s.addScores dies 32 hit).dropShadows l).settle (vs.map (fun v => .drop v.id 2 v.writers 0 0 0))

/-- A run's versions hold a word that an injection has corrupted (spec 15, R356). -/
def runInjected (vs : List Version) : Bool := vs.any (·.injected)

/-- `SHADOW_RUN_COMPLETE`: a second or third run of an attempt has ended, and the digests of every word of the runs' versions are
compared, once no stack that wrote them is being reset (spec 15, R353, R357). The dies of the run that matches no other gain 32, flagged
where an injection corrupted that run. -/
def execShadowRunComplete (launch : Nat) (s : State) : Out :=
  match s.launch? launch with
  | none => .refused .notEnabled
  | some x => match (x.shadowOf.bind s.launch?).map (fun l => l.asOf x.attempt) with
    | none => .refused .notEnabled
    | some l =>
      let all := l.wkind == 3
      let first := (s.held l).filter (fun v => (v.dual || all) && !v.matched)
      let subs := first.map Version.sub
      let runOf (n : Nat) : Option Launch := s.launches.find? (fun y => y.shadowOf == some l.id && y.attempt == l.attempt && y.run == n)
      let versions (y : Launch) : List Version := comparedIn all subs ((s.versionsOf y.id).filter (·.shadow))
      let ids := first.map (·.id)
      let complete (y : Launch) : Bool := y.bad.isNone
      let same (y : Launch) : Bool := complete y && y.sum == l.sum
      if !s.powered || x.status != .ended || !(s.gangsOf x.id).isEmpty || l.status != .ended || first.isEmpty || x.run == 0 ||
          (x.run == 2 && (runOf 3).isSome) || (first ++ s.versionsOf x.id).any s.writerReset then .refused .notEnabled
      else if x.run == 2 then
        if same x then .next (s.passRun l ids).progress
        else
          let mask := match s.world? l.world with | some w => w.diemask | none => 0
          let free := (dieList (mask &&& s.liveMask)).filter (fun d => !l.dies.contains d && !x.dies.contains d)
          match free with
          | d :: _ => .next (s.submitShadow l 3 (List.replicate 8 d)).progress
          | [] => .next (s.failRun l first).progress
      else
        match runOf 2 with
        | none => .refused .notEnabled
        | some y =>
          if same x then .next ((s.addScores y.dies 32 (runInjected (s.versionsOf y.id))).passRun l ids).progress
          else if complete x && complete y && x.sum == y.sum then
            .next ((s.addScores l.dies 32 (runInjected first)).takeRun l ids (versions y)).progress
          else .next (s.failRun l first).progress

end Sys2Proof.Machine
end

