-- ==== Sys2Proof/Machine/Checker.lean ====
section
/-! DEFINITION. The checker die: reported events, die faults, score decay, tag failures, warm reset of a stack, splits and
measurements (spec 14, R331; 15, R343, R344, R355, R357, R358, R361). -/

namespace Sys2Proof.Machine

/-! Die faults (spec 15, R355). -/

/-- A gang that stands on a die. -/
def Gang.placedOn (g : Gang) (d : Nat) : Bool := g.die == d && g.status != .saved && g.status != .discarding

/-- A die fault: every gang on the die halts, the versions it wrote are discarded with event 5, and the launches run again. -/
def State.dieFault (s : State) (d : Nat) : State :=
  let here := dedup ((s.gangs.filter (fun g => g.placedOn d)).map (·.launch))
  let s := s.haltGangs .halting (fun g => g.die == d)
  let drops := (s.versions.filter (fun v => v.writers.getLsbD d)).map (fun v => Work.drop v.id 5 v.writers 0 0 0)
  let again := here.map (fun l => Work.again l (1 <<< d))
  s.settle (drops ++ again)

/-- The sender of a flit group that failed its tag gains 4; three failures take a UCIe link down, and the split is decided apart. -/
def State.ucieFailure (s : State) (d : Nat) (injected : Bool := false) : State :=
  (s.modDie d (fun d => { d with linkFails := min 3 (d.linkFails + 1) })).addScore d 4 injected

/-- `TAG_FAILURE`: the flit group is dropped and replayed; three in a row take the link down (spec 14, R331). DESIGN CHOICE (assumption
65): the die that sent over a Qormon link is another chip's, and R344 gives this checker scores of its own die stacks alone, so no score
of this chip rises for it. -/
def execTagFailure (edge : Edge) (s : State) : Out :=
  match edge with
  | .ucie die => event (s.powered && die < 8 && (s.die die).live) (s.ucieFailure die)
  | .qormon n =>
    let s1 := s.modLink n (fun x => { x with tagFails := x.tagFails + 1, replays := x.replays + 1 })
    let third : Bool := match s.link? n with | some x => 2 ≤ x.tagFails | none => false
    event (s.powered && (match s.link? n with | some x => x.up | none => false)) (if third then s1.linkDown n else s1)

/-! Reports (spec 15, R343). -/

/-- An uncorrectable error in a gang's state, or a sub-array mismatch. -/
def State.gangError (s : State) (d : Nat) (injected : Bool := false) : State := (s.dieFault d).addScore d 16 injected

/-- `CHECKER_EVENT_REPORT`. -/
def execCheckerEventReport (die : Nat) (err : ErrorKind) (s : State) : Out :=
  let up := s.powered && die < 8 && (s.die die).live
  let placed (g : Nat) : Bool := match s.gang? g with | some x => x.placedOn die | none => false
  match err with
  | .corrected => event up (s.addScore die 1)
  | .gangState g => event (up && placed g) (s.gangError die)
  | .subArray g => event (up && placed g) (s.gangError die)
  | .line k =>
    let line := lineOf k
    let s1 := if s.poison.contains line then s else { s with poison := s.poison ++ [line] }
    event (up && isDevice k && keyDie k == die && !keyAbsent k) (s1.addScore die 16)

/-- Core clocks of 2^28 checker clocks: the checker counts at half the rate (spec 00, R6; 02, R43; 15, R344). -/
def decayClocks : Nat := 2 ^ 29

/-- `SCORE_DECAY`: every 2^28 checker clocks each score falls by 1, never below 0. -/
def execScoreDecay (s : State) : Out :=
  let fall (d : Die) : Die := { d with score := if d.score == 0 then 0 else d.score - 1 }
  event (s.powered && s.checker.decayed + decayClocks ≤ s.clock)
    { s with dies := s.dies.map fall, checker := { s.checker with decayed := s.checker.decayed + decayClocks } }

/-! Warm reset of one stack (spec 15, R357). -/

/-- Gangs the reset of a stack halts: those of the worlds whose DIEMASK holds it, and those placed on it. -/
def State.resets (s : State) (d : Nat) (g : Gang) : Bool :=
  g.die == d || (match s.world? g.world with | some w => w.diemask.getLsbD d | none => false)

/-- Quiesce and reset: dirty lines are in DRAM, and the stack's caches, translations and core registers are cleared. -/
def State.resetStack (s : State) (d : Nat) : State :=
  let core (c : Nat) : Bool := c < 800 && Config.dieOfCore c == d
  let s := s.emptySlice d
  let s := { s with
    llcDirty := s.llcDirty.filter (fun x => keyDie (x * 128) != d)
    l1 := s.l1.filter (fun x => !core x.owner && keyDie (x.line * 128) != d)
    tlb := s.tlb.filter (fun t => !core t.place && t.place != 1000 + d)
    cores := s.cores.filter (fun c => !core c.1) }
  s.modDie d (fun x => { x with resetting := true, resetAt := s.clock })

/-- Re-admission: fresh link keys, the halts are released, placement resumes, and versions that waited may fire. -/
def State.readmit (s : State) (d : Nat) : State :=
  let s := s.modDie d (fun x => { x.rekeyed with resetting := false, resetReq := false, halted := false })
  { s with gangs := mapIf (fun g => g.die == d) (fun g => { g with heldDie := false }) s.gangs }

/-- `WARM_RESET`: the first firing halts the gangs, the second resets the stack once they are saved, the third re-admits it. -/
def execWarmReset (die : Nat) (s : State) : Out :=
  let x := s.die die
  let saved := s.gangs.all (fun g => !s.resets die g || g.status == .saved)
  if !s.powered || 8 ≤ die || !x.live || x.excluded || x.fenced then .refused .notEnabled
  else if x.resetting then .next ((s.readmit die).settle []).progress
  else if x.resetReq then event saved (s.resetStack die)
  else .next ((s.modDie die (fun x => { x with resetReq := true })).preempt (s.resets die)).progress

/-! Splits (spec 15, R358). -/

/-- The package stops until a cold start, or loses its power: nothing runs any more, and what was dirty is lost. -/
def State.stopAll (s : State) : State :=
  { s with
    agenda := [], cur := none, threads := [], groups := [], bins := [], wgs := [], gangs := [], flights := [], tiles := []
    engines := [], locks := [], l1 := [], tlb := [], stt := [], cores := [], injects := [], powered := false }

/-- A stack is fenced: its gangs stop, its versions are discarded as at a die fault, and the host lines of its slice are lost (spec 15,
R358; assumption 66). -/
def State.fence (s : State) (d : Nat) : State :=
  ({ s with iod := { s.iod with hostLines := s.iod.hostLines.filter (fun h => h.die != d) }, llcDirty := s.llcDirty.filter (fun x => keyDie (x * 128) != d) }.modDie d (fun x => { x with fenced := true, memory := false, resetReq := false, resetting := false })).dieFault d

/-- Worlds whose DIEMASK holds a fenced stack go to ERROR with a POISON record. -/
def State.fencedWorlds (s : State) (fenced : List Nat) : State :=
  (s.worlds.filter (fun w => fenced.any (fun d => w.2.diemask.getLsbD d))).foldl (fun s w =>
    (s.worldError w.1).pushRecord w.1 { FaultRec.none with code := 0x25, lctr := 0xFFFF }) s

/-- Stacks that take part: neither excluded nor fenced. -/
def State.stacks (s : State) : List Nat := (List.range 8).filter (fun d => let x := s.die d; x.live && !x.excluded && !x.fenced)

/-- The parts name every stack that takes part once, and one part holds the IOD. -/
def splitOk (present : List Nat) (parts : List Split) : Bool :=
  2 ≤ parts.length && (parts.filter (·.iod)).length == 1 &&
  present.all (fun d => (parts.filter (fun p => p.dies.getLsbD d)).length == 1)

/-- `LINK_SPLIT_DECISION`: the group with the IOD and a command processor lives, and the other stacks are fenced; without a command
processor every world fails and the package stops. -/
def execLinkSplitDecision (parts : List Split) (s : State) : Out :=
  let present := s.stacks
  if !s.powered || !splitOk present parts then .refused .notEnabled
  else match parts.find? (·.iod) with
    | none => .refused .notEnabled
    | some p =>
      let lives (d : Nat) : Bool := present.contains d && p.dies.getLsbD d && p.audit.getLsbD d
      if !lives 0 && !lives 4 then
        let s := s.worlds.foldl (fun s w => s.worldError w.1) s
        .next { s.stopAll with checker := { s.checker with cpLost := true } }
      else
        let lost := present.filter (fun d => !lives d)
        let s := { s with checker := { s.checker with cpB := !lives 0 } }
        .next ((lost.foldl State.fence s).fencedWorlds lost).progress

/-! Measurements (spec 15, R361). -/

/-- `SPDM_MEASUREMENT_REQUEST`: the running values, and whether an activation is pending. -/
def execSpdmMeasurementRequest (s : State) : Out :=
  event s.powered { s with iod := { s.iod with replies := s.iod.replies ++ [.spdm s.checker.meas s.checker.pending.isSome] } }

/-- `FIRMWARE_ACTIVATION_SWITCH`: an activation becomes pending with its values, and at its next event switches to them. -/
def execFirmwareActivationSwitch (values : Measurement) (s : State) : Out :=
  match s.checker.pending with
  | none => event s.powered { s with checker := { s.checker with pending := some values } }
  | some v => event (s.powered && v == values) { s with checker := { s.checker with meas := values, pending := none } }

end Sys2Proof.Machine
end

