-- ==== Sys2Proof/Machine/System.lean ====
section
/-! DEFINITION. The system instructions (opcode 0x70), the privileged registers behind `rdpr` and `wrpr`, and words that are no
instruction (spec 03, R71; 14, R314, R322, R323, R329, R336 to R340, R379; 15, R356). -/

namespace Sys2Proof.Machine

/-- `UNASSIGNED_ENCODING`: the group that fetched the word traps ILLEGAL. -/
def execUnassignedEncoding (_w : Code) (s : State) : Out :=
  match s.issuer with
  | none => .refused .noGroup
  | some e => .next (s.takeTrap e { code := 0x01 })

/-! Privileged registers (spec 14, R337). -/

/-- World and register of a per-world number. -/
def prnWorld (n : Nat) : Nat := n / 128 % 256
def prnReg (n : Nat) : Nat := n % 128

/-- The `state` register: state, ERROR, protected, stalled. -/
def World.stateWord (w : World) : Nat := w.state.toNat + 4 * w.error.toNat + 8 * w.prot.toNat + 16 * w.stalled.toNat

/-- A per-world register. -/
def World.reg (w : World) (r : Nat) : Nat :=
  if r == 0 then w.stateWord
  else if r == 1 then w.ptroot.toNat
  else if r == 2 then w.diemask.toNat
  else if r == 3 then w.seed.toNat
  else if r == 4 then w.qlimit.toNat
  else if 8 ≤ r && r < 0x10 then (listGet 0 w.dbase (r - 8)).toNat
  else if 0x10 ≤ r && r < 0x18 then
    (listGet 0 w.owntab (2 * (r - 0x10))).toNat + 2 ^ 16 * (listGet 0 w.owntab (2 * (r - 0x10) + 1)).toNat
  else if r == 0x18 then w.winbase.toNat
  else if r == 0x19 then w.winsize.toNat
  else if r == 0x1A then w.fqbase.toNat
  else if r == 0x1B then w.fqsize.toNat
  else if r == 0x1C then w.fqhead.toNat
  else if r == 0x1D then w.fqtail.toNat
  else if r == 0x1F then w.bkbase.toNat
  else if r == 0x20 then w.bksize.toNat
  else if r == 0x21 then w.peertab.toNat
  else if r == 0x22 then w.rlquota.toNat
  else if r == 0x23 then w.acquota.toNat
  else 0

/-- Reads a privileged register; a world that does not exist reads 0. -/
def State.readPriv (s : State) (n : Nat) : Word :=
  if n == 0x8000 then s.liveMask.setWidth 32
  else if n == 0x8001 then s.iod.chip.setWidth 32
  else match s.world? (prnWorld n) with
    | some w => BitVec.ofNat 32 (w.reg (prnReg n))
    | none => 0

/-- Largest values a written field takes, as the bits it may set. -/
def regMask (r : Nat) : Nat :=
  if r == 0 then 0x1F
  else if r == 2 then 0xFF
  else if r == 3 then 2 ^ 27 - 1
  else if 8 ≤ r && r < 0x10 then 2 ^ 25 - 1
  else if 0x10 ≤ r && r < 0x18 then 0x01FF01FF
  else if r == 0x18 || r == 0x19 then 0x7F
  else if r == 0x1A then 2 ^ 28 - 1
  else if r == 0x1B then 0x1F
  else if r == 0x1C || r == 0x1E then 0xFFFF
  else if r == 0x21 then 2 ^ 32 - 1
  else if r == 0x22 then 0xFFF
  else if r == 0x23 then 0x1FFFF
  else 2 ^ 24 - 1

/-- Registers that are written only while the world is free or in CONFIG_UNLOCKED. -/
def writeLocked (r : Nat) : Bool := (1 ≤ r && r ≤ 0x1B) || (0x1F ≤ r && r ≤ 0x21)

/-- A world with one register changed. -/
def World.setReg (w : World) (r v : Nat) : World :=
  if r == 1 then { w with ptroot := BitVec.ofNat 24 v }
  else if r == 2 then { w with diemask := BitVec.ofNat 8 v }
  else if r == 3 then { w with seed := BitVec.ofNat 27 v }
  else if r == 4 then { w with qlimit := BitVec.ofNat 24 v }
  else if 8 ≤ r && r < 0x10 then { w with dbase := listPut 0 w.dbase (r - 8) (BitVec.ofNat 25 v) }
  else if 0x10 ≤ r && r < 0x18 then
    { w with owntab := listPut 0x1FF (listPut 0x1FF w.owntab (2 * (r - 0x10)) (BitVec.ofNat 9 v)) (2 * (r - 0x10) + 1) (BitVec.ofNat 9 (v / 2 ^ 16)) }
  else if r == 0x18 then { w with winbase := BitVec.ofNat 7 v }
  else if r == 0x19 then { w with winsize := BitVec.ofNat 7 v }
  else if r == 0x1A then { w with fqbase := BitVec.ofNat 28 v }
  else if r == 0x1B then { w with fqsize := BitVec.ofNat 5 v }
  else if r == 0x1F then { w with bkbase := BitVec.ofNat 24 v }
  else if r == 0x20 then { w with bksize := BitVec.ofNat 24 v }
  else if r == 0x21 then { w with peertab := BitVec.ofNat 32 v }
  else if r == 0x22 then { w with rlquota := BitVec.ofNat 12 v }
  else if r == 0x23 then { w with acquota := BitVec.ofNat 17 v }
  else w

/-- The region of a world on a die, first and end of die-local bytes (spec 14, R322). -/
def World.regionOn (w : World) (d : Nat) : Nat × Nat :=
  if w.diemask.getLsbD d && w.qlimit != 0 then
    let lo := (listGet 0 w.dbase d).toNat * 4096
    (lo, lo + w.qlimit.toNat * 4096)
  else (0, 0)

/-- Two ranges that are not empty meet. -/
def overlap (a b : Nat × Nat) : Bool := a.1 < a.2 && b.1 < b.2 && a.1 < b.2 && b.1 < a.2

/-- Window shares of worlds, in units of 64 KiB. -/
def World.share (w : World) : Nat × Nat := (w.winbase.toNat, w.winbase.toNat + w.winsize.toNat)

/-- A world as changed keeps its regions and share apart from the others', and the reservations within their sums (spec 14, R322, R323,
R329). -/
def State.apart (s : State) (id : Nat) (w : World) : Bool :=
  let others := (s.worlds.filter (fun x => x.1 != id)).map (·.2)
  others.all (fun x => (List.range 8).all (fun d => !overlap (w.regionOn d) (x.regionOn d)) && !overlap w.share x.share) &&
  (others.map (fun x => x.rlquota.toNat)).foldl (· + ·) w.rlquota.toNat ≤ 2048 &&
  (others.map (fun x => x.acquota.toNat)).foldl (· + ·) w.acquota.toNat ≤ 65536

/-- What a write of a privileged register does: it traps ILLEGAL, waits for a cancel it has begun, or is performed. -/
inductive PrivWrite where
  | illegal
  | wait (s : State)
  | done (s : State)

/-- Halts of kind 2 of a die are released. -/
def State.releaseDie (s : State) (d : Nat) : State :=
  let s := s.modDie d (fun x => { x with halted := false })
  ({ s with gangs := mapIf (fun g => g.die == d) (fun g => { g with heldDie := false }) s.gangs }).progress

/-- A write of `state` (spec 14, R379): an unprotected world moves to CONFIG_UNLOCKED or RUN, its instances cancelled first where
ERROR is set. -/
def State.writeState (s : State) (world : Nat) (w : World) (v : Nat) : PrivWrite :=
  if w.prot || v % 4 == 0 || v % 4 == 2 then .illegal
  else if w.error && !s.worldIdle world then .wait (s.cancelWorld world)
  else
    let s := if w.error then s.cancelWorld world else s
    .done (s.leaveError world (BitVec.ofNat 2 v))

/-- The instruction traps ILLEGAL whatever the write would do: a read-only register, a value beyond its field or range, a locked
register, one that brings worlds together, or a DIEMASK that names a stack excluded at boot. DESIGN CHOICE (assumption 69): R5 and R359
say only that such a stack is never in a DIEMASK, and the trap is the model's. -/
def State.privIllegal (s : State) (n v : Nat) : Bool :=
  let r := prnReg n
  let bad := 0x8000 ≤ n || r == 0x1D || v &&& regMask r != v || (r == 0x1B && v != 0 && (v < 4 || 16 < v)) ||
    (r == 2 && (List.range 8).any (fun d => v.testBit d && (s.die d).excluded))
  match s.world? (prnWorld n) with
  | none => bad || (r == 0 && (v % 4 == 0 || v % 4 == 2)) || (r == 0x22 && !s.apart (prnWorld n) (World.new.setReg r v)) ||
      (r == 0x23 && !s.apart (prnWorld n) (World.new.setReg r v))
  | some w => bad || (r == 0 && (w.prot || v % 4 == 0 || v % 4 == 2)) || (writeLocked r && w.state != 1) || !s.apart (prnWorld n) (w.setReg r v)

/-- Writes a privileged register (spec 14, R337). A world that does not exist keeps nothing. -/
def State.writePriv (s : State) (n v : Nat) : PrivWrite :=
  let world := prnWorld n
  let r := prnReg n
  if s.privIllegal n v then .illegal
  else match s.world? world with
    | none => .done s
    | some w =>
      if r == 0 then s.writeState world w v
      else if r == 0x1C then .done (s.consume world (BitVec.ofNat 16 v))
      else if r == 0x1E then .done (s.closeRecord world (BitVec.ofNat 16 v))
      else
        let s := s.modWorld world (fun w => w.setReg r v)
        let s := if r == 2 then s.dropMemory else s
        .done (if r == 0x1A || r == 0x1B then (s.flushRecords world).unstall world else s)

/-! The instructions. -/

/-- A system instruction: a value that is ILLEGAL comes before PRIV (spec 03, R78). -/
def sysOp (g : Guard) (i : Instr) (s : State) (illegal : Env → Bool) (body : Env → List Nat → Out) : Out :=
  let early : Option Env := match s.issuer with
    | some e => (match s.gate e g i with
      | .trap t => if t.code == 0x03 && !(s.lanes e g).isEmpty && illegal e then some e else none
      | _ => none)
    | none => none
  match early with
  | some e => .next (s.takeTrap e { code := 0x01 })
  | none => groupOp g i s (fun e ts => if illegal e then .next (s.takeTrap e { code := 0x01 }) else body e ts)

/-- Every issuing thread's earlier operations are released at `pkg`. -/
def State.releasedAll (s : State) (e : Env) (ts : List Nat) : Bool := ts.all (fun t => s.released e.w.id t 3)

def execRdpr (g : Guard) (f : FY) (s : State) : Out :=
  sysOp g (.rdpr g f) s (fun _ => false) (fun e ts =>
    if !s.releasedAll e ts then .next (s.hold e) else (s.setS e f.sa (s.readPriv f.prn.toNat)).done e)

def execWrpr (g : Guard) (f : FY) (s : State) : Out :=
  sysOp g (.wrpr g f) s (fun e => s.privIllegal f.prn.toNat (e.s f.sa).toNat) (fun e ts =>
    if !s.releasedAll e ts then .next (s.hold e)
    else match s.writePriv f.prn.toNat (e.s f.sa).toNat with
      | .illegal => .next (s.takeTrap e { code := 0x01 })
      | .wait t => .next (t.hold e)
      | .done t => t.done e)

/-- Entries that a `tlbinv` removes (spec 14, R338). -/
def tlbHit (e : Env) (f : FY) (t : TlbEntry) : Bool :=
  let world := (e.s f.sc).toNat % 256
  let first := e.pair f.sa % 2 ^ 56 / 65536
  let n := (e.s f.sb).toNat
  match f.prn.toNat with
  | 0 => t.world == world && n != 0 && (let size := 2 ^ (sizeBits t.size - 16); t.vpn / size * size < first + n && first < t.vpn / size * size + size)
  | 1 => t.world == world
  | _ => true

/-- Accesses translated through removed entries, as dependences at their homes: flights, tile operations, bulk lines this chip sent, and
posted writes of the host (spec 14, R338). -/
def State.usersOf (s : State) (gone : List TlbEntry) : List (Nat × Nat) :=
  let within (world va n : Nat) : Bool := (regionsOf va n).any (fun x => gone.any (fun t => t.covers world x))
  ((s.iod.bulk.filter (fun x => x.src == s.me && within x.world x.va x.data.length)).map (fun x => (x.id, 6))) ++
  ((s.iod.hostWrites.filter (fun w => within w.world w.va w.size)).map (fun w => (w.id, 6))) ++
  (s.flights.filter (fun f => !f.spad && f.elems.any (fun x => gone.any (fun t => t.covers f.world x.va)))).map (fun f => (f.id, 6)) ++
  (s.tiles.filter (fun o => (match o.kind with | .load (.va _) _ => true | .store (.va _) _ _ => true | _ => false) &&
    gone.any (fun t => t.world == s.worldOfWg o.wg))).map (fun o => (o.id, 6))

/-- An operation whose completion counts in st and waits for others. -/
def State.addSettle (s : State) (e : Env) (ts : List Nat) (before : List (Nat × Nat)) : State :=
  s.addFlight e { kind := fun _ => .settle } ts [] false before s.nextId

def execTlbinv (g : Guard) (f : FY) (s : State) : Out :=
  sysOp g (.tlbinv g f) s (fun _ => false) (fun e ts =>
    if f.prn == 0 && e.pair f.sa % 65536 != 0 then .next (s.takeTrap e { code := 0x24, daddr := e.pair f.sa % 2 ^ 56 })
    else if !s.releasedAll e ts then .next (s.hold e)
    else
      let gone := s.tlb.filter (tlbHit e f)
      let users := s.usersOf gone
      (({ s with tlb := s.tlb.filter (fun t => !tlbHit e f t) }).addSettle e ts users).done e)

/-- The core and workgroup slot a `sttinv` names. -/
def sttCore (e : Env) (f : FY) : Nat := (e.s f.sa).toNat % 1024
def sttSlot (e : Env) (f : FY) : Nat := (e.s f.sb).toNat % 64

/-- A placed workgroup that is not halted holds the slot (spec 14, R339). -/
def State.slotBusy (s : State) (core slot : Nat) : Bool :=
  s.wgs.any (fun w => w.home == core && w.wslot == slot && (match s.gang? w.gang with
    | some g => g.status == .running || g.status == .discarding
    | none => false))

/-- Pages of a slot become free, and read as zeros when touched again. -/
def State.discardPages (s : State) (core slot : Nat) : State :=
  let hit (x : SttEntry) : Bool := x.core == core && x.wslot == slot
  { s with
    mem := (s.stt.filter hit).foldl (fun m x => memPut m (spadKey x.wg (x.page * 1024)) (List.replicate 1024 0)) s.mem
    stt := s.stt.filter (fun x => !hit x) }

def execSttinv (g : Guard) (f : FY) (s : State) : Out :=
  sysOp g (.sttinv g f) s (fun e => 799 < sttCore e f || s.slotBusy (sttCore e f) (sttSlot e f)) (fun e ts =>
    if !s.releasedAll e ts then .next (s.hold e)
    else if f.prn == 1 then ((s.discardPages (sttCore e f) (sttSlot e f)).addSettle e ts []).done e
    else
      let mine := s.stt.filter (fun x => x.core == sttCore e f && x.wslot == sttSlot e f && x.present)
      match mine.foldl (fun (r : Option State) x => r.bind (fun s => s.evict x)) (some s) with
      | none => .next (s.hold e)
      | some s => (s.addSettle e ts []).done e)

/-- The ILLEGAL conditions of `finj` (spec 15, R356). -/
def State.finjIllegal (s : State) (e : Env) (f : FY) : Bool :=
  let x := e.s f.sa
  x &&& 0xFF07 != x || (f.prn == 1 && 16 ≤ s.injects.length)

/-- The location an injection of kind 1 is armed on. -/
def State.finjKey (s : State) (e : Env) (f : FY) : Option Nat :=
  match s.translate e.g.core ((e.s f.sa).toNat / 256 % 256) (e.pair f.sb % 2 ^ 56) with
  | .ok t => if t.tgt == 0 then some (wordOf t.key) else none
  | .error _ => none

/-- The oldest placed gang of a world on a die. -/
def State.oldestGang (s : State) (world d : Nat) : Option Gang :=
  (s.gangs.filter (fun g => g.world == world && g.placedOn d)).foldl (fun (b : Option Gang) g => match b with
    | none => some g
    | some x => if g.order < x.order then some g else b) none

def execFinj (g : Guard) (f : FY) (s : State) : Out :=
  sysOp g (.finj g f) s (fun e => s.finjIllegal e f) (fun e _ =>
    let d := (e.s f.sa).toNat % 8
    let world := (e.s f.sa).toNat / 256 % 256
    let va := e.pair f.sb % 2 ^ 56
    if f.prn == 1 && (s.finjKey e f).isNone then .next (s.takeTrap e { code := 0x23, daddr := va })
    else if va % 4 != 0 then .next (s.takeTrap e { code := 0x24, daddr := va })
    else
      let s := (s.advance e).progress
      match f.prn.toNat, s.finjKey e f with
      | 1, some k => .next { s with injects := s.injects ++ [⟨world, d, k, e.s f.sc⟩] }
      | 1, none => .next s
      | 2, _ => .next (s.addScore d 1 true)
      | 3, _ => .next (if (s.oldestGang world d).isSome then s.gangError d true else s.addScore d 16 true)
      | _, _ => .next (s.ucieFailure d true))

/-- A target word of `halt` (spec 14, R340). -/
def haltWordOk (x : Word) : Bool :=
  match x.toNat / 2 ^ 28 with
  | 0 => x.toNat % 2 ^ 28 == 0
  | 1 => x.toNat % 2 ^ 28 < 256
  | 2 => x.toNat % 2 ^ 28 < 8
  | _ => false

/-- The target is halted, and holds the halt until it is released. -/
def State.haltTarget (s : State) (gang : Nat) (x : Word) : State :=
  let n := x.toNat % 256
  match x.toNat / 2 ^ 28 with
  | 0 => ((s.modGang gang (fun g => { g with held := true })).preempt (fun g => g.id == gang))
  | 1 => ((s.modWorld n (fun w => { w with halted := true })).preempt (fun g => g.world == n))
  | _ =>
    let s := s.modDie n (fun d => { d with halted := true })
    ({ s with gangs := mapIf (fun g => g.placedOn n) (fun g => { g with heldDie := true }) s.gangs }).preempt (fun g => g.die == n)

/-- `halt`: the issuer goes on at the next word when it runs again. -/
def execHalt (g : Guard) (f : FY) (s : State) : Out :=
  sysOp g (.halt g f) s (fun e => !haltWordOk (e.s f.sa)) (fun e ts =>
    if !s.releasedAll e ts then .next (s.hold e) else .next ((s.advance e).haltTarget e.gang.id (e.s f.sa)).progress)

end Sys2Proof.Machine
end

