-- ==== Sys2Proof/Machine/Host.lean ====
section
/-! DEFINITION. What the host, the driver's registers, power and bring-up do: the aperture and the window, TDISP, worlds, the Garrun
registers, the checker's mailbox, thermal events, deep sleep and the starts (spec 07, R173, R191; 09, R229, R237; 14, R335, R379;
15, R359, R360; 18, R370 to R381). -/

namespace Sys2Proof.Machine

/-! Inbound host traffic (spec 07, R191; 18, R381). -/

/-- The global address at an offset of the aperture. -/
def State.aperture (s : State) (world offset : Nat) : Nat :=
  match s.world? world with | some w => (w.apbase.toNat * 2 ^ 32 + offset) % 2 ^ 56 | none => 0

/-- Why a request through the aperture fails: code, address, malformed, and that a page that is not resident is above 64 KiB. -/
structure ApFault where
  code : Nat
  va   : Nat
  mal  : Bool
  big  : Bool
  deriving DecidableEq, Repr

/-- What the aperture meets in one region (spec 18, R381). -/
def State.apCheck (s : State) (world va : Nat) (a : Access) : List ApFault :=
  match s.permit 2000 world 8 va a with
  | (c, t) =>
    let denied : Bool := match t with | some t => 2 ≤ t.tgt | none => false
    c.traps.map (fun x => ⟨x.1, x.2.1, x.2.2, false⟩) ++ (if denied then [⟨0x23, va, false, false⟩] else []) ++
      c.pages.map (fun x => ⟨0x30, x.1, false, decide (16 < x.2)⟩)

/-- The failure with the lowest code. -/
def State.apFault (s : State) (world va n : Nat) (a : Access) : Option ApFault :=
  ((regionsOf va n).flatMap (fun x => s.apCheck world x a)).foldl (fun (b : Option ApFault) x => match b with
    | none => some x
    | some y => if x.code < y.code then some x else b) none

/-- The keys of a range. -/
def State.apKeys (s : State) (world va n : Nat) : List Nat :=
  (List.range n).filterMap (fun i => match s.translate 2000 world ((va + i) % 2 ^ 56) with | .ok t => some t.key | .error _ => none)

/-- The record of a failed request: 0 in IADDR, LANES, CORE and HGRP. -/
def State.apRecord (s : State) (world : Nat) (wr : Bool) (f : ApFault) : State :=
  let r := { FaultRec.none with code := BitVec.ofNat 8 f.code, daddr := BitVec.ofNat 56 f.va, wr, mal := f.mal, lctr := 0xFFFF }
  if f.code == 0x30 then s.recordPage world f.big r f.va else s.pushRecord world r

/-- Regions of a range come into the aperture's TLB. -/
def State.apFill (s : State) (world va n : Nat) : State := (regionsOf va n).foldl (fun s x => s.tlbFill 2000 world x) s

def State.reply (s : State) (r : Reply) : State := { s with iod := { s.iod with replies := s.iod.replies ++ [r] } }

/-- A request for a protected world outside its IDE stream. -/
def State.shut (s : State) (world : Nat) (ide : Bool) : Bool := match s.world? world with | some w => w.prot && !ide | none => true

/-- A request that may be served, or the reply and record it gets instead. -/
def State.apServe (s : State) (world va n : Nat) (ide : Bool) (a : Access) (serve : State → Out) : Out :=
  if s.shut world ide then .next (s.reply (.unsupported world)).progress
  else match s.apFault world va n a with
    | some f =>
      let s := s.apRecord world (a != .read) f
      .next (if a == .write then s else s.reply (.unsupported world)).progress
    | none => match (s.apKeys world va n).find? keyAbsent with
      | some k => .fault (.absentDram k)
      | none => serve (s.apFill world va n)

/-- `HOST_APERTURE_READ`: served once the requester's earlier writes are acknowledged. -/
def execHostApertureRead (world offset bytes : Nat) (ide : Bool) (s : State) : Out :=
  let va := s.aperture world offset
  let keys := s.apKeys world va bytes
  if !s.powered || (s.world? world).isNone || bytes == 0 || 2 ^ 32 < offset + bytes || s.iod.hostWrites.any (fun w => w.world == world) then
    .refused .notEnabled
  else s.apServe world va bytes ide .read (fun s =>
    .next (s.reply (if keys.any s.errs then .unsupported world else .data world (keys.map s.homeByte))).progress)

/-- `HOST_APERTURE_WRITE`: a posted write, held behind the requester's earlier ones unless its ordering is relaxed; one outside the IDE
stream of a protected world is answered with Unsupported Request (spec 07, R191; 18, R381). -/
def execHostApertureWrite (world offset : Nat) (data : List Byte) (relaxed ide : Bool) (s : State) : Out :=
  let va := s.aperture world offset
  let keys := s.apKeys world va data.length
  if !s.powered || (s.world? world).isNone || data.isEmpty || 2 ^ 32 < offset + data.length then .refused .notEnabled
  else s.apServe world va data.length ide .write (fun s =>
    let (id, s) := s.fresh
    let sent : Bool := relaxed || !s.iod.hostWrites.any (fun w => w.world == world)
    let w : HostWrite := { id, world, va, keys := keys.zip data, relaxed, sent, size := data.length }
    event true { s with iod := { s.iod with hostWrites := s.iod.hostWrites ++ [w] } })

/-- The oldest waiting write of a requester is sent. -/
def sendFirst (world : Nat) : List HostWrite → List HostWrite
  | [] => []
  | w :: r => if w.world == world then { w with sent := true } :: r else w :: sendFirst world r

/-- The route of a byte: the base die that is its home, or 8 for the IOD's own SRAM. -/
def routeOf (k : Nat) : Nat := if isDevice k then keyDie k else 8

/-- Bytes of a posted write at their home: refused with PROT outside the world's region, and lost at a home that takes nothing (spec 07,
R191; 14, R322; 18, R381). -/
def State.hostBytes (s : State) (w : HostWrite) (bytes : List (Nat × Byte)) : State :=
  let s1 := bytes.foldl (fun s k => if s.refuses k.1 || s.outside w.world k.1 then s else s.homeWrite k.1 k.2) s
  if bytes.any (fun k => s.outside w.world k.1) then s1.apRecord w.world true ⟨0x23, w.va, false, false⟩ else s1

/-- A route has acknowledged a write: what waits behind the write is sent once every route of it has. -/
def State.routeDone (s : State) (w : HostWrite) (die : Nat) : State :=
  let rest := w.keys.filter (fun k => routeOf k.1 != die)
  let writes := if rest.isEmpty then sendFirst w.world (s.iod.hostWrites.filter (fun x => x.id != w.id))
    else mapIf (fun x => x.id == w.id) (fun x => { x with keys := rest }) s.iod.hostWrites
  { s with iod := { s.iod with hostWrites := writes } }

/-- `IOD_WRITE_ACKNOWLEDGED`: a base die has written its bytes of a write, which are performed at `sys`, behind the stores on their way to
parts of their words; the last route's acknowledgement sends what waited behind it (spec 07, R165, R191). -/
def execIodWriteAcknowledged (write : WriteRoute) (s : State) : Out :=
  match s.iod.hostWrites.find? (fun w => w.id == write.write) with
  | none => .refused .notEnabled
  | some w =>
    let mine := w.keys.filter (fun k => routeOf k.1 == write.die)
    event (s.powered && w.sent && !mine.isEmpty && !mine.any (fun k => s.wordHeld k.1)) ((s.hostBytes w mine).routeDone w write.die)

/-- The place of some bytes of a world's share of the window. -/
def State.windowKey (s : State) (world offset n : Nat) : Option Nat :=
  (s.world? world).bind (fun w =>
    let base := if world == 0 then 0 else w.winbase.toNat * 65536
    let size := if world == 0 then 2 ^ 23 else w.winsize.toNat * 65536
    if size < offset + n || 2 ^ 23 < base + offset + n then none else some (keyWindow + base + offset))

/-- `HOST_WINDOW_ACCESS`: the host's own access to a world's share of the window, coherent with the device's (spec 07, R173). -/
def execHostWindowAccess (world offset bytes : Nat) (data : Option (List Byte)) (s : State) : Out :=
  let n := match data with | some d => d.length | none => bytes
  match s.windowKey world offset n with
  | none => .refused .notEnabled
  | some k => if !s.powered || n == 0 || (data.isSome && (List.range n).any (fun i => s.wordHeld (k + i))) then .refused .notEnabled
    else match data with
      | some d => .next (s.homePut k d).progress
      | none => .next (s.reply (.data world ((List.range n).map (fun i => s.homeByte (k + i))))).progress

/-- What the old word becomes. -/
def HostAtomic.new : HostAtomic → Word → Word
  | .fetchAdd x, o => o + x
  | .swap x, _ => x
  | .cas new old, o => if o == old then new else o

/-- An AtomicOp at the home of its word: the old word is answered, and memory has the new one; an unaligned one, and one whose home takes
nothing, are answered with Unsupported Request (spec 18, R369; assumption 69). -/
def State.hostAtom (s : State) (world k : Nat) (op : HostAtomic) : State :=
  if k % 4 != 0 || s.errs k || s.outside world k then s.reply (.unsupported world)
  else
    let old : Word := BitVec.ofNat 32 (leNat ((List.range 4).map (fun i => s.homeByte (k + i))))
    (s.homePut k (natLe 4 (op.new old).toNat)).reply (.data world (natLe 4 old.toNat))

/-- The device completes an AtomicOp of the host with the checks of a read and a write, behind the requester's earlier posted writes; the
window's is coherent; none overtakes a store on its way to a part of its word (spec 07, R165, R173, R191; 18, R369, R381). -/
def hostAtomicMove (s : State) (world offset : Nat) (window ide : Bool) (op : HostAtomic) : Out :=
  let va := s.aperture world offset
  if !s.powered || (s.world? world).isNone || s.iod.hostWrites.any (fun w => w.world == world) then .next s
  else if window then match s.windowKey world offset 4 with
    | none => .next s
    | some k => .next (if s.wordHeld k then s else s.hostAtom world k op)
  else if 2 ^ 32 < offset + 4 then .next s
  else if offset % 4 != 0 then .next (s.reply (.unsupported world))
  else if (s.apKeys world va 4).any s.wordHeld then .next s
  else s.apServe world va 4 ide .atomic (fun s => .next (match s.apKeys world va 4 with
    | k :: _ => s.hostAtom world k op
    | [] => s))

/-- A configuration request before READY is to be tried again (spec 18, R376); after it the answer holds nothing the spec gives. -/
def configMove (s : State) (fn : Nat) : Out := .next (if s.garrun.ready || s.garrun.stage == 0 then s else s.reply (.retry fn))

/-! TDISP and worlds (spec 14, R312, R332, R379; 18, R373). -/

/-- No launch of a world is queued or placed. -/
def State.noLaunch (s : State) (world : Nat) (w : World) : Bool := s.worldIdle world && w.queues.all (fun q => q.qhead == q.qtail)

/-- `LOCK_INTERFACE`: refused with launches under way or in test mode. -/
def execLockInterface (world : Nat) (s : State) : Out :=
  match s.world? world with
  | none => .refused .notEnabled
  | some w =>
    let ok := w.state == 1 && !w.error && s.noLaunch world w && !s.garrun.test
    event (s.powered && world != 0 && world < 256)
      (if ok then s.modWorld world (fun w => { w with state := 2, prot := true, keys := true }) else s)

/-- `START_INTERFACE`. -/
def execStartInterface (world : Nat) (s : State) : Out :=
  match s.world? world with
  | none => .refused .notEnabled
  | some w =>
    event (s.powered && world != 0 && world < 256)
      (if w.state == 2 && w.prot && !w.error then s.modWorld world (fun w => { w with state := 3 }) else s)

/-- `STOP_INTERFACE`: every instance is cancelled; once none is left, the keys are discarded and the world is unlocked. -/
def execStopInterface (world : Nat) (s : State) : Out :=
  match s.world? world with
  | none => .refused .notEnabled
  | some w =>
    let moves := (w.prot && (w.state == 2 || w.state == 3)) || w.error
    let t :=
      if !moves then s
      else if !s.worldIdle world then s.cancelWorld world
      else ((s.cancelWorld world).cryptoErase world).modWorld world (fun w => { w with state := 1, prot := false, keys := false, error := false })
    event (s.powered && world != 0 && world < 256) t

/-- `WORLD_CREATE`: the virtual function is enabled. -/
def execWorldCreate (world : Nat) (s : State) : Out :=
  event (s.powered && 1 ≤ world && world < 256 && (s.world? world).isNone) { s with worlds := assocSet world World.new s.worlds }

/-- What a destroyed world held goes with it. -/
def State.forgetWorld (s : State) (world : Nat) : State :=
  let t := { s with
    worlds := assocDel world s.worlds
    launches := s.launches.filter (fun l => l.world != world), versions := s.versions.filter (fun v => v.world != world)
    injects := s.injects.filter (fun x => x.world != world)
    checker := { s.checker with
      subs := s.checker.subs.filter (fun r => r.world != world)
      settled := s.checker.settled.filter (fun x => x.1 != world) }
    iod := { s.iod with
      arrivals := s.iod.arrivals.filter (fun a => a.world != world), hostWrites := s.iod.hostWrites.filter (fun w => w.world != world)
      irqs := s.iod.irqs.filter (fun x => x.1 != world), irqPend := s.iod.irqPend.filter (fun x => x.1 != world) } }
  t.dropMemory

/-- `WORLD_DESTROY`: every instance is cancelled; once none is left, the keys are discarded and the world is gone. -/
def execWorldDestroy (world : Nat) (s : State) : Out :=
  let t := if s.worldIdle world then ((s.cancelWorld world).cryptoErase world).forgetWorld world else s.cancelWorld world
  event (s.powered && world != 0 && (s.world? world).isSome) t

/-! Garrun registers (spec 18, R377). -/

/-- `GPOLICY`: the threshold at any time, ALL only before READY; a threshold out of its range drops the write. -/
def execGpolicy (value : BitVec 64) (s : State) : Out :=
  let thresh : BitVec 8 := value.extractLsb' 8 8
  let ok := value &&& 0xFF01 == value && 16 ≤ thresh.toNat
  let s1 := { s with garrun := { s.garrun with thresh, all := if s.garrun.ready then s.garrun.all else value.getLsbD 0 } }
  event (s.postedDone 0) (if !ok then s else if s.powered then s1.retireAll else s1)

/-- `GTEST`: refused while any world is protected. -/
def execGtest (value : BitVec 64) (s : State) : Out :=
  let ok := value.toNat < 2 && s.worlds.all (fun w => !w.2.prot)
  event (s.powered && s.postedDone 0) (if ok then { s with garrun := { s.garrun with test := value == 1 } } else s)

/-- `GHALTREL`: a word of kind 1 or 2 releases the halts of its target. -/
def execGhaltrel (value : BitVec 64) (s : State) : Out :=
  let x := value.toNat
  let t := if x / 2 ^ 28 == 1 && x % 2 ^ 28 < 256 then s.releaseWorld (x % 256)
    else if x / 2 ^ 28 == 2 && x % 2 ^ 28 < 8 then s.releaseDie (x % 8)
    else s
  event (s.powered && s.postedDone 0) t

/-- `GRTDATA`: the routing entry of `grtidx` is replaced in one step. -/
def execGrtdata (value : BitVec 64) (s : State) : Out :=
  event (s.powered && s.postedDone 0) { s with iod := { s.iod with routing := tabSet 0 s.garrun.grtidx.toNat value s.iod.routing } }

/-- A group entry within its fields: members are chips, and this chip's rank is among them (spec 09, R237). -/
def collOk (g : CollGroup) : Bool :=
  !g.valid || (g.world < 256 && g.chips.all (· < 4096) && g.rank < g.chips.length && g.leaves.length == g.chips.length)

/-- `GCGDATA`: the group entry of `gcgidx` is replaced; an entry out of its ranges is dropped. -/
def execGcgdata (value : CollGroup) (s : State) : Out :=
  event (s.powered && s.postedDone 0) (if collOk value then { s with iod := { s.iod with coll := assocSet s.garrun.gcgidx.toNat value s.iod.coll } } else s)

/-- `GPRDATA`: the privileged register of `gprsel`, with the checks of `wrpr`; what `wrpr` would trap on is dropped. A write of `state` in
ERROR is done once the world's instances are cancelled (spec 14, R379; 18, R377). -/
def execGprdata (value : BitVec 64) (s : State) : Out :=
  let n := s.garrun.gprsel
  let t := if 2 ^ 32 ≤ value.toNat || !prnOk n then s
    else match s.writePriv n.toNat value.toNat with
      | .illegal => s
      | .wait t => (t.modWorld (prnWorld n.toNat) (fun w => { w with stateTo := some (BitVec.ofNat 2 value.toNat) })).stateWrites
      | .done t => t
  event (s.powered && s.postedDone 0) t

/-- `GPWRCAP`: taken at the next refill; while the caps are quartered the full value is kept and a quarter applies (assumption 31). -/
def execGpwrcap (die : Nat) (value : BitVec 64) (s : State) : Out :=
  let v : BitVec 12 := value.setWidth 12
  let ok := 20 ≤ value.toNat && value.toNat ≤ 600
  let t := if !ok then s
    else if s.garrun.therm then
      { s with garrun := { s.garrun with caps := listPut 0 s.garrun.caps die v } }.modDie die (fun d => { d with pwrcap := v / 4 })
    else s.modDie die (fun d => { d with pwrcap := v })
  event (s.powered && die < 8 && s.postedDone 0) t

/-- `REGISTER_WRITE`: a register that keeps what is written; a value out of its field is dropped. It comes behind its requester's posted
writes (spec 07, R191; assumption 61). -/
def execRegisterWrite (r : PlainReg) (value : BitVec 64) (s : State) : Out :=
  let v := value.toNat
  let known (w : Nat) : Bool := (s.world? w).isSome && s.postedDone w
  let chip := s.powered && s.postedDone 0
  match r with
  | .grtidx => event chip (if v < 4096 then { s with garrun := { s.garrun with grtidx := value.setWidth 12 } } else s)
  | .gcgidx => event chip (if v < 256 then { s with garrun := { s.garrun with gcgidx := value.setWidth 8 } } else s)
  | .gprsel => event chip (if v < 65536 then { s with garrun := { s.garrun with gprsel := value.setWidth 16 } } else s)
  | .apbase w => event (s.powered && known w)
      (if v < 2 ^ 24 then s.modWorld w (fun x => { x with apbase := value.setWidth 24 }) else s)
  | .msix w n => event (s.powered && known w && n < 36) (s.writeMsix w n value)
  | .acl w p n => event (s.powered && known w && p < 8 && n < 16)
      (if v < 2 ^ 32 then s.modQueue w p (fun q => { q with acl := listPut 0 q.acl n (value.setWidth 32) }) else s)
  | .endpoint n addr => event (chip && n < 4096)
      (let e : Endpoint := ⟨addr.toNat, v % 65536, value.getLsbD 63, 0, 0⟩
       { s with iod := { s.iod with endpoints := assocSet n e s.iod.endpoints } })
  | .grant w => event (chip && (s.world? w).isSome) (if v < 2 then s.modWorld w (fun x => { x with grant := v == 1 }) else s)

/-! The checker's mailbox (spec 18, R378). -/

/-- A command completes: bit [1] tells whether it was refused, and vector 1 of world 0 is raised. -/
def State.mailed (s : State) (cmd : BitVec 8) (refused : Bool) : State :=
  ({ s with garrun := { s.garrun with busy := false, refused, last := cmd } }).raiseIrq 0 1

/-- The world of an argument. -/
def mailWorld (arg : BitVec 56) : Nat := (arg.extractLsb' 48 8).toNat

/-- A command: dropped while the mailbox is busy, refused where it may not be taken. -/
def mailOp (cmd : BitVec 8) (s : State) (ok : Bool) (effect : State) : Out :=
  event (s.powered && s.postedDone 0) (if s.garrun.busy then s else if ok then effect.mailed cmd false else s.mailed cmd true)

/-- A fire-ring setting is taken the first time, and after that only while the world holds no pending version. -/
def State.ringFreeToSet (s : State) (world : Nat) (set : Bool) : Bool := !set || s.versions.all (fun v => v.world != world)

/-- What was held for the ring is written, and versions may fire. -/
def State.ringSet (s : State) (world : Nat) : State := (s.flushFire world).settle []

/-- `FIRE_RING_BASE`. -/
def execFireRingBase (arg : BitVec 56) (s : State) : Out :=
  let w := mailWorld arg
  match s.world? w with
  | none => mailOp 0x01 s false s
  | some x =>
    mailOp 0x01 s (arg.extractLsb' 40 8 == 0 && arg.extractLsb' 0 4 == 0 && s.ringFreeToSet w x.fire.baseSet)
      ((s.modWorld w (fun x => { x with fire := { x.fire with base := arg.extractLsb' 4 36, baseSet := true } })).ringSet w)

/-- `FIRE_RING_SIZE`: the ring is empty, and written from index 0. -/
def execFireRingSize (arg : BitVec 56) (s : State) : Out :=
  let w := mailWorld arg
  let n := arg.toNat % 2 ^ 48
  match s.world? w with
  | none => mailOp 0x02 s false s
  | some x =>
    mailOp 0x02 s (4 ≤ n && n ≤ 16 && s.ringFreeToSet w x.fire.sizeSet)
      ((s.modWorld w (fun x => { x with fire := { x.fire with size := BitVec.ofNat 5 n, sizeSet := true, head := 0, wpos := 0, lapped := false } })).ringSet w)

/-- The driver's head of the ring moves on. -/
def FireRing.setHead (r : FireRing) (head : BitVec 16) : FireRing := { r with head, lapped := r.lapped && head == r.head }

/-- `FIRE_RING_HEAD`: entries are consumed, and held ones follow. -/
def execFireRingHead (arg : BitVec 56) (s : State) : Out :=
  let w := mailWorld arg
  mailOp 0x03 s (s.world? w).isSome ((s.modWorld w (fun x => { x with fire := x.fire.setHead (arg.extractLsb' 0 16) })).ringSet w)

/-- `END_TEST_INJECTIONS`. -/
def execEndTestInjections (arg : BitVec 56) (s : State) : Out :=
  let w := mailWorld arg
  mailOp 0x04 s (s.world? w).isSome { s with injects := s.injects.filter (fun x => x.world != w) }

/-! Thermal events (spec 18, R375). The outlet is in sixteenths of a degree. -/

/-- `THERMAL_THROTTLE`: at 70 °C every power cap is quartered once. -/
def execThermalThrottle (temp : BitVec 16) (s : State) : Out :=
  let s1 := { s with garrun := { s.garrun with temp } }
  let cut := { s1 with
    garrun := { s1.garrun with therm := true, caps := s.dies.map (fun d => d.pwrcap) }
    dies := s.dies.map (fun d => { d with pwrcap := d.pwrcap / 4 }) }
  event (s.powered && 70 * 16 ≤ temp.toNat) (if s.garrun.therm then s1 else cut)

/-- `COOLANT_OUTLET_BELOW_65C`: the caps are restored. -/
def execCoolantOutletBelow65c (temp : BitVec 16) (s : State) : Out :=
  let s1 := { s with garrun := { s.garrun with temp } }
  let back := { s1 with
    garrun := { s1.garrun with therm := false, caps := [] }
    dies := (List.range s.dies.length).map (fun d => { s.die d with pwrcap := listGet (s.die d).pwrcap s.garrun.caps d }) }
  event (s.powered && temp.toNat < 65 * 16) (if s.garrun.therm then back else s1)

/-- An outlet that no thermal event tells of, as `gtemp` shows it (spec 18, R375, R377). -/
def coolantMove (s : State) (temp : BitVec 16) : Out :=
  .next (if s.powered && 65 * 16 ≤ temp.toNat && temp.toNat < 70 * 16 then { s with garrun := { s.garrun with temp } } else s)

/-- Every gang is halted, and none is placed from now on. -/
def State.drainGangs (s : State) : State := { s with checker := { s.checker with draining := true } }.preempt (fun _ => true)

def State.allSaved (s : State) : Bool := s.gangs.all (fun g => g.status == .saved)

/-- The caches and translations of the package are empty, with what was dirty in memory, the host's with the rest (assumption 66). -/
def State.emptyCaches (s : State) : State :=
  { s.flushLines (s.iod.hostLines.map (·.line)) true with agenda := [], cur := none, l1 := [], llcDirty := [], tlb := [], cores := [] }

/-- `THERMAL_SHUTDOWN`: at 80 °C every gang halts; once all are saved, power is removed. -/
def execThermalShutdown (temp : BitVec 16) (s : State) : Out :=
  let s1 := { s with garrun := { s.garrun with temp } }
  if !s.powered || temp.toNat < 80 * 16 then .refused .notEnabled
  else if !s.checker.draining then .next s1.drainGangs.progress
  else event s.allSaved
    { s1.emptyCaches with
      powered := false, garrun := { s1.garrun with ready := false, stage := 0 }
      checker := { s1.checker with marker := true } }

/-! The always-on rail and deep sleep (spec 14, R335). -/

/-- `DEEP_SLEEP_ENTER`: every gang is halted and saved; then the package sleeps. -/
def execDeepSleepEnter (s : State) : Out :=
  if !s.powered then .refused .notEnabled
  else if !s.checker.draining then .next s.drainGangs.progress
  else event s.allSaved { s.emptyCaches with powered := false, checker := { s.checker with asleep := true, sleptAt := s.clock, marker := true } }

/-- `DEEP_SLEEP_WAKE`: while the checker has its keys, every link re-keys before any traffic, and gangs may be restored; the cores have counted no clock of the sleep
(spec 02, R43; 14, R335). -/
def execDeepSleepWake (s : State) : Out :=
  let t := s.rekeyAll
  let awake (d : Die) : Die := { d with resetAt := d.resetAt + (s.clock - s.checker.sleptAt) }
  event (!s.powered && s.checker.asleep && s.checker.keyState)
    { t with
      powered := true, checker := { t.checker with asleep := false, draining := false, marker := false }
      dies := t.dies.map awake }

/-- `AON_RAIL_LOSS`: every key is lost, so that no world's memory reads as it was, protected worlds go to ERROR, and every pending version
is lost (spec 14, R331, R332, R335; 15, R342). -/
def execAonRailLoss (s : State) : Out :=
  let t := (s.worlds.filter (fun w => w.2.prot)).foldl (fun s w => s.worldError w.1) s
  let t := (s.worlds.filter (fun w => !w.2.prot)).foldl (fun s w => s.eraseRegion w.2) t
  event true
    { t with
      versions := []
      checker := { t.checker with subs := [], rerun := [], keyState := false, training := false, admitted := [] }
      iod := { t.iod with links := t.iod.links.map (fun x => { x with peer := none, shown := none }) } }

/-! Starts (spec 15, R359, R360; 18, R376). -/

/-- Stacks that authenticated. -/
def excludedOf (r : BootReport) : List Nat := (List.range 8).filter (fun d => !r.stacksOk.getLsbD d)

/-- A start that stops at a stage. -/
def State.bootStops (s : State) (stage : BitVec 4) (failed : BitVec 8) : State :=
  let t := s.stopAll
  { t with garrun := { t.garrun with stage, ready := false, failed }, checker := { t.checker with asleep := false, marker := false } }

/-- The stage a start stops at, if it does: firmware, self-test, all stacks demanded, command processors. -/
def State.bootStage (s : State) (r : BootReport) : Option (BitVec 4) :=
  if !r.firmwareOk then some 1
  else if !r.selfTestOk then some 2
  else if s.garrun.all && !(excludedOf r).isEmpty then some 5
  else if !r.cpOk || (!r.stacksOk.getLsbD 0 && !r.stacksOk.getLsbD 4) then some 6
  else none

def failedOf (r : BootReport) : BitVec 8 := match excludedOf r with | d :: _ => BitVec.ofNat 8 d | [] => 0xFF

/-- What `gstatus` shows of a start that stops: stacks authenticate at stage 3 (spec 18, R376, R377). -/
def failedAt (stage : BitVec 4) (r : BootReport) : BitVec 8 := if stage.toNat < 3 then 0xFF else failedOf r

/-- The package at READY after a cold start: device memory is scrubbed, and only what lies outside the package, the host's policy and
the checker's own policy are kept. -/
def State.coldReady (s : State) (r : BootReport) : State :=
  let die (d : Nat) : Die :=
    let ok := r.stacksOk.getLsbD d
    { Die.new with live := ok, excluded := !ok, memory := ok, resetAt := s.clock, refilled := s.clock }
  let meas : Measurement := ⟨Config.measured 0, Config.measured 1, Config.measured 2, Config.measured 3, Config.measured 4⟩
  { State.reset with
    clock := s.clock, draws := s.draws, nextId := s.nextId, mem := s.mem.filter (fun c => isHost c.1 || isPeer c.1)
    dies := (List.range 8).map die, iod := { Iod.new with chip := s.iod.chip }
    garrun := { Garrun.new with all := s.garrun.all, thresh := s.garrun.thresh, failed := failedOf r }
    checker := { Checker.new with
      meas, roots := s.checker.roots, minima := s.checker.minima, cpB := !r.stacksOk.getLsbD 0, decayed := s.clock } }

/-- `COLD_START`: the steps of bring-up in order. A start that stops after step 4 has recorded its measurements and exclusions, and has
generated the keys and scrubbed memory (spec 18, R376). -/
def State.cold (s : State) (r : BootReport) : State :=
  match s.bootStage r with
  | some stage => (if stage.toNat < 5 then s else s.coldReady r).bootStops stage (failedAt stage r)
  | none => s.coldReady r

def execColdStart (r : BootReport) (s : State) : Out := .next (s.cold r)

/-- The package at READY after a warm start: memory, worlds, saved gangs, pending versions and the fire rings are kept. -/
def State.warmReady (s : State) : State :=
  let s := s.rekeyAll
  { s with
    powered := true
    garrun := { s.garrun with stage := 7, ready := true, failed := 0xFF }
    dies := s.dies.map (fun d => { d with resetAt := s.clock, refilled := s.clock, credits := 4096, leaves := [] })
    checker := { s.checker with draining := false, marker := false, asleep := false, cpLost := false, pending := none } }

/-- `WARM_START`: a check of the retained state that fails, or a stack in use that does not authenticate, makes it a cold start. -/
def execWarmStart (checks : WarmChecks) (r : BootReport) (s : State) : Out :=
  let c := s.checker
  let kept := checks.training && checks.keys && checks.marker && c.training && c.keyState && c.marker
  let same := s.stacks.all (fun d => r.stacksOk.getLsbD d)
  if s.powered || c.asleep then .refused .notEnabled
  else if !kept || !same then .next (s.cold r)
  else match s.bootStage { r with stacksOk := 0xFF } with
    | some stage => .next (s.bootStops stage (failedAt stage r))
    | none => .next s.warmReady

end Sys2Proof.Machine
end

