-- ==== Sys2Proof/Machine/Scalar.lean ====
section
/-! DEFINITION. Scalar instructions: opcodes 0x18 to 0x1C (spec 05, R120 to R124; 02, R34, R41 to R43). -/

namespace Sys2Proof.Machine

/-- SD takes a function of SA and SB, in every represented home group (spec 02, R34). -/
def srOp (g : Guard) (f : SR) (i : Instr) (s : State) (op : Word → Word → Word) : Out :=
  scalarOp g i s (fun e => s.setS e f.sd (op (e.s f.sa) (e.s f.sb)))

/-- IMM30, sign-extended (spec 03, R64). -/
def imm30 (f : SI) : Word := f.imm.signExtend 32

/-- SD takes a function of SA and the immediate. -/
def siOp (g : Guard) (f : SI) (i : Instr) (s : State) (op : Word → Word → Word) : Out :=
  scalarOp g i s (fun e => s.setS e f.sd (op (e.s f.sa) (imm30 f)))

def execSadd (g : Guard) (f : SR) (s : State) : Out := srOp g f (.sadd g f) s (· + ·)
def execSsub (g : Guard) (f : SR) (s : State) : Out := srOp g f (.ssub g f) s (· - ·)
def execSmul (g : Guard) (f : SR) (s : State) : Out := srOp g f (.smul g f) s (· * ·)
def execSand (g : Guard) (f : SR) (s : State) : Out := srOp g f (.sand g f) s (· &&& ·)
def execSor (g : Guard) (f : SR) (s : State) : Out := srOp g f (.sor g f) s (· ||| ·)
def execSxor (g : Guard) (f : SR) (s : State) : Out := srOp g f (.sxor g f) s (· ^^^ ·)
def execSshl (g : Guard) (f : SR) (s : State) : Out := srOp g f (.sshl g f) s shlW
def execSshr (g : Guard) (f : SR) (s : State) : Out :=
  srOp g f (.sshr g f) s (fun a b => if f.cl.getLsbD 0 then sarW a b else shrW a b)
def execSmov (g : Guard) (f : SR) (s : State) : Out := srOp g f (.smov g f) s (fun a _ => a)

/-- `scmp` writes one truth value in every active thread whose guard holds (spec 05, R121). -/
def scmpOp (g : Guard) (i : Instr) (s : State) (sd : BitVec 9) (truth : Env → Bool) : Out :=
  issue g i s (fun e =>
    (s.modThreads e.w.id (s.lanes e g) (fun t => t.setP (sd.extractLsb' 0 4) (truth e))).done e)

def execScmp (g : Guard) (f : SR) (s : State) : Out :=
  scmpOp g (.scmp g f) s f.sd (fun e => intCond (f.cl.toNat % 8) (tyU f.ty) (e.s f.sa) (e.s f.sb))

def execSaddImm (g : Guard) (f : SI) (s : State) : Out := siOp g f (.saddImm g f) s (· + ·)
def execSsubImm (g : Guard) (f : SI) (s : State) : Out := siOp g f (.ssubImm g f) s (· - ·)
def execSmulImm (g : Guard) (f : SI) (s : State) : Out := siOp g f (.smulImm g f) s (· * ·)
def execSandImm (g : Guard) (f : SI) (s : State) : Out := siOp g f (.sandImm g f) s (· &&& ·)
def execSorImm (g : Guard) (f : SI) (s : State) : Out := siOp g f (.sorImm g f) s (· ||| ·)
def execSxorImm (g : Guard) (f : SI) (s : State) : Out := siOp g f (.sxorImm g f) s (· ^^^ ·)
def execSshlImm (g : Guard) (f : SI) (s : State) : Out := siOp g f (.sshlImm g f) s shlW
def execSshrImm (g : Guard) (f : SI) (s : State) : Out := siOp g f (.sshrImm g f) s shrW

/-- IMM30 of `scmp` holds condition, signedness and a 26-bit immediate (spec 05, R122). -/
def execScmpImm (g : Guard) (f : SI) (s : State) : Out :=
  scmpOp g (.scmpImm g f) s f.sd (fun e =>
    intCond (f.imm.extractLsb' 27 3).toNat (f.imm.getLsbD 26) (e.s f.sa) ((f.imm.extractLsb' 0 26).signExtend 32))

def execSmovK (g : Guard) (f : SK) (s : State) : Out :=
  scalarOp g (.smovK g f) s (fun e => s.setS e f.sd f.imm)

/-- Core clocks since the die's reset, modulo 2^32 (spec 02, R43). -/
def State.cyc (s : State) (core : Nat) : Nat := (s.clock - (s.die (Config.dieOfCore core)).resetAt) % 2 ^ 32

/-- The value of a special register for a thread (spec 02, R41). -/
def State.special (s : State) (e : Env) (tid sel : Nat) : Word :=
  BitVec.ofNat 32 (match sel with
    | 0 => tid
    | 1 => laneOf tid
    | 2 => hgrpOf tid
    | 3 => e.w.x
    | 4 => e.w.y
    | 5 => e.w.z
    | 6 => e.gang.index
    | 7 => e.g.core
    | 8 => e.g.core / 4
    | 9 => Config.dieOfCore e.g.core
    | 10 => s.iod.chip.toNat
    | 11 => e.gang.world
    | _ => s.cyc e.g.core)

/-- `rdsr` to a scalar: each represented home group takes what its own threads would read (spec 02, R41). -/
def execRdsrScalar (g : Guard) (f : SR) (s : State) : Out :=
  scalarOp g (.rdsrScalar g f) s (fun e =>
    e.g.hgrps.foldl (fun s h => s.modWg e.w.id (fun w => w.setS h f.sd (s.special e (h * 32) f.sa.toNat))) s)

def execRdsrVector (g : Guard) (f : SR) (s : State) : Out :=
  issue g (.rdsrVector g f) s (fun e =>
    (s.modEach e.w.id (s.lanes e g) (fun t x => x.setV (f.sd.extractLsb' 0 8) (s.special e t f.sa.toNat))).done e)

/-- The address `sld` reads (spec 05, R124). -/
def State.sldVa (s : State) (e : Env) (f : SI) : Nat :=
  (((s.iaddr e).toNat + (e.s f.sa).toNat + f.imm.toInt : Int) % 2 ^ 56).toNat

/-- `sld`: a word of the kernel's extent. A page that is not resident parks every active thread (spec 05, R124). DESIGN CHOICE (assumption
70): where the word's home answers an error the `sld` itself traps POISON; R124 names no such trap, and R193 gives a load's at the
instruction that needs its result. -/
def execSld (g : Guard) (f : SI) (s : State) : Out :=
  groupOp g (.sld g f) s (fun e _ =>
    let va := s.sldVa e f
    let out := va < e.l.code || e.l.code + 64 * e.l.ksize ≤ va
    if out then .next (s.takeTrap e { code := 0x23, daddr := va })
    else match s.permit e.g.core e.gang.world (Config.dieOfCore e.g.core) va .read with
    | (c, t) =>
      let c := if va % 4 != 0 then c.and (.trap 0x24 va) else c
      match worst [(0, c)], c.absent, t with
      | some (code, va, mal), _, _ => .next (s.takeTrap e { code, daddr := va, mal })
      | none, some k, _ => .fault (.absentDram k)
      | none, none, none =>
        let r := s.record e 0x30 va e.g.members
        .next ((s.park e e.g.members (.pages (c.pages.map (·.1)))).recordPages e.gang.world r c.pages).progress
      | none, none, some t =>
        if s.errs t.key then .next (s.takeTrap e { code := 0x25, daddr := va })
        else if s.uncrossed t.key then .next (s.hold e)
        else (((s.noteFor e (s.lanes e g) t.key (pteGreen t.leaf.pte)).tlbFill e.g.core e.gang.world va).setS e f.sd
          (BitVec.ofNat 32 (s.loadNat e.l e.g.core t.key false (pteGreen t.leaf.pte) 4))).done e)

end Sys2Proof.Machine
end

