-- ==== Sys2Proof/Machine/Dispatch.lean ====
section
/-! DEFINITION. One arm for each constructor of `Instr`: the call of its meaning. -/

namespace Sys2Proof.Machine

def exec (i : Instr) (s : State) : Host.Outcome State Fault Refusal :=
  match i with
  | .add g f => Sys2Proof.Machine.execAdd g f s
  | .sub g f => Sys2Proof.Machine.execSub g f s
  | .mul g f => Sys2Proof.Machine.execMul g f s
  | .mulhi g f => Sys2Proof.Machine.execMulhi g f s
  | .mad g f => Sys2Proof.Machine.execMad g f s
  | .min g f => Sys2Proof.Machine.execMin g f s
  | .max g f => Sys2Proof.Machine.execMax g f s
  | .abs g f => Sys2Proof.Machine.execAbs g f s
  | .neg g f => Sys2Proof.Machine.execNeg g f s
  | .addc g f => Sys2Proof.Machine.execAddc g f s
  | .subb g f => Sys2Proof.Machine.execSubb g f s
  | .lea g f => Sys2Proof.Machine.execLea g f s
  | .and g f => Sys2Proof.Machine.execAnd g f s
  | .or g f => Sys2Proof.Machine.execOr g f s
  | .xor g f => Sys2Proof.Machine.execXor g f s
  | .not g f => Sys2Proof.Machine.execNot g f s
  | .shl g f => Sys2Proof.Machine.execShl g f s
  | .shr g f => Sys2Proof.Machine.execShr g f s
  | .sar g f => Sys2Proof.Machine.execSar g f s
  | .rot g f => Sys2Proof.Machine.execRot g f s
  | .popc g f => Sys2Proof.Machine.execPopc g f s
  | .clz g f => Sys2Proof.Machine.execClz g f s
  | .ctz g f => Sys2Proof.Machine.execCtz g f s
  | .brev g f => Sys2Proof.Machine.execBrev g f s
  | .bfe g f => Sys2Proof.Machine.execBfe g f s
  | .bfi g f => Sys2Proof.Machine.execBfi g f s
  | .sel g f => Sys2Proof.Machine.execSel g f s
  | .cmp g f => Sys2Proof.Machine.execCmp g f s
  | .addImm g f => Sys2Proof.Machine.execAddImm g f s
  | .subImm g f => Sys2Proof.Machine.execSubImm g f s
  | .mulImm g f => Sys2Proof.Machine.execMulImm g f s
  | .minImm g f u => Sys2Proof.Machine.execMinImm g f u s
  | .maxImm g f u => Sys2Proof.Machine.execMaxImm g f u s
  | .andImm g f => Sys2Proof.Machine.execAndImm g f s
  | .orImm g f => Sys2Proof.Machine.execOrImm g f s
  | .xorImm g f => Sys2Proof.Machine.execXorImm g f s
  | .shlImm g f => Sys2Proof.Machine.execShlImm g f s
  | .shrImm g f => Sys2Proof.Machine.execShrImm g f s
  | .sarImm g f => Sys2Proof.Machine.execSarImm g f s
  | .rotImm g f => Sys2Proof.Machine.execRotImm g f s
  | .cmpImm g f cond u => Sys2Proof.Machine.execCmpImm g f cond u s
  | .mov g f => Sys2Proof.Machine.execMov g f s
  | .movi g f => Sys2Proof.Machine.execMovi g f s
  | .movs g f => Sys2Proof.Machine.execMovs g f s
  | .fadd g f => Sys2Proof.Machine.execFadd g f s
  | .fsub g f => Sys2Proof.Machine.execFsub g f s
  | .fmul g f => Sys2Proof.Machine.execFmul g f s
  | .fma g f => Sys2Proof.Machine.execFma g f s
  | .fmin g f => Sys2Proof.Machine.execFmin g f s
  | .fmax g f => Sys2Proof.Machine.execFmax g f s
  | .fcmp g f => Sys2Proof.Machine.execFcmp g f s
  | .fclass g f => Sys2Proof.Machine.execFclass g f s
  | .frnd g f => Sys2Proof.Machine.execFrnd g f s
  | .frcp g f => Sys2Proof.Machine.execFrcp g f s
  | .frsq g f => Sys2Proof.Machine.execFrsq g f s
  | .fsqrt g f => Sys2Proof.Machine.execFsqrt g f s
  | .fex2 g f => Sys2Proof.Machine.execFex2 g f s
  | .flg2 g f => Sys2Proof.Machine.execFlg2 g f s
  | .fsin g f => Sys2Proof.Machine.execFsin g f s
  | .fcos g f => Sys2Proof.Machine.execFcos g f s
  | .faddImm g f => Sys2Proof.Machine.execFaddImm g f s
  | .fsubImm g f => Sys2Proof.Machine.execFsubImm g f s
  | .fmulImm g f => Sys2Proof.Machine.execFmulImm g f s
  | .fminImm g f => Sys2Proof.Machine.execFminImm g f s
  | .fmaxImm g f => Sys2Proof.Machine.execFmaxImm g f s
  | .cvt g f => Sys2Proof.Machine.execCvt g f s
  | .pack g f => Sys2Proof.Machine.execPack g f s
  | .unpack g f => Sys2Proof.Machine.execUnpack g f s
  | .scl g f => Sys2Proof.Machine.execScl g f s
  | .shflIdx g f => Sys2Proof.Machine.execShflIdx g f s
  | .shflUp g f => Sys2Proof.Machine.execShflUp g f s
  | .shflDown g f => Sys2Proof.Machine.execShflDown g f s
  | .shflXor g f => Sys2Proof.Machine.execShflXor g f s
  | .voteAll g f => Sys2Proof.Machine.execVoteAll g f s
  | .voteAny g f => Sys2Proof.Machine.execVoteAny g f s
  | .voteBallot g f => Sys2Proof.Machine.execVoteBallot g f s
  | .matchAny g f => Sys2Proof.Machine.execMatchAny g f s
  | .matchAll g f => Sys2Proof.Machine.execMatchAll g f s
  | .bcast g f => Sys2Proof.Machine.execBcast g f s
  | .gscan g f => Sys2Proof.Machine.execGscan g f s
  | .minidx g f => Sys2Proof.Machine.execMinidx g f s
  | .maxidx g f => Sys2Proof.Machine.execMaxidx g f s
  | .redux g f op => Sys2Proof.Machine.execRedux g f op s
  | .sadd g f => Sys2Proof.Machine.execSadd g f s
  | .ssub g f => Sys2Proof.Machine.execSsub g f s
  | .smul g f => Sys2Proof.Machine.execSmul g f s
  | .sand g f => Sys2Proof.Machine.execSand g f s
  | .sor g f => Sys2Proof.Machine.execSor g f s
  | .sxor g f => Sys2Proof.Machine.execSxor g f s
  | .sshl g f => Sys2Proof.Machine.execSshl g f s
  | .sshr g f => Sys2Proof.Machine.execSshr g f s
  | .smov g f => Sys2Proof.Machine.execSmov g f s
  | .scmp g f => Sys2Proof.Machine.execScmp g f s
  | .saddImm g f => Sys2Proof.Machine.execSaddImm g f s
  | .ssubImm g f => Sys2Proof.Machine.execSsubImm g f s
  | .smulImm g f => Sys2Proof.Machine.execSmulImm g f s
  | .sandImm g f => Sys2Proof.Machine.execSandImm g f s
  | .sorImm g f => Sys2Proof.Machine.execSorImm g f s
  | .sxorImm g f => Sys2Proof.Machine.execSxorImm g f s
  | .sshlImm g f => Sys2Proof.Machine.execSshlImm g f s
  | .sshrImm g f => Sys2Proof.Machine.execSshrImm g f s
  | .scmpImm g f => Sys2Proof.Machine.execScmpImm g f s
  | .smovK g f => Sys2Proof.Machine.execSmovK g f s
  | .rdsrScalar g f => Sys2Proof.Machine.execRdsrScalar g f s
  | .rdsrVector g f => Sys2Proof.Machine.execRdsrVector g f s
  | .sld g f => Sys2Proof.Machine.execSld g f s
  | .ld g f => Sys2Proof.Machine.execLd g f s
  | .ldp g f => Sys2Proof.Machine.execLdp g f s
  | .lds g f => Sys2Proof.Machine.execLds g f s
  | .ldfrag g f => Sys2Proof.Machine.execLdfrag g f s
  | .st g f => Sys2Proof.Machine.execSt g f s
  | .sts g f => Sys2Proof.Machine.execSts g f s
  | .atom g f op => Sys2Proof.Machine.execAtom g f op s
  | .atoms g f op => Sys2Proof.Machine.execAtoms g f op s
  | .pref g f => Sys2Proof.Machine.execPref g f s
  | .pgreq g f => Sys2Proof.Machine.execPgreq g f s
  | .hflush g f => Sys2Proof.Machine.execHflush g f s
  | .hinv g f => Sys2Proof.Machine.execHinv g f s
  | .cwb g f => Sys2Proof.Machine.execCwb g f s
  | .fence g f => Sys2Proof.Machine.execFence g f s
  | .cpy g f => Sys2Proof.Machine.execCpy g f s
  | .cpyLw g f => Sys2Proof.Machine.execCpyLw g f s
  | .cpyRing g f => Sys2Proof.Machine.execCpyRing g f s
  | .cpyg g f => Sys2Proof.Machine.execCpyg g f s
  | .cpyb g f => Sys2Proof.Machine.execCpyb g f s
  | .bulk g f => Sys2Proof.Machine.execBulk g f s
  | .stwait g f => Sys2Proof.Machine.execStwait g f s
  | .strel g f => Sys2Proof.Machine.execStrel g f s
  | .hand g f => Sys2Proof.Machine.execHand g f s
  | .take g f => Sys2Proof.Machine.execTake g f s
  | .send g f => Sys2Proof.Machine.execSend g f s
  | .post g f => Sys2Proof.Machine.execPost g f s
  | .rprobe g f => Sys2Proof.Machine.execRprobe g f s
  | .rwait g f => Sys2Proof.Machine.execRwait g f s
  | .rcancel g f => Sys2Proof.Machine.execRcancel g f s
  | .acset g f => Sys2Proof.Machine.execAcset g f s
  | .acwait g f => Sys2Proof.Machine.execAcwait g f s
  | .mma g f => Sys2Proof.Machine.execMma g f s
  | .mmac g f => Sys2Proof.Machine.execMmac g f s
  | .mproj g f => Sys2Proof.Machine.execMproj g f s
  | .accz g f => Sys2Proof.Machine.execAccz g f s
  | .cvset g f => Sys2Proof.Machine.execCvset g f s
  | .accld g f => Sys2Proof.Machine.execAccld g f s
  | .accst g f => Sys2Proof.Machine.execAccst g f s
  | .witb g f => Sys2Proof.Machine.execWitb g f s
  | .witp g f => Sys2Proof.Machine.execWitp g f s
  | .wite g f => Sys2Proof.Machine.execWite g f s
  | .gver g f => Sys2Proof.Machine.execGver g f s
  | .br g f => Sys2Proof.Machine.execBr g f s
  | .brc g f => Sys2Proof.Machine.execBrc g f s
  | .call g f => Sys2Proof.Machine.execCall g f s
  | .ret g f => Sys2Proof.Machine.execRet g f s
  | .reform g f => Sys2Proof.Machine.execReform g f s
  | .exit g f => Sys2Proof.Machine.execExit g f s
  | .yield g f => Sys2Proof.Machine.execYield g f s
  | .nop g f => Sys2Proof.Machine.execNop g f s
  | .trap g f => Sys2Proof.Machine.execTrap g f s
  | .wait g f => Sys2Proof.Machine.execWait g f s
  | .bar g f => Sys2Proof.Machine.execBar g f s
  | .barx g f => Sys2Proof.Machine.execBarx g f s
  | .launch g f => Sys2Proof.Machine.execLaunch g f s
  | .cancel g f => Sys2Proof.Machine.execCancel g f s
  | .hcwait g f => Sys2Proof.Machine.execHcwait g f s
  | .rdpr g f => Sys2Proof.Machine.execRdpr g f s
  | .wrpr g f => Sys2Proof.Machine.execWrpr g f s
  | .tlbinv g f => Sys2Proof.Machine.execTlbinv g f s
  | .sttinv g f => Sys2Proof.Machine.execSttinv g f s
  | .finj g f => Sys2Proof.Machine.execFinj g f s
  | .halt g f => Sys2Proof.Machine.execHalt g f s
  | .loadReturn fl elem => Sys2Proof.Machine.execLoadReturn fl elem s
  | .storePerformed fl home elem => Sys2Proof.Machine.execStorePerformed fl home elem s
  | .atomicReply fl => Sys2Proof.Machine.execAtomicReply fl s
  | .poisonedReply r => Sys2Proof.Machine.execPoisonedReply r s
  | .parkedThreadRefile wg tid => Sys2Proof.Machine.execParkedThreadRefile wg tid s
  | .binDraw bin => Sys2Proof.Machine.execBinDraw bin s
  | .binAged bin => Sys2Proof.Machine.execBinAged bin s
  | .groupDissolve core part => Sys2Proof.Machine.execGroupDissolve core part s
  | .matrixStepPerformed op => Sys2Proof.Machine.execMatrixStepPerformed op s
  | .tileTransferPerformed op => Sys2Proof.Machine.execTileTransferPerformed op s
  | .sourceRangeReleased op => Sys2Proof.Machine.execSourceRangeReleased op s
  | .copyComplete op => Sys2Proof.Machine.execCopyComplete op s
  | .ringSequenceLanded op => Sys2Proof.Machine.execRingSequenceLanded op s
  | .enginePageResident op => Sys2Proof.Machine.execEnginePageResident op s
  | .engineStop op => Sys2Proof.Machine.execEngineStop op s
  | .leaveGrant die => Sys2Proof.Machine.execLeaveGrant die s
  | .powerCreditRefill die => Sys2Proof.Machine.execPowerCreditRefill die s
  | .lineStalenessDrop line => Sys2Proof.Machine.execLineStalenessDrop line s
  | .bulkLineArrival line => Sys2Proof.Machine.execBulkLineArrival line s
  | .bulkComplete op => Sys2Proof.Machine.execBulkComplete op s
  | .reductionCombine group pos parts => Sys2Proof.Machine.execReductionCombine group pos parts s
  | .fabricPacketArrival p => Sys2Proof.Machine.execFabricPacketArrival p s
  | .writeMerge pos => Sys2Proof.Machine.execWriteMerge pos s
  | .flitReplay link => Sys2Proof.Machine.execFlitReplay link s
  | .linkTakenDown link => Sys2Proof.Machine.execLinkTakenDown link s
  | .tagFailure edge => Sys2Proof.Machine.execTagFailure edge s
  | .linkRekey link => Sys2Proof.Machine.execLinkRekey link s
  | .peerAdmission link ev => Sys2Proof.Machine.execPeerAdmission link ev s
  | .messageHeaderArrival m => Sys2Proof.Machine.execMessageHeaderArrival m s
  | .messageResend op => Sys2Proof.Machine.execMessageResend op s
  | .receiveLandingComplete world rcv => Sys2Proof.Machine.execReceiveLandingComplete world rcv s
  | .landingAborted world rcv landed => Sys2Proof.Machine.execLandingAborted world rcv landed s
  | .sendComplete op refused => Sys2Proof.Machine.execSendComplete op refused s
  | .ethFrameArrival f => Sys2Proof.Machine.execEthFrameArrival f s
  | .ethRetransmit op => Sys2Proof.Machine.execEthRetransmit op s
  | .qtail world prio value => Sys2Proof.Machine.execQtail world prio value s
  | .queueConfigWrite world prio size value => Sys2Proof.Machine.execQueueConfigWrite world prio size value s
  | .peerDoorbell world prio srcChip srcWorld value => Sys2Proof.Machine.execPeerDoorbell world prio srcChip srcWorld value s
  | .launchAccept world prio => Sys2Proof.Machine.execLaunchAccept world prio s
  | .gangPlacement launch die => Sys2Proof.Machine.execGangPlacement launch die s
  | .workgroupEnd wg => Sys2Proof.Machine.execWorkgroupEnd wg s
  | .gangEnd gang => Sys2Proof.Machine.execGangEnd gang s
  | .preemptRequest t => Sys2Proof.Machine.execPreemptRequest t s
  | .copyRestartTimeout op => Sys2Proof.Machine.execCopyRestartTimeout op s
  | .contextSaveComplete gang => Sys2Proof.Machine.execContextSaveComplete gang s
  | .gangResume gang cluster => Sys2Proof.Machine.execGangResume gang cluster s
  | .trapResume gang => Sys2Proof.Machine.execTrapResume gang s
  | .pageInComplete wg page => Sys2Proof.Machine.execPageInComplete wg page s
  | .fqclose world index => Sys2Proof.Machine.execFqclose world index s
  | .fqhead world value => Sys2Proof.Machine.execFqhead world value s
  | .iodWriteAcknowledged write => Sys2Proof.Machine.execIodWriteAcknowledged write s
  | .hostApertureRead world offset bytes ide => Sys2Proof.Machine.execHostApertureRead world offset bytes ide s
  | .hostApertureWrite world offset data relaxed ide => Sys2Proof.Machine.execHostApertureWrite world offset data relaxed ide s
  | .hostWindowAccess world offset bytes data => Sys2Proof.Machine.execHostWindowAccess world offset bytes data s
  | .checkerEventReport die err => Sys2Proof.Machine.execCheckerEventReport die err s
  | .scoreDecay => Sys2Proof.Machine.execScoreDecay s
  | .witnessTestResult world version => Sys2Proof.Machine.execWitnessTestResult world version s
  | .shadowRunComplete launch => Sys2Proof.Machine.execShadowRunComplete launch s
  | .lockInterface world => Sys2Proof.Machine.execLockInterface world s
  | .startInterface world => Sys2Proof.Machine.execStartInterface world s
  | .stopInterface world => Sys2Proof.Machine.execStopInterface world s
  | .spdmMeasurementRequest => Sys2Proof.Machine.execSpdmMeasurementRequest s
  | .firmwareActivationSwitch values => Sys2Proof.Machine.execFirmwareActivationSwitch values s
  | .worldCreate world => Sys2Proof.Machine.execWorldCreate world s
  | .worldDestroy world => Sys2Proof.Machine.execWorldDestroy world s
  | .gpolicy value => Sys2Proof.Machine.execGpolicy value s
  | .gtest value => Sys2Proof.Machine.execGtest value s
  | .ghaltrel value => Sys2Proof.Machine.execGhaltrel value s
  | .grtdata value => Sys2Proof.Machine.execGrtdata value s
  | .gcgdata value => Sys2Proof.Machine.execGcgdata value s
  | .gprdata value => Sys2Proof.Machine.execGprdata value s
  | .gpwrcap die value => Sys2Proof.Machine.execGpwrcap die value s
  | .notifyWrite world n value => Sys2Proof.Machine.execNotifyWrite world n value s
  | .registerWrite r value => Sys2Proof.Machine.execRegisterWrite r value s
  | .fireRingBase arg => Sys2Proof.Machine.execFireRingBase arg s
  | .fireRingSize arg => Sys2Proof.Machine.execFireRingSize arg s
  | .fireRingHead arg => Sys2Proof.Machine.execFireRingHead arg s
  | .endTestInjections arg => Sys2Proof.Machine.execEndTestInjections arg s
  | .thermalThrottle temp => Sys2Proof.Machine.execThermalThrottle temp s
  | .thermalShutdown temp => Sys2Proof.Machine.execThermalShutdown temp s
  | .aonRailLoss => Sys2Proof.Machine.execAonRailLoss s
  | .deepSleepEnter => Sys2Proof.Machine.execDeepSleepEnter s
  | .deepSleepWake => Sys2Proof.Machine.execDeepSleepWake s
  | .coldStart r => Sys2Proof.Machine.execColdStart r s
  | .warmStart checks r => Sys2Proof.Machine.execWarmStart checks r s
  | .warmReset die => Sys2Proof.Machine.execWarmReset die s
  | .linkSplitDecision parts => Sys2Proof.Machine.execLinkSplitDecision parts s
  | .unassignedEncoding w => Sys2Proof.Machine.execUnassignedEncoding w s
  | .driverCancel launch => Sys2Proof.Machine.execDriverCancel launch s
  | .completionCounterWrite world ctr value => Sys2Proof.Machine.execCompletionCounterWrite world ctr value s
  | .coolantOutletBelow65c temp => Sys2Proof.Machine.execCoolantOutletBelow65c temp s

end Sys2Proof.Machine
end

