-- ==== Sys2Proof/Machine/Run.lean ====
section
/-! DEFINITION. How one agent of the package moves: a group issues, an event fires, an engine moves a part. -/

namespace Sys2Proof.Machine

/-- Issues a group: it enters a block, or its instruction is executed. -/
def issueStep (s : State) (g : Group) : Out :=
  let s := s.issuing g
  match s.issuer with
  | none => .refused .noGroup
  | some e => match s.issueOf e with
    | .enter => Out.endIssue (s.blockEntry e)
    | .word i => Out.endIssue (exec i s)
    | .stop o => Out.endIssue o

/-- A byte of the host's or another chip's own memory. -/
def foreign (k : Nat) : Bool := k < keySpad && !isDevice k

/-- One move of an agent. A write from outside waits for the stores on their way to parts of its words (spec 07, R165). -/
def move (s : State) : Move → Out
  | .event i => exec i { s with cur := none }
  | .issue core part => match s.choose core part with
    | some g => issueStep s g
    | none => .next s
  | .engine op rskip reads wskip writes => engineMove s op rskip reads wskip writes
  | .tick _ => .next s.progress
  | .outside key data => .next (if (List.range data.length).all (fun i => foreign (key + i) && !s.wordHeld (key + i)) then s.outsidePut key data else s)
  | .receive link item => receiveMove s link item
  | .home pos => homeMove s pos
  | .answer pos => answerMove s pos
  | .land world rcv bytes => landMove s world rcv bytes
  | .flits edge sent acked got => flitsMove s edge sent acked got
  | .reissue flight => reissueMove s flight
  | .saveArea gang image => saveAreaMove s gang image
  | .policy roots minima => policyMove s roots minima
  | .coolant temp => coolantMove s temp
  | .config fn => configMove s fn
  | .hostAtomic world offset window ide op => hostAtomicMove s world offset window ide op

/-- The clocks before a move: one, what an idle stretch says, or none in a scan. -/
def State.clocks (s : State) : Move → Nat
  | .tick n => n
  | .issue core part => s.issueClocks core part
  | _ => 1

/-- One step: the next move of the agenda, or the default one, with the time it takes. -/
def stepOnce (s : State) : Out :=
  let m := s.nextMove
  move (s.tick (s.clocks m.1) m.2) m.1

/-- The bench with an instruction's word between two headers. -/
def State.benchWord (s : State) (w : Nat) : State := s.bench [benchHeader, w, benchHeader]

end Sys2Proof.Machine
end

