-- ==== Sys2Proof/Machine/Step.lean ====
section
/-! DEFINITION. One step of the package, and the state in which the next step runs a given word. -/

namespace Sys2Proof.Machine

/-- One step: one agent moves. -/
def step (s : State) : Host.Outcome State Fault Refusal := stepOnce s

/-- The state in which the next step executes an instruction of `nbits` bits: the bench with that word after a header. -/
def State.withFetchWord (s : State) (_nbits w : Nat) : State := s.benchWord w

end Sys2Proof.Machine
end

