-- ==== Sys2Proof/Safety.lean ====
section
/-! DEFINITION. The terms claims are stated in: when an instruction executes normally, what it may change, and the
invariants a step keeps. -/

namespace Sys2Proof.Machine

/-- The instruction meets none of the conditions that trap or hold it before it reads an operand: the group is issuing, the
word is legal, a system instruction is privileged, its registers are in range, a header follows at the block's end, no
reply it waits for is poisoned, and no pending write or full counter holds it (spec 02, R40; 03, R57, R68, R70, R78;
08, R193; 14, R314). -/
structure Issuable (s : State) (e : Env) (g : Guard) (i : Instr) : Prop where
  issuer : s.issuer = some e
  legal : i.legal = true
  privileged : instrSystem i = true → s.privileged e = true
  test : instrTest i = true → s.garrun.test = true
  inRange : ∀ o ∈ i.opnds (instrFrags e.l i).1 (instrFrags e.l i).2, o.inRange e.l.vregs e.l.acc = true
  header : s.fallBad e i = none
  clean : s.poisonHit e (i.vregs (instrFrags e.l i).1 (instrFrags e.l i).2) i.preds = none
  free : s.scoreHold e g i (i.vregs (instrFrags e.l i).1 (instrFrags e.l i).2) i.preds = false

/-- The guard holds in a thread (spec 01, R20). -/
def Thread.guarded (x : Thread) (g : Guard) : Bool := guardTruth g.neg (x.p g.p)

/-- Some active thread's guard holds. -/
abbrev State.someLane (s : State) (e : Env) (g : Guard) : Prop := s.lanes e g ≠ []

/-- Every thread of the group becomes what `f` says, and every other thread is as before. -/
def ThreadsBecome (s t : State) (e : Env) (f : Nat → Thread → Thread) : Prop :=
  (∀ tid ∈ e.g.members, t.thread e.w.id tid = f tid (s.thread e.w.id tid)) ∧
  (∀ wg tid, (∀ u ∈ e.g.members, threadKey wg tid ≠ threadKey e.w.id u) → t.thread wg tid = s.thread wg tid)

/-- The only records that differ are those of threads, the marks of held groups, and the count of draws: memory, scalar
registers, special registers, accumulators and every record of the package are as before. -/
def OnlyThreads (s t : State) : Prop :=
  ∃ threads draws, t = { s with threads, draws, groups := s.groups.map (fun g => { g with held := false }) }

/-- The same, but for the marks of groups too: the group itself is no longer drawn. -/
def OnlyThreadsAndGroups (s t : State) : Prop := ∃ threads groups, t = { s with threads, groups }

/-- Every byte reads as before, at its home and in memory. -/
def SameMemory (s t : State) : Prop := (∀ k, memGet t.mem k = memGet s.mem k) ∧ ∀ k, t.homeByte k = s.homeByte k

/-- Every byte reads as before but those of host memory where a slice of the LLC holds a line of it: a slice that leaves service writes
back what it holds (spec 15, R344, R357). -/
def SameButHost (s t : State) : Prop :=
  (∀ k, isHost k = false → memGet t.mem k = memGet s.mem k ∧ t.homeByte k = s.homeByte k) ∧ (s.iod.hostLines = [] → SameMemory s t)

/-- The memory keeps its canonical form. -/
def State.memOk (s : State) : Bool := Memory.wf s.mem

/-- The outcome is a next state that meets a condition. -/
def Out.Leads (o : Out) (p : State → Prop) : Prop := ∃ t, o = .next t ∧ p t

/-- A register-only instruction completes wherever it may issue: an active thread whose guard holds becomes `R` of itself
and moves on, the other active threads move on, and nothing else changes. -/
def VecCompletes (i : Instr) (g : Guard) (R : Thread → Thread) : Prop :=
  ∀ s e, Issuable s e g i → Out.Leads (exec i s) (fun t => OnlyThreads s t ∧
    ThreadsBecome s t e (fun _ x => if x.guarded g then (R x).next else x.next))

/-- The same for an instruction that may round stochastically: each lane has a draw, and nothing constrains which. -/
def RndCompletes (i : Instr) (g : Guard) (R : BitVec 16 → Thread → Thread) : Prop :=
  ∀ s e, Issuable s e g i → Out.Leads (exec i s) (fun t => OnlyThreads s t ∧
    ∃ draw : Nat → BitVec 16, ThreadsBecome s t e (fun n x => if x.guarded g then (R (draw n) x).next else x.next))

/-- The same for a conversion, where the slot it names serves it. -/
def ConvCompletes (i : Instr) (g : Guard) (f : V3) (l6 : Bool) (R : Rnd → Bool → BitVec 16 → Thread → Thread) : Prop :=
  ∀ s e m, Issuable s e g i → convMode e.l f l6 = some m → Out.Leads (exec i s) (fun t => OnlyThreads s t ∧
    ∃ draw : Nat → BitVec 16, ThreadsBecome s t e (fun n x => if x.guarded g then (R m.1 m.2 (draw n) x).next else x.next))

/-- The same for a conversion that rounds twice in each lane: each rounding has its own draw. -/
def ConvTwiceCompletes (i : Instr) (g : Guard) (f : V3) (l6 : Bool) (R : Rnd → Bool → BitVec 16 → BitVec 16 → Thread → Thread) : Prop :=
  ∀ s e m, Issuable s e g i → convMode e.l f l6 = some m → Out.Leads (exec i s) (fun t => OnlyThreads s t ∧
    ∃ first second : Nat → BitVec 16, ThreadsBecome s t e (fun n x =>
      if x.guarded g then (R m.1 m.2 (first n) (second n) x).next else x.next))

/-- A cross-lane instruction completes in a group drawn for it: each receiving lane takes what the contributing lanes give. -/
def CrossCompletes (i : Instr) (g : Guard) (f : V3S) (R : Lanes → Nat → Thread → Thread) : Prop :=
  ∀ s e, Issuable s e g i → e.g.drawn = true → Out.Leads (exec i s) (fun t => OnlyThreadsAndGroups s t ∧
    ThreadsBecome s t e (fun n x => if x.guarded g then (R (s.lanesOf e g f) (laneOf n) x).next else x.next))

/-- A scalar instruction completes: with an active lane, the register takes the value in every represented home group;
with none it only moves on. -/
def ScalarCompletes (i : Instr) (g : Guard) (sd : BitVec 9) (R : State → Env → Word) : Prop :=
  ∀ s e, Issuable s e g i →
    (s.someLane e g → exec i s = .next ((s.setS e sd (R s e)).advance e).progress) ∧
    (¬ s.someLane e g → exec i s = .next (s.advance e).progress)

/-- A lane's access meets no condition: nothing traps, every page is resident and has room, and its bytes exist. -/
abbrev Cond.clear (c : Cond) : Prop := c.traps = [] ∧ c.pages = [] ∧ c.full = none ∧ c.absent = none

/-- Every byte reads as before but those of backing lines in device memory, where the pager writes the pages it evicts (spec 14,
R328). -/
def SameButBacking (s t : State) : Prop :=
  ∀ k, (∀ wg line b j, s.backKey (s.worldOfWg wg) line = some b → j < 1024 → k ≠ b + j) →
    t.homeByte k = s.homeByte k ∧ memGet t.mem k = memGet s.mem k

/-- The state after an access has issued: one flight for each lane, lowest lane first, with the elements it named; each of
these threads counts one more, the group moves on, and no byte of memory and no version has changed since `m`, the state itself
or what the pager made of it. -/
def AccessIssued (s m t : State) (e : Env) (lanes : List (Nat × List Elem)) (inLd : Bool) (kind : Nat → FlightKind) : Prop :=
  (∃ fs : List Flight, t.flights = s.flights ++ fs ∧ fs.map (fun f => (f.tids, f.elems)) = lanes.map (fun l => ([l.1], l.2)) ∧
    ∀ f ∈ fs, ∀ n ∈ f.tids, f.kind = kind n ∧ f.inLd = inLd ∧ f.wg = e.w.id ∧ f.passed = false) ∧
  ThreadsBecome s t e (fun n x =>
    if n ∈ lanes.map (·.1) then (if inLd then { x with ld := x.ld + 1 } else { x with st := x.st + 1 }).next else x.next) ∧
  SameMemory m t ∧ t.versions = s.versions ∧ t.wgs = s.wgs ∧ t.worlds = s.worlds

/-- Every byte reads as before but those of some elements. -/
def SameBut (s t : State) (xs : List Elem) : Prop :=
  ∀ k, (∀ x ∈ xs, ¬(x.key ≤ k ∧ k < x.key + x.size)) → t.homeByte k = s.homeByte k ∧ memGet t.mem k = memGet s.mem k

/-- A pending version of a world holds a word (spec 15, R345). -/
def State.holdsWord (s : State) (world : Nat) (num : Word) (word : Nat) (x : Word) : Prop :=
  ∃ v ∈ s.versions, v.world = world ∧ v.num = num ∧ assoc word v.words = some x

/-- What a load that returns leaves, beside its registers: no byte of memory, no scalar register and no other thread changes; of its own
threads the counter falls and an `ldp` sets its predicate where `last` says that it is over (R40, R197). -/
def LoadLeaves (s t : State) (f : Flight) (last : Prop) : Prop :=
  SameMemory s t ∧ t.wgs = s.wgs ∧ (∀ wg u, (wg ≠ f.wg ∨ u ∉ f.tids) → t.thread wg u = s.thread wg u) ∧
  ∀ u ∈ f.tids,
    let x := s.thread f.wg u
    let y := t.thread f.wg u
    y.pc = x.pc ∧ y.status = x.status ∧ y.stack = x.stack ∧ y.cp = x.cp ∧ y.tl = x.tl ∧
    (last → y.ld = (if f.inLd then x.ld - 1 else x.ld) ∧ y.st = (if f.inLd then x.st else x.st - 1) ∧
      y.preds = (match f.pred with | some p => (x.setP (BitVec.ofNat 4 p) true).preds | none => x.preds)) ∧
    (¬ last → y.ld = x.ld ∧ y.st = x.st ∧ y.preds = x.preds)

/-- The pages of some lanes have been recorded in the fault queue of a world, by what an access made of a state with the memory and
worlds of `s` (spec 14, R324, R325). -/
def PagesRecorded (s t : State) (world : Nat) (r : FaultRec) (pages : List (Nat × Nat)) : Prop :=
  ∃ u : State, u.mem = s.mem ∧ u.worlds = s.worlds ∧ u.iod = s.iod ∧ u.dies = s.dies ∧
    t.mem = (u.recordPages world r pages).mem ∧ t.worlds = (u.recordPages world r pages).worlds ∧
    t.iod = (u.recordPages world r pages).iod

/-- The state after an access some of whose lanes have parked for pages that are out: each of these stands where it was, each of the
others has issued and moved on, and the pages are recorded (spec 02, R32; 08, R192). -/
def LanesPark (s t : State) (e : Env) (wr : Bool) (cs : List (Nat × Cond)) : Prop :=
  t.flights.map (fun f => (f.tids, f.elems)) =
    s.flights.map (fun f => (f.tids, f.elems)) ++ (cs.filter (fun c => !c.2.parks)).map (fun c => ([c.1], c.2.elems)) ∧
  (∀ c ∈ cs, c.2.pages ≠ [] → (t.thread e.w.id c.1).status = .parked (.pages (c.2.pages.map (·.1))) ∧
    (t.thread e.w.id c.1).pc = (s.thread e.w.id c.1).pc ∧ (t.thread e.w.id c.1).vregs = (s.thread e.w.id c.1).vregs) ∧
  (∀ n ∈ e.g.members, (∀ c ∈ cs, c.1 = n → c.2.parks = false) → (t.thread e.w.id n).pc = (s.thread e.w.id n).next.pc) ∧
  PagesRecorded s t e.gang.world
    { s.record e 0x30 0 [] with lanes := laneMask ((cs.filter (fun c => !c.2.pages.isEmpty)).map (·.1)), wr := wr }
    ((cs.filter (fun c => c.2.parks)).flatMap (fun c => c.2.pages))

/-- An engine operation was issued: it waits in its core's engine with everything still to move, each issuing thread counts
one more copy and moves on, and no byte of memory has changed. -/
def EngineIssued (s t : State) (e : Env) (ts : List Nat) (kind : EngineKind) (segs : List Seg) (bytes : Nat) : Prop :=
  (∃ o : EngineOp, t.engines = s.engines ++ [o] ∧ o.wg = e.w.id ∧ o.core = e.g.core ∧ o.tids = ts ∧ o.kind = kind ∧ o.segs = segs ∧
    o.todo = segs ∧ o.buf = [] ∧ o.bytes = bytes ∧ o.stage = .queued ∧
    o.leave = decide (8192 ≤ bytes) ∧ o.version = verNum e.l
      (s.thread e.w.id (ts.foldl min (ts.headD 0))).sub) ∧
  ThreadsBecome s t e (fun n x => if n ∈ ts then ({ x with cp := x.cp + 1 }).next else x.next) ∧
  SameMemory s t ∧ t.flights = s.flights ∧ t.tiles = s.tiles

end Sys2Proof.Machine
end

