-- ==== Sys2Proof/Certificates/Slice0/Obligations.lean ====
section
/-! DEFINITION. The statements for the provers. -/

open Sys2Proof Sys2Proof.Machine

/-! Integer, move, floating-point, conversion, cross-lane and scalar instructions (spec 05). -/

/-- Each V3 and VI integer instruction, in every state where it may issue (Issuable: the group is issuing, the word
legal, its registers in range, a header follows at the end of its block, and nothing it waits for is pending), answers
a next state in which every active thread whose guard holds has the table's result in its destination register or
predicate and has moved on, the other active threads have only moved on, every other thread is as before, and no
record of the machine but threads, held marks and the count of draws differs. -/
def Obligations.IntegerResults : Prop :=
  (∀ (g : Guard) (f : V3),
    let u := tyU f.ty
    let n : Word → Int := intOf u
    let fit : Int → Word := fitInt (rsSat f.rs) u
    VecCompletes (.add g f) g (fun x => x.setV f.d (fit (n (x.v f.a) + n (x.v f.b)))) ∧
    VecCompletes (.sub g f) g (fun x => x.setV f.d (fit (n (x.v f.a) - n (x.v f.b)))) ∧
    VecCompletes (.mul g f) g (fun x => x.setV f.d (fit (n (x.v f.a) * n (x.v f.b)))) ∧
    VecCompletes (.mulhi g f) g (fun x => x.setV f.d (BitVec.ofInt 32 (n (x.v f.a) * n (x.v f.b) / 2 ^ 32))) ∧
    VecCompletes (.mad g f) g (fun x => x.setV f.d (fit (n (x.v f.a) * n (x.v f.b) + n (x.v f.c)))) ∧
    VecCompletes (.min g f) g (fun x => x.setV f.d (if n (x.v f.b) < n (x.v f.a) then x.v f.b else x.v f.a)) ∧
    VecCompletes (.max g f) g (fun x => x.setV f.d (if n (x.v f.a) < n (x.v f.b) then x.v f.b else x.v f.a)) ∧
    VecCompletes (.abs g f) g (fun x => x.setV f.d (fitInt (rsSat f.rs) false (x.v f.a).toInt.natAbs)) ∧
    VecCompletes (.neg g f) g (fun x => x.setV f.d (fitInt (rsSat f.rs) false (-(x.v f.a).toInt))) ∧
    VecCompletes (.addc g f) g (fun x =>
      let t := (x.v f.a).toNat + (x.v f.b).toNat + (x.p (f.cl.extractLsb' 0 4)).toNat
      (x.setV f.d (BitVec.ofNat 32 t)).setP (f.cl.extractLsb' 4 4) (decide (2 ^ 32 ≤ t))) ∧
    VecCompletes (.subb g f) g (fun x =>
      let b := (x.p (f.cl.extractLsb' 0 4)).toNat
      (x.setV f.d (x.v f.a - x.v f.b - BitVec.ofNat 32 b)).setP (f.cl.extractLsb' 4 4)
        (decide ((x.v f.a).toNat < (x.v f.b).toNat + b))) ∧
    VecCompletes (.lea g f) g (fun x => x.setV f.d (x.v f.a + (x.v f.b <<< (f.cl.toNat % 8)))) ∧
    VecCompletes (.and g f) g (fun x => x.setV f.d (x.v f.a &&& x.v f.b)) ∧
    VecCompletes (.or g f) g (fun x => x.setV f.d (x.v f.a ||| x.v f.b)) ∧
    VecCompletes (.xor g f) g (fun x => x.setV f.d (x.v f.a ^^^ x.v f.b)) ∧
    VecCompletes (.not g f) g (fun x => x.setV f.d (~~~ x.v f.a)) ∧
    VecCompletes (.shl g f) g (fun x => x.setV f.d (if (x.v f.b).toNat < 32 then x.v f.a <<< (x.v f.b).toNat else 0)) ∧
    VecCompletes (.shr g f) g (fun x => x.setV f.d (if (x.v f.b).toNat < 32 then x.v f.a >>> (x.v f.b).toNat else 0)) ∧
    VecCompletes (.sar g f) g (fun x => x.setV f.d ((x.v f.a).sshiftRight (min (x.v f.b).toNat 32))) ∧
    VecCompletes (.rot g f) g (fun x => x.setV f.d ((x.v f.a).rotateLeft ((x.v f.b).toNat % 32))) ∧
    VecCompletes (.popc g f) g (fun x => x.setV f.d (popcW (x.v f.a))) ∧
    VecCompletes (.clz g f) g (fun x => x.setV f.d (clzW (x.v f.a))) ∧
    VecCompletes (.ctz g f) g (fun x => x.setV f.d (ctzW (x.v f.a))) ∧
    VecCompletes (.brev g f) g (fun x => x.setV f.d (brevW (x.v f.a))) ∧
    VecCompletes (.bfe g f) g (fun x => x.setV f.d (bfeW u (x.v f.a) (x.v f.b))) ∧
    VecCompletes (.bfi g f) g (fun x => x.setV f.d (bfiW (x.v f.a) (x.v f.b) (x.v f.c))) ∧
    VecCompletes (.sel g f) g (fun x => x.setV f.d (if x.p (f.cl.extractLsb' 0 4) then x.v f.a else x.v f.b)) ∧
    VecCompletes (.cmp g f) g (fun x => x.setP (f.d.extractLsb' 0 4) (intCond (f.cl.toNat % 8) u (x.v f.a) (x.v f.b)))) ∧
  ((∀ (g : Guard) (f : VI),
    VecCompletes (.addImm g f) g (fun x => x.setV f.d (x.v f.a + f.imm)) ∧
    VecCompletes (.subImm g f) g (fun x => x.setV f.d (x.v f.a - f.imm)) ∧
    VecCompletes (.mulImm g f) g (fun x => x.setV f.d (x.v f.a * f.imm)) ∧
    (∀ u, VecCompletes (.minImm g f u) g (fun x => x.setV f.d (if intOf u f.imm < intOf u (x.v f.a) then f.imm else x.v f.a))) ∧
    (∀ u, VecCompletes (.maxImm g f u) g (fun x => x.setV f.d (if intOf u (x.v f.a) < intOf u f.imm then f.imm else x.v f.a))) ∧
    VecCompletes (.andImm g f) g (fun x => x.setV f.d (x.v f.a &&& f.imm)) ∧
    VecCompletes (.orImm g f) g (fun x => x.setV f.d (x.v f.a ||| f.imm)) ∧
    VecCompletes (.xorImm g f) g (fun x => x.setV f.d (x.v f.a ^^^ f.imm)) ∧
    VecCompletes (.shlImm g f) g (fun x => x.setV f.d (if f.imm.toNat < 32 then x.v f.a <<< f.imm.toNat else 0)) ∧
    VecCompletes (.shrImm g f) g (fun x => x.setV f.d (if f.imm.toNat < 32 then x.v f.a >>> f.imm.toNat else 0)) ∧
    VecCompletes (.sarImm g f) g (fun x => x.setV f.d ((x.v f.a).sshiftRight (min f.imm.toNat 32))) ∧
    VecCompletes (.rotImm g f) g (fun x => x.setV f.d ((x.v f.a).rotateLeft (f.imm.toNat % 32))) ∧
    (∀ c u, VecCompletes (.cmpImm g f c u) g (fun x => x.setP (f.d.extractLsb' 0 4) (intCond c.toNat u (x.v f.a) f.imm)))))

/-- Wrapping and saturating to 32 bits, popc, clz, ctz, brev, bfe, bfi and the six comparison conditions are the
numbers the spec describes; an integer atomic stores the sum, difference, bit operation, minimum, maximum, exchange or
compared value of its operands. -/
def Obligations.FunctionMeanings : Prop :=
  ((∀ (u : Bool) (x : Int), fitInt false u x = BitVec.ofInt 32 x) ∧
  (∀ x : Int, (fitInt true false x).toInt = max (-2 ^ 31) (min (2 ^ 31 - 1) x)) ∧
  (∀ x : Int, ((fitInt true true x).toNat : Int) = max 0 (min (2 ^ 32 - 1) x)) ∧
  (∀ a : Word, (popcW a).toNat = ((List.range 32).map (fun i => (a.getLsbD i).toNat)).sum) ∧
  (∀ a : Word, a ≠ 0 → 2 ^ (31 - (clzW a).toNat) ≤ a.toNat ∧ a.toNat < 2 ^ (32 - (clzW a).toNat)) ∧
  (∀ a : Word, a ≠ 0 → (ctzW a).toNat < 32 ∧ a.toNat % 2 ^ ((ctzW a).toNat + 1) = 2 ^ (ctzW a).toNat) ∧
  clzW 0 = 32 ∧ ctzW 0 = 32 ∧
  (∀ (a : Word) (j : Nat), j < 32 → (brevW a).getLsbD j = a.getLsbD (31 - j)) ∧
  (∀ (a b : Word),
    let pos := b.toNat % 32
    let len := min (b.toNat / 256 % 64) (32 - pos)
    (bfeW true a b).toNat = a.toNat / 2 ^ pos % 2 ^ len ∧
    (0 < len → (bfeW false a b).toInt =
      (if a.getLsbD (pos + len - 1) then ((a.toNat / 2 ^ pos % 2 ^ len : Nat) : Int) - 2 ^ len else (a.toNat / 2 ^ pos % 2 ^ len : Nat)))) ∧
  (∀ (a b c : Word) (j : Nat), j < 32 →
    let pos := c.toNat % 32
    let len := min (c.toNat / 256 % 64) (32 - pos)
    (bfiW a b c).getLsbD j = if pos ≤ j ∧ j < pos + len then b.getLsbD (j - pos) else a.getLsbD j) ∧
  (∀ (u : Bool) (a b : Word),
    intCond 0 u a b = decide (a = b) ∧ intCond 1 u a b = decide (a ≠ b) ∧
    intCond 2 u a b = decide (intOf u a < intOf u b) ∧ intCond 3 u a b = decide (intOf u a ≤ intOf u b) ∧
    intCond 4 u a b = decide (intOf u b < intOf u a) ∧ intCond 5 u a b = decide (intOf u b ≤ intOf u a))) ∧
  (∀ (o b c : Word) (ty : BitVec 2),
    (ty ≠ 2 → atomNew .add ty o b c = o + b) ∧ atomNew .sub ty o b c = o - b ∧ atomNew .and ty o b c = o &&& b ∧
    atomNew .or ty o b c = o ||| b ∧ atomNew .xor ty o b c = o ^^^ b ∧ atomNew .exch ty o b c = b ∧
    atomNew .cas ty o b c = (if o = c then b else o) ∧
    (atomNew .min 0 o b c).toInt = min o.toInt b.toInt ∧ (atomNew .max 0 o b c).toInt = max o.toInt b.toInt ∧
    (atomNew .min 1 o b c).toNat = min o.toNat b.toNat ∧ (atomNew .max 1 o b c).toNat = max o.toNat b.toNat)

/-- R111: mov, movi and movs have opcodes 0x06, 0x05 and 0x07 with FN 0; they write A, IMM or the scalar register S
into the destination of every active lane with guard 1, bit for bit; SLOT, RS, TY and CL that are not 0 are illegal
where the rule says so; and before its effect a move can trap, besides the block condition that any instruction meets,
only with ILLEGAL, REG_RANGE, or the code of a refused or poisoned access it waits for. -/
def Obligations.MovesCopy : Prop :=
  (∀ (g : Guard) (f : V3), encode (.mov g f) = some (packWord 0x06 0 g f.pack) ∧
    VecCompletes (.mov g f) g (fun x => x.setV f.d (x.v f.a)) ∧
    ((f.slot ≠ 0 ∨ f.rs ≠ 0 ∨ f.ty ≠ 0 ∨ f.cl ≠ 0) → Instr.legal (.mov g f) = false)) ∧
  (∀ (g : Guard) (f : VI), encode (.movi g f) = some (packWord 0x05 0 g f.pack) ∧ (g ≠ ⟨true, 15⟩ → Instr.legal (.movi g f) = true) ∧
    VecCompletes (.movi g f) g (fun x => x.setV f.d f.imm)) ∧
  (∀ (g : Guard) (f : V3S), encode (.movs g f) = some (packWord 0x07 0 g f.pack) ∧
    ((f.ty ≠ 0 ∨ f.cl ≠ 0) → Instr.legal (.movs g f) = false) ∧
    ∀ (s : State) (e : Env), Issuable s e g (.movs g f) →
      Out.Leads (exec (.movs g f) s) (fun t => OnlyThreads s t ∧
        ThreadsBecome s t e (fun _ x => if x.guarded g then (x.setV f.d (e.s f.s)).next else x.next))) ∧
  (∀ (g : Guard) (i : Instr), (∃ f, i = .mov g f) ∨ (∃ f, i = .movi g f) ∨ (∃ f, i = .movs g f) →
    ∀ (s : State) (e : Env) (x : TrapInfo), s.gate e g i = .trap x → x.code = 0x01 ∨ x.code = 0x04 ∨ x.code = 0x23 ∨ x.code = 0x25)

/-- R34: A scalar read takes the value of the leader's home group; a scalar write reaches every home group with an
active thread and no other register; a register that is equal in every home group reads the same in any group. A write
of a vector register or predicate reads back and changes no other; vz, sz and pt are hard-wired, and writes to them
change nothing. -/
def Obligations.RegisterWrites : Prop :=
  (∀ (w : Workgroup) (hs : List Nat) (r q : BitVec 9) (x : Word) (h : Nat),
    (w.setSs hs r x).s h q = (if q = 511 then 0 else if q = r ∧ h ∈ hs then x else w.s h q) ∧
    w.setSs hs 511 x = w ∧
    (∀ (s : State) (e : Env), s.wg? e.w.id = some w →
      (s.setS e r x).wg? e.w.id = some (w.setSs e.g.hgrps r x) ∧
      (∀ k, k ≠ e.w.id → (s.setS e r x).wg? k = s.wg? k) ∧
      (s.setS e r x).mem = s.mem ∧ (s.setS e r x).threads = s.threads)) ∧
  (∀ (e : Env) (r : BitVec 9), e.s r = e.w.s (e.g.leader / 32) r ∧ (∀ h, h ∈ e.g.hgrps ↔ ∃ t ∈ e.g.members, t / 32 = h) ∧
    (e.g.members ≠ [] → e.g.leader ∈ e.g.members ∧ ∀ t ∈ e.g.members, e.g.leader ≤ t) ∧
    ∀ x, (∀ h, e.w.s h r = x) → e.s r = x) ∧
  (∀ (t : Thread) (r q : BitVec 8) (x : Word) (m n : BitVec 4) (b : Bool),
    (t.setV r x).v q = (if q = 255 then 0 else if q = r then x else t.v q) ∧
    (t.setV r x).p m = t.p m ∧
    (t.setP n b).p m = (if m = 15 then true else if m = n then b else t.p m) ∧
    (t.setP n b).v q = t.v q ∧
    t.setV 255 x = t ∧ t.setP 15 b = t)

/-- Each V3 floating-point instruction, wherever it may issue and on any data, writes the result of its function under
the rounding and saturation its RS field names (one draw per lane where it rounds stochastically), and changes nothing
else. The approximate functions are the model's open functions (assumption 7) outside the results the spec fixes. -/
def Obligations.FloatResults : Prop :=
  (∀ (g : Guard) (f : V3),
    let r := (rsMode f.rs).1
    let sat := (rsMode f.rs).2
    RndCompletes (.fadd g f) g (fun d x => x.setV f.d (fadd r sat d (x.v f.a) (x.v f.b))) ∧
    RndCompletes (.fsub g f) g (fun d x => x.setV f.d (fsub r sat d (x.v f.a) (x.v f.b))) ∧
    RndCompletes (.fmul g f) g (fun d x => x.setV f.d (fmul r sat d (x.v f.a) (x.v f.b))) ∧
    RndCompletes (.fma g f) g (fun d x => x.setV f.d (ffma r sat d (x.v f.a) (x.v f.b) (x.v f.c))) ∧
    RndCompletes (.frcp g f) g (fun d x => x.setV f.d (frcp r sat d (x.v f.a))) ∧
    RndCompletes (.fsqrt g f) g (fun d x => x.setV f.d (fsqrt r sat d (x.v f.a))) ∧
    VecCompletes (.fmin g f) g (fun x => x.setV f.d (fminmax false (x.v f.a) (x.v f.b))) ∧
    VecCompletes (.fmax g f) g (fun x => x.setV f.d (fminmax true (x.v f.a) (x.v f.b))) ∧
    VecCompletes (.fcmp g f) g (fun x => x.setP (f.d.extractLsb' 0 4) (fcmp (f.cl.toNat % 8) (x.v f.a) (x.v f.b))) ∧
    VecCompletes (.fclass g f) g (fun x => x.setV f.d (fclass (x.v f.a))) ∧
    VecCompletes (.frnd g f) g (fun x => x.setV f.d (frnd r (x.v f.a))) ∧
    VecCompletes (.frsq g f) g (fun x => x.setV f.d (fapprox 1 (x.v f.a))) ∧
    VecCompletes (.fex2 g f) g (fun x => x.setV f.d (fapprox 3 (x.v f.a))) ∧
    VecCompletes (.flg2 g f) g (fun x => x.setV f.d (fapprox 4 (x.v f.a))) ∧
    VecCompletes (.fsin g f) g (fun x => x.setV f.d (fapprox 5 (x.v f.a))) ∧
    VecCompletes (.fcos g f) g (fun x => x.setV f.d (fapprox 6 (x.v f.a))))

/-- R114: FN 0 to 4 of opcode 0x0A are fadd, fsub, fmul, fmin and fmax with b equal to IMM and rounding RNE, and
complete on any data; no word with FN 5 to 15 decodes, and such a word traps ILLEGAL; and the two products of the
rule's example. -/
def Obligations.FloatImmediateForms : Prop :=
  (∀ (g : Guard) (f : VI),
    VecCompletes (.faddImm g f) g (fun x => x.setV f.d (fadd .rne false 0 (x.v f.a) f.imm)) ∧
    VecCompletes (.fsubImm g f) g (fun x => x.setV f.d (fsub .rne false 0 (x.v f.a) f.imm)) ∧
    VecCompletes (.fmulImm g f) g (fun x => x.setV f.d (fmul .rne false 0 (x.v f.a) f.imm)) ∧
    VecCompletes (.fminImm g f) g (fun x => x.setV f.d (fminmax false (x.v f.a) f.imm)) ∧
    VecCompletes (.fmaxImm g f) g (fun x => x.setV f.d (fminmax true (x.v f.a) f.imm)) ∧
    encode (.faddImm g f) = some (packWord 0x0A 0 g f.pack) ∧ encode (.fsubImm g f) = some (packWord 0x0A 1 g f.pack) ∧
    encode (.fmulImm g f) = some (packWord 0x0A 2 g f.pack) ∧ encode (.fminImm g f) = some (packWord 0x0A 3 g f.pack) ∧
    encode (.fmaxImm g f) = some (packWord 0x0A 4 g f.pack)) ∧
  (∀ w : Code, w.extractLsb' 57 7 = 0x0A → 5 ≤ (w.extractLsb' 53 4).toNat → ∀ i, decode w ≠ .ok i) ∧
  (∀ (s : State) (e : Env) (w : Code), s.issuer = some e → exec (.unassignedEncoding w) s = .next (s.takeTrap e { code := 0x01 })) ∧
  fmul .rne false 0 0x71800000 0x71800000 = 0x7F800000 ∧ fmul .rne true 0 0x71800000 0x71800000 = 0x7F7FFFFF

/-- cvt, pack and scl complete with the conversion under the mode of the slot they name, unpack with the element it
extracts; pack takes two draws of a lane, one for each rounding; cvt, pack and scl whose slot does not serve them trap
FMT_SLOT with no other effect. -/
def Obligations.ConversionResults : Prop :=
  ∀ (g : Guard) (f : V3),
    ConvCompletes (.cvt g f) g f (clHi f == 9) (fun r sat d x =>
      x.setV f.d (BitVec.ofNat 32 (convert (clLo f) (clHi f) r sat d ((x.v f.a).toNat % 2 ^ fmtBits (clLo f))))) ∧
    ConvTwiceCompletes (.pack g f) g f (clLo f == 9) (packThread f) ∧
    ConvCompletes (.scl g f) g f false (fun r sat d x => x.setV f.d (fscl (f.cl.getLsbD 0) r sat d (x.v f.a) (x.v f.b))) ∧
    VecCompletes (.unpack g f) g (unpackThread f) ∧
    (∀ i l6, (i = .cvt g f ∧ l6 = (clHi f == 9)) ∨ (i = .pack g f ∧ l6 = (clLo f == 9)) ∨ (i = .scl g f ∧ l6 = false) →
      ∀ s e, Issuable s e g i → convMode e.l f l6 = none → exec i s = .next (s.takeTrap e { code := 0x10 }))

/-- In a group drawn for it each cross-lane instruction writes every receiving lane with what the contributing lanes
give. A lane contributes when its thread is in the group, its mask bit is 1 and its guard holds. Outside a drawn group
it has no effect but to file its threads in the bin of its own address. -/
def Obligations.CrossLaneInstructions : Prop :=
  (∀ (g : Guard) (f : V3S),
    CrossCompletes (.shflIdx g f) g f (fun X _ x => x.setV f.d ((X.c ((x.v f.b).toNat % 32)).getD (x.v f.a))) ∧
    CrossCompletes (.shflUp g f) g f (fun X L x => x.setV f.d (X.from (shiftLane true (f.cl.getLsbD 5) L (f.cl.toNat % 32)) (x.v f.b))) ∧
    CrossCompletes (.shflDown g f) g f (fun X L x => x.setV f.d (X.from (shiftLane false (f.cl.getLsbD 5) L (f.cl.toNat % 32)) (x.v f.b))) ∧
    CrossCompletes (.shflXor g f) g f (fun X L x => x.setV f.d ((X.c (L ^^^ (f.cl.toNat % 32))).getD (x.v f.b))) ∧
    CrossCompletes (.bcast g f) g f (fun X _ x => x.setV f.d ((X.c (f.cl.toNat % 32)).getD (x.v f.a))) ∧
    CrossCompletes (.voteAll g f) g f (fun X _ x => x.setP (f.d.extractLsb' 0 4) ((List.range 32).all (fun j => (X.c j).isNone || X.p j))) ∧
    CrossCompletes (.voteAny g f) g f (fun X _ x => x.setP (f.d.extractLsb' 0 4) ((List.range 32).any X.p)) ∧
    CrossCompletes (.voteBallot g f) g f (fun X _ x => x.setV f.d (maskOf X.p)) ∧
    CrossCompletes (.matchAny g f) g f (fun X L x =>
      x.setV f.d (match X.c L with | some v => maskOf (fun j => X.c j == some v) | none => 0)) ∧
    CrossCompletes (.matchAll g f) g f (fun X _ x =>
      x.setV f.d (if (List.range 32).all (fun j => (List.range 32).all (fun k => (X.c j).isNone || (X.c k).isNone || X.c j == X.c k)) then maskOf (fun j => (X.c j).isSome) else 0)) ∧
    CrossCompletes (.gscan g f) g f (fun X L x =>
      x.setV f.d ((X.list.filter (fun y => y.1 < L || (y.1 == L && !f.cl.getLsbD 0))).foldl (fun a y => a + y.2) 0)) ∧
    CrossCompletes (.minidx g f) g f (fun X _ x =>
      (x.setV f.d (extreme false f.ty X.list).1).setV (f.d + 1) (extreme false f.ty X.list).2) ∧
    CrossCompletes (.maxidx g f) g f (fun X _ x =>
      (x.setV f.d (extreme true f.ty X.list).1).setV (f.d + 1) (extreme true f.ty X.list).2) ∧
    (∀ op, CrossCompletes (.redux g f op) g f (fun X _ x => x.setV f.d (reduce op f.ty X)))) ∧
  ((∀ (s : State) (e : Env) (g : Guard) (f : V3S) (L : Nat) (v : Word),
    (s.lanesOf e g f).c L = some v ↔ ∃ t, e.laneTid L = some t ∧ (e.s f.s).getLsbD L = true ∧
      (s.thread e.w.id t).guarded g = true ∧ (s.thread e.w.id t).v f.a = v) ∧
  (∀ (s : State) (e : Env) (g : Guard) (f : V3S) (L : Nat),
    (s.lanesOf e g f).p L = true ↔ (s.lanesOf e g f).c L ≠ none ∧
      ∃ t, e.laneTid L = some t ∧ (s.thread e.w.id t).p (f.cl.extractLsb' 0 4) = true) ∧
  (∀ (p : Nat → Bool) (j : Nat), j < 32 → (maskOf p).getLsbD j = p j) ∧
  (∀ (X : Lanes) (ty : BitVec 2),
    (reduce .add ty X).toNat = ((X.list.map (fun y => y.2.toNat)).sum) % 2 ^ 32 ∧
    (X.list = [] → reduce .min 0 X = 0x7FFFFFFF ∧ reduce .max 0 X = 0x80000000 ∧ reduce .min 1 X = 0xFFFFFFFF ∧
      reduce .max 1 X = 0 ∧ reduce .and ty X = 0xFFFFFFFF ∧ reduce .or ty X = 0 ∧ reduce .xor ty X = 0) ∧
    (∀ y ∈ X.list, (reduce .min 0 X).toInt ≤ y.2.toInt ∧ y.2.toInt ≤ (reduce .max 0 X).toInt ∧
      (reduce .min 1 X).toNat ≤ y.2.toNat ∧ y.2.toNat ≤ (reduce .max 1 X).toNat))) ∧
  (∀ (g : Guard) (f : V3S) (i : Instr),
    (i = .shflIdx g f ∨ i = .shflUp g f ∨ i = .shflDown g f ∨ i = .shflXor g f ∨ i = .bcast g f ∨ i = .voteAll g f ∨
     i = .voteAny g f ∨ i = .voteBallot g f ∨ i = .matchAny g f ∨ i = .matchAll g f ∨ i = .gscan g f ∨ i = .minidx g f ∨
     i = .maxidx g f ∨ ∃ op, i = .redux g f op) →
    ∀ s e, Issuable s e g i → e.g.drawn = false → Out.Leads (exec i s) (fun t =>
      t.mem = s.mem ∧ t.wgs = s.wgs ∧ t.gangs = s.gangs ∧ t.launches = s.launches ∧ t.flights = s.flights ∧
      ThreadsBecome s t e (fun _ x => { x with status := .filed }) ∧
      (∀ n ∈ e.g.members, ∃ b ∈ t.bins, b.wg = e.w.id ∧ b.core = e.g.core ∧ b.part = e.g.part ∧ b.pc = s.iaddr e ∧ (n, s.clock) ∈ b.entries) ∧
      ∀ x ∈ t.groups, x.id ≠ e.g.id))

/-- Each scalar instruction in S, SI and SK form, where it may issue, writes its result in the register of every
represented home group when some active thread's guard holds, and only moves on when none holds; scmp writes its
predicate in the active threads whose guard holds. -/
def Obligations.ScalarResults : Prop :=
  (∀ (g : Guard) (f : SR),
    ScalarCompletes (.sadd g f) g f.sd (fun _ e => e.s f.sa + e.s f.sb) ∧
    ScalarCompletes (.ssub g f) g f.sd (fun _ e => e.s f.sa - e.s f.sb) ∧
    ScalarCompletes (.smul g f) g f.sd (fun _ e => e.s f.sa * e.s f.sb) ∧
    ScalarCompletes (.sand g f) g f.sd (fun _ e => e.s f.sa &&& e.s f.sb) ∧
    ScalarCompletes (.sor g f) g f.sd (fun _ e => e.s f.sa ||| e.s f.sb) ∧
    ScalarCompletes (.sxor g f) g f.sd (fun _ e => e.s f.sa ^^^ e.s f.sb) ∧
    ScalarCompletes (.sshl g f) g f.sd (fun _ e => if (e.s f.sb).toNat < 32 then e.s f.sa <<< (e.s f.sb).toNat else 0) ∧
    ScalarCompletes (.sshr g f) g f.sd (fun _ e =>
      if f.cl.getLsbD 0 then (e.s f.sa).sshiftRight (min (e.s f.sb).toNat 32)
      else if (e.s f.sb).toNat < 32 then e.s f.sa >>> (e.s f.sb).toNat else 0) ∧
    ScalarCompletes (.smov g f) g f.sd (fun _ e => e.s f.sa) ∧
    (∀ s e, Issuable s e g (.scmp g f) → Out.Leads (exec (.scmp g f) s) (fun t => OnlyThreads s t ∧ ThreadsBecome s t e (fun _ x =>
      if x.guarded g then (x.setP (f.sd.extractLsb' 0 4) (intCond (f.cl.toNat % 8) (tyU f.ty) (e.s f.sa) (e.s f.sb))).next else x.next)))) ∧
  (∀ (g : Guard) (f : SI),
    let k : Word := f.imm.signExtend 32
    ScalarCompletes (.saddImm g f) g f.sd (fun _ e => e.s f.sa + k) ∧
    ScalarCompletes (.ssubImm g f) g f.sd (fun _ e => e.s f.sa - k) ∧
    ScalarCompletes (.smulImm g f) g f.sd (fun _ e => e.s f.sa * k) ∧
    ScalarCompletes (.sandImm g f) g f.sd (fun _ e => e.s f.sa &&& k) ∧
    ScalarCompletes (.sorImm g f) g f.sd (fun _ e => e.s f.sa ||| k) ∧
    ScalarCompletes (.sxorImm g f) g f.sd (fun _ e => e.s f.sa ^^^ k)) ∧
  (∀ (g : Guard) (f : SK), ScalarCompletes (.smovK g f) g f.sd (fun _ _ => f.imm))

/-- R122: scmp in SI form compares with the low 26 bits sign-extended, under the condition in bits 29 to 27 and the
signedness in bit 26; condition codes 6 and 7 are illegal and FN 8 of opcode 0x19 decodes to nothing; the shifts take
the sign-extended immediate unsigned, so a negative one gives 0, and sshr is logical. -/
def Obligations.ScalarCompareImmediate : Prop :=
  (∀ (g : Guard) (f : SI),
    (6 ≤ f.imm.toNat / 2 ^ 27 → Instr.legal (.scmpImm g f) = false) ∧
    (∀ s e, Issuable s e g (.scmpImm g f) → Out.Leads (exec (.scmpImm g f) s) (fun t => OnlyThreads s t ∧ ThreadsBecome s t e (fun _ x =>
      if x.guarded g then (x.setP (f.sd.extractLsb' 0 4)
        (intCond (f.imm.toNat / 2 ^ 27) (f.imm.getLsbD 26) (e.s f.sa) ((f.imm.extractLsb' 0 26).signExtend 32))).next else x.next))) ∧
    (let k : Word := f.imm.signExtend 32
     ScalarCompletes (.sshlImm g f) g f.sd (fun _ e => if k.toNat < 32 then e.s f.sa <<< k.toNat else 0) ∧
     ScalarCompletes (.sshrImm g f) g f.sd (fun _ e => if k.toNat < 32 then e.s f.sa >>> k.toNat else 0) ∧
     (f.imm.getLsbD 29 = true → 32 ≤ k.toNat))) ∧
  (∀ (u : Bool) (a b : Word),
    intCond 0 u a b = decide (a = b) ∧ intCond 1 u a b = decide (a ≠ b) ∧
    intCond 2 u a b = decide (intOf u a < intOf u b) ∧ intCond 3 u a b = decide (intOf u a ≤ intOf u b) ∧
    intCond 4 u a b = decide (intOf u b < intOf u a) ∧ intCond 5 u a b = decide (intOf u b ≤ intOf u a)) ∧
  (∀ w : Code, w.extractLsb' 57 7 = 0x19 → w.extractLsb' 53 4 = 8 → ∀ i, decode w ≠ .ok i)

/-- rdsr writes the selected special register into a scalar register of each represented home group, or into a vector
register of each active lane with guard 1; and each of the thirteen selectors reads what the spec gives it. -/
def Obligations.SpecialRegisterReads : Prop :=
  (∀ (g : Guard) (f : SR) (s : State) (e : Env), Issuable s e g (.rdsrVector g f) →
    Out.Leads (exec (.rdsrVector g f) s) (fun t => OnlyThreads s t ∧ ThreadsBecome s t e (fun n x =>
      if x.guarded g then (x.setV (f.sd.extractLsb' 0 8) (s.special e n f.sa.toNat)).next else x.next))) ∧
  (∀ (g : Guard) (f : SR) (s : State) (e : Env) (w : Workgroup), Issuable s e g (.rdsrScalar g f) → s.someLane e g →
    s.wg? e.w.id = some w → f.sd ≠ 511 → Out.Leads (exec (.rdsrScalar g f) s) (fun t => ∃ w', t.wg? e.w.id = some w' ∧
      (∀ h q, w'.s h q = if q = f.sd ∧ h ∈ e.g.hgrps then s.special e (h * 32) f.sa.toNat else w.s h q) ∧
      (∃ threads groups wgs, t = { s with threads, groups, wgs }) ∧
      ThreadsBecome s t e (fun _ x => x.next))) ∧
  (∀ (s : State) (e : Env) (n : Nat), n < 8192 →
    s.special e n 0 = BitVec.ofNat 32 n ∧ s.special e n 1 = BitVec.ofNat 32 (n % 32) ∧ s.special e n 2 = BitVec.ofNat 32 (n / 32) ∧
    s.special e n 3 = BitVec.ofNat 32 e.w.x ∧ s.special e n 4 = BitVec.ofNat 32 e.w.y ∧ s.special e n 5 = BitVec.ofNat 32 e.w.z ∧
    s.special e n 6 = BitVec.ofNat 32 e.gang.index ∧ s.special e n 7 = BitVec.ofNat 32 e.g.core ∧
    s.special e n 8 = BitVec.ofNat 32 (e.g.core / 4) ∧ s.special e n 10 = BitVec.ofNat 32 s.iod.chip.toNat ∧
    s.special e n 9 = BitVec.ofNat 32 (Config.dieOfCore e.g.core) ∧ s.special e n 11 = BitVec.ofNat 32 e.gang.world ∧
    s.special e n 12 = BitVec.ofNat 32 ((s.clock - (s.die (Config.dieOfCore e.g.core)).resetAt) % 2 ^ 32))

/-! Memory accesses: issue and performing (spec 07, 08). -/

/-- Where no lane meets a condition and a miss-status entry is free, ld and st add one flight for each active lane
with guard 1, lowest lane first, raise its counter, move on, and change no byte; ldp issues the lanes whose pages are
resident, and for the others writes 0 and clears the predicate. A lane of ld, st or atom whose page is not resident
parks where it stands and its page is recorded as PAGE_FAULT, while the other lanes issue; pgreq records the pages and
moves on; a scratchpad access whose page is out is held while the pager works, or parks its lanes with BACKING_FULL
recorded. -/
def Obligations.GlobalAccessesIssue : Prop :=
  (∀ (g : Guard) (f : FM) (s : State) (e : Env),
    (∀ cs, cs = s.ldstConds e g .read f → Issuable s e g (.ld g f) → (∀ c ∈ cs, c.2.clear) →
      s.miss e (linesOf (cs.flatMap (fun c => c.2.elems))).length ≠ .reject →
      Out.Leads (exec (.ld g f) s) (fun t => AccessIssued s s t e (cs.map (fun c => (c.1, c.2.elems))) true (fun _ => .load))) ∧
    (∀ cs, cs = s.ldstConds e g .write f → Issuable s e g (.st g f) → (∀ c ∈ cs, c.2.clear) →
      s.miss e (linesOf (cs.flatMap (fun c => c.2.elems))).length ≠ .reject →
      Out.Leads (exec (.st g f) s) (fun t => AccessIssued s s t e (cs.map (fun c => (c.1, c.2.elems))) false (fun _ => .store)))) ∧
  (∀ (g : Guard) (f : FM) (s : State) (e : Env),
    let cs := (s.lanesAsc e g).map (fun n =>
      (n, s.globalCond e .read 0 (e.va (s.thread e.w.id n) f.base f.idx f.disp.toInt) (fmSize f) (regsOf (s.thread e.w.id n) f.d 1)))
    let there := cs.filter (fun c => c.2.pages.isEmpty)
    Issuable s e g (.ldp g f) → (∀ c ∈ cs, c.2.traps = []) → (∀ c ∈ there, c.2.clear) →
    s.miss e (linesOf (there.flatMap (fun c => c.2.elems))).length ≠ .reject →
    Out.Leads (exec (.ldp g f) s) (fun t =>
      (∃ fs : List Flight, t.flights = s.flights ++ fs ∧
        fs.map (fun f => (f.tids, f.elems)) = there.map (fun c => ([c.1], c.2.elems)) ∧
        ∀ x ∈ fs, x.kind = .load ∧ x.pred = some (ldpPred f).toNat) ∧
      ThreadsBecome s t e (fun n x =>
        if n ∈ there.map (·.1) then ({ x with ld := x.ld + 1 }).next
        else if n ∈ cs.map (·.1) then ((x.setV f.d 0).setP (ldpPred f) false).next else x.next) ∧
      SameMemory s t)) ∧
  ((∀ (g : Guard) (f : FM) (s : State) (e : Env) (cs : List (Nat × Cond)), worst cs = none → (∀ c ∈ cs, c.2.absent = none) →
    s.miss e (linesOf ((cs.filter (fun c => !c.2.parks)).flatMap (fun c => c.2.elems))).length ≠ .reject →
    (cs = s.ldstConds e g .read f → Issuable s e g (.ld g f) →
      Out.Leads (exec (.ld g f) s) (fun t => LanesPark s t e false cs)) ∧
    (cs = s.ldstConds e g .write f → Issuable s e g (.st g f) →
      Out.Leads (exec (.st g f) s) (fun t => LanesPark s t e true cs))) ∧
  (∀ (g : Guard) (f : FMA) (op : AtomOp) (s : State) (e : Env) (cs : List (Nat × Cond)),
    cs = (s.lanesAsc e g).map (fun n => (n, s.globalCond e .atomic (verNum e.l (s.thread e.w.id n).sub)
      (e.va (s.thread e.w.id n) f.base f.idx 0) 4 [(f.d.toNat, 0)])) → worst cs = none → (∀ c ∈ cs, c.2.absent = none) →
    (∀ c ∈ cs, ∀ x ∈ c.2.elems, isHost x.key = true → hostAtomOk op f.ty = true) → Issuable s e g (.atom g f op) →
    s.miss e (linesOf ((cs.filter (fun c => !c.2.parks)).flatMap (fun c => c.2.elems))).length ≠ .reject →
    Out.Leads (exec (.atom g f op) s) (fun t => LanesPark s t e true cs)) ∧
  (∀ (g : Guard) (f : FM) (s : State) (e : Env), Issuable s e g (.pgreq g f) →
    let cs := (s.lanesAsc e g).map (fun n =>
      (n, (s.permit e.g.core e.gang.world (Config.dieOfCore e.g.core) (e.va (s.thread e.w.id n) f.base f.idx f.disp.toInt) .read).1))
    worst cs = none → Out.Leads (exec (.pgreq g f) s) (fun t => t.threads = (s.advance e).threads ∧
      PagesRecorded s t e.gang.world
        { s.record e 0x30 0 [] with lanes := laneMask ((cs.filter (fun c => !c.2.pages.isEmpty)).map (·.1)) }
        (cs.flatMap (fun c => c.2.pages)))) ∧
  (∀ (g : Guard) (f : FM) (s : State) (e : Env) (w : Workgroup) (write : Bool) (cs : List (Nat × Cond)) (i : Instr),
    i = (if write then .sts g f else .lds g f) → Issuable s e g i →
    cs = s.spadConds e g (if write then .write else .read) (some w) (fun t => e.spadVa t f.base f.idx f.disp.toInt) (fmSize f)
      (fun t => regsOf t f.d (fmCount f)) →
    s.space e (f.scope == 1) (e.s f.base) = some w → worst cs = none →
    let pages := (dedup (cs.flatMap (fun c => c.2.elems.flatMap (fun x => pagesOf x.va x.size)))).map (fun p => (w, p))
    (s.touchPages write pages = .wait → exec i s = .next ((s.countPaged e w.home).hold e)) ∧
    (∀ p, s.touchPages write pages = .backing p →
      let need := (cs.filter (fun c => c.2.elems.any (fun x => (pagesOf x.va x.size).contains p))).map (·.1)
      exec i s = .next ((s.pushRecord e.gang.world (s.record e 0x50 (p * 1024) need)).park e need (.backing p)).progress)))

/-- A lane of ld or st that meets a trapping condition makes the whole instruction trap with the lowest code any lane
meets, and no lane has an effect. A scratchpad access in a granule locked as a copy's destination, or a write or
atomic in one locked as a source, by the core whose scratchpad it is meets RANGE_HIT; one that meets no such granule,
or comes from another core, does not. -/
def Obligations.AccessTraps : Prop :=
  (∀ (g : Guard) (f : FM) (s : State) (e : Env) (code va : Nat) (mal : Bool),
    (Issuable s e g (.ld g f) → (∀ c ∈ s.ldstConds e g .read f, c.2.absent = none) →
      worst (s.ldstConds e g .read f) = some (code, va, mal) →
      exec (.ld g f) s = .next (s.takeTrap e { code, daddr := va, wr := false, mal })) ∧
    (Issuable s e g (.st g f) → (∀ c ∈ s.ldstConds e g .write f, c.2.absent = none) →
      worst (s.ldstConds e g .write f) = some (code, va, mal) →
      exec (.st g f) s = .next (s.takeTrap e { code, daddr := va, wr := true, mal })) ∧
    (∀ cs : List (Nat × Cond), worst cs = some (code, va, mal) →
      ∀ c ∈ cs, ∀ x ∈ c.2.traps, code ≤ x.1)) ∧
  (∀ (s : State) (e : Env) (w : Workgroup) (a : Access) (va n align : Nat) (k : RangeLock), k ∈ s.locks → k.spad = true → k.place = w.id →
    w.home = e.g.core → (k.dst = true ∨ a ≠ .read) → k.lo < va + n → va < k.hi →
    (0x21, va, false) ∈ (s.spadCond e (some w) a va n align).traps ∧
    (∀ (s' : State) (e : Env), w.home ≠ e.g.core ∨
        (∀ k ∈ s'.locks, k.spad = true → k.place = w.id → ¬((k.dst = true ∨ a ≠ .read) ∧ k.lo < va + n ∧ va < k.hi)) →
      ∀ x ∈ (s'.spadCond e (some w) a va n align).traps, x.1 ≠ 0x21))

/-- Where no condition holds and the pager has the scratchpad pages in (which changes no byte but backing lines), each
issues one flight for each active lane with guard 1 with the elements it names and its own operands, raises the
counter and moves on. -/
def Obligations.ScratchpadAndAtomicsIssue : Prop :=
  ((∀ (s p : State) (write : Bool) (l : List (Workgroup × Nat)), s.touchPages write l = .ready p →
    SameButBacking s p ∧ ∃ mem llcDirty iod stt, p = { s with mem, llcDirty, iod, stt }) ∧
  ∀ (g : Guard) (f : FM) (s : State) (e : Env) (w : Workgroup) (p : State),
    let pages (cs : List (Nat × Cond)) := (dedup (cs.flatMap (fun c => c.2.elems.flatMap (fun x => pagesOf x.va x.size)))).map (fun p => (w, p))
    let sp (a : Access) := s.spadConds e g a (some w) (fun t => e.spadVa t f.base f.idx f.disp.toInt) (fmSize f) (fun t => regsOf t f.d (fmCount f))
    (∀ cs, cs = sp .read → Issuable s e g (.lds g f) → s.space e (f.scope == 1) (e.s f.base) = some w → worst cs = none →
      s.touchPages false (pages cs) = .ready p →
      Out.Leads (exec (.lds g f) s) (fun t => AccessIssued s p t e (cs.map (fun c => (c.1, c.2.elems))) true (fun _ => .load))) ∧
    (∀ cs, cs = sp .write → Issuable s e g (.sts g f) → s.space e (f.scope == 1) (e.s f.base) = some w → worst cs = none →
      s.touchPages true (pages cs) = .ready p →
      Out.Leads (exec (.sts g f) s) (fun t => AccessIssued s p t e (cs.map (fun c => (c.1, c.2.elems))) false (fun _ => .store))) ∧
    (∀ l, l = layoutOf (e.layoutNat f.base) → Issuable s e g (.ldfrag g f) → s.someLane e g → w = e.w →
      l.ok = true → l.esize ≠ 3 → (fragMode f = 1 → l.esize = 0) → (fragMode f = 2 → l.esize = 1) →
      ∀ xs : Nat → List Elem, (∀ n, xs n = fragElems e.w.id l (fragMode f).toNat (laneOf n) (fmCount f) f.disp.toInt f.d) →
      (∀ n ∈ s.lanesAsc e g, ∀ x ∈ xs n, (s.spadCond e (some e.w) .read x.va x.size x.size).traps = []) →
      s.touchPages false ((dedup ((s.lanesAsc e g).flatMap (fun n => (xs n).flatMap (fun x => pagesOf x.va x.size)))).map (fun p => (w, p))) = .ready p →
      Out.Leads (exec (.ldfrag g f) s) (fun t => AccessIssued s p t e ((s.lanesAsc e g).map (fun n => (n, xs n))) true (fun _ => .frag)))) ∧
  (∀ (g : Guard) (f : FMA) (op : AtomOp) (s : State) (e : Env),
    let kind (n : Nat) : FlightKind := .atomic op f.ty ((s.thread e.w.id n).v f.b) ((s.thread e.w.id n).v f.c)
    (∀ cs, cs = (s.lanesAsc e g).map (fun n => (n, s.globalCond e .atomic (verNum e.l (s.thread e.w.id n).sub)
        (e.va (s.thread e.w.id n) f.base f.idx 0) 4 [(f.d.toNat, 0)])) →
      Issuable s e g (.atom g f op) → (∀ c ∈ cs, c.2.clear) →
      (∀ c ∈ cs, ∀ x ∈ c.2.elems, isHost x.key = true → hostAtomOk op f.ty = true) →
      s.miss e (linesOf (cs.flatMap (fun c => c.2.elems))).length ≠ .reject →
      Out.Leads (exec (.atom g f op) s) (fun t => AccessIssued s s t e (cs.map (fun c => (c.1, c.2.elems))) false kind)) ∧
    (∀ w p cs, cs = s.spadConds e g .atomic (some w) (fun t => e.spadVa t f.base f.idx 0) 4 (fun _ => [(f.d.toNat, 0)]) →
      Issuable s e g (.atoms g f op) → s.space e (f.scope == 1) (e.s f.base) = some w → worst cs = none →
      s.touchPages true ((dedup (cs.flatMap (fun c => c.2.elems.flatMap (fun x => pagesOf x.va x.size)))).map (fun p => (w, p))) = .ready p →
      Out.Leads (exec (.atoms g f op) s) (fun t => AccessIssued s p t e (cs.map (fun c => (c.1, c.2.elems))) false kind)))

/-- pref changes no byte and no register; pgreq with nothing to record only moves on; sld reads a word of the kernel
and fills its translation; a fence that may complete moves its threads on and marks its releases; hflush, hinv and cwb
issue one operation of the group for their range, or only move on for an empty one; a flush that performs writes every
dirty word that the cache holds then to host memory. -/
def Obligations.PrefetchFencesAndMaintenance : Prop :=
  ((∀ (g : Guard) (f : FM) (s : State) (e : Env), Issuable s e g (.pref g f) →
    Out.Leads (exec (.pref g f) s) (fun t => SameMemory s t ∧ t.flights = s.flights ∧ t.versions = s.versions ∧ t.wgs = s.wgs ∧
      ThreadsBecome s t e (fun _ x => x.next))) ∧
  (∀ (g : Guard) (f : FM) (s : State) (e : Env), Issuable s e g (.pgreq g f) →
    let cs := (s.lanesAsc e g).map (fun n =>
      (n, (s.permit e.g.core e.gang.world (Config.dieOfCore e.g.core) (e.va (s.thread e.w.id n) f.base f.idx f.disp.toInt) .read).1))
    worst cs = none →
    Out.Leads (exec (.pgreq g f) s) (fun t => ThreadsBecome s t e (fun _ x => x.next) ∧ t.wgs = s.wgs ∧
      ((∀ c ∈ cs, c.2.pages = []) → SameMemory s t ∧ t.worlds = s.worlds ∧ t.flights = s.flights))) ∧
  (∀ (g : Guard) (f : SI) (s : State) (e : Env) (tr : Trans),
    let va := s.sldVa e f
    Issuable s e g (.sld g f) → s.someLane e g → e.l.code ≤ va → va < e.l.code + 64 * e.l.ksize → va % 4 = 0 →
    s.translate e.g.core e.gang.world va = .ok tr → keyAbsent tr.key = false → s.errs tr.key = false → s.uncrossed tr.key = false →
    exec (.sld g f) s = .next ((((s.noteFor e (s.lanes e g) tr.key (pteGreen tr.leaf.pte)).tlbFill e.g.core e.gang.world va).setS e f.sd
      (BitVec.ofNat 32 (s.loadNat e.l e.g.core tr.key false (pteGreen tr.leaf.pte) 4))).advance e).progress)) ∧
  ((∀ (g : Guard) (f : FC) (s : State) (e : Env), Issuable s e g (.fence g f) →
    (fenceAcq f = true → ∀ n ∈ s.lanes e g, s.fenceMet e.w.id n f = true) →
    Out.Leads (exec (.fence g f) s) (fun t => SameMemory s t ∧ t.flights = s.flights ∧ t.wgs = s.wgs ∧
      (∀ n ∈ e.g.members, (t.thread e.w.id n).pc = (s.thread e.w.id n).pc + 8 ∧
        (t.thread e.w.id n).vregs = (s.thread e.w.id n).vregs ∧ (t.thread e.w.id n).preds = (s.thread e.w.id n).preds) ∧
      (fenceRel f = true → ∀ n ∈ s.lanes e g, (⟨s.nextId, fenceScope f⟩ : Fence) ∈ (t.thread e.w.id n).fences) ∧
      (fenceAcq f = true → s.someLane e g → 4 ≤ fenceScope f → ∀ x ∈ t.l1, x.owner ≠ s.l1Owner e.g.core))) ∧
  (∀ (g : Guard) (f : FMC) (s : State) (e : Env) (i : Instr), (i = .hflush g f ∨ i = .hinv g f ∨ i = .cwb g f) →
    Issuable s e g i → s.someLane e g →
    let n := (e.s f.f2).toNat
    let a := e.pair f.f1 % 2 ^ 56
    let r := s.rangeKeys e (a / 128 * 128) ((a + n + 127) / 128 * 128)
    let ranges := r.2.map (·.2)
    (n = 0 → exec i s = .next (s.advance e).progress) ∧
    (n ≠ 0 → r.1.traps = [] → Out.Leads (exec i s) (fun t => SameMemory s t ∧
      (∃ x : Flight, t.flights = s.flights ++ [x] ∧ x.tids = s.lanes e g ∧ x.inLd = false ∧ x.lines = [] ∧
        (i = .hflush g f → x.kind = .flush ranges false) ∧ (i = .hinv g f → x.kind = .flush ranges true) ∧
        (i = .cwb g f → x.kind = .clean ranges)) ∧
      ThreadsBecome s t e (fun n x => if n ∈ s.lanes e g then ({ x with st := x.st + 1 }).next else x.next)))) ∧
  (∀ (s : State) (fl : Nat) (f : Flight) (ranges : List (Nat × Nat)) (inv : Bool), s.flight? fl = some f → f.kind = .flush ranges inv →
    f.poisoned = false → s.depsMet f.deps = true → f.elems.any (fun x => x.green) = false → (s.iod.hostLines.map (·.line)).Nodup →
    Out.Leads (exec (.storePerformed fl true none) s) (fun t => t.flights = s.flights.filter (fun y => !(y.id == fl)) ∧
      (∀ h ∈ s.iod.hostLines, inRanges ranges h.line = true → ∀ i, i < 128 → listGet false h.dirty (i / 4) = true →
        memGet t.mem (h.line * 128 + i) = listGet 0 h.bytes i) ∧
      (∀ h ∈ t.iod.hostLines, inRanges ranges h.line = true → inv = false ∧ h.dirty = List.replicate 32 false) ∧
      (inv = false → (∀ h ∈ s.iod.hostLines, ∀ i, i < 128 → isHost (h.line * 128 + i) = true) → ∀ k, t.homeByte k = s.homeByte k))))

/-- LOAD_RETURN of one element writes its value, zero- or sign-extended, or merged into the part of the register that
a fragment fills, into its register of its threads; a return of all elements does so for each in order, each value
read in the state that those before it left. No byte of memory, no scalar register, no other register and no other
thread changes; with the last element the flight is gone, the counter falls by one and the predicate of an ldp is set.
-/
def Obligations.LoadsReturn : Prop :=
  (∀ (s : State) (fl n : Nat) (f : Flight) (x : Elem), s.flight? fl = some f → f.kind.isLoad = true →
    f.elems[n]? = some x → x.key % 128 + x.size ≤ 128 → s.mayPerform f [x] = true → s.wgs.any (fun w => w.id == f.wg) = true →
    Out.Leads (exec (.loadReturn fl (some n)) s) (fun t => LoadLeaves s t f (f.elems.length = 1) ∧
      let l := s.launchOf f
      let v := (if f.acq then s.acquire f.core f.scope else s).loadNat l f.core x.key f.fresh x.green x.size
      (∀ u ∈ f.tids, ∀ r : BitVec 8, r ≠ 255 → (t.thread f.wg u).v r =
        if r.toNat = x.reg then
          (if f.kind = .frag then mergeWord ((s.thread f.wg u).v r) (x.size * x.data.toNat) x.size (BitVec.ofNat 32 v)
           else extendElem f.sx x.size v)
        else (s.thread f.wg u).v r) ∧
      (f.elems.length = 1 → t.flights = s.flights.filter (fun y => !(y.id == fl))) ∧
      (f.elems.length ≠ 1 → ∃ y, t.flight? fl = some y ∧ y.elems = f.elems.eraseIdx n))) ∧
  (∀ (s : State) (fl : Nat) (f : Flight), s.flight? fl = some f → f.kind.isLoad = true → s.mayPerform f f.elems = true →
    s.wgs.any (fun w => w.id == f.wg) = true →
    let before (n : Nat) : State := (f.elems.take n).foldl (fun s x => s.loadElem f x) s
    let value (n : Nat) (x : Elem) : Nat := (if f.acq then (before n).acquire f.core f.scope else before n).loadNat (s.launchOf f) f.core x.key
      f.fresh x.green x.size
    Out.Leads (exec (.loadReturn fl none) s) (fun t => LoadLeaves s t f True ∧ t.flights = s.flights.filter (fun y => !(y.id == fl)) ∧
      (∀ u ∈ f.tids, ∀ r : BitVec 8, (∀ x ∈ f.elems, x.reg ≠ r.toNat) → (t.thread f.wg u).v r = (s.thread f.wg u).v r) ∧
      ∀ u ∈ f.tids, ∀ (r : BitVec 8) (n : Nat) (x : Elem), r ≠ 255 → f.elems[n]? = some x → x.reg = r.toNat → x.key % 128 + x.size ≤ 128 →
        (∀ m y, n < m → f.elems[m]? = some y → y.reg ≠ x.reg) →
        (t.thread f.wg u).v r =
          (if f.kind = .frag then mergeWord (((before n).thread f.wg u).v r) (x.size * x.data.toNat) x.size (BitVec.ofNat 32 (value n x))
           else extendElem f.sx x.size (value n x))))

/-- A store that performs makes the bytes of its element its data, and the rest of a word it writes through what the
filled line held, and leaves every other byte; on a greenware page the version of its thread then holds the word
merged with its bytes, and memory keeps its own; a shadow run's other stores change nothing. One that passes the
crossbar changes no byte at a home, and its cluster reads its bytes from then on. An atomic's reply gives its register
the old value, and the word the new one: in memory, on a greenware page in its version, and in a shadow run's other
memory nowhere. -/
def Obligations.StoresAndAtomicsPerform : Prop :=
  (∀ (s : State) (fl n : Nat) (f : Flight) (x : Elem), s.flight? fl = some f → f.kind = .store → f.passed = true ∨ f.spad = true →
    f.elems[n]? = some x → x.key % 4 + x.size ≤ 4 → s.mayPerform f [x] = true → s.roomFor f [x] = true →
    s.injects.find? (fun y => y.die == Config.dieOfCore f.core && y.key == wordOf x.key) = none →
    Out.Leads (exec (.storePerformed fl true (some n)) s) (fun t =>
      SameBut s t [if x.fill = none then x else { x with key := wordOf x.key, size := 4 }] ∧
      (keySpad ≤ x.key ∨ (x.green = false ∧ (s.launchOf f).shadowOf = none) →
        (∀ j, j < x.size → t.homeByte (x.key + j) = x.data.extractLsb' (8 * j) 8) ∧
        (x.key < keySpad → ∀ w, x.fill = some w → ∀ j, j < 4 → (wordOf x.key + j < x.key ∨ x.key + x.size ≤ wordOf x.key + j) →
          t.homeByte (wordOf x.key + j) = w.extractLsb' (8 * j) 8)) ∧
      (x.key < keySpad → (x.green = true ∨ (s.launchOf f).shadowOf ≠ none) → SameMemory s t) ∧
      (x.key < keySpad → x.green = true → s.dropped (s.launchOf f).world f.num = false →
        t.holdsWord (s.launchOf f).world f.num (wordOf x.key)
          (mergeWord (BitVec.ofNat 32 (s.keptNat (s.launchOf f) (wordOf x.key) true 4)) (x.key % 4) x.size x.data)) ∧
      (x.key < keySpad → x.green = false → (s.launchOf f).shadowOf ≠ none → t.versions = s.versions))) ∧
  (∀ (s : State) (fl : Nat) (f : Flight), s.flight? fl = some f → f.kind = .store → f.passed = false → f.spad = false →
    f.poisoned = false → s.depsMet f.deps = true → s.subBlocked f f.elems = false →
    Out.Leads (exec (.storePerformed fl false none) s) (fun t => SameMemory s t ∧ t.threads = s.threads ∧
      (∃ f', t.flight? fl = some f' ∧ f'.passed = true) ∧
      ((∀ y ∈ s.flights, y.passOrder < s.nextId) →
        (∀ y ∈ f.elems, 0 < y.size ∧ y.key % 4 + y.size ≤ 4 ∧ y.fill = none) →
        f.elems.Pairwise (fun y z => y.key + y.size ≤ z.key ∨ z.key + z.size ≤ y.key) →
        ∀ (l : Launch) (core k : Nat) (x : Elem), x ∈ f.elems → clusterOf core = clusterOf f.core → k < keySpad → s.showsTo l f x = true →
        x.key ≤ k → k < x.key + x.size →
        ∀ fresh green, t.loadByte l core k fresh green = x.data.extractLsb' (8 * (k - x.key)) 8))) ∧
  (∀ (s : State) (fl : Nat) (f : Flight) (x : Elem) (op : AtomOp) (ty : BitVec 2) (b c : Word),
    s.flight? fl = some f → f.kind = .atomic op ty b c → f.elems = [x] → x.reg < 255 → x.fill = none → s.mayPerform f [x] = true →
    s.roomFor f [x] = true → s.wgs.any (fun w => w.id == f.wg) = true → (isHost x.key = true → x.key % 4 = 0) →
    Out.Leads (exec (.atomicReply fl) s) (fun t => SameBut s t [{ x with size := 4 }] ∧
      t.flights = s.flights.filter (fun y => !(y.id == fl)) ∧
      (∀ u ∈ f.tids, ∀ r : BitVec 8, r ≠ 255 → r.toNat ≠ x.reg → (t.thread f.wg u).v r = (s.thread f.wg u).v r) ∧
      (isHost x.key = true → (s.launchOf f).shadowOf = none →
        let old : Word := BitVec.ofNat 32 (s.hostWord x.key)
        (∀ u ∈ f.tids, (t.thread f.wg u).v (BitVec.ofNat 8 x.reg) = old) ∧
        ∀ j, j < 4 → memGet t.mem (x.key + j) = (atomNew op ty old b c).extractLsb' (8 * j) 8 ∧
          t.homeByte (x.key + j) = (atomNew op ty old b c).extractLsb' (8 * j) 8) ∧
      (isHost x.key = false → s.injects = [] →
        let old : Word := BitVec.ofNat 32 (s.keptNat (s.launchOf f) x.key x.green 4)
        let new := atomNew op ty old b c
        (∀ u ∈ f.tids, (t.thread f.wg u).v (BitVec.ofNat 8 x.reg) = old) ∧
        (keySpad ≤ x.key ∨ (x.green = false ∧ (s.launchOf f).shadowOf = none) →
          ∀ j, j < 4 → t.homeByte (x.key + j) = new.extractLsb' (8 * j) 8) ∧
        (x.key < keySpad → x.green = true ∨ (s.launchOf f).shadowOf ≠ none → SameMemory s t) ∧
        (x.key < keySpad → x.green = true → x.key % 4 = 0 → s.dropped (s.launchOf f).world f.num = false →
          t.holdsWord (s.launchOf f).world f.num x.key new))))

/-- POISONED_REPLY marks the flight, writes no register and changes no byte; an instruction whose registers wait for
it traps with the address of the access, POISON, or PROT where the home refused it; a dropped stale line changes no
byte at a home. -/
def Obligations.PoisonedReplies : Prop :=
  (∀ (s : State) (fl : Nat) (f : Flight) (prot : Bool), s.flight? fl = some f →
    (f.kind = .load ∨ f.kind = .frag ∨ f.kind = .store ∨ ∃ op ty b c, f.kind = .atomic op ty b c) →
    f.poisoned = false → f.replay = false → s.depsMet f.deps = true → f.elems.any (s.mayRefuse f prot) = true →
    Out.Leads (exec (.poisonedReply ⟨fl, prot⟩) s) (fun t => t.mem = s.mem ∧ SameMemory s t ∧
      (∃ f', t.flight? fl = some f' ∧ f'.poisoned = true ∧ f'.denied = prot ∧ f'.elems = f.elems ∧ f'.poisonTrap.code = if prot then 0x23 else 0x25) ∧
      ∀ wg u, (t.thread wg u).vregs = (s.thread wg u).vregs ∧ (t.thread wg u).preds = (s.thread wg u).preds)) ∧
  (∀ (g : Guard) (i : Instr) (s : State) (e : Env) (f : Flight) (body : Env → Out), s.issuer = some e → s.decodeTrap e i = none →
    s.fallBad e i = none → s.poisonHit e (i.vregs (instrFrags e.l i).1 (instrFrags e.l i).2) i.preds = some f →
    ((s.condsKnown e g i = false ∨ s.raised ≠ none) → issue g i s body = .next (s.takeTrap e f.poisonTrap)) ∧
    (s.condsKnown e g i = true → s.raised = none → ∀ t, body e = .next t →
      ((∃ n, t.raised = some n ∧ n < f.poisonTrap.code) → issue g i s body = .next t) ∧
      ((∀ n, t.raised = some n → f.poisonTrap.code ≤ n) → issue g i s body = .next (s.takeTrap e f.poisonTrap)))) ∧
  (∀ (s : State) (line : Nat), s.l1.any (fun x => x.id == line) = true →
    Out.Leads (exec (.lineStalenessDrop line) s) (fun t => SameMemory s t ∧ t.threads = s.threads ∧
      ∀ x, x ∈ t.l1 ↔ x ∈ s.l1 ∧ x.id ≠ line))

/-! The matrix engine (spec 06). -/

/-- In a drawn group the new signers of mma or mmac are recorded with their fragments and counted; the last signature
issues the operation over every signer and leaves the register idle; threads that have signed are filed. A signing
that meets the conditions of the spec traps with CV, FMT_SLOT or REG_RANGE codes; cvset sets an idle register, does
nothing when the same set is asked again, and traps otherwise. -/
def Obligations.Signing : Prop :=
  (∀ (g : Guard) (f : FT) (mmac : Bool) (i : Instr) (s : State) (e : Env),
    (i = .mma g f ∧ mmac = false ∨ i = .mmac g f ∧ mmac = true) → Issuable s e g i → e.g.drawn = true →
    let n := f.a.toNat % 16
    let c := e.w.cv n
    let x := cvFields mmac f
    let signers := s.lanes e g
    let new := signers.filter (fun t => !c.signed t)
    let sig (t : Nat) : CvSig := ⟨(c.rank t).getD 0, t, (s.thread e.w.id t).frag f.b (if mmac then 0 else fragRegs (slotFmt (slotA e.l x))),
      (s.thread e.w.id t).frag f.c (fragRegs (slotFmt (slotB e.l x)))⟩
    let c' : Cv := { c with fields := if signers = [] then c.fields else some x, sigs := c.sigs ++ new.map sig }
    let all := decide (signers ≠ []) && c'.full e.w.threads
    signTrap e signers c x = none →
    Out.Leads (exec i s) (fun t => SameMemory s t ∧ t.flights = s.flights ∧
      (∃ w, t.wg? e.w.id = some w ∧ w.cv n = (if all then ⟨c.count, c.first, none, []⟩ else c') ∧
        (∀ m, m ≠ n → w.cv m = e.w.cv m) ∧ w.acc = e.w.acc ∧ w.sregs = e.w.sregs) ∧
      (all = false → t.tiles = s.tiles) ∧
      (all = true → ∃ o : TileOp, t.tiles = s.tiles ++ [o] ∧ o.wg = e.w.id ∧ o.tids = c'.sigs.map (·.tid) ∧ o.mode = f.mode ∧
        o.kind = .step x c.count c.first c'.sigs (scaleBases e.l e.w x c.count c.first) ∧
        o.writes = destTiles x c.count ∧ o.reads = destTiles x c.count ++ sourceTiles x c.count ∧ o.leave = (c.count == 128)) ∧
      ThreadsBecome s t e (fun t x => if t ∈ new then ({ x with tl := x.tl + 1 }).next
        else if t ∈ signers then { x with status := .filed } else x.next))) ∧
  ((∀ (g : Guard) (f : FT) (mmac : Bool) (i : Instr) (s : State) (e : Env) (code daddr : Nat),
    (i = .mma g f ∧ mmac = false ∨ i = .mmac g f ∧ mmac = true) → Issuable s e g i → e.g.drawn = true →
    signTrap e (s.lanes e g) (e.w.cv (f.a.toNat % 16)) (cvFields mmac f) = some (code, daddr) →
    exec i s = .next (s.takeTrap e { code, daddr })) ∧
  (∀ (e : Env) (ts : List Nat) (c : Cv) (f : CvFields),
    let tiles := destTiles f c.count ++ sourceTiles f c.count
    ((∃ t ∈ tiles, e.l.acc ≤ t) → signTrap e ts c f = some (0x04, 0)) ∧
    ((∀ t ∈ tiles, t < e.l.acc) → slotsServe e.l f = false → signTrap e ts c f = some (0x10, 0)) ∧
    ((∀ t ∈ tiles, t < e.l.acc) → slotsServe e.l f = true → ts = [] → signTrap e ts c f = none) ∧
    ((∀ t ∈ tiles, t < e.l.acc) → slotsServe e.l f = true →
      (∃ t ∈ ts, c.count = 0 ∨ c.rank t = none ∨ (f.mode ≠ 0 ∧ c.count ≠ 128) ∨ (c.fields ≠ none ∧ c.fields ≠ some f)) →
      signTrap e ts c f = some (0x12, 0)) ∧
    (∀ (l : Launch) (x : Code) (base : Nat), slotScale x ≠ 0 →
      (l.spad < base + scaleUnit x * 32 * scaleRow x → ∃ a, base ≤ a ∧ scaleTrap l x base = some (0x20, a)) ∧
      (base + scaleUnit x * 32 * scaleRow x ≤ l.spad → base % scaleUnit x ≠ 0 → scaleTrap l x base = some (0x24, base)) ∧
      (base + scaleUnit x * 32 * scaleRow x ≤ l.spad → base % scaleUnit x = 0 → scaleTrap l x base = none)))) ∧
  (∀ (g : Guard) (f : FT) (s : State) (e : Env), Issuable s e g (.cvset g f) → s.someLane e g →
    let n := f.a.toNat % 16
    let c := e.w.cv n
    let count := cvCount f
    let first := f.b.toNat
    (32 * e.w.groups < first * 32 + count → exec (.cvset g f) s = .next (s.takeTrap e { code := 0x12 })) ∧
    (first * 32 + count ≤ 32 * e.w.groups → c.count = count → c.first = first → exec (.cvset g f) s = .next (s.advance e).progress) ∧
    (first * 32 + count ≤ 32 * e.w.groups → ¬(c.count = count ∧ c.first = first) → c.sigs ≠ [] →
      exec (.cvset g f) s = .next (s.takeTrap e { code := 0x12 })) ∧
    (first * 32 + count ≤ 32 * e.w.groups → ¬(c.count = count ∧ c.first = first) → c.sigs = [] →
      Out.Leads (exec (.cvset g f) s) (fun t => SameMemory s t ∧ ThreadsBecome s t e (fun _ x => x.next) ∧
        ∃ w, t.wg? e.w.id = some w ∧ w.cv n = ⟨count, first, none, []⟩ ∧ (∀ m, m ≠ n → w.cv m = e.w.cv m) ∧
          w.acc = e.w.acc ∧ w.sregs = e.w.sregs)))

/-- Where its conditions hold each adds one tile operation that names the tiles it reads and writes, raises the tile
counter of the issuing threads and moves on; accst and mproj wait until the tiles they read are written. -/
def Obligations.TileInstructionsIssue : Prop :=
  let issued (s m t : State) (e : Env) (g : Guard) (kind : TileKind) (mode : BitVec 2) (reads writes : List Nat) : Prop :=
    (∃ o : TileOp, t.tiles = s.tiles ++ [o] ∧ o.wg = e.w.id ∧ o.tids = s.lanes e g ∧ o.kind = kind ∧ o.mode = mode ∧
      o.reads = reads ∧ o.writes = writes ∧ o.leave = false) ∧
    SameMemory m t ∧ t.wgs = s.wgs ∧ t.flights = s.flights ∧
    ThreadsBecome s t e (fun n x => if n ∈ s.lanes e g then ({ x with tl := x.tl + 1 }).next else x.next)
  (∀ (g : Guard) (f : FT) (s : State) (e : Env), s.someLane e g →
    let d := tilesFrom (f.d.toNat % 16) (shapeTiles f.mode)
    (Issuable s e g (.accz g f) → Out.Leads (exec (.accz g f) s) (fun t => issued s s t e g .zero f.mode [] d)) ∧
    (Issuable s e g (.mproj g f) → s.tilesWritten e.w.id d = true →
      Out.Leads (exec (.mproj g f) s) (fun t => issued s s t e g
        (.proj (f.d.toNat % 16) ((s.thread e.w.id e.g.leader).v f.c) (f.cl.getLsbD 0) f.mode) f.mode d [f.b.toNat % 16])) ∧
    (Issuable s e g (.mproj g f) → s.tilesWritten e.w.id d = false → exec (.mproj g f) s = .next (s.hold e))) ∧
  (∀ (g : Guard) (f : FTM) (s : State) (e : Env), s.someLane e g → Issuable s e g (.accst g f) →
    s.tilesWritten e.w.id (tilesFrom (f.d.toNat % 16) (shapeTiles (f.cl.extractLsb' 0 2))) = false →
    exec (.accst g f) s = .next (s.hold e)) ∧
  (∀ (g : Guard) (f : FTM) (s : State) (e : Env) (va : Nat) (w : Option Workgroup) (c : Cond) (p : State), s.someLane e g →
    let num := verNum e.l (s.thread e.w.id e.g.leader).sub
    let mode := f.cl.extractLsb' 0 2
    let d := tilesFrom (f.d.toNat % 16) (shapeTiles mode)
    let loc : Loc := match w with | some w => .spad w.id va | none => .va va
    let pages := match w with | some w => (pagesOf va (4 * c.elems.length)).map (fun p => (w, p)) | none => []
    c.clear →
    (Issuable s e g (.accld g f) → s.tileConds e f .read num = (va, w, c) → s.touchPages false pages = .ready p →
      Out.Leads (exec (.accld g f) s) (fun t => issued s p t e g (.load loc (c.elems.map (·.key))) mode [] d)) ∧
    (Issuable s e g (.accst g f) → s.tilesWritten e.w.id d = true → s.tileConds e f .write num = (va, w, c) →
      s.touchPages true pages = .ready p →
      Out.Leads (exec (.accst g f) s) (fun t => issued s p t e g (.store loc (c.elems.map (·.key)) (some num.toNat)) mode d [])))

/-- A step adds its products to every element of its destination tiles and to no other element; accz writes zeros,
accld the loaded words, accst the elements of its tiles, into scratchpad, memory, or on a greenware page its version,
mproj one column per row; a load whose home refuses or poisons a word poisons the operation and halts the gang, and a
refused accst writes the words that are not refused, stays to be made again and halts its gang (the model's choice,
assumption 65); the signers' counts fall and the operation is gone. All words of a transfer, and all scale entries of
a step, are taken in the one state that the event meets (the model's choice, assumption 11, where R145 and R148 leave
each word to itself). -/
def Obligations.TileOperationsPerform : Prop :=
  (∀ (s : State) (op : Nat) (o : TileOp) (w : Workgroup) (f : CvFields) (count first : Nat) (sigs : List CvSig) (bases : List (Nat × Nat)),
    s.tile? op = some o → s.wg? o.wg = some w → o.kind = .step f count first sigs bases → s.tileReady o = true →
    let l := s.launchOfWg w
    let xa := slotA l f
    let xb := slotB l f
    Out.Leads (exec (.matrixStepPerformed op) s) (fun t => SameMemory s t ∧ t.tiles = s.tiles.filter (fun y => !(y.id == op)) ∧
      (∀ u ∈ o.tids, (t.thread o.wg u).tl = (s.thread o.wg u).tl - 1 ∧ (t.thread o.wg u).vregs = (s.thread o.wg u).vregs) ∧
      ∃ w', t.wg? o.wg = some w' ∧ w'.sregs = w.sregs ∧ w'.cvs = w.cvs ∧
        (∀ q i j, q < subArrays f.mode count → i < 32 → j < 32 →
          w'.elem (f.d.toNat % 16 + q) i j = stepElem xa xb (aRow s w l f sigs q i)
            ((List.range (stepK (slotFmt xb))).map (fragElem (slotFmt xb) (sigOf sigs (32 * q + j)).b))
            (s.scaleEntry w.id xa (listGet (0, 0) bases q).1 i) (s.scaleEntry w.id xb (listGet (0, 0) bases q).2 j)
            (w.elem (f.d.toNat % 16 + q) i j)) ∧
        (∀ tile i j, i < 32 → j < 32 → (tile < f.d.toNat % 16 ∨ f.d.toNat % 16 + subArrays f.mode count ≤ tile) →
          w'.elem tile i j = w.elem tile i j))) ∧
  (∀ (s : State) (op : Nat) (o : TileOp) (w : Workgroup), s.tile? op = some o → s.wg? o.wg = some w → s.tileReady o = true →
    let ends (t : State) : Prop := t.tiles = s.tiles.filter (fun y => !(y.id == op)) ∧
      ∀ u ∈ o.tids, (t.thread o.wg u).tl = (s.thread o.wg u).tl - 1 ∧ (t.thread o.wg u).vregs = (s.thread o.wg u).vregs
    (o.kind = .zero → Out.Leads (exec (.tileTransferPerformed op) s) (fun t => ends t ∧ SameMemory s t ∧
      ∃ w', t.wg? o.wg = some w' ∧ ∀ tile i j, i < 32 → j < 32 →
        w'.elem tile i j = if tile ∈ o.writes then 0 else w.elem tile i j)) ∧
    (∀ tile c0 int mode, o.kind = .proj tile c0 int mode → Out.Leads (exec (.tileTransferPerformed op) s) (fun t => ends t ∧ SameMemory s t ∧
      ∃ w', t.wg? o.wg = some w' ∧
        w'.acc = projAcc w (s.launchOfWg w).seed tile (o.writes.headD 0) mode.toNat c0 int)) ∧
    (∀ addr keys, o.kind = .load addr keys → (∀ k ∈ keys, s.tileRefused (s.launchOfWg w).world false k = none) → Out.Leads (exec (.tileTransferPerformed op) s) (fun t => ends t ∧
      SameMemory s t ∧ ∃ w', t.wg? o.wg = some w' ∧
        w'.acc = loadTiles w.acc o.mode.toNat o.tile (s.tileWords (s.launchOfWg w) o keys false))) ∧
    (∀ addr keys, o.kind = .load addr keys → (∃ k ∈ keys, s.tileRefused (s.launchOfWg w).world false k ≠ none) →
      Out.Leads (exec (.tileTransferPerformed op) s) (fun t => (∃ o', t.tile? op = some o' ∧ o'.poisoned = true) ∧ ∀ gang, t.gang? w.gang = some gang → gang.status ≠ .running)) ∧
    (∀ wg a keys num, o.kind = .store (.spad wg a) keys num → (∀ k ∈ keys, keySpad ≤ k) →
      Out.Leads (exec (.tileTransferPerformed op) s) (fun t => ends t ∧ t.wgs = s.wgs ∧
        SameBut s t (s.tileElems w (s.launchOfWg w).world o (.spad wg a) keys o.tile) ∧
        (keys.Pairwise (fun x y => x + 4 ≤ y ∨ y + 4 ≤ x) →
          ∀ x ∈ s.tileElems w (s.launchOfWg w).world o (.spad wg a) keys o.tile, ∀ j, j < 4 →
            t.homeByte (x.key + j) = x.data.extractLsb' (8 * j) 8))) ∧
    (∀ a keys num, o.kind = .store (.va a) keys num → (∀ k ∈ keys, k < keySpad) → s.injects = [] →
      let l := s.launchOfWg w
      let xs := s.tileElems w l.world o (.va a) keys o.tile
      let apart := (xs.map (·.key)).Pairwise (fun x y => x + 4 ≤ y ∨ y + 4 ≤ x)
      (∀ x ∈ xs, x.green = true → s.fifth l.world o.num x.key = false) → (∀ x ∈ xs, s.wordBusy o.core x.key = false) →
      ((∀ k ∈ keys, s.tileRefused l.world true k = none) →
        Out.Leads (exec (.tileTransferPerformed op) s) (fun t => ends t ∧ t.wgs.map (·.acc) = s.wgs.map (·.acc) ∧
          SameBut s t (xs.filter (fun x => !x.green)) ∧ (l.shadowOf ≠ none → SameMemory s t) ∧
          (apart → l.shadowOf = none → ∀ x ∈ xs, x.green = false → ∀ j, j < 4 →
            t.homeByte (x.key + j) = x.data.extractLsb' (8 * j) 8) ∧
          (apart → s.dropped l.world o.num = false → ∀ x ∈ xs, x.green = true → x.key % 4 = 0 → t.holdsWord l.world o.num x.key x.data))) ∧
      ((∃ k ∈ keys, s.tileRefused l.world true k ≠ none) →
        Out.Leads (exec (.tileTransferPerformed op) s) (fun t => (∃ o', t.tile? op = some o' ∧ o'.poisoned = true) ∧
          t.threads = s.threads ∧ (∀ gang, t.gang? w.gang = some gang → gang.status ≠ .running) ∧
          (apart → l.shadowOf = none → (∀ d, s.world? l.world = some d → d.fqsize = 0) →
            ∀ x ∈ xs, x.green = false → s.tileRefused l.world true x.key = none → ∀ j, j < 4 →
              t.homeByte (x.key + j) = x.data.extractLsb' (8 * j) 8)))))

/-! Control flow, barriers, and the events of threads and groups (spec 02, 03, 10). -/

/-- Where the target is a header, the threads whose guard holds continue there and the others at the next word; call
pushes the return address, ret pops it, of each thread's own stack; a divided group leaves each part a group where a
record is free; a target that is no header traps BAD_TARGET and a full stack CALL_DEPTH. -/
def Obligations.BranchesCallsAndReturns : Prop :=
  (∀ (g : Guard) (f : FC) (s : State) (e : Env) (i : Instr) (target : VA) (push : Bool),
    (i = .br g f ∧ target = s.iaddr e + 8 * f.imm.signExtend 56 ∧ push = false ∨
     i = .brc g f ∧ target = s.iaddr e + 8 * f.imm.signExtend 56 + 8 * (e.s f.sa).signExtend 56 ∧ push = false ∨
     i = .call g f ∧ target = s.iaddr e + 8 * f.imm.signExtend 56 ∧ push = true) →
    Issuable s e g i → s.someLane e g →
    ((∃ h, s.atHeader e target = .inr h) → (push = true → ∀ n ∈ s.lanes e g, (s.thread e.w.id n).stack.length < 16) →
      (s.offLanes e g ≠ [] → ∀ m, s.reconvOf e = some m → ∃ h, s.atHeader e m = .inr h) →
      Out.Leads (exec i s) (fun t => SameMemory s t ∧ t.wgs = s.wgs ∧ t.flights = s.flights ∧
        (∀ n ∈ s.lanes e g, (t.thread e.w.id n).pc = target ∧ (t.thread e.w.id n).left = 0 ∧
          (t.thread e.w.id n).stack = (if push then (s.iaddr e + 8) :: (s.thread e.w.id n).stack else (s.thread e.w.id n).stack)) ∧
        (∀ n ∈ s.offLanes e g, (t.thread e.w.id n).pc = (s.thread e.w.id n).pc + 8 ∧ (t.thread e.w.id n).stack = (s.thread e.w.id n).stack) ∧
        (∀ n ∈ e.g.members, (t.thread e.w.id n).vregs = (s.thread e.w.id n).vregs ∧ (t.thread e.w.id n).preds = (s.thread e.w.id n).preds) ∧
        (s.offLanes e g ≠ [] → (∃ x ∈ t.groups, x.id = e.g.id ∧ x.members = s.lanes e g) ∧
          (s.groupCount e.g.core e.g.part < Config.groupRecords → ∃ x ∈ t.groups, x.wg = e.w.id ∧ x.members = s.offLanes e g)))) ∧
    (∀ w, s.atHeader e target = .inl (.word w) → (∀ x ∈ s.reconvBad e (s.lanes e g) (s.offLanes e g), 2 ≤ x.2.code) →
      exec i s = .next (s.takeTrap e { code := 0x02, daddr := target.toNat, fetch := true })) ∧
    (∀ h m w, s.atHeader e target = .inr h → s.offLanes e g ≠ [] → s.reconvOf e = some m → s.atHeader e m = .inl (.word w) →
      exec i s = .next (s.takeTrap e { code := 0x02, daddr := m.toNat, fetch := true })) ∧
    (∀ h, s.atHeader e target = .inr h → push = true → (∀ x ∈ s.reconvBad e (s.lanes e g) (s.offLanes e g), 0x16 < x.2.code) → (∃ n ∈ s.lanes e g, 16 ≤ (s.thread e.w.id n).stack.length) →
      exec i s = .next (s.takeTrap e { code := 0x16 }))) ∧
  (∀ (g : Guard) (f : FC) (s : State) (e : Env), Issuable s e g (.ret g f) → s.someLane e g →
    s.badReturns e (s.lanes e g) = [] →
    (s.offLanes e g ≠ [] → ∀ m, s.reconvOf e = some m → ∃ h, s.atHeader e m = .inr h) →
    ((∃ n ∈ s.lanes e g, (s.thread e.w.id n).stack = []) → exec (.ret g f) s = .next (s.takeTrap e { code := 0x16 })) ∧
    ((∀ n ∈ s.lanes e g, (s.thread e.w.id n).stack ≠ []) → Out.Leads (exec (.ret g f) s) (fun t => SameMemory s t ∧ t.wgs = s.wgs ∧
      (∀ n ∈ s.lanes e g, ∀ a r, (s.thread e.w.id n).stack = a :: r →
        (t.thread e.w.id n).pc = a ∧ (t.thread e.w.id n).left = 0 ∧ (t.thread e.w.id n).stack = r) ∧
      (∀ n ∈ s.offLanes e g, (t.thread e.w.id n).pc = (s.thread e.w.id n).pc + 8 ∧ (t.thread e.w.id n).stack = (s.thread e.w.id n).stack) ∧
      (∀ n ∈ e.g.members, (t.thread e.w.id n).vregs = (s.thread e.w.id n).vregs ∧ (t.thread e.w.id n).preds = (s.thread e.w.id n).preds))))

/-- At a legal header that is no reform point, or in a group drawn for it, every thread of the group stands at the
block's first word with LEN words left; at KIND 01 a group that was not drawn is filed there; an illegal header traps
ILLEGAL. -/
def Obligations.BlockEntry : Prop :=
  ∀ (s : State) (e : Env) (h : Header), s.atHeader e (s.iaddr e) = .inr h →
    (h.legal = false → s.blockEntry e = .next (s.takeTrap e { code := 0x01, daddr := (s.iaddr e).toNat, fetch := true })) ∧
    (h.legal = true → (e.g.drawn = true ∨ (h.kind ≠ 1 ∧ ∀ n ∈ e.g.members, s.iaddr e ∉ (s.thread e.w.id n).reconv)) →
      Out.Leads (s.blockEntry e) (fun t => SameMemory s t ∧ t.flights = s.flights ∧ ∀ n ∈ e.g.members,
        (t.thread e.w.id n).pc = s.iaddr e + 8 ∧ (t.thread e.w.id n).left = h.len ∧ (t.thread e.w.id n).block = s.iaddr e ∧
        (t.thread e.w.id n).vregs = (s.thread e.w.id n).vregs ∧ (t.thread e.w.id n).preds = (s.thread e.w.id n).preds)) ∧
    (h.legal = true → e.g.drawn = false → h.kind = 1 →
      Out.Leads (s.blockEntry e) (fun t => SameMemory s t ∧ ThreadsBecome s t e (fun _ x => { x with status := .filed }) ∧
        ∀ n ∈ e.g.members, ∃ b ∈ t.bins, b.wg = e.w.id ∧ b.pc = s.iaddr e ∧ (n, s.clock) ∈ b.entries))

/-- reform files its threads at the next word; exit ends them and discards their loads; yield restamps the group; nop
only moves on; trap takes USER_TRAP with its immediate in the record (the model's choice, assumption 32) and marks the
threads that go on when it is resumed. -/
def Obligations.ReformExitYieldNopAndTrap : Prop :=
  ∀ (g : Guard) (f : FC) (s : State) (e : Env),
    (Issuable s e g (.reform g f) → Out.Leads (exec (.reform g f) s) (fun t => SameMemory s t ∧ t.wgs = s.wgs ∧
      ThreadsBecome s t e (fun _ x => if x.guarded g then { x.next with status := .filed } else x.next) ∧
      ∀ n ∈ s.lanes e g, ∃ b ∈ t.bins, b.wg = e.w.id ∧ b.pc = s.iaddr e + 8 ∧ (n, s.clock) ∈ b.entries)) ∧
    (Issuable s e g (.exit g f) → s.pendingPoison e.w.id (s.lanes e g) true true = none →
      Out.Leads (exec (.exit g f) s) (fun t => SameMemory s t ∧
        ThreadsBecome s t e (fun _ x => if x.guarded g then { x with status := .ended, ld := 0 } else x.next) ∧
        (∀ x ∈ t.flights, x.wg = e.w.id → x.kind.isLoad = true → ∀ n ∈ s.lanes e g, n ∉ x.tids) ∧
        ∀ x ∈ t.groups, x.id = e.g.id → ∀ n ∈ x.members, n ∉ s.lanes e g)) ∧
    (Issuable s e g (.yield g f) → s.someLane e g → Out.Leads (exec (.yield g f) s) (fun t => OnlyThreadsAndGroups s t ∧
      ThreadsBecome s t e (fun _ x => x.next) ∧ ∀ x ∈ t.groups, x.id = e.g.id → x.stamp = s.clock)) ∧
    (Issuable s e g (.nop g f) → exec (.nop g f) s = .next (s.advance e).progress) ∧
    (Issuable s e g (.trap g f) → s.someLane e g → Out.Leads (exec (.trap g f) s) (fun t =>
      t = (s.takeTrap e { code := 0x17, daddr := f.imm.toNat % 65536 }).modGang e.gang.id
        (fun x => { x with skip := e.g.members.map (threadKey e.w.id) }) ∧
      t.threads = s.threads ∧ ∀ x, t.gang? e.gang.id = some x → x.status ≠ .running))

/-- wait completes where every active thread's counts are low enough and no counted reply is poisoned, traps POISON
where one is, and is held otherwise. An arrival with bar that completes the phase raises it and lets every thread go
on; one that does not leaves its threads waiting. barx arrives without waiting, marks the phase owed and adds its
expectation; a second arrival in a phase traps BAR_REARRIVE. -/
def Obligations.WaitsAndBarriers : Prop :=
  (∀ (g : Guard) (f : FC) (s : State) (e : Env), Issuable s e g (.wait g f) →
    let ts := s.lanes e g
    let low (x : Thread) : Prop :=
      (f.imm.getLsbD 27 = true → x.ld.toNat ≤ (f.imm.extractLsb' 21 6).toNat) ∧ (f.imm.getLsbD 20 = true → x.st.toNat ≤ (f.imm.extractLsb' 14 6).toNat) ∧
      (f.imm.getLsbD 13 = true → x.cp.toNat ≤ (f.imm.extractLsb' 7 6).toNat) ∧ (f.imm.getLsbD 6 = true → x.tl.toNat ≤ (f.imm.extractLsb' 0 6).toNat)
    (∀ x, s.pendingPoison e.w.id ts (f.imm.getLsbD 27) (f.imm.getLsbD 20) = some x → exec (.wait g f) s = .next (s.takeTrap e x.poisonTrap)) ∧
    (s.pendingPoison e.w.id ts (f.imm.getLsbD 27) (f.imm.getLsbD 20) = none → (∀ n ∈ ts, low (s.thread e.w.id n)) →
      Out.Leads (exec (.wait g f) s) (fun t => SameMemory s t ∧ t.wgs = s.wgs ∧ t.flights = s.flights ∧ ThreadsBecome s t e (fun _ x => x.next))) ∧
    (s.pendingPoison e.w.id ts (f.imm.getLsbD 27) (f.imm.getLsbD 20) = none → ¬(∀ n ∈ ts, low (s.thread e.w.id n)) →
      exec (.wait g f) s = .next (s.hold e))) ∧
  (∀ (g : Guard) (f : FC) (s : State) (e : Env), Issuable s e g (.bar g f) → s.someLane e g →
    let ts := s.lanes e g
    let level := barLevel f
    let n := barNum f
    let b := s.getBar e.w level n
    barTrap e f ts = none → (∀ t ∈ ts, (s.thread e.w.id t).hold = none ∧ ∀ o ∈ (s.thread e.w.id t).owed, o.1 ≠ barKey f) →
    (∀ t ∈ ts, s.released e.w.id t (barScope level) = true) →
    ((s.arrive e.w level n ts).barDone e.l e.w level n = true → Out.Leads (exec (.bar g f) s) (fun t => SameMemory s t ∧
      t.getBar e.w level n = { b with phase := b.phase + 1, arrived := [], pending := 0 } ∧ ThreadsBecome s t e (fun _ x => x.next))) ∧
    ((s.arrive e.w level n ts).barDone e.l e.w level n = false → Out.Leads (exec (.bar g f) s) (fun t => SameMemory s t ∧
      t.getBar e.w level n = { b with arrived := b.arrived ++ ts.map (memberNo e.w level) } ∧
      ∀ u ∈ ts, t.thread e.w.id u = { s.thread e.w.id u with hold := some (barKey f, b.phase) }))) ∧
  (∀ (g : Guard) (f : FC) (s : State) (e : Env), Issuable s e g (.barx g f) → s.someLane e g →
    let ts := s.lanes e g
    let level := barLevel f
    let n := barNum f
    let b := s.getBar e.w level n
    let x := e.s f.sa
    let owes (t : Nat) : Prop := (barKey f, b.phase) ∈ (s.thread e.w.id t).owed
    x.toNat < 2 ^ 24 →
    (barTrap e f ts ≠ some 0x04 → (∃ t ∈ ts, owes t) → exec (.barx g f) s = .next (s.takeTrap e { code := 0x13 })) ∧
    (barTrap e f ts = none → (∀ t ∈ ts, ¬ owes t) → b.pending.toNat + x.toNat < 2 ^ 24 →
      (∀ t ∈ ts, s.released e.w.id t (barScope level) = true) →
      let b' : Barrier := { b with arrived := b.arrived ++ ts.map (memberNo e.w level), pending := b.pending + BitVec.ofNat 24 x.toNat }
      Out.Leads (exec (.barx g f) s) (fun t => SameMemory s t ∧
        ThreadsBecome s t e (fun u x => if u ∈ ts
          then { x with owed := (barKey f, b.phase) :: x.owed.filter (fun o => !(o.1 == barKey f)) }.next else x.next) ∧
        t.getBar e.w level n = if (s.putBar e.w level n b').barDone e.l e.w level n
          then { b' with phase := b.phase + 1, arrived := [], pending := 0 } else b')))

/-- R282: A barx whose addition takes the pending count above 16,777,215 traps BAR_EXPECT_OVF, and a value with bits
31 to 24 nonzero traps ILLEGAL; in both the barrier, its arrivals and every thread are as before. -/
def Obligations.ExpectationOverflow : Prop :=
  ∀ (g : Guard) (f : FC) (s : State) (e : Env), Issuable s e g (.barx g f) → s.someLane e g →
    let ts := s.lanes e g
    let b := s.getBar e.w (barLevel f) (barNum f)
    let x := e.s f.sa
    let same (t : State) : Prop := t.wgs = s.wgs ∧ t.launches = s.launches ∧ t.threads = s.threads ∧
      t.getBar e.w (barLevel f) (barNum f) = b
    (2 ^ 24 ≤ x.toNat → exec (.barx g f) s = .next (s.takeTrap e { code := 0x01 })) ∧
    (x.toNat < 2 ^ 24 → barTrap e f ts = none → (∀ t ∈ ts, (barKey f, b.phase) ∉ (s.thread e.w.id t).owed) →
      16777215 < b.pending.toNat + x.toNat → exec (.barx g f) s = .next (s.takeTrap e { code := 0x15 })) ∧
    same (s.takeTrap e { code := 0x01 }) ∧ same (s.takeTrap e { code := 0x15 })

/-- A parked thread whose reason is gone is filed at its instruction; a bin that comes first gives a fresh group of
the threads drawn; a bin that waited long enough is aged; a draw that finds no record starts to wait, and after 128
clocks the partition's oldest group is dissolved (counted from the attempt, assumption 40), each thread filed or
parked by whether it may issue. A leave is granted to the oldest request of a die for its cost, and credits are
refilled up to the bucket. -/
def Obligations.GroupsBinsAndPower : Prop :=
  ((∀ (s : State) (wg tid : Nat) (w : Workgroup) (why : Park), s.wg? wg = some w → (s.thread wg tid).status = .parked why →
    (∀ x, s.gang? w.gang = some x → x.status ≠ .saved) → s.resolved w (s.worldOfWg wg) (w.seat (hgrpOf tid)).1 tid why = true →
    Out.Leads (exec (.parkedThreadRefile wg tid) s) (fun t => SameMemory s t ∧
      t.thread wg tid = { s.thread wg tid with status := .filed } ∧
      ∃ b ∈ t.bins, b.wg = wg ∧ b.core = (w.seat (hgrpOf tid)).1 ∧ b.part = (w.seat (hgrpOf tid)).2 ∧ b.pc = (s.thread wg tid).pc ∧
        (tid, s.clock) ∈ b.entries)) ∧
  (∀ (s : State) (bin : Nat) (b : Bin) (cls clock : Nat) (tids : List Nat), s.bin? bin = some b → s.drawOf b = some (cls, clock, tids) →
    tids ≠ [] → s.firstDraw b cls clock = true → s.groupCount b.core b.part < Config.groupRecords →
    Out.Leads (exec (.binDraw bin) s) (fun t => SameMemory s t ∧
      (∃ x ∈ t.groups, x.wg = b.wg ∧ x.core = b.core ∧ x.part = b.part ∧ x.members = tids ∧ x.stamp = s.clock) ∧
      (∀ n ∈ tids, t.thread b.wg n = { s.thread b.wg n with status := .run }) ∧
      ∀ x ∈ t.bins, x.id = bin → ∀ n ∈ tids, ∀ y ∈ x.entries, y.1 ≠ n)) ∧
  (∀ (s : State) (bin : Nat) (b : Bin), s.bin? bin = some b → s.mayAge b = true →
    Out.Leads (exec (.binAged bin) s) (fun t => t.threads = s.threads ∧ t.mem = s.mem ∧ ∃ b', t.bin? bin = some b' ∧ b' = { b with aged := true })) ∧
  (∀ (s : State) (bin : Nat) (b : Bin) (cls clock : Nat) (tids : List Nat), s.bin? bin = some b → s.drawOf b = some (cls, clock, tids) →
    s.firstDraw b cls clock = true → Config.groupRecords ≤ s.groupCount b.core b.part → b.waitAt = none →
    Out.Leads (exec (.binDraw bin) s) (fun t => t.threads = s.threads ∧ t.mem = s.mem ∧
      t.bin? bin = some { b with waitAt := some s.clock })) ∧
  (∀ (s : State) (core part : Nat) (x : Group) (w : Workgroup), s.oldestGroup core part = some x → s.wg? x.wg = some w →
    Config.groupRecords ≤ s.groupCount core part →
    (∃ b ∈ s.bins, b.core = core ∧ b.part = part ∧ s.drawOf b ≠ none ∧ ∃ c, b.waitAt = some c ∧ c + 128 ≤ s.clock) →
    Out.Leads (exec (.groupDissolve core part) s) (fun t => SameMemory s t ∧ (∀ y ∈ t.groups, y.id ≠ x.id) ∧
      ∀ n ∈ x.members, t.thread x.wg n = { s.thread x.wg n with status := if s.free w n then .filed else .parked .held }))) ∧
  ((∀ (s : State) (die : Nat) (r : LeaveReq) (rest : List LeaveReq), die < 8 → (s.die die).leaves = r :: rest →
    (r.cost ≤ (s.die die).credits ∨ (bucketMax < r.cost ∧ (s.die die).credits = bucketMax)) →
    Out.Leads (exec (.leaveGrant die) s) (fun t => t.mem = s.mem ∧ t.threads = s.threads ∧
      (t.die die).credits = (s.die die).credits - r.cost ∧ (t.die die).leaves = rest ∧
      (∀ o, t.tile? r.op = some o → o.leave = false) ∧ ∀ o, t.engine? r.op = some o → o.leave = false)) ∧
  (∀ (s : State) (die : Nat) (r : LeaveReq) (rest : List LeaveReq), (s.die die).leaves = r :: rest → (s.die die).credits < r.cost →
    r.cost ≤ bucketMax → exec (.leaveGrant die) s = .refused .notEnabled) ∧
  (∀ (s : State) (die : Nat), die < 8 → (s.die die).refilled + 1024 ≤ s.clock →
    Out.Leads (exec (.powerCreditRefill die) s) (fun t => t.mem = s.mem ∧ t.threads = s.threads ∧
      (t.die die).credits = min 4096 ((s.die die).credits + (s.die die).pwrcap.toNat / 8) ∧ (t.die die).refilled = (s.die die).refilled + 1024 ∧
      ∀ d, d ≠ die → t.die d = s.die d)))

/-! The copy engine, rings, hand and take (spec 07, 08). -/

/-- Where no condition holds and the engine has room, each adds one operation with everything still to move to its
core's engine, raises the copy counter of the issuing threads and moves on; cpyg and cpyb read their index vector at
issue and issue nothing for none; cpyb first takes the gang an arrival entry and is held where none is free. An
element of cpy.lw that crosses a line is split (the model's reading, assumption 67). -/
def Obligations.CopiesIssue : Prop :=
  (∀ (g : Guard) (f : FMC) (s : State) (e : Env), s.someLane e g → s.engineFull e.g.core = false →
    let ts := s.lanes e g
    let n := f.cl.toNat / 16 * 64
    (Issuable s e g (.cpy g f) → lowestTrap (rightsTrap e ts ++ ((s.cpySides e f).1.2 ++ (s.cpySides e f).2.2)) = none →
      Out.Leads (exec (.cpy g f) s) (fun t => EngineIssued s t e ts .copy [⟨(s.cpySides e f).2.1, (s.cpySides e f).1.1, n⟩] n ∧ t.wgs = s.wgs)) ∧
    (Issuable s e g (.cpyLw g f) → lowestTrap (rightsTrap e ts ++ lwTraps e f) = none →
      ∀ l base pitch, e.lwSides f = (l, base, pitch) →
      Out.Leads (exec (.cpyLw g f) s) (fun t => t.wgs = s.wgs ∧ ∃ segs : List Seg, EngineIssued s t e ts .copy segs (segBytes segs) ∧
        segs = (lwElems l base pitch).map (fun x =>
          if cpyDir f = 0 then ⟨.va x.1, .spad e.w.id x.2.1, x.2.2⟩ else ⟨.spad e.w.id x.2.1, .va x.1, x.2.2⟩))) ∧
    (∀ r, e.ring f = some r → Issuable s e g (.cpyRing g f) → lowestTrap (rightsTrap e ts ++ ringTraps e f) = none →
      Out.Leads (exec (.cpyRing g f) s) (fun t =>
        EngineIssued s t e ts (.ring (f.cl.toNat % 8) r.i)
          [⟨(e.globalSide f.f2 f.f3 4 false).1, .spad e.w.id (r.base + r.i.toNat % r.depth * r.bytes), n⟩] n ∧
        ∃ w, t.wg? e.w.id = some w ∧ w.rings[f.cl.toNat % 8]? = some { r with i := r.i + 1 } ∧ w.sregs = e.w.sregs ∧ w.acc = e.w.acc)) ∧
    (Issuable s e g (.cpyg g f) → lowestTrap (rightsTrap e ts ++ cpygTraps s e f) = none →
      ((e.s f.f4).toNat = 0 → exec (.cpyg g f) s = .next (s.advance e).progress) ∧
      (∀ p, (e.s f.f4).toNat ≠ 0 →
        (∀ t ∈ ts, s.depsMet (s.depsOf e.w.id t ⟨.copy, 0, false, false, [(spadKey e.w.id ((e.s f.f3).toNat % 2 ^ 24), 4 * (e.s f.f4).toNat)], true, false, none⟩) = true) →
        s.touchPages false ((pagesOf ((e.s f.f3).toNat % 2 ^ 24) (4 * (e.s f.f4).toNat)).map (fun p => (e.w, p))) = .ready p →
        Out.Leads (exec (.cpyg g f) s) (fun t => SameButBacking s t ∧ t.wgs = s.wgs ∧ ∃ segs : List Seg, EngineIssued p t e ts .gather segs ((e.s f.f4).toNat * n) ∧
          segs.map (·.src) = (List.range (e.s f.f4).toNat).map (fun i =>
            .va ((e.pair f.f2 % 2 ^ 56 + p.spadNat e ((e.s f.f3).toNat % 2 ^ 24 + 4 * i) 4 * n) % 2 ^ 56)) ∧
          segs.map (·.dst) = (List.range (e.s f.f4).toNat).map (fun i =>
            (p.spadSide e f.f1 511 (f.cl.getLsbD 2) ((e.s f.f4).toNat * n) 1 true).1.add (i * n)) ∧ ∀ x ∈ segs, x.len = n)))) ∧
  (∀ (g : Guard) (f : FMC) (s : State) (e : Env), s.someLane e g → s.engineFull e.g.core = false → Issuable s e g (.cpyb g f) →
    let ts := s.lanes e g
    let m := (e.s f.f4).toNat
    let x := (e.s f.f3).toNat % 2 ^ 24
    let table := e.pair f.f2 % 2 ^ 56
    let bins (p : State) := (List.range m).map (fun i => p.spadNat e (x + i) 1)
    lowestTrap (rightsTrap e ts ++ cpybTraps s e f) = none →
    (∀ p, (∀ t ∈ ts, s.depsMet (s.depsOf e.w.id t ⟨.copy, 0, false, false, [(spadKey e.w.id x, m)], true, false, none⟩) = true) →
      s.touchPages false ((pagesOf x m).map (fun p => (e.w, p))) = .ready p →
      (∀ b ∈ bins p ++ [255], (p.binEntry e table b).1.clear) → (∀ b ∈ bins p ++ [255], p.binAway e table b = false) →
      (p.arrivalFor e.gang = none → exec (.cpyb g f) s = .next (s.hold e)) ∧
      (m = 0 → p.arrivalFor e.gang ≠ none → Out.Leads (exec (.cpyb g f) s) (fun t => SameMemory p t ∧ SameButBacking s t ∧
        t.engines = s.engines ∧ t.locks = s.locks ∧ ThreadsBecome s t e (fun _ x => x.next)))) ∧
    (∀ p, m ≠ 0 → (∀ t ∈ ts, s.depsMet (s.depsOf e.w.id t ⟨.copy, 0, false, false, [(spadKey e.w.id x, m)], true, false, none⟩) = true) →
      s.touchPages false ((pagesOf x m).map (fun p => (e.w, p))) = .ready p →
      (∀ b ∈ bins p ++ [255], (p.binEntry e table b).1.clear) → (∀ b ∈ bins p ++ [255], p.binAway e table b = false) → p.arrivalFor e.gang ≠ none →
      Out.Leads (exec (.cpyb g f) s) (fun t => SameMemory p t ∧ SameButBacking s t ∧
        ThreadsBecome s t e (fun n x => if n ∈ ts then ({ x with cp := x.cp + 1 }).next else x.next) ∧
        ∃ o : EngineOp, t.engines = s.engines ++ [o] ∧ o.tids = ts ∧ o.todo = [] ∧ o.stage = .queued ∧
          ∃ rows caps, o.kind = .bins table rows (f.cl.toNat / 16 * 64) caps ∧ o.rows = rows ∧ rows.map (·.1) = bins p ∧
            ∀ c ∈ caps, c = (p.binEntry e table c.1).2)))

/-- A cpy issued outside the producer home group traps with code 0x11; a queue of 32 operations that are not complete
holds the next with no other effect (which operations the 32 places count is the model's reading, assumption 52); a
copy in flight holds its source and its destination locked, rounded out to granules and no further; a ring's copy
locks the whole slot of its sequence once it is free. -/
def Obligations.CopyRightsAndLocks : Prop :=
  ((∀ (g : Guard) (f : FMC) (s : State) (e : Env), Issuable s e g (.cpy g f) → (∃ n ∈ s.lanes e g, n / 32 ≠ e.l.producer) →
    exec (.cpy g f) s = .next (s.takeTrap e { code := 0x11, daddr := 0, wr := false })) ∧
  (∀ (g : Guard) (f : FMC) (s : State) (e : Env), Issuable s e g (.cpy g f) → s.someLane e g →
    lowestTrap (rightsTrap e (s.lanes e g) ++ ((s.cpySides e f).1.2 ++ (s.cpySides e f).2.2)) = none →
    32 ≤ (s.engines.filter (fun o => o.core == e.g.core && !s.recorded o)).length → exec (.cpy g f) s = .next (s.hold e))) ∧
  ((∀ (g : Guard) (f : FMC) (s : State) (e : Env), Issuable s e g (.cpy g f) → s.someLane e g → s.engineFull e.g.core = false →
    lowestTrap (rightsTrap e (s.lanes e g) ++ ((s.cpySides e f).1.2 ++ (s.cpySides e f).2.2)) = none →
    let n := f.cl.toNat / 16 * 64
    n ≠ 0 →
    Out.Leads (exec (.cpy g f) s) (fun t => ∀ dst, ∃ k ∈ t.locks, k.owner = s.nextId ∧ k.dst = dst ∧ k.world = e.gang.world ∧
      match (if dst then (s.cpySides e f).1.1 else (s.cpySides e f).2.1) with
      | .va a => k.spad = false ∧ k.place = Config.dieOfCore e.g.core ∧ k.lo = a / 256 * 256 ∧ k.hi = (a + n + 255) / 256 * 256
      | .spad w a => k.spad = true ∧ k.place = w ∧ k.lo = a / 64 * 64 ∧ k.hi = (a + n + 63) / 64 * 64)) ∧
  (∀ (s : State) (wg n : Nat) (seq : Word) (o : EngineOp) (w : Workgroup) (r : Ring), o ∈ s.engines → o.wg = wg → o.kind = .ring n seq →
    o.stage = .queued → s.ringFree o = true → (∀ k ∈ s.locks, k.owner = o.id → k.dst = false) → s.wg? wg = some w → w.rings[n]? = some r →
    0 < r.bytes →
    let lo := r.base + seq.toNat % r.depth * r.bytes
    ∃ k ∈ (s.registerSlots wg).locks, k.owner = o.id ∧ k.dst = true ∧ k.spad = true ∧ k.place = wg ∧ k.lo = lo / 64 * 64 ∧
      k.hi = (lo + r.bytes + 63) / 64 * 64))

/-- stwait goes on once its sequence has landed and is held before; strel arrives at the slot's empty phase and
completes it when every thread of the workgroup has arrived or exited; a sequence released already, or twice, traps
BAR_REARRIVE, and a later one is held; a ring that is not there traps ILLEGAL. -/
def Obligations.StageRings : Prop :=
  ∀ (g : Guard) (f : FMC) (s : State) (e : Env), s.someLane e g →
    let k := f.cl.toNat % 8
    let d (r : Ring) : Int := (e.s f.f1 - r.e).toInt
    (Issuable s e g (.stwait g f) →
      (e.ring f = none → exec (.stwait g f) s = .next (s.takeTrap e { code := 0x01 })) ∧
      ∀ r, e.ring f = some r →
        (0 < (r.f - e.s f.f1).toInt → exec (.stwait g f) s = .next (s.advance e).progress) ∧
        ((r.f - e.s f.f1).toInt ≤ 0 → exec (.stwait g f) s = .next (s.hold e))) ∧
    (Issuable s e g (.strel g f) → ∀ r, e.ring f = some r →
      (d r < 0 ∨ (d r = 0 ∧ ∃ t ∈ s.lanes e g, t ∈ r.arrived) → exec (.strel g f) s = .next (s.takeTrap e { code := 0x13 })) ∧
      (0 < d r → exec (.strel g f) s = .next (s.hold e)) ∧
      (d r = 0 → (∀ t ∈ s.lanes e g, t ∉ r.arrived) → (∀ t ∈ s.lanes e g, s.released e.w.id t 0 = true) →
        Out.Leads (exec (.strel g f) s) (fun t => SameMemory s t ∧ ThreadsBecome s t e (fun _ x => x.next) ∧
          ∃ w, t.wg? e.w.id = some w ∧ w.rings[k]? = some (
            if (List.range e.w.threads).all (fun n => (s.thread e.w.id n).status == .ended || (r.arrived ++ s.lanes e g).contains n)
            then { r with e := r.e + 1, arrived := [] } else { r with arrived := r.arrived ++ s.lanes e g }))))

/-- A copy, gather or binned copy that has moved everything (the completing event moves what is left, the model's
choice, assumption 15; here nothing is) lowers the count of its threads, frees its ranges and is gone; a ring copy's
sequence is then landed; a source range is free once it is read; a copy within resident scratchpad that overlaps
nothing moves every byte and no other. -/
def Obligations.EngineOperationsComplete : Prop :=
  (∀ (s : State) (op : Nat) (o : EngineOp), s.engine? op = some o → o.stage = .running → o.todo = [] → o.buf = [] → o.rows = [] →
    s.overdue o = false →
    let gone (t : State) : Prop := SameMemory s t ∧ t.engines = s.engines.filter (fun x => !(x.id == op)) ∧ (∀ k ∈ t.locks, k.owner ≠ op) ∧
      (s.wgs.any (fun w => w.id == o.wg) = true → ∀ n ∈ o.tids, (t.thread o.wg n).cp = (s.thread o.wg n).cp - 1 ∧
        (t.thread o.wg n).vregs = (s.thread o.wg n).vregs)
    (o.kind = .copy ∨ o.kind = .gather ∨ (∃ a b c d, o.kind = .bins a b c d) → Out.Leads (exec (.copyComplete op) s) gone) ∧
    (∀ n seq w r, o.kind = .ring n seq → s.wg? o.wg = some w → w.rings[n]? = some r → r.f = seq →
      Out.Leads (exec (.ringSequenceLanded op) s) (fun t => gone t ∧ ∃ w', t.wg? o.wg = some w' ∧ w'.rings[n]? = some { r with f := seq + 1 })) ∧
    ((¬ ∃ a b c d, o.kind = .send a b c d) → Out.Leads (exec (.sourceRangeReleased op) s) (fun t => SameMemory s t ∧ t.threads = s.threads ∧
      (∀ k ∈ t.locks, k.owner = op → k.dst = true) ∧ ∀ k ∈ s.locks, k.owner ≠ op ∨ k.dst = true → k ∈ t.locks))) ∧
  (∀ (s : State) (op : Nat) (o : EngineOp) (v a w b n : Nat), s.engine? op = some o → o.stage = .running → o.kind = .copy →
    o.todo = [⟨.spad v a, .spad w b, n⟩] → o.buf = [] → o.rows = [] → o.skip = [] → s.overdue o = false →
    a + n ≤ 2 ^ 24 → b + n ≤ 2 ^ 24 → (∀ p x, s.stt? v p = some x ∨ s.stt? w p = some x → x.present = true) → (v ≠ w ∨ a + n ≤ b ∨ b + n ≤ a) →
    Out.Leads (exec (.copyComplete op) s) (fun t =>
      (∀ j, j < n → memGet t.mem (spadKey w (b + j)) = memGet s.mem (spadKey v (a + j))) ∧
      ∀ k, ¬(spadKey w b ≤ k ∧ k < spadKey w b + n) → memGet t.mem k = memGet s.mem k))

/-- An engine that waits for a page goes on when it is resident; a denied page stops the operation and halts its gang;
a copy that is not done 512 clocks after its gang halted is recorded for restart. -/
def Obligations.EngineWaitsAndStops : Prop :=
  (∀ (s : State) (op va : Nat) (o : EngineOp), s.engine? op = some o → o.stage = .waitPage va →
    (∀ bits green, s.translate o.core o.world va ≠ .error (.absent bits green)) →
    Out.Leads (exec (.enginePageResident op) s) (fun t => SameMemory s t ∧ t.threads = s.threads ∧
      ∃ o', t.engine? op = some o' ∧ o' = { o with stage := .queued })) ∧
  (∀ (s : State) (op code va : Nat) (mal wr : Bool) (o : EngineOp), s.engine? op = some o → o.stage = .running →
    (s.nextMet o).findSome? (NextReq.atPeer none) = some (.deny code va mal wr) →
    Out.Leads (exec (.engineStop ⟨op, none⟩) s) (fun t => t.threads = s.threads ∧ (∃ o', t.engine? op = some o' ∧ o'.stage = .stopped) ∧
      ∀ x, t.gang? o.gang = some x → x.status ≠ .running)) ∧
  (∀ (s : State) (op : Nat) (o : EngineOp) (x : Gang), s.engine? op = some o → o.restarts = true → s.gang? o.gang = some x →
    x.status ≠ .running → o.stage ≠ .stopped → o.stage ≠ .halted → o.haltAt + 512 ≤ s.clock →
    Out.Leads (exec (.copyRestartTimeout op) s) (fun t => SameMemory s t ∧ t.threads = s.threads ∧
      ∃ o', t.engine? op = some o' ∧ o' = { o with stage := .halted }))

/-- hand of pages that nothing is still writing changes their owner tag in the page table and in every TLB, keeps
every other field of their entries, and sends the flag as a release behind them; take issues one acquire load of the
flag for the group. -/
def Obligations.HandAndTake : Prop :=
  (∀ (g : Guard) (f : FMC) (s : State) (e : Env), Issuable s e g (.hand g f) → s.someLane e g → e.l.shadowOf = none →
    let ts := s.lanes e g
    let n := (e.s f.f2).toNat
    let pages := (s.handPages e f).2
    let bits := (s.handPages e f).1
    let first := e.pair f.f1 % 2 ^ 56
    let flagCond := s.globalCond e .write (verNum e.l (s.thread e.w.id (ts.foldl min (ts.headD 0))).sub) (e.pair f.f3 % 2 ^ 56) 4 [(255, e.s f.f4)]
    let scope := f.cl.toNat % 8
    let keys := pages.flatMap (fun p => s.locKeys e.g.core e.gang.world (.va p, 2 ^ bits))
    n ≤ 64 → (n = 0 ∨ first % 2 ^ bits = 0) → flagCond.clear → (∀ p ∈ pages, (s.handCond e bits p).clear) →
    (∀ t ∈ ts, s.depsMet (s.depsOf e.w.id t ⟨.hand, scope, false, true, flagCond.elems.map (fun x => (x.key, x.size)) ++ keys, false, true, none⟩) = true) →
    s.undrained keys = false → s.miss e (linesOf flagCond.elems).length ≠ .reject →
    Out.Leads (exec (.hand g f) s) (fun t =>
      (∃ x : Flight, t.flights = s.flights ++ [x] ∧ x.kind = .store ∧ x.rel = true ∧ x.scope = scope ∧ x.elems = flagCond.elems ∧ x.tids = ts ∧
        x.pages = keys) ∧
      (let u := pages.foldl (fun s p => s.flipPage e.gang.world p (f.cl.toNat / 8 % 16)) s
       t.mem = u.mem ∧ (∀ p ∈ pages, ∀ y ∈ u.tlb, y.covers e.gang.world p = true → pteOtag y.leaf = f.cl.toNat / 8 % 16) ∧
       ∃ v : State, v.mem = u.mem ∧ v.worlds = u.worlds ∧ v.tlb = u.tlb ∧ t.tlb = (v.fillPages e flagCond.elems).tlb) ∧
      ThreadsBecome s t e (fun n x => if n ∈ ts then ({ x with st := x.st + 1 }).next else x.next))) ∧
  (∀ (e : BitVec 64) (tag : Nat), tag < 16 → pteOtag (withOtag e tag) = tag ∧ pteAddr (withOtag e tag) = pteAddr e ∧
    pteValid (withOtag e tag) = pteValid e ∧ pteLeaf (withOtag e tag) = pteLeaf e ∧ pteW (withOtag e tag) = pteW e ∧
    pteGreen (withOtag e tag) = pteGreen e ∧ pteTgt (withOtag e tag) = pteTgt e ∧ pteX (withOtag e tag) = pteX e ∧
    pteSys (withOtag e tag) = pteSys e) ∧
  (∀ (s : State) (world va tag : Nat), tag < 16 →
    let t := s.flipPage world va tag
    (∀ y ∈ t.tlb, y.covers world va = true → pteOtag y.leaf = tag) ∧ (∀ y ∈ s.tlb, y.covers world va = false → y ∈ t.tlb) ∧
    t.tlb.length = s.tlb.length ∧
    ∀ w k, s.world? world = some w → w.leafKey s.mem va = some k → k + 8 ≤ keyHost →
      memNat t.mem k 8 = (withOtag (BitVec.ofNat 64 (memNat s.mem k 8)) tag).toNat ∧
      ∀ j, ¬(k ≤ j ∧ j < k + 8) → memGet t.mem j = memGet s.mem j) ∧
  (∀ (g : Guard) (f : FMC) (s : State) (e : Env), Issuable s e g (.take g f) → s.someLane e g →
    let ts := s.lanes e g
    let c := s.globalCond e .read (verNum e.l (s.thread e.w.id (ts.foldl min (ts.headD 0))).sub) (e.pair f.f2 % 2 ^ 56) 4 [(f.f1.toNat % 256, 0)]
    c.clear → s.miss e (linesOf c.elems).length ≠ .reject →
    Out.Leads (exec (.take g f) s) (fun t => SameMemory s t ∧
      (∃ x : Flight, t.flights = s.flights ++ [x] ∧ x.kind = .load ∧ x.acq = true ∧ x.scope = f.cl.toNat % 8 ∧ x.elems = c.elems ∧ x.tids = ts) ∧
      ThreadsBecome s t e (fun n x => if n ∈ ts then ({ x with ld := x.ld + 1 }).next else x.next)))

/-! The fabric, collective transfers and messages (spec 09). -/

/-- bulk and send issue one operation of the group once the gang has an arrival entry, are held where none is free,
and only move on with no byte for bulk to move or in a shadow run; acset sets a counter of the gang's arrival entry to
0 with a new target and answers its handle; acwait goes on when the count has reached the target and its threads'
earlier acquires are done; counts saturate. -/
def Obligations.BulkSendAndCounters : Prop :=
  (∀ (g : Guard) (f : FMC) (s : State) (e : Env), s.someLane e g → s.engineFull e.g.core = false →
    let ts := s.lanes e g
    let issued (t : State) (kind : EngineKind) (n : Nat) : Prop :=
      (∃ o : EngineOp, t.engines = s.engines ++ [o] ∧ o.tids = ts ∧ o.kind = kind ∧ o.bytes = n ∧ o.stage = .queued ∧ o.sent = 0 ∧ o.acked = 0) ∧
      SameMemory s t ∧ ThreadsBecome s t e (fun n x => if n ∈ ts then ({ x with cp := x.cp + 1 }).next else x.next)
    (Issuable s e g (.bulk g f) → lowestTrap (rightsTrap e ts ++ bulkTraps s e f) = none →
      let n := (e.s f.f3).toNat
      let group := (e.s f.f4).toNat % 256
      (e.l.shadowOf ≠ none → exec (.bulk g f) s = .next (s.advance e).progress) ∧
      (e.l.shadowOf = none → s.arrivalFor e.gang = none → exec (.bulk g f) s = .next (s.hold e)) ∧
      (n = 0 → e.l.shadowOf = none → s.arrivalFor e.gang ≠ none → Out.Leads (exec (.bulk g f) s) (fun t =>
        t.engines = s.engines ∧ SameMemory s t ∧ ThreadsBecome s t e (fun _ x => x.next))) ∧
      (n ≠ 0 → e.l.shadowOf = none → s.arrivalFor e.gang ≠ none → Out.Leads (exec (.bulk g f) s) (fun t =>
        issued t (.bulk (cpyDir f) (f.cl.extractLsb' 8 4) (f.cl.getLsbD 3) (e.s f.f4) group (tabGet 0 group s.iod.redTurns)) n))) ∧
    (Issuable s e g (.send g f) → lowestTrap (rightsTrap e ts ++ sendTraps s e f) = none →
      let n := (e.s f.f4).toNat
      (e.l.shadowOf ≠ none → exec (.send g f) s = .next (s.advance e).progress) ∧
      (e.l.shadowOf = none → s.arrivalFor e.gang = none → exec (.send g f) s = .next (s.hold e)) ∧
      (e.l.shadowOf = none → s.arrivalFor e.gang ≠ none → Out.Leads (exec (.send g f) s) (fun t =>
        issued t (.send (f.cl.getLsbD 1) (e.s f.f2).toNat (e.s f.f3) n) n)))) ∧
  ((∀ (g : Guard) (f : FMC) (s : State) (e : Env) (n : Nat) (a : Arrival), Issuable s e g (.acset g f) → s.someLane e g →
    (e.s f.f2).toNat < 2 ^ 24 → f.cl.getLsbD 4 = false → e.gang.arrival = some n → a ∈ s.iod.arrivals → a.gang = e.gang.id →
    let ctr := f.cl.toNat % 16
    Out.Leads (exec (.acset g f) s) (fun t => SameMemory s t ∧ ThreadsBecome s t e (fun _ x => x.next) ∧
      (∃ a' ∈ t.iod.arrivals, a'.entry = a.entry ∧ a'.gang = e.gang.id ∧ listGet 0 a'.counts ctr = 0 ∧
        (listGet 0 a'.targets ctr).toNat = (e.s f.f2).toNat ∧ ∀ c, c ≠ ctr → listGet 0 a'.counts c = listGet 0 a.counts c) ∧
      ∃ w, t.wg? e.w.id = some w ∧ ∀ h ∈ e.g.hgrps, f.f1 ≠ 511 →
        w.s h f.f1 = BitVec.ofNat 32 (s.iod.chip.toNat * 2 ^ 20 + n * 16 + ctr))) ∧
  (∀ (g : Guard) (f : FMC) (s : State) (e : Env) (a : Arrival), Issuable s e g (.acwait g f) → s.someLane e g →
    s.iod.arrivals.find? (fun a => a.gang == e.gang.id) = some a →
    ((listGet 0 a.targets (f.cl.toNat % 16)).toNat ≤ (listGet 0 a.counts (f.cl.toNat % 16)).toNat →
      (∀ n ∈ s.lanes e g, s.mayAcquire e.w.id n (s.arrivalScope e.gang.id (f.cl.toNat % 16)) = true) →
      Out.Leads (exec (.acwait g f) s) (fun t => SameMemory s t ∧ t.iod = s.iod ∧ t.wgs = s.wgs ∧ ThreadsBecome s t e (fun _ x => x.next))) ∧
    ((listGet 0 a.counts (f.cl.toNat % 16)).toNat < (listGet 0 a.targets (f.cl.toNat % 16)).toNat → exec (.acwait g f) s = .next (s.hold e))) ∧
  (∀ (s : State) (bulk : Bool) (entry world ctr n : Nat) (a : Arrival), a ∈ s.iod.arrivals → a.entry = entry → a.world = world →
    ∃ a' ∈ (s.addArrival bulk entry world ctr n).iod.arrivals, a'.entry = entry ∧ a'.world = world ∧ a'.targets = a.targets ∧
      (listGet 0 a'.counts ctr).toNat = min ((listGet 0 a.counts ctr).toNat + n) (2 ^ 24 - 1) ∧ (bulk = true → ctr ∈ a'.bulked)) ∧
  (∀ (s : State) (gang ctr : Nat) (a : Arrival), s.iod.arrivals.find? (fun a => a.gang == gang) = some a →
    s.arrivalScope gang ctr = if ctr ∈ a.bulked then 3 else 0))

/-- A bulk line for this chip is performed at its home, acknowledged and gone, and a peer operation's last line frees
its ranges here; a line for another chip is acknowledged, or its error reply stops the operation; a collective
transfer is complete when every destination has acknowledged it; a reduction combines the lines of every member's
same-numbered issue in the order of the leaf switches, which a field of the group's entry gives (the model's choice,
assumption 67), and its result sets out for this chip. -/
def Obligations.BulkLinesAndReductions : Prop :=
  ((∀ (s : State) (line k : Nat) (x : BulkLine), s.iod.bulk.find? (fun x => x.id == line) = some x → x.dst = s.me → x.op = none → x.key = some k →
    s.outside x.world k = false → s.refuses k = false → s.lineTag x k = true → s.lineBehind x k = false → s.lineHeld x k = false →
    s.lineRoom x k = true →
    Out.Leads (exec (.bulkLineArrival ⟨line, none⟩) s) (fun t => t.threads = s.threads ∧ Reply.peer x.src (x.seq.getD 0) 0 [] ∈ t.iod.replies ∧
      t.iod.bulk.map (·.id) = (s.iod.bulk.map (·.id)).filter (· != line) ∧
      (∀ j, j < x.data.length → t.homeByte (k + j) = listGet 0 x.data j) ∧
      (∀ j, ¬(k ≤ j ∧ j < k + x.data.length) → t.homeByte j = s.homeByte j) ∧
      ∀ n, x.owner = some n → x.last = true → (∀ y ∈ s.iod.bulk, y.id ≠ line → y.owner ≠ some n) → ∀ l ∈ t.locks, l.owner ≠ n)) ∧
  (∀ (s : State) (line op k : Nat) (x : BulkLine) (o : EngineOp), s.iod.bulk.find? (fun x => x.id == line) = some x → x.dst = s.me → x.op = some op →
    s.engine? op = some o → x.key = some k → s.outside x.world k = false → s.refuses k = false → s.lineFull x k x.green = false →
    s.lineBehind x k = false → s.lineHeld x k = false → s.lineRoom x k = true →
    Out.Leads (exec (.bulkLineArrival ⟨line, none⟩) s) (fun t => (∃ o', t.engine? op = some o' ∧ o'.acked = o.acked + 1) ∧
      t.iod.bulk.map (·.id) = (s.iod.bulk.map (·.id)).filter (· != line))) ∧
  (∀ (s : State) (line op : Nat) (x : BulkLine) (o : EngineOp), s.iod.bulk.find? (fun x => x.id == line) = some x → x.dst ≠ s.me →
    x.op = some op → s.engine? op = some o →
    (s.reachable x.dst = true → s.answers x.world x.dst = true → (∀ k, x.key = some k → s.lineHeld x k = false) →
      Out.Leads (exec (.bulkLineArrival ⟨line, none⟩) s) (fun t =>
      (∃ o', t.engine? op = some o' ∧ o'.acked = o.acked + 1) ∧ t.iod.bulk.map (·.id) = (s.iod.bulk.map (·.id)).filter (· != line))) ∧
    ∀ code, (s.reachable x.dst = false ∧ code = 0x25) ∨ (s.reachable x.dst = true ∧ s.answers x.world x.dst = true ∧ (code = 0x25 ∨ code = 0x23)) →
      Out.Leads (exec (.bulkLineArrival ⟨line, some code⟩) s) (fun t =>
      t.threads = s.threads ∧ (∃ o', t.engine? op = some o' ∧ o'.stage = .stopped) ∧ ∀ g, t.gang? o.gang = some g → g.status ≠ .running)) ∧
  (∀ (s : State) (op : Nat) (o : EngineOp) (kind : Nat) (code : BitVec 4) (count : Bool) (h : Word) (group turn : Nat), s.engine? op = some o →
    o.kind = .bulk kind code count h group turn → o.stage = .running → o.todo = [] → o.buf = [] →
    ((kind = 2 ∧ o.acked = o.bytes / 128) ∨ (kind ≠ 2 ∧ o.acked = o.sent)) →
    Out.Leads (exec (.bulkComplete op) s) (fun t => SameMemory s t ∧ t.engines = s.engines.filter (fun x => !(x.id == op)) ∧
      (s.wgs.any (fun w => w.id == o.wg) = true → ∀ n ∈ o.tids, (t.thread o.wg n).cp = (s.thread o.wg n).cp - 1)))) ∧
  ((∀ (s : State) (group turn pos : Nat) (parts : List RedPart) (x : RedLine) (cg : CollGroup),
    s.iod.red.find? (fun x => x.group == group && x.turn == turn && x.pos == pos) = some x → s.collGroup x.world group true = some cg →
    parts.length = cg.chips.length → (∀ r, r < cg.chips.length → ∃ p ∈ parts, p.rank = r) →
    (∀ p ∈ parts, p.data.length = x.data.length ∧ p.op = x.code) →
    (∃ p ∈ parts, p.rank = cg.rank ∧ p.op = x.code ∧ p.data = x.data) →
    Out.Leads (exec (.reductionCombine ⟨group, turn⟩ pos parts) s) (fun t => SameMemory s t ∧ t.threads = s.threads ∧ t.iod.red = s.iod.red.erase x ∧
      ∃ y : BulkLine, t.iod.bulk = s.iod.bulk ++ [y] ∧ y.dst = s.me ∧ y.va = x.va ∧ y.op = some x.op ∧
        y.data = bytesOf (reduceParts x.code parts cg.leaves))) ∧
  (∀ a b : Word, redElem 0 a b = a + b ∧ (redElem 2 a b).toInt = min a.toInt b.toInt ∧ (redElem 3 a b).toInt = max a.toInt b.toInt ∧
    (redElem 4 a b).toNat = min a.toNat b.toNat ∧ (redElem 5 a b).toNat = max a.toNat b.toNat))

/-- A packet that waits in a receive port is taken where its peer is admitted: in its turn it is presented to its
home, or refused with code 0x23 and no byte changed, and out of its turn it waits. A home performs what was presented
to it, in order (read of a line, write under its enables, atomic), and answers. -/
def Obligations.FabricPackets : Prop :=
  (∀ (s : State) (p : Packet) (slot : PortSlot), s.waiting? (.request p) = some slot →
    let want := tabGet 0 (seqKey p.world p.src) s.iod.gotSeq
    let u := s.freeSlot slot
    (s.checker.admitted.contains p.src = false → exec (.fabricPacketArrival p) s = .refused .notEnabled) ∧
    (s.checker.admitted.contains p.src = true → (∀ q ∈ s.iod.reorder, ¬(q.world = p.world ∧ q.src = p.src ∧ q.seq = p.seq)) →
      (want < p.seq → p.seq < want + 2048 → (s.iod.reorder.filter (fun q => q.src == p.src)).length < 2048 →
        exec (.fabricPacketArrival p) s = .next { u with iod := { u.iod with reorder := s.iod.reorder ++ [p] } }) ∧
      (p.seq = want → s.iod.reorder = [] →
        (s.liveWorld p.world = false ∨ s.peerAdmits p.world p.src = false → Out.Leads (exec (.fabricPacketArrival p) s) (fun t =>
          SameMemory s t ∧ t.threads = s.threads ∧ Reply.peer p.src p.seq 0x23 [] ∈ t.iod.replies)) ∧
        (s.liveWorld p.world = true → s.peerAdmits p.world p.src = true → ∀ w k, s.world? p.world = some w →
          w.place (p.addr.toNat % 2 ^ 40) = some k → (∀ a b c d e f g h, p.kind ≠ .bulkLine a b c d e f g h) →
          Out.Leads (exec (.fabricPacketArrival p) s) (fun t => SameMemory s t ∧ t.threads = s.threads ∧
            t.iod.atHome = s.iod.atHome ++ [(p, k)]))))) ∧
  (∀ (s : State) (pos : Nat) (p : Packet) (k : Nat), s.iod.atHome[pos]? = some (p, k) →
    s.behindAtHome p.world p.src p.seq (keyDie k) = false → s.packetHeld p k = false → keyAbsent k = false → s.outside p.world k = false →
    let line := lineOf k * 128
    (p.kind = .read → s.errs k = false → Out.Leads (homeMove s pos) (fun t => SameMemory s t ∧ t.threads = s.threads ∧
      Reply.peer p.src p.seq 0 ((List.range 128).map (fun i => s.homeByte (line + i))) ∈ t.iod.replies)) ∧
    (∀ data en, p.kind = .write data en → data.length = 128 → s.refuses k = false → s.tagAdmits p.world p.addr.toNat = true →
      Out.Leads (homeMove s pos) (fun t => t.threads = s.threads ∧
        (∀ j, j < 128 → t.homeByte (line + j) = if en.getLsbD j then listGet 0 data j else s.homeByte (line + j)) ∧
        (∀ j, ¬(line ≤ j ∧ j < line + 128) → t.homeByte j = s.homeByte j) ∧ Reply.peer p.src p.seq 0 [] ∈ t.iod.replies)) ∧
    (∀ op ty b c, p.kind = .atomic op ty b c → s.errs k = false → s.tagAdmits p.world p.addr.toNat = true →
      Out.Leads (homeMove s pos) (fun t => t.threads = s.threads ∧
        let old : Word := BitVec.ofNat 32 (leNat ((List.range 4).map (fun i => s.homeByte (k + i))))
        (∀ j, j < 4 → t.homeByte (k + j) = (atomNew op ty old b c).extractLsb' (8 * j) 8) ∧
        (∀ j, ¬(k ≤ j ∧ j < k + 4) → t.homeByte j = s.homeByte j) ∧
        Reply.peer p.src p.seq 0 (natLe 4 old.toNat) ∈ t.iod.replies)))

/-- Merging two writes takes the later one's enabled bytes; a replay is counted; a link is taken down after 16 in a
row; a rekey takes the other key slot and restarts the counter where the peer's evidence still meets the policy, and
takes the link down where not (the evidence is that of its admission, assumption 67); a peer is admitted exactly where
its evidence meets the policy. -/
def Obligations.LinksAndMerging : Prop :=
  (∀ (s : State) (pos : Nat) (p q m : Packet), s.iod.reorder[pos]? = some p →
    s.iod.reorder.find? (fun q => q.world == p.world && q.src == p.src && q.seq == p.seq + p.covers) = some q → mergePackets p q = some m →
    exec (.writeMerge pos) s = .next { s with iod := { s.iod with reorder := (listSet s.iod.reorder pos m).erase q } }) ∧
  (∀ (p q m : Packet) (d d' : List Byte) (e e' : BitVec 128), p.kind = .write d e → q.kind = .write d' e' → mergePackets p q = some m →
    m.seq = p.seq ∧ m.covers = p.covers + q.covers ∧ ∃ x, m.kind = .write x (e ||| e') ∧ ∀ j, j < d.length →
      listGet 0 x j = if e'.getLsbD j then listGet 0 d' j else listGet 0 d j) ∧
  (∀ (s : State) (n : Nat) (x : Link), s.link? n = some x → x.up = true →
    Out.Leads (exec (.flitReplay n) s) (fun t => SameMemory s t ∧ t.threads = s.threads ∧ t.link? n = some { x with replays := x.replays + 1 }) ∧
    (16 ≤ x.replays → Out.Leads (exec (.linkTakenDown n) s) (fun t => SameMemory s t ∧ t.threads = s.threads ∧
      ∃ y, t.link? n = some y ∧ y.up = false)) ∧
    (∀ chip ev, n < 32 → x.peer = some chip → x.shown = some ev →
      (s.checker.accepts ev = true → Out.Leads (exec (.linkRekey n) s) (fun t => SameMemory s t ∧
        t.link? n = some { x with slot := !x.slot, counter := 0, counterIn := 0 })) ∧
      (s.checker.accepts ev = false → Out.Leads (exec (.linkRekey n) s) (fun t => SameMemory s t ∧ chip ∉ t.checker.admitted ∧
        ∃ y, t.link? n = some y ∧ y.up = false ∧ y.peer = none)))) ∧
  (∀ (s : State) (n : Nat) (x : Link) (ev : PeerEvidence), s.link? n = some x →
    Out.Leads (exec (.peerAdmission n ev) s) (fun t => SameMemory s t ∧ t.threads = s.threads ∧
      (s.checker.accepts ev = true → ev.chip ∈ t.checker.admitted ∧ ∃ y, t.link? n = some y ∧ y.peer = some ev.chip ∧ y.up = true ∧ y.counter = 0 ∧ y.counterIn = 0) ∧
      (s.checker.accepts ev = false → ev.chip ∉ t.checker.admitted ∧ ∃ y, t.link? n = some y ∧ y.peer = none)))

/-- A header is taken by the first posted receive that matches it, in the order of posting, or joins the unexpected
queue unless that holds 1,024; headers arrive by loopback, from an admitted peer in the order of its source, again
after a refusal, when the header is taken or waits for another 1,024 clocks, and in scale-out frames in sequence; a
header of a peer or world that is not admitted is refused. -/
def Obligations.MessageHeaders : Prop :=
  (∀ (s : State) (m : Message) (w : World), s.world? m.world = some w →
    (∀ r, w.postedList.find? (fun r => r.matches m) = some r → ∃ t, s.takeHeader m = some t ∧ t.threads = s.threads ∧ t.mem = s.mem ∧
      ∃ w', t.world? m.world = some w' ∧ w'.unexp = w.unexp ∧ ∀ x ∈ w'.posted, x.id = r.id → x.status = .matched m) ∧
    (w.postedList.find? (fun r => r.matches m) = none → w.unexp.length < 1024 → ∃ t, s.takeHeader m = some t ∧
      ∃ w', t.world? m.world = some w' ∧ w'.unexp = w.unexp ++ [m] ∧ w'.posted = w.posted) ∧
    (w.postedList.find? (fun r => r.matches m) = none → 1024 ≤ w.unexp.length → s.takeHeader m = none)) ∧
  ((∀ (s : State) (m : Message) (op : Nat) (o : EngineOp), m.op = some op → s.engine? op = some o → s.ownHeader m op = true →
    (∀ x ∈ s.iod.resend, x.1.op ≠ some op) →
    (∀ t, s.takeHeader m = some t → Out.Leads (exec (.messageHeaderArrival m) s) (fun u => SameMemory s u ∧ u.worlds = t.worlds ∧
      ∃ o', u.engine? op = some o' ∧ o'.sent = 1)) ∧
    (s.takeHeader m = none → exec (.messageHeaderArrival m) s =
      .next { s with iod := { s.iod with resend := s.iod.resend ++ [(m, s.clock + 1024)] } })) ∧
  (∀ (s : State) (m : Message) (slot : PortSlot), m.op = none → s.waiting? (.message m) = some slot →
    s.checker.admitted.contains m.src.toNat = true → s.headerFirst m = true →
    let u := s.freeSlot slot
    (s.liveWorld m.world = true → s.peerAdmits m.world m.src.toNat = true →
      (∀ t, u.takeHeader m = some t → exec (.messageHeaderArrival m) s = .next t.progress) ∧
      (u.takeHeader m = none → exec (.messageHeaderArrival m) s = .next u)) ∧
    (s.liveWorld m.world = false ∨ s.peerAdmits m.world m.src.toNat = false →
      exec (.messageHeaderArrival m) s = .next (u.replyPeer m.src.toNat 0 0x23 []))) ∧
  (∀ (s : State) (op : Nat) (x : Message × Nat), s.iod.resend.find? (fun x => x.1.op == some op && x.2 ≤ s.clock) = some x →
    let s1 : State := { s with iod := { s.iod with resend := s.iod.resend.erase x } }
    (∀ t, s1.takeHeader x.1 = some t → Out.Leads (exec (.messageResend op) s) (fun u => SameMemory s u ∧ u.threads = s.threads ∧
      u.worlds = t.worlds ∧ u.iod = s1.iod ∧ ∀ o, s.engine? op = some o → ∃ o', u.engine? op = some o' ∧ o'.sent = 1)) ∧
    (s1.takeHeader x.1 = none → exec (.messageResend op) s =
      .next { s1 with iod := { s1.iod with resend := s1.iod.resend ++ [(x.1, s.clock + 1024)] } })) ∧
  (∀ (s : State) (f : Frame) (n : Nat) (x : Endpoint), s.powered = true → (∃ p, s.iod.eth[f.eth]? = some p ∧ p.up = true) → f.msg.size = f.msg.data.length → f.msg.op = none →
    s.iod.endpoints.find? (fun x => x.2.live && x.2.addr == f.addr && x.2.port == f.port) = some (n, x) →
    (f.seq ≠ x.got → exec (.ethFrameArrival f) s = .next s) ∧
    (f.seq = x.got → s.liveWorld f.msg.world = true → ∀ t, s.takeHeader { f.msg with src := BitVec.ofNat 13 (4096 + n % 4096) } = some t →
      Out.Leads (exec (.ethFrameArrival f) s) (fun u => SameMemory s u ∧ u.worlds = t.worlds ∧
        assoc n u.iod.endpoints = some { x with got := x.got + 1 }))) ∧
  (∀ (s : State) (f : Frame), s.powered = true → (∃ p, s.iod.eth[f.eth]? = some p ∧ p.up = true) → f.msg.size = f.msg.data.length → f.msg.op = none →
    s.iod.endpoints.find? (fun x => x.2.live && x.2.addr == f.addr && x.2.port == f.port) = none →
    exec (.ethFrameArrival f) s = .next { s with iod := { s.iod with ethDropped := s.iod.ethDropped + 1 } }) ∧
  (∀ (s : State) (op : Nat) (o : EngineOp) (d : Nat) (tag : Word) (n : Nat), s.engine? op = some o → o.stage = .running → o.kind = .send true d tag n →
    exec (.ethRetransmit op) s = .next s.progress))

/-- post gives a handle no receive of its world has, lists the receive and matches a waiting header; rprobe reports,
rwait is held until the receive is over and then reports, rcancel takes a receive off the list where it was not
matched; and the words they report. -/
def Obligations.Receives : Prop :=
  (∀ (g : Guard) (f : FMC) (s : State) (e : Env) (w : World), s.someLane e g → s.world? e.gang.world = some w →
    (Issuable s e g (.post g f) →
      let l := layoutOf (e.layoutNat f.f2)
      (e.desc f 6).getLsbD 31 = false → descX e f ≠ 0 → descY e f ≠ 0 → l.ok = true →
      (tensorBounds l (descX e f) (descY e f) (e.desc f 3).toNat).2 ≤ e.l.spad → e.l.shadowOf = none → w.postedList.length < 2048 → w.posted.length < 2 ^ 32 →
      s.lockRoom e.gang.world true e.w.id = true →
      Out.Leads (exec (.post g f) s) (fun t => SameMemory s t ∧ ThreadsBecome s t e (fun _ x => x.next) ∧
        ∃ w' r, t.world? e.gang.world = some w' ∧ w'.posted = w.posted ++ [r] ∧ r.wg = e.w.id ∧ r.cap = (e.desc f 3).toNat ∧
          r.tag = e.desc f 4 ∧ r.tmask = e.desc f 5 ∧ r.deps = s.spadPending e ∧ (∀ q ∈ w.posted, q.handle ≠ r.handle) ∧
          (∃ x, t.wg? e.w.id = some x ∧ (f.f1 ≠ 511 → ∀ h ∈ e.g.hgrps, x.s h f.f1 = r.handle)) ∧
          ((∀ m ∈ w.unexp, r.matches m = false) → r.status = .posted ∧ w'.unexp = w.unexp) ∧
          ∀ m, w.unexp.find? r.matches = some m → r.status = .matched m ∧ w'.unexp = w.unexp.erase m)) ∧
    (Issuable s e g (.rprobe g f) → exec (.rprobe g f) s = .next ((s.report e f).advance e).progress) ∧
    (Issuable s e g (.rwait g f) →
      (∀ r, s.receive? e (e.s f.f2) = some r → r.over = false → exec (.rwait g f) s = .next (s.hold e)) ∧
      ((∀ r, s.receive? e (e.s f.f2) = some r → r.over = true) → exec (.rwait g f) s = .next ((s.report e f).advance e).progress)) ∧
    (Issuable s e g (.rcancel g f) →
      (s.receive? e (e.s f.f1) = none → exec (.rcancel g f) s = .next (s.advance e).progress) ∧
      (∀ r, s.receive? e (e.s f.f1) = some r → Out.Leads (exec (.rcancel g f) s) (fun t => SameMemory s t ∧
        ThreadsBecome s t e (fun _ x => x.next) ∧ ∃ w', t.world? e.gang.world = some w' ∧ w'.posted.length = w.posted.length ∧
          (r.status = .posted → ∀ x ∈ w'.posted, x.id = r.id → x.status ≠ .posted))))) ∧
  ((statusWords none).1.getLsbD 27 = true ∧
  ∀ (r : Receive) (k : Nat) (trunc aborted : Bool) (tag : Word) (src : BitVec 13),
    (r.status = .posted ∨ (∃ m, r.status = .matched m) → statusWords (some r) = (0, 0, 0)) ∧
    (r.status = .cancelled → statusWords (some r) = (0x04000000, 0, 0)) ∧
    (r.status = .complete k trunc aborted tag src → k < 2 ^ 24 →
      (statusWords (some r)).1.toNat % 2 ^ 24 = k ∧ (statusWords (some r)).1.getLsbD 24 = true ∧
      (statusWords (some r)).1.getLsbD 25 = trunc ∧ (statusWords (some r)).1.getLsbD 28 = aborted ∧
      (statusWords (some r)).2.1 = tag ∧ (statusWords (some r)).2.2 = src.setWidth 32))

/-- A landing puts each byte of the payload at its place in the receive's tensor, or in the backing line of a page
that is not resident, changes no other byte but the pager's, and completes the receive; one cut short completes it as
aborted with the bytes that landed; a send is complete once its receiver has read it, and stops where it was refused.
-/
def Obligations.LandingsComplete : Prop :=
  (∀ (s p : State) (world rcv : Nat) (r : Receive) (m : Message), s.matched? world rcv = some (r, m) → m.op = none → m.size ≤ r.cap →
    s.depsMet r.deps = true → s.landPages r (List.range m.size) = some p →
    Out.Leads (exec (.receiveLandingComplete world rcv) s) (fun t => t.threads = s.threads ∧
      (∃ w', t.world? world = some w' ∧ ∀ x ∈ w'.posted, x.id = rcv → x.status = .complete m.size false false m.tag m.src) ∧
      (∀ k ∈ t.locks, k.owner ≠ rcv) ∧ (∀ k, memGet t.mem k =
        memGet (p.landBytes r (((List.range m.size).zip m.data).filter (fun b => !r.landed.contains b.1))).mem k) ∧
      ∀ k, (∀ b, b < m.size → k ≠ spadKey r.wg (r.place b)) →
        (∀ wg line b j, s.backKey (s.worldOfWg wg) line = some b → j < 1024 → k ≠ b + j) → memGet t.mem k = memGet s.mem k)) ∧
  (∀ (s : State) (wg a : Nat) (b : Byte), (∀ x, s.stt? wg (a / 1024) = some x → x.present = true) →
    ∀ k, memGet (s.landByte wg a b).mem k = if k = spadKey wg a then b else memGet s.mem k) ∧
  (∀ (s : State) (world rcv : Nat) (landed : List Nat) (r : Receive) (m : Message), s.matched? world rcv = some (r, m) → m.op = none →
    s.depsMet r.deps = true → (∀ b ∈ landed, b < m.data.length) → r.landed ⊆ landed → r.mayLand (min m.size r.cap) landed = true →
    s.landPages r (landed.filter (fun b => !r.landed.contains b)) ≠ none →
    Out.Leads (exec (.landingAborted world rcv landed) s) (fun t => t.threads = s.threads ∧
      ∃ w', t.world? world = some w' ∧ ∀ x ∈ w'.posted, x.id = rcv →
        x.status = .complete landed.length (decide (r.cap < m.size)) true m.tag m.src)) ∧
  (∀ (s : State) (op : Nat) (o : EngineOp) (eth : Bool) (dest : Nat) (tag : Word) (n : Nat), s.engine? op = some o →
    o.kind = .send eth dest tag n → o.stage = .running → (∀ x ∈ s.nextMet o, ∀ a b c d, x.met ≠ .deny a b c d) →
    (eth = false → dest = s.me → o.acked = 1 → Out.Leads (exec (.sendComplete op false) s) (fun t =>
      SameMemory s t ∧ t.engines = s.engines.filter (fun x => !(x.id == op)) ∧ ∀ k ∈ t.locks, k.owner ≠ op)) ∧
    (eth = true ∨ (dest ≠ s.me ∧ s.answers o.world dest = true) → (s.readWords (s.launchOfOp o) o (o.todo.flatMap Seg.each)).2.2.2 = none →
      Out.Leads (exec (.sendComplete op false) s) (fun t =>
        SameMemory s t ∧ t.engines = s.engines.filter (fun x => !(x.id == op)) ∧ ∀ k ∈ t.locks, k.owner ≠ op)) ∧
    (eth = true ∨ (dest ≠ s.me ∧ s.answers o.world dest = true) → Out.Leads (exec (.sendComplete op true) s) (fun t => ∃ o', t.engine? op = some o' ∧ o'.stage = .stopped)))

/-! Launches, queues, counters, pre-emption and the fault queue (spec 10, 14, 18). -/

/-- launch takes a slot of a queue with room and counts until its packet is read, and is held by a full queue; cancel
of the own gang discards it, of an instance that is over has no effect, and traps ILLEGAL for a malformed word; hcwait
goes on when its counter meets the threshold, is over or free and earlier acquires are done, and answers it, and is
held before. -/
def Obligations.LaunchCancelAndWait : Prop :=
  (∀ (g : Guard) (f : FMC) (s : State) (e : Env) (w : World), Issuable s e g (.launch g f) → s.someLane e g → s.world? e.gang.world = some w →
    let va := e.pair f.f1 % 2 ^ 56
    let x := (e.s f.f2).toNat
    let q := listGet Queue.new w.queues x
    x < 8 → va % 64 = 0 → e.l.shadowOf = none →
    (∀ a ∈ regionsOf va 256, (s.permit e.g.core e.gang.world (Config.dieOfCore e.g.core) a .read).1.clear) →
    (∀ n ∈ e.g.members, s.released e.w.id n 3 = true) →
    (∀ k ∈ s.packetKeys e va, s.errs k = false) →
    (q.qsize ≠ 0 → (q.qtail - q.qhead).toNat = 2 ^ q.qsize.toNat → exec (.launch g f) s = .next (s.hold e)) ∧
    (∀ p, q.qsize ≠ 0 → (q.qtail - q.qhead).toNat ≠ 2 ^ q.qsize.toNat → s.submitAway e va q = false → (s.notePacket e (s.lanes e g) va).submit e.gang.world x (s.packetBytes e va) = some p →
      Out.Leads (exec (.launch g f) s) (fun t => t.mem = p.mem ∧
        (∃ w', t.world? e.gang.world = some w' ∧ listGet Queue.new w'.queues x = { q with qtail := q.qtail + 1 } ∧
          ∀ n, n ≠ x → listGet Queue.new w'.queues n = listGet Queue.new w.queues n) ∧
        (∃ y : Flight, t.flights = s.flights ++ [y] ∧ y.tids = s.lanes e g ∧ y.inLd = false ∧ y.kind = .submit e.gang.world x q.qtail) ∧
        ThreadsBecome s t e (fun n x => if n ∈ s.lanes e g then ({ x with st := x.st + 1 }).next else x.next)))) ∧
  (∀ (g : Guard) (f : FMC) (s : State) (e : Env), Issuable s e g (.cancel g f) → s.someLane e g →
    let x := (e.s f.f1).toNat
    let level := x / 2 ^ 28
    let id := x % 2 ^ 16
    ((x / 2 ^ 16 % 2 ^ 12 ≠ 0 ∨ 5 ≤ level) → exec (.cancel g f) s = .next (s.takeTrap e { code := 0x01 })) ∧
    (x / 2 ^ 16 % 2 ^ 12 = 0 → level < 5 → (∀ n ∈ s.lanes e g, s.released e.w.id n 3 = true) → e.l.shadowOf = none →
      (level = 0 → Out.Leads (exec (.cancel g f) s) (fun t => SameMemory s t ∧
        (∀ y, t.gang? e.gang.id = some y → y.status = .discarding ∧ y.cancelled = true) ∧
        (∀ y ∈ t.groups, y.wg ∉ s.wgsOf e.gang.id) ∧ (∀ y ∈ t.engines, y.gang ≠ e.gang.id) ∧
        ∀ y ∈ t.flights, y.wg ∈ s.wgsOf e.gang.id → y.kind.isLoad = false)) ∧
      (level ≠ 0 → exec (.cancel g f) s = .next ((s.advance e).cancelInstance e.gang.world level id).progress ∧
        let c := (s.advance e).ctr e.gang.world id
        (c.status = 0 ∨ c.level ≠ level ∨ (3 ≤ c.status ∧ c.status ≤ 6) →
          (s.advance e).cancelInstance e.gang.world level id = s.advance e)))) ∧
  (∀ (g : Guard) (f : FMC) (s : State) (e : Env), Issuable s e g (.hcwait g f) → s.someLane e g → (e.s f.f2).toNat < 4096 →
    let c := s.ctr e.gang.world (e.s f.f2).toNat
    let k := (e.s f.f3).toNat
    let done : Prop := 3 ≤ c.status ∧ c.status ≤ 6
    let go : Prop := c.status = 0 ∨ (4 ≤ c.status ∧ c.status ≤ 6) ∨ (if k = 0 then done else k ≤ c.count)
    (¬ go → exec (.hcwait g f) s = .next (s.hold e)) ∧
    (go → (∀ n ∈ s.lanes e g, s.mayAcquire e.w.id n (f.cl.toNat % 8) = true) → Out.Leads (exec (.hcwait g f) s) (fun t => SameMemory s t ∧ ThreadsBecome s t e (fun _ x => x.next) ∧
      t.flights = s.flights ∧ ∀ w, s.wg? e.w.id = some w → ∃ w', t.wg? e.w.id = some w' ∧ ∀ h q, w'.s h q = if q = 511 then 0
        else if q = f.f1 ∧ h ∈ e.g.hgrps then BitVec.ofNat 32 (c.status * 2 ^ 28 + c.code * 2 ^ 20 + c.count % 2 ^ 20) else w.s h q)))

/-- A doorbell that fits its queue sets the tail and one that does not leaves every queue; one through another world's
function is dropped and counted; each comes behind the posted writes of its function (the model's reading, assumption
61); a peer's doorbell needs the queue's table; a queue's base and size are taken only while it is empty; the driver
brings a counter into use; a notify fires at once where its counter meets it, and clears V. -/
def Obligations.DoorbellsCountersAndNotifies : Prop :=
  (∀ (s : State) (world prio : Nat) (v : BitVec 16) (w : World), s.powered = true → prio < 8 → s.world? world = some w → s.postedDone world = true →
    let q := listGet Queue.new w.queues prio
    let rings (t : State) : Prop := SameMemory s t ∧ t.threads = s.threads ∧ ∃ w', t.world? world = some w' ∧
      listGet Queue.new w'.queues prio = { q with qtail := v } ∧ ∀ n, n ≠ prio → listGet Queue.new w'.queues n = listGet Queue.new w.queues n
    let fits : Prop := q.qsize ≠ 0 ∧ (v - q.qhead).toNat ≤ 2 ^ q.qsize.toNat
    let same (t : State) : Prop := t.threads = s.threads ∧ ∃ w', t.world? world = some w' ∧ w'.queues = w.queues
    (fits → Out.Leads (exec (.qtail ⟨world, world⟩ prio v) s) rings) ∧
    (¬ fits → Out.Leads (exec (.qtail ⟨world, world⟩ prio v) s) same) ∧
    (∀ fn, fn ≠ world → s.postedDone fn = true → Out.Leads (exec (.qtail ⟨fn, world⟩ prio v) s) (fun t => SameMemory s t ∧ t.threads = s.threads ∧
      t.worlds = s.worlds ∧ t.iod.bellDropped = s.iod.bellDropped + 1)) ∧
    (∀ chip from', s.checker.admitted.contains chip = true → chip ≠ s.me → s.liveWorld from' = true → s.peerAdmits from' chip = true →
      s.portRoom 0 from' (fun _ => true) = true →
      (s.liveWorld world = true → q.acl.any (fun e => aclAdmits e chip from') = true → fits → Out.Leads (exec (.peerDoorbell world prio chip from' v) s) rings) ∧
      (s.liveWorld world = false ∨ q.acl.any (fun e => aclAdmits e chip from') = false → Out.Leads (exec (.peerDoorbell world prio chip from' v) s) same)) ∧
    (∀ size x, q.qhead ≠ q.qtail → exec (.queueConfigWrite world prio size x) s = .next s.progress) ∧
    (∀ x, q.qhead = q.qtail → (x = 0 ∨ (4 ≤ x.toNat ∧ x.toNat ≤ 16)) →
      Out.Leads (exec (.queueConfigWrite world prio true x) s) (fun t => SameMemory s t ∧ ∃ w', t.world? world = some w' ∧
        listGet Queue.new w'.queues prio = { q with qsize := x.setWidth 5 })) ∧
    (∀ x, q.qhead = q.qtail → x.toNat < 2 ^ 56 → x.toNat % 64 = 0 →
      Out.Leads (exec (.queueConfigWrite world prio false x) s) (fun t => SameMemory s t ∧ ∃ w', t.world? world = some w' ∧
        listGet Queue.new w'.queues prio = { q with qbase := x.setWidth 56 }))) ∧
  (∀ (s : State) (world id : Nat) (v : BitVec 128) (w : World), s.powered = true → s.world? world = some w → s.postedDone world = true → id < 4096 →
    2 ≤ (ctrOf v).level → (ctrOf v).level ≤ 4 → (ctrOf v).status ≤ 6 → v.toNat % 2 ^ 48 = 0 →
    Out.Leads (exec (.completionCounterWrite world id v) s) (fun t => SameMemory s t ∧ t.threads = s.threads ∧ t.ctr world id = ctrOf v ∧
      ∀ n, n ≠ id → t.ctr world n = s.ctr world n)) ∧
  (∀ (s : State) (world n : Nat) (v : BitVec 64) (w : World), s.powered = true → s.world? world = some w → n < 16 →
    (∀ fn, fn ≠ world → s.postedDone fn = true → exec (.notifyWrite ⟨fn, world⟩ n v) s = .next s.progress) ∧ (s.postedDone world = true →
    let met := v.getLsbD 63 && (s.ctr world (v.extractLsb' 32 16).toNat).meets (v.extractLsb' 0 32).toNat
    Out.Leads (exec (.notifyWrite ⟨world, world⟩ n v) s) (fun t => SameMemory s t ∧ t.threads = s.threads ∧ (met = true → (world, 2 + n) ∈ t.iod.irqs) ∧
      ∃ w', t.world? world = some w' ∧ (listGet 0 w'.notify n).toNat = if met then v.toNat % 2 ^ 63 else v.toNat)))

/-- A packet that meets every check is accepted and waits, and one that fails is rejected; the dispatcher places the
next gang whole on one cluster of its die, or halts a running gang of lower priority for it or for a saved gang that
is kept out, and places the gangs of a co-resident launch in one step; a workgroup whose threads have ended and whose
work has drained is freed; a gang that is over is gone and counted; with its last gang, or with none to place, a
launch ends: its counter is complete, its parent counts it, and its open versions go to their tests (stated where no
version waits to fire and no shadow run exists); the driver cancels a launch (stated where no version is pending). -/
def Obligations.AcceptancePlacementAndEnds : Prop :=
  ((∀ (s : State) (world prio : Nat) (w : World) (b : List Byte), s.powered = true → prio < 8 → s.liveWorld world = true →
    s.world? world = some w →
    let q := listGet Queue.new w.queues prio
    let va := (q.qbase.toNat + 256 * (q.qhead.toNat % 2 ^ q.qsize.toNat)) % 2 ^ 56
    let l := packetLaunch s.nextId world prio va (wordsOf64 32 b)
    q.qsize ≠ 0 → q.qhead ≠ q.qtail → s.readBlock world va 256 = .bytes b →
    let a := s.readBlock world l.argp (4 * l.argn)
    let m : Block := if l.membp = 0 then .bytes [] else s.readBlock world l.membp 48
    (∀ args memb, s.acceptCode world l true = none → a = .bytes args → m = .bytes memb →
      Out.Leads (exec (.launchAccept world prio) s) (fun t => SameMemory s t ∧ t.threads = s.threads ∧
        ∃ n : Launch, t.launches = s.launches ++ [n] ∧ n.world = world ∧ n.prio = prio ∧ n.status = .waiting ∧ n.attempt = 0 ∧
          (∀ k, k ≠ 4 → k < 32 → n.word k = l.word k) ∧ n.memb = memb ∧
          ((t.ctr world l.lctr).status = 1 ∧ (t.ctr world l.lctr).count = 0 ∧ (t.ctr world l.lctr).level = 1) ∧
          ∃ w', t.world? world = some w' ∧ listGet Queue.new w'.queues prio =
            { q with qhead := q.qhead + 1, order := q.order ++ [n.id], wait := none })) ∧
    (∀ code, s.acceptCode world l (decide (a ≠ .denied ∧ m ≠ .denied)) = some code →
      Out.Leads (exec (.launchAccept world prio) s) (fun t => t.launches = s.launches ∧ t.threads = s.threads ∧
        ∃ w', t.world? world = some w' ∧ listGet Queue.new w'.queues prio = { q with qhead := q.qhead + 1, wait := none }))) ∧
  (∀ (s : State) (id die entry index : Nat) (l : Launch) (w : World), s.powered = true → s.launch? id = some l → s.world? l.world = some w →
    id ∈ w.heads → s.savedGangs id = [] → l.status ≠ .ended → l.cancelled = false → l.gangs ≠ 0 → l.cores = false → s.depsState l = .met →
    s.worldOpen l.world = true → s.dieOpen l.world die = true → s.served die = some l → l.nextGang die = some (entry, index) →
    Out.Leads (exec (.gangPlacement id die) s) (fun t => SameMemory s t ∧ ∃ x : Gang, t.gangs = s.gangs ++ [x] ∧ x.launch = id ∧
      x.world = l.world ∧ x.index = index ∧ x.die = die ∧ x.status = .running ∧
      ∃ ws : List Workgroup, t.wgs = s.wgs ++ ws ∧ ws.length = l.perGang ∧ ∀ y ∈ ws, y.gang = x.id ∧ y.launch = id ∧
        y.threads = l.threads ∧ (∀ c ∈ y.cores, c / 4 = x.cluster) ∧ y.acc = [] ∧ y.bars = List.replicate 16 Barrier.new)) ∧
  (∀ (s p : State) (id die : Nat) (l : Launch) (w : World), s.powered = true → s.launch? id = some l → s.world? l.world = some w →
    (s.savedGangs id = [] ∧ id ∈ w.heads ∧ l.status ≠ .ended ∧ l.cancelled = false ∧ l.gangs ≠ 0 ∧ s.depsState l = .met ∧
      s.worldOpen l.world = true ∧ s.dieOpen l.world die = true ∧ s.placeNext l die = none) ∨ (s.savedGangs id ≠ [] ∧ s.keptOut l die = true) →
    s.preemptFor l die = some p →
    Out.Leads (exec (.gangPlacement id die) s) (fun t => SameMemory s t ∧ t.threads = s.threads ∧ t.wgs = s.wgs ∧ ∃ x ∈ s.gangs,
      x.status = .running ∧ (∀ y, s.launch? x.launch = some y → y.prio < l.prio) ∧ ∀ y ∈ t.gangs, y.id = x.id → y.status ≠ .running)) ∧
  (∀ (s : State) (wg : Nat) (w : Workgroup) (x : Gang), s.wg? wg = some w → s.gang? w.gang = some x → x.status ≠ .discarding →
    (∀ n, n < w.threads → (s.thread wg n).status = .ended) → (∀ o ∈ s.tiles, o.wg ≠ wg) → s.writesSpad wg = false →
    Out.Leads (exec (.workgroupEnd wg) s) (fun t => SameMemory s t ∧ (∀ y, y ∈ t.wgs ↔ y ∈ s.wgs ∧ y.id ≠ wg) ∧
      (∀ y ∈ t.groups, y.wg ≠ wg) ∧ (∀ y ∈ t.stt, y.wg ≠ wg) ∧ t.gang? w.gang = some { x with unit := x.unit + 1 })) ∧
  (∀ (s : State) (gang : Nat) (x : Gang) (l : Launch), s.gang? gang = some x → s.drains gang = true → s.launch? x.launch = some l →
    (x.status = .discarding ∨ (x.unit = x.size ∧ ∀ o ∈ s.engines, o.gang ≠ gang)) →
    l.status ≠ .ended → l.cancelled = false → s.checker.rerun = [] → l.ended + 1 ≠ l.gangs →
    Out.Leads (exec (.gangEnd gang) s) (fun t => SameMemory s t ∧ (∀ y, y ∈ t.gangs ↔ y ∈ s.gangs ∧ y.id ≠ gang) ∧
      (∀ y ∈ t.wgs, y.gang ≠ gang) ∧ ∃ l', t.launch? x.launch = some l' ∧ l'.ended = l.ended + 1 ∧ l'.status = l.status)) ∧
  (∀ (s : State) (id : Nat) (l : Launch), s.launch? id = some l → l.shadowOf = none → s.versions = [] → s.checker.rerun = [] →
    Out.Leads (exec (.driverCancel id) s) (fun t => SameMemory s t ∧
      (l.status = .ended → ∀ y ∈ t.launches, y ∈ s.launches) ∧
      (l.status ≠ .ended → (∀ y ∈ t.gangs, y.launch = id → y.status = .discarding) ∧ (∀ y ∈ t.engines, ∀ x ∈ s.gangs, x.launch = id → y.gang ≠ x.id) ∧
        ∀ y, t.launch? id = some y → y.cancelled = true ∧ y.bad = some (4, 0))))) ∧
  (let alone (s : State) (l : Launch) : Prop := s.checker.rerun = [] ∧ (∀ y ∈ s.launches, y.shadowOf = none) ∧
    (∀ v ∈ s.versions, v.state ≠ .waitingV) ∧ l.wkind ≠ 3 ∧ l.bad = none ∧ l.cancelled = false ∧ l.status ≠ .ended ∧ l.counted = false ∧
    l.lctr < 4096 ∧ (s.ctr l.world l.lctr).level = 1
  let ends (s t : State) (l : Launch) (starts : Bool) : Prop := SameMemory s t ∧
    (t.ctr l.world l.lctr).status = 3 ∧ (t.ctr l.world l.lctr).code = 0 ∧ (∀ y ∈ t.launches, y.id = l.id → y.status = .ended) ∧
    (∀ v ∈ s.versions, ∃ v' ∈ t.versions, v'.id = v.id ∧ v'.num = v.num ∧ v'.words = v.words ∧
      v'.state = if v.launch = l.id ∧ v.state = .openV then .testing else v.state) ∧
    (let held := s.ctr l.world l.gctr
     let up := if starts && l.status == .waiting && held.status == 1 then { held with status := 2 } else held
     l.gctr < 4096 → up.status ≠ 0 → up.level = 2 → up.over = false → up.count + 1 < 2 ^ 32 → s.ctrEnd l.world l.gctr = CtrEnd.new →
     t.ctr l.world l.gctr = if up.count + 1 = up.target then { up with count := up.count + 1, status := 3, code := 0 }
       else { up with count := up.count + 1 })
  (∀ (s : State) (gang : Nat) (x : Gang) (l : Launch), s.gang? gang = some x → s.drains gang = true → s.launch? x.launch = some l →
    (x.status = .discarding ∨ (x.unit = x.size ∧ ∀ o ∈ s.engines, o.gang ≠ gang)) → x.cancelled = false → alone s l →
    l.ended + 1 = l.gangs → (∀ y ∈ s.gangs, y.launch = l.id → y.id = gang) → (s.ctr l.world l.lctr).count + 1 < 2 ^ 32 →
    Out.Leads (exec (.gangEnd gang) s) (fun t => ends s t l false ∧ (t.ctr l.world l.lctr).count = (s.ctr l.world l.lctr).count + 1)) ∧
  (∀ (s : State) (id die : Nat) (l : Launch) (w : World), s.powered = true → s.launch? id = some l → s.world? l.world = some w →
    id ∈ w.heads → s.savedGangs id = [] → s.depsState l = .met → s.worldOpen l.world = true → l.gangs = 0 → alone s l →
    Out.Leads (exec (.gangPlacement id die) s) (fun t => ends s t l true ∧ t.gangs = s.gangs ∧ t.threads = s.threads)) ∧
  (∀ (s : State) (id die : Nat) (l : Launch) (w : World), s.powered = true → s.launch? id = some l → s.world? l.world = some w →
    id ∈ w.heads → s.savedGangs id = [] → l.status ≠ .ended → l.cancelled = false → l.gangs ≠ 0 → l.cores = true → s.depsState l = .met →
    s.worldOpen l.world = true → s.dieOpen l.world die = true → s.served die = some l →
    Out.Leads (exec (.gangPlacement id die) s) (fun t => SameMemory s t ∧ ∃ gs : List Gang, t.gangs = s.gangs ++ gs ∧
      gs.map (fun g => (g.index, g.die)) = l.allGangs ∧ ∀ g ∈ gs, g.launch = id ∧ g.world = l.world ∧ g.status = .running)))

/-- A pre-emption halts its gangs at an instruction boundary; a quiet halted gang is saved under its world's next
sequence number with every thread's pc, predicates and stack, every vector register below its block's VLIVE or written
in it, every scalar register below the SLIVE of a block of its home group or written, and every accumulator, barrier
and ring; it resumes in its launch's turn on a cluster that fits, once what its old cluster saw is at its home, with
every gang of a co-resident launch, unless a saggar is not the last saved or, in a protected world, not the one that
was sealed, which takes its world to ERROR; a trapped gang resumes, threads at trap at the next word; a marked access
takes the places that its pages have then and counts again, and an ldp whose page is out takes 0 and ends. -/
def Obligations.HaltSaveAndResume : Prop :=
  (∀ (s : State) (tg : Target),
    let p (x : Gang) : Prop := match tg with | .gang id => x.id = id | .launch id => x.launch = id | .die d => x.die = d
    s.powered = true → (∃ x ∈ s.gangs, p x ∧ x.status = .running) →
    Out.Leads (exec (.preemptRequest tg) s) (fun t => SameMemory s t ∧ t.threads = s.threads ∧ t.wgs = s.wgs ∧
      ∀ x ∈ t.gangs, p x → x.status ≠ .running)) ∧
  (∀ (s p : State) (gang : Nat) (x : Gang), s.gang? gang = some x → (x.status = .halting ∨ x.status = .trapped ∨ x.status = .stalled) →
    s.quiet x = true → s.savePages (s.wgsOf gang) = some p →
    let header (w : Workgroup) (n : Nat) : Option Header := p.blockHeader w (s.worldOfWg w.id) (s.thread w.id n)
    Out.Leads (exec (.contextSaveComplete gang) s) (fun t => SameButBacking s t ∧
      (∃ y, t.gang? gang = some y ∧ y.status = .saved ∧ y.waits = (x.waits || x.status == .trapped) ∧
        ∀ w, s.world? x.world = some w → ∃ img, y.saggar = some img ∧ img.seq = w.saveSeq + 1 ∧
          y.sealed = some img ∧ (w.prot = true → img.tag = Config.saveTag x.world img.seq)) ∧
      (∀ wg ∈ s.wgsOf gang, (∀ y ∈ t.groups, y.wg = wg → y.core = 4096) ∧ (∀ y ∈ t.stt, y.wg = wg → y.core = 4096 ∧ y.present = false)) ∧
      (∀ wg n, (t.thread wg n).pc = (s.thread wg n).pc ∧ (t.thread wg n).preds = (s.thread wg n).preds ∧
        (t.thread wg n).stack = (s.thread wg n).stack ∧ (t.thread wg n).owed = (s.thread wg n).owed ∧
        (n < 8192 → ∀ r : BitVec 8, (t.thread wg n).v r = (s.thread wg n).v r ∨
          ((s.thread wg n).left ≠ 0 ∧ r.toNat ∉ (s.thread wg n).written ∧
            ∃ w h, s.wg? wg = some w ∧ header w n = some h ∧ h.vlive.toNat ≤ r.toNat))) ∧
      ∀ wg w, s.wg? wg = some w → ∃ w', t.wg? wg = some w' ∧ w'.acc = w.acc ∧ w'.cvs = w.cvs ∧ w'.bars = w.bars ∧ w'.rings = w.rings ∧
        w'.recs = w.recs ∧ ∀ (hg : Nat) (r : BitVec 9), w'.s hg r = w.s hg r ∨
          (hg * 512 + r.toNat ∉ w.swritten ∧ ∀ i, i < 32 → (s.thread wg (hg * 32 + i)).status ≠ .ended → 384 ≤ r.toNat ∨
            (s.thread wg (hg * 32 + i)).left ≠ 0 ∧ ∃ h, header w (hg * 32 + i) = some h ∧ h.slive.toNat ≤ r.toNat))) ∧
  (∀ (s : State) (gang cluster : Nat) (x : Gang) (l : Launch) (w : World), s.gang? gang = some x → s.launch? x.launch = some l →
    s.world? x.world = some w →
    let others := s.together l x
    s.powered = true → x.resumable = true → (∀ y ∈ others, y.resumable = true) → w.stalled = false → w.halted = false →
    s.clusterOpen x.world cluster = true → s.worldOpen x.world = true → s.leftBehind x cluster = false →
    (s.saggarOk x = false ∨ (∃ y ∈ others, s.saggarOk y = false) → Out.Leads (exec (.gangResume gang cluster) s) (fun t =>
      ∃ w', t.world? x.world = some w' ∧ w'.error = true ∧ w'.keys = false ∧ ∀ y ∈ t.gangs, y.world = x.world → y.status ≠ .running)) ∧
    (s.saggarOk x = true → (∀ y ∈ others, s.saggarOk y = true) →
      (∃ y, s.served (Config.dieOfCore (cluster * 4)) = some y ∧ y.id = l.id) → (s.resumeGang x l cluster).bind (fun t => t.resumeRest l others) ≠ none →
      Out.Leads (exec (.gangResume gang cluster) s) (fun t =>
        (∀ wg n, (t.thread wg n).pc = (s.thread wg n).pc ∧ (t.thread wg n).stack = (s.thread wg n).stack) ∧
        ((∀ f ∈ s.flights, f.gang = gang ∨ (∃ y ∈ others, f.gang = y.id) → f.replay = false) → SameMemory s t ∧ t.threads = s.threads ∧
          (∃ y, t.gang? gang = some y ∧ y.status = .running ∧ y.cluster = cluster ∧ y.die = Config.dieOfCore (cluster * 4) ∧ y.bars = x.bars ∧
            y.unit = x.unit) ∧ (l.cores = true → ∀ y ∈ t.gangs, y.launch = l.id → y.status = .running))))) ∧
  (∀ (s : State) (gang : Nat) (x : Gang), s.gang? gang = some x → x.skip.Nodup →
    let resumed (t : State) : Prop := ∀ wg n,
      (t.thread wg n).pc = (if threadKey wg n ∈ x.skip then (s.thread wg n).pc + 8 else (s.thread wg n).pc) ∧
      ∀ r : BitVec 8, (t.thread wg n).v r = (s.thread wg n).v r ∨
        ∃ f ∈ s.flights, f.gang = gang ∧ f.pred ≠ none ∧ f.wg = wg ∧ n ∈ f.tids ∧ ∃ y ∈ f.elems, y.reg = r.toNat
    let nothing : Prop := ∀ f ∈ s.flights, f.gang = gang → f.replay = false ∧ (f.poisoned = false ∨ f.taken = false)
    (x.status = .trapped → Out.Leads (exec (.trapResume gang) s) (fun t => resumed t ∧ ∃ y, t.gang? gang = some y ∧
      y.skip = [] ∧ (nothing → SameMemory s t ∧ y.status = s.runStatus x ∧ y.waits = false))) ∧
    (x.status = .saved → x.waits = true → Out.Leads (exec (.trapResume gang) s) (fun t => resumed t ∧ ∃ y, t.gang? gang = some y ∧
      y.status = .saved ∧ y.skip = [] ∧ (nothing → SameMemory s t ∧ y.waits = false)))) ∧
  (∀ (s : State) (g : Gang) (img : Saggar) (w : World), s.world? g.world = some w → g.saggar = some img → w.prot = true →
    g.sealed ≠ some img → s.saggarOk g = false) ∧
  (∀ (s : State) (f : Flight), f.spad = false → (s.replayCond f).clear → s.reissueMiss f (s.replayCond f).elems ≠ .reject →
    let t := s.reissue f
    SameMemory s t ∧ t.gangs = s.gangs ∧ (f.uncounted = false → t.threads = s.threads) ∧
      (f.uncounted = true → s.wgs.any (fun w => w.id == f.wg) = true → ∀ u ∈ f.tids, t.thread f.wg u = (s.thread f.wg u).issued f.inLd) ∧
      ∀ y ∈ t.flights, y.id = f.id → y.replay = false ∧ y.elems = (s.replayCond f).elems ∧ (f.uncounted = true → y.uncounted = false)) ∧
  (∀ (s : State) (f : Flight) (p : Nat), f.spad = false → f.pred = some p → (s.replayCond f).absent = none → (s.replayCond f).traps = [] →
    (s.replayCond f).pages ≠ [] → s.wgs.any (fun w => w.id == f.wg) = true →
    let t := s.reissue f
    SameMemory s t ∧ t.worlds = s.worlds ∧ t.flights = s.flights.filter (fun y => !(y.id == f.id)) ∧
      ∀ u ∈ f.tids, (t.thread f.wg u).preds = ((s.thread f.wg u).setP (BitVec.ofNat 4 p) false).preds ∧
        ∀ r : BitVec 8, (t.thread f.wg u).v r = if (∃ x ∈ f.elems, x.reg = r.toNat) then 0 else (s.thread f.wg u).v r)

/-- A page comes back into a frame with the bytes of its backing line, and a dirty page goes there; a closed record
loses OPEN and nothing else; records are consumed; tlbinv removes exactly the entries it names from every TLB; sttinv
discards a slot's pages, which then read zeros, or writes them back; both count until what used them has performed. -/
def Obligations.PagesAndTranslations : Prop :=
  ((∀ (s p : State) (wg page n : Nat) (x : SttEntry) (w : Workgroup) (g : Gang), s.stt? wg page = some x → s.wg? wg = some w →
    s.gang? w.gang = some g → g.status ≠ .saved → x.present = false → s.makeRoom w.home wg = .frame n p →
    Out.Leads (exec (.pageInComplete wg page) s) (fun t => t.threads = s.threads ∧
      (∃ y, t.stt? wg page = some y ∧ y.present = true ∧ y.frame = n ∧ y.used = s.clock) ∧
      (∀ k, x.backed = true → s.backKey (s.worldOfWg wg) x.bline = some k → ∀ j, j < 1024 →
        memGet t.mem (spadKey wg (page * 1024 + j)) = memGet p.mem (k + j)) ∧
      ∀ k, (∀ j, j < 1024 → k ≠ spadKey wg (page * 1024 + j)) →
        (∀ wg line b j, s.backKey (s.worldOfWg wg) line = some b → j < 1024 → k ≠ b + j) → memGet t.mem k = memGet s.mem k)) ∧
  (∀ (s : State) (world : Nat) (index : BitVec 16) (w : World) (k : Nat), s.powered = true → s.world? world = some w → w.fqSlot index = some k →
    s.postedDone 0 = true → (index - w.fqhead).toNat < w.fqCount →
    Out.Leads (exec (.fqclose world index) s) (fun t => t.threads = s.threads ∧ t.worlds = s.worlds ∧
      (∀ j, ¬(k ≤ j ∧ j < k + 32) → memGet t.mem j = memGet s.mem j) ∧
      memNat t.mem k 32 = if memNat s.mem k 32 / 2 ^ 13 % 2 = 1 then memNat s.mem k 32 - 2 ^ 13 else memNat s.mem k 32)) ∧
  (∀ (s : State) (world : Nat) (v : BitVec 16) (w : World), s.powered = true → s.world? world = some w → s.postedDone 0 = true →
    Out.Leads (exec (.fqhead world v) s) (fun t => (∀ wg n, (t.thread wg n).pc = (s.thread wg n).pc) ∧
      ((∀ f ∈ s.flights, f.replay = false) → t.threads = s.threads) ∧ (∃ w', t.world? world = some w' ∧ w'.fqhead = v) ∧
      (w.waiting = [] → (w.stalled = true → ∀ f ∈ s.flights, f.replay = false) → SameMemory s t ∧
        (∃ w', t.world? world = some w' ∧ w'.fqtail = w.fqtail ∧ w'.stalled = false ∧ w'.waiting = []) ∧
        (w.stalled = true → ∀ y ∈ t.gangs, y.world = world → y.waits = false → y.status ≠ .stalled))))) ∧
  (∀ (g : Guard) (f : FY) (s : State) (e : Env), s.someLane e g → (∀ n ∈ s.lanes e g, s.released e.w.id n 3 = true) →
    let settles (t : State) : Prop := (∃ y : Flight, t.flights = s.flights ++ [y] ∧ y.kind = .settle ∧ y.tids = s.lanes e g ∧ y.inLd = false) ∧
      ThreadsBecome s t e (fun n x => if n ∈ s.lanes e g then ({ x with st := x.st + 1 }).next else x.next)
    (Issuable s e g (.tlbinv g f) → (f.prn = 0 → e.pair f.sa % 65536 = 0) →
      Out.Leads (exec (.tlbinv g f) s) (fun t => SameMemory s t ∧ settles t ∧ ∀ x, x ∈ t.tlb ↔ x ∈ s.tlb ∧ tlbHit e f x = false)) ∧
    (Issuable s e g (.sttinv g f) → sttCore e f ≤ 799 → s.slotBusy (sttCore e f) (sttSlot e f) = false →
      let mine (x : SttEntry) : Prop := x.core = sttCore e f ∧ x.wslot = sttSlot e f
      (f.prn = 1 → Out.Leads (exec (.sttinv g f) s) (fun t => settles t ∧ (∀ x, x ∈ t.stt ↔ x ∈ s.stt ∧ ¬ mine x) ∧
        (∀ x ∈ s.stt, mine x → ∀ j, j < 1024 → memGet t.mem (spadKey x.wg (x.page * 1024) + j) = 0) ∧
        ∀ k, (∀ x ∈ s.stt, mine x → ¬(spadKey x.wg (x.page * 1024) ≤ k ∧ k < spadKey x.wg (x.page * 1024) + 1024)) → memGet t.mem k = memGet s.mem k)) ∧
      (f.prn ≠ 1 → (∀ x ∈ s.stt, mine x → x.present = true → x.dirty = true → x.backed = true ∧ s.backKey (s.worldOfWg x.wg) x.bline ≠ none) →
        Out.Leads (exec (.sttinv g f) s) (fun t => SameButBacking s t ∧ settles t ∧ ∀ x ∈ t.stt, mine x → x.present = false))) ∧
    (∀ (x : SttEntry) (k : Nat), x.dirty = true → x.backed = true → s.backKey (s.worldOfWg x.wg) x.bline = some k → isDevice k = true →
      ∃ t, s.evict x = some t ∧ ∀ j, j < 1024 → memGet t.mem (k + j) = memGet s.mem (spadKey x.wg (x.page * 1024) + j)))

/-! Witness records, the checker, system instructions, the host and power (spec 14, 15, 18). -/

/-- witb opens a record of a legal shape whose slots serve it (where the A slot has no step, FMT_SLOT comes before the
shape), witp names a part, wite submits a record with every part it needs under a ticket no untested record of the
world has, and gver sets the sub-index of its threads and answers the version; each traps as the spec says, but that
wite traps ILLEGAL where no record is open is assumption 48 (R352 gives that trap for witp). -/
def Obligations.WitnessRecords : Prop :=
  let keeps (s t : State) (e : Env) (slot : Nat) (r : Option WitRec) : Prop := SameMemory s t ∧ t.flights = s.flights ∧
    ThreadsBecome s t e (fun _ x => x.next) ∧ ∃ w, t.wg? e.w.id = some w ∧ w.rec? slot = r ∧ (∀ n, n ≠ slot → w.rec? n = e.w.rec? n) ∧ w.acc = e.w.acc
  ∀ (g : Guard) (f : FMC) (s : State) (e : Env), s.someLane e g →
    let slot := witSlot f
    (Issuable s e g (.witb g f) →
      let r := witNew e f (verNum e.l (s.thread e.w.id e.g.leader).sub)
      let a := e.l.slot r.slotA
      let b := e.l.slot r.slotB
      (e.w.rec? slot ≠ none ∨ (r.hasStep a = true ∧ r.shapeOk a = false) → exec (.witb g f) s = .next (s.takeTrap e { code := 0x01 })) ∧
      (e.w.rec? slot = none → r.hasStep a = false ∨ (r.shapeOk a = true ∧ r.slotsOk a b = false) → exec (.witb g f) s = .next (s.takeTrap e { code := 0x10 })) ∧
      (e.w.rec? slot = none → r.shapeOk a = true → r.slotsOk a b = true →
        Out.Leads (exec (.witb g f) s) (fun t => keeps s t e slot (some r) ∧ ∀ w, t.wg? e.w.id = some w → w.sregs = e.w.sregs))) ∧
    (Issuable s e g (.witp g f) →
      let role := f.cl.toNat % 16
      let va := e.pair f.f1 % 2 ^ 56
      (e.w.rec? slot = none → exec (.witp g f) s = .next (s.takeTrap e { code := 0x01 })) ∧
      ∀ r, e.w.rec? slot = some r →
        (roleFits r.kind role = false → exec (.witp g f) s = .next (s.takeTrap e { code := 0x01 })) ∧
        (roleFits r.kind role = true → va % 4 ≠ 0 → exec (.witp g f) s = .next (s.takeTrap e { code := 0x24, daddr := va })) ∧
        (roleFits r.kind role = true → va % 4 = 0 → Out.Leads (exec (.witp g f) s) (fun t => ∃ r', keeps s t e slot (some r') ∧
          r'.part? role = some ⟨role, BitVec.ofNat 56 va, e.s f.f2⟩ ∧ (∀ n, n ≠ role → r'.part? n = r.part? n) ∧ r'.kind = r.kind ∧
          r'.m = r.m ∧ r'.n = r.n ∧ r'.k = r.k ∧ r'.q = r.q ∧ r'.h = r.h ∧ r'.version = r.version))) ∧
    (Issuable s e g (.wite g f) →
      (e.w.rec? slot = none → exec (.wite g f) s = .next (s.takeTrap e { code := 0x01 })) ∧
      ∀ r, e.w.rec? slot = some r →
        ((∃ n ∈ r.needs (e.l.slot r.slotA) (e.l.slot r.slotB), r.part? n = none) → exec (.wite g f) s = .next (s.takeTrap e { code := 0x01 })) ∧
        ((∀ n ∈ r.needs (e.l.slot r.slotA) (e.l.slot r.slotB), r.part? n ≠ none) → (∀ n ∈ s.lanes e g, s.released e.w.id n 3 = true) →
          (s.checker.subs.filter (fun x => x.world == e.l.world)).length < 4096 →
          Out.Leads (exec (.wite g f) s) (fun t => keeps s t e slot none ∧ ∃ ticket : Word,
            (∀ x ∈ s.checker.subs, x.world = e.l.world → x.ticket ≠ ticket) ∧
            (∀ w, t.wg? e.w.id = some w → ∀ h q, w.s h q = if q = 511 then 0 else if q = f.f1 ∧ h ∈ e.g.hgrps then ticket else e.w.s h q) ∧
            (e.l.shadowOf = none → ∃ y : SubRec, t.checker.subs = s.checker.subs ++ [y] ∧ y.world = e.l.world ∧ y.launch = e.l.id ∧
              y.ticket = ticket ∧ y.body = r)))) ∧
    (Issuable s e g (.gver g f) →
      let sub := e.s f.f1
      (256 ≤ sub.toNat → exec (.gver g f) s = .next (s.takeTrap e { code := 0x01 })) ∧
      (sub.toNat < 256 → Out.Leads (exec (.gver g f) s) (fun t => SameMemory s t ∧
        ThreadsBecome s t e (fun _ x => if x.guarded g then { x with sub := sub.setWidth 8 }.next else x.next) ∧
        ∃ w, t.wg? e.w.id = some w ∧ ∀ h q, w.s h q = if q = 511 then 0
          else if q = f.f2 ∧ h ∈ e.g.hgrps then e.l.vl ++ sub.setWidth 8 else e.w.s h q)))

/-- A version, of whichever attempt of its launch, whose records all pass is left to its upstream; none is tested
while a die that wrote it is in a reset; one that fails a test is discarded and its writers' scores rise by 32; runs
whose digests agree are matched, and runs that differ are decided by a third on a die that neither used. -/
def Obligations.TestsAndComparedRuns : Prop :=
  (∀ (s : State) (world version : Nat) (v : Version) (l : Launch), s.powered = true →
    s.versions.find? (fun v => v.id == version && v.world == world) = some v → (s.launch? v.launch).map (·.asOf v.attempt) = some l → v.state = .testing →
    v.shadow = false → v.passedTest = false →
    (s.writerReset v = true → exec (.witnessTestResult world version) s = .refused .notEnabled) ∧ (s.writerReset v = false →
    let rs := s.checker.subs.filter (fun r => r.world == world && r.body.version == v.num)
    ((∀ r ∈ rs, s.testRec l r.body = .pass) → l.wkind ≠ 3 → s.coveredBy l v (rs.map (·.body)) = true →
      Out.Leads (exec (.witnessTestResult world version) s) (fun t => (∀ r ∈ t.checker.subs, ¬(r.world = world ∧ r.body.version = v.num)) ∧
        ∀ x ∈ t.versions, x.id = version → x.passedTest = true)) ∧
    ((∀ r ∈ rs, s.testRec l r.body ≠ .hold ∧ ∀ k, s.testRec l r.body ≠ .absent k) → (∃ r ∈ rs, ∃ n i, s.testRec l r.body = .fail n i) →
      Out.Leads (exec (.witnessTestResult world version) s) (fun t => (∀ x ∈ t.versions, x.id ≠ version) ∧
        ∀ d, d < 8 → (t.die d).score.toNat = if v.writers.getLsbD d then min 255 ((s.die d).score.toNat + 32) else (s.die d).score.toNat)))) ∧
  (∀ (s : State) (launch : Nat) (x l : Launch), s.powered = true → s.launch? launch = some x →
    (x.shadowOf.bind s.launch?).map (·.asOf x.attempt) = some l → x.shadowOf = some l.id → x.attempt = l.attempt →
    x.run = 2 → x.status = .ended → s.gangsOf launch = [] → l.status = .ended →
    (∀ y ∈ s.launches, ¬(y.shadowOf = some l.id ∧ y.attempt = l.attempt ∧ y.run = 3)) →
    let all := l.wkind == 3
    let first := (s.held l).filter (fun v => (v.dual || all) && !v.matched)
    let mask := match s.world? l.world with | some w => w.diemask | none => 0
    first ≠ [] →
    (x.bad = none → x.sum = l.sum → Out.Leads (exec (.shadowRunComplete launch) s) (fun t =>
      (∀ y ∈ t.versions, y.id ∈ first.map (·.id) → y.matched = true) ∧ ∀ y ∈ t.versions, ¬(y.launch = launch ∧ y.shadow = true))) ∧
    (x.bad ≠ none ∨ x.sum ≠ l.sum → (∃ d ∈ dieList (mask &&& s.liveMask), d ∉ l.dies ∧ d ∉ x.dies) →
      Out.Leads (exec (.shadowRunComplete launch) s) (fun t => SameMemory s t ∧ t.versions = s.versions ∧ ∃ y d, y ∈ t.launches ∧
        y.shadowOf = some l.id ∧ y.run = 3 ∧ y.status = .waiting ∧ y.shareOn = List.replicate 8 d ∧ d ∉ l.dies ∧ d ∉ x.dies)))

/-- Reported errors, tag failures and time change the failure scores by the amounts of the spec, and a stack at the
threshold is retired; a warm reset halts, resets and re-admits, in three firings, and an activation is recorded and
then switches, where the spec's table has one event for each (the model's choice, assumption 21); a slice that is
reset or leaves service writes its host lines back (assumption 66); a split fences the stacks outside the group that
lives, or stops the package without a command processor; measurements are reported and switched whole. -/
def Obligations.ScoresResetsAndSplits : Prop :=
  (let scores (s t : State) (d n : Nat) : Prop := (t.die d).score.toNat = min 255 ((s.die d).score.toNat + n) ∧
    ∀ k, k ≠ d → (t.die k).score = (s.die k).score
  (∀ (s : State) (die : Nat), s.powered = true → die < 8 → (s.die die).live = true →
    Out.Leads (exec (.checkerEventReport die .corrected) s) (fun t => SameButHost s t ∧ t.threads = s.threads ∧ scores s t die 1) ∧
    Out.Leads (exec (.tagFailure (.ucie die)) s) (fun t => SameButHost s t ∧ scores s t die 4 ∧
      (t.die die).linkFails = min 3 ((s.die die).linkFails + 1)) ∧
    (∀ k, isDevice k = true → keyDie k = die → keyAbsent k = false → Out.Leads (exec (.checkerEventReport die (.line k)) s) (fun t =>
      SameButHost s t ∧ t.threads = s.threads ∧ lineOf k ∈ t.poison ∧ scores s t die 16)) ∧
    (∀ gang x, s.gang? gang = some x → x.placedOn die = true →
      Out.Leads (exec (.checkerEventReport die (.gangState gang)) s) (fun t => scores s t die 16 ∧ ∀ y ∈ t.gangs, y.die = die → y.status ≠ .running) ∧
      Out.Leads (exec (.checkerEventReport die (.subArray gang)) s) (fun t => scores s t die 16 ∧ ∀ y ∈ t.gangs, y.die = die → y.status ≠ .running))) ∧
  (∀ (s : State) (d n : Nat), d < 8 → (s.die d).live = true → s.garrun.thresh.toNat ≤ min 255 ((s.die d).score.toNat + n) →
    ((s.addScore d n).die d).retired = true ∧ ((s.die d).retired = false → ∀ x ∈ (s.addScore d n).gangs, x.die = d → x.status ≠ .running)) ∧
  (∀ (s : State), s.powered = true → s.checker.decayed + 2 ^ 29 ≤ s.clock →
    Out.Leads (exec .scoreDecay s) (fun t => SameMemory s t ∧ t.threads = s.threads ∧ ∀ d, d < s.dies.length →
      (t.die d).score.toNat = (s.die d).score.toNat - 1)) ∧
  (∀ (s : State) (n : Nat) (x : Link), s.powered = true → s.link? n = some x → x.up = true →
    Out.Leads (exec (.tagFailure (.qormon n)) s) (fun t => SameMemory s t ∧ t.threads = s.threads ∧
      ∃ y, t.link? n = some y ∧ (x.tagFails < 2 → y = { x with tagFails := x.tagFails + 1, replays := x.replays + 1 }) ∧ (2 ≤ x.tagFails → y.up = false)))) ∧
  ((∀ (s : State) (d : Nat), s.powered = true → d < 8 → (s.die d).live = true → (s.die d).excluded = false → (s.die d).fenced = false →
    ((s.die d).resetting = false → (s.die d).resetReq = false → Out.Leads (exec (.warmReset d) s) (fun t => SameMemory s t ∧ t.threads = s.threads ∧
      (t.die d).resetReq = true ∧ ∀ x ∈ t.gangs, s.resets d x = true → x.status ≠ .running)) ∧
    ((s.die d).resetting = false → (s.die d).resetReq = true → (∀ x ∈ s.gangs, s.resets d x = true → x.status = .saved) →
      Out.Leads (exec (.warmReset d) s) (fun t => SameButHost s t ∧ t.threads = s.threads ∧ (t.die d).resetting = true ∧ (t.die d).resetAt = s.clock ∧
        (∀ h, h ∈ t.iod.hostLines ↔ h ∈ s.iod.hostLines ∧ ∀ x ∈ s.iod.hostLines, x.die = d → h.line ≠ x.line) ∧
        (∀ x ∈ t.tlb, x.place ≠ 1000 + d ∧ (x.place < 800 → Config.dieOfCore x.place ≠ d)) ∧ ∀ x ∈ t.llcDirty, keyDie (x * 128) ≠ d)) ∧
    ((s.die d).resetting = true → Out.Leads (exec (.warmReset d) s) (fun t =>
      (s.versions = [] → s.checker.rerun = [] → (∀ x ∈ s.launches, x.shadowOf = none) → SameMemory s t ∧ t.threads = s.threads) ∧
      (t.die d).resetting = false ∧ (t.die d).resetReq = false ∧ (t.die d).halted = false ∧ ∀ x ∈ t.gangs, x.die = d → x.heldDie = false))) ∧
  (∀ (s : State) (parts : List Split) (p : Split), s.powered = true → splitOk s.stacks parts = true → parts.find? (·.iod) = some p →
    let lives (d : Nat) : Bool := s.stacks.contains d && p.dies.getLsbD d && p.audit.getLsbD d
    (lives 0 = false → lives 4 = false → Out.Leads (exec (.linkSplitDecision parts) s) (fun t => t.powered = false ∧ t.threads = [] ∧
      ∀ n w, t.world? n = some w → w.error = true ∧ w.keys = false)) ∧
    ((lives 0 = true ∨ lives 4 = true) → Out.Leads (exec (.linkSplitDecision parts) s) (fun t => t.powered = true ∧
      (∀ d ∈ s.stacks, (t.die d).fenced = !lives d) ∧
      ∀ n w, s.world? n = some w → (∃ d ∈ s.stacks, lives d = false ∧ w.diemask.getLsbD d = true) → ∃ w', t.world? n = some w' ∧ w'.error = true))) ∧
  (∀ (s : State), s.powered = true →
    Out.Leads (exec .spdmMeasurementRequest s) (fun t => SameMemory s t ∧ t.iod.replies = s.iod.replies ++ [.spdm s.checker.meas s.checker.pending.isSome]) ∧
    (∀ v, s.checker.pending = none → Out.Leads (exec (.firmwareActivationSwitch v) s) (fun t => t.checker.pending = some v ∧ t.checker.meas = s.checker.meas)) ∧
    (∀ v, s.checker.pending = some v → Out.Leads (exec (.firmwareActivationSwitch v) s) (fun t => t.checker.pending = none ∧ t.checker.meas = v))))

/-- rdpr reads a privileged register; wrpr writes one that is unlocked, within its field and keeps worlds apart, reads
back, and changes no other world; an illegal write traps ILLEGAL; a word that is no instruction traps ILLEGAL. -/
def Obligations.PrivilegedRegisters : Prop :=
  (∀ (g : Guard) (f : FY) (s : State) (e : Env), s.someLane e g → (∀ n ∈ s.lanes e g, s.released e.w.id n 3 = true) →
    let n := f.prn.toNat
    let world := n / 128 % 256
    let r := n % 128
    let v := (e.s f.sa).toNat
    (Issuable s e g (.rdpr g f) → Out.Leads (exec (.rdpr g f) s) (fun t => SameMemory s t ∧ t.worlds = s.worlds ∧
      ThreadsBecome s t e (fun _ x => x.next) ∧ ∃ w, t.wg? e.w.id = some w ∧
        ∀ h q, w.s h q = if q = 511 then 0 else if q = f.sa ∧ h ∈ e.g.hgrps then s.readPriv n else e.w.s h q)) ∧
    (Issuable s e g (.wrpr g f) →
      (s.privIllegal n v = true → exec (.wrpr g f) s = .next (s.takeTrap e { code := 0x01 })) ∧
      (s.privIllegal n v = false → s.world? world = none → exec (.wrpr g f) s = .next (s.advance e).progress) ∧
      (∀ w, s.privIllegal n v = false → s.world? world = some w → r ≠ 0 → r ∉ [0x1A, 0x1B, 0x1C, 0x1E] →
        Out.Leads (exec (.wrpr g f) s) (fun t => SameButHost s t ∧ (r ≠ 2 → SameMemory s t) ∧ ThreadsBecome s t e (fun _ x => x.next) ∧
          t.world? world = some (w.setReg r v) ∧ (r < 0x24 → r ∉ [5, 6, 7] → (t.readPriv n).toNat = v) ∧
          ∀ k, k ≠ world → t.world? k = s.world? k)) ∧
      (∀ w, s.privIllegal n v = false → s.world? world = some w → r = 0 → w.error = false →
        Out.Leads (exec (.wrpr g f) s) (fun t => SameMemory s t ∧ ThreadsBecome s t e (fun _ x => x.next) ∧
          ∃ w', t.world? world = some w' ∧ w'.state.toNat = v % 4 ∧ w'.halted = false ∧ w'.ptroot = w.ptroot)))) ∧
  (∀ w : World, w.reg 0 = w.state.toNat + 4 * w.error.toNat + 8 * w.prot.toNat + 16 * w.stalled.toNat) ∧
  (∀ (s : State), (s.readPriv 0x8001).toNat = s.iod.chip.toNat ∧
    ∀ d, d < 8 → (s.readPriv 0x8000).getLsbD d = ((s.die d).live && !(s.die d).retired && !(s.die d).excluded && !(s.die d).fenced)) ∧
  (∀ (s : State) (e : Env) (w : Code), s.issuer = some e → exec (.unassignedEncoding w) s = .next (s.takeTrap e { code := 0x01 }))

/-- R314: Code is privileged exactly when it is fetched in world 0 from a page with SYS; a system instruction that is
not privileged code traps PRIV, unless it meets the lower code ILLEGAL; finj traps PRIV outside test mode even in
privileged code. -/
def Obligations.PrivilegedCode : Prop :=
  (∀ (s : State) (e : Env), s.privileged e = true ↔ e.gang.world = 0 ∧
    ∃ tr, s.translate e.g.core 0 (s.iaddr e).toNat = .ok tr ∧ pteSys tr.leaf.pte = true) ∧
  (∀ (g : Guard) (f : FY) (i : Instr) (s : State) (e : Env), s.issuer = some e → i.legal = true → s.fallBad e i = none → s.privileged e = false →
    ((i = .rdpr g f ∨ i = .tlbinv g f) ∨ (i = .wrpr g f ∧ s.privIllegal f.prn.toNat (e.s f.sa).toNat = false) ∨
     (i = .sttinv g f ∧ sttCore e f ≤ 799 ∧ s.slotBusy (sttCore e f) (sttSlot e f) = false) ∨
     (i = .finj g f ∧ s.finjIllegal e f = false) ∨ (i = .halt g f ∧ haltWordOk (e.s f.sa) = true)) →
    exec i s = .next (s.takeTrap e { code := 0x03 })) ∧
  (∀ (g : Guard) (f : FY) (s : State) (e : Env), s.issuer = some e → Instr.legal (.finj g f) = true → s.fallBad e (.finj g f) = none →
    s.garrun.test = false → s.finjIllegal e f = false → exec (.finj g f) s = .next (s.takeTrap e { code := 0x03 }))

/-- finj arms an injection or raises a score as its kind says, and traps ILLEGAL, PROT where kind 1 names no resident
device word, or ALIGN; halt halts its target, which stays halted until it is released: while the marks stand no new
gang of a halted world or on a halted die is placed and no gang that holds a halt is resumed; GHALTREL releases the
halts of a world or a die. -/
def Obligations.InjectionsAndHalts : Prop :=
  (∀ (g : Guard) (f : FY) (s : State) (e : Env), Issuable s e g (.finj g f) → s.someLane e g →
    let x := e.s f.sa
    let d := x.toNat % 8
    let world := x.toNat / 256 % 256
    let va := e.pair f.sb % 2 ^ 56
    (s.finjIllegal e f = true → exec (.finj g f) s = .next (s.takeTrap e { code := 0x01 })) ∧
    (s.finjIllegal e f = false → f.prn = 1 → s.finjKey e f = none → exec (.finj g f) s = .next (s.takeTrap e { code := 0x23, daddr := va })) ∧
    (s.finjIllegal e f = false → (f.prn = 1 → s.finjKey e f ≠ none) → va % 4 ≠ 0 →
      exec (.finj g f) s = .next (s.takeTrap e { code := 0x24, daddr := va })) ∧
    (s.finjIllegal e f = false → e.pair f.sb % 4 = 0 →
      (∀ k, f.prn = 1 → s.finjKey e f = some k → Out.Leads (exec (.finj g f) s) (fun t => SameMemory s t ∧
        t.injects = s.injects ++ [⟨world, d, k, e.s f.sc⟩] ∧ ThreadsBecome s t e (fun _ x => x.next))) ∧
      (f.prn = 2 → Out.Leads (exec (.finj g f) s) (fun t => SameButHost s t ∧ (t.die d).score.toNat = min 255 ((s.die d).score.toNat + 1) ∧
        ThreadsBecome s t e (fun _ x => x.next))) ∧
      (f.prn = 3 → Out.Leads (exec (.finj g f) s) (fun t => (t.die d).score.toNat = min 255 ((s.die d).score.toNat + 16))) ∧
      (f.prn = 4 → Out.Leads (exec (.finj g f) s) (fun t => SameButHost s t ∧ (t.die d).score.toNat = min 255 ((s.die d).score.toNat + 4) ∧
        ThreadsBecome s t e (fun _ x => x.next))))) ∧
  (∀ (g : Guard) (f : FY) (s : State) (e : Env), Issuable s e g (.halt g f) → s.someLane e g →
    (∀ n ∈ s.lanes e g, s.released e.w.id n 3 = true) →
    let x := (e.s f.sa).toNat
    let n := x % 2 ^ 28
    let halts (p : Gang → Prop) : Prop := Out.Leads (exec (.halt g f) s) (fun t => SameMemory s t ∧ ThreadsBecome s t e (fun _ x => x.next) ∧
      ∀ y ∈ t.gangs, p y → y.status ≠ .running)
    (x = 0 → halts (fun y => y.id = e.gang.id) ∧ Out.Leads (exec (.halt g f) s) (fun t => ∀ y ∈ t.gangs, y.id = e.gang.id → y.held = true)) ∧
    (x / 2 ^ 28 = 1 → n < 256 → halts (fun y => y.world = n) ∧
      Out.Leads (exec (.halt g f) s) (fun t => ∀ w, t.world? n = some w → w.halted = true)) ∧
    (x / 2 ^ 28 = 2 → n < 8 → halts (fun y => y.die = n) ∧ Out.Leads (exec (.halt g f) s) (fun t => (t.die n).halted = true)) ∧
    ((x / 2 ^ 28 = 0 ∧ n ≠ 0) ∨ (x / 2 ^ 28 = 1 ∧ 256 ≤ n) ∨ (x / 2 ^ 28 = 2 ∧ 8 ≤ n) ∨ 3 ≤ x / 2 ^ 28 →
      exec (.halt g f) s = .next (s.takeTrap e { code := 0x01 }))) ∧
  (∀ (s : State) (v : BitVec 64) (n : Nat), s.powered = true → s.postedDone 0 = true →
    (v.toNat = 2 ^ 28 + n → n < 256 → Out.Leads (exec (.ghaltrel v) s) (fun t => SameMemory s t ∧ (∀ w, t.world? n = some w → w.halted = false) ∧
      ∀ y ∈ t.gangs, y.world = n → y.held = false)) ∧
    (v.toNat = 2 * 2 ^ 28 + n → n < 8 → Out.Leads (exec (.ghaltrel v) s) (fun t => SameMemory s t ∧ (t.die n).halted = false ∧
      ∀ y ∈ t.gangs, y.die = n → y.heldDie = false))) ∧
  (∀ (s : State) (launch die : Nat) (l : Launch), s.launch? launch = some l → s.savedGangs launch = [] → s.depsState l ≠ .cancel →
    ((∀ w, s.world? l.world = some w → w.halted = true) → exec (.gangPlacement launch die) s = .refused .notEnabled) ∧
    (l.gangs ≠ 0 → (s.die die).halted = true → exec (.gangPlacement launch die) s = .refused .notEnabled)) ∧
  (∀ (s : State) (gang cluster : Nat) (x : Gang), s.gang? gang = some x →
    (x.held = true ∨ x.heldDie = true ∨ (∀ w, s.world? x.world = some w → w.halted = true) ∨ (s.die (Config.dieOfCore (cluster * 4))).halted = true) →
    exec (.gangResume gang cluster) s = .refused .notEnabled)

/-- The aperture answers reads, takes posted writes and acknowledges them route by route, and the window is read,
written and served an AtomicOp; a failed request is unsupported; a world is created with initial registers, locked
when it has no work, started, stopped once its work is gone, and destroyed. -/
def Obligations.HostAndWorlds : Prop :=
  ((∀ (s : State) (world offset n : Nat) (ide : Bool) (w : World), s.powered = true → s.world? world = some w → 0 < n → offset + n ≤ 2 ^ 32 →
    (∀ x ∈ s.iod.hostWrites, x.world ≠ world) →
    let va := (w.apbase.toNat * 2 ^ 32 + offset) % 2 ^ 56
    let keys := s.apKeys world va n
    (w.prot = true → ide = false → exec (.hostApertureRead world offset n ide) s = .next (s.reply (.unsupported world)).progress) ∧
    ((w.prot = false ∨ ide = true) → (∀ x, s.apFault world va n .read = some x →
      Out.Leads (exec (.hostApertureRead world offset n ide) s) (fun t => t.threads = s.threads ∧
        t.iod.replies = s.iod.replies ++ [.unsupported world])) ∧
      (s.apFault world va n .read = none → (∀ k ∈ keys, keyAbsent k = false ∧ s.errs k = false) →
        Out.Leads (exec (.hostApertureRead world offset n ide) s) (fun t => SameMemory s t ∧ t.threads = s.threads ∧
          t.iod.replies = s.iod.replies ++ [.data world (keys.map s.homeByte)])))) ∧
  (∀ (s : State) (world offset : Nat) (data : List Byte) (relaxed ide : Bool) (w : World), s.powered = true → s.world? world = some w → data ≠ [] →
    offset + data.length ≤ 2 ^ 32 →
    let va := (w.apbase.toNat * 2 ^ 32 + offset) % 2 ^ 56
    let keys := s.apKeys world va data.length
    (w.prot = true → ide = false → exec (.hostApertureWrite world offset data relaxed ide) s = .next (s.reply (.unsupported world)).progress) ∧
    ((w.prot = false ∨ ide = true) → s.apFault world va data.length .write = none → (∀ k ∈ keys, keyAbsent k = false) →
      Out.Leads (exec (.hostApertureWrite world offset data relaxed ide) s) (fun t => SameMemory s t ∧ t.threads = s.threads ∧
        ∃ y : HostWrite, t.iod.hostWrites = s.iod.hostWrites ++ [y] ∧ y.world = world ∧ y.keys = keys.zip data ∧
          (y.sent = true ↔ relaxed = true ∨ ∀ x ∈ s.iod.hostWrites, x.world ≠ world)))) ∧
  (∀ (s : State) (id die : Nat) (w : HostWrite), s.powered = true → s.iod.hostWrites.find? (fun w => w.id == id) = some w → w.sent = true →
    let mine := w.keys.filter (fun k => routeOf k.1 == die)
    mine ≠ [] → (∀ x ∈ mine, s.outside w.world x.1 = false) →
    Out.Leads (exec (.iodWriteAcknowledged ⟨id, die⟩) s) (fun t => t.threads = s.threads ∧
      (mine = w.keys → ∀ y ∈ t.iod.hostWrites, y.id ≠ id) ∧
      (mine ≠ w.keys → ∀ y ∈ t.iod.hostWrites, y.id = id → y.keys = w.keys.filter (fun k => routeOf k.1 != die)) ∧
      (∀ k, k ∉ mine.map (·.1) → t.homeByte k = s.homeByte k) ∧
      ((mine.map (·.1)).Nodup → ∀ x ∈ mine, s.refuses x.1 = false → t.homeByte x.1 = x.2))) ∧
  (∀ (s : State) (world offset : Nat) (w : World), s.powered = true → s.world? world = some w →
    let base := if world = 0 then 0 else w.winbase.toNat * 65536
    let size := if world = 0 then 2 ^ 23 else w.winsize.toNat * 65536
    let k := keyWindow + base + offset
    (∀ (d : List Byte) n, d ≠ [] → offset + d.length ≤ size → base + offset + d.length ≤ 2 ^ 23 →
      Out.Leads (exec (.hostWindowAccess world offset n (some d)) s) (fun t => t.threads = s.threads ∧
        (∀ j, j < d.length → t.homeByte (k + j) = listGet 0 d j) ∧ ∀ j, ¬(k ≤ j ∧ j < k + d.length) → t.homeByte j = s.homeByte j)) ∧
    (∀ n, 0 < n → offset + n ≤ size → base + offset + n ≤ 2 ^ 23 →
      Out.Leads (exec (.hostWindowAccess world offset n none) s) (fun t => SameMemory s t ∧ t.threads = s.threads ∧
        t.iod.replies = s.iod.replies ++ [.data world ((List.range n).map (fun i => s.homeByte (k + i)))])) ∧
    (∀ (op : HostAtomic) (ide : Bool), (∀ x ∈ s.iod.hostWrites, x.world ≠ world) → offset + 4 ≤ size → base + offset + 4 ≤ 2 ^ 23 → k % 4 = 0 →
      s.errs k = false →
      let old : Word := BitVec.ofNat 32 (leNat ((List.range 4).map (fun i => s.homeByte (k + i))))
      Out.Leads (hostAtomicMove s world offset true ide op) (fun t => t.threads = s.threads ∧
        t.iod.replies = s.iod.replies ++ [.data world (natLe 4 old.toNat)] ∧
        (∀ j, j < 4 → t.homeByte (k + j) = listGet 0 (natLe 4 (op.new old).toNat) j) ∧ ∀ j, ¬(k ≤ j ∧ j < k + 4) → t.homeByte j = s.homeByte j)))) ∧
  ((∀ (s : State) (n : Nat), s.powered = true → 1 ≤ n → n < 256 → s.world? n = none →
    Out.Leads (exec (.worldCreate n) s) (fun t => SameMemory s t ∧ t.threads = s.threads ∧ t.world? n = some World.new ∧
      ∀ k, k ≠ n → t.world? k = s.world? k)) ∧
  (World.new.state = 1 ∧ World.new.diemask = 0 ∧ World.new.ptroot = 0 ∧ World.new.qlimit = 0 ∧ World.new.prot = false ∧
    (∀ i, i < 16 → listGet 0 World.new.owntab i = 0x1FF) ∧ ∀ p, p < 8 → (listGet Queue.new World.new.queues p).qsize = 0) ∧
  (∀ (s : State) (n : Nat) (w : World), s.powered = true → 1 ≤ n → n < 256 → s.world? n = some w →
    (w.state = 1 → w.error = false → s.noLaunch n w = true → s.garrun.test = false →
      Out.Leads (exec (.lockInterface n) s) (fun t => SameMemory s t ∧ t.threads = s.threads ∧ t.world? n = some { w with state := 2, prot := true, keys := true })) ∧
    ((w.state ≠ 1 ∨ w.error = true ∨ s.noLaunch n w = false ∨ s.garrun.test = true) → exec (.lockInterface n) s = .next s.progress) ∧
    (w.state = 2 → w.prot = true → w.error = false →
      Out.Leads (exec (.startInterface n) s) (fun t => SameMemory s t ∧ t.threads = s.threads ∧ t.world? n = some { w with state := 3 })) ∧
    (¬(w.state = 2 ∧ w.prot = true ∧ w.error = false) → exec (.startInterface n) s = .next s.progress) ∧
    (((w.prot = true ∧ (w.state = 2 ∨ w.state = 3)) ∨ w.error = true) → s.worldIdle n = true →
      Out.Leads (exec (.stopInterface n) s) (fun t => ∃ w', t.world? n = some w' ∧ w'.state = 1 ∧ w'.prot = false ∧ w'.keys = false ∧ w'.error = false)) ∧
    (¬((w.prot = true ∧ (w.state = 2 ∨ w.state = 3)) ∨ w.error = true) → exec (.stopInterface n) s = .next s.progress) ∧
    (s.worldIdle n = true → Out.Leads (exec (.worldDestroy n) s) (fun t => t.world? n = none ∧ (∀ v ∈ t.versions, v.world ≠ n) ∧
      ∀ l ∈ t.launches, l.world ≠ n))))

/-- Each register takes a legal value behind world 0's posted writes (assumption 61), and drops an illegal one; power
caps are quartered while the package is throttled, and one written then is kept whole with a quarter applied (the
model's reading, assumption 31); a mailbox command, over when its event is (the model's choice, assumption 21), sets
the fire ring's base, size or head or ends test injections, tells whether it was refused and raises its vector
(effects on the ring stated where no version is pending). -/
def Obligations.GarrunRegistersAndMailbox : Prop :=
  (∀ (s : State) (v : BitVec 64), s.postedDone 0 = true →
    let legal : Prop := v &&& 0xFF01 = v ∧ 16 ≤ (v.extractLsb' 8 8).toNat
    (legal → Out.Leads (exec (.gpolicy v) s) (fun t => SameButHost s t ∧ t.garrun.thresh = v.extractLsb' 8 8 ∧
      t.garrun.all = (if s.garrun.ready then s.garrun.all else v.getLsbD 0))) ∧
    (¬ legal → exec (.gpolicy v) s = .next s.progress)) ∧
  (∀ (s : State) (v : BitVec 64), s.powered = true → s.postedDone 0 = true →
    (v.toNat < 2 → (∀ x ∈ s.worlds, x.2.prot = false) → exec (.gtest v) s = .next { s with garrun := { s.garrun with test := v == 1 } }.progress) ∧
    ((∃ x ∈ s.worlds, x.2.prot = true) → exec (.gtest v) s = .next s.progress) ∧
    Out.Leads (exec (.grtdata v) s) (fun t => SameMemory s t ∧ tabGet 0 s.garrun.grtidx.toNat t.iod.routing = v ∧
      ∀ n, n ≠ s.garrun.grtidx.toNat → tabGet 0 n t.iod.routing = tabGet 0 n s.iod.routing) ∧
    (∀ g, collOk g = true → Out.Leads (exec (.gcgdata g) s) (fun t => SameMemory s t ∧ assoc s.garrun.gcgidx.toNat t.iod.coll = some g ∧
      ∀ n, n ≠ s.garrun.gcgidx.toNat → assoc n t.iod.coll = assoc n s.iod.coll)) ∧
    (∀ w, v.toNat < 2 ^ 32 → prnOk s.garrun.gprsel = true → s.privIllegal s.garrun.gprsel.toNat v.toNat = false →
      s.world? (s.garrun.gprsel.toNat / 128 % 256) = some w → s.garrun.gprsel.toNat % 128 ∉ [0, 0x1A, 0x1B, 0x1C, 0x1E] →
      Out.Leads (exec (.gprdata v) s) (fun t => SameButHost s t ∧ (s.garrun.gprsel.toNat % 128 ≠ 2 → SameMemory s t) ∧
        t.world? (s.garrun.gprsel.toNat / 128 % 256) = some (w.setReg (s.garrun.gprsel.toNat % 128) v.toNat))) ∧
    (s.privIllegal s.garrun.gprsel.toNat v.toNat = true → exec (.gprdata v) s = .next s.progress) ∧
    (∀ d, d < 8 → 20 ≤ v.toNat → v.toNat ≤ 600 → Out.Leads (exec (.gpwrcap d v) s) (fun t => SameMemory s t ∧
      (s.garrun.therm = false → (t.die d).pwrcap.toNat = v.toNat) ∧
      (s.garrun.therm = true → (t.die d).pwrcap.toNat = v.toNat / 4 ∧ (listGet 0 t.garrun.caps d).toNat = v.toNat))) ∧
    (∀ d, d < 8 → (v.toNat < 20 ∨ 600 < v.toNat) → exec (.gpwrcap d v) s = .next s.progress) ∧
    (v.toNat < 4096 → exec (.registerWrite .grtidx v) s = .next { s with garrun := { s.garrun with grtidx := v.setWidth 12 } }.progress) ∧
    (∀ n w, s.world? n = some w → s.postedDone n = true → v.toNat < 2 ^ 24 → Out.Leads (exec (.registerWrite (.apbase n) v) s) (fun t => SameMemory s t ∧
      ∃ w', t.world? n = some w' ∧ w'.apbase.toNat = v.toNat)) ∧
    (∀ n p k w, s.world? n = some w → s.postedDone n = true → p < 8 → k < 16 → v.toNat < 2 ^ 32 → Out.Leads (exec (.registerWrite (.acl n p k) v) s) (fun t =>
      SameMemory s t ∧ ∃ w', t.world? n = some w' ∧ (listGet 0 (listGet Queue.new w'.queues p).acl k).toNat = v.toNat))) ∧
  (∀ (s : State) (arg : BitVec 56) (w : World), s.powered = true → s.postedDone 0 = true → s.garrun.busy = false → s.versions = [] → s.checker.rerun = [] →
    let n := (arg.extractLsb' 48 8).toNat
    let done (t : State) (cmd : BitVec 8) : Prop := t.garrun.busy = false ∧ t.garrun.refused = false ∧ t.garrun.last = cmd ∧ (0, 1) ∈ t.iod.irqs
    s.world? n = some w →
    (arg.extractLsb' 40 8 = 0 → arg.extractLsb' 0 4 = 0 → Out.Leads (exec (.fireRingBase arg) s) (fun t => done t 0x01 ∧
      ∃ w', t.world? n = some w' ∧ w'.fire.base = arg.extractLsb' 4 36 ∧ w'.fire.baseSet = true)) ∧
    (4 ≤ arg.toNat % 2 ^ 48 → arg.toNat % 2 ^ 48 ≤ 16 → Out.Leads (exec (.fireRingSize arg) s) (fun t => done t 0x02 ∧
      ∃ w', t.world? n = some w' ∧ w'.fire.size.toNat = arg.toNat % 2 ^ 48 ∧ w'.fire.head = 0 ∧ (w.fire.held = [] → w'.fire.wpos = 0))) ∧
    Out.Leads (exec (.fireRingHead arg) s) (fun t => done t 0x03 ∧ ∃ w', t.world? n = some w' ∧ w'.fire.head = arg.extractLsb' 0 16) ∧
    Out.Leads (exec (.endTestInjections arg) s) (fun t => done t 0x04 ∧ SameMemory s t ∧ ∀ x, x ∈ t.injects ↔ x ∈ s.injects ∧ x.world ≠ n)) ∧
  (∀ (s : State) (arg : BitVec 56) (i : Instr), s.powered = true → s.postedDone 0 = true → s.garrun.busy = false → s.world? (arg.extractLsb' 48 8).toNat = none →
    (i = .fireRingBase arg ∨ i = .fireRingSize arg ∨ i = .fireRingHead arg ∨ i = .endTestInjections arg) →
    Out.Leads (exec i s) (fun t => t.garrun.refused = true ∧ SameMemory s t ∧ t.worlds = s.worlds ∧ t.injects = s.injects))

/-- At 70 degrees every cap is quartered and below 65 restored; at 80 every gang is halted and power removed once all
are saved; deep sleep likewise keeps memory, versions and gangs; loss of the rail loses keys and versions; a cold
start stops at a failing stage or scrubs device memory; a warm start keeps everything or becomes a cold one. The
model's own: a shutdown and a sleep in two firings (assumption 21) with host lines written back (assumption 66); the
rail loss clears training data and admitted peers, and a cold start keeps host memory (assumption 51); a wake judges
each peer's evidence again (assumption 67). -/
def Obligations.PowerAndStarts : Prop :=
  (∀ (s : State) (x : BitVec 16), s.powered = true →
    (1120 ≤ x.toNat → s.garrun.therm = false → Out.Leads (exec (.thermalThrottle x) s) (fun t => SameMemory s t ∧ t.threads = s.threads ∧ t.garrun.therm = true ∧
      ∀ d, d < s.dies.length → (t.die d).pwrcap.toNat = (s.die d).pwrcap.toNat / 4 ∧ listGet 0 t.garrun.caps d = (s.die d).pwrcap)) ∧
    (1120 ≤ x.toNat → s.garrun.therm = true → exec (.thermalThrottle x) s = .next { s with garrun := { s.garrun with temp := x } }.progress) ∧
    (x.toNat < 1040 → s.garrun.therm = true → Out.Leads (exec (.coolantOutletBelow65c x) s) (fun t => SameMemory s t ∧ t.threads = s.threads ∧
      t.garrun.therm = false ∧ ∀ d, d < s.dies.length → d < s.garrun.caps.length → (t.die d).pwrcap = listGet 0 s.garrun.caps d)) ∧
    (1280 ≤ x.toNat → s.checker.draining = false → Out.Leads (exec (.thermalShutdown x) s) (fun t => SameMemory s t ∧ t.checker.draining = true ∧
      ∀ y ∈ t.gangs, y.status ≠ .running)) ∧
    (1280 ≤ x.toNat → s.checker.draining = true → s.allSaved = true → Out.Leads (exec (.thermalShutdown x) s) (fun t => SameButHost s t ∧ t.iod.hostLines = [] ∧
      t.powered = false ∧ t.gangs = s.gangs ∧ t.versions = s.versions ∧ t.worlds = s.worlds))) ∧
  (∀ (s : State),
    (s.powered = true → s.checker.draining = false → Out.Leads (exec .deepSleepEnter s) (fun t => SameMemory s t ∧ t.checker.draining = true ∧
      ∀ y ∈ t.gangs, y.status ≠ .running)) ∧
    (s.powered = true → s.checker.draining = true → s.allSaved = true → Out.Leads (exec .deepSleepEnter s) (fun t => SameButHost s t ∧ t.iod.hostLines = [] ∧
      t.powered = false ∧ t.checker.asleep = true ∧ t.gangs = s.gangs ∧ t.versions = s.versions ∧ t.worlds = s.worlds)) ∧
    (s.powered = false → s.checker.asleep = true → s.checker.keyState = true → Out.Leads (exec .deepSleepWake s) (fun t => SameMemory s t ∧ t.powered = true ∧
      t.checker.draining = false ∧ t.gangs = s.gangs ∧ ∀ n x, n < 32 → s.link? n = some x →
        (x.peer = none ∨ x.shown.any s.checker.accepts = true → t.link? n = some { x with slot := !x.slot, counter := 0, counterIn := 0 }) ∧
        (x.peer ≠ none → x.shown.any s.checker.accepts = false → ∃ y, t.link? n = some y ∧ y.up = false ∧ y.peer = none))) ∧
    (Out.Leads (exec .aonRailLoss s) (fun t => t.versions = [] ∧ t.checker.keyState = false ∧
      t.checker.training = false ∧ t.checker.admitted = [] ∧ (∀ n w, s.world? n = some w → w.prot = true →
        ∃ w', t.world? n = some w' ∧ w'.error = true ∧ w'.keys = false) ∧
      ∀ x ∈ s.worlds, x.2.prot = false → ∀ k ∈ x.2.regionKeys, ∃ n, memGet t.mem k = Config.erased n))) ∧
  (∀ (s : State) (r : BootReport),
    (∀ stage, s.bootStage r = some stage → Out.Leads (exec (.coldStart r) s) (fun t => t.powered = false ∧ t.garrun.ready = false ∧
      t.garrun.stage = stage ∧ (stage.toNat < 3 → t.garrun.failed = 0xFF) ∧ t.threads = [])) ∧
    (s.bootStage r = none → Out.Leads (exec (.coldStart r) s) (fun t => t.powered = true ∧ t.garrun.ready = true ∧ t.garrun.stage = 7 ∧
      t.threads = [] ∧ t.worlds = [(0, World.new)] ∧ t.versions = [] ∧ (∀ k, isDevice k = true → t.homeByte k = 0) ∧
      (∀ k, isHost k = true → t.homeByte k = memGet s.mem k) ∧ ∀ d, d < 8 → (t.die d).live = r.stacksOk.getLsbD d ∧ (t.die d).score = 0))) ∧
  (∀ (s : State) (c : WarmChecks) (r : BootReport), s.powered = false → s.checker.asleep = false →
    let kept : Prop := c.training = true ∧ c.keys = true ∧ c.marker = true ∧ s.checker.training = true ∧ s.checker.keyState = true ∧
      s.checker.marker = true ∧ ∀ d ∈ s.stacks, r.stacksOk.getLsbD d = true
    (¬ kept → exec (.warmStart c r) s = exec (.coldStart r) s) ∧
    (kept → r.firmwareOk = true → r.selfTestOk = true → r.cpOk = true → Out.Leads (exec (.warmStart c r) s) (fun t => SameMemory s t ∧
      t.powered = true ∧ t.garrun.stage = 7 ∧ t.worlds = s.worlds ∧ t.versions = s.versions ∧ t.gangs = s.gangs ∧ t.checker.draining = false)))

/-! The machine: traps, a step, decoding, memory and reset (spec 02, 03, 14, 18). -/

/-- A trap changes no thread, register or version: the gang halts as trapped, and a record with code, address, lanes,
place and instruction goes to the world's fault queue and raises vector 0, or waits at the IOD where there is no room,
and stalls the world beyond 256. An illegal word, a register out of range and a block with no header after it trap
before any effect, the last unless the instruction itself raises the lower code, and pending writes hold the
instruction. -/
def Obligations.TakingATrap : Prop :=
  (∀ (s : State) (e : Env) (i : TrapInfo) (w : World), s.world? e.gang.world = some w → s.gang? e.gang.id = some e.gang →
    let t := s.takeTrap e i
    t.threads = s.threads ∧ t.wgs = s.wgs ∧ t.launches = s.launches ∧ t.tiles = s.tiles ∧ t.versions = s.versions ∧ t.raised = some i.code ∧
    t.gang? e.gang.id = some { e.gang with status := .trapped, haltAt := s.clock } ∧
    (∀ k, w.fqsize ≠ 0 → w.waiting = [] → w.fqCount < w.fqCapacity → w.fqSlot w.fqtail = some k →
      let x := memNat t.mem k 32
      (∀ j, ¬(k ≤ j ∧ j < k + 32) → memGet t.mem j = memGet s.mem j) ∧
      x % 2 ^ 8 = i.code % 2 ^ 8 ∧ x / 2 ^ 8 % 2 = i.mal.toNat ∧ x / 2 ^ 9 % 2 = i.eng.toNat ∧ x / 2 ^ 10 % 2 = i.fetch.toNat ∧
      x / 2 ^ 11 % 2 = i.wr.toNat ∧ x / 2 ^ 14 % 2 ^ 8 = hgrpOf e.g.leader % 2 ^ 8 ∧ x / 2 ^ 22 % 2 ^ 10 = e.g.core % 2 ^ 10 ∧
      x / 2 ^ 32 % 2 ^ 16 = e.l.lctr % 2 ^ 16 ∧ x / 2 ^ 48 % 2 ^ 32 = (laneMask e.g.members).toNat ∧
      x / 2 ^ 80 % 2 ^ 56 = (i.iaddr.getD (s.iaddr e)).toNat ∧ x / 2 ^ 136 % 2 ^ 56 = i.daddr % 2 ^ 56 ∧
      (∃ w', t.world? e.gang.world = some w' ∧ w'.fqtail = w.fqtail + 1 ∧ w'.fqhead = w.fqhead) ∧ (e.gang.world, 0) ∈ t.iod.irqs) ∧
    ((w.fqsize = 0 ∨ w.waiting ≠ [] ∨ w.fqCapacity ≤ w.fqCount) → SameMemory s t ∧
      ∃ w', t.world? e.gang.world = some w' ∧ w'.waiting.length = w.waiting.length + 1 ∧ w'.fqtail = w.fqtail ∧
        (256 ≤ w.waiting.length → w'.stalled = true ∧ ∀ x ∈ t.gangs, x.world = e.gang.world → x.status ≠ .running))) ∧
  (∀ (g : Guard) (i : Instr) (s : State) (e : Env) (body : Env → Out), s.issuer = some e →
    let ops := i.opnds (instrFrags e.l i).1 (instrFrags e.l i).2
    (i.legal = false → issue g i s body = .next (s.takeTrap e { code := 0x01 })) ∧
    (i.legal = true → instrSystem i = false → (∃ o ∈ ops, o.inRange e.l.vregs e.l.acc = false) → s.fallBad e i = none →
      issue g i s body = .next (s.takeTrap e { code := 0x04 })) ∧
    (i.legal = true → ∀ va w, s.fallBad e i = some (va, .word w) → (∀ t, body e = .next t → ∀ n, t.raised = some n → 2 ≤ n) →
      issue g i s body = .next (s.takeTrap e { code := 0x02, daddr := va.toNat, fetch := true })) ∧
    (∀ va w t, s.decodeTrap e i = none → s.fallBad e i = some (va, .word w) → s.raised = none → s.condsKnown e g i = true →
      body e = .next t → t.raised = some 0x01 → issue g i s body = .next t) ∧
    (s.decodeTrap e i = none → s.fallBad e i = none → s.poisonHit e (i.vregs (instrFrags e.l i).1 (instrFrags e.l i).2) i.preds = none →
      s.scoreHold e g i (i.vregs (instrFrags e.l i).1 (instrFrags e.l i).2) i.preds = true → issue g i s body = .next (s.hold e)))

/-- When a partition is to issue, the step takes its ready group with the lowest stamp; where the bytes at the group's
address decode to an instruction the step is exec of it in the state a clock later with the fetch's translation
filled; a word that decodes to nothing traps ILLEGAL; a group at a header enters its block; an event that comes next
is exec of it. Which agent moves next is the model's own (assumption 2). -/
def Obligations.StepRunsDecodedInstruction : Prop :=
  (∀ (s : State) (core part : Nat) (rest : List Move) (g : Group) (e : Env) (tr : Trans), s.agenda = .issue core part :: rest →
    (s.tick (s.issueClocks core part) rest).choose core part = some g →
    let u := (s.tick (s.issueClocks core part) rest).issuing g
    u.issuer = some e →
    (u.clock = s.clock + s.issueClocks core part ∧ u.agenda = rest ∧ u.cur = some g.id ∧ u.mem = s.mem ∧ u.threads = s.threads ∧ u.worlds = s.worlds ∧ u.wgs = s.wgs) ∧
    ((u.thread e.w.id e.g.leader).left = 0 → step s = Out.endIssue (u.blockEntry e)) ∧
    ((u.thread e.w.id e.g.leader).left ≠ 0 → u.translate e.g.core e.gang.world (u.iaddr e).toNat = .ok tr → pteX tr.leaf.pte = true →
      keyAbsent tr.key = false → u.uncrossed tr.key = false →
      (∀ i, decode (BitVec.ofNat 64 (leWord (memBytes u.mem tr.key 8))) = .ok i → step s = Out.endIssue (exec i u)) ∧
      (∀ x, decode (BitVec.ofNat 64 (leWord (memBytes u.mem tr.key 8))) = .error x →
        step s = Out.endIssue (.next (u.takeTrap e { code := 0x01 }))))) ∧
  (∀ (s : State) (core part : Nat) (g : Group), s.choose core part = some g → g ∈ s.groups ∧ g.core = core ∧ g.part = part ∧ s.ready g = true ∧
    s.inScan g = true ∧ ∀ x ∈ s.groups, x.core = core → x.part = part → s.ready x = true → s.inScan x = true → g.stamp ≤ x.stamp) ∧
  (∀ (s : State) (g x : Group), (s.thread g.wg g.leader).left ≠ 0 → x.id = g.id → x.core = g.core → x.part = g.part →
    (s.issuing g).inScan x = false) ∧
  (∀ (s : State) (i : Instr) (rest : List Move), s.agenda = .event i :: rest → step s = exec i { s.tick 1 rest with cur := none }) ∧
  (∀ (gs : List Group) (g : Group), leastStamp gs = some g → g ∈ gs ∧ ∀ x ∈ gs, g.stamp ≤ x.stamp)

/-- Words written out in the spec decode to their instructions with their fields, and a header and opcode 0 decode to
none. -/
def Obligations.DecodeWords : Prop :=
  decode 0x200F070306048000 = .ok (.shflIdx ⟨false, 15⟩ ⟨7, 3, 6, 9, 0, 0, 0⟩) ∧
  decode 0x600F000000080009 = .ok (.mma ⟨false, 15⟩ ⟨0, 0, 0, 8, 0, 0, 0, 0, 9⟩) ∧
  decode 0xE00F028000000082 = .ok (.rdpr ⟨false, 15⟩ ⟨5, 0, 0, 0, 130⟩) ∧
  decode 0xFE00000000000000 = .error .header ∧ decode 0 = .error (.opcode 0)

/-- Every well-formed instruction has a word that decodes to it with every field as it was, and every word that
decodes is the word of the well-formed instruction it decodes to, so no bit is dropped and no two words are one
instruction. -/
def Obligations.DecodeAndEncodeAgree : Prop :=
  (∀ i : Instr, i.wf = true → ∃ w, encode i = some w ∧ decode w = .ok i) ∧
  (∀ (w : Code) (i : Instr), decode w = .ok i → i.wf = true ∧ encode i = some w)

/-- For every state whose memory lists rising addresses and no byte that reads as an unlisted one, the state after a
step is such a state too. That an unlisted byte reads 0 is the model's choice (assumption 5). -/
def Obligations.MemoryStaysCanonical : Prop :=
  ∀ s t : State, s.memOk = true → step s = .next t → t.memOk = true

/-- At READY memory is canonical and device memory reads 0, eight stacks are live, the threshold is 128, world 0 is in
CONFIG_UNLOCKED and unprotected, and no launch and no thread exists. That reset is READY after a cold start with every
stack admitted is the model's reading (assumption 3). -/
def Obligations.ResetState : Prop :=
  State.reset.memOk = true ∧ (∀ k, k < 2 ^ 43 → State.reset.homeByte k = 0) ∧ State.reset.powered = true ∧ State.reset.garrun.ready = true ∧
  State.reset.garrun.thresh = 128 ∧ State.reset.threads = [] ∧ State.reset.launches = [] ∧
  State.reset.worlds.map (·.1) = [0] ∧ (∀ w, State.reset.world? 0 = some w → w.state = 1 ∧ w.prot = false ∧ w.diemask = 0) ∧
  (∀ d, d < 8 → (State.reset.die d).live = true ∧ (State.reset.die d).retired = false ∧ (State.reset.die d).fenced = false)
end

