-- ==== Sys2Proof/Laws/Tab.lean ====
section
/-! SUPPORT. Laws of sparse tables and of memory: what a read after a write gives, and that every operation keeps the
canonical form. -/

namespace Sys2Proof.Machine

variable {α : Type}

theorem tabGet_eq_assoc (d : α) (k : Nat) (t : Tab α) : tabGet d k t = (assoc k t).getD d := by
  induction t with
  | nil => rfl
  | cons x r ih => obtain ⟨k', v⟩ := x; simp only [tabGet, assoc]; split <;> simp_all

theorem assoc_assocSet (k j : Nat) (v : α) (t : Tab α) : assoc j (assocSet k v t) = if j = k then some v else assoc j t := by
  induction t with
  | nil => simp [assocSet, assoc, eq_comm]
  | cons x r ih =>
    obtain ⟨k', v'⟩ := x
    simp only [assocSet]
    split
    · by_cases h : k' = j
      · subst h; simp [assoc]; omega
      · simp [assoc, h, ih]
    · split
      · rename_i h; subst h
        by_cases h : k' = j
        · simp [assoc, h]
        · simp [assoc, h]; intro e; exact absurd e.symm h
      · by_cases h : k = j
        · subst h; simp [assoc]
        · simp [assoc, h]; intro e; exact absurd e.symm h

theorem assoc_assocDel (k j : Nat) (t : Tab α) : assoc j (assocDel k t) = if j = k then none else assoc j t := by
  induction t with
  | nil => simp [assocDel, assoc]
  | cons x r ih =>
    obtain ⟨k', v'⟩ := x
    simp only [assocDel] at *
    rw [List.filter_cons]
    by_cases h : k' = k
    · subst h
      by_cases h2 : j = k'
      · subst h2; simpa using ih
      · simp [ih, assoc, h2, Ne.symm h2]
    · by_cases h2 : k' = j
      · subst h2; simp [h, assoc]
      · simp [h, h2, assoc, ih]

/-- A read after a write gives the value written at its own key and what was there at any other. -/
theorem tabGet_tabSet [DecidableEq α] (d v : α) (k j : Nat) (t : Tab α) :
    tabGet d j (tabSet d k v t) = if j = k then v else tabGet d j t := by
  unfold tabSet
  split
  · rename_i h; subst h
    rw [tabGet_eq_assoc, tabGet_eq_assoc, assoc_assocDel]; split <;> simp
  · rw [tabGet_eq_assoc, tabGet_eq_assoc, assoc_assocSet]; split <;> simp

@[simp] theorem tabGet_tabSet_self [DecidableEq α] (d v : α) (k : Nat) (t : Tab α) : tabGet d k (tabSet d k v t) = v := by
  simp [tabGet_tabSet]

theorem tabGet_tabSet_of_ne [DecidableEq α] (d v : α) {k j : Nat} (h : j ≠ k) (t : Tab α) :
    tabGet d j (tabSet d k v t) = tabGet d j t := by
  simp [tabGet_tabSet, h]

theorem tabWfFrom_mono [DecidableEq α] {d : α} {a b : Nat} (h : b ≤ a) {t : Tab α} (w : tabWfFrom d a t = true) :
    tabWfFrom d b t = true := by
  cases t with
  | nil => rfl
  | cons x r =>
    simp [tabWfFrom] at *
    exact ⟨⟨by omega, w.1.2⟩, w.2⟩

theorem tabWfFrom_filter [DecidableEq α] {d : α} (p : Nat × α → Bool) {a : Nat} {t : Tab α} (w : tabWfFrom d a t = true) :
    tabWfFrom d a (t.filter p) = true := by
  induction t generalizing a with
  | nil => rfl
  | cons x r ih =>
    obtain ⟨k, v⟩ := x
    simp [tabWfFrom] at w
    simp only [List.filter]
    split
    · simp [tabWfFrom, w, ih w.2]
    · exact ih (tabWfFrom_mono (by omega) w.2)

theorem tabWfFrom_assocSet [DecidableEq α] {d v : α} (hv : v ≠ d) {k a : Nat} (ha : a ≤ k) {t : Tab α}
    (w : tabWfFrom d a t = true) : tabWfFrom d a (assocSet k v t) = true := by
  induction t generalizing a with
  | nil => simp [assocSet, tabWfFrom, ha, hv]
  | cons x r ih =>
    obtain ⟨k', v'⟩ := x
    simp [tabWfFrom] at w
    simp only [assocSet]
    split
    · rename_i h
      simp [tabWfFrom, w.1, ih h w.2]
    · split
      · rename_i h; subst h; simp [tabWfFrom, hv, ha, w.2]
      · simp [tabWfFrom, hv, ha, w.1, w.2]; omega

/-- A write keeps a table's canonical form. -/
theorem tabWf_tabSet [DecidableEq α] {d : α} (k : Nat) (v : α) {t : Tab α} (w : tabWf d t = true) :
    tabWf d (tabSet d k v t) = true := by
  unfold tabSet
  split
  · exact tabWfFrom_filter _ w
  · exact tabWfFrom_assocSet ‹_› (by omega) w

/-! Memory. -/

theorem memGet_memSet (m : List Host.Cell) (k j : Nat) (b : Byte) : memGet (memSet m k b) j = if j = k then b else memGet m j :=
  tabGet_tabSet _ _ _ _ _

@[simp] theorem memory_wf_memSet {m : List Host.Cell} (k : Nat) (b : Byte) (w : Memory.wf m = true) : Memory.wf (memSet m k b) = true :=
  tabWf_tabSet k b w

@[simp] theorem memory_wf_filter {m : List Host.Cell} (p : Host.Cell → Bool) (w : Memory.wf m = true) : Memory.wf (m.filter p) = true :=
  tabWfFrom_filter p w

@[simp] theorem memory_wf_memPut {m : List Host.Cell} (k : Nat) (bs : List Byte) (w : Memory.wf m = true) : Memory.wf (memPut m k bs) = true := by
  induction bs generalizing m k with
  | nil => exact w
  | cons b bs ih => exact ih _ (memory_wf_memSet _ _ w)

@[simp] theorem memory_wf_memPutNat {m : List Host.Cell} (k n x : Nat) (w : Memory.wf m = true) : Memory.wf (memPutNat m k n x) = true :=
  memory_wf_memPut _ _ w

/-- A read after a write of several bytes: the byte written, or what was there. -/
theorem memGet_memPut (m : List Host.Cell) (k j : Nat) (bs : List Byte) :
    memGet (memPut m k bs) j = if k ≤ j ∧ j < k + bs.length then listGet 0 bs (j - k) else memGet m j := by
  induction bs generalizing m k with
  | nil => simp [memPut]
  | cons b bs ih =>
    simp only [memPut, ih, memGet_memSet, List.length_cons]
    by_cases h : j = k
    · subst h; simp [listGet]
    · by_cases h2 : k + 1 ≤ j ∧ j < k + 1 + bs.length
      · obtain ⟨n, hn⟩ : ∃ n, j - k = n + 1 := ⟨j - k - 1, by omega⟩
        rw [if_pos h2, if_pos (by omega), hn]
        simp only [listGet]
        congr 1; omega
      · rw [if_neg h2, if_neg h, if_neg (by omega)]

theorem memory_wf_foldl {β : Type} (f : List Host.Cell → β → List Host.Cell)
    (h : ∀ m x, Memory.wf m = true → Memory.wf (f m x) = true) (l : List β) {m : List Host.Cell} (w : Memory.wf m = true) :
    Memory.wf (l.foldl f m) = true := by
  induction l generalizing m with
  | nil => exact w
  | cons x l ih => exact ih (h m x w)

/-! Lists. -/

theorem listGet_listPut (d v : α) (l : List α) (n m : Nat) : listGet d (listPut d l n v) m = if m = n then v else listGet d l m := by
  induction n generalizing l m with
  | zero => cases l <;> cases m <;> simp [listPut, listGet]
  | succ n ih =>
    cases l <;> cases m <;> simp [listPut, listGet, ih]

theorem mem_dedup [DecidableEq α] (x : α) (l : List α) : x ∈ dedup l ↔ x ∈ l := by
  induction l with
  | nil => rfl
  | cons y r ih =>
    simp only [dedup]
    split
    · rw [ih, List.mem_cons]
      constructor
      · exact .inr
      · rintro (rfl | h)
        · assumption
        · exact h
    · rw [List.mem_cons, List.mem_cons, ih]

theorem nodup_dedup [DecidableEq α] (l : List α) : (dedup l).Nodup := by
  induction l with
  | nil => exact List.nodup_nil
  | cons y r ih =>
    simp only [dedup]
    split
    · exact ih
    · exact List.nodup_cons.2 ⟨fun h => ‹¬ _› ((mem_dedup _ _).1 h), ih⟩

end Sys2Proof.Machine
end

