-- ==== Sys2Proof/Laws/State.lean ====
section
/-! SUPPORT. What each update of a record leaves in every other field of the state, and what a read after an update gives. -/

namespace Sys2Proof.Machine

/-- Changing threads changes the table of threads alone. -/
theorem State.foldThreads_eq (s : State) (wg : Nat) (l : List Nat) (f : Nat → Thread → Thread) :
    l.foldl (fun s t => s.modThread wg t (f t)) s =
      { s with threads := (l.foldl (fun s t => s.modThread wg t (f t)) s).threads } := by
  induction l generalizing s with
  | nil => rfl
  | cons t l ih => simp only [List.foldl_cons]; rw [ih]; rfl

theorem State.modThreads_eq (s : State) (wg : Nat) (l : List Nat) (f : Thread → Thread) :
    s.modThreads wg l f = { s with threads := (s.modThreads wg l f).threads } :=
  s.foldThreads_eq wg (dedup l) (fun _ => f)

theorem State.modEach_eq (s : State) (wg : Nat) (l : List Nat) (f : Nat → Thread → Thread) :
    s.modEach wg l f = { s with threads := (s.modEach wg l f).threads } :=
  s.foldThreads_eq wg (dedup l) f

@[simp] theorem State.setThread_agenda (s : State) (wg tid : Nat) (t : Thread) : (s.setThread wg tid t).agenda = s.agenda := rfl
@[simp] theorem State.setThread_clock (s : State) (wg tid : Nat) (t : Thread) : (s.setThread wg tid t).clock = s.clock := rfl
@[simp] theorem State.setThread_draws (s : State) (wg tid : Nat) (t : Thread) : (s.setThread wg tid t).draws = s.draws := rfl
@[simp] theorem State.setThread_nextId (s : State) (wg tid : Nat) (t : Thread) : (s.setThread wg tid t).nextId = s.nextId := rfl
@[simp] theorem State.setThread_cur (s : State) (wg tid : Nat) (t : Thread) : (s.setThread wg tid t).cur = s.cur := rfl
@[simp] theorem State.setThread_raised (s : State) (wg tid : Nat) (t : Thread) : (s.setThread wg tid t).raised = s.raised := rfl
@[simp] theorem State.setThread_mem (s : State) (wg tid : Nat) (t : Thread) : (s.setThread wg tid t).mem = s.mem := rfl
@[simp] theorem State.setThread_groups (s : State) (wg tid : Nat) (t : Thread) : (s.setThread wg tid t).groups = s.groups := rfl
@[simp] theorem State.setThread_bins (s : State) (wg tid : Nat) (t : Thread) : (s.setThread wg tid t).bins = s.bins := rfl
@[simp] theorem State.setThread_wgs (s : State) (wg tid : Nat) (t : Thread) : (s.setThread wg tid t).wgs = s.wgs := rfl
@[simp] theorem State.setThread_gangs (s : State) (wg tid : Nat) (t : Thread) : (s.setThread wg tid t).gangs = s.gangs := rfl
@[simp] theorem State.setThread_launches (s : State) (wg tid : Nat) (t : Thread) : (s.setThread wg tid t).launches = s.launches := rfl
@[simp] theorem State.setThread_flights (s : State) (wg tid : Nat) (t : Thread) : (s.setThread wg tid t).flights = s.flights := rfl
@[simp] theorem State.setThread_tiles (s : State) (wg tid : Nat) (t : Thread) : (s.setThread wg tid t).tiles = s.tiles := rfl
@[simp] theorem State.setThread_engines (s : State) (wg tid : Nat) (t : Thread) : (s.setThread wg tid t).engines = s.engines := rfl
@[simp] theorem State.setThread_locks (s : State) (wg tid : Nat) (t : Thread) : (s.setThread wg tid t).locks = s.locks := rfl
@[simp] theorem State.setThread_l1 (s : State) (wg tid : Nat) (t : Thread) : (s.setThread wg tid t).l1 = s.l1 := rfl
@[simp] theorem State.setThread_llcDirty (s : State) (wg tid : Nat) (t : Thread) : (s.setThread wg tid t).llcDirty = s.llcDirty := rfl
@[simp] theorem State.setThread_poison (s : State) (wg tid : Nat) (t : Thread) : (s.setThread wg tid t).poison = s.poison := rfl
@[simp] theorem State.setThread_tlb (s : State) (wg tid : Nat) (t : Thread) : (s.setThread wg tid t).tlb = s.tlb := rfl
@[simp] theorem State.setThread_stt (s : State) (wg tid : Nat) (t : Thread) : (s.setThread wg tid t).stt = s.stt := rfl
@[simp] theorem State.setThread_cores (s : State) (wg tid : Nat) (t : Thread) : (s.setThread wg tid t).cores = s.cores := rfl
@[simp] theorem State.setThread_dies (s : State) (wg tid : Nat) (t : Thread) : (s.setThread wg tid t).dies = s.dies := rfl
@[simp] theorem State.setThread_worlds (s : State) (wg tid : Nat) (t : Thread) : (s.setThread wg tid t).worlds = s.worlds := rfl
@[simp] theorem State.setThread_versions (s : State) (wg tid : Nat) (t : Thread) : (s.setThread wg tid t).versions = s.versions := rfl
@[simp] theorem State.setThread_injects (s : State) (wg tid : Nat) (t : Thread) : (s.setThread wg tid t).injects = s.injects := rfl
@[simp] theorem State.setThread_powered (s : State) (wg tid : Nat) (t : Thread) : (s.setThread wg tid t).powered = s.powered := rfl
@[simp] theorem State.setThread_iod (s : State) (wg tid : Nat) (t : Thread) : (s.setThread wg tid t).iod = s.iod := rfl
@[simp] theorem State.setThread_garrun (s : State) (wg tid : Nat) (t : Thread) : (s.setThread wg tid t).garrun = s.garrun := rfl
@[simp] theorem State.setThread_checker (s : State) (wg tid : Nat) (t : Thread) : (s.setThread wg tid t).checker = s.checker := rfl

@[simp] theorem State.modThread_agenda (s : State) (wg tid : Nat) (f : Thread → Thread) : (s.modThread wg tid f).agenda = s.agenda := rfl
@[simp] theorem State.modThread_clock (s : State) (wg tid : Nat) (f : Thread → Thread) : (s.modThread wg tid f).clock = s.clock := rfl
@[simp] theorem State.modThread_draws (s : State) (wg tid : Nat) (f : Thread → Thread) : (s.modThread wg tid f).draws = s.draws := rfl
@[simp] theorem State.modThread_nextId (s : State) (wg tid : Nat) (f : Thread → Thread) : (s.modThread wg tid f).nextId = s.nextId := rfl
@[simp] theorem State.modThread_cur (s : State) (wg tid : Nat) (f : Thread → Thread) : (s.modThread wg tid f).cur = s.cur := rfl
@[simp] theorem State.modThread_raised (s : State) (wg tid : Nat) (f : Thread → Thread) : (s.modThread wg tid f).raised = s.raised := rfl
@[simp] theorem State.modThread_mem (s : State) (wg tid : Nat) (f : Thread → Thread) : (s.modThread wg tid f).mem = s.mem := rfl
@[simp] theorem State.modThread_groups (s : State) (wg tid : Nat) (f : Thread → Thread) : (s.modThread wg tid f).groups = s.groups := rfl
@[simp] theorem State.modThread_bins (s : State) (wg tid : Nat) (f : Thread → Thread) : (s.modThread wg tid f).bins = s.bins := rfl
@[simp] theorem State.modThread_wgs (s : State) (wg tid : Nat) (f : Thread → Thread) : (s.modThread wg tid f).wgs = s.wgs := rfl
@[simp] theorem State.modThread_gangs (s : State) (wg tid : Nat) (f : Thread → Thread) : (s.modThread wg tid f).gangs = s.gangs := rfl
@[simp] theorem State.modThread_launches (s : State) (wg tid : Nat) (f : Thread → Thread) : (s.modThread wg tid f).launches = s.launches := rfl
@[simp] theorem State.modThread_flights (s : State) (wg tid : Nat) (f : Thread → Thread) : (s.modThread wg tid f).flights = s.flights := rfl
@[simp] theorem State.modThread_tiles (s : State) (wg tid : Nat) (f : Thread → Thread) : (s.modThread wg tid f).tiles = s.tiles := rfl
@[simp] theorem State.modThread_engines (s : State) (wg tid : Nat) (f : Thread → Thread) : (s.modThread wg tid f).engines = s.engines := rfl
@[simp] theorem State.modThread_locks (s : State) (wg tid : Nat) (f : Thread → Thread) : (s.modThread wg tid f).locks = s.locks := rfl
@[simp] theorem State.modThread_l1 (s : State) (wg tid : Nat) (f : Thread → Thread) : (s.modThread wg tid f).l1 = s.l1 := rfl
@[simp] theorem State.modThread_llcDirty (s : State) (wg tid : Nat) (f : Thread → Thread) : (s.modThread wg tid f).llcDirty = s.llcDirty := rfl
@[simp] theorem State.modThread_poison (s : State) (wg tid : Nat) (f : Thread → Thread) : (s.modThread wg tid f).poison = s.poison := rfl
@[simp] theorem State.modThread_tlb (s : State) (wg tid : Nat) (f : Thread → Thread) : (s.modThread wg tid f).tlb = s.tlb := rfl
@[simp] theorem State.modThread_stt (s : State) (wg tid : Nat) (f : Thread → Thread) : (s.modThread wg tid f).stt = s.stt := rfl
@[simp] theorem State.modThread_cores (s : State) (wg tid : Nat) (f : Thread → Thread) : (s.modThread wg tid f).cores = s.cores := rfl
@[simp] theorem State.modThread_dies (s : State) (wg tid : Nat) (f : Thread → Thread) : (s.modThread wg tid f).dies = s.dies := rfl
@[simp] theorem State.modThread_worlds (s : State) (wg tid : Nat) (f : Thread → Thread) : (s.modThread wg tid f).worlds = s.worlds := rfl
@[simp] theorem State.modThread_versions (s : State) (wg tid : Nat) (f : Thread → Thread) : (s.modThread wg tid f).versions = s.versions := rfl
@[simp] theorem State.modThread_injects (s : State) (wg tid : Nat) (f : Thread → Thread) : (s.modThread wg tid f).injects = s.injects := rfl
@[simp] theorem State.modThread_powered (s : State) (wg tid : Nat) (f : Thread → Thread) : (s.modThread wg tid f).powered = s.powered := rfl
@[simp] theorem State.modThread_iod (s : State) (wg tid : Nat) (f : Thread → Thread) : (s.modThread wg tid f).iod = s.iod := rfl
@[simp] theorem State.modThread_garrun (s : State) (wg tid : Nat) (f : Thread → Thread) : (s.modThread wg tid f).garrun = s.garrun := rfl
@[simp] theorem State.modThread_checker (s : State) (wg tid : Nat) (f : Thread → Thread) : (s.modThread wg tid f).checker = s.checker := rfl

@[simp] theorem State.modThreads_agenda (s : State) (wg : Nat) (l : List Nat) (f : Thread → Thread) : (s.modThreads wg l f).agenda = s.agenda := by rw [State.modThreads_eq]
@[simp] theorem State.modThreads_clock (s : State) (wg : Nat) (l : List Nat) (f : Thread → Thread) : (s.modThreads wg l f).clock = s.clock := by rw [State.modThreads_eq]
@[simp] theorem State.modThreads_draws (s : State) (wg : Nat) (l : List Nat) (f : Thread → Thread) : (s.modThreads wg l f).draws = s.draws := by rw [State.modThreads_eq]
@[simp] theorem State.modThreads_nextId (s : State) (wg : Nat) (l : List Nat) (f : Thread → Thread) : (s.modThreads wg l f).nextId = s.nextId := by rw [State.modThreads_eq]
@[simp] theorem State.modThreads_cur (s : State) (wg : Nat) (l : List Nat) (f : Thread → Thread) : (s.modThreads wg l f).cur = s.cur := by rw [State.modThreads_eq]
@[simp] theorem State.modThreads_raised (s : State) (wg : Nat) (l : List Nat) (f : Thread → Thread) : (s.modThreads wg l f).raised = s.raised := by rw [State.modThreads_eq]
@[simp] theorem State.modThreads_mem (s : State) (wg : Nat) (l : List Nat) (f : Thread → Thread) : (s.modThreads wg l f).mem = s.mem := by rw [State.modThreads_eq]
@[simp] theorem State.modThreads_groups (s : State) (wg : Nat) (l : List Nat) (f : Thread → Thread) : (s.modThreads wg l f).groups = s.groups := by rw [State.modThreads_eq]
@[simp] theorem State.modThreads_bins (s : State) (wg : Nat) (l : List Nat) (f : Thread → Thread) : (s.modThreads wg l f).bins = s.bins := by rw [State.modThreads_eq]
@[simp] theorem State.modThreads_wgs (s : State) (wg : Nat) (l : List Nat) (f : Thread → Thread) : (s.modThreads wg l f).wgs = s.wgs := by rw [State.modThreads_eq]
@[simp] theorem State.modThreads_gangs (s : State) (wg : Nat) (l : List Nat) (f : Thread → Thread) : (s.modThreads wg l f).gangs = s.gangs := by rw [State.modThreads_eq]
@[simp] theorem State.modThreads_launches (s : State) (wg : Nat) (l : List Nat) (f : Thread → Thread) : (s.modThreads wg l f).launches = s.launches := by rw [State.modThreads_eq]
@[simp] theorem State.modThreads_flights (s : State) (wg : Nat) (l : List Nat) (f : Thread → Thread) : (s.modThreads wg l f).flights = s.flights := by rw [State.modThreads_eq]
@[simp] theorem State.modThreads_tiles (s : State) (wg : Nat) (l : List Nat) (f : Thread → Thread) : (s.modThreads wg l f).tiles = s.tiles := by rw [State.modThreads_eq]
@[simp] theorem State.modThreads_engines (s : State) (wg : Nat) (l : List Nat) (f : Thread → Thread) : (s.modThreads wg l f).engines = s.engines := by rw [State.modThreads_eq]
@[simp] theorem State.modThreads_locks (s : State) (wg : Nat) (l : List Nat) (f : Thread → Thread) : (s.modThreads wg l f).locks = s.locks := by rw [State.modThreads_eq]
@[simp] theorem State.modThreads_l1 (s : State) (wg : Nat) (l : List Nat) (f : Thread → Thread) : (s.modThreads wg l f).l1 = s.l1 := by rw [State.modThreads_eq]
@[simp] theorem State.modThreads_llcDirty (s : State) (wg : Nat) (l : List Nat) (f : Thread → Thread) : (s.modThreads wg l f).llcDirty = s.llcDirty := by rw [State.modThreads_eq]
@[simp] theorem State.modThreads_poison (s : State) (wg : Nat) (l : List Nat) (f : Thread → Thread) : (s.modThreads wg l f).poison = s.poison := by rw [State.modThreads_eq]
@[simp] theorem State.modThreads_tlb (s : State) (wg : Nat) (l : List Nat) (f : Thread → Thread) : (s.modThreads wg l f).tlb = s.tlb := by rw [State.modThreads_eq]
@[simp] theorem State.modThreads_stt (s : State) (wg : Nat) (l : List Nat) (f : Thread → Thread) : (s.modThreads wg l f).stt = s.stt := by rw [State.modThreads_eq]
@[simp] theorem State.modThreads_cores (s : State) (wg : Nat) (l : List Nat) (f : Thread → Thread) : (s.modThreads wg l f).cores = s.cores := by rw [State.modThreads_eq]
@[simp] theorem State.modThreads_dies (s : State) (wg : Nat) (l : List Nat) (f : Thread → Thread) : (s.modThreads wg l f).dies = s.dies := by rw [State.modThreads_eq]
@[simp] theorem State.modThreads_worlds (s : State) (wg : Nat) (l : List Nat) (f : Thread → Thread) : (s.modThreads wg l f).worlds = s.worlds := by rw [State.modThreads_eq]
@[simp] theorem State.modThreads_versions (s : State) (wg : Nat) (l : List Nat) (f : Thread → Thread) : (s.modThreads wg l f).versions = s.versions := by rw [State.modThreads_eq]
@[simp] theorem State.modThreads_injects (s : State) (wg : Nat) (l : List Nat) (f : Thread → Thread) : (s.modThreads wg l f).injects = s.injects := by rw [State.modThreads_eq]
@[simp] theorem State.modThreads_powered (s : State) (wg : Nat) (l : List Nat) (f : Thread → Thread) : (s.modThreads wg l f).powered = s.powered := by rw [State.modThreads_eq]
@[simp] theorem State.modThreads_iod (s : State) (wg : Nat) (l : List Nat) (f : Thread → Thread) : (s.modThreads wg l f).iod = s.iod := by rw [State.modThreads_eq]
@[simp] theorem State.modThreads_garrun (s : State) (wg : Nat) (l : List Nat) (f : Thread → Thread) : (s.modThreads wg l f).garrun = s.garrun := by rw [State.modThreads_eq]
@[simp] theorem State.modThreads_checker (s : State) (wg : Nat) (l : List Nat) (f : Thread → Thread) : (s.modThreads wg l f).checker = s.checker := by rw [State.modThreads_eq]

@[simp] theorem State.modEach_agenda (s : State) (wg : Nat) (l : List Nat) (f : Nat → Thread → Thread) : (s.modEach wg l f).agenda = s.agenda := by rw [State.modEach_eq]
@[simp] theorem State.modEach_clock (s : State) (wg : Nat) (l : List Nat) (f : Nat → Thread → Thread) : (s.modEach wg l f).clock = s.clock := by rw [State.modEach_eq]
@[simp] theorem State.modEach_draws (s : State) (wg : Nat) (l : List Nat) (f : Nat → Thread → Thread) : (s.modEach wg l f).draws = s.draws := by rw [State.modEach_eq]
@[simp] theorem State.modEach_nextId (s : State) (wg : Nat) (l : List Nat) (f : Nat → Thread → Thread) : (s.modEach wg l f).nextId = s.nextId := by rw [State.modEach_eq]
@[simp] theorem State.modEach_cur (s : State) (wg : Nat) (l : List Nat) (f : Nat → Thread → Thread) : (s.modEach wg l f).cur = s.cur := by rw [State.modEach_eq]
@[simp] theorem State.modEach_raised (s : State) (wg : Nat) (l : List Nat) (f : Nat → Thread → Thread) : (s.modEach wg l f).raised = s.raised := by rw [State.modEach_eq]
@[simp] theorem State.modEach_mem (s : State) (wg : Nat) (l : List Nat) (f : Nat → Thread → Thread) : (s.modEach wg l f).mem = s.mem := by rw [State.modEach_eq]
@[simp] theorem State.modEach_groups (s : State) (wg : Nat) (l : List Nat) (f : Nat → Thread → Thread) : (s.modEach wg l f).groups = s.groups := by rw [State.modEach_eq]
@[simp] theorem State.modEach_bins (s : State) (wg : Nat) (l : List Nat) (f : Nat → Thread → Thread) : (s.modEach wg l f).bins = s.bins := by rw [State.modEach_eq]
@[simp] theorem State.modEach_wgs (s : State) (wg : Nat) (l : List Nat) (f : Nat → Thread → Thread) : (s.modEach wg l f).wgs = s.wgs := by rw [State.modEach_eq]
@[simp] theorem State.modEach_gangs (s : State) (wg : Nat) (l : List Nat) (f : Nat → Thread → Thread) : (s.modEach wg l f).gangs = s.gangs := by rw [State.modEach_eq]
@[simp] theorem State.modEach_launches (s : State) (wg : Nat) (l : List Nat) (f : Nat → Thread → Thread) : (s.modEach wg l f).launches = s.launches := by rw [State.modEach_eq]
@[simp] theorem State.modEach_flights (s : State) (wg : Nat) (l : List Nat) (f : Nat → Thread → Thread) : (s.modEach wg l f).flights = s.flights := by rw [State.modEach_eq]
@[simp] theorem State.modEach_tiles (s : State) (wg : Nat) (l : List Nat) (f : Nat → Thread → Thread) : (s.modEach wg l f).tiles = s.tiles := by rw [State.modEach_eq]
@[simp] theorem State.modEach_engines (s : State) (wg : Nat) (l : List Nat) (f : Nat → Thread → Thread) : (s.modEach wg l f).engines = s.engines := by rw [State.modEach_eq]
@[simp] theorem State.modEach_locks (s : State) (wg : Nat) (l : List Nat) (f : Nat → Thread → Thread) : (s.modEach wg l f).locks = s.locks := by rw [State.modEach_eq]
@[simp] theorem State.modEach_l1 (s : State) (wg : Nat) (l : List Nat) (f : Nat → Thread → Thread) : (s.modEach wg l f).l1 = s.l1 := by rw [State.modEach_eq]
@[simp] theorem State.modEach_llcDirty (s : State) (wg : Nat) (l : List Nat) (f : Nat → Thread → Thread) : (s.modEach wg l f).llcDirty = s.llcDirty := by rw [State.modEach_eq]
@[simp] theorem State.modEach_poison (s : State) (wg : Nat) (l : List Nat) (f : Nat → Thread → Thread) : (s.modEach wg l f).poison = s.poison := by rw [State.modEach_eq]
@[simp] theorem State.modEach_tlb (s : State) (wg : Nat) (l : List Nat) (f : Nat → Thread → Thread) : (s.modEach wg l f).tlb = s.tlb := by rw [State.modEach_eq]
@[simp] theorem State.modEach_stt (s : State) (wg : Nat) (l : List Nat) (f : Nat → Thread → Thread) : (s.modEach wg l f).stt = s.stt := by rw [State.modEach_eq]
@[simp] theorem State.modEach_cores (s : State) (wg : Nat) (l : List Nat) (f : Nat → Thread → Thread) : (s.modEach wg l f).cores = s.cores := by rw [State.modEach_eq]
@[simp] theorem State.modEach_dies (s : State) (wg : Nat) (l : List Nat) (f : Nat → Thread → Thread) : (s.modEach wg l f).dies = s.dies := by rw [State.modEach_eq]
@[simp] theorem State.modEach_worlds (s : State) (wg : Nat) (l : List Nat) (f : Nat → Thread → Thread) : (s.modEach wg l f).worlds = s.worlds := by rw [State.modEach_eq]
@[simp] theorem State.modEach_versions (s : State) (wg : Nat) (l : List Nat) (f : Nat → Thread → Thread) : (s.modEach wg l f).versions = s.versions := by rw [State.modEach_eq]
@[simp] theorem State.modEach_injects (s : State) (wg : Nat) (l : List Nat) (f : Nat → Thread → Thread) : (s.modEach wg l f).injects = s.injects := by rw [State.modEach_eq]
@[simp] theorem State.modEach_powered (s : State) (wg : Nat) (l : List Nat) (f : Nat → Thread → Thread) : (s.modEach wg l f).powered = s.powered := by rw [State.modEach_eq]
@[simp] theorem State.modEach_iod (s : State) (wg : Nat) (l : List Nat) (f : Nat → Thread → Thread) : (s.modEach wg l f).iod = s.iod := by rw [State.modEach_eq]
@[simp] theorem State.modEach_garrun (s : State) (wg : Nat) (l : List Nat) (f : Nat → Thread → Thread) : (s.modEach wg l f).garrun = s.garrun := by rw [State.modEach_eq]
@[simp] theorem State.modEach_checker (s : State) (wg : Nat) (l : List Nat) (f : Nat → Thread → Thread) : (s.modEach wg l f).checker = s.checker := by rw [State.modEach_eq]

@[simp] theorem State.modLive_agenda (s : State) (wg : Nat) (l : List Nat) (f : Thread → Thread) : (s.modLive wg l f).agenda = s.agenda := by unfold State.modLive; split <;> simp
@[simp] theorem State.modLive_clock (s : State) (wg : Nat) (l : List Nat) (f : Thread → Thread) : (s.modLive wg l f).clock = s.clock := by unfold State.modLive; split <;> simp
@[simp] theorem State.modLive_draws (s : State) (wg : Nat) (l : List Nat) (f : Thread → Thread) : (s.modLive wg l f).draws = s.draws := by unfold State.modLive; split <;> simp
@[simp] theorem State.modLive_nextId (s : State) (wg : Nat) (l : List Nat) (f : Thread → Thread) : (s.modLive wg l f).nextId = s.nextId := by unfold State.modLive; split <;> simp
@[simp] theorem State.modLive_cur (s : State) (wg : Nat) (l : List Nat) (f : Thread → Thread) : (s.modLive wg l f).cur = s.cur := by unfold State.modLive; split <;> simp
@[simp] theorem State.modLive_raised (s : State) (wg : Nat) (l : List Nat) (f : Thread → Thread) : (s.modLive wg l f).raised = s.raised := by unfold State.modLive; split <;> simp
@[simp] theorem State.modLive_mem (s : State) (wg : Nat) (l : List Nat) (f : Thread → Thread) : (s.modLive wg l f).mem = s.mem := by unfold State.modLive; split <;> simp
@[simp] theorem State.modLive_groups (s : State) (wg : Nat) (l : List Nat) (f : Thread → Thread) : (s.modLive wg l f).groups = s.groups := by unfold State.modLive; split <;> simp
@[simp] theorem State.modLive_bins (s : State) (wg : Nat) (l : List Nat) (f : Thread → Thread) : (s.modLive wg l f).bins = s.bins := by unfold State.modLive; split <;> simp
@[simp] theorem State.modLive_wgs (s : State) (wg : Nat) (l : List Nat) (f : Thread → Thread) : (s.modLive wg l f).wgs = s.wgs := by unfold State.modLive; split <;> simp
@[simp] theorem State.modLive_gangs (s : State) (wg : Nat) (l : List Nat) (f : Thread → Thread) : (s.modLive wg l f).gangs = s.gangs := by unfold State.modLive; split <;> simp
@[simp] theorem State.modLive_launches (s : State) (wg : Nat) (l : List Nat) (f : Thread → Thread) : (s.modLive wg l f).launches = s.launches := by unfold State.modLive; split <;> simp
@[simp] theorem State.modLive_flights (s : State) (wg : Nat) (l : List Nat) (f : Thread → Thread) : (s.modLive wg l f).flights = s.flights := by unfold State.modLive; split <;> simp
@[simp] theorem State.modLive_tiles (s : State) (wg : Nat) (l : List Nat) (f : Thread → Thread) : (s.modLive wg l f).tiles = s.tiles := by unfold State.modLive; split <;> simp
@[simp] theorem State.modLive_engines (s : State) (wg : Nat) (l : List Nat) (f : Thread → Thread) : (s.modLive wg l f).engines = s.engines := by unfold State.modLive; split <;> simp
@[simp] theorem State.modLive_locks (s : State) (wg : Nat) (l : List Nat) (f : Thread → Thread) : (s.modLive wg l f).locks = s.locks := by unfold State.modLive; split <;> simp
@[simp] theorem State.modLive_l1 (s : State) (wg : Nat) (l : List Nat) (f : Thread → Thread) : (s.modLive wg l f).l1 = s.l1 := by unfold State.modLive; split <;> simp
@[simp] theorem State.modLive_llcDirty (s : State) (wg : Nat) (l : List Nat) (f : Thread → Thread) : (s.modLive wg l f).llcDirty = s.llcDirty := by unfold State.modLive; split <;> simp
@[simp] theorem State.modLive_poison (s : State) (wg : Nat) (l : List Nat) (f : Thread → Thread) : (s.modLive wg l f).poison = s.poison := by unfold State.modLive; split <;> simp
@[simp] theorem State.modLive_tlb (s : State) (wg : Nat) (l : List Nat) (f : Thread → Thread) : (s.modLive wg l f).tlb = s.tlb := by unfold State.modLive; split <;> simp
@[simp] theorem State.modLive_stt (s : State) (wg : Nat) (l : List Nat) (f : Thread → Thread) : (s.modLive wg l f).stt = s.stt := by unfold State.modLive; split <;> simp
@[simp] theorem State.modLive_cores (s : State) (wg : Nat) (l : List Nat) (f : Thread → Thread) : (s.modLive wg l f).cores = s.cores := by unfold State.modLive; split <;> simp
@[simp] theorem State.modLive_dies (s : State) (wg : Nat) (l : List Nat) (f : Thread → Thread) : (s.modLive wg l f).dies = s.dies := by unfold State.modLive; split <;> simp
@[simp] theorem State.modLive_worlds (s : State) (wg : Nat) (l : List Nat) (f : Thread → Thread) : (s.modLive wg l f).worlds = s.worlds := by unfold State.modLive; split <;> simp
@[simp] theorem State.modLive_versions (s : State) (wg : Nat) (l : List Nat) (f : Thread → Thread) : (s.modLive wg l f).versions = s.versions := by unfold State.modLive; split <;> simp
@[simp] theorem State.modLive_injects (s : State) (wg : Nat) (l : List Nat) (f : Thread → Thread) : (s.modLive wg l f).injects = s.injects := by unfold State.modLive; split <;> simp
@[simp] theorem State.modLive_powered (s : State) (wg : Nat) (l : List Nat) (f : Thread → Thread) : (s.modLive wg l f).powered = s.powered := by unfold State.modLive; split <;> simp
@[simp] theorem State.modLive_iod (s : State) (wg : Nat) (l : List Nat) (f : Thread → Thread) : (s.modLive wg l f).iod = s.iod := by unfold State.modLive; split <;> simp
@[simp] theorem State.modLive_garrun (s : State) (wg : Nat) (l : List Nat) (f : Thread → Thread) : (s.modLive wg l f).garrun = s.garrun := by unfold State.modLive; split <;> simp
@[simp] theorem State.modLive_checker (s : State) (wg : Nat) (l : List Nat) (f : Thread → Thread) : (s.modLive wg l f).checker = s.checker := by unfold State.modLive; split <;> simp

@[simp] theorem State.modGroup_agenda (s : State) (id : Nat) (f : Group → Group) : (s.modGroup id f).agenda = s.agenda := rfl
@[simp] theorem State.modGroup_clock (s : State) (id : Nat) (f : Group → Group) : (s.modGroup id f).clock = s.clock := rfl
@[simp] theorem State.modGroup_draws (s : State) (id : Nat) (f : Group → Group) : (s.modGroup id f).draws = s.draws := rfl
@[simp] theorem State.modGroup_nextId (s : State) (id : Nat) (f : Group → Group) : (s.modGroup id f).nextId = s.nextId := rfl
@[simp] theorem State.modGroup_cur (s : State) (id : Nat) (f : Group → Group) : (s.modGroup id f).cur = s.cur := rfl
@[simp] theorem State.modGroup_raised (s : State) (id : Nat) (f : Group → Group) : (s.modGroup id f).raised = s.raised := rfl
@[simp] theorem State.modGroup_mem (s : State) (id : Nat) (f : Group → Group) : (s.modGroup id f).mem = s.mem := rfl
@[simp] theorem State.modGroup_threads (s : State) (id : Nat) (f : Group → Group) : (s.modGroup id f).threads = s.threads := rfl
@[simp] theorem State.modGroup_bins (s : State) (id : Nat) (f : Group → Group) : (s.modGroup id f).bins = s.bins := rfl
@[simp] theorem State.modGroup_wgs (s : State) (id : Nat) (f : Group → Group) : (s.modGroup id f).wgs = s.wgs := rfl
@[simp] theorem State.modGroup_gangs (s : State) (id : Nat) (f : Group → Group) : (s.modGroup id f).gangs = s.gangs := rfl
@[simp] theorem State.modGroup_launches (s : State) (id : Nat) (f : Group → Group) : (s.modGroup id f).launches = s.launches := rfl
@[simp] theorem State.modGroup_flights (s : State) (id : Nat) (f : Group → Group) : (s.modGroup id f).flights = s.flights := rfl
@[simp] theorem State.modGroup_tiles (s : State) (id : Nat) (f : Group → Group) : (s.modGroup id f).tiles = s.tiles := rfl
@[simp] theorem State.modGroup_engines (s : State) (id : Nat) (f : Group → Group) : (s.modGroup id f).engines = s.engines := rfl
@[simp] theorem State.modGroup_locks (s : State) (id : Nat) (f : Group → Group) : (s.modGroup id f).locks = s.locks := rfl
@[simp] theorem State.modGroup_l1 (s : State) (id : Nat) (f : Group → Group) : (s.modGroup id f).l1 = s.l1 := rfl
@[simp] theorem State.modGroup_llcDirty (s : State) (id : Nat) (f : Group → Group) : (s.modGroup id f).llcDirty = s.llcDirty := rfl
@[simp] theorem State.modGroup_poison (s : State) (id : Nat) (f : Group → Group) : (s.modGroup id f).poison = s.poison := rfl
@[simp] theorem State.modGroup_tlb (s : State) (id : Nat) (f : Group → Group) : (s.modGroup id f).tlb = s.tlb := rfl
@[simp] theorem State.modGroup_stt (s : State) (id : Nat) (f : Group → Group) : (s.modGroup id f).stt = s.stt := rfl
@[simp] theorem State.modGroup_cores (s : State) (id : Nat) (f : Group → Group) : (s.modGroup id f).cores = s.cores := rfl
@[simp] theorem State.modGroup_dies (s : State) (id : Nat) (f : Group → Group) : (s.modGroup id f).dies = s.dies := rfl
@[simp] theorem State.modGroup_worlds (s : State) (id : Nat) (f : Group → Group) : (s.modGroup id f).worlds = s.worlds := rfl
@[simp] theorem State.modGroup_versions (s : State) (id : Nat) (f : Group → Group) : (s.modGroup id f).versions = s.versions := rfl
@[simp] theorem State.modGroup_injects (s : State) (id : Nat) (f : Group → Group) : (s.modGroup id f).injects = s.injects := rfl
@[simp] theorem State.modGroup_powered (s : State) (id : Nat) (f : Group → Group) : (s.modGroup id f).powered = s.powered := rfl
@[simp] theorem State.modGroup_iod (s : State) (id : Nat) (f : Group → Group) : (s.modGroup id f).iod = s.iod := rfl
@[simp] theorem State.modGroup_garrun (s : State) (id : Nat) (f : Group → Group) : (s.modGroup id f).garrun = s.garrun := rfl
@[simp] theorem State.modGroup_checker (s : State) (id : Nat) (f : Group → Group) : (s.modGroup id f).checker = s.checker := rfl

@[simp] theorem State.modWg_agenda (s : State) (id : Nat) (f : Workgroup → Workgroup) : (s.modWg id f).agenda = s.agenda := rfl
@[simp] theorem State.modWg_clock (s : State) (id : Nat) (f : Workgroup → Workgroup) : (s.modWg id f).clock = s.clock := rfl
@[simp] theorem State.modWg_draws (s : State) (id : Nat) (f : Workgroup → Workgroup) : (s.modWg id f).draws = s.draws := rfl
@[simp] theorem State.modWg_nextId (s : State) (id : Nat) (f : Workgroup → Workgroup) : (s.modWg id f).nextId = s.nextId := rfl
@[simp] theorem State.modWg_cur (s : State) (id : Nat) (f : Workgroup → Workgroup) : (s.modWg id f).cur = s.cur := rfl
@[simp] theorem State.modWg_raised (s : State) (id : Nat) (f : Workgroup → Workgroup) : (s.modWg id f).raised = s.raised := rfl
@[simp] theorem State.modWg_mem (s : State) (id : Nat) (f : Workgroup → Workgroup) : (s.modWg id f).mem = s.mem := rfl
@[simp] theorem State.modWg_threads (s : State) (id : Nat) (f : Workgroup → Workgroup) : (s.modWg id f).threads = s.threads := rfl
@[simp] theorem State.modWg_groups (s : State) (id : Nat) (f : Workgroup → Workgroup) : (s.modWg id f).groups = s.groups := rfl
@[simp] theorem State.modWg_bins (s : State) (id : Nat) (f : Workgroup → Workgroup) : (s.modWg id f).bins = s.bins := rfl
@[simp] theorem State.modWg_gangs (s : State) (id : Nat) (f : Workgroup → Workgroup) : (s.modWg id f).gangs = s.gangs := rfl
@[simp] theorem State.modWg_launches (s : State) (id : Nat) (f : Workgroup → Workgroup) : (s.modWg id f).launches = s.launches := rfl
@[simp] theorem State.modWg_flights (s : State) (id : Nat) (f : Workgroup → Workgroup) : (s.modWg id f).flights = s.flights := rfl
@[simp] theorem State.modWg_tiles (s : State) (id : Nat) (f : Workgroup → Workgroup) : (s.modWg id f).tiles = s.tiles := rfl
@[simp] theorem State.modWg_engines (s : State) (id : Nat) (f : Workgroup → Workgroup) : (s.modWg id f).engines = s.engines := rfl
@[simp] theorem State.modWg_locks (s : State) (id : Nat) (f : Workgroup → Workgroup) : (s.modWg id f).locks = s.locks := rfl
@[simp] theorem State.modWg_l1 (s : State) (id : Nat) (f : Workgroup → Workgroup) : (s.modWg id f).l1 = s.l1 := rfl
@[simp] theorem State.modWg_llcDirty (s : State) (id : Nat) (f : Workgroup → Workgroup) : (s.modWg id f).llcDirty = s.llcDirty := rfl
@[simp] theorem State.modWg_poison (s : State) (id : Nat) (f : Workgroup → Workgroup) : (s.modWg id f).poison = s.poison := rfl
@[simp] theorem State.modWg_tlb (s : State) (id : Nat) (f : Workgroup → Workgroup) : (s.modWg id f).tlb = s.tlb := rfl
@[simp] theorem State.modWg_stt (s : State) (id : Nat) (f : Workgroup → Workgroup) : (s.modWg id f).stt = s.stt := rfl
@[simp] theorem State.modWg_cores (s : State) (id : Nat) (f : Workgroup → Workgroup) : (s.modWg id f).cores = s.cores := rfl
@[simp] theorem State.modWg_dies (s : State) (id : Nat) (f : Workgroup → Workgroup) : (s.modWg id f).dies = s.dies := rfl
@[simp] theorem State.modWg_worlds (s : State) (id : Nat) (f : Workgroup → Workgroup) : (s.modWg id f).worlds = s.worlds := rfl
@[simp] theorem State.modWg_versions (s : State) (id : Nat) (f : Workgroup → Workgroup) : (s.modWg id f).versions = s.versions := rfl
@[simp] theorem State.modWg_injects (s : State) (id : Nat) (f : Workgroup → Workgroup) : (s.modWg id f).injects = s.injects := rfl
@[simp] theorem State.modWg_powered (s : State) (id : Nat) (f : Workgroup → Workgroup) : (s.modWg id f).powered = s.powered := rfl
@[simp] theorem State.modWg_iod (s : State) (id : Nat) (f : Workgroup → Workgroup) : (s.modWg id f).iod = s.iod := rfl
@[simp] theorem State.modWg_garrun (s : State) (id : Nat) (f : Workgroup → Workgroup) : (s.modWg id f).garrun = s.garrun := rfl
@[simp] theorem State.modWg_checker (s : State) (id : Nat) (f : Workgroup → Workgroup) : (s.modWg id f).checker = s.checker := rfl

@[simp] theorem State.modGang_agenda (s : State) (id : Nat) (f : Gang → Gang) : (s.modGang id f).agenda = s.agenda := rfl
@[simp] theorem State.modGang_clock (s : State) (id : Nat) (f : Gang → Gang) : (s.modGang id f).clock = s.clock := rfl
@[simp] theorem State.modGang_draws (s : State) (id : Nat) (f : Gang → Gang) : (s.modGang id f).draws = s.draws := rfl
@[simp] theorem State.modGang_nextId (s : State) (id : Nat) (f : Gang → Gang) : (s.modGang id f).nextId = s.nextId := rfl
@[simp] theorem State.modGang_cur (s : State) (id : Nat) (f : Gang → Gang) : (s.modGang id f).cur = s.cur := rfl
@[simp] theorem State.modGang_raised (s : State) (id : Nat) (f : Gang → Gang) : (s.modGang id f).raised = s.raised := rfl
@[simp] theorem State.modGang_mem (s : State) (id : Nat) (f : Gang → Gang) : (s.modGang id f).mem = s.mem := rfl
@[simp] theorem State.modGang_threads (s : State) (id : Nat) (f : Gang → Gang) : (s.modGang id f).threads = s.threads := rfl
@[simp] theorem State.modGang_groups (s : State) (id : Nat) (f : Gang → Gang) : (s.modGang id f).groups = s.groups := rfl
@[simp] theorem State.modGang_bins (s : State) (id : Nat) (f : Gang → Gang) : (s.modGang id f).bins = s.bins := rfl
@[simp] theorem State.modGang_wgs (s : State) (id : Nat) (f : Gang → Gang) : (s.modGang id f).wgs = s.wgs := rfl
@[simp] theorem State.modGang_launches (s : State) (id : Nat) (f : Gang → Gang) : (s.modGang id f).launches = s.launches := rfl
@[simp] theorem State.modGang_flights (s : State) (id : Nat) (f : Gang → Gang) : (s.modGang id f).flights = s.flights := rfl
@[simp] theorem State.modGang_tiles (s : State) (id : Nat) (f : Gang → Gang) : (s.modGang id f).tiles = s.tiles := rfl
@[simp] theorem State.modGang_engines (s : State) (id : Nat) (f : Gang → Gang) : (s.modGang id f).engines = s.engines := rfl
@[simp] theorem State.modGang_locks (s : State) (id : Nat) (f : Gang → Gang) : (s.modGang id f).locks = s.locks := rfl
@[simp] theorem State.modGang_l1 (s : State) (id : Nat) (f : Gang → Gang) : (s.modGang id f).l1 = s.l1 := rfl
@[simp] theorem State.modGang_llcDirty (s : State) (id : Nat) (f : Gang → Gang) : (s.modGang id f).llcDirty = s.llcDirty := rfl
@[simp] theorem State.modGang_poison (s : State) (id : Nat) (f : Gang → Gang) : (s.modGang id f).poison = s.poison := rfl
@[simp] theorem State.modGang_tlb (s : State) (id : Nat) (f : Gang → Gang) : (s.modGang id f).tlb = s.tlb := rfl
@[simp] theorem State.modGang_stt (s : State) (id : Nat) (f : Gang → Gang) : (s.modGang id f).stt = s.stt := rfl
@[simp] theorem State.modGang_cores (s : State) (id : Nat) (f : Gang → Gang) : (s.modGang id f).cores = s.cores := rfl
@[simp] theorem State.modGang_dies (s : State) (id : Nat) (f : Gang → Gang) : (s.modGang id f).dies = s.dies := rfl
@[simp] theorem State.modGang_worlds (s : State) (id : Nat) (f : Gang → Gang) : (s.modGang id f).worlds = s.worlds := rfl
@[simp] theorem State.modGang_versions (s : State) (id : Nat) (f : Gang → Gang) : (s.modGang id f).versions = s.versions := rfl
@[simp] theorem State.modGang_injects (s : State) (id : Nat) (f : Gang → Gang) : (s.modGang id f).injects = s.injects := rfl
@[simp] theorem State.modGang_powered (s : State) (id : Nat) (f : Gang → Gang) : (s.modGang id f).powered = s.powered := rfl
@[simp] theorem State.modGang_iod (s : State) (id : Nat) (f : Gang → Gang) : (s.modGang id f).iod = s.iod := rfl
@[simp] theorem State.modGang_garrun (s : State) (id : Nat) (f : Gang → Gang) : (s.modGang id f).garrun = s.garrun := rfl
@[simp] theorem State.modGang_checker (s : State) (id : Nat) (f : Gang → Gang) : (s.modGang id f).checker = s.checker := rfl

@[simp] theorem State.modLaunch_agenda (s : State) (id : Nat) (f : Launch → Launch) : (s.modLaunch id f).agenda = s.agenda := rfl
@[simp] theorem State.modLaunch_clock (s : State) (id : Nat) (f : Launch → Launch) : (s.modLaunch id f).clock = s.clock := rfl
@[simp] theorem State.modLaunch_draws (s : State) (id : Nat) (f : Launch → Launch) : (s.modLaunch id f).draws = s.draws := rfl
@[simp] theorem State.modLaunch_nextId (s : State) (id : Nat) (f : Launch → Launch) : (s.modLaunch id f).nextId = s.nextId := rfl
@[simp] theorem State.modLaunch_cur (s : State) (id : Nat) (f : Launch → Launch) : (s.modLaunch id f).cur = s.cur := rfl
@[simp] theorem State.modLaunch_raised (s : State) (id : Nat) (f : Launch → Launch) : (s.modLaunch id f).raised = s.raised := rfl
@[simp] theorem State.modLaunch_mem (s : State) (id : Nat) (f : Launch → Launch) : (s.modLaunch id f).mem = s.mem := rfl
@[simp] theorem State.modLaunch_threads (s : State) (id : Nat) (f : Launch → Launch) : (s.modLaunch id f).threads = s.threads := rfl
@[simp] theorem State.modLaunch_groups (s : State) (id : Nat) (f : Launch → Launch) : (s.modLaunch id f).groups = s.groups := rfl
@[simp] theorem State.modLaunch_bins (s : State) (id : Nat) (f : Launch → Launch) : (s.modLaunch id f).bins = s.bins := rfl
@[simp] theorem State.modLaunch_wgs (s : State) (id : Nat) (f : Launch → Launch) : (s.modLaunch id f).wgs = s.wgs := rfl
@[simp] theorem State.modLaunch_gangs (s : State) (id : Nat) (f : Launch → Launch) : (s.modLaunch id f).gangs = s.gangs := rfl
@[simp] theorem State.modLaunch_flights (s : State) (id : Nat) (f : Launch → Launch) : (s.modLaunch id f).flights = s.flights := rfl
@[simp] theorem State.modLaunch_tiles (s : State) (id : Nat) (f : Launch → Launch) : (s.modLaunch id f).tiles = s.tiles := rfl
@[simp] theorem State.modLaunch_engines (s : State) (id : Nat) (f : Launch → Launch) : (s.modLaunch id f).engines = s.engines := rfl
@[simp] theorem State.modLaunch_locks (s : State) (id : Nat) (f : Launch → Launch) : (s.modLaunch id f).locks = s.locks := rfl
@[simp] theorem State.modLaunch_l1 (s : State) (id : Nat) (f : Launch → Launch) : (s.modLaunch id f).l1 = s.l1 := rfl
@[simp] theorem State.modLaunch_llcDirty (s : State) (id : Nat) (f : Launch → Launch) : (s.modLaunch id f).llcDirty = s.llcDirty := rfl
@[simp] theorem State.modLaunch_poison (s : State) (id : Nat) (f : Launch → Launch) : (s.modLaunch id f).poison = s.poison := rfl
@[simp] theorem State.modLaunch_tlb (s : State) (id : Nat) (f : Launch → Launch) : (s.modLaunch id f).tlb = s.tlb := rfl
@[simp] theorem State.modLaunch_stt (s : State) (id : Nat) (f : Launch → Launch) : (s.modLaunch id f).stt = s.stt := rfl
@[simp] theorem State.modLaunch_cores (s : State) (id : Nat) (f : Launch → Launch) : (s.modLaunch id f).cores = s.cores := rfl
@[simp] theorem State.modLaunch_dies (s : State) (id : Nat) (f : Launch → Launch) : (s.modLaunch id f).dies = s.dies := rfl
@[simp] theorem State.modLaunch_worlds (s : State) (id : Nat) (f : Launch → Launch) : (s.modLaunch id f).worlds = s.worlds := rfl
@[simp] theorem State.modLaunch_versions (s : State) (id : Nat) (f : Launch → Launch) : (s.modLaunch id f).versions = s.versions := rfl
@[simp] theorem State.modLaunch_injects (s : State) (id : Nat) (f : Launch → Launch) : (s.modLaunch id f).injects = s.injects := rfl
@[simp] theorem State.modLaunch_powered (s : State) (id : Nat) (f : Launch → Launch) : (s.modLaunch id f).powered = s.powered := rfl
@[simp] theorem State.modLaunch_iod (s : State) (id : Nat) (f : Launch → Launch) : (s.modLaunch id f).iod = s.iod := rfl
@[simp] theorem State.modLaunch_garrun (s : State) (id : Nat) (f : Launch → Launch) : (s.modLaunch id f).garrun = s.garrun := rfl
@[simp] theorem State.modLaunch_checker (s : State) (id : Nat) (f : Launch → Launch) : (s.modLaunch id f).checker = s.checker := rfl

@[simp] theorem State.modEngine_agenda (s : State) (id : Nat) (f : EngineOp → EngineOp) : (s.modEngine id f).agenda = s.agenda := rfl
@[simp] theorem State.modEngine_clock (s : State) (id : Nat) (f : EngineOp → EngineOp) : (s.modEngine id f).clock = s.clock := rfl
@[simp] theorem State.modEngine_draws (s : State) (id : Nat) (f : EngineOp → EngineOp) : (s.modEngine id f).draws = s.draws := rfl
@[simp] theorem State.modEngine_nextId (s : State) (id : Nat) (f : EngineOp → EngineOp) : (s.modEngine id f).nextId = s.nextId := rfl
@[simp] theorem State.modEngine_cur (s : State) (id : Nat) (f : EngineOp → EngineOp) : (s.modEngine id f).cur = s.cur := rfl
@[simp] theorem State.modEngine_raised (s : State) (id : Nat) (f : EngineOp → EngineOp) : (s.modEngine id f).raised = s.raised := rfl
@[simp] theorem State.modEngine_mem (s : State) (id : Nat) (f : EngineOp → EngineOp) : (s.modEngine id f).mem = s.mem := rfl
@[simp] theorem State.modEngine_threads (s : State) (id : Nat) (f : EngineOp → EngineOp) : (s.modEngine id f).threads = s.threads := rfl
@[simp] theorem State.modEngine_groups (s : State) (id : Nat) (f : EngineOp → EngineOp) : (s.modEngine id f).groups = s.groups := rfl
@[simp] theorem State.modEngine_bins (s : State) (id : Nat) (f : EngineOp → EngineOp) : (s.modEngine id f).bins = s.bins := rfl
@[simp] theorem State.modEngine_wgs (s : State) (id : Nat) (f : EngineOp → EngineOp) : (s.modEngine id f).wgs = s.wgs := rfl
@[simp] theorem State.modEngine_gangs (s : State) (id : Nat) (f : EngineOp → EngineOp) : (s.modEngine id f).gangs = s.gangs := rfl
@[simp] theorem State.modEngine_launches (s : State) (id : Nat) (f : EngineOp → EngineOp) : (s.modEngine id f).launches = s.launches := rfl
@[simp] theorem State.modEngine_flights (s : State) (id : Nat) (f : EngineOp → EngineOp) : (s.modEngine id f).flights = s.flights := rfl
@[simp] theorem State.modEngine_tiles (s : State) (id : Nat) (f : EngineOp → EngineOp) : (s.modEngine id f).tiles = s.tiles := rfl
@[simp] theorem State.modEngine_locks (s : State) (id : Nat) (f : EngineOp → EngineOp) : (s.modEngine id f).locks = s.locks := rfl
@[simp] theorem State.modEngine_l1 (s : State) (id : Nat) (f : EngineOp → EngineOp) : (s.modEngine id f).l1 = s.l1 := rfl
@[simp] theorem State.modEngine_llcDirty (s : State) (id : Nat) (f : EngineOp → EngineOp) : (s.modEngine id f).llcDirty = s.llcDirty := rfl
@[simp] theorem State.modEngine_poison (s : State) (id : Nat) (f : EngineOp → EngineOp) : (s.modEngine id f).poison = s.poison := rfl
@[simp] theorem State.modEngine_tlb (s : State) (id : Nat) (f : EngineOp → EngineOp) : (s.modEngine id f).tlb = s.tlb := rfl
@[simp] theorem State.modEngine_stt (s : State) (id : Nat) (f : EngineOp → EngineOp) : (s.modEngine id f).stt = s.stt := rfl
@[simp] theorem State.modEngine_cores (s : State) (id : Nat) (f : EngineOp → EngineOp) : (s.modEngine id f).cores = s.cores := rfl
@[simp] theorem State.modEngine_dies (s : State) (id : Nat) (f : EngineOp → EngineOp) : (s.modEngine id f).dies = s.dies := rfl
@[simp] theorem State.modEngine_worlds (s : State) (id : Nat) (f : EngineOp → EngineOp) : (s.modEngine id f).worlds = s.worlds := rfl
@[simp] theorem State.modEngine_versions (s : State) (id : Nat) (f : EngineOp → EngineOp) : (s.modEngine id f).versions = s.versions := rfl
@[simp] theorem State.modEngine_injects (s : State) (id : Nat) (f : EngineOp → EngineOp) : (s.modEngine id f).injects = s.injects := rfl
@[simp] theorem State.modEngine_powered (s : State) (id : Nat) (f : EngineOp → EngineOp) : (s.modEngine id f).powered = s.powered := rfl
@[simp] theorem State.modEngine_iod (s : State) (id : Nat) (f : EngineOp → EngineOp) : (s.modEngine id f).iod = s.iod := rfl
@[simp] theorem State.modEngine_garrun (s : State) (id : Nat) (f : EngineOp → EngineOp) : (s.modEngine id f).garrun = s.garrun := rfl
@[simp] theorem State.modEngine_checker (s : State) (id : Nat) (f : EngineOp → EngineOp) : (s.modEngine id f).checker = s.checker := rfl

@[simp] theorem State.modFlight_agenda (s : State) (id : Nat) (f : Flight → Flight) : (s.modFlight id f).agenda = s.agenda := rfl
@[simp] theorem State.modFlight_clock (s : State) (id : Nat) (f : Flight → Flight) : (s.modFlight id f).clock = s.clock := rfl
@[simp] theorem State.modFlight_draws (s : State) (id : Nat) (f : Flight → Flight) : (s.modFlight id f).draws = s.draws := rfl
@[simp] theorem State.modFlight_nextId (s : State) (id : Nat) (f : Flight → Flight) : (s.modFlight id f).nextId = s.nextId := rfl
@[simp] theorem State.modFlight_cur (s : State) (id : Nat) (f : Flight → Flight) : (s.modFlight id f).cur = s.cur := rfl
@[simp] theorem State.modFlight_raised (s : State) (id : Nat) (f : Flight → Flight) : (s.modFlight id f).raised = s.raised := rfl
@[simp] theorem State.modFlight_mem (s : State) (id : Nat) (f : Flight → Flight) : (s.modFlight id f).mem = s.mem := rfl
@[simp] theorem State.modFlight_threads (s : State) (id : Nat) (f : Flight → Flight) : (s.modFlight id f).threads = s.threads := rfl
@[simp] theorem State.modFlight_groups (s : State) (id : Nat) (f : Flight → Flight) : (s.modFlight id f).groups = s.groups := rfl
@[simp] theorem State.modFlight_bins (s : State) (id : Nat) (f : Flight → Flight) : (s.modFlight id f).bins = s.bins := rfl
@[simp] theorem State.modFlight_wgs (s : State) (id : Nat) (f : Flight → Flight) : (s.modFlight id f).wgs = s.wgs := rfl
@[simp] theorem State.modFlight_gangs (s : State) (id : Nat) (f : Flight → Flight) : (s.modFlight id f).gangs = s.gangs := rfl
@[simp] theorem State.modFlight_launches (s : State) (id : Nat) (f : Flight → Flight) : (s.modFlight id f).launches = s.launches := rfl
@[simp] theorem State.modFlight_tiles (s : State) (id : Nat) (f : Flight → Flight) : (s.modFlight id f).tiles = s.tiles := rfl
@[simp] theorem State.modFlight_engines (s : State) (id : Nat) (f : Flight → Flight) : (s.modFlight id f).engines = s.engines := rfl
@[simp] theorem State.modFlight_locks (s : State) (id : Nat) (f : Flight → Flight) : (s.modFlight id f).locks = s.locks := rfl
@[simp] theorem State.modFlight_l1 (s : State) (id : Nat) (f : Flight → Flight) : (s.modFlight id f).l1 = s.l1 := rfl
@[simp] theorem State.modFlight_llcDirty (s : State) (id : Nat) (f : Flight → Flight) : (s.modFlight id f).llcDirty = s.llcDirty := rfl
@[simp] theorem State.modFlight_poison (s : State) (id : Nat) (f : Flight → Flight) : (s.modFlight id f).poison = s.poison := rfl
@[simp] theorem State.modFlight_tlb (s : State) (id : Nat) (f : Flight → Flight) : (s.modFlight id f).tlb = s.tlb := rfl
@[simp] theorem State.modFlight_stt (s : State) (id : Nat) (f : Flight → Flight) : (s.modFlight id f).stt = s.stt := rfl
@[simp] theorem State.modFlight_cores (s : State) (id : Nat) (f : Flight → Flight) : (s.modFlight id f).cores = s.cores := rfl
@[simp] theorem State.modFlight_dies (s : State) (id : Nat) (f : Flight → Flight) : (s.modFlight id f).dies = s.dies := rfl
@[simp] theorem State.modFlight_worlds (s : State) (id : Nat) (f : Flight → Flight) : (s.modFlight id f).worlds = s.worlds := rfl
@[simp] theorem State.modFlight_versions (s : State) (id : Nat) (f : Flight → Flight) : (s.modFlight id f).versions = s.versions := rfl
@[simp] theorem State.modFlight_injects (s : State) (id : Nat) (f : Flight → Flight) : (s.modFlight id f).injects = s.injects := rfl
@[simp] theorem State.modFlight_powered (s : State) (id : Nat) (f : Flight → Flight) : (s.modFlight id f).powered = s.powered := rfl
@[simp] theorem State.modFlight_iod (s : State) (id : Nat) (f : Flight → Flight) : (s.modFlight id f).iod = s.iod := rfl
@[simp] theorem State.modFlight_garrun (s : State) (id : Nat) (f : Flight → Flight) : (s.modFlight id f).garrun = s.garrun := rfl
@[simp] theorem State.modFlight_checker (s : State) (id : Nat) (f : Flight → Flight) : (s.modFlight id f).checker = s.checker := rfl

@[simp] theorem State.modTile_agenda (s : State) (id : Nat) (f : TileOp → TileOp) : (s.modTile id f).agenda = s.agenda := rfl
@[simp] theorem State.modTile_clock (s : State) (id : Nat) (f : TileOp → TileOp) : (s.modTile id f).clock = s.clock := rfl
@[simp] theorem State.modTile_draws (s : State) (id : Nat) (f : TileOp → TileOp) : (s.modTile id f).draws = s.draws := rfl
@[simp] theorem State.modTile_nextId (s : State) (id : Nat) (f : TileOp → TileOp) : (s.modTile id f).nextId = s.nextId := rfl
@[simp] theorem State.modTile_cur (s : State) (id : Nat) (f : TileOp → TileOp) : (s.modTile id f).cur = s.cur := rfl
@[simp] theorem State.modTile_raised (s : State) (id : Nat) (f : TileOp → TileOp) : (s.modTile id f).raised = s.raised := rfl
@[simp] theorem State.modTile_mem (s : State) (id : Nat) (f : TileOp → TileOp) : (s.modTile id f).mem = s.mem := rfl
@[simp] theorem State.modTile_threads (s : State) (id : Nat) (f : TileOp → TileOp) : (s.modTile id f).threads = s.threads := rfl
@[simp] theorem State.modTile_groups (s : State) (id : Nat) (f : TileOp → TileOp) : (s.modTile id f).groups = s.groups := rfl
@[simp] theorem State.modTile_bins (s : State) (id : Nat) (f : TileOp → TileOp) : (s.modTile id f).bins = s.bins := rfl
@[simp] theorem State.modTile_wgs (s : State) (id : Nat) (f : TileOp → TileOp) : (s.modTile id f).wgs = s.wgs := rfl
@[simp] theorem State.modTile_gangs (s : State) (id : Nat) (f : TileOp → TileOp) : (s.modTile id f).gangs = s.gangs := rfl
@[simp] theorem State.modTile_launches (s : State) (id : Nat) (f : TileOp → TileOp) : (s.modTile id f).launches = s.launches := rfl
@[simp] theorem State.modTile_flights (s : State) (id : Nat) (f : TileOp → TileOp) : (s.modTile id f).flights = s.flights := rfl
@[simp] theorem State.modTile_engines (s : State) (id : Nat) (f : TileOp → TileOp) : (s.modTile id f).engines = s.engines := rfl
@[simp] theorem State.modTile_locks (s : State) (id : Nat) (f : TileOp → TileOp) : (s.modTile id f).locks = s.locks := rfl
@[simp] theorem State.modTile_l1 (s : State) (id : Nat) (f : TileOp → TileOp) : (s.modTile id f).l1 = s.l1 := rfl
@[simp] theorem State.modTile_llcDirty (s : State) (id : Nat) (f : TileOp → TileOp) : (s.modTile id f).llcDirty = s.llcDirty := rfl
@[simp] theorem State.modTile_poison (s : State) (id : Nat) (f : TileOp → TileOp) : (s.modTile id f).poison = s.poison := rfl
@[simp] theorem State.modTile_tlb (s : State) (id : Nat) (f : TileOp → TileOp) : (s.modTile id f).tlb = s.tlb := rfl
@[simp] theorem State.modTile_stt (s : State) (id : Nat) (f : TileOp → TileOp) : (s.modTile id f).stt = s.stt := rfl
@[simp] theorem State.modTile_cores (s : State) (id : Nat) (f : TileOp → TileOp) : (s.modTile id f).cores = s.cores := rfl
@[simp] theorem State.modTile_dies (s : State) (id : Nat) (f : TileOp → TileOp) : (s.modTile id f).dies = s.dies := rfl
@[simp] theorem State.modTile_worlds (s : State) (id : Nat) (f : TileOp → TileOp) : (s.modTile id f).worlds = s.worlds := rfl
@[simp] theorem State.modTile_versions (s : State) (id : Nat) (f : TileOp → TileOp) : (s.modTile id f).versions = s.versions := rfl
@[simp] theorem State.modTile_injects (s : State) (id : Nat) (f : TileOp → TileOp) : (s.modTile id f).injects = s.injects := rfl
@[simp] theorem State.modTile_powered (s : State) (id : Nat) (f : TileOp → TileOp) : (s.modTile id f).powered = s.powered := rfl
@[simp] theorem State.modTile_iod (s : State) (id : Nat) (f : TileOp → TileOp) : (s.modTile id f).iod = s.iod := rfl
@[simp] theorem State.modTile_garrun (s : State) (id : Nat) (f : TileOp → TileOp) : (s.modTile id f).garrun = s.garrun := rfl
@[simp] theorem State.modTile_checker (s : State) (id : Nat) (f : TileOp → TileOp) : (s.modTile id f).checker = s.checker := rfl

@[simp] theorem State.modWorld_agenda (s : State) (w : Nat) (f : World → World) : (s.modWorld w f).agenda = s.agenda := by unfold State.modWorld; split <;> rfl
@[simp] theorem State.modWorld_clock (s : State) (w : Nat) (f : World → World) : (s.modWorld w f).clock = s.clock := by unfold State.modWorld; split <;> rfl
@[simp] theorem State.modWorld_draws (s : State) (w : Nat) (f : World → World) : (s.modWorld w f).draws = s.draws := by unfold State.modWorld; split <;> rfl
@[simp] theorem State.modWorld_nextId (s : State) (w : Nat) (f : World → World) : (s.modWorld w f).nextId = s.nextId := by unfold State.modWorld; split <;> rfl
@[simp] theorem State.modWorld_cur (s : State) (w : Nat) (f : World → World) : (s.modWorld w f).cur = s.cur := by unfold State.modWorld; split <;> rfl
@[simp] theorem State.modWorld_raised (s : State) (w : Nat) (f : World → World) : (s.modWorld w f).raised = s.raised := by unfold State.modWorld; split <;> rfl
@[simp] theorem State.modWorld_mem (s : State) (w : Nat) (f : World → World) : (s.modWorld w f).mem = s.mem := by unfold State.modWorld; split <;> rfl
@[simp] theorem State.modWorld_threads (s : State) (w : Nat) (f : World → World) : (s.modWorld w f).threads = s.threads := by unfold State.modWorld; split <;> rfl
@[simp] theorem State.modWorld_groups (s : State) (w : Nat) (f : World → World) : (s.modWorld w f).groups = s.groups := by unfold State.modWorld; split <;> rfl
@[simp] theorem State.modWorld_bins (s : State) (w : Nat) (f : World → World) : (s.modWorld w f).bins = s.bins := by unfold State.modWorld; split <;> rfl
@[simp] theorem State.modWorld_wgs (s : State) (w : Nat) (f : World → World) : (s.modWorld w f).wgs = s.wgs := by unfold State.modWorld; split <;> rfl
@[simp] theorem State.modWorld_gangs (s : State) (w : Nat) (f : World → World) : (s.modWorld w f).gangs = s.gangs := by unfold State.modWorld; split <;> rfl
@[simp] theorem State.modWorld_launches (s : State) (w : Nat) (f : World → World) : (s.modWorld w f).launches = s.launches := by unfold State.modWorld; split <;> rfl
@[simp] theorem State.modWorld_flights (s : State) (w : Nat) (f : World → World) : (s.modWorld w f).flights = s.flights := by unfold State.modWorld; split <;> rfl
@[simp] theorem State.modWorld_tiles (s : State) (w : Nat) (f : World → World) : (s.modWorld w f).tiles = s.tiles := by unfold State.modWorld; split <;> rfl
@[simp] theorem State.modWorld_engines (s : State) (w : Nat) (f : World → World) : (s.modWorld w f).engines = s.engines := by unfold State.modWorld; split <;> rfl
@[simp] theorem State.modWorld_locks (s : State) (w : Nat) (f : World → World) : (s.modWorld w f).locks = s.locks := by unfold State.modWorld; split <;> rfl
@[simp] theorem State.modWorld_l1 (s : State) (w : Nat) (f : World → World) : (s.modWorld w f).l1 = s.l1 := by unfold State.modWorld; split <;> rfl
@[simp] theorem State.modWorld_llcDirty (s : State) (w : Nat) (f : World → World) : (s.modWorld w f).llcDirty = s.llcDirty := by unfold State.modWorld; split <;> rfl
@[simp] theorem State.modWorld_poison (s : State) (w : Nat) (f : World → World) : (s.modWorld w f).poison = s.poison := by unfold State.modWorld; split <;> rfl
@[simp] theorem State.modWorld_tlb (s : State) (w : Nat) (f : World → World) : (s.modWorld w f).tlb = s.tlb := by unfold State.modWorld; split <;> rfl
@[simp] theorem State.modWorld_stt (s : State) (w : Nat) (f : World → World) : (s.modWorld w f).stt = s.stt := by unfold State.modWorld; split <;> rfl
@[simp] theorem State.modWorld_cores (s : State) (w : Nat) (f : World → World) : (s.modWorld w f).cores = s.cores := by unfold State.modWorld; split <;> rfl
@[simp] theorem State.modWorld_dies (s : State) (w : Nat) (f : World → World) : (s.modWorld w f).dies = s.dies := by unfold State.modWorld; split <;> rfl
@[simp] theorem State.modWorld_versions (s : State) (w : Nat) (f : World → World) : (s.modWorld w f).versions = s.versions := by unfold State.modWorld; split <;> rfl
@[simp] theorem State.modWorld_injects (s : State) (w : Nat) (f : World → World) : (s.modWorld w f).injects = s.injects := by unfold State.modWorld; split <;> rfl
@[simp] theorem State.modWorld_powered (s : State) (w : Nat) (f : World → World) : (s.modWorld w f).powered = s.powered := by unfold State.modWorld; split <;> rfl
@[simp] theorem State.modWorld_iod (s : State) (w : Nat) (f : World → World) : (s.modWorld w f).iod = s.iod := by unfold State.modWorld; split <;> rfl
@[simp] theorem State.modWorld_garrun (s : State) (w : Nat) (f : World → World) : (s.modWorld w f).garrun = s.garrun := by unfold State.modWorld; split <;> rfl
@[simp] theorem State.modWorld_checker (s : State) (w : Nat) (f : World → World) : (s.modWorld w f).checker = s.checker := by unfold State.modWorld; split <;> rfl

@[simp] theorem State.modDie_agenda (s : State) (d : Nat) (f : Die → Die) : (s.modDie d f).agenda = s.agenda := rfl
@[simp] theorem State.modDie_clock (s : State) (d : Nat) (f : Die → Die) : (s.modDie d f).clock = s.clock := rfl
@[simp] theorem State.modDie_draws (s : State) (d : Nat) (f : Die → Die) : (s.modDie d f).draws = s.draws := rfl
@[simp] theorem State.modDie_nextId (s : State) (d : Nat) (f : Die → Die) : (s.modDie d f).nextId = s.nextId := rfl
@[simp] theorem State.modDie_cur (s : State) (d : Nat) (f : Die → Die) : (s.modDie d f).cur = s.cur := rfl
@[simp] theorem State.modDie_raised (s : State) (d : Nat) (f : Die → Die) : (s.modDie d f).raised = s.raised := rfl
@[simp] theorem State.modDie_mem (s : State) (d : Nat) (f : Die → Die) : (s.modDie d f).mem = s.mem := rfl
@[simp] theorem State.modDie_threads (s : State) (d : Nat) (f : Die → Die) : (s.modDie d f).threads = s.threads := rfl
@[simp] theorem State.modDie_groups (s : State) (d : Nat) (f : Die → Die) : (s.modDie d f).groups = s.groups := rfl
@[simp] theorem State.modDie_bins (s : State) (d : Nat) (f : Die → Die) : (s.modDie d f).bins = s.bins := rfl
@[simp] theorem State.modDie_wgs (s : State) (d : Nat) (f : Die → Die) : (s.modDie d f).wgs = s.wgs := rfl
@[simp] theorem State.modDie_gangs (s : State) (d : Nat) (f : Die → Die) : (s.modDie d f).gangs = s.gangs := rfl
@[simp] theorem State.modDie_launches (s : State) (d : Nat) (f : Die → Die) : (s.modDie d f).launches = s.launches := rfl
@[simp] theorem State.modDie_flights (s : State) (d : Nat) (f : Die → Die) : (s.modDie d f).flights = s.flights := rfl
@[simp] theorem State.modDie_tiles (s : State) (d : Nat) (f : Die → Die) : (s.modDie d f).tiles = s.tiles := rfl
@[simp] theorem State.modDie_engines (s : State) (d : Nat) (f : Die → Die) : (s.modDie d f).engines = s.engines := rfl
@[simp] theorem State.modDie_locks (s : State) (d : Nat) (f : Die → Die) : (s.modDie d f).locks = s.locks := rfl
@[simp] theorem State.modDie_l1 (s : State) (d : Nat) (f : Die → Die) : (s.modDie d f).l1 = s.l1 := rfl
@[simp] theorem State.modDie_llcDirty (s : State) (d : Nat) (f : Die → Die) : (s.modDie d f).llcDirty = s.llcDirty := rfl
@[simp] theorem State.modDie_poison (s : State) (d : Nat) (f : Die → Die) : (s.modDie d f).poison = s.poison := rfl
@[simp] theorem State.modDie_tlb (s : State) (d : Nat) (f : Die → Die) : (s.modDie d f).tlb = s.tlb := rfl
@[simp] theorem State.modDie_stt (s : State) (d : Nat) (f : Die → Die) : (s.modDie d f).stt = s.stt := rfl
@[simp] theorem State.modDie_cores (s : State) (d : Nat) (f : Die → Die) : (s.modDie d f).cores = s.cores := rfl
@[simp] theorem State.modDie_worlds (s : State) (d : Nat) (f : Die → Die) : (s.modDie d f).worlds = s.worlds := rfl
@[simp] theorem State.modDie_versions (s : State) (d : Nat) (f : Die → Die) : (s.modDie d f).versions = s.versions := rfl
@[simp] theorem State.modDie_injects (s : State) (d : Nat) (f : Die → Die) : (s.modDie d f).injects = s.injects := rfl
@[simp] theorem State.modDie_powered (s : State) (d : Nat) (f : Die → Die) : (s.modDie d f).powered = s.powered := rfl
@[simp] theorem State.modDie_iod (s : State) (d : Nat) (f : Die → Die) : (s.modDie d f).iod = s.iod := rfl
@[simp] theorem State.modDie_garrun (s : State) (d : Nat) (f : Die → Die) : (s.modDie d f).garrun = s.garrun := rfl
@[simp] theorem State.modDie_checker (s : State) (d : Nat) (f : Die → Die) : (s.modDie d f).checker = s.checker := rfl

@[simp] theorem State.modCore_agenda (s : State) (c : Nat) (f : CoreRegs → CoreRegs) : (s.modCore c f).agenda = s.agenda := rfl
@[simp] theorem State.modCore_clock (s : State) (c : Nat) (f : CoreRegs → CoreRegs) : (s.modCore c f).clock = s.clock := rfl
@[simp] theorem State.modCore_draws (s : State) (c : Nat) (f : CoreRegs → CoreRegs) : (s.modCore c f).draws = s.draws := rfl
@[simp] theorem State.modCore_nextId (s : State) (c : Nat) (f : CoreRegs → CoreRegs) : (s.modCore c f).nextId = s.nextId := rfl
@[simp] theorem State.modCore_cur (s : State) (c : Nat) (f : CoreRegs → CoreRegs) : (s.modCore c f).cur = s.cur := rfl
@[simp] theorem State.modCore_raised (s : State) (c : Nat) (f : CoreRegs → CoreRegs) : (s.modCore c f).raised = s.raised := rfl
@[simp] theorem State.modCore_mem (s : State) (c : Nat) (f : CoreRegs → CoreRegs) : (s.modCore c f).mem = s.mem := rfl
@[simp] theorem State.modCore_threads (s : State) (c : Nat) (f : CoreRegs → CoreRegs) : (s.modCore c f).threads = s.threads := rfl
@[simp] theorem State.modCore_groups (s : State) (c : Nat) (f : CoreRegs → CoreRegs) : (s.modCore c f).groups = s.groups := rfl
@[simp] theorem State.modCore_bins (s : State) (c : Nat) (f : CoreRegs → CoreRegs) : (s.modCore c f).bins = s.bins := rfl
@[simp] theorem State.modCore_wgs (s : State) (c : Nat) (f : CoreRegs → CoreRegs) : (s.modCore c f).wgs = s.wgs := rfl
@[simp] theorem State.modCore_gangs (s : State) (c : Nat) (f : CoreRegs → CoreRegs) : (s.modCore c f).gangs = s.gangs := rfl
@[simp] theorem State.modCore_launches (s : State) (c : Nat) (f : CoreRegs → CoreRegs) : (s.modCore c f).launches = s.launches := rfl
@[simp] theorem State.modCore_flights (s : State) (c : Nat) (f : CoreRegs → CoreRegs) : (s.modCore c f).flights = s.flights := rfl
@[simp] theorem State.modCore_tiles (s : State) (c : Nat) (f : CoreRegs → CoreRegs) : (s.modCore c f).tiles = s.tiles := rfl
@[simp] theorem State.modCore_engines (s : State) (c : Nat) (f : CoreRegs → CoreRegs) : (s.modCore c f).engines = s.engines := rfl
@[simp] theorem State.modCore_locks (s : State) (c : Nat) (f : CoreRegs → CoreRegs) : (s.modCore c f).locks = s.locks := rfl
@[simp] theorem State.modCore_l1 (s : State) (c : Nat) (f : CoreRegs → CoreRegs) : (s.modCore c f).l1 = s.l1 := rfl
@[simp] theorem State.modCore_llcDirty (s : State) (c : Nat) (f : CoreRegs → CoreRegs) : (s.modCore c f).llcDirty = s.llcDirty := rfl
@[simp] theorem State.modCore_poison (s : State) (c : Nat) (f : CoreRegs → CoreRegs) : (s.modCore c f).poison = s.poison := rfl
@[simp] theorem State.modCore_tlb (s : State) (c : Nat) (f : CoreRegs → CoreRegs) : (s.modCore c f).tlb = s.tlb := rfl
@[simp] theorem State.modCore_stt (s : State) (c : Nat) (f : CoreRegs → CoreRegs) : (s.modCore c f).stt = s.stt := rfl
@[simp] theorem State.modCore_dies (s : State) (c : Nat) (f : CoreRegs → CoreRegs) : (s.modCore c f).dies = s.dies := rfl
@[simp] theorem State.modCore_worlds (s : State) (c : Nat) (f : CoreRegs → CoreRegs) : (s.modCore c f).worlds = s.worlds := rfl
@[simp] theorem State.modCore_versions (s : State) (c : Nat) (f : CoreRegs → CoreRegs) : (s.modCore c f).versions = s.versions := rfl
@[simp] theorem State.modCore_injects (s : State) (c : Nat) (f : CoreRegs → CoreRegs) : (s.modCore c f).injects = s.injects := rfl
@[simp] theorem State.modCore_powered (s : State) (c : Nat) (f : CoreRegs → CoreRegs) : (s.modCore c f).powered = s.powered := rfl
@[simp] theorem State.modCore_iod (s : State) (c : Nat) (f : CoreRegs → CoreRegs) : (s.modCore c f).iod = s.iod := rfl
@[simp] theorem State.modCore_garrun (s : State) (c : Nat) (f : CoreRegs → CoreRegs) : (s.modCore c f).garrun = s.garrun := rfl
@[simp] theorem State.modCore_checker (s : State) (c : Nat) (f : CoreRegs → CoreRegs) : (s.modCore c f).checker = s.checker := rfl

@[simp] theorem State.fresh_agenda (s : State) : (s.fresh.2).agenda = s.agenda := rfl
@[simp] theorem State.fresh_clock (s : State) : (s.fresh.2).clock = s.clock := rfl
@[simp] theorem State.fresh_draws (s : State) : (s.fresh.2).draws = s.draws := rfl
@[simp] theorem State.fresh_cur (s : State) : (s.fresh.2).cur = s.cur := rfl
@[simp] theorem State.fresh_raised (s : State) : (s.fresh.2).raised = s.raised := rfl
@[simp] theorem State.fresh_mem (s : State) : (s.fresh.2).mem = s.mem := rfl
@[simp] theorem State.fresh_threads (s : State) : (s.fresh.2).threads = s.threads := rfl
@[simp] theorem State.fresh_groups (s : State) : (s.fresh.2).groups = s.groups := rfl
@[simp] theorem State.fresh_bins (s : State) : (s.fresh.2).bins = s.bins := rfl
@[simp] theorem State.fresh_wgs (s : State) : (s.fresh.2).wgs = s.wgs := rfl
@[simp] theorem State.fresh_gangs (s : State) : (s.fresh.2).gangs = s.gangs := rfl
@[simp] theorem State.fresh_launches (s : State) : (s.fresh.2).launches = s.launches := rfl
@[simp] theorem State.fresh_flights (s : State) : (s.fresh.2).flights = s.flights := rfl
@[simp] theorem State.fresh_tiles (s : State) : (s.fresh.2).tiles = s.tiles := rfl
@[simp] theorem State.fresh_engines (s : State) : (s.fresh.2).engines = s.engines := rfl
@[simp] theorem State.fresh_locks (s : State) : (s.fresh.2).locks = s.locks := rfl
@[simp] theorem State.fresh_l1 (s : State) : (s.fresh.2).l1 = s.l1 := rfl
@[simp] theorem State.fresh_llcDirty (s : State) : (s.fresh.2).llcDirty = s.llcDirty := rfl
@[simp] theorem State.fresh_poison (s : State) : (s.fresh.2).poison = s.poison := rfl
@[simp] theorem State.fresh_tlb (s : State) : (s.fresh.2).tlb = s.tlb := rfl
@[simp] theorem State.fresh_stt (s : State) : (s.fresh.2).stt = s.stt := rfl
@[simp] theorem State.fresh_cores (s : State) : (s.fresh.2).cores = s.cores := rfl
@[simp] theorem State.fresh_dies (s : State) : (s.fresh.2).dies = s.dies := rfl
@[simp] theorem State.fresh_worlds (s : State) : (s.fresh.2).worlds = s.worlds := rfl
@[simp] theorem State.fresh_versions (s : State) : (s.fresh.2).versions = s.versions := rfl
@[simp] theorem State.fresh_injects (s : State) : (s.fresh.2).injects = s.injects := rfl
@[simp] theorem State.fresh_powered (s : State) : (s.fresh.2).powered = s.powered := rfl
@[simp] theorem State.fresh_iod (s : State) : (s.fresh.2).iod = s.iod := rfl
@[simp] theorem State.fresh_garrun (s : State) : (s.fresh.2).garrun = s.garrun := rfl
@[simp] theorem State.fresh_checker (s : State) : (s.fresh.2).checker = s.checker := rfl

@[simp] theorem State.progress_agenda (s : State) : (s.progress).agenda = s.agenda := rfl
@[simp] theorem State.progress_clock (s : State) : (s.progress).clock = s.clock := rfl
@[simp] theorem State.progress_draws (s : State) : (s.progress).draws = s.draws := rfl
@[simp] theorem State.progress_nextId (s : State) : (s.progress).nextId = s.nextId := rfl
@[simp] theorem State.progress_cur (s : State) : (s.progress).cur = s.cur := rfl
@[simp] theorem State.progress_raised (s : State) : (s.progress).raised = s.raised := rfl
@[simp] theorem State.progress_mem (s : State) : (s.progress).mem = s.mem := rfl
@[simp] theorem State.progress_threads (s : State) : (s.progress).threads = s.threads := rfl
@[simp] theorem State.progress_bins (s : State) : (s.progress).bins = s.bins := rfl
@[simp] theorem State.progress_wgs (s : State) : (s.progress).wgs = s.wgs := rfl
@[simp] theorem State.progress_gangs (s : State) : (s.progress).gangs = s.gangs := rfl
@[simp] theorem State.progress_launches (s : State) : (s.progress).launches = s.launches := rfl
@[simp] theorem State.progress_flights (s : State) : (s.progress).flights = s.flights := rfl
@[simp] theorem State.progress_tiles (s : State) : (s.progress).tiles = s.tiles := rfl
@[simp] theorem State.progress_engines (s : State) : (s.progress).engines = s.engines := rfl
@[simp] theorem State.progress_locks (s : State) : (s.progress).locks = s.locks := rfl
@[simp] theorem State.progress_l1 (s : State) : (s.progress).l1 = s.l1 := rfl
@[simp] theorem State.progress_llcDirty (s : State) : (s.progress).llcDirty = s.llcDirty := rfl
@[simp] theorem State.progress_poison (s : State) : (s.progress).poison = s.poison := rfl
@[simp] theorem State.progress_tlb (s : State) : (s.progress).tlb = s.tlb := rfl
@[simp] theorem State.progress_stt (s : State) : (s.progress).stt = s.stt := rfl
@[simp] theorem State.progress_cores (s : State) : (s.progress).cores = s.cores := rfl
@[simp] theorem State.progress_dies (s : State) : (s.progress).dies = s.dies := rfl
@[simp] theorem State.progress_worlds (s : State) : (s.progress).worlds = s.worlds := rfl
@[simp] theorem State.progress_versions (s : State) : (s.progress).versions = s.versions := rfl
@[simp] theorem State.progress_injects (s : State) : (s.progress).injects = s.injects := rfl
@[simp] theorem State.progress_powered (s : State) : (s.progress).powered = s.powered := rfl
@[simp] theorem State.progress_iod (s : State) : (s.progress).iod = s.iod := rfl
@[simp] theorem State.progress_garrun (s : State) : (s.progress).garrun = s.garrun := rfl
@[simp] theorem State.progress_checker (s : State) : (s.progress).checker = s.checker := rfl

@[simp] theorem State.hold_agenda (s : State) (e : Env) : (s.hold e).agenda = s.agenda := rfl
@[simp] theorem State.hold_clock (s : State) (e : Env) : (s.hold e).clock = s.clock := rfl
@[simp] theorem State.hold_draws (s : State) (e : Env) : (s.hold e).draws = s.draws := rfl
@[simp] theorem State.hold_nextId (s : State) (e : Env) : (s.hold e).nextId = s.nextId := rfl
@[simp] theorem State.hold_cur (s : State) (e : Env) : (s.hold e).cur = s.cur := rfl
@[simp] theorem State.hold_raised (s : State) (e : Env) : (s.hold e).raised = s.raised := rfl
@[simp] theorem State.hold_mem (s : State) (e : Env) : (s.hold e).mem = s.mem := rfl
@[simp] theorem State.hold_threads (s : State) (e : Env) : (s.hold e).threads = s.threads := rfl
@[simp] theorem State.hold_bins (s : State) (e : Env) : (s.hold e).bins = s.bins := rfl
@[simp] theorem State.hold_wgs (s : State) (e : Env) : (s.hold e).wgs = s.wgs := rfl
@[simp] theorem State.hold_gangs (s : State) (e : Env) : (s.hold e).gangs = s.gangs := rfl
@[simp] theorem State.hold_launches (s : State) (e : Env) : (s.hold e).launches = s.launches := rfl
@[simp] theorem State.hold_flights (s : State) (e : Env) : (s.hold e).flights = s.flights := rfl
@[simp] theorem State.hold_tiles (s : State) (e : Env) : (s.hold e).tiles = s.tiles := rfl
@[simp] theorem State.hold_engines (s : State) (e : Env) : (s.hold e).engines = s.engines := rfl
@[simp] theorem State.hold_locks (s : State) (e : Env) : (s.hold e).locks = s.locks := rfl
@[simp] theorem State.hold_l1 (s : State) (e : Env) : (s.hold e).l1 = s.l1 := rfl
@[simp] theorem State.hold_llcDirty (s : State) (e : Env) : (s.hold e).llcDirty = s.llcDirty := rfl
@[simp] theorem State.hold_poison (s : State) (e : Env) : (s.hold e).poison = s.poison := rfl
@[simp] theorem State.hold_tlb (s : State) (e : Env) : (s.hold e).tlb = s.tlb := rfl
@[simp] theorem State.hold_stt (s : State) (e : Env) : (s.hold e).stt = s.stt := rfl
@[simp] theorem State.hold_cores (s : State) (e : Env) : (s.hold e).cores = s.cores := rfl
@[simp] theorem State.hold_dies (s : State) (e : Env) : (s.hold e).dies = s.dies := rfl
@[simp] theorem State.hold_worlds (s : State) (e : Env) : (s.hold e).worlds = s.worlds := rfl
@[simp] theorem State.hold_versions (s : State) (e : Env) : (s.hold e).versions = s.versions := rfl
@[simp] theorem State.hold_injects (s : State) (e : Env) : (s.hold e).injects = s.injects := rfl
@[simp] theorem State.hold_powered (s : State) (e : Env) : (s.hold e).powered = s.powered := rfl
@[simp] theorem State.hold_iod (s : State) (e : Env) : (s.hold e).iod = s.iod := rfl
@[simp] theorem State.hold_garrun (s : State) (e : Env) : (s.hold e).garrun = s.garrun := rfl
@[simp] theorem State.hold_checker (s : State) (e : Env) : (s.hold e).checker = s.checker := rfl

@[simp] theorem State.setS_agenda (s : State) (e : Env) (r : BitVec 9) (x : Word) : (s.setS e r x).agenda = s.agenda := rfl
@[simp] theorem State.setS_clock (s : State) (e : Env) (r : BitVec 9) (x : Word) : (s.setS e r x).clock = s.clock := rfl
@[simp] theorem State.setS_draws (s : State) (e : Env) (r : BitVec 9) (x : Word) : (s.setS e r x).draws = s.draws := rfl
@[simp] theorem State.setS_nextId (s : State) (e : Env) (r : BitVec 9) (x : Word) : (s.setS e r x).nextId = s.nextId := rfl
@[simp] theorem State.setS_cur (s : State) (e : Env) (r : BitVec 9) (x : Word) : (s.setS e r x).cur = s.cur := rfl
@[simp] theorem State.setS_raised (s : State) (e : Env) (r : BitVec 9) (x : Word) : (s.setS e r x).raised = s.raised := rfl
@[simp] theorem State.setS_mem (s : State) (e : Env) (r : BitVec 9) (x : Word) : (s.setS e r x).mem = s.mem := rfl
@[simp] theorem State.setS_threads (s : State) (e : Env) (r : BitVec 9) (x : Word) : (s.setS e r x).threads = s.threads := rfl
@[simp] theorem State.setS_groups (s : State) (e : Env) (r : BitVec 9) (x : Word) : (s.setS e r x).groups = s.groups := rfl
@[simp] theorem State.setS_bins (s : State) (e : Env) (r : BitVec 9) (x : Word) : (s.setS e r x).bins = s.bins := rfl
@[simp] theorem State.setS_gangs (s : State) (e : Env) (r : BitVec 9) (x : Word) : (s.setS e r x).gangs = s.gangs := rfl
@[simp] theorem State.setS_launches (s : State) (e : Env) (r : BitVec 9) (x : Word) : (s.setS e r x).launches = s.launches := rfl
@[simp] theorem State.setS_flights (s : State) (e : Env) (r : BitVec 9) (x : Word) : (s.setS e r x).flights = s.flights := rfl
@[simp] theorem State.setS_tiles (s : State) (e : Env) (r : BitVec 9) (x : Word) : (s.setS e r x).tiles = s.tiles := rfl
@[simp] theorem State.setS_engines (s : State) (e : Env) (r : BitVec 9) (x : Word) : (s.setS e r x).engines = s.engines := rfl
@[simp] theorem State.setS_locks (s : State) (e : Env) (r : BitVec 9) (x : Word) : (s.setS e r x).locks = s.locks := rfl
@[simp] theorem State.setS_l1 (s : State) (e : Env) (r : BitVec 9) (x : Word) : (s.setS e r x).l1 = s.l1 := rfl
@[simp] theorem State.setS_llcDirty (s : State) (e : Env) (r : BitVec 9) (x : Word) : (s.setS e r x).llcDirty = s.llcDirty := rfl
@[simp] theorem State.setS_poison (s : State) (e : Env) (r : BitVec 9) (x : Word) : (s.setS e r x).poison = s.poison := rfl
@[simp] theorem State.setS_tlb (s : State) (e : Env) (r : BitVec 9) (x : Word) : (s.setS e r x).tlb = s.tlb := rfl
@[simp] theorem State.setS_stt (s : State) (e : Env) (r : BitVec 9) (x : Word) : (s.setS e r x).stt = s.stt := rfl
@[simp] theorem State.setS_cores (s : State) (e : Env) (r : BitVec 9) (x : Word) : (s.setS e r x).cores = s.cores := rfl
@[simp] theorem State.setS_dies (s : State) (e : Env) (r : BitVec 9) (x : Word) : (s.setS e r x).dies = s.dies := rfl
@[simp] theorem State.setS_worlds (s : State) (e : Env) (r : BitVec 9) (x : Word) : (s.setS e r x).worlds = s.worlds := rfl
@[simp] theorem State.setS_versions (s : State) (e : Env) (r : BitVec 9) (x : Word) : (s.setS e r x).versions = s.versions := rfl
@[simp] theorem State.setS_injects (s : State) (e : Env) (r : BitVec 9) (x : Word) : (s.setS e r x).injects = s.injects := rfl
@[simp] theorem State.setS_powered (s : State) (e : Env) (r : BitVec 9) (x : Word) : (s.setS e r x).powered = s.powered := rfl
@[simp] theorem State.setS_iod (s : State) (e : Env) (r : BitVec 9) (x : Word) : (s.setS e r x).iod = s.iod := rfl
@[simp] theorem State.setS_garrun (s : State) (e : Env) (r : BitVec 9) (x : Word) : (s.setS e r x).garrun = s.garrun := rfl
@[simp] theorem State.setS_checker (s : State) (e : Env) (r : BitVec 9) (x : Word) : (s.setS e r x).checker = s.checker := rfl

@[simp] theorem State.acts_agenda (s : State) (e : Env) : (s.acts e).agenda = s.agenda := rfl
@[simp] theorem State.acts_clock (s : State) (e : Env) : (s.acts e).clock = s.clock := rfl
@[simp] theorem State.acts_draws (s : State) (e : Env) : (s.acts e).draws = s.draws := rfl
@[simp] theorem State.acts_nextId (s : State) (e : Env) : (s.acts e).nextId = s.nextId := rfl
@[simp] theorem State.acts_cur (s : State) (e : Env) : (s.acts e).cur = s.cur := rfl
@[simp] theorem State.acts_raised (s : State) (e : Env) : (s.acts e).raised = s.raised := rfl
@[simp] theorem State.acts_mem (s : State) (e : Env) : (s.acts e).mem = s.mem := rfl
@[simp] theorem State.acts_threads (s : State) (e : Env) : (s.acts e).threads = s.threads := rfl
@[simp] theorem State.acts_groups (s : State) (e : Env) : (s.acts e).groups = s.groups := rfl
@[simp] theorem State.acts_bins (s : State) (e : Env) : (s.acts e).bins = s.bins := rfl
@[simp] theorem State.acts_wgs (s : State) (e : Env) : (s.acts e).wgs = s.wgs := rfl
@[simp] theorem State.acts_gangs (s : State) (e : Env) : (s.acts e).gangs = s.gangs := rfl
@[simp] theorem State.acts_flights (s : State) (e : Env) : (s.acts e).flights = s.flights := rfl
@[simp] theorem State.acts_tiles (s : State) (e : Env) : (s.acts e).tiles = s.tiles := rfl
@[simp] theorem State.acts_engines (s : State) (e : Env) : (s.acts e).engines = s.engines := rfl
@[simp] theorem State.acts_locks (s : State) (e : Env) : (s.acts e).locks = s.locks := rfl
@[simp] theorem State.acts_l1 (s : State) (e : Env) : (s.acts e).l1 = s.l1 := rfl
@[simp] theorem State.acts_llcDirty (s : State) (e : Env) : (s.acts e).llcDirty = s.llcDirty := rfl
@[simp] theorem State.acts_poison (s : State) (e : Env) : (s.acts e).poison = s.poison := rfl
@[simp] theorem State.acts_tlb (s : State) (e : Env) : (s.acts e).tlb = s.tlb := rfl
@[simp] theorem State.acts_stt (s : State) (e : Env) : (s.acts e).stt = s.stt := rfl
@[simp] theorem State.acts_cores (s : State) (e : Env) : (s.acts e).cores = s.cores := rfl
@[simp] theorem State.acts_dies (s : State) (e : Env) : (s.acts e).dies = s.dies := rfl
@[simp] theorem State.acts_worlds (s : State) (e : Env) : (s.acts e).worlds = s.worlds := rfl
@[simp] theorem State.acts_versions (s : State) (e : Env) : (s.acts e).versions = s.versions := rfl
@[simp] theorem State.acts_injects (s : State) (e : Env) : (s.acts e).injects = s.injects := rfl
@[simp] theorem State.acts_powered (s : State) (e : Env) : (s.acts e).powered = s.powered := rfl
@[simp] theorem State.acts_iod (s : State) (e : Env) : (s.acts e).iod = s.iod := rfl
@[simp] theorem State.acts_garrun (s : State) (e : Env) : (s.acts e).garrun = s.garrun := rfl
@[simp] theorem State.acts_checker (s : State) (e : Env) : (s.acts e).checker = s.checker := rfl

@[simp] theorem State.advance_agenda (s : State) (e : Env) : (s.advance e).agenda = s.agenda := by unfold State.advance; simp
@[simp] theorem State.advance_clock (s : State) (e : Env) : (s.advance e).clock = s.clock := by unfold State.advance; simp
@[simp] theorem State.advance_draws (s : State) (e : Env) : (s.advance e).draws = s.draws := by unfold State.advance; simp
@[simp] theorem State.advance_nextId (s : State) (e : Env) : (s.advance e).nextId = s.nextId := by unfold State.advance; simp
@[simp] theorem State.advance_cur (s : State) (e : Env) : (s.advance e).cur = s.cur := by unfold State.advance; simp
@[simp] theorem State.advance_raised (s : State) (e : Env) : (s.advance e).raised = s.raised := by unfold State.advance; simp
@[simp] theorem State.advance_mem (s : State) (e : Env) : (s.advance e).mem = s.mem := by unfold State.advance; simp
@[simp] theorem State.advance_groups (s : State) (e : Env) : (s.advance e).groups = s.groups := by unfold State.advance; simp
@[simp] theorem State.advance_bins (s : State) (e : Env) : (s.advance e).bins = s.bins := by unfold State.advance; simp
@[simp] theorem State.advance_wgs (s : State) (e : Env) : (s.advance e).wgs = s.wgs := by unfold State.advance; simp
@[simp] theorem State.advance_gangs (s : State) (e : Env) : (s.advance e).gangs = s.gangs := by unfold State.advance; simp
@[simp] theorem State.advance_launches (s : State) (e : Env) : (s.advance e).launches = s.launches := by unfold State.advance; simp
@[simp] theorem State.advance_flights (s : State) (e : Env) : (s.advance e).flights = s.flights := by unfold State.advance; simp
@[simp] theorem State.advance_tiles (s : State) (e : Env) : (s.advance e).tiles = s.tiles := by unfold State.advance; simp
@[simp] theorem State.advance_engines (s : State) (e : Env) : (s.advance e).engines = s.engines := by unfold State.advance; simp
@[simp] theorem State.advance_locks (s : State) (e : Env) : (s.advance e).locks = s.locks := by unfold State.advance; simp
@[simp] theorem State.advance_l1 (s : State) (e : Env) : (s.advance e).l1 = s.l1 := by unfold State.advance; simp
@[simp] theorem State.advance_llcDirty (s : State) (e : Env) : (s.advance e).llcDirty = s.llcDirty := by unfold State.advance; simp
@[simp] theorem State.advance_poison (s : State) (e : Env) : (s.advance e).poison = s.poison := by unfold State.advance; simp
@[simp] theorem State.advance_tlb (s : State) (e : Env) : (s.advance e).tlb = s.tlb := by unfold State.advance; simp
@[simp] theorem State.advance_stt (s : State) (e : Env) : (s.advance e).stt = s.stt := by unfold State.advance; simp
@[simp] theorem State.advance_cores (s : State) (e : Env) : (s.advance e).cores = s.cores := by unfold State.advance; simp
@[simp] theorem State.advance_dies (s : State) (e : Env) : (s.advance e).dies = s.dies := by unfold State.advance; simp
@[simp] theorem State.advance_worlds (s : State) (e : Env) : (s.advance e).worlds = s.worlds := by unfold State.advance; simp
@[simp] theorem State.advance_versions (s : State) (e : Env) : (s.advance e).versions = s.versions := by unfold State.advance; simp
@[simp] theorem State.advance_injects (s : State) (e : Env) : (s.advance e).injects = s.injects := by unfold State.advance; simp
@[simp] theorem State.advance_powered (s : State) (e : Env) : (s.advance e).powered = s.powered := by unfold State.advance; simp
@[simp] theorem State.advance_iod (s : State) (e : Env) : (s.advance e).iod = s.iod := by unfold State.advance; simp
@[simp] theorem State.advance_garrun (s : State) (e : Env) : (s.advance e).garrun = s.garrun := by unfold State.advance; simp
@[simp] theorem State.advance_checker (s : State) (e : Env) : (s.advance e).checker = s.checker := by unfold State.advance; simp

@[simp] theorem State.raiseIrq_agenda (s : State) (w v : Nat) : (s.raiseIrq w v).agenda = s.agenda := rfl
@[simp] theorem State.raiseIrq_clock (s : State) (w v : Nat) : (s.raiseIrq w v).clock = s.clock := rfl
@[simp] theorem State.raiseIrq_draws (s : State) (w v : Nat) : (s.raiseIrq w v).draws = s.draws := rfl
@[simp] theorem State.raiseIrq_nextId (s : State) (w v : Nat) : (s.raiseIrq w v).nextId = s.nextId := rfl
@[simp] theorem State.raiseIrq_cur (s : State) (w v : Nat) : (s.raiseIrq w v).cur = s.cur := rfl
@[simp] theorem State.raiseIrq_raised (s : State) (w v : Nat) : (s.raiseIrq w v).raised = s.raised := rfl
@[simp] theorem State.raiseIrq_mem (s : State) (w v : Nat) : (s.raiseIrq w v).mem = s.mem := rfl
@[simp] theorem State.raiseIrq_threads (s : State) (w v : Nat) : (s.raiseIrq w v).threads = s.threads := rfl
@[simp] theorem State.raiseIrq_groups (s : State) (w v : Nat) : (s.raiseIrq w v).groups = s.groups := rfl
@[simp] theorem State.raiseIrq_bins (s : State) (w v : Nat) : (s.raiseIrq w v).bins = s.bins := rfl
@[simp] theorem State.raiseIrq_wgs (s : State) (w v : Nat) : (s.raiseIrq w v).wgs = s.wgs := rfl
@[simp] theorem State.raiseIrq_gangs (s : State) (w v : Nat) : (s.raiseIrq w v).gangs = s.gangs := rfl
@[simp] theorem State.raiseIrq_launches (s : State) (w v : Nat) : (s.raiseIrq w v).launches = s.launches := rfl
@[simp] theorem State.raiseIrq_flights (s : State) (w v : Nat) : (s.raiseIrq w v).flights = s.flights := rfl
@[simp] theorem State.raiseIrq_tiles (s : State) (w v : Nat) : (s.raiseIrq w v).tiles = s.tiles := rfl
@[simp] theorem State.raiseIrq_engines (s : State) (w v : Nat) : (s.raiseIrq w v).engines = s.engines := rfl
@[simp] theorem State.raiseIrq_locks (s : State) (w v : Nat) : (s.raiseIrq w v).locks = s.locks := rfl
@[simp] theorem State.raiseIrq_l1 (s : State) (w v : Nat) : (s.raiseIrq w v).l1 = s.l1 := rfl
@[simp] theorem State.raiseIrq_llcDirty (s : State) (w v : Nat) : (s.raiseIrq w v).llcDirty = s.llcDirty := rfl
@[simp] theorem State.raiseIrq_poison (s : State) (w v : Nat) : (s.raiseIrq w v).poison = s.poison := rfl
@[simp] theorem State.raiseIrq_tlb (s : State) (w v : Nat) : (s.raiseIrq w v).tlb = s.tlb := rfl
@[simp] theorem State.raiseIrq_stt (s : State) (w v : Nat) : (s.raiseIrq w v).stt = s.stt := rfl
@[simp] theorem State.raiseIrq_cores (s : State) (w v : Nat) : (s.raiseIrq w v).cores = s.cores := rfl
@[simp] theorem State.raiseIrq_dies (s : State) (w v : Nat) : (s.raiseIrq w v).dies = s.dies := rfl
@[simp] theorem State.raiseIrq_worlds (s : State) (w v : Nat) : (s.raiseIrq w v).worlds = s.worlds := rfl
@[simp] theorem State.raiseIrq_versions (s : State) (w v : Nat) : (s.raiseIrq w v).versions = s.versions := rfl
@[simp] theorem State.raiseIrq_injects (s : State) (w v : Nat) : (s.raiseIrq w v).injects = s.injects := rfl
@[simp] theorem State.raiseIrq_powered (s : State) (w v : Nat) : (s.raiseIrq w v).powered = s.powered := rfl
@[simp] theorem State.raiseIrq_garrun (s : State) (w v : Nat) : (s.raiseIrq w v).garrun = s.garrun := rfl
@[simp] theorem State.raiseIrq_checker (s : State) (w v : Nat) : (s.raiseIrq w v).checker = s.checker := rfl

@[simp] theorem State.tick_draws (s : State) (n : Nat) (a : List Move) : (s.tick n a).draws = s.draws := rfl
@[simp] theorem State.tick_nextId (s : State) (n : Nat) (a : List Move) : (s.tick n a).nextId = s.nextId := rfl
@[simp] theorem State.tick_cur (s : State) (n : Nat) (a : List Move) : (s.tick n a).cur = s.cur := rfl
@[simp] theorem State.tick_mem (s : State) (n : Nat) (a : List Move) : (s.tick n a).mem = s.mem := rfl
@[simp] theorem State.tick_threads (s : State) (n : Nat) (a : List Move) : (s.tick n a).threads = s.threads := rfl
@[simp] theorem State.tick_bins (s : State) (n : Nat) (a : List Move) : (s.tick n a).bins = s.bins := rfl
@[simp] theorem State.tick_wgs (s : State) (n : Nat) (a : List Move) : (s.tick n a).wgs = s.wgs := rfl
@[simp] theorem State.tick_gangs (s : State) (n : Nat) (a : List Move) : (s.tick n a).gangs = s.gangs := rfl
@[simp] theorem State.tick_launches (s : State) (n : Nat) (a : List Move) : (s.tick n a).launches = s.launches := rfl
@[simp] theorem State.tick_flights (s : State) (n : Nat) (a : List Move) : (s.tick n a).flights = s.flights := rfl
@[simp] theorem State.tick_tiles (s : State) (n : Nat) (a : List Move) : (s.tick n a).tiles = s.tiles := rfl
@[simp] theorem State.tick_engines (s : State) (n : Nat) (a : List Move) : (s.tick n a).engines = s.engines := rfl
@[simp] theorem State.tick_locks (s : State) (n : Nat) (a : List Move) : (s.tick n a).locks = s.locks := rfl
@[simp] theorem State.tick_l1 (s : State) (n : Nat) (a : List Move) : (s.tick n a).l1 = s.l1 := rfl
@[simp] theorem State.tick_llcDirty (s : State) (n : Nat) (a : List Move) : (s.tick n a).llcDirty = s.llcDirty := rfl
@[simp] theorem State.tick_poison (s : State) (n : Nat) (a : List Move) : (s.tick n a).poison = s.poison := rfl
@[simp] theorem State.tick_tlb (s : State) (n : Nat) (a : List Move) : (s.tick n a).tlb = s.tlb := rfl
@[simp] theorem State.tick_stt (s : State) (n : Nat) (a : List Move) : (s.tick n a).stt = s.stt := rfl
@[simp] theorem State.tick_cores (s : State) (n : Nat) (a : List Move) : (s.tick n a).cores = s.cores := rfl
@[simp] theorem State.tick_dies (s : State) (n : Nat) (a : List Move) : (s.tick n a).dies = s.dies := rfl
@[simp] theorem State.tick_worlds (s : State) (n : Nat) (a : List Move) : (s.tick n a).worlds = s.worlds := rfl
@[simp] theorem State.tick_versions (s : State) (n : Nat) (a : List Move) : (s.tick n a).versions = s.versions := rfl
@[simp] theorem State.tick_injects (s : State) (n : Nat) (a : List Move) : (s.tick n a).injects = s.injects := rfl
@[simp] theorem State.tick_powered (s : State) (n : Nat) (a : List Move) : (s.tick n a).powered = s.powered := rfl
@[simp] theorem State.tick_iod (s : State) (n : Nat) (a : List Move) : (s.tick n a).iod = s.iod := rfl
@[simp] theorem State.tick_garrun (s : State) (n : Nat) (a : List Move) : (s.tick n a).garrun = s.garrun := rfl
@[simp] theorem State.tick_checker (s : State) (n : Nat) (a : List Move) : (s.tick n a).checker = s.checker := rfl

/-! Threads. -/

@[simp] theorem State.thread_modThread (s : State) (wg tid : Nat) (f : Thread → Thread) :
    (s.modThread wg tid f).thread wg tid = f (s.thread wg tid) := by
  simp [State.modThread, State.setThread, State.thread]

theorem State.thread_modThread_of_ne (s : State) {wg tid wg' tid' : Nat} (f : Thread → Thread)
    (h : threadKey wg' tid' ≠ threadKey wg tid) : (s.modThread wg tid f).thread wg' tid' = s.thread wg' tid' := by
  simp [State.modThread, State.setThread, State.thread, tabGet_tabSet, h]

theorem threadKey_ne {wg t u : Nat} (h : t ≠ u) : threadKey wg t ≠ threadKey wg u := by
  simp [threadKey]; omega

theorem State.thread_fold_other (s : State) (wg : Nat) (l : List Nat) (f : Nat → Thread → Thread) (wg' tid : Nat)
    (h : ∀ u ∈ l, threadKey wg' tid ≠ threadKey wg u) :
    (l.foldl (fun s t => s.modThread wg t (f t)) s).thread wg' tid = s.thread wg' tid := by
  induction l generalizing s with
  | nil => rfl
  | cons t l ih =>
    rw [List.foldl_cons, ih _ (fun u hu => h u (List.mem_cons_of_mem _ hu)), State.thread_modThread_of_ne]
    exact h t (List.mem_cons_self ..)

theorem State.thread_fold (s : State) (wg : Nat) (l : List Nat) (f : Nat → Thread → Thread) (n : l.Nodup) (tid : Nat) :
    (l.foldl (fun s t => s.modThread wg t (f t)) s).thread wg tid = if tid ∈ l then f tid (s.thread wg tid) else s.thread wg tid := by
  induction l generalizing s with
  | nil => rfl
  | cons t l ih =>
    rw [List.nodup_cons] at n
    rw [List.foldl_cons]
    by_cases h : tid = t
    · subst h
      rw [State.thread_fold_other _ _ _ _ _ _ (fun u hu => threadKey_ne (fun (e : tid = u) => n.1 (e ▸ hu)))]
      simp
    · rw [ih _ n.2, State.thread_modThread_of_ne _ _ (threadKey_ne h)]; simp [h]

/-- A thread of the list is changed once. -/
theorem State.thread_modEach (s : State) (wg : Nat) (l : List Nat) (f : Nat → Thread → Thread) (tid : Nat) :
    (s.modEach wg l f).thread wg tid = if tid ∈ l then f tid (s.thread wg tid) else s.thread wg tid := by
  simp [State.modEach, State.thread_fold _ _ _ _ (nodup_dedup l), mem_dedup]

theorem State.thread_modThreads (s : State) (wg : Nat) (l : List Nat) (f : Thread → Thread) (tid : Nat) :
    (s.modThreads wg l f).thread wg tid = if tid ∈ l then f (s.thread wg tid) else s.thread wg tid :=
  s.thread_modEach wg l (fun _ => f) tid

theorem State.thread_modEach_other (s : State) (wg : Nat) (l : List Nat) (f : Nat → Thread → Thread) (wg' tid : Nat)
    (h : ∀ u ∈ l, threadKey wg' tid ≠ threadKey wg u) : (s.modEach wg l f).thread wg' tid = s.thread wg' tid :=
  s.thread_fold_other wg (dedup l) f wg' tid (fun u hu => h u ((mem_dedup _ _).1 hu))

theorem State.thread_modThreads_other (s : State) (wg : Nat) (l : List Nat) (f : Thread → Thread) (wg' tid : Nat)
    (h : ∀ u ∈ l, threadKey wg' tid ≠ threadKey wg u) : (s.modThreads wg l f).thread wg' tid = s.thread wg' tid :=
  s.thread_modEach_other wg l (fun _ => f) wg' tid h

/-- A thread reads as before where the table of threads is the same. -/
theorem State.thread_congr {s t : State} (h : t.threads = s.threads) (wg tid : Nat) : t.thread wg tid = s.thread wg tid := by
  simp [State.thread, h]

@[simp] theorem State.thread_progress (s : State) (wg tid : Nat) : s.progress.thread wg tid = s.thread wg tid := rfl
@[simp] theorem State.thread_modGroup (s : State) (id : Nat) (f : Group → Group) (wg tid : Nat) :
    (s.modGroup id f).thread wg tid = s.thread wg tid := rfl
@[simp] theorem State.thread_modWg (s : State) (id : Nat) (f : Workgroup → Workgroup) (wg tid : Nat) :
    (s.modWg id f).thread wg tid = s.thread wg tid := rfl
@[simp] theorem State.thread_setS (s : State) (e : Env) (r : BitVec 9) (x : Word) (wg tid : Nat) :
    (s.setS e r x).thread wg tid = s.thread wg tid := rfl

/-! Records found by name. -/

theorem find_mapIf {α : Type} (p : α → Bool) (f : α → α) (h : ∀ x, p (f x) = p x) (l : List α) :
    (mapIf p f l).find? p = (l.find? p).map f := by
  induction l with
  | nil => rfl
  | cons x l ih =>
    rw [show mapIf p f (x :: l) = (if p x then f x else x) :: mapIf p f l from rfl, List.find?_cons, List.find?_cons]
    by_cases hx : p x = true
    · simp [hx, h]
    · simp only [hx, if_false, Bool.false_eq_true]; exact ih

theorem find_mapIf_of {α : Type} (p q : α → Bool) (f : α → α) (h : ∀ x, q x = true → p x = false) (hf : ∀ x, p x = true → q (f x) = false)
    (l : List α) : (mapIf p f l).find? q = l.find? q := by
  induction l with
  | nil => rfl
  | cons x l ih =>
    rw [show mapIf p f (x :: l) = (if p x then f x else x) :: mapIf p f l from rfl, List.find?_cons, List.find?_cons]
    by_cases hx : p x = true
    · have : q x = false := by
        cases hq : q x with
        | false => rfl
        | true => simp [h x hq] at hx
      simp only [hx, if_true, hf x hx, this]; exact ih
    · simp only [Bool.not_eq_true] at hx
      simp only [hx, Bool.false_eq_true, if_false]
      split
      · rfl
      · exact ih

/-- A workgroup's record after an update that keeps names. -/
theorem State.wg?_modWg (s : State) (id j : Nat) (f : Workgroup → Workgroup) (h : ∀ w, (f w).id = w.id) :
    (s.modWg id f).wg? j = if j = id then (s.wg? j).map f else s.wg? j := by
  unfold State.modWg State.wg?
  split
  · rename_i e; subst e
    exact find_mapIf _ f (fun w => by simp [h]) _
  · rename_i e
    exact find_mapIf_of _ _ f (fun w hw => by simp at *; omega) (fun w hw => by simp [h] at *; omega) _

/-! Registers: the hard-wired ones (spec 02, R25; 03, R68). -/

@[simp] theorem Thread.v_vz (t : Thread) : t.v 255#8 = 0#32 := rfl
@[simp] theorem Thread.p_pt (t : Thread) : t.p 15#4 = true := rfl
@[simp] theorem Thread.setV_vz (t : Thread) (x : Word) : t.setV 255#8 x = t := rfl

theorem Thread.v_setV (t : Thread) (r q : BitVec 8) (x : Word) (h : r ≠ 255) :
    (t.setV r x).v q = if q = r then x else t.v q := by
  unfold Thread.setV Thread.v
  rw [if_neg h]
  by_cases hq : q = 255
  · subst hq; simp; intro e; exact absurd e.symm h
  · rw [if_neg hq, if_neg hq]
    simp only [tabGet_tabSet, BitVec.toNat_inj]

@[simp] theorem Thread.setV_preds (t : Thread) (r : BitVec 8) (x : Word) : (t.setV r x).preds = t.preds := by unfold Thread.setV; split <;> rfl
@[simp] theorem Thread.setV_pc (t : Thread) (r : BitVec 8) (x : Word) : (t.setV r x).pc = t.pc := by unfold Thread.setV; split <;> rfl
@[simp] theorem Thread.setV_left (t : Thread) (r : BitVec 8) (x : Word) : (t.setV r x).left = t.left := by unfold Thread.setV; split <;> rfl
@[simp] theorem Thread.setV_status (t : Thread) (r : BitVec 8) (x : Word) : (t.setV r x).status = t.status := by unfold Thread.setV; split <;> rfl
@[simp] theorem Thread.p_setV (t : Thread) (r : BitVec 8) (x : Word) (n : BitVec 4) : (t.setV r x).p n = t.p n := by simp [Thread.p]
@[simp] theorem Thread.v_next (t : Thread) (r : BitVec 8) : t.next.v r = t.v r := rfl
@[simp] theorem Thread.p_next (t : Thread) (n : BitVec 4) : t.next.p n = t.p n := rfl
@[simp] theorem Thread.setP_vregs (t : Thread) (n : BitVec 4) (b : Bool) : (t.setP n b).vregs = t.vregs := by unfold Thread.setP; split <;> rfl
@[simp] theorem Thread.v_setP (t : Thread) (n : BitVec 4) (b : Bool) (r : BitVec 8) : (t.setP n b).v r = t.v r := by simp [Thread.v]
@[simp] theorem Thread.setP_pt (t : Thread) (b : Bool) : t.setP 15#4 b = t := rfl

end Sys2Proof.Machine
end

