-- ==== Sys2Proof/Laws/Issue.lean ====
section
/-! SUPPORT. What issuing an instruction does: the checks pass, and the effect follows; what a register-only instruction
leaves. -/

namespace Sys2Proof.Machine

/-- An instruction that needs test mode is a system instruction (spec 15, R356). -/
theorem instrTest_system (i : Instr) (h : instrTest i = true) : instrSystem i = true := by
  cases i <;> simp_all [instrTest, instrSystem]

theorem Issuable.decodeTrap {s : State} {e : Env} {g : Guard} {i : Instr} (h : Issuable s e g i) : s.decodeTrap e i = none := by
  have hr := List.all_eq_true.2 h.inRange
  have hp : (instrSystem i && (!s.privileged e || (instrTest i && !s.garrun.test))) = false := by
    cases hs : instrSystem i with
    | false => rfl
    | true =>
      cases ht : instrTest i with
      | false => simp [h.privileged hs]
      | true => simp [h.privileged hs, h.test ht]
  simp only [State.decodeTrap, h.legal, hr, hp, Bool.not_true, Bool.false_eq_true, if_false]

/-- An issuable instruction passes every check. -/
theorem Issuable.gate {s : State} {e : Env} {g : Guard} {i : Instr} (h : Issuable s e g i) : s.gate e g i = .go := by
  simp [State.gate, h.decodeTrap, h.header, h.clean, h.free]

/-- The checks say exactly when an instruction executes normally. -/
theorem issuable_iff {s : State} {e : Env} {g : Guard} {i : Instr} :
    Issuable s e g i ↔ s.issuer = some e ∧ s.gate e g i = .go := by
  refine ⟨fun h => ⟨h.issuer, h.gate⟩, fun ⟨he, hg⟩ => ?_⟩
  have hd : s.decodeTrap e i = none ∧ s.fallBad e i = none ∧ s.poisonHit e (i.vregs (instrFrags e.l i).1 (instrFrags e.l i).2) i.preds = none ∧
      s.scoreHold e g i (i.vregs (instrFrags e.l i).1 (instrFrags e.l i).2) i.preds = false := by
    simp only [State.gate] at hg
    split at hg
    · cases hg
    · split at hg
      · cases hg
      · cases hg
      · split at hg
        · split at hg <;> cases hg
        · cases hg
        · cases hg
        · split at hg
          · cases hg
          · exact ⟨‹_›, ‹_›, ‹_›, Bool.eq_false_iff.2 ‹_›⟩
  obtain ⟨h1, h2, h3, h4⟩ := hd
  simp only [State.decodeTrap] at h1
  split at h1
  · cases h1
  · rename_i hl
    split at h1
    · cases h1
    · rename_i hp
      split at h1
      · cases h1
      · rename_i hr
        have hl' : i.legal = true := by simpa using hl
        have hr' := List.all_eq_true.1 (by simpa using hr : (i.opnds (instrFrags e.l i).1 (instrFrags e.l i).2).all (Opnd.inRange e.l.vregs e.l.acc) = true)
        have hp' : ¬(instrSystem i = true ∧ (s.privileged e = false ∨ (instrTest i = true ∧ s.garrun.test = false))) := by
          intro ⟨a, b⟩; apply hp; cases hs : s.privileged e <;> simp_all
        refine ⟨he, hl', fun hs => ?_, fun ht => ?_, hr', h2, h3, h4⟩
        · cases h : s.privileged e
          · exact absurd ⟨hs, .inl h⟩ hp'
          · rfl
        · cases h : s.garrun.test
          · exact absurd ⟨instrTest_system i ht, .inr ⟨ht, h⟩⟩ hp'
          · rfl

/-- An issuable instruction does what its body does. -/
theorem Issuable.issue {s : State} {e : Env} {g : Guard} {i : Instr} (h : Issuable s e g i) (body : Env → Out) :
    Machine.issue g i s body = body e := by
  simp only [Machine.issue, h.issuer, h.gate]

theorem Issuable.groupOp {s : State} {e : Env} {g : Guard} {i : Instr} (h : Issuable s e g i) (l : s.someLane e g)
    (body : Env → List Nat → Out) : Machine.groupOp g i s body = body e (s.lanes e g) := by
  simp only [State.someLane] at l
  simp [Machine.groupOp, h.issue, l]

/-- With no active lane a once-per-group instruction only moves on. -/
theorem Issuable.groupOp_none {s : State} {e : Env} {g : Guard} {i : Instr} (h : Issuable s e g i) (l : ¬ s.someLane e g)
    (body : Env → List Nat → Out) : Machine.groupOp g i s body = s.done e := by
  simp only [State.someLane, not_not] at l
  simp [Machine.groupOp, h.issue, l]

theorem Issuable.scalarOp {s : State} {e : Env} {g : Guard} {i : Instr} (h : Issuable s e g i) (l : s.someLane e g)
    (f : Env → State) : Machine.scalarOp g i s f = (f e).done e := by
  simp only [State.someLane] at l
  simp [Machine.scalarOp, h.issue, l]

theorem Issuable.scalarOp_none {s : State} {e : Env} {g : Guard} {i : Instr} (h : Issuable s e g i) (l : ¬ s.someLane e g)
    (f : Env → State) : Machine.scalarOp g i s f = s.done e := by
  simp only [State.someLane, not_not] at l
  simp [Machine.scalarOp, h.issue, l]

theorem Issuable.vecOp {s : State} {e : Env} {g : Guard} {i : Instr} (h : Issuable s e g i) (f : Thread → Thread) :
    Machine.vecOp g i s f = (s.modThreads e.w.id (s.lanes e g) f).done e := by
  simp only [Machine.vecOp, h.issue]

theorem Issuable.vecRnd {s : State} {e : Env} {g : Guard} {i : Instr} (h : Issuable s e g i) (f : BitVec 16 → Thread → Thread) :
    Machine.vecRnd g i s f = (s.perLane e (s.lanes e g) f).done e := by
  simp only [Machine.vecRnd, h.issue]

/-! What is left. -/

theorem State.mem_lanes (s : State) (e : Env) (g : Guard) (t : Nat) :
    t ∈ s.lanes e g ↔ t ∈ e.g.members ∧ (s.thread e.w.id t).guarded g = true := by
  simp [State.lanes, Thread.guarded]

theorem State.lanes_sub {s : State} {e : Env} {g : Guard} {t : Nat} (h : t ∈ s.lanes e g) : t ∈ e.g.members :=
  ((s.mem_lanes e g t).1 h).1

theorem State.thread_advance (s : State) (e : Env) (t : Nat) (h : t ∈ e.g.members) :
    (s.advance e).thread e.w.id t = (s.thread e.w.id t).next := by
  simp [State.advance, State.thread_modThreads, h]

theorem State.thread_advance_other (s : State) (e : Env) (wg t : Nat) (h : ∀ u ∈ e.g.members, threadKey wg t ≠ threadKey e.w.id u) :
    (s.advance e).thread wg t = s.thread wg t :=
  s.thread_modThreads_other e.w.id e.g.members Thread.next wg t h

/-- A change of some lanes and the end of the instruction, thread by thread. -/
theorem threadsBecome_done {s u : State} {e : Env} {g : Guard} {f : Nat → Thread → Thread}
    (hin : ∀ t, u.thread e.w.id t = if t ∈ s.lanes e g then f t (s.thread e.w.id t) else s.thread e.w.id t)
    (hout : ∀ wg t, (∀ v ∈ s.lanes e g, threadKey wg t ≠ threadKey e.w.id v) → u.thread wg t = s.thread wg t) :
    ThreadsBecome s (u.advance e).progress e (fun t x => if x.guarded g then (f t x).next else x.next) := by
  constructor
  · intro t ht
    rw [State.thread_progress, State.thread_advance _ _ _ ht, hin t]
    by_cases hg : (s.thread e.w.id t).guarded g = true
    · rw [if_pos ((s.mem_lanes e g t).2 ⟨ht, hg⟩)]; exact (if_pos hg).symm
    · rw [if_neg (fun h => hg ((s.mem_lanes e g t).1 h).2)]; exact (if_neg hg).symm
  · intro wg t h
    rw [State.thread_progress, State.thread_advance_other _ _ _ _ h]
    exact hout wg t (fun v hv => h v (State.lanes_sub hv))

theorem onlyThreads_done {s u : State} {e : Env} {th : Tab Thread} {d : Nat} (h : u = { s with threads := th, draws := d }) :
    OnlyThreads s (u.advance e).progress := by
  subst h
  refine ⟨(State.advance { s with threads := th, draws := d } e).threads, d, ?_⟩
  simp only [State.advance]
  rw [State.modThreads_eq]
  rfl

/-- A register-only vector instruction completes, and changes the threads of its lanes alone. -/
theorem Issuable.vec {s : State} {e : Env} {g : Guard} {i : Instr} (h : Issuable s e g i) (f : Thread → Thread) :
    Out.Leads (Machine.vecOp g i s f) (fun t => OnlyThreads s t ∧
      ThreadsBecome s t e (fun _ x => if x.guarded g then (f x).next else x.next)) := by
  rw [h.vecOp]
  refine ⟨_, rfl, onlyThreads_done (State.modThreads_eq ..), threadsBecome_done (f := fun _ => f) ?_ ?_⟩
  · exact fun t => s.thread_modThreads ..
  · exact fun wg t hv => s.thread_modThreads_other _ _ _ _ _ hv

/-- The same where each lane's effect depends on its thread number. -/
theorem State.each_done (s : State) (e : Env) (g : Guard) (f : Nat → Thread → Thread) :
    Out.Leads ((s.modEach e.w.id (s.lanes e g) f).done e) (fun t => OnlyThreads s t ∧
      ThreadsBecome s t e (fun n x => if x.guarded g then (f n x).next else x.next)) := by
  refine ⟨_, rfl, onlyThreads_done (State.modEach_eq ..), threadsBecome_done ?_ ?_⟩
  · exact fun t => s.thread_modEach ..
  · exact fun wg t hv => s.thread_modEach_other _ _ _ _ _ hv

/-- The draws of `perLane`: the lane in place `k` takes draw `draws + k`. -/
theorem State.perLane_eq (s : State) (e : Env) (l : List Nat) (f : BitVec 16 → Thread → Thread) :
    ∃ th d, s.perLane e l f = { s with threads := th, draws := d } := by
  unfold State.perLane
  generalize dedup l = l
  induction l generalizing s with
  | nil => exact ⟨_, _, rfl⟩
  | cons t l ih => obtain ⟨th, d, h⟩ := ih _; exact ⟨th, d, h⟩

theorem State.perLane_other (s : State) (e : Env) (l : List Nat) (f : BitVec 16 → Thread → Thread) (wg t : Nat)
    (h : ∀ u ∈ l, threadKey wg t ≠ threadKey e.w.id u) : (s.perLane e l f).thread wg t = s.thread wg t := by
  unfold State.perLane
  replace h : ∀ u ∈ dedup l, threadKey wg t ≠ threadKey e.w.id u := fun u hu => h u ((mem_dedup _ _).1 hu)
  generalize dedup l = l at *
  induction l generalizing s with
  | nil => rfl
  | cons u l ih =>
    rw [List.foldl_cons, ih _ (fun v hv => h v (List.mem_cons_of_mem _ hv))]
    exact State.thread_modThread_of_ne s _ (h u (List.mem_cons_self ..))

theorem State.perLane_self (s : State) (e : Env) (l : List Nat) (f : BitVec 16 → Thread → Thread) (t : Nat) :
    (t ∈ l ∧ ∃ n, (s.perLane e l f).thread e.w.id t = f (Config.rand16 n) (s.thread e.w.id t)) ∨
    (t ∉ l ∧ (s.perLane e l f).thread e.w.id t = s.thread e.w.id t) := by
  unfold State.perLane
  rw [← mem_dedup t l]
  have n := nodup_dedup l
  generalize dedup l = l at *
  induction l generalizing s with
  | nil => exact .inr ⟨List.not_mem_nil, rfl⟩
  | cons u l ih =>
    rw [List.nodup_cons] at n
    rw [List.foldl_cons]
    by_cases h : t = u
    · subst h
      refine .inl ⟨List.mem_cons_self .., s.draws, ?_⟩
      obtain ⟨h, _⟩ | ⟨_, h⟩ := ih { s.modThread e.w.id t (f (Config.rand16 s.draws)) with draws := s.draws + 1 } n.2
      · exact absurd h n.1
      · rw [h]; exact State.thread_modThread ..
    · obtain ⟨h1, k, h2⟩ | ⟨h1, h2⟩ := ih { s.modThread e.w.id u (f (Config.rand16 s.draws)) with draws := s.draws + 1 } n.2
      · refine .inl ⟨List.mem_cons_of_mem _ h1, k, ?_⟩
        rw [h2]; congr 1
        exact State.thread_modThread_of_ne s _ (threadKey_ne h)
      · refine .inr ⟨fun hm => (List.mem_cons.1 hm).elim h h1, ?_⟩
        rw [h2]
        exact State.thread_modThread_of_ne s _ (threadKey_ne h)

/-- An instruction with a draw for each lane completes: each lane's thread is changed under some draw. -/
theorem State.perLane_done (s : State) (e : Env) (g : Guard) (f : BitVec 16 → Thread → Thread) :
    Out.Leads ((s.perLane e (s.lanes e g) f).done e) (fun t => OnlyThreads s t ∧
      ∃ draw : Nat → BitVec 16, ThreadsBecome s t e (fun n x => if x.guarded g then (f (draw n) x).next else x.next)) := by
  obtain ⟨th, d, h⟩ := s.perLane_eq e (s.lanes e g) f
  have hd : ∀ t, ∃ b : BitVec 16, (s.perLane e (s.lanes e g) f).thread e.w.id t =
      if t ∈ s.lanes e g then f b (s.thread e.w.id t) else s.thread e.w.id t := by
    intro t
    obtain ⟨h1, n, h2⟩ | ⟨h1, h2⟩ := s.perLane_self e (s.lanes e g) f t
    · exact ⟨_, by rw [if_pos h1, h2]⟩
    · exact ⟨0, by rw [if_neg h1, h2]⟩
  choose draw hdraw using hd
  refine ⟨_, rfl, onlyThreads_done h, draw, threadsBecome_done (f := fun n => f (draw n)) hdraw ?_⟩
  exact fun wg t hv => s.perLane_other _ _ _ _ _ hv

theorem Issuable.rnd {s : State} {e : Env} {g : Guard} {i : Instr} (h : Issuable s e g i) (f : BitVec 16 → Thread → Thread) :
    Out.Leads (Machine.vecRnd g i s f) (fun t => OnlyThreads s t ∧
      ∃ draw : Nat → BitVec 16, ThreadsBecome s t e (fun n x => if x.guarded g then (f (draw n) x).next else x.next)) := by
  rw [h.vecRnd]; exact s.perLane_done e g f

end Sys2Proof.Machine
end

