-- ==== Sys2Proof/Laws/Layouts.lean ====
section
/-! SUPPORT. Laws of the encoding: each layout gives its fields back and the bits back, and a packed word gives back its
opcode, its sub-function, its guard and its layout. -/

namespace Sys2Proof

theorem bits_part {n m s : Nat} {p : BitVec n} {x : BitVec m} (h : ∀ i, i < m → p.getLsbD (s + i) = x.getLsbD i) : p.extractLsb' s m = x := by
  refine BitVec.eq_of_getLsbD_eq (fun i hi => ?_)
  rw [BitVec.getLsbD_extractLsb', decide_eq_true hi, Bool.true_and, h i hi]

/-- A part above the lower operand of a concatenation. -/
theorem part_hi {k n : Nat} (x : BitVec k) (y : BitVec n) {s m : Nat} (h : n ≤ s) : (x ++ y).extractLsb' s m = x.extractLsb' (s - n) m := by
  refine bits_part (fun i _ => ?_)
  rw [BitVec.getLsbD_append, if_neg (by omega), BitVec.getLsbD_extractLsb']
  simp only [decide_eq_true ‹_›, Bool.true_and]
  congr 1; omega

/-- The lower operand of a concatenation. -/
theorem part_lo {k n : Nat} (x : BitVec k) (y : BitVec n) : (x ++ y).extractLsb' 0 n = y := by
  refine bits_part (fun i hi => ?_)
  rw [BitVec.getLsbD_append, if_pos (by omega), Nat.zero_add]

/-- All of a number. -/
theorem part_all {n : Nat} (y : BitVec n) : y.extractLsb' 0 n = y := bits_part (fun i _ => by rw [Nat.zero_add])

theorem V3.unpack_pack (f : V3) : V3.unpack f.pack = f := by
  obtain ⟨d, a, b, c, slot, rs, ty, cl⟩ := f
  simp only [V3.unpack, V3.pack, V3.mk.injEq]
  exact ⟨(part_hi _ _ (by decide)).trans ((part_hi _ _ (by decide)).trans ((part_hi _ _ (by decide)).trans ((part_hi _ _ (by decide)).trans ((part_hi _ _ (by decide)).trans ((part_hi _ _ (by decide)).trans ((part_hi _ _ (by decide)).trans (part_all _))))))), (part_hi _ _ (by decide)).trans ((part_hi _ _ (by decide)).trans ((part_hi _ _ (by decide)).trans ((part_hi _ _ (by decide)).trans ((part_hi _ _ (by decide)).trans ((part_hi _ _ (by decide)).trans (part_lo _ _)))))), (part_hi _ _ (by decide)).trans ((part_hi _ _ (by decide)).trans ((part_hi _ _ (by decide)).trans ((part_hi _ _ (by decide)).trans ((part_hi _ _ (by decide)).trans (part_lo _ _))))), (part_hi _ _ (by decide)).trans ((part_hi _ _ (by decide)).trans ((part_hi _ _ (by decide)).trans ((part_hi _ _ (by decide)).trans (part_lo _ _)))), (part_hi _ _ (by decide)).trans ((part_hi _ _ (by decide)).trans ((part_hi _ _ (by decide)).trans (part_lo _ _))), (part_hi _ _ (by decide)).trans ((part_hi _ _ (by decide)).trans (part_lo _ _)), (part_hi _ _ (by decide)).trans (part_lo _ _), part_lo _ _⟩

theorem V3.pack_unpack (p : BitVec 48) : (V3.unpack p).pack = p := by
  refine BitVec.eq_of_getLsbD_eq (fun i hi => ?_)
  simp only [V3.unpack, V3.pack]
  erw [BitVec.getLsbD_append]
  simp only [BitVec.getLsbD_append, BitVec.getLsbD_extractLsb']
  (repeat' split) <;> rw [decide_eq_true (by omega), Bool.true_and] <;> congr 1 <;> omega

theorem V3S.unpack_pack (f : V3S) : V3S.unpack f.pack = f := by
  obtain ⟨d, a, b, s, rsv, ty, cl⟩ := f
  simp only [V3S.unpack, V3S.pack, V3S.mk.injEq]
  exact ⟨(part_hi _ _ (by decide)).trans ((part_hi _ _ (by decide)).trans ((part_hi _ _ (by decide)).trans ((part_hi _ _ (by decide)).trans ((part_hi _ _ (by decide)).trans ((part_hi _ _ (by decide)).trans (part_all _)))))), (part_hi _ _ (by decide)).trans ((part_hi _ _ (by decide)).trans ((part_hi _ _ (by decide)).trans ((part_hi _ _ (by decide)).trans ((part_hi _ _ (by decide)).trans (part_lo _ _))))), (part_hi _ _ (by decide)).trans ((part_hi _ _ (by decide)).trans ((part_hi _ _ (by decide)).trans ((part_hi _ _ (by decide)).trans (part_lo _ _)))), (part_hi _ _ (by decide)).trans ((part_hi _ _ (by decide)).trans ((part_hi _ _ (by decide)).trans (part_lo _ _))), (part_hi _ _ (by decide)).trans ((part_hi _ _ (by decide)).trans (part_lo _ _)), (part_hi _ _ (by decide)).trans (part_lo _ _), part_lo _ _⟩

theorem V3S.pack_unpack (p : BitVec 48) : (V3S.unpack p).pack = p := by
  refine BitVec.eq_of_getLsbD_eq (fun i hi => ?_)
  simp only [V3S.unpack, V3S.pack]
  erw [BitVec.getLsbD_append]
  simp only [BitVec.getLsbD_append, BitVec.getLsbD_extractLsb']
  (repeat' split) <;> rw [decide_eq_true (by omega), Bool.true_and] <;> congr 1 <;> omega

theorem VI.unpack_pack (f : VI) : VI.unpack f.pack = f := by
  obtain ⟨d, a, imm⟩ := f
  simp only [VI.unpack, VI.pack, VI.mk.injEq]
  exact ⟨(part_hi _ _ (by decide)).trans ((part_hi _ _ (by decide)).trans (part_all _)), (part_hi _ _ (by decide)).trans (part_lo _ _), part_lo _ _⟩

theorem VI.pack_unpack (p : BitVec 48) : (VI.unpack p).pack = p := by
  refine BitVec.eq_of_getLsbD_eq (fun i hi => ?_)
  simp only [VI.unpack, VI.pack]
  erw [BitVec.getLsbD_append]
  simp only [BitVec.getLsbD_append, BitVec.getLsbD_extractLsb']
  (repeat' split) <;> rw [decide_eq_true (by omega), Bool.true_and] <;> congr 1 <;> omega

theorem SR.unpack_pack (f : SR) : SR.unpack f.pack = f := by
  obtain ⟨sd, sa, sb, sc, rsv, ty, cl⟩ := f
  simp only [SR.unpack, SR.pack, SR.mk.injEq]
  exact ⟨(part_hi _ _ (by decide)).trans ((part_hi _ _ (by decide)).trans ((part_hi _ _ (by decide)).trans ((part_hi _ _ (by decide)).trans ((part_hi _ _ (by decide)).trans ((part_hi _ _ (by decide)).trans (part_all _)))))), (part_hi _ _ (by decide)).trans ((part_hi _ _ (by decide)).trans ((part_hi _ _ (by decide)).trans ((part_hi _ _ (by decide)).trans ((part_hi _ _ (by decide)).trans (part_lo _ _))))), (part_hi _ _ (by decide)).trans ((part_hi _ _ (by decide)).trans ((part_hi _ _ (by decide)).trans ((part_hi _ _ (by decide)).trans (part_lo _ _)))), (part_hi _ _ (by decide)).trans ((part_hi _ _ (by decide)).trans ((part_hi _ _ (by decide)).trans (part_lo _ _))), (part_hi _ _ (by decide)).trans ((part_hi _ _ (by decide)).trans (part_lo _ _)), (part_hi _ _ (by decide)).trans (part_lo _ _), part_lo _ _⟩

theorem SR.pack_unpack (p : BitVec 48) : (SR.unpack p).pack = p := by
  refine BitVec.eq_of_getLsbD_eq (fun i hi => ?_)
  simp only [SR.unpack, SR.pack]
  erw [BitVec.getLsbD_append]
  simp only [BitVec.getLsbD_append, BitVec.getLsbD_extractLsb']
  (repeat' split) <;> rw [decide_eq_true (by omega), Bool.true_and] <;> congr 1 <;> omega

theorem SI.unpack_pack (f : SI) : SI.unpack f.pack = f := by
  obtain ⟨sd, sa, imm⟩ := f
  simp only [SI.unpack, SI.pack, SI.mk.injEq]
  exact ⟨(part_hi _ _ (by decide)).trans ((part_hi _ _ (by decide)).trans (part_all _)), (part_hi _ _ (by decide)).trans (part_lo _ _), part_lo _ _⟩

theorem SI.pack_unpack (p : BitVec 48) : (SI.unpack p).pack = p := by
  refine BitVec.eq_of_getLsbD_eq (fun i hi => ?_)
  simp only [SI.unpack, SI.pack]
  erw [BitVec.getLsbD_append]
  simp only [BitVec.getLsbD_append, BitVec.getLsbD_extractLsb']
  (repeat' split) <;> rw [decide_eq_true (by omega), Bool.true_and] <;> congr 1 <;> omega

theorem SK.unpack_pack (f : SK) : SK.unpack f.pack = f := by
  obtain ⟨sd, rsv, imm⟩ := f
  simp only [SK.unpack, SK.pack, SK.mk.injEq]
  exact ⟨(part_hi _ _ (by decide)).trans ((part_hi _ _ (by decide)).trans (part_all _)), (part_hi _ _ (by decide)).trans (part_lo _ _), part_lo _ _⟩

theorem SK.pack_unpack (p : BitVec 48) : (SK.unpack p).pack = p := by
  refine BitVec.eq_of_getLsbD_eq (fun i hi => ?_)
  simp only [SK.unpack, SK.pack]
  erw [BitVec.getLsbD_append]
  simp only [BitVec.getLsbD_append, BitVec.getLsbD_extractLsb']
  (repeat' split) <;> rw [decide_eq_true (by omega), Bool.true_and] <;> congr 1 <;> omega

theorem FM.unpack_pack (f : FM) : FM.unpack f.pack = f := by
  obtain ⟨d, base, idx, disp, sz, cnt, sx, ord, scope⟩ := f
  simp only [FM.unpack, FM.pack, FM.mk.injEq]
  exact ⟨(part_hi _ _ (by decide)).trans ((part_hi _ _ (by decide)).trans ((part_hi _ _ (by decide)).trans ((part_hi _ _ (by decide)).trans ((part_hi _ _ (by decide)).trans ((part_hi _ _ (by decide)).trans ((part_hi _ _ (by decide)).trans ((part_hi _ _ (by decide)).trans (part_all _)))))))), (part_hi _ _ (by decide)).trans ((part_hi _ _ (by decide)).trans ((part_hi _ _ (by decide)).trans ((part_hi _ _ (by decide)).trans ((part_hi _ _ (by decide)).trans ((part_hi _ _ (by decide)).trans ((part_hi _ _ (by decide)).trans (part_lo _ _))))))), (part_hi _ _ (by decide)).trans ((part_hi _ _ (by decide)).trans ((part_hi _ _ (by decide)).trans ((part_hi _ _ (by decide)).trans ((part_hi _ _ (by decide)).trans ((part_hi _ _ (by decide)).trans (part_lo _ _)))))), (part_hi _ _ (by decide)).trans ((part_hi _ _ (by decide)).trans ((part_hi _ _ (by decide)).trans ((part_hi _ _ (by decide)).trans ((part_hi _ _ (by decide)).trans (part_lo _ _))))), (part_hi _ _ (by decide)).trans ((part_hi _ _ (by decide)).trans ((part_hi _ _ (by decide)).trans ((part_hi _ _ (by decide)).trans (part_lo _ _)))), (part_hi _ _ (by decide)).trans ((part_hi _ _ (by decide)).trans ((part_hi _ _ (by decide)).trans (part_lo _ _))), (part_hi _ _ (by decide)).trans ((part_hi _ _ (by decide)).trans (part_lo _ _)), (part_hi _ _ (by decide)).trans (part_lo _ _), part_lo _ _⟩

theorem FM.pack_unpack (p : BitVec 48) : (FM.unpack p).pack = p := by
  refine BitVec.eq_of_getLsbD_eq (fun i hi => ?_)
  simp only [FM.unpack, FM.pack]
  erw [BitVec.getLsbD_append]
  simp only [BitVec.getLsbD_append, BitVec.getLsbD_extractLsb']
  (repeat' split) <;> rw [decide_eq_true (by omega), Bool.true_and] <;> congr 1 <;> omega

theorem FMA.unpack_pack (f : FMA) : FMA.unpack f.pack = f := by
  obtain ⟨d, base, idx, b, c, ord, scope, ty⟩ := f
  simp only [FMA.unpack, FMA.pack, FMA.mk.injEq]
  exact ⟨(part_hi _ _ (by decide)).trans ((part_hi _ _ (by decide)).trans ((part_hi _ _ (by decide)).trans ((part_hi _ _ (by decide)).trans ((part_hi _ _ (by decide)).trans ((part_hi _ _ (by decide)).trans ((part_hi _ _ (by decide)).trans (part_all _))))))), (part_hi _ _ (by decide)).trans ((part_hi _ _ (by decide)).trans ((part_hi _ _ (by decide)).trans ((part_hi _ _ (by decide)).trans ((part_hi _ _ (by decide)).trans ((part_hi _ _ (by decide)).trans (part_lo _ _)))))), (part_hi _ _ (by decide)).trans ((part_hi _ _ (by decide)).trans ((part_hi _ _ (by decide)).trans ((part_hi _ _ (by decide)).trans ((part_hi _ _ (by decide)).trans (part_lo _ _))))), (part_hi _ _ (by decide)).trans ((part_hi _ _ (by decide)).trans ((part_hi _ _ (by decide)).trans ((part_hi _ _ (by decide)).trans (part_lo _ _)))), (part_hi _ _ (by decide)).trans ((part_hi _ _ (by decide)).trans ((part_hi _ _ (by decide)).trans (part_lo _ _))), (part_hi _ _ (by decide)).trans ((part_hi _ _ (by decide)).trans (part_lo _ _)), (part_hi _ _ (by decide)).trans (part_lo _ _), part_lo _ _⟩

theorem FMA.pack_unpack (p : BitVec 48) : (FMA.unpack p).pack = p := by
  refine BitVec.eq_of_getLsbD_eq (fun i hi => ?_)
  simp only [FMA.unpack, FMA.pack]
  erw [BitVec.getLsbD_append]
  simp only [BitVec.getLsbD_append, BitVec.getLsbD_extractLsb']
  (repeat' split) <;> rw [decide_eq_true (by omega), Bool.true_and] <;> congr 1 <;> omega

theorem FMC.unpack_pack (f : FMC) : FMC.unpack f.pack = f := by
  obtain ⟨f1, f2, f3, f4, cl⟩ := f
  simp only [FMC.unpack, FMC.pack, FMC.mk.injEq]
  exact ⟨(part_hi _ _ (by decide)).trans ((part_hi _ _ (by decide)).trans ((part_hi _ _ (by decide)).trans ((part_hi _ _ (by decide)).trans (part_all _)))), (part_hi _ _ (by decide)).trans ((part_hi _ _ (by decide)).trans ((part_hi _ _ (by decide)).trans (part_lo _ _))), (part_hi _ _ (by decide)).trans ((part_hi _ _ (by decide)).trans (part_lo _ _)), (part_hi _ _ (by decide)).trans (part_lo _ _), part_lo _ _⟩

theorem FMC.pack_unpack (p : BitVec 48) : (FMC.unpack p).pack = p := by
  refine BitVec.eq_of_getLsbD_eq (fun i hi => ?_)
  simp only [FMC.unpack, FMC.pack]
  erw [BitVec.getLsbD_append]
  simp only [BitVec.getLsbD_append, BitVec.getLsbD_extractLsb']
  (repeat' split) <;> rw [decide_eq_true (by omega), Bool.true_and] <;> congr 1 <;> omega

theorem FT.unpack_pack (f : FT) : FT.unpack f.pack = f := by
  obtain ⟨d, a, b, c, slot, rs, rsv, mode, cl⟩ := f
  simp only [FT.unpack, FT.pack, FT.mk.injEq]
  exact ⟨(part_hi _ _ (by decide)).trans ((part_hi _ _ (by decide)).trans ((part_hi _ _ (by decide)).trans ((part_hi _ _ (by decide)).trans ((part_hi _ _ (by decide)).trans ((part_hi _ _ (by decide)).trans ((part_hi _ _ (by decide)).trans ((part_hi _ _ (by decide)).trans (part_all _)))))))), (part_hi _ _ (by decide)).trans ((part_hi _ _ (by decide)).trans ((part_hi _ _ (by decide)).trans ((part_hi _ _ (by decide)).trans ((part_hi _ _ (by decide)).trans ((part_hi _ _ (by decide)).trans ((part_hi _ _ (by decide)).trans (part_lo _ _))))))), (part_hi _ _ (by decide)).trans ((part_hi _ _ (by decide)).trans ((part_hi _ _ (by decide)).trans ((part_hi _ _ (by decide)).trans ((part_hi _ _ (by decide)).trans ((part_hi _ _ (by decide)).trans (part_lo _ _)))))), (part_hi _ _ (by decide)).trans ((part_hi _ _ (by decide)).trans ((part_hi _ _ (by decide)).trans ((part_hi _ _ (by decide)).trans ((part_hi _ _ (by decide)).trans (part_lo _ _))))), (part_hi _ _ (by decide)).trans ((part_hi _ _ (by decide)).trans ((part_hi _ _ (by decide)).trans ((part_hi _ _ (by decide)).trans (part_lo _ _)))), (part_hi _ _ (by decide)).trans ((part_hi _ _ (by decide)).trans ((part_hi _ _ (by decide)).trans (part_lo _ _))), (part_hi _ _ (by decide)).trans ((part_hi _ _ (by decide)).trans (part_lo _ _)), (part_hi _ _ (by decide)).trans (part_lo _ _), part_lo _ _⟩

theorem FT.pack_unpack (p : BitVec 48) : (FT.unpack p).pack = p := by
  refine BitVec.eq_of_getLsbD_eq (fun i hi => ?_)
  simp only [FT.unpack, FT.pack]
  erw [BitVec.getLsbD_append]
  simp only [BitVec.getLsbD_append, BitVec.getLsbD_extractLsb']
  (repeat' split) <;> rw [decide_eq_true (by omega), Bool.true_and] <;> congr 1 <;> omega

theorem FTM.unpack_pack (f : FTM) : FTM.unpack f.pack = f := by
  obtain ⟨d, base, idx, disp, space, cl⟩ := f
  simp only [FTM.unpack, FTM.pack, FTM.mk.injEq]
  exact ⟨(part_hi _ _ (by decide)).trans ((part_hi _ _ (by decide)).trans ((part_hi _ _ (by decide)).trans ((part_hi _ _ (by decide)).trans ((part_hi _ _ (by decide)).trans (part_all _))))), (part_hi _ _ (by decide)).trans ((part_hi _ _ (by decide)).trans ((part_hi _ _ (by decide)).trans ((part_hi _ _ (by decide)).trans (part_lo _ _)))), (part_hi _ _ (by decide)).trans ((part_hi _ _ (by decide)).trans ((part_hi _ _ (by decide)).trans (part_lo _ _))), (part_hi _ _ (by decide)).trans ((part_hi _ _ (by decide)).trans (part_lo _ _)), (part_hi _ _ (by decide)).trans (part_lo _ _), part_lo _ _⟩

theorem FTM.pack_unpack (p : BitVec 48) : (FTM.unpack p).pack = p := by
  refine BitVec.eq_of_getLsbD_eq (fun i hi => ?_)
  simp only [FTM.unpack, FTM.pack]
  erw [BitVec.getLsbD_append]
  simp only [BitVec.getLsbD_append, BitVec.getLsbD_extractLsb']
  (repeat' split) <;> rw [decide_eq_true (by omega), Bool.true_and] <;> congr 1 <;> omega

theorem FC.unpack_pack (f : FC) : FC.unpack f.pack = f := by
  obtain ⟨sa, rsv, imm⟩ := f
  simp only [FC.unpack, FC.pack, FC.mk.injEq]
  exact ⟨(part_hi _ _ (by decide)).trans ((part_hi _ _ (by decide)).trans (part_all _)), (part_hi _ _ (by decide)).trans (part_lo _ _), part_lo _ _⟩

theorem FC.pack_unpack (p : BitVec 48) : (FC.unpack p).pack = p := by
  refine BitVec.eq_of_getLsbD_eq (fun i hi => ?_)
  simp only [FC.unpack, FC.pack]
  erw [BitVec.getLsbD_append]
  simp only [BitVec.getLsbD_append, BitVec.getLsbD_extractLsb']
  (repeat' split) <;> rw [decide_eq_true (by omega), Bool.true_and] <;> congr 1 <;> omega

theorem FY.unpack_pack (f : FY) : FY.unpack f.pack = f := by
  obtain ⟨sa, sb, sc, rsv, prn⟩ := f
  simp only [FY.unpack, FY.pack, FY.mk.injEq]
  exact ⟨(part_hi _ _ (by decide)).trans ((part_hi _ _ (by decide)).trans ((part_hi _ _ (by decide)).trans ((part_hi _ _ (by decide)).trans (part_all _)))), (part_hi _ _ (by decide)).trans ((part_hi _ _ (by decide)).trans ((part_hi _ _ (by decide)).trans (part_lo _ _))), (part_hi _ _ (by decide)).trans ((part_hi _ _ (by decide)).trans (part_lo _ _)), (part_hi _ _ (by decide)).trans (part_lo _ _), part_lo _ _⟩

theorem FY.pack_unpack (p : BitVec 48) : (FY.unpack p).pack = p := by
  refine BitVec.eq_of_getLsbD_eq (fun i hi => ?_)
  simp only [FY.unpack, FY.pack]
  erw [BitVec.getLsbD_append]
  simp only [BitVec.getLsbD_append, BitVec.getLsbD_extractLsb']
  (repeat' split) <;> rw [decide_eq_true (by omega), Bool.true_and] <;> congr 1 <;> omega

theorem packWord_op (op : BitVec 7) (fn : BitVec 4) (g : Guard) (p : BitVec 48) : (packWord op fn g p).extractLsb' 57 7 = op :=
  (part_hi _ _ (by decide)).trans ((part_hi _ _ (by decide)).trans ((part_hi _ _ (by decide)).trans ((part_hi _ _ (by decide)).trans (part_all _))))

theorem packWord_fn (op : BitVec 7) (fn : BitVec 4) (g : Guard) (p : BitVec 48) : (packWord op fn g p).extractLsb' 53 4 = fn :=
  (part_hi _ _ (by decide)).trans ((part_hi _ _ (by decide)).trans ((part_hi _ _ (by decide)).trans (part_lo _ _)))

theorem packWord_guard (op : BitVec 7) (fn : BitVec 4) (g : Guard) (p : BitVec 48) : Guard.unpack (packWord op fn g p) = g := by
  obtain ⟨neg, q⟩ := g
  simp only [Guard.unpack, Guard.mk.injEq]
  constructor
  · rw [packWord]; erw [BitVec.getLsbD_append]
    simp only [BitVec.getLsbD_append]
    cases neg <;> rfl
  · exact (part_hi _ _ (by decide)).trans (part_lo _ _)

theorem packWord_layout (op : BitVec 7) (fn : BitVec 4) (g : Guard) (p : BitVec 48) : (packWord op fn g p).extractLsb' 0 48 = p :=
  part_lo _ _

/-- A word is made of the parts read from it. -/
theorem packWord_parts (w : Code) :
    packWord (w.extractLsb' 57 7) (w.extractLsb' 53 4) (Guard.unpack w) (w.extractLsb' 0 48) = w := by
  refine BitVec.eq_of_getLsbD_eq (fun i hi => ?_)
  rw [packWord]; erw [BitVec.getLsbD_append]
  simp only [BitVec.getLsbD_append, BitVec.getLsbD_extractLsb', Guard.unpack, BitVec.getLsbD_ofBool]
  (repeat' split)
  · rw [decide_eq_true (by omega), Bool.true_and]; congr 1; omega
  · rw [decide_eq_true (by omega), Bool.true_and]; congr 1; omega
  · have h : i = 52 := by omega
    subst h; simp
  · rw [decide_eq_true (by omega), Bool.true_and]; congr 1; omega
  · rw [decide_eq_true (by omega), Bool.true_and]; congr 1; omega

end Sys2Proof
end

