-- ==== Sys2Proof/Laws/Memory.lean ====
section
/-! SUPPORT. What the named operations do to memory: most leave every byte as it was, and those that store keep the
canonical form. -/

namespace Sys2Proof.Machine

@[simp] theorem State.ite_mem (c : Prop) [Decidable c] (a b : State) : (if c then a else b).mem = if c then a.mem else b.mem := apply_ite ..

/-- A sequence of operations that leave memory alone leaves it alone. -/
@[simp] theorem foldl_mem {β : Type} {f : State → β → State} (h : ∀ s x, (f s x).mem = s.mem) (l : List β) (s : State) :
    (l.foldl f s).mem = s.mem := by
  induction l generalizing s with
  | nil => rfl
  | cons x l ih => rw [List.foldl_cons, ih, h]

/-- A sequence of operations that keep the canonical form keeps it. -/
theorem foldl_wf {β : Type} {f : State → β → State} (h : ∀ s x, Memory.wf s.mem = true → Memory.wf (f s x).mem = true) (l : List β) {s : State}
    (w : Memory.wf s.mem = true) : Memory.wf (l.foldl f s).mem = true := by
  induction l generalizing s with
  | nil => exact w
  | cons x l ih => exact ih (h s x w)


@[simp] theorem State.fillHost_mem (s : State) (k : ℕ) : (s.fillHost k).mem = s.mem := by
  unfold State.fillHost; repeat' first | rfl | split
@[simp] theorem State.tlbFill_mem (s : State) (place : ℕ) (world : ℕ) (va : ℕ) : (s.tlbFill place world va).mem = s.mem := by
  unfold State.tlbFill; split <;> simp
@[simp] theorem State.fillL1_mem (s : State) (l : Launch) (core : ℕ) (k : ℕ) (green : Bool) : (s.fillL1 l core k green).mem = s.mem := by
  simp [State.fillL1]
@[simp] theorem State.homeWrite_wf (s : State) (k : ℕ) (b : Byte) (w : Memory.wf s.mem = true) : Memory.wf (s.homeWrite k b).mem = true := by
  unfold State.homeWrite; repeat' first | (simp [w]; done) | split | dsimp only
@[simp] theorem State.soil_mem (s : State) (k : ℕ) : (s.soil k).mem = s.mem := by unfold State.soil; split <;> rfl
@[simp] theorem State.dropLine_mem (s : State) (core k : ℕ) : (s.dropLine core k).mem = s.mem := rfl
@[simp] theorem State.dropOwnLine_mem (s : State) (core k : ℕ) : (s.dropOwnLine core k).mem = s.mem := rfl
@[simp] theorem State.homePut_wf (s : State) (k : Nat) (bs : List Byte) (w : Memory.wf s.mem = true) : Memory.wf (s.homePut k bs).mem = true := by
  induction bs generalizing s k with
  | nil => exact w
  | cons b bs ih => exact ih _ _ (s.homeWrite_wf k b w)
@[simp] theorem State.acquire_mem (s : State) (core : ℕ) (scope : ℕ) : (s.acquire core scope).mem = s.mem := by
  unfold State.acquire; repeat' first | rfl | (simp; done) | split
@[simp] theorem State.haltGang_mem (s : State) (id : ℕ) (st : GStatus) : (s.haltGang id st).mem = s.mem := rfl
@[simp] theorem State.haltGangs_mem (s : State) (st : GStatus) (p : Gang → Bool) : (s.haltGangs st p).mem = s.mem := by
  unfold State.haltGangs; repeat' first | (simp; done) | refine (foldl_mem (fun s x => ?_) _ _).trans ?_ | split
@[simp] theorem State.file_mem (s : State) (wg : ℕ) (core : ℕ) (part : ℕ) (pc : VA) (tids : List ℕ) : (s.file wg core part pc tids).mem = s.mem := by
  unfold State.file; repeat' first | with_reducible rfl | (simp; done) | refine (foldl_mem (fun s x => ?_) _ _).trans ?_ | split | dsimp only
@[simp] theorem State.pushRecord_wf (s : State) (world : ℕ) (r : FaultRec) (w : Memory.wf s.mem = true) : Memory.wf (s.pushRecord world r).mem = true := by
  unfold State.pushRecord; repeat' first | exact w | (simp [w]; done) | dsimp only | split
@[simp] theorem State.recordPage_wf (s : State) (world : ℕ) (big : Bool) (r : FaultRec) (va : ℕ) (w : Memory.wf s.mem = true) : Memory.wf (s.recordPage world big r va).mem = true := by
  unfold State.recordPage; repeat' first | exact w | (simp [w]; done) | dsimp only | split
@[simp] theorem State.keepMembers_mem (s : State) (id : ℕ) (tids : List ℕ) : (s.keepMembers id tids).mem = s.mem := by simp [State.keepMembers]
@[simp] theorem State.fileFrom_mem (s : State) (e : Env) (pc : VA) (tids : List ℕ) : (s.fileFrom e pc tids).mem = s.mem := by simp [State.fileFrom]
@[simp] theorem State.perLane_mem (s : State) (e : Env) (tids : List ℕ) (f : BitVec 16 → Thread → Thread) : (s.perLane e tids f).mem = s.mem := by
  simp [State.perLane]
@[simp] theorem State.park_mem (s : State) (e : Env) (tids : List ℕ) (why : Park) : (s.park e tids why).mem = s.mem := by simp [State.park]
@[simp] theorem State.addGroup_mem (s : State) (wg : ℕ) (core : ℕ) (part : ℕ) (members : List ℕ) (drawn : Bool) : (s.addGroup wg core part members drawn).mem = s.mem := by
  simp [State.addGroup]
@[simp] theorem State.split_mem (s : State) (e : Env) (stay : List ℕ) (go : List ℕ) (pc : VA) : (s.split e stay go pc).mem = s.mem := by
  simp [State.split]
@[simp] theorem State.fetchFault_wf (s : State) (e : Env) (va : VA) (bits : ℕ) (w : Memory.wf s.mem = true) : Memory.wf (s.fetchFault e va bits).mem = true := by
  simp [State.fetchFault, w]
@[simp] theorem State.takeTrap_wf (s : State) (e : Env) (i : TrapInfo) (w : Memory.wf s.mem = true) : Memory.wf (s.takeTrap e i).mem = true := by
  unfold State.takeTrap; dsimp only; split <;> exact State.pushRecord_wf _ _ _ w
@[simp] theorem State.trapResume_mem (s : State) (gang : Gang) : (s.trapResume gang).mem = s.mem := by
  unfold State.trapResume; repeat' first | (simp; done) | refine (foldl_mem (fun s x => ?_) _ _).trans ?_ | split
@[simp] theorem State.modVersion_mem (s : State) (id : ℕ) (f : Version → Version) : (s.modVersion id f).mem = s.mem := rfl
@[simp] theorem State.link_mem (s : State) (v : Version) (u : Version) : (s.link v u).mem = s.mem := by simp [State.link]
@[simp] theorem State.linkIds_mem (s : State) (v : ℕ) (u : ℕ) : (s.linkIds v u).mem = s.mem := by unfold State.linkIds; split <;> simp
@[simp] theorem State.gain_mem (s : State) (v : ℕ) (u : ℕ) : (s.gain v u).mem = s.mem := by unfold State.gain; split <;> simp
@[simp] theorem State.openVersion_mem (s : State) (l : Launch) (n : Word) : (s.openVersion l n).2.mem = s.mem := by
  unfold State.openVersion; split <;> simp
@[simp] theorem State.noteRead_mem (s : State) (l : Launch) (num : Word) (word : ℕ) : (s.noteRead l num word).mem = s.mem := by
  unfold State.noteRead; split <;> simp
@[simp] theorem State.noteFrom_mem (s : State) (l : Launch) (num : Word) (from' : Launch) (other : Word) :
    (s.noteFrom l num from' other).mem = s.mem := by
  unfold State.noteFrom; split <;> simp
@[simp] theorem State.noteLoad_mem (s : State) (l : Launch) (core : ℕ) (num : Word) (word : ℕ) : (s.noteLoad l core num word).mem = s.mem := by
  unfold State.noteLoad; dsimp only
  have h : ∀ m : List (Nat × Word), (m.foldl (fun s x => match s.launch? x.1 with | some m => s.noteFrom l num m x.2 | none => s) s).mem = s.mem :=
    fun m => foldl_mem (fun s x => by split <;> simp) m s
  split
  · rw [State.noteRead_mem]; exact h _
  · exact h _
@[simp] theorem State.flagVersion_mem (s : State) (world : ℕ) (num : Word) (hit : Bool) : (s.flagVersion world num hit).mem = s.mem := by
  unfold State.flagVersion; split <;> rfl
@[simp] theorem State.refill_mem (s : State) (die key size : ℕ) (data : Word) : (s.refill die key size data).mem = s.mem := rfl
@[simp] theorem State.greenWrite_mem (s : State) (l : Launch) (num : Word) (core : ℕ) (key : ℕ) (size : ℕ) (data : Word) : (s.greenWrite l num core key size data).mem = s.mem := by
  simp [State.greenWrite]
@[simp] theorem State.inject_mem (s : State) (core kind : Nat) (x : Word) : (s.inject core kind x).2.mem = s.mem := by
  unfold State.inject; split <;> rfl
@[simp] theorem State.writeElem_wf (s : State) (l : Launch) (num : Word) (core : Nat) (e : Elem) (w : Memory.wf s.mem = true) :
    Memory.wf (s.writeElem l num core e).mem = true := by
  unfold State.writeElem
  have i := State.inject_mem s (Config.dieOfCore core) e.key e.data
  rcases h : s.inject (Config.dieOfCore core) e.key e.data with ⟨data, t⟩
  rw [h] at i
  replace i : Memory.wf t.mem = true := by rw [i]; exact w
  split
  · rw [State.soil_mem]; exact State.homePut_wf _ _ _ w
  · dsimp only
    split
    · rw [State.flagVersion_mem, State.greenWrite_mem]; exact i
    · split
      · exact i
      · rw [State.refill_mem]; exact State.homePut_wf _ _ _ i
@[simp] theorem State.unlock_mem (s : State) (owner : ℕ) (p : RangeLock → Bool) : (s.unlock owner p).mem = s.mem := rfl
@[simp] theorem State.addLock_mem (s : State) (owner : ℕ) (world : ℕ) (spad : Bool) (place : ℕ) (lo : ℕ) (hi : ℕ) (dst : Bool) : (s.addLock owner world spad place lo hi dst).mem = s.mem := by
  simp [State.addLock]
@[simp] theorem State.reject_mem (s : State) (e : Env) : (s.reject e).mem = s.mem := rfl
@[simp] theorem State.parkLanes_wf (s : State) (e : Env) (wr : Bool) (cs : List (Nat × Cond)) (w : Memory.wf s.mem = true) :
    Memory.wf (s.parkLanes e wr cs).mem = true := by
  unfold State.parkLanes
  dsimp only
  rw [State.keepMembers_mem, foldl_mem (fun s c => by split <;> simp)]
  exact foldl_wf (fun s x w => State.recordPage_wf _ _ _ _ _ w) _ w
@[simp] theorem State.registerSlots_mem (s : State) (wg : ℕ) : (s.registerSlots wg).mem = s.mem := by
  unfold State.registerSlots; exact foldl_mem (fun s o => by split <;> simp) _ s
@[simp] theorem State.modStt_mem (s : State) (wg : ℕ) (page : ℕ) (f : SttEntry → SttEntry) : (s.modStt wg page f).mem = s.mem := rfl
@[simp] theorem State.markFence_mem (s : State) (wg : ℕ) (tid : ℕ) (scope : ℕ) : (s.markFence wg tid scope).mem = s.mem := rfl
@[simp] theorem State.fillPages_mem (s : State) (e : Env) (elems : List Elem) : (s.fillPages e elems).mem = s.mem := by
  simp [State.fillPages]
@[simp] theorem State.addFlight_mem (s : State) (e : Env) (m : Form) (tids : List ℕ) (elems : List Elem) (reserve : Bool) (before : List (ℕ × ℕ)) (batch : ℕ) : (s.addFlight e m tids elems reserve before batch).mem = s.mem := by
  simp only [State.addFlight, State.modThreads_mem]
  split <;> split <;> simp
@[simp] theorem State.addFlights_mem (s : State) (e : Env) (m : Form) (reserve writes : Bool) (d l : List (Nat × List Elem)) :
    (s.addFlights e m reserve writes d l).mem = s.mem := by
  induction l generalizing s d with
  | nil => rfl
  | cons x l ih => simp [State.addFlights, ih]
@[simp] theorem State.fileHere_mem (s : State) (e : Env) : (s.fileHere e).mem = s.mem := by simp [State.fileHere]
@[simp] theorem State.cacheFill_mem (s : State) (l : Launch) (core : ℕ) (x : Elem) : (s.cacheFill l core x).mem = s.mem := by simp [State.cacheFill]
@[simp] theorem State.lower_mem (s : State) (f : Flight) : (s.lower f).mem = s.mem := by simp [State.lower]
@[simp] theorem State.land_mem (s : State) (f : Flight) : (s.land f).mem = s.mem := by unfold State.land; split <;> simp
@[simp] theorem State.storeElem_wf (s : State) (f : Flight) (x : Elem) (w : Memory.wf s.mem = true) : Memory.wf (s.storeElem f x).mem = true := by
  simp [State.storeElem, w]
@[simp] theorem State.landElem_mem (s : State) (f : Flight) (n : ℕ) : (s.landElem f n).mem = s.mem := by unfold State.landElem; split <;> simp
@[simp] theorem State.flushLines_wf (s : State) (lines : List Nat) (inv : Bool) (w : Memory.wf s.mem = true) :
    Memory.wf (s.flushLines lines inv).mem = true := by
  refine memory_wf_foldl _ (fun m h w => ?_) _ w
  refine memory_wf_foldl _ (fun m i w => ?_) _ w
  split <;> simp [w]
@[simp] theorem State.formL1_mem (s : State) (cluster : ℕ) (fused : Bool) : (s.formL1 cluster fused).mem = s.mem := by
  rfl
@[simp] theorem State.countReject_mem (s : State) (core part : ℕ) : (s.countReject core part).mem = s.mem := by simp [State.countReject]
@[simp] theorem State.recordPages_wf (s : State) (world : ℕ) (r : FaultRec) (ps : List (ℕ × ℕ)) (w : Memory.wf s.mem = true) :
    Memory.wf (s.recordPages world r ps).mem = true := by
  unfold State.recordPages; exact foldl_wf (fun s p w => State.recordPage_wf _ _ _ _ _ w) _ w
@[simp] theorem State.passElem_mem (s : State) (l : Launch) (core : ℕ) (xs : List Elem) (x : Elem) : (s.passElem l core xs x).mem = s.mem := by
  simp [State.passElem]
@[simp] theorem State.toReg_mem (s : State) (f : Flight) (reg : ℕ) (x : Word → Word) : (s.toReg f reg x).mem = s.mem := by simp [State.toReg]
@[simp] theorem State.putHostWord_wf (s : State) (k x : ℕ) (w : Memory.wf s.mem = true) : Memory.wf (s.putHostWord k x).mem = true := by
  simp [State.putHostWord, w]
@[simp] theorem State.atomElem_wf (s : State) (f : Flight) (op : AtomOp) (ty : BitVec 2) (b : Word) (c : Word) (x : Elem) (w : Memory.wf s.mem = true) : Memory.wf (s.atomElem f op ty b c x).mem = true := by
  unfold State.atomElem
  dsimp only
  rw [State.toReg_mem]
  have a (t : State) (w : Memory.wf t.mem = true) (old : Word) : Memory.wf (if isHost x.key = true then (if (s.launchOf f).shadowOf.isSome = true then t
      else t.putHostWord x.key (atomNew op ty old b c).toNat)
      else t.writeElem (s.launchOf f) f.num f.core { x with data := atomNew op ty old b c, size := 4 }).mem = true := by
    repeat' first | exact w | (simp [w]; done) | split
  refine a _ ?_ _
  repeat' first | exact w | (simp [w]; done) | split
@[simp] theorem State.homeEffect_wf (s : State) (f : Flight) (xs : List Elem) (w : Memory.wf s.mem = true) : Memory.wf (s.homeEffect f xs).mem = true := by
  unfold State.homeEffect; repeat' first | assumption | (simp [*]; done) | refine foldl_wf (fun s x w => ?_) _ ?_ | split | dsimp only
@[simp] theorem State.passStore_mem (s : State) (f : Flight) : (s.passStore f).mem = s.mem := by
  unfold State.passStore; repeat' first | rfl | (simp; done) | split | dsimp only
@[simp] theorem State.loadElem_mem (s : State) (f : Flight) (x : Elem) : (s.loadElem f x).mem = s.mem := by
  unfold State.loadElem; dsimp only; split <;> (rw [State.toReg_mem]; repeat' first | rfl | (simp; done) | split)
@[simp] theorem State.landTile_mem (s : State) (o : TileOp) : (s.landTile o).mem = s.mem := by simp [State.landTile]
@[simp] theorem State.askLeave_mem (s : State) (die : ℕ) (op : ℕ) (cost : ℕ) (tile : Bool) : (s.askLeave die op cost tile).mem = s.mem := rfl
@[simp] theorem State.addTile_mem (s : State) (e : Env) (tids : List ℕ) (kind : TileKind) (mode : BitVec 2) (reads : List ℕ) (writes : List ℕ) (leave : Bool) (core : ℕ) : (s.addTile e tids kind mode reads writes leave core).mem = s.mem := by
  simp [State.addTile]
@[simp] theorem State.setCv_mem (s : State) (wg : ℕ) (n : ℕ) (c : Cv) : (s.setCv wg n c).mem = s.mem := rfl
@[simp] theorem State.countTl_mem (s : State) (e : Env) (tids : List ℕ) : (s.countTl e tids).mem = s.mem := by simp [State.countTl]
@[simp] theorem State.putBar_mem (s : State) (x1 : Workgroup) (level : ℕ) (n : ℕ) (b : Barrier) : (s.putBar x1 level n b).mem = s.mem := by
  unfold State.putBar; split <;> simp
@[simp] theorem State.arrive_mem (s : State) (x1 : Workgroup) (level : ℕ) (n : ℕ) (tids : List ℕ) : (s.arrive x1 level n tids).mem = s.mem := by
  simp [State.arrive]
@[simp] theorem State.tryBar_mem (s : State) (l : Launch) (x2 : Workgroup) (level : ℕ) (n : ℕ) : (s.tryBar l x2 level n).mem = s.mem := by
  simp [State.tryBar]
@[simp] theorem State.credit_mem (s : State) (l : Launch) (x2 : Workgroup) (core : ℕ) (level : ℕ) (n : ℕ) (phase : Word) (bytes : ℕ) : (s.credit l x2 core level n phase bytes).mem = s.mem := by
  simp [State.credit]
@[simp] theorem State.enter_mem (s : State) (e : Env) (pc : VA) (x3 : Header) : (s.enter e pc x3).mem = s.mem := by simp [State.enter]
@[simp] theorem State.tryRing_mem (s : State) (wg : ℕ) (n : ℕ) : (s.tryRing wg n).mem = s.mem := by
  unfold State.tryRing; repeat' first | (simp; done) | split
@[simp] theorem State.afterExit_mem (s : State) (l : Launch) (x2 : Workgroup) : (s.afterExit l x2).mem = s.mem := by simp [State.afterExit]
@[simp] theorem State.dropLoads_mem (s : State) (wg : ℕ) (tids : List ℕ) : (s.dropLoads wg tids).mem = s.mem := rfl
@[simp] theorem State.passPart_mem (s : State) (e : Env) (go : List ℕ) (stay : List ℕ) : (s.passPart e go stay).mem = s.mem := by
  simp [State.passPart]
@[simp] theorem State.draw_mem (s : State) (b : Bin) (tids : List ℕ) : (s.draw b tids).mem = s.mem := by simp [State.draw]
@[simp] theorem State.lockLocs_mem (s : State) (owner : ℕ) (world : ℕ) (die : ℕ) (locs : List (Loc × ℕ)) (dst : Bool) : (s.lockLocs owner world die locs dst).mem = s.mem := by
  unfold State.lockLocs; split <;> simp
@[simp] theorem State.addEngine_mem (s : State) (e : Env) (ts : List ℕ) (o : Order) : (s.addEngine e ts o).mem = s.mem := by simp [State.addEngine]
@[simp] theorem State.sendBulk_mem (s : State) (x : BulkLine) : (s.sendBulk x).mem = s.mem := rfl
@[simp] theorem State.engineElem_wf (s : State) (l : Launch) (o : EngineOp) (x : Elem) (w : Memory.wf s.mem = true) : Memory.wf (s.engineElem l o x).mem = true := by
  unfold State.engineElem; split <;> simp [w]
@[simp] theorem State.creditLanding_mem (s : State) (o : EngineOp) : (s.creditLanding o).mem = s.mem := by unfold State.creditLanding; split <;> simp
@[simp] theorem State.overtake_mem (s : State) (o : EngineOp) (dst : Loc) (n : ℕ) (key : ℕ) : (s.overtake o dst n key).mem = s.mem := rfl
@[simp] theorem State.putWord_wf (s : State) (l : Launch) (o : EngineOp) (dst : Loc) (key : ℕ) (green : Bool) (bytes : List Byte) (w : Memory.wf s.mem = true) : Memory.wf (s.putWord l o dst key green bytes).mem = true := by
  unfold State.putWord; repeat' first | assumption | (simp [*]; done) | refine foldl_wf (fun s x w => ?_) _ ?_ | split | dsimp only
@[simp] theorem State.relock_mem (s : State) (o : EngineOp) : (s.relock o).mem = s.mem := by unfold State.relock; split <;> simp
@[simp] theorem State.fillLoc_mem (s : State) (o : EngineOp) (x : Loc) : (s.fillLoc o x).mem = s.mem := by unfold State.fillLoc; split <;> simp
@[simp] theorem State.driverStop_mem (s : State) (gang : ℕ) : (s.driverStop gang).mem = s.mem := by
  unfold State.driverStop; repeat' first | rfl | (simp; done) | split
@[simp] theorem State.engineStop_wf (s : State) (o : EngineOp) (code : ℕ) (va : ℕ) (mal : Bool) (wr : Bool) (w : Memory.wf s.mem = true) : Memory.wf (s.engineStop o code va mal wr).mem = true := by
  unfold State.engineStop; repeat' first | exact w | (simp [w]; done) | dsimp only | split
@[simp] theorem State.landEngine_mem (s : State) (o : EngineOp) : (s.landEngine o).mem = s.mem := by simp [State.landEngine]
@[simp] theorem State.freeSource_mem (s : State) (op : ℕ) : (s.freeSource op).mem = s.mem := by unfold State.freeSource; split <;> simp
@[simp] theorem State.flipPage_wf (s : State) (world : ℕ) (va : ℕ) (tag : ℕ) (w : Memory.wf s.mem = true) : Memory.wf (s.flipPage world va tag).mem = true := by
  unfold State.flipPage; split <;> simp [w]
@[simp] theorem State.ackLine_mem (s : State) (x : BulkLine) (code : ℕ) : (s.ackLine x code).mem = s.mem := by unfold State.ackLine; split <;> simp
@[simp] theorem State.addArrival_mem (s : State) (bulk : Bool) (entry : ℕ) (world : ℕ) (ctr : ℕ) (n : ℕ) : (s.addArrival bulk entry world ctr n).mem = s.mem := by
  simp [State.addArrival]
@[simp] theorem State.modLink_mem (s : State) (n : ℕ) (f : Link → Link) : (s.modLink n f).mem = s.mem := by unfold State.modLink; split <;> simp
@[simp] theorem State.replyPeer_mem (s : State) (chip : ℕ) (seq code : ℕ) (bytes : List Byte) : (s.replyPeer chip seq code bytes).mem = s.mem :=
  rfl
@[simp] theorem State.lineLock_mem (s : State) (x : BulkLine) (key : ℕ) : (s.lineLock x key).mem = s.mem := by
  unfold State.lineLock; repeat' first | rfl | (simp; done) | split | dsimp only
@[simp] theorem State.endLine_mem (s : State) (x : BulkLine) : (s.endLine x).mem = s.mem := by
  unfold State.endLine; repeat' first | rfl | (simp; done) | split | dsimp only
@[simp] theorem State.putLine_wf (s : State) (x : BulkLine) (key : ℕ) (green : Bool) (w : Memory.wf s.mem = true) : Memory.wf (s.putLine x key green).mem = true := by
  unfold State.putLine; repeat' first | assumption | (simp [*]; done) | refine foldl_wf (fun s x w => ?_) _ ?_ | split | dsimp only
@[simp] theorem State.linkDown_mem (s : State) (n : ℕ) : (s.linkDown n).mem = s.mem := by simp [State.linkDown]
@[simp] theorem State.putEnabled_wf (s : State) (key : ℕ) (data : List Byte) (en : BitVec 128) (w : Memory.wf s.mem = true) : Memory.wf (s.putEnabled key data en).mem = true := by
  unfold State.putEnabled; repeat' first | assumption | (simp [*]; done) | refine foldl_wf (fun s x w => ?_) _ ?_ | split | dsimp only
@[simp] theorem State.present_mem (s : State) (p : Packet) : (s.present p).mem = s.mem := by
  unfold State.present; repeat' first | rfl | (simp; done) | split | dsimp only
@[simp] theorem State.presentAll_mem (s : State) (p : Packet) (n : ℕ) : (s.presentAll p n).mem = s.mem := by
  induction n generalizing s p with
  | zero => rfl
  | succ n ih => simp only [State.presentAll]; split <;> simp [ih]
@[simp] theorem State.freeSlot_mem (s : State) (q : PortSlot) : (s.freeSlot q).mem = s.mem := rfl
@[simp] theorem State.expel_mem (s : State) (link chip : ℕ) : (s.expel link chip).mem = s.mem := by simp [State.expel]
@[simp] theorem State.rekeyLink_mem (s : State) (n : ℕ) : (s.rekeyLink n).mem = s.mem := by
  unfold State.rekeyLink; repeat' first | rfl | (simp; done) | split
@[simp] theorem State.rekeyAll_mem (s : State) : (s.rekeyAll).mem = s.mem := by
  unfold State.rekeyAll; generalize List.range 32 = l; exact foldl_mem (fun s n => State.rekeyLink_mem s n) l s
@[simp] theorem State.countLine_mem (s : State) (x : BulkLine) : (s.countLine x).mem = s.mem := by
  unfold State.countLine; repeat' first | (simp; done) | split
@[simp] theorem State.landByte_wf (s : State) (wg a : Nat) (b : Byte) (w : Memory.wf s.mem = true) : Memory.wf (s.landByte wg a b).mem = true := by
  unfold State.landByte; repeat' first | exact w | (simp [w]; done) | split
@[simp] theorem State.landBytes_wf (s : State) (r : Receive) (bytes : List (Nat × Byte)) (w : Memory.wf s.mem = true) :
    Memory.wf (s.landBytes r bytes).mem = true := foldl_wf (fun s b w => s.landByte_wf _ _ _ w) _ w
@[simp] theorem State.cancelPosted_mem (s : State) (world : Nat) (p : Receive → Bool) : (s.cancelPosted world p).mem = s.mem := by
  unfold State.cancelPosted; split
  · rfl
  · dsimp only; rw [State.modWorld_mem]; exact foldl_mem (fun s r => State.unlock_mem _ _ _) _ _
@[simp] theorem State.finishReceive_wf (s : State) (world : ℕ) (r : Receive) (m : Message) (k : ℕ) (aborted : Bool) (w : Memory.wf s.mem = true) : Memory.wf (s.finishReceive world r m k aborted).mem = true := by
  have a (t : State) (h : t.mem = s.mem) : Memory.wf t.mem = true := by rw [h]; exact w
  unfold State.finishReceive
  dsimp only
  split
  · refine a _ ?_; repeat' first | rfl | (simp; done) | split
  · refine State.pushRecord_wf _ _ _ (a _ ?_); repeat' first | rfl | (simp; done) | split
@[simp] theorem State.headerTaken_mem (s : State) (m : Message) : (s.headerTaken m).mem = s.mem := by unfold State.headerTaken; split <;> simp
@[simp] theorem State.report_mem (s : State) (e : Env) (f : FMC) : (s.report e f).mem = s.mem := by
  unfold State.report; repeat' first | with_reducible rfl | (simp; done) | refine (foldl_mem (fun s x => ?_) _ _).trans ?_ | split | dsimp only
@[simp] theorem State.sweep_mem (s : State) : (s.sweep).mem = s.mem := rfl
@[simp] theorem State.notifyMet_mem (s : State) (world : ℕ) : (s.notifyMet world).mem = s.mem := by
  unfold State.notifyMet; repeat' first | (simp; done) | refine (foldl_mem (fun s x => ?_) _ _).trans ?_ | split
@[simp] theorem State.unqueue_mem (s : State) (l : Launch) : (s.unqueue l).mem = s.mem := by simp [State.unqueue]
@[simp] theorem State.putCtr_mem (s : State) (world : ℕ) (id : ℕ) (c : Ctr) : (s.putCtr world id c).mem = s.mem := by simp [State.putCtr]
@[simp] theorem State.setEnd_mem (s : State) (world : ℕ) (id : ℕ) (e : CtrEnd) : (s.setEnd world id e).mem = s.mem := by simp [State.setEnd]
@[simp] theorem State.addScope_mem (s : State) (world : ℕ) (id : ℕ) (scope : ℕ) : (s.addScope world id scope).mem = s.mem := by simp [State.addScope]
@[simp] theorem State.carry_mem (s : State) (world scope : Nat) (bad : Option (BitVec 4 × BitVec 8)) (l : List (Nat × Nat)) :
    (s.carry world scope bad l).mem = s.mem := by
  induction l generalizing s bad with
  | nil => rfl
  | cons x l ih => unfold State.carry; repeat' first | (simp [ih]; done) | split | dsimp only
@[simp] theorem State.endLaunch_mem (s : State) (l : Launch) (bad : Option (BitVec 4 × BitVec 8)) : (s.endLaunch l bad).mem = s.mem := by
  simp [State.endLaunch]
@[simp] theorem State.requeue_mem (s : State) (l : Launch) : (s.requeue l).mem = s.mem := by simp [State.requeue]
@[simp] theorem State.pushFire_wf (s : State) (world : ℕ) (x : BitVec 128) (w : Memory.wf s.mem = true) : Memory.wf (s.pushFire world x).mem = true := by
  unfold State.pushFire; repeat' first | exact w | (simp [w]; done) | dsimp only | split
@[simp] theorem State.useCtr_mem (s : State) (world id : ℕ) (c : Ctr) : (s.useCtr world id c).mem = s.mem := by simp [State.useCtr]
@[simp] theorem State.reopen_mem (s : State) (l : Launch) : (s.reopen l).mem = s.mem := by simp [State.reopen]
@[simp] theorem State.addRerun_mem (s : State) (l : Launch) (avoid : BitVec 8) : (s.addRerun l avoid).mem = s.mem := rfl
@[simp] theorem State.resubmit_wf (s : State) (l : Launch) (avoid : BitVec 8) (w : Memory.wf s.mem = true) : Memory.wf (s.resubmit l avoid).mem = true := by
  simp [State.resubmit, w]
@[simp] theorem State.freeArrival_mem (s : State) (gang : ℕ) : (s.freeArrival gang).mem = s.mem := rfl
@[simp] theorem State.dropReceives_mem (s : State) (world : ℕ) (wg : ℕ) : (s.dropReceives world wg).mem = s.mem := by simp [State.dropReceives]
@[simp] theorem State.dropEngine_mem (s : State) (op : ℕ) : (s.dropEngine op).mem = s.mem := rfl
@[simp] theorem State.discardGang_mem (s : State) (gang : ℕ) : (s.discardGang gang).mem = s.mem := by
  unfold State.discardGang; repeat' first | (simp; done) | refine (foldl_mem (fun s x => ?_) _ _).trans ?_ | split
@[simp] theorem State.discardGangs_mem (s : State) (launch : ℕ) : (s.discardGangs launch).mem = s.mem := by simp [State.discardGangs]
@[simp] theorem State.reportVersion_wf (s : State) (v : Version) (event : ℕ) (test : ℕ) (rslot : ℕ) (index : ℕ) (w : Memory.wf s.mem = true) : Memory.wf (s.reportVersion v event test rslot index).mem = true := by
  unfold State.reportVersion; split <;> simp [w]
@[simp] theorem State.fireVersion_wf (s : State) (v : Version) (w : Memory.wf s.mem = true) : Memory.wf (s.fireVersion v).mem = true := by
  unfold State.fireVersion
  exact State.reportVersion_wf _ _ _ _ _ _ (foldl_wf (fun s x w => s.homePut_wf _ _ w) _ w)
@[simp] theorem State.dropRuns_mem (s : State) (p : Launch → Bool) : (s.dropRuns p).mem = s.mem := by
  unfold State.dropRuns; exact foldl_mem (fun s x => by simp) _ s
@[simp] theorem State.dropShadows_mem (s : State) (l : Launch) : (s.dropShadows l).mem = s.mem := by simp [State.dropShadows]
@[simp] theorem State.giveUpRuns_mem (s : State) : (s.giveUpRuns).mem = s.mem := by simp [State.giveUpRuns]
@[simp] theorem State.failLaunch_wf (s : State) (l : Launch) (w : Memory.wf s.mem = true) : Memory.wf (s.failLaunch l).mem = true := by
  simp [State.failLaunch, w]
@[simp] theorem State.rerunFrom_wf (s : State) (kept l : List (Nat × BitVec 8)) (w : Memory.wf s.mem = true) :
    Memory.wf (s.rerunFrom kept l).mem = true := by
  induction l generalizing s kept with
  | nil => exact w
  | cons x l ih =>
    unfold State.rerunFrom; split
    · exact ih _ _ w
    · split
      · exact ih _ _ (by split <;> simp [w])
      · exact ih _ _ w
@[simp] theorem State.rerunReady_wf (s : State) (l : List (Nat × BitVec 8)) (w : Memory.wf s.mem = true) : Memory.wf (s.rerunReady l).mem = true :=
  s.rerunFrom_wf [] l w
@[simp] theorem State.dropVersion_wf (s : State) (v : Version) (event : ℕ) (test : ℕ) (rslot : ℕ) (index : ℕ) (w : Memory.wf s.mem = true) : Memory.wf (s.dropVersion v event test rslot index).mem = true := by
  simp [State.dropVersion, w]
@[simp] theorem State.workOff_wf (s : State) (n : Nat) (l : List Work) (w : Memory.wf s.mem = true) : Memory.wf (s.workOff n l).mem = true := by
  induction n generalizing s l with
  | zero => unfold State.workOff; exact w
  | succ n ih =>
    cases l with
    | nil => exact w
    | cons x l =>
      cases x <;> simp only [State.workOff] <;> repeat' first | exact ih _ _ (by simp [w]) | split
@[simp] theorem State.fireAll_wf (s : State) (n : Nat) (w : Memory.wf s.mem = true) : Memory.wf (s.fireAll n).mem = true := by
  induction n generalizing s with
  | zero => exact w
  | succ n ih =>
    unfold State.fireAll; split
    · exact w
    · exact ih _ (foldl_wf (fun s v w => s.fireVersion_wf v w) _ w)
@[simp] theorem State.settle_wf (s : State) (x : List Work) (w : Memory.wf s.mem = true) : Memory.wf (s.settle x).mem = true := by
  unfold State.settle
  dsimp only
  rw [State.sweep_mem]
  refine State.rerunReady_wf _ _ (State.fireAll_wf _ _ ?_)
  rw [State.giveUpRuns_mem]
  exact State.workOff_wf _ _ _ (State.workOff_wf _ _ _ w)
@[simp] theorem State.submitShadow_mem (s : State) (l : Launch) (run : ℕ) (shareOn : List ℕ) : (s.submitShadow l run shareOn).mem = s.mem := by
  simp [State.submitShadow]
@[simp] theorem State.shadowRun_mem (s : State) (l : Launch) : (s.shadowRun l).mem = s.mem := by simp [State.shadowRun]
@[simp] theorem State.finishLaunch_wf (s : State) (id : ℕ) (w : Memory.wf s.mem = true) : Memory.wf (s.finishLaunch id).mem = true := by
  unfold State.finishLaunch; repeat' first | with_reducible exact w | (simp [w]; done) | split
@[simp] theorem State.tryFinish_wf (s : State) (id : ℕ) (w : Memory.wf s.mem = true) : Memory.wf (s.tryFinish id).mem = true := by
  unfold State.tryFinish; repeat' first | with_reducible exact w | (simp [w]; done) | split
@[simp] theorem State.cancelLaunch_wf (s : State) (id : ℕ) (w : Memory.wf s.mem = true) : Memory.wf (s.cancelLaunch id).mem = true := by
  unfold State.cancelLaunch; repeat' first | with_reducible exact w | (simp [w]; done) | split
@[simp] theorem State.flushFire_wf (s : State) (world : ℕ) (w : Memory.wf s.mem = true) : Memory.wf (s.flushFire world).mem = true := by
  unfold State.flushFire; repeat' first | assumption | (simp [*]; done) | refine foldl_wf (fun s x w => ?_) _ ?_ | split | dsimp only
@[simp] theorem State.runCtrs_mem (s : State) (l : Launch) : (s.runCtrs l).mem = s.mem := by simp [State.runCtrs]
@[simp] theorem State.cancelInstance_wf (s : State) (world level id : Nat) (w : Memory.wf s.mem = true) :
    Memory.wf (s.cancelInstance world level id).mem = true := by
  unfold State.cancelInstance
  dsimp only
  have c (s : State) (l : List Launch) (w : Memory.wf s.mem = true) : Memory.wf (l.foldl (fun s l => s.cancelLaunch l.id) s).mem = true :=
    foldl_wf (fun s l w => State.cancelLaunch_wf _ _ w) _ w
  have d (s : State) (l : List Nat) (w : Memory.wf s.mem = true) : Memory.wf (l.foldl (fun s i =>
      if (s.ctr world i).over || (s.ctr world i).free then s else s.setEnd world i { bad := some (4, 0), whole := true }) s).mem = true :=
    foldl_wf (fun s i w => by split <;> simp [w]) _ w
  repeat' first | exact w | exact c _ _ w | exact c _ _ (d _ _ w) | (rw [State.setEnd_mem, State.putCtr_mem]; exact c _ _ (d _ _ w)) | split
@[simp] theorem State.cancelWorld_wf (s : State) (world : Nat) (w : Memory.wf s.mem = true) : Memory.wf (s.cancelWorld world).mem = true := by
  unfold State.cancelWorld
  generalize List.range 4096 = l
  refine foldl_wf (fun s id w => ?_) _ (foldl_wf (fun s l w => State.cancelLaunch_wf _ _ (by rw [State.dropRuns_mem]; exact w)) _ w)
  dsimp only
  repeat' first | (simp [w]; done) | split
@[simp] theorem State.frameSent_mem (s : State) (n : ℕ) : (s.frameSent n).mem = s.mem := rfl
@[simp] theorem State.seatThreads_mem (s : State) (x1 : Workgroup) (pc : VA) : (s.seatThreads x1 pc).mem = s.mem := by simp [State.seatThreads]
@[simp] theorem State.rejectLaunch_wf (s : State) (world : ℕ) (lctr : ℕ) (code : ℕ) (va : ℕ) (above : List (ℕ × ℕ)) (w : Memory.wf s.mem = true) : Memory.wf (s.rejectLaunch world lctr code va above).mem = true := by
  simp [State.rejectLaunch, w]
@[simp] theorem State.discardPacket_wf (s : State) (world va : ℕ) (w : Memory.wf s.mem = true) : Memory.wf (s.discardPacket world va).mem = true := by
  unfold State.discardPacket; split <;> simp [w]
@[simp] theorem State.refuseBell_wf (s : State) (world : ℕ) (q : Queue) (value : BitVec 16) (w : Memory.wf s.mem = true) :
    Memory.wf (s.refuseBell world q value).mem = true := by
  unfold State.refuseBell; split
  · simp [w]
  · exact foldl_wf (fun s va w => s.discardPacket_wf _ _ w) _ w
@[simp] theorem State.modQueue_mem (s : State) (world : ℕ) (prio : ℕ) (f : Queue → Queue) : (s.modQueue world prio f).mem = s.mem := by
  simp [State.modQueue]
@[simp] theorem State.endWorkgroup_mem (s : State) (x1 : Workgroup) : (s.endWorkgroup x1).mem = s.mem := by simp [State.endWorkgroup]
@[simp] theorem State.removeGang_mem (s : State) (g : Gang) : (s.removeGang g).mem = s.mem := by simp [State.removeGang]
@[simp] theorem State.countGang_wf (s : State) (g : Gang) (w : Memory.wf s.mem = true) : Memory.wf (s.countGang g).mem = true := by
  unfold State.countGang; repeat' first | with_reducible exact w | (simp [w]; done) | split
@[simp] theorem State.observe_mem (s : State) (l : Launch) (cluster : ℕ) : (s.observe l cluster).mem = s.mem := by
  unfold State.observe; split <;> simp
@[simp] theorem State.headDone_mem (s : State) (world : ℕ) (prio : ℕ) : (s.headDone world prio).mem = s.mem := by simp [State.headDone]
@[simp] theorem State.accept_mem (s : State) (l : Launch) (args : List Byte) (memb : List Byte) : (s.accept l args memb).mem = s.mem := by
  simp [State.accept]
@[simp] theorem State.afterPlacement_mem (s : State) (id : ℕ) : (s.afterPlacement id).mem = s.mem := by unfold State.afterPlacement; split <;> simp
@[simp] theorem State.noBell_wf (s : State) (world : ℕ) (w : Memory.wf s.mem = true) : Memory.wf (s.noBell world).mem = true := by
  simp [State.noBell, w]
@[simp] theorem State.ring_wf (s : State) (world : ℕ) (prio : ℕ) (value : BitVec 16) (w : Memory.wf s.mem = true) : Memory.wf (s.ring world prio value).mem = true := by
  unfold State.ring; repeat' first | exact w | (simp [w]; done) | dsimp only | split
@[simp] theorem State.addWorkgroup_mem (s : State) (l : Launch) (gang : ℕ) (index : ℕ) (cores : List ℕ) : (s.addWorkgroup l gang index cores).mem = s.mem := by
  simp [State.addWorkgroup]
@[simp] theorem State.startLaunch_mem (s : State) (l : Launch) : (s.startLaunch l).mem = s.mem := by simp [State.startLaunch]
@[simp] theorem State.eraseRegion_wf (s : State) (x : World) (w : Memory.wf s.mem = true) : Memory.wf (s.eraseRegion x).mem = true := by
  unfold State.eraseRegion; exact memory_wf_foldl _ (fun m k w => by simp [w]) _ w
@[simp] theorem State.cryptoErase_wf (s : State) (world : Nat) (w : Memory.wf s.mem = true) : Memory.wf (s.cryptoErase world).mem = true := by
  unfold State.cryptoErase; split
  · exact w
  · dsimp only; split
    · exact w
    · exact memory_wf_foldl _ (fun _ _ w => memory_wf_memSet _ _ w) _ w
@[simp] theorem State.flushRecords_wf (s : State) (world : ℕ) (w : Memory.wf s.mem = true) : Memory.wf (s.flushRecords world).mem = true := by
  unfold State.flushRecords; repeat' first | assumption | (simp [*]; done) | refine foldl_wf (fun s x w => ?_) _ ?_ | split | dsimp only
@[simp] theorem State.preempt_mem (s : State) (p : Gang → Bool) : (s.preempt p).mem = s.mem := by simp [State.preempt]
@[simp] theorem State.closeRecord_wf (s : State) (world : ℕ) (index : BitVec 16) (w : Memory.wf s.mem = true) : Memory.wf (s.closeRecord world index).mem = true := by
  unfold State.closeRecord; repeat' first | exact w | (simp [w]; done) | dsimp only | split
@[simp] theorem State.saveRegs_mem (s : State) (wg : ℕ) : (s.saveRegs wg).mem = s.mem := by unfold State.saveRegs; split <;> simp
@[simp] theorem State.saveGang_mem (s : State) (g : Gang) : (s.saveGang g).mem = s.mem := by simp [State.saveGang]
@[simp] theorem State.restartWork_mem (s : State) (g : Gang) (die : ℕ) : (s.restartWork g die).mem = s.mem := rfl
@[simp] theorem State.worldError_wf (s : State) (world : ℕ) (w : Memory.wf s.mem = true) : Memory.wf (s.worldError world).mem = true := by
  simp [State.worldError, w]
@[simp] theorem State.passRun_wf (s : State) (l : Launch) (ids : List ℕ) (w : Memory.wf s.mem = true) : Memory.wf (s.passRun l ids).mem = true := by
  simp [State.passRun, w]
@[simp] theorem State.takeRun_wf (s : State) (l : Launch) (ids : List ℕ) (second : List Version) (w : Memory.wf s.mem = true) : Memory.wf (s.takeRun l ids second).mem = true := by
  simp [State.takeRun, w]
@[simp] theorem State.emptySlice_wf (s : State) (d : ℕ) (w : Memory.wf s.mem = true) : Memory.wf (s.emptySlice d).mem = true :=
  s.flushLines_wf _ true w
@[simp] theorem State.dropMemory_wf (s : State) (w : Memory.wf s.mem = true) : Memory.wf (s.dropMemory).mem = true :=
  foldl_wf (fun s d w => s.emptySlice_wf d w) _ w
@[simp] theorem State.retireAll_wf (s : State) (w : Memory.wf s.mem = true) : Memory.wf (s.retireAll).mem = true := by
  unfold State.retireAll; exact foldl_wf (fun s d w => by dsimp only; split <;> simp [w]) _ w
@[simp] theorem State.addScore_wf (s : State) (d n : ℕ) (injected : Bool) (w : Memory.wf s.mem = true) :
    Memory.wf (s.addScore d n injected).mem = true := by
  unfold State.addScore; dsimp only; exact State.retireAll_wf _ w
@[simp] theorem State.addScores_wf (s : State) (ds : List ℕ) (n : ℕ) (injected : Bool) (w : Memory.wf s.mem = true) :
    Memory.wf (s.addScores ds n injected).mem = true := by
  unfold State.addScores; exact foldl_wf (fun s d w => s.addScore_wf d n injected w) _ w
@[simp] theorem State.failRun_wf (s : State) (l : Launch) (vs : List Version) (w : Memory.wf s.mem = true) : Memory.wf (s.failRun l vs).mem = true := by
  unfold State.failRun; exact State.settle_wf _ _ (by rw [State.dropShadows_mem]; exact State.addScores_wf _ _ _ _ w)
@[simp] theorem State.setRec_mem (s : State) (wg : ℕ) (slot : ℕ) (r : Option WitRec) : (s.setRec wg slot r).mem = s.mem := rfl
@[simp] theorem State.passVersion_wf (s : State) (l : Launch) (v : Version) (dual : Bool) (w : Memory.wf s.mem = true) : Memory.wf (s.passVersion l v dual).mem = true := by
  simp [State.passVersion, w]
@[simp] theorem State.failVersion_wf (s : State) (v : Version) (test : ℕ) (slot : ℕ) (index : ℕ) (w : Memory.wf s.mem = true) : Memory.wf (s.failVersion v test slot index).mem = true := by
  unfold State.failVersion; exact State.settle_wf _ _ (State.addScores_wf _ _ _ _ w)
@[simp] theorem State.submitRec_mem (s : State) (e : Env) (slot : ℕ) (r : WitRec) (ticket : Word) : (s.submitRec e slot r ticket).mem = s.mem := by
  simp [State.submitRec]
@[simp] theorem State.dieFault_wf (s : State) (d : ℕ) (w : Memory.wf s.mem = true) : Memory.wf (s.dieFault d).mem = true := by
  simp [State.dieFault, w]
@[simp] theorem State.ucieFailure_wf (s : State) (d : ℕ) (injected : Bool) (w : Memory.wf s.mem = true) : Memory.wf (s.ucieFailure d injected).mem = true := by
  simp [State.ucieFailure, w]
@[simp] theorem State.stopAll_mem (s : State) : (s.stopAll).mem = s.mem := rfl
@[simp] theorem State.fence_wf (s : State) (d : ℕ) (w : Memory.wf s.mem = true) : Memory.wf (s.fence d).mem = true := by simp [State.fence, w]
@[simp] theorem State.resetStack_wf (s : State) (d : ℕ) (w : Memory.wf s.mem = true) : Memory.wf (s.resetStack d).mem = true :=
  s.emptySlice_wf d w
@[simp] theorem State.fencedWorlds_wf (s : State) (fenced : List ℕ) (w : Memory.wf s.mem = true) : Memory.wf (s.fencedWorlds fenced).mem = true := by
  unfold State.fencedWorlds; exact foldl_wf (fun s x w => by simp [w]) _ w
@[simp] theorem State.readmit_mem (s : State) (d : ℕ) : (s.readmit d).mem = s.mem := rfl
@[simp] theorem State.gangError_wf (s : State) (d : Nat) (w : Memory.wf s.mem = true) : Memory.wf (s.gangError d).mem = true := by
  unfold State.gangError
  exact State.addScore_wf _ _ _ _ (State.dieFault_wf _ _ w)
@[simp] theorem State.releaseDie_mem (s : State) (d : ℕ) : (s.releaseDie d).mem = s.mem := rfl
@[simp] theorem State.addSettle_mem (s : State) (e : Env) (ts : List ℕ) (before : List (ℕ × ℕ)) : (s.addSettle e ts before).mem = s.mem := by
  simp [State.addSettle]
@[simp] theorem State.haltTarget_mem (s : State) (gang : ℕ) (x : Word) : (s.haltTarget gang x).mem = s.mem := by
  unfold State.haltTarget; split <;> simp
@[simp] theorem State.releaseWorld_mem (s : State) (world : ℕ) : (s.releaseWorld world).mem = s.mem := by simp [State.releaseWorld]
@[simp] theorem State.discardPages_wf (s : State) (core slot : Nat) (w : Memory.wf s.mem = true) : Memory.wf (s.discardPages core slot).mem = true :=
  memory_wf_foldl _ (fun _ _ w => memory_wf_memPut _ _ w) _ w
@[simp] theorem State.coldReady_wf (s : State) (r : BootReport) (w : Memory.wf s.mem = true) : Memory.wf (s.coldReady r).mem = true := by
  simp [State.coldReady, w]
@[simp] theorem State.bootStops_mem (s : State) (stage : BitVec 4) (failed : BitVec 8) : (s.bootStops stage failed).mem = s.mem := rfl
@[simp] theorem State.cold_wf (s : State) (r : BootReport) (w : Memory.wf s.mem = true) : Memory.wf (s.cold r).mem = true := by
  unfold State.cold; split
  · rw [State.bootStops_mem]; split <;> simp [w]
  · simp [w]
@[simp] theorem State.emptyCaches_wf (s : State) (w : Memory.wf s.mem = true) : Memory.wf (s.emptyCaches).mem = true :=
  State.flushLines_wf s _ true w
@[simp] theorem State.drainGangs_mem (s : State) : (s.drainGangs).mem = s.mem := by simp [State.drainGangs]
@[simp] theorem State.ringSet_wf (s : State) (world : ℕ) (w : Memory.wf s.mem = true) : Memory.wf (s.ringSet world).mem = true := by
  simp [State.ringSet, w]
@[simp] theorem State.forgetWorld_wf (s : State) (world : ℕ) (w : Memory.wf s.mem = true) : Memory.wf (s.forgetWorld world).mem = true :=
  State.dropMemory_wf _ w
@[simp] theorem State.mailed_mem (s : State) (cmd : BitVec 8) (refused : Bool) : (s.mailed cmd refused).mem = s.mem := rfl
@[simp] theorem State.reply_mem (s : State) (r : Reply) : (s.reply r).mem = s.mem := rfl
@[simp] theorem State.apRecord_wf (s : State) (world : ℕ) (wr : Bool) (f : ApFault) (w : Memory.wf s.mem = true) : Memory.wf (s.apRecord world wr f).mem = true := by
  unfold State.apRecord; split <;> simp [w]
@[simp] theorem State.apFill_mem (s : State) (world : ℕ) (va : ℕ) (n : ℕ) : (s.apFill world va n).mem = s.mem := by simp [State.apFill]
@[simp] theorem State.warmReady_mem (s : State) : (s.warmReady).mem = s.mem := by
  unfold State.warmReady; dsimp only; exact State.rekeyAll_mem s
@[simp] theorem State.poke_wf (s : State) (key : ℕ) (x : ℕ) (w : Memory.wf s.mem = true) : Memory.wf (s.poke key x).mem = true := by
  simp [State.poke, w]
@[simp] theorem State.noteScan_mem (s : State) (g : Group) (cls : ℕ) : (s.noteScan g cls).mem = s.mem := by simp [State.noteScan]
@[simp] theorem State.issuing_mem (s : State) (g : Group) : (s.issuing g).mem = s.mem := by simp [State.issuing]
@[simp] theorem State.bench_wf (s : State) (code : List Nat) (w : Memory.wf s.mem = true) : Memory.wf (s.bench code).mem = true := by
  unfold State.bench
  refine foldl_wf (fun s c w => State.poke_wf _ _ _ w) _ ?_
  repeat' refine State.poke_wf _ _ _ ?_
  rw [State.modThreads_mem]
  exact w
@[simp] theorem State.benchWord_wf (s : State) (x1 : ℕ) (w : Memory.wf s.mem = true) : Memory.wf (s.benchWord x1).mem = true := by
  simp [State.benchWord, w]
@[simp] theorem State.withFetchWord_wf (s : State) (x1 : ℕ) (x2 : ℕ) (w : Memory.wf s.mem = true) : Memory.wf (s.withFetchWord x1 x2).mem = true := by
  simp [State.withFetchWord, w]

/-! Operations that may not be possible, or that answer something beside the state. -/

theorem foldl_option_mem {β : Type} {f : Option State → β → Option State} (hn : ∀ x, f none x = none)
    (h : ∀ s x t, f (some s) x = some t → t.mem = s.mem) {l : List β} {s t : State} (e : l.foldl f (some s) = some t) : t.mem = s.mem := by
  have n (l : List β) : l.foldl f none = none := by
    induction l with
    | nil => rfl
    | cons x l ih => rw [List.foldl_cons, hn, ih]
  induction l generalizing s with
  | nil => cases e; rfl
  | cons x l ih =>
    rw [List.foldl_cons] at e
    rcases hx : f (some s) x with _ | u
    · rw [hx, n] at e; cases e
    · rw [hx] at e; rw [ih e, h s x u hx]

theorem foldl_option_wf {β : Type} {f : Option State → β → Option State} (hn : ∀ x, f none x = none)
    (h : ∀ s x t, Memory.wf s.mem = true → f (some s) x = some t → Memory.wf t.mem = true) {l : List β} {s t : State} (w : Memory.wf s.mem = true)
    (e : l.foldl f (some s) = some t) : Memory.wf t.mem = true := by
  have n (l : List β) : l.foldl f none = none := by
    induction l with
    | nil => rfl
    | cons x l ih => rw [List.foldl_cons, hn, ih]
  induction l generalizing s with
  | nil => cases e; exact w
  | cons x l ih =>
    rw [List.foldl_cons] at e
    rcases hx : f (some s) x with _ | u
    · rw [hx, n] at e; cases e
    · rw [hx] at e; exact ih (h s x u w hx) e

theorem State.evict_wf {s t : State} {x : SttEntry} (w : Memory.wf s.mem = true) (h : s.evict x = some t) : Memory.wf t.mem = true := by
  unfold State.evict at h
  dsimp only at h
  split at h
  · cases h; exact w
  · generalize h' : (if x.backed = true then some x.bline else s.freeLine (s.worldOfWg x.wg)).bind _ = o at h
    rcases o with _ | ⟨n, k⟩
    · cases h
    · rw [← Option.some.inj h, State.modStt_mem]; exact State.homePut_wf _ _ _ w

theorem State.makeRoom_wf {s t : State} {core wg n : Nat} (w : Memory.wf s.mem = true) (h : s.makeRoom core wg = .frame n t) :
    Memory.wf t.mem = true := by
  unfold State.makeRoom at h
  repeat' split at h
  all_goals first | (cases h; done) | (cases h; exact w) | (rename_i e; cases h; exact State.evict_wf w e)

theorem State.touchPage_wf {s t : State} {x : Workgroup} {page : Nat} {write : Bool} (w : Memory.wf s.mem = true)
    (h : s.touchPage x page write = .ready t) : Memory.wf t.mem = true := by
  unfold State.touchPage at h
  repeat' split at h
  all_goals first | (cases h; done) | (cases h; exact w) | (rename_i e; cases h; have q := State.makeRoom_wf w e; exact q)

theorem State.touchPages_wf {s t : State} {write : Bool} {l : List (Workgroup × Nat)} (w : Memory.wf s.mem = true)
    (h : s.touchPages write l = .ready t) : Memory.wf t.mem = true := by
  induction l generalizing s with
  | nil => cases h; exact w
  | cons x l ih =>
    simp only [State.touchPages] at h
    split at h
    · rename_i e; exact ih (State.touchPage_wf w e) h
    · rename_i e; exact absurd h (e t)

@[simp] theorem State.pageIn_wf (s : State) (x : SttEntry) (frame : Nat) (w : Memory.wf s.mem = true) : Memory.wf (s.pageIn x frame).mem = true := by
  unfold State.pageIn; dsimp only; rw [State.modStt_mem]; exact State.homePut_wf _ _ _ w

theorem State.savePages_wf {s t : State} {mine : List Nat} (w : Memory.wf s.mem = true) (h : s.savePages mine = some t) : Memory.wf t.mem = true :=
  foldl_option_wf (f := fun s x => s.bind (fun s => s.evict x)) (fun _ => rfl) (fun _ _ _ w e => State.evict_wf w e) w h

theorem State.takeEntries_mem {s t : State} {owner : Nat} (h : s.takeEntries owner = some t) : t.mem = s.mem := by
  refine foldl_option_mem (fun _ => rfl) (fun s x t e => ?_) h
  dsimp only at e
  split at e <;> cases e; rfl

theorem State.backPage_wf {s t : State} {wg page : Nat} (w : Memory.wf s.mem = true) (h : s.backPage wg page = some t) : Memory.wf t.mem = true := by
  unfold State.backPage at h
  repeat' split at h
  all_goals first | (rw [← Option.some.inj h, State.modStt_mem]; exact State.homePut_wf _ _ _ w) | (rw [← Option.some.inj h]; exact w) | contradiction

theorem State.landPages_wf {s t : State} {r : Receive} {bytes : List Nat} (w : Memory.wf s.mem = true) (h : s.landPages r bytes = some t) :
    Memory.wf t.mem = true := by
  unfold State.landPages at h
  split at h
  · cases h; exact w
  · dsimp only at h
    split at h
    · rename_i e
      obtain ⟨u, hu, rfl⟩ := Option.map_eq_some_iff.1 h
      refine foldl_option_wf (t := u) (f := fun t p => t.bind (fun s => s.backPage r.wg p)) (fun _ => rfl)
        (fun _ _ _ w e => State.backPage_wf w e) (State.touchPages_wf ?_ e) hu
      repeat' first | exact w | split
    · cases h

theorem State.takeHeader_mem {s t : State} {m : Message} (h : s.takeHeader m = some t) : t.mem = s.mem := by
  unfold State.takeHeader at h
  split at h
  · cases h
  · split at h
    · cases h; exact State.modWorld_mem _ _ _
    · split at h <;> cases h; exact State.modWorld_mem _ _ _

theorem State.arrivalFor_mem {s t : State} {g : Gang} {n : Nat} (h : s.arrivalFor g = some (n, t)) : t.mem = s.mem := by
  unfold State.arrivalFor at h
  split at h
  · cases h; rfl
  · split at h <;> cases h; rfl

@[simp] theorem State.readWords_mem (s : State) (l : Launch) (o : EngineOp) (g : List Seg) : (s.readWords l o g).1.mem = s.mem := by
  induction g generalizing s with
  | nil => rfl
  | cons x g ih =>
    simp only [State.readWords]
    split
    · rw [ih]; split <;> simp
    · rfl

theorem State.payload_mem {s t : State} {m : Message} {b : List Byte} (h : s.payload m = some (t, b)) : t.mem = s.mem := by
  unfold State.payload at h
  split at h
  · cases h; rfl
  · split at h
    · cases h
    · split at h
      · cases h
      · dsimp only at h
        split at h <;> cases h; exact State.readWords_mem _ _ _ _

@[simp] theorem State.sendReduction_mem (s : State) (o : EngineOp) (code : BitVec 4) (group turn : Nat) (count : Bool) (n : Nat)
    (buf : List (Loc × List Byte)) : (s.sendReduction o code group turn count n buf).1.mem = s.mem := by
  induction n generalizing s buf with
  | zero => rfl
  | succ n ih =>
    simp only [State.sendReduction]
    split
    · rfl
    · simp [ih]

theorem State.writeWord_wf {s t : State} {l : Launch} {o : EngineOp} {dst : Loc} {bytes : List Byte} (w : Memory.wf s.mem = true)
    (h : s.writeWord l o dst bytes = .inl t) : Memory.wf t.mem = true := by
  unfold State.writeWord at h
  dsimp only at h
  repeat' split at h
  all_goals first
    | (cases h; done)
    | (cases h; first
      | exact State.putWord_wf _ _ _ _ _ _ _ (by simpa using w)
      | (simpa using w)
      | (rw [State.modEngine_mem]; exact (foldl_mem (fun s c => State.sendBulk_mem _ _) _ s).symm ▸ w))

@[simp] theorem State.writeWords_wf (s : State) (l : Launch) (op : Nat) (b : List (Loc × List Byte)) (w : Memory.wf s.mem = true) :
    Memory.wf (s.writeWords l op b).1.mem = true := by
  induction b generalizing s with
  | nil => exact w
  | cons x b ih =>
    simp only [State.writeWords]
    split
    · exact w
    · split
      · rename_i e; exact ih _ (State.writeWord_wf w e)
      · exact w

@[simp] theorem State.sendLines_wf (s : State) (l : Launch) (op : Nat) (ns : List Nat) (b : List (Loc × List Byte)) (w : Memory.wf s.mem = true) :
    Memory.wf (s.sendLines l op ns b).1.mem = true := by
  induction ns generalizing s b with
  | nil => exact w
  | cons n ns ih =>
    simp only [State.sendLines]
    split
    · split
      · rename_i e; exact ih _ _ (State.writeWord_wf w e)
      · exact w
    · exact ih _ _ w

@[simp] theorem State.drainBuf_wf (s : State) (l : Launch) (o : EngineOp) (skip n : Nat) (w : Memory.wf s.mem = true) :
    Memory.wf (s.drainBuf l o skip n).1.mem = true := by
  unfold State.drainBuf
  split
  · simpa using w
  · simpa using State.sendLines_wf _ _ _ _ _ w
  · simpa using State.writeWords_wf _ _ _ _ w

theorem State.readRest_mem {s t : State} {o : EngineOp} (h : s.readRest o = some t) : t.mem = s.mem := by
  unfold State.readRest at h
  dsimp only at h
  split at h <;> cases h; simp

theorem State.writeRest_wf {s t : State} {op : Nat} (w : Memory.wf s.mem = true) (h : s.writeRest op = some t) : Memory.wf t.mem = true := by
  unfold State.writeRest at h
  split at h
  · cases h
  · dsimp only at h
    split at h <;> cases h; exact State.drainBuf_wf _ _ _ _ _ w

theorem State.finishCopy_wf {s t : State} {o : EngineOp} (w : Memory.wf s.mem = true) (h : s.finishCopy o = some t) : Memory.wf t.mem = true := by
  unfold State.finishCopy at h
  split at h
  · cases h
  · obtain ⟨u, hu, rfl⟩ := Option.map_eq_some_iff.1 h
    obtain ⟨v, hv, hu⟩ := Option.bind_eq_some_iff.1 hu
    simpa using State.writeRest_wf (by rw [State.readRest_mem hv]; exact w) hu

theorem State.addWorkgroups_mem {s t : State} {l : Launch} {gang cluster : Nat} {is : List Nat} (h : s.addWorkgroups l gang cluster is = some t) :
    t.mem = s.mem := by
  induction is generalizing s with
  | nil => cases h; rfl
  | cons i is ih =>
    simp only [State.addWorkgroups] at h
    split at h
    · cases h
    · rw [ih h]; simp

theorem State.placeGang_mem {s t : State} {l : Launch} {index cluster : Nat} (h : s.placeGang l index cluster = some t) : t.mem = s.mem := by
  unfold State.placeGang at h
  have q := State.addWorkgroups_mem h
  rw [q, State.formL1_mem]

theorem State.placeOn_mem {s t : State} {l : Launch} {index die c : Nat} (h : s.placeOn l index die = some (c, t)) : t.mem = s.mem := by
  unfold State.placeOn at h
  obtain ⟨x, hx, e⟩ := Option.map_eq_some_iff.1 h
  have key : ∀ (xs : List (Nat × Nat × State)) (b : Option (Nat × Nat × State)), (∀ y ∈ xs, y.2.2.mem = s.mem) → (∀ y, b = some y → y.2.2.mem = s.mem) →
      ∀ y, xs.foldl (fun b x => match b with | none => some x | some y => if y.1 < x.1 then some x else b) b = some y → y.2.2.mem = s.mem := by
    intro xs
    induction xs with
    | nil => intro b _ hb y e; exact hb y e
    | cons z xs ih =>
      intro b hx hb y e
      refine ih _ (fun y hy => hx y (List.mem_cons_of_mem _ hy)) (fun y hy => ?_) y e
      have hz := hx z (List.mem_cons_self ..)
      dsimp only at hy
      split at hy
      · cases hy; exact hz
      · split at hy
        · cases hy; exact hz
        · exact hb _ hy
  have := key _ none (fun y hy => ?_) (fun y hy => by cases hy) x hx
  · rw [← this, e]
  · obtain ⟨c', -, hc⟩ := List.mem_filterMap.1 hy
    obtain ⟨u, hu, rfl⟩ := Option.map_eq_some_iff.1 hc
    exact State.placeGang_mem hu

theorem State.placeAll_mem {s t : State} {l : Launch} {ps : List (Nat × Nat)} (h : s.placeAll l ps = some t) : t.mem = s.mem := by
  induction ps generalizing s with
  | nil => cases h; rfl
  | cons p ps ih =>
    simp only [State.placeAll] at h
    split at h
    · cases h
    · rename_i e; rw [ih h, State.placeOn_mem e]

theorem State.placeNext_mem {s t : State} {l : Launch} {die : Nat} (h : s.placeNext l die = some t) : t.mem = s.mem := by
  unfold State.placeNext at h
  dsimp only at h
  split at h
  · cases h
  · split at h
    · split at h
      · cases h
      · obtain ⟨u, hu, rfl⟩ := Option.map_eq_some_iff.1 h
        simp [State.placeAll_mem hu]
    · split at h
      · cases h
      · obtain ⟨u, hu, rfl⟩ := Option.map_eq_some_iff.1 h
        simp [State.placeOn_mem hu]

theorem State.reseat_mem {s t : State} {l : Launch} {cluster : Nat} {is : List Nat} (h : s.reseat l cluster is = some t) : t.mem = s.mem := by
  induction is generalizing s with
  | nil => cases h; rfl
  | cons i is ih =>
    simp only [State.reseat] at h
    split at h
    · exact ih h
    · split at h
      · cases h
      · rw [ih h]; rfl

@[simp] theorem State.relockSpad_mem (s : State) (mine : List ℕ) : (s.relockSpad mine).mem = s.mem := by
  unfold State.relockSpad
  dsimp only
  refine (foldl_mem (fun s o => ?_) _ _).trans rfl
  cases h : s.takeEntries o with
  | none => rfl
  | some t => exact State.takeEntries_mem h

@[simp] theorem State.replayTrap_wf (s : State) (f : Flight) (code va : Nat) (mal : Bool) (w : Memory.wf s.mem = true) :
    Memory.wf (s.replayTrap f code va mal).mem = true := by
  refine State.pushRecord_wf _ _ _ ?_
  rw [State.driverStop_mem]; exact w

@[simp] theorem State.countAgain_mem (s : State) (f : Flight) : (s.countAgain f).mem = s.mem := by unfold State.countAgain; split <;> simp
@[simp] theorem State.meet_wf (s : State) (f : Flight) (g : State → State) (w : Memory.wf s.mem = true) (h : Memory.wf (g s).mem = true) :
    Memory.wf (s.meet f g).mem = true := by unfold State.meet; split <;> simp [w, h]
@[simp] theorem State.ldpOut_mem (s : State) (f : Flight) (p : ℕ) : (s.ldpOut f p).mem = s.mem := by
  unfold State.ldpOut; dsimp only; split <;> simp
@[simp] theorem State.reissueIn_mem (s : State) (f : Flight) (xs : List Elem) : (s.reissueIn f xs).mem = s.mem := by
  unfold State.reissueIn; split <;> simp
@[simp] theorem State.reissue_wf (s : State) (f : Flight) (w : Memory.wf s.mem = true) : Memory.wf (s.reissue f).mem = true := by
  unfold State.reissue
  split
  · split
    · rename_i e; rw [State.modFlight_mem, State.countAgain_mem]; exact State.touchPages_wf w e
    · exact State.meet_wf _ _ _ w (by simp [w])
    · exact State.meet_wf _ _ _ w (by simp [w])
  · dsimp only
    split
    · exact w
    · exact State.replayTrap_wf _ _ _ _ _ w
    · split
      · rw [State.reissueIn_mem]; exact w
      · split
        · rw [State.ldpOut_mem]; exact w
        · exact State.meet_wf _ _ _ w (by simp [w])

@[simp] theorem State.reissueAll_wf (s : State) (gang : Nat) (w : Memory.wf s.mem = true) : Memory.wf (s.reissueAll gang).mem = true :=
  foldl_wf (fun s f w => by split <;> simp [w]) _ w

theorem State.resumeGang_wf {s t : State} {g : Gang} {l : Launch} {cluster : Nat} (w : Memory.wf s.mem = true) (h : s.resumeGang g l cluster = some t) :
    Memory.wf t.mem = true := by
  unfold State.resumeGang at h
  dsimp only at h
  split at h
  · cases h
  · obtain ⟨u, hu, rfl⟩ := Option.map_eq_some_iff.1 h
    refine State.reissueAll_wf _ _ ?_
    rw [State.restartWork_mem, State.relockSpad_mem, State.reseat_mem hu, State.formL1_mem, State.modGang_mem]
    exact w

theorem State.resumeRest_wf {s t : State} {l : Launch} {gs : List Gang} (w : Memory.wf s.mem = true) (h : s.resumeRest l gs = some t) :
    Memory.wf t.mem = true := by
  induction gs generalizing s with
  | nil => cases h; exact w
  | cons g gs ih =>
    simp only [State.resumeRest] at h
    split at h
    · cases h
    · rename_i e
      obtain ⟨c, -, e⟩ := List.exists_of_findSome?_eq_some e
      refine ih (State.resumeGang_wf (g := g) (l := l) (cluster := c) w ?_) h
      split at e
      · exact e
      · cases e

@[simp] theorem State.unstallGang_wf (s : State) (g : Gang) (w : Memory.wf s.mem = true) : Memory.wf (s.unstallGang g).mem = true := by
  unfold State.unstallGang; exact State.reissueAll_wf _ _ w
@[simp] theorem State.unstall_wf (s : State) (world : ℕ) (w : Memory.wf s.mem = true) : Memory.wf (s.unstall world).mem = true := by
  unfold State.unstall
  split
  · exact w
  · split
    · exact foldl_wf (fun s g w => State.unstallGang_wf s g w) _ (by rw [State.modWorld_mem]; exact w)
    · exact w
@[simp] theorem State.consume_wf (s : State) (world : ℕ) (head : BitVec 16) (w : Memory.wf s.mem = true) : Memory.wf (s.consume world head).mem = true := by
  simp [State.consume, w]

@[simp] theorem State.hostBytes_wf (s : State) (x : HostWrite) (bytes : List (Nat × Byte)) (w : Memory.wf s.mem = true) :
    Memory.wf (s.hostBytes x bytes).mem = true := by
  have f : Memory.wf (bytes.foldl (fun s k => if s.refuses k.1 || s.outside x.world k.1 then s else s.homeWrite k.1 k.2) s).mem = true :=
    foldl_wf (fun s k w => by split <;> simp [w]) _ w
  unfold State.hostBytes; dsimp only
  split
  · exact State.apRecord_wf _ _ _ _ f
  · exact f
@[simp] theorem State.routeDone_mem (s : State) (x : HostWrite) (die : Nat) : (s.routeDone x die).mem = s.mem := rfl
@[simp] theorem State.dissolve_mem (s : State) (x : Workgroup) (g : Group) : (s.dissolve x g).mem = s.mem := by simp [State.dissolve]
@[simp] theorem State.countPaged_mem (s : State) (e : Env) (core : Nat) : (s.countPaged e core).mem = s.mem := by
  unfold State.countPaged; split <;> rfl
@[simp] theorem State.perLaneTwice_mem (s : State) (e : Env) (tids : List Nat) (f : BitVec 16 → BitVec 16 → Thread → Thread) :
    (s.perLaneTwice e tids f).mem = s.mem := by simp [State.perLaneTwice]

theorem State.firstUnplaced_mem {s t : State} {l : Launch} {ps : List (Nat × Nat)} {i d : Nat} (h : s.firstUnplaced l ps = some (i, d, t)) :
    t.mem = s.mem := by
  induction ps generalizing s with
  | nil => cases h
  | cons p ps ih =>
    simp only [State.firstUnplaced] at h
    split at h
    · cases h; rfl
    · rename_i e; rw [ih h, State.placeOn_mem e]

theorem State.preemptFor_mem {s t : State} {l : Launch} {die : Nat} (h : s.preemptFor l die = some t) : t.mem = s.mem := by
  unfold State.preemptFor at h
  dsimp only at h
  split at h
  · cases h
  · obtain ⟨g, -, rfl⟩ := Option.map_eq_some_iff.1 h
    simp

theorem State.submit_wf {s t : State} {world prio : Nat} {bytes : List Byte} (w : Memory.wf s.mem = true) (h : s.submit world prio bytes = some t) :
    Memory.wf t.mem = true := by
  unfold State.submit at h
  split at h
  · cases h
  · dsimp only at h
    split at h
    · cases h
    · cases h
      rw [State.modQueue_mem]
      refine foldl_wf (fun s b w => ?_) _ w
      split
      · exact State.homeWrite_wf _ _ _ w
      · exact w

@[simp] theorem State.leaveError_mem (s : State) (world : ℕ) (v : BitVec 2) : (s.leaveError world v).mem = s.mem := by
  simp [State.leaveError]
@[simp] theorem State.stateWrites_mem (s : State) : (s.stateWrites).mem = s.mem := by
  unfold State.stateWrites
  refine foldl_mem (fun s x => ?_) _ _
  repeat' first | rfl | (simp; done) | split
@[simp] theorem State.hostAtom_wf (s : State) (world k : ℕ) (op : HostAtomic) (w : Memory.wf s.mem = true) :
    Memory.wf (s.hostAtom world k op).mem = true := by
  unfold State.hostAtom; dsimp only; split <;> simp [w]
@[simp] theorem State.noteFor_mem (s : State) (e : Env) (tids : List ℕ) (key : ℕ) (green : Bool) : (s.noteFor e tids key green).mem = s.mem := by
  unfold State.noteFor; split
  · exact foldl_mem (fun s n => s.noteLoad_mem _ _ _ _) _ s
  · rfl
@[simp] theorem State.noteBin_mem (s : State) (e : Env) (ts : List ℕ) (table b : ℕ) : (s.noteBin e ts table b).mem = s.mem := by
  unfold State.noteBin; split
  · exact foldl_mem (fun s i => s.noteFor_mem _ _ _ _) _ s
  · rfl
@[simp] theorem State.notePacket_mem (s : State) (e : Env) (ts : List ℕ) (va : ℕ) : (s.notePacket e ts va).mem = s.mem := by
  unfold State.notePacket; exact foldl_mem (fun s i => by split <;> simp) _ s
@[simp] theorem State.recordBins_wf (s : State) (e : Env) (ts : List ℕ) (ps : List (ℕ × ℕ)) (w : Memory.wf s.mem = true) :
    Memory.wf (s.recordBins e ts ps).mem = true := by
  simp [State.recordBins, w]
@[simp] theorem State.tileFault_wf (s : State) (o : TileOp) (x : Workgroup) (l : Launch) (write : Bool) (addr : Loc) (keys : List ℕ)
    (w : Memory.wf s.mem = true) : Memory.wf (s.tileFault o x l write addr keys).mem = true := by
  unfold State.tileFault; exact State.pushRecord_wf _ _ _ (by rw [State.driverStop_mem, State.modTile_mem]; exact w)
@[simp] theorem State.outsidePut_wf (s : State) (k : ℕ) (data : List Byte) (w : Memory.wf s.mem = true) : Memory.wf (s.outsidePut k data).mem = true := by
  unfold State.outsidePut; split <;> simp [w]

/-- At reset memory lists nothing. -/
theorem State.reset_wf : Memory.wf State.reset.mem = true := rfl

end Sys2Proof.Machine
end

