-- ==== Sys2Proof/Laws/PerInstr.lean ====
section
/-! SUPPORT. What holds of each instruction as syntax, one lemma for each constructor: a program's instruction has a word
that carries its guard and is no block header, and an event has no word. -/

namespace Sys2Proof.Laws.Guarded

/-- The instruction's word carries its guard and is no header; an event has neither (spec 03, R59, R60). -/
def Statement (i : Instr) : Prop :=
  match i.guard? with
  | some g => ∃ w, encode i = some w ∧ Guard.unpack w = g ∧ w.extractLsb' 57 7 ≠ 0x7F
  | none => encode i = none

/-- A packed word under an opcode that is not a header's. -/
theorem of_pack {i : Instr} {op : BitVec 7} {fn : BitVec 4} {g : Guard} {p : BitVec 48} (h : encode i = some (packWord op fn g p))
    (n : op ≠ 0x7F) : ∃ w, encode i = some w ∧ Guard.unpack w = g ∧ w.extractLsb' 57 7 ≠ 0x7F :=
  ⟨_, h, packWord_guard .., by rw [packWord_op]; exact n⟩

theorem add (g : Guard) (f : V3) : Statement (.add g f) := of_pack rfl (by decide)
theorem sub (g : Guard) (f : V3) : Statement (.sub g f) := of_pack rfl (by decide)
theorem mul (g : Guard) (f : V3) : Statement (.mul g f) := of_pack rfl (by decide)
theorem mulhi (g : Guard) (f : V3) : Statement (.mulhi g f) := of_pack rfl (by decide)
theorem mad (g : Guard) (f : V3) : Statement (.mad g f) := of_pack rfl (by decide)
theorem min (g : Guard) (f : V3) : Statement (.min g f) := of_pack rfl (by decide)
theorem max (g : Guard) (f : V3) : Statement (.max g f) := of_pack rfl (by decide)
theorem abs (g : Guard) (f : V3) : Statement (.abs g f) := of_pack rfl (by decide)
theorem neg (g : Guard) (f : V3) : Statement (.neg g f) := of_pack rfl (by decide)
theorem addc (g : Guard) (f : V3) : Statement (.addc g f) := of_pack rfl (by decide)
theorem subb (g : Guard) (f : V3) : Statement (.subb g f) := of_pack rfl (by decide)
theorem lea (g : Guard) (f : V3) : Statement (.lea g f) := of_pack rfl (by decide)
theorem and (g : Guard) (f : V3) : Statement (.and g f) := of_pack rfl (by decide)
theorem or (g : Guard) (f : V3) : Statement (.or g f) := of_pack rfl (by decide)
theorem xor (g : Guard) (f : V3) : Statement (.xor g f) := of_pack rfl (by decide)
theorem not (g : Guard) (f : V3) : Statement (.not g f) := of_pack rfl (by decide)
theorem shl (g : Guard) (f : V3) : Statement (.shl g f) := of_pack rfl (by decide)
theorem shr (g : Guard) (f : V3) : Statement (.shr g f) := of_pack rfl (by decide)
theorem sar (g : Guard) (f : V3) : Statement (.sar g f) := of_pack rfl (by decide)
theorem rot (g : Guard) (f : V3) : Statement (.rot g f) := of_pack rfl (by decide)
theorem popc (g : Guard) (f : V3) : Statement (.popc g f) := of_pack rfl (by decide)
theorem clz (g : Guard) (f : V3) : Statement (.clz g f) := of_pack rfl (by decide)
theorem ctz (g : Guard) (f : V3) : Statement (.ctz g f) := of_pack rfl (by decide)
theorem brev (g : Guard) (f : V3) : Statement (.brev g f) := of_pack rfl (by decide)
theorem bfe (g : Guard) (f : V3) : Statement (.bfe g f) := of_pack rfl (by decide)
theorem bfi (g : Guard) (f : V3) : Statement (.bfi g f) := of_pack rfl (by decide)
theorem sel (g : Guard) (f : V3) : Statement (.sel g f) := of_pack rfl (by decide)
theorem cmp (g : Guard) (f : V3) : Statement (.cmp g f) := of_pack rfl (by decide)
theorem addImm (g : Guard) (f : VI) : Statement (.addImm g f) := of_pack rfl (by decide)
theorem subImm (g : Guard) (f : VI) : Statement (.subImm g f) := of_pack rfl (by decide)
theorem mulImm (g : Guard) (f : VI) : Statement (.mulImm g f) := of_pack rfl (by decide)
theorem minImm (g : Guard) (f : VI) (u : Bool) : Statement (.minImm g f u) := of_pack rfl (by decide)
theorem maxImm (g : Guard) (f : VI) (u : Bool) : Statement (.maxImm g f u) := of_pack rfl (by decide)
theorem andImm (g : Guard) (f : VI) : Statement (.andImm g f) := of_pack rfl (by decide)
theorem orImm (g : Guard) (f : VI) : Statement (.orImm g f) := of_pack rfl (by decide)
theorem xorImm (g : Guard) (f : VI) : Statement (.xorImm g f) := of_pack rfl (by decide)
theorem shlImm (g : Guard) (f : VI) : Statement (.shlImm g f) := of_pack rfl (by decide)
theorem shrImm (g : Guard) (f : VI) : Statement (.shrImm g f) := of_pack rfl (by decide)
theorem sarImm (g : Guard) (f : VI) : Statement (.sarImm g f) := of_pack rfl (by decide)
theorem rotImm (g : Guard) (f : VI) : Statement (.rotImm g f) := of_pack rfl (by decide)
theorem cmpImm (g : Guard) (f : VI) (cond : BitVec 3) (u : Bool) : Statement (.cmpImm g f cond u) := of_pack rfl (by decide)
theorem mov (g : Guard) (f : V3) : Statement (.mov g f) := of_pack rfl (by decide)
theorem movi (g : Guard) (f : VI) : Statement (.movi g f) := of_pack rfl (by decide)
theorem movs (g : Guard) (f : V3S) : Statement (.movs g f) := of_pack rfl (by decide)
theorem fadd (g : Guard) (f : V3) : Statement (.fadd g f) := of_pack rfl (by decide)
theorem fsub (g : Guard) (f : V3) : Statement (.fsub g f) := of_pack rfl (by decide)
theorem fmul (g : Guard) (f : V3) : Statement (.fmul g f) := of_pack rfl (by decide)
theorem fma (g : Guard) (f : V3) : Statement (.fma g f) := of_pack rfl (by decide)
theorem fmin (g : Guard) (f : V3) : Statement (.fmin g f) := of_pack rfl (by decide)
theorem fmax (g : Guard) (f : V3) : Statement (.fmax g f) := of_pack rfl (by decide)
theorem fcmp (g : Guard) (f : V3) : Statement (.fcmp g f) := of_pack rfl (by decide)
theorem fclass (g : Guard) (f : V3) : Statement (.fclass g f) := of_pack rfl (by decide)
theorem frnd (g : Guard) (f : V3) : Statement (.frnd g f) := of_pack rfl (by decide)
theorem frcp (g : Guard) (f : V3) : Statement (.frcp g f) := of_pack rfl (by decide)
theorem frsq (g : Guard) (f : V3) : Statement (.frsq g f) := of_pack rfl (by decide)
theorem fsqrt (g : Guard) (f : V3) : Statement (.fsqrt g f) := of_pack rfl (by decide)
theorem fex2 (g : Guard) (f : V3) : Statement (.fex2 g f) := of_pack rfl (by decide)
theorem flg2 (g : Guard) (f : V3) : Statement (.flg2 g f) := of_pack rfl (by decide)
theorem fsin (g : Guard) (f : V3) : Statement (.fsin g f) := of_pack rfl (by decide)
theorem fcos (g : Guard) (f : V3) : Statement (.fcos g f) := of_pack rfl (by decide)
theorem faddImm (g : Guard) (f : VI) : Statement (.faddImm g f) := of_pack rfl (by decide)
theorem fsubImm (g : Guard) (f : VI) : Statement (.fsubImm g f) := of_pack rfl (by decide)
theorem fmulImm (g : Guard) (f : VI) : Statement (.fmulImm g f) := of_pack rfl (by decide)
theorem fminImm (g : Guard) (f : VI) : Statement (.fminImm g f) := of_pack rfl (by decide)
theorem fmaxImm (g : Guard) (f : VI) : Statement (.fmaxImm g f) := of_pack rfl (by decide)
theorem cvt (g : Guard) (f : V3) : Statement (.cvt g f) := of_pack rfl (by decide)
theorem pack (g : Guard) (f : V3) : Statement (.pack g f) := of_pack rfl (by decide)
theorem unpack (g : Guard) (f : V3) : Statement (.unpack g f) := of_pack rfl (by decide)
theorem scl (g : Guard) (f : V3) : Statement (.scl g f) := of_pack rfl (by decide)
theorem shflIdx (g : Guard) (f : V3S) : Statement (.shflIdx g f) := of_pack rfl (by decide)
theorem shflUp (g : Guard) (f : V3S) : Statement (.shflUp g f) := of_pack rfl (by decide)
theorem shflDown (g : Guard) (f : V3S) : Statement (.shflDown g f) := of_pack rfl (by decide)
theorem shflXor (g : Guard) (f : V3S) : Statement (.shflXor g f) := of_pack rfl (by decide)
theorem voteAll (g : Guard) (f : V3S) : Statement (.voteAll g f) := of_pack rfl (by decide)
theorem voteAny (g : Guard) (f : V3S) : Statement (.voteAny g f) := of_pack rfl (by decide)
theorem voteBallot (g : Guard) (f : V3S) : Statement (.voteBallot g f) := of_pack rfl (by decide)
theorem matchAny (g : Guard) (f : V3S) : Statement (.matchAny g f) := of_pack rfl (by decide)
theorem matchAll (g : Guard) (f : V3S) : Statement (.matchAll g f) := of_pack rfl (by decide)
theorem bcast (g : Guard) (f : V3S) : Statement (.bcast g f) := of_pack rfl (by decide)
theorem gscan (g : Guard) (f : V3S) : Statement (.gscan g f) := of_pack rfl (by decide)
theorem minidx (g : Guard) (f : V3S) : Statement (.minidx g f) := of_pack rfl (by decide)
theorem maxidx (g : Guard) (f : V3S) : Statement (.maxidx g f) := of_pack rfl (by decide)
theorem redux (g : Guard) (f : V3S) (op : ReduxOp) : Statement (.redux g f op) := of_pack rfl (by decide)
theorem sadd (g : Guard) (f : SR) : Statement (.sadd g f) := of_pack rfl (by decide)
theorem ssub (g : Guard) (f : SR) : Statement (.ssub g f) := of_pack rfl (by decide)
theorem smul (g : Guard) (f : SR) : Statement (.smul g f) := of_pack rfl (by decide)
theorem sand (g : Guard) (f : SR) : Statement (.sand g f) := of_pack rfl (by decide)
theorem sor (g : Guard) (f : SR) : Statement (.sor g f) := of_pack rfl (by decide)
theorem sxor (g : Guard) (f : SR) : Statement (.sxor g f) := of_pack rfl (by decide)
theorem sshl (g : Guard) (f : SR) : Statement (.sshl g f) := of_pack rfl (by decide)
theorem sshr (g : Guard) (f : SR) : Statement (.sshr g f) := of_pack rfl (by decide)
theorem smov (g : Guard) (f : SR) : Statement (.smov g f) := of_pack rfl (by decide)
theorem scmp (g : Guard) (f : SR) : Statement (.scmp g f) := of_pack rfl (by decide)
theorem saddImm (g : Guard) (f : SI) : Statement (.saddImm g f) := of_pack rfl (by decide)
theorem ssubImm (g : Guard) (f : SI) : Statement (.ssubImm g f) := of_pack rfl (by decide)
theorem smulImm (g : Guard) (f : SI) : Statement (.smulImm g f) := of_pack rfl (by decide)
theorem sandImm (g : Guard) (f : SI) : Statement (.sandImm g f) := of_pack rfl (by decide)
theorem sorImm (g : Guard) (f : SI) : Statement (.sorImm g f) := of_pack rfl (by decide)
theorem sxorImm (g : Guard) (f : SI) : Statement (.sxorImm g f) := of_pack rfl (by decide)
theorem sshlImm (g : Guard) (f : SI) : Statement (.sshlImm g f) := of_pack rfl (by decide)
theorem sshrImm (g : Guard) (f : SI) : Statement (.sshrImm g f) := of_pack rfl (by decide)
theorem scmpImm (g : Guard) (f : SI) : Statement (.scmpImm g f) := of_pack rfl (by decide)
theorem smovK (g : Guard) (f : SK) : Statement (.smovK g f) := of_pack rfl (by decide)
theorem rdsrScalar (g : Guard) (f : SR) : Statement (.rdsrScalar g f) := of_pack rfl (by decide)
theorem rdsrVector (g : Guard) (f : SR) : Statement (.rdsrVector g f) := of_pack rfl (by decide)
theorem sld (g : Guard) (f : SI) : Statement (.sld g f) := of_pack rfl (by decide)
theorem ld (g : Guard) (f : FM) : Statement (.ld g f) := of_pack rfl (by decide)
theorem ldp (g : Guard) (f : FM) : Statement (.ldp g f) := of_pack rfl (by decide)
theorem lds (g : Guard) (f : FM) : Statement (.lds g f) := of_pack rfl (by decide)
theorem ldfrag (g : Guard) (f : FM) : Statement (.ldfrag g f) := of_pack rfl (by decide)
theorem st (g : Guard) (f : FM) : Statement (.st g f) := of_pack rfl (by decide)
theorem sts (g : Guard) (f : FM) : Statement (.sts g f) := of_pack rfl (by decide)
theorem atom (g : Guard) (f : FMA) (op : AtomOp) : Statement (.atom g f op) := of_pack rfl (by decide)
theorem atoms (g : Guard) (f : FMA) (op : AtomOp) : Statement (.atoms g f op) := of_pack rfl (by decide)
theorem pref (g : Guard) (f : FM) : Statement (.pref g f) := of_pack rfl (by decide)
theorem pgreq (g : Guard) (f : FM) : Statement (.pgreq g f) := of_pack rfl (by decide)
theorem hflush (g : Guard) (f : FMC) : Statement (.hflush g f) := of_pack rfl (by decide)
theorem hinv (g : Guard) (f : FMC) : Statement (.hinv g f) := of_pack rfl (by decide)
theorem cwb (g : Guard) (f : FMC) : Statement (.cwb g f) := of_pack rfl (by decide)
theorem fence (g : Guard) (f : FC) : Statement (.fence g f) := of_pack rfl (by decide)
theorem cpy (g : Guard) (f : FMC) : Statement (.cpy g f) := of_pack rfl (by decide)
theorem cpyLw (g : Guard) (f : FMC) : Statement (.cpyLw g f) := of_pack rfl (by decide)
theorem cpyRing (g : Guard) (f : FMC) : Statement (.cpyRing g f) := of_pack rfl (by decide)
theorem cpyg (g : Guard) (f : FMC) : Statement (.cpyg g f) := of_pack rfl (by decide)
theorem cpyb (g : Guard) (f : FMC) : Statement (.cpyb g f) := of_pack rfl (by decide)
theorem bulk (g : Guard) (f : FMC) : Statement (.bulk g f) := of_pack rfl (by decide)
theorem stwait (g : Guard) (f : FMC) : Statement (.stwait g f) := of_pack rfl (by decide)
theorem strel (g : Guard) (f : FMC) : Statement (.strel g f) := of_pack rfl (by decide)
theorem hand (g : Guard) (f : FMC) : Statement (.hand g f) := of_pack rfl (by decide)
theorem take (g : Guard) (f : FMC) : Statement (.take g f) := of_pack rfl (by decide)
theorem send (g : Guard) (f : FMC) : Statement (.send g f) := of_pack rfl (by decide)
theorem post (g : Guard) (f : FMC) : Statement (.post g f) := of_pack rfl (by decide)
theorem rprobe (g : Guard) (f : FMC) : Statement (.rprobe g f) := of_pack rfl (by decide)
theorem rwait (g : Guard) (f : FMC) : Statement (.rwait g f) := of_pack rfl (by decide)
theorem rcancel (g : Guard) (f : FMC) : Statement (.rcancel g f) := of_pack rfl (by decide)
theorem acset (g : Guard) (f : FMC) : Statement (.acset g f) := of_pack rfl (by decide)
theorem acwait (g : Guard) (f : FMC) : Statement (.acwait g f) := of_pack rfl (by decide)
theorem mma (g : Guard) (f : FT) : Statement (.mma g f) := of_pack rfl (by decide)
theorem mmac (g : Guard) (f : FT) : Statement (.mmac g f) := of_pack rfl (by decide)
theorem mproj (g : Guard) (f : FT) : Statement (.mproj g f) := of_pack rfl (by decide)
theorem accz (g : Guard) (f : FT) : Statement (.accz g f) := of_pack rfl (by decide)
theorem cvset (g : Guard) (f : FT) : Statement (.cvset g f) := of_pack rfl (by decide)
theorem accld (g : Guard) (f : FTM) : Statement (.accld g f) := of_pack rfl (by decide)
theorem accst (g : Guard) (f : FTM) : Statement (.accst g f) := of_pack rfl (by decide)
theorem witb (g : Guard) (f : FMC) : Statement (.witb g f) := of_pack rfl (by decide)
theorem witp (g : Guard) (f : FMC) : Statement (.witp g f) := of_pack rfl (by decide)
theorem wite (g : Guard) (f : FMC) : Statement (.wite g f) := of_pack rfl (by decide)
theorem gver (g : Guard) (f : FMC) : Statement (.gver g f) := of_pack rfl (by decide)
theorem br (g : Guard) (f : FC) : Statement (.br g f) := of_pack rfl (by decide)
theorem brc (g : Guard) (f : FC) : Statement (.brc g f) := of_pack rfl (by decide)
theorem call (g : Guard) (f : FC) : Statement (.call g f) := of_pack rfl (by decide)
theorem ret (g : Guard) (f : FC) : Statement (.ret g f) := of_pack rfl (by decide)
theorem reform (g : Guard) (f : FC) : Statement (.reform g f) := of_pack rfl (by decide)
theorem exit (g : Guard) (f : FC) : Statement (.exit g f) := of_pack rfl (by decide)
theorem yield (g : Guard) (f : FC) : Statement (.yield g f) := of_pack rfl (by decide)
theorem nop (g : Guard) (f : FC) : Statement (.nop g f) := of_pack rfl (by decide)
theorem trap (g : Guard) (f : FC) : Statement (.trap g f) := of_pack rfl (by decide)
theorem wait (g : Guard) (f : FC) : Statement (.wait g f) := of_pack rfl (by decide)
theorem bar (g : Guard) (f : FC) : Statement (.bar g f) := of_pack rfl (by decide)
theorem barx (g : Guard) (f : FC) : Statement (.barx g f) := of_pack rfl (by decide)
theorem launch (g : Guard) (f : FMC) : Statement (.launch g f) := of_pack rfl (by decide)
theorem cancel (g : Guard) (f : FMC) : Statement (.cancel g f) := of_pack rfl (by decide)
theorem hcwait (g : Guard) (f : FMC) : Statement (.hcwait g f) := of_pack rfl (by decide)
theorem rdpr (g : Guard) (f : FY) : Statement (.rdpr g f) := of_pack rfl (by decide)
theorem wrpr (g : Guard) (f : FY) : Statement (.wrpr g f) := of_pack rfl (by decide)
theorem tlbinv (g : Guard) (f : FY) : Statement (.tlbinv g f) := of_pack rfl (by decide)
theorem sttinv (g : Guard) (f : FY) : Statement (.sttinv g f) := of_pack rfl (by decide)
theorem finj (g : Guard) (f : FY) : Statement (.finj g f) := of_pack rfl (by decide)
theorem halt (g : Guard) (f : FY) : Statement (.halt g f) := of_pack rfl (by decide)
theorem unassignedEncoding (w : Code) : Statement (.unassignedEncoding w) := rfl
theorem loadReturn (fl : Nat) (elem : Option Nat) : Statement (.loadReturn fl elem) := rfl
theorem storePerformed (fl : Nat) (home : Bool) (elem : Option Nat) : Statement (.storePerformed fl home elem) := rfl
theorem atomicReply (fl : Nat) : Statement (.atomicReply fl) := rfl
theorem poisonedReply (r : ErrorReply) : Statement (.poisonedReply r) := rfl
theorem parkedThreadRefile (wg tid : Nat) : Statement (.parkedThreadRefile wg tid) := rfl
theorem binDraw (bin : Nat) : Statement (.binDraw bin) := rfl
theorem binAged (bin : Nat) : Statement (.binAged bin) := rfl
theorem groupDissolve (core part : Nat) : Statement (.groupDissolve core part) := rfl
theorem matrixStepPerformed (op : Nat) : Statement (.matrixStepPerformed op) := rfl
theorem tileTransferPerformed (op : Nat) : Statement (.tileTransferPerformed op) := rfl
theorem sourceRangeReleased (op : Nat) : Statement (.sourceRangeReleased op) := rfl
theorem copyComplete (op : Nat) : Statement (.copyComplete op) := rfl
theorem ringSequenceLanded (op : Nat) : Statement (.ringSequenceLanded op) := rfl
theorem enginePageResident (op : Nat) : Statement (.enginePageResident op) := rfl
theorem engineStop (op : Answered) : Statement (.engineStop op) := rfl
theorem leaveGrant (die : Nat) : Statement (.leaveGrant die) := rfl
theorem powerCreditRefill (die : Nat) : Statement (.powerCreditRefill die) := rfl
theorem lineStalenessDrop (line : Nat) : Statement (.lineStalenessDrop line) := rfl
theorem bulkLineArrival (line : Answered) : Statement (.bulkLineArrival line) := rfl
theorem bulkComplete (op : Nat) : Statement (.bulkComplete op) := rfl
theorem reductionCombine (group : GroupTurn) (pos : Nat) (parts : List RedPart) : Statement (.reductionCombine group pos parts) := rfl
theorem fabricPacketArrival (p : Packet) : Statement (.fabricPacketArrival p) := rfl
theorem writeMerge (pos : Nat) : Statement (.writeMerge pos) := rfl
theorem flitReplay (link : Nat) : Statement (.flitReplay link) := rfl
theorem linkTakenDown (link : Nat) : Statement (.linkTakenDown link) := rfl
theorem tagFailure (edge : Edge) : Statement (.tagFailure edge) := rfl
theorem linkRekey (link : Nat) : Statement (.linkRekey link) := rfl
theorem peerAdmission (link : Nat) (ev : PeerEvidence) : Statement (.peerAdmission link ev) := rfl
theorem messageHeaderArrival (m : Message) : Statement (.messageHeaderArrival m) := rfl
theorem messageResend (op : Nat) : Statement (.messageResend op) := rfl
theorem receiveLandingComplete (world rcv : Nat) : Statement (.receiveLandingComplete world rcv) := rfl
theorem landingAborted (world rcv : Nat) (landed : List Nat) : Statement (.landingAborted world rcv landed) := rfl
theorem sendComplete (op : Nat) (refused : Bool) : Statement (.sendComplete op refused) := rfl
theorem ethFrameArrival (f : Frame) : Statement (.ethFrameArrival f) := rfl
theorem ethRetransmit (op : Nat) : Statement (.ethRetransmit op) := rfl
theorem qtail (world : Requested) (prio : Nat) (value : BitVec 16) : Statement (.qtail world prio value) := rfl
theorem queueConfigWrite (world prio : Nat) (size : Bool) (value : BitVec 64) : Statement (.queueConfigWrite world prio size value) := rfl
theorem peerDoorbell (world prio srcChip srcWorld : Nat) (value : BitVec 16) : Statement (.peerDoorbell world prio srcChip srcWorld value) := rfl
theorem launchAccept (world prio : Nat) : Statement (.launchAccept world prio) := rfl
theorem gangPlacement (launch die : Nat) : Statement (.gangPlacement launch die) := rfl
theorem workgroupEnd (wg : Nat) : Statement (.workgroupEnd wg) := rfl
theorem gangEnd (gang : Nat) : Statement (.gangEnd gang) := rfl
theorem preemptRequest (t : Target) : Statement (.preemptRequest t) := rfl
theorem copyRestartTimeout (op : Nat) : Statement (.copyRestartTimeout op) := rfl
theorem contextSaveComplete (gang : Nat) : Statement (.contextSaveComplete gang) := rfl
theorem gangResume (gang cluster : Nat) : Statement (.gangResume gang cluster) := rfl
theorem trapResume (gang : Nat) : Statement (.trapResume gang) := rfl
theorem pageInComplete (wg page : Nat) : Statement (.pageInComplete wg page) := rfl
theorem fqclose (world : Nat) (index : BitVec 16) : Statement (.fqclose world index) := rfl
theorem fqhead (world : Nat) (value : BitVec 16) : Statement (.fqhead world value) := rfl
theorem iodWriteAcknowledged (write : WriteRoute) : Statement (.iodWriteAcknowledged write) := rfl
theorem hostApertureRead (world offset bytes : Nat) (ide : Bool) : Statement (.hostApertureRead world offset bytes ide) := rfl
theorem hostApertureWrite (world offset : Nat) (data : List Byte) (relaxed ide : Bool) : Statement (.hostApertureWrite world offset data relaxed ide) := rfl
theorem hostWindowAccess (world offset bytes : Nat) (data : Option (List Byte)) : Statement (.hostWindowAccess world offset bytes data) := rfl
theorem checkerEventReport (die : Nat) (err : ErrorKind) : Statement (.checkerEventReport die err) := rfl
theorem scoreDecay  : Statement (.scoreDecay) := rfl
theorem witnessTestResult (world version : Nat) : Statement (.witnessTestResult world version) := rfl
theorem shadowRunComplete (launch : Nat) : Statement (.shadowRunComplete launch) := rfl
theorem lockInterface (world : Nat) : Statement (.lockInterface world) := rfl
theorem startInterface (world : Nat) : Statement (.startInterface world) := rfl
theorem stopInterface (world : Nat) : Statement (.stopInterface world) := rfl
theorem spdmMeasurementRequest  : Statement (.spdmMeasurementRequest) := rfl
theorem firmwareActivationSwitch (values : Measurement) : Statement (.firmwareActivationSwitch values) := rfl
theorem worldCreate (world : Nat) : Statement (.worldCreate world) := rfl
theorem worldDestroy (world : Nat) : Statement (.worldDestroy world) := rfl
theorem gpolicy (value : BitVec 64) : Statement (.gpolicy value) := rfl
theorem gtest (value : BitVec 64) : Statement (.gtest value) := rfl
theorem ghaltrel (value : BitVec 64) : Statement (.ghaltrel value) := rfl
theorem grtdata (value : BitVec 64) : Statement (.grtdata value) := rfl
theorem gcgdata (value : CollGroup) : Statement (.gcgdata value) := rfl
theorem gprdata (value : BitVec 64) : Statement (.gprdata value) := rfl
theorem gpwrcap (die : Nat) (value : BitVec 64) : Statement (.gpwrcap die value) := rfl
theorem notifyWrite (world : Requested) (n : Nat) (value : BitVec 64) : Statement (.notifyWrite world n value) := rfl
theorem registerWrite (r : PlainReg) (value : BitVec 64) : Statement (.registerWrite r value) := rfl
theorem fireRingBase (arg : BitVec 56) : Statement (.fireRingBase arg) := rfl
theorem fireRingSize (arg : BitVec 56) : Statement (.fireRingSize arg) := rfl
theorem fireRingHead (arg : BitVec 56) : Statement (.fireRingHead arg) := rfl
theorem endTestInjections (arg : BitVec 56) : Statement (.endTestInjections arg) := rfl
theorem thermalThrottle (temp : BitVec 16) : Statement (.thermalThrottle temp) := rfl
theorem thermalShutdown (temp : BitVec 16) : Statement (.thermalShutdown temp) := rfl
theorem aonRailLoss  : Statement (.aonRailLoss) := rfl
theorem deepSleepEnter  : Statement (.deepSleepEnter) := rfl
theorem deepSleepWake  : Statement (.deepSleepWake) := rfl
theorem coldStart (r : BootReport) : Statement (.coldStart r) := rfl
theorem warmStart (checks : WarmChecks) (r : BootReport) : Statement (.warmStart checks r) := rfl
theorem warmReset (die : Nat) : Statement (.warmReset die) := rfl
theorem linkSplitDecision (parts : List Split) : Statement (.linkSplitDecision parts) := rfl
theorem driverCancel (launch : Nat) : Statement (.driverCancel launch) := rfl
theorem completionCounterWrite (world ctr : Nat) (value : BitVec 128) : Statement (.completionCounterWrite world ctr value) := rfl
theorem coolantOutletBelow65c (temp : BitVec 16) : Statement (.coolantOutletBelow65c temp) := rfl

end Sys2Proof.Laws.Guarded
end

