-- ==== Sys2Proof/Tests/Slice0.lean ====
section
/-! SUPPORT. The model's own tests: decoded words written out from the spec's encodings, refusals of ill-formed instructions, one small
step per instruction, and for each statement with hypotheses a state and operands that meet them. Expected values are worked out by hand
from the rule each test names. -/

namespace Sys2Proof.Tests

set_option Elab.async false

open Sys2Proof Sys2Proof.Machine

/-! Benches: one workgroup of world 0 on core 0, its group issuing, the threads inside a block of code at address 8. -/

/-- The issuing group. -/
def labGroup (members : List Nat) (drawn : Bool) : Group := ⟨0, 0, 0, 0, members, 0, drawn, false, 0, 0, false, []⟩

/-- One workgroup whose threads stand inside a block, its group issuing. -/
def lab (members : List Nat) (drawn : Bool) (th : Nat → Thread → Thread) : State :=
  { State.reset with
    nextId := 1, cur := some 0, clock := 1, groups := [labGroup members drawn], wgs := [benchWg 0], gangs := [benchGang 0], launches := [benchLaunch 0]
    threads := members.map (fun n => (threadKey 0 n, { th n benchThread with left := 6 })) }

/-- The bench's group with some scalar registers of home group 0. -/
def State.scalars (s : State) (xs : List (BitVec 9 × Word)) : State :=
  s.modWg 0 (fun w => xs.foldl (fun w x => w.setS 0 x.1 x.2) w)

/-- One thread with three registers. -/
def one (a b c : Word) : State := lab [0] true (fun _ x => ((x.setV 1 a).setV 2 b).setV 3 c)

/-- What it runs in. -/
def envOf (s : State) : Env := s.issuer.getD ⟨labGroup [0] true, benchWg 0, benchGang 0, benchLaunch 0⟩

/-- The instruction passes every check of the gate. -/
def goes (s : State) (i : Instr) : Bool :=
  match s.issuer, i.guard? with
  | some e, some g => (match s.gate e g i with | .go => true | _ => false)
  | _, _ => false

/-- A condition on the next state. -/
def after (o : Out) (p : State → Bool) : Bool := match o with | .next t => p t | _ => false

/-- The event cannot happen. -/
def isRefused (o : Out) : Bool := match o with | .refused .notEnabled => true | _ => false

/-- A register of thread 0 after an instruction on three operands. -/
def vAfter (i : Instr) (a b c : Word) : Option Word :=
  match exec i (one a b c) with | .next t => some ((t.thread 0 0).v 5) | _ => none

/-- A predicate of thread 0 after an instruction on three operands. -/
def pAfter (i : Instr) (a b c : Word) : Option Bool :=
  match exec i (one a b c) with | .next t => some ((t.thread 0 0).p 2) | _ => none

/-- An unguarded V3 word: d = v5, a = v1, b = v2, c = v3. -/
def v3 (rs : BitVec 3 := 0) (ty : BitVec 2 := 0) (cl : BitVec 8 := 0) : V3 := ⟨5, 1, 2, 3, 0, rs, ty, cl⟩
def v3p (ty : BitVec 2 := 0) (cl : BitVec 8 := 0) : V3 := ⟨2, 1, 2, 0, 0, 0, ty, cl⟩
def vi (imm : Word) : VI := ⟨5, 1, imm⟩
abbrev ga : Guard := Guard.always

/-! Integer instructions (spec 05, R109, R110). -/

theorem test_add_wraps : vAfter (.add ga v3) 0xFFFFFFFF 2 0 = some 1 := by decide
theorem test_add_saturates : vAfter (.add ga (v3 5 0)) 0x7FFFFFFF 2 0 = some 0x7FFFFFFF := by decide
theorem test_sub_saturates_unsigned : vAfter (.sub ga (v3 5 1)) 1 2 0 = some 0 := by decide
theorem test_mul_low : vAfter (.mul ga v3) 0x80000001 2 0 = some 2 := by decide
theorem test_mulhi_signed : vAfter (.mulhi ga v3) 0xFFFFFFFF 1 0 = some 0xFFFFFFFF := by decide
theorem test_mulhi_unsigned : vAfter (.mulhi ga (v3 0 1)) 0xFFFFFFFF 0xFFFFFFFF 0 = some 0xFFFFFFFE := by decide
theorem test_mad : vAfter (.mad ga v3) 3 5 0xFFFFFFF0 = some 0xFFFFFFFF := by decide
theorem test_min_signed : vAfter (.min ga v3) 0xFFFFFFFF 1 0 = some 0xFFFFFFFF := by decide
theorem test_max_unsigned : vAfter (.max ga (v3 0 1)) 0xFFFFFFFF 1 0 = some 0xFFFFFFFF := by decide
theorem test_abs_of_least : vAfter (.abs ga (v3 5)) 0x80000000 0 0 = some 0x7FFFFFFF := by decide
theorem test_neg_wraps : vAfter (.neg ga v3) 0x80000000 0 0 = some 0x80000000 := by decide
theorem test_addc_carry_out : pAfter (.addc ga (v3 0 0 0x2F)) 0xFFFFFFFF 0 0 = some true := by decide
theorem test_subb_borrow_in : vAfter (.subb ga (v3 0 0 0x2F)) 5 5 0 = some 0xFFFFFFFF := by decide
theorem test_lea : vAfter (.lea ga (v3 0 0 3)) 1 2 0 = some 17 := by decide
theorem test_and : vAfter (.and ga v3) 0xFF00FF00 0x0FF00FF0 0 = some 0x0F000F00 := by decide
theorem test_or : vAfter (.or ga v3) 0xF0 0x0F 0 = some 0xFF := by decide
theorem test_xor : vAfter (.xor ga v3) 0xFF 0x0F 0 = some 0xF0 := by decide
theorem test_not : vAfter (.not ga v3) 0x0000FFFF 0 0 = some 0xFFFF0000 := by decide
theorem test_shl_by_width : vAfter (.shl ga v3) 1 32 0 = some 0 := by decide
theorem test_shr : vAfter (.shr ga v3) 0x80000000 31 0 = some 1 := by decide
theorem test_sar_beyond_width : vAfter (.sar ga v3) 0x80000000 40 0 = some 0xFFFFFFFF := by decide
theorem test_rot_low_bits : vAfter (.rot ga v3) 0x80000001 33 0 = some 3 := by decide
theorem test_popc : vAfter (.popc ga v3) 0xF000000F 0 0 = some 8 := by decide
theorem test_clz_of_zero : vAfter (.clz ga v3) 0 0 0 = some 32 := by decide
theorem test_ctz : vAfter (.ctz ga v3) 0x8 0 0 = some 3 := by decide
theorem test_brev : vAfter (.brev ga v3) 1 0 0 = some 0x80000000 := by decide +kernel
theorem test_bfe_signed : vAfter (.bfe ga v3) 0x00000F00 0x408 0 = some 0xFFFFFFFF := by decide
theorem test_bfi : vAfter (.bfi ga v3) 0 0xFFFFFFFF 0x408 = some 0xF00 := by decide
theorem test_sel_true : vAfter (.sel ga (v3 0 0 15)) 7 9 0 = some 7 := by decide
theorem test_cmp_signed_less : pAfter (.cmp ga (v3p 0 2)) 0xFFFFFFFF 1 0 = some true := by decide
theorem test_cmp_unsigned_less : pAfter (.cmp ga (v3p 1 2)) 0xFFFFFFFF 1 0 = some false := by decide
theorem test_add_imm : vAfter (.addImm ga (vi 0xFFFFFFFF)) 1 0 0 = some 0 := by decide
theorem test_sub_imm : vAfter (.subImm ga (vi 2)) 1 0 0 = some 0xFFFFFFFF := by decide
theorem test_mul_imm : vAfter (.mulImm ga (vi 3)) 7 0 0 = some 21 := by decide
theorem test_min_imm_unsigned : vAfter (.minImm ga (vi 5) true) 0xFFFFFFFF 0 0 = some 5 := by decide
theorem test_max_imm_signed : vAfter (.maxImm ga (vi 5) false) 0xFFFFFFFF 0 0 = some 5 := by decide
theorem test_and_imm : vAfter (.andImm ga (vi 0xF)) 0xABCD 0 0 = some 0xD := by decide
theorem test_or_imm : vAfter (.orImm ga (vi 0xF)) 0xAB00 0 0 = some 0xAB0F := by decide
theorem test_xor_imm : vAfter (.xorImm ga (vi 0xF)) 0xF0 0 0 = some 0xFF := by decide
theorem test_shl_imm : vAfter (.shlImm ga (vi 31)) 3 0 0 = some 0x80000000 := by decide
theorem test_shr_imm_beyond_width : vAfter (.shrImm ga (vi 0x100)) 0xFFFFFFFF 0 0 = some 0 := by decide
theorem test_sar_imm : vAfter (.sarImm ga (vi 4)) 0x80000000 0 0 = some 0xF8000000 := by decide
theorem test_rot_imm : vAfter (.rotImm ga (vi 4)) 0xF0000001 0 0 = some 0x1F := by decide
theorem test_cmp_imm : pAfter (.cmpImm ga ⟨2, 1, 5⟩ 5 true) 5 0 0 = some true := by decide
theorem test_mov : vAfter (.mov ga v3) 0xDEADBEEF 0 0 = some 0xDEADBEEF := by decide
theorem test_movi : vAfter (.movi ga (vi 0x12345678)) 0 0 0 = some 0x12345678 := by decide
theorem test_movs : (match exec (.movs ga ⟨5, 0, 0, 7, 0, 0, 0⟩) (State.scalars (one 0 0 0) [(7, 99)]) with
    | .next t => (t.thread 0 0).v 5 | _ => 0) = 99 := by decide

/-! Floating point and conversions (spec 05, R113 to R119; 04). -/

theorem test_fadd_rounds_to_even : vAfter (.fadd ga v3) 0x4B800000 0x3F800000 0 = some 0x4B800000 := by decide
theorem test_fsub_infinities : vAfter (.fsub ga v3) 0x7F800000 0x7F800000 0 = some 0x7FC00000 := by decide
theorem test_fmul_saturates : vAfter (.fmul ga (v3 5)) 0x71800000 0x71800000 0 = some 0x7F7FFFFF := by decide
theorem test_fma_rounds_once : vAfter (.fma ga v3) 0x3F800001 0x3F800001 0xBF800002 = some 0x28800000 := by decide
theorem test_fmin_nan : vAfter (.fmin ga v3) 0x7FC00000 0x3F800000 0 = some 0x3F800000 := by decide
theorem test_fmax : vAfter (.fmax ga v3) 0xBF800000 0x3F800000 0 = some 0x3F800000 := by decide
theorem test_fcmp_nan : pAfter (.fcmp ga (v3p 0 0)) 0x7FC00000 0x7FC00000 0 = some false := by decide
theorem test_frnd : vAfter (.frnd ga v3) 0x40200000 0 0 = some 0x40000000 := by decide
theorem test_frcp_of_zero : vAfter (.frcp ga v3) 0x80000000 0 0 = some 0xFF800000 := by decide
theorem test_fsqrt : vAfter (.fsqrt ga v3) 0x40800000 0 0 = some 0x40000000 := by decide
theorem test_frsq_of_zero : vAfter (.frsq ga v3) 0 0 0 = some 0x7F800000 := by decide
theorem test_fex2_of_zero : vAfter (.fex2 ga v3) 0 0 0 = some 0x3F800000 := by decide
theorem test_flg2_of_one : vAfter (.flg2 ga v3) 0x3F800000 0 0 = some 0 := by decide
theorem test_fsin_of_zero : vAfter (.fsin ga v3) 0x80000000 0 0 = some 0x80000000 := by decide
theorem test_fcos_of_zero : vAfter (.fcos ga v3) 0 0 0 = some 0x3F800000 := by decide
theorem test_fadd_imm : vAfter (.faddImm ga (vi 0x40000000)) 0x3F800000 0 0 = some 0x40400000 := by decide
theorem test_fsub_imm : vAfter (.fsubImm ga (vi 0x40000000)) 0x3F800000 0 0 = some 0xBF800000 := by decide
theorem test_fmul_imm : vAfter (.fmulImm ga (vi 0x40000000)) 0x40400000 0 0 = some 0x40C00000 := by decide
theorem test_fmin_imm_zeros : vAfter (.fminImm ga (vi 0x80000000)) 0 0 0 = some 0x80000000 := by decide
theorem test_fmax_imm_zeros : vAfter (.fmaxImm ga (vi 0x80000000)) 0 0 0 = some 0 := by decide
/-- CL of a conversion: source format low, destination format high. -/
def cvCl (lo hi : Nat) : BitVec 8 := BitVec.ofNat 8 (lo + 16 * hi)

theorem test_cvt_past_the_largest : vAfter (.cvt ga (v3 0 0 (cvCl 4 7))) 0x43FA0000 0 0 = some 0x7F := by decide
theorem test_cvt_saturates : vAfter (.cvt ga (v3 5 0 (cvCl 4 7))) 0x43FA0000 0 0 = some 0x7E := by decide
theorem test_pack_two_halves : vAfter (.pack ga (v3 0 0 (cvCl 6 0))) 0x3F800000 0xC0200000 0 = some 0xC0203F80 := by decide
theorem test_unpack_half : vAfter (.unpack ga (v3 0 0 (cvCl 6 1))) 0xC0203F80 0 0 = some 0xC0200000 := by decide
theorem test_scl : vAfter (.scl ga v3) 0x40400000 0x1FE 0 = some 0x40900000 := by decide
theorem test_scl_div : vAfter (.scl ga (v3 0 0 1)) 0x40400000 0x1FE 0 = some 0x40000000 := by decide

/-! Cross-lane instructions (spec 05, R125 to R130): lanes 0 to 3 hold 256, 3, 3, 5 in v1, and lanes 0 to 2 contribute. -/

def four : State :=
  State.scalars (lab [0, 1, 2, 3] true (fun n x => (((x.setV 1 (listGet 0 [256, 3, 3, 5] n)).setV 2 (BitVec.ofNat 32 (n + 1))).setP 1 (n == 1)))) [(9, 7)]
def v3s (ty : BitVec 2 := 0) (cl : BitVec 8 := 0) : V3S := ⟨5, 1, 2, 9, 0, ty, cl⟩
def lanesAfter (i : Instr) (r : BitVec 8) : List Word :=
  match exec i four with | .next t => (List.range 4).map (fun n => (t.thread 0 n).v r) | _ => []
def predsAfter (i : Instr) (p : BitVec 4) : List Bool :=
  match exec i four with | .next t => (List.range 4).map (fun n => (t.thread 0 n).p p) | _ => []

theorem test_shfl_idx_falls_back_to_own : lanesAfter (.shflIdx ga v3s) 5 = [3, 3, 3, 5] := by decide
theorem test_shfl_up_fills : lanesAfter (.shflUp ga (v3s 0 1)) 5 = [1, 256, 3, 3] := by decide
theorem test_shfl_down_fills : lanesAfter (.shflDown ga (v3s 0 1)) 5 = [3, 3, 3, 4] := by decide
theorem test_shfl_xor : lanesAfter (.shflXor ga (v3s 0 2)) 5 = [3, 2, 256, 3] := by decide
theorem test_bcast : lanesAfter (.bcast ga (v3s 0 0)) 5 = [256, 256, 256, 256] := by decide
theorem test_vote_all_over_contributing : predsAfter (.voteAll ga ⟨2, 0, 0, 9, 0, 0, 1⟩) 2 = [false, false, false, false] := by decide
theorem test_vote_any : predsAfter (.voteAny ga ⟨2, 0, 0, 9, 0, 0, 1⟩) 2 = [true, true, true, true] := by decide
theorem test_vote_ballot : lanesAfter (.voteBallot ga (v3s 0 1)) 5 = [2, 2, 2, 2] := by decide
theorem test_match_any : lanesAfter (.matchAny ga v3s) 5 = [1, 6, 6, 0] := by decide
theorem test_match_all_differs : lanesAfter (.matchAll ga v3s) 5 = [0, 0, 0, 0] := by decide
theorem test_gscan_exclusive : lanesAfter (.gscan ga (v3s 0 1)) 5 = [0, 256, 259, 262] := by decide
theorem test_minidx_lowest_lane : lanesAfter (.minidx ga (v3s 1)) 5 = [3, 3, 3, 3] ∧ lanesAfter (.minidx ga (v3s 1)) 6 = [1, 1, 1, 1] := by decide
theorem test_maxidx : lanesAfter (.maxidx ga (v3s 1)) 5 = [256, 256, 256, 256] := by decide
theorem test_redux_add : lanesAfter (.redux ga v3s .add) 5 = [262, 262, 262, 262] := by decide
theorem test_undrawn_group_is_filed :
    after (exec (.gscan ga v3s) { four with groups := [labGroup [0, 1, 2, 3] false] })
      (fun t => t.groups.isEmpty && (t.thread 0 2).status == .filed && (t.thread 0 2).v 5 == 0) = true := by decide

/-! Scalar instructions (spec 05, R121 to R124; 02, R34, R41). -/

def sc : State := State.scalars (one 0 0 0) [(1, 0xFFFFFFFF), (2, 5), (3, 31)]
def sAfter (i : Instr) : Option Word :=
  match exec i sc with | .next t => (t.wg? 0).map (fun w => w.s 0 7) | _ => none
def sr (cl : BitVec 8 := 0) : SR := ⟨7, 1, 2, 0, 0, 0, cl⟩
def si (imm : BitVec 30) : SI := ⟨7, 1, imm⟩

theorem test_sadd : sAfter (.sadd ga sr) = some 4 := by decide
theorem test_ssub : sAfter (.ssub ga sr) = some 0xFFFFFFFA := by decide
theorem test_smul : sAfter (.smul ga sr) = some 0xFFFFFFFB := by decide
theorem test_sand : sAfter (.sand ga sr) = some 5 := by decide
theorem test_sor : sAfter (.sor ga sr) = some 0xFFFFFFFF := by decide
theorem test_sxor : sAfter (.sxor ga sr) = some 0xFFFFFFFA := by decide
theorem test_sshl : sAfter (.sshl ga sr) = some 0xFFFFFFE0 := by decide
theorem test_sshr_logical : sAfter (.sshr ga sr) = some 0x07FFFFFF := by decide
theorem test_sshr_arithmetic : sAfter (.sshr ga (sr 1)) = some 0xFFFFFFFF := by decide
theorem test_smov : sAfter (.smov ga sr) = some 0xFFFFFFFF := by decide
theorem test_scmp_signed : after (exec (.scmp ga ⟨2, 1, 2, 0, 0, 0, 2⟩) sc) (fun t => (t.thread 0 0).p 2) = true := by decide
theorem test_sadd_imm_sign_extends : sAfter (.saddImm ga (si 0x3FFFFFFF)) = some 0xFFFFFFFE := by decide
theorem test_ssub_imm : sAfter (.ssubImm ga (si 1)) = some 0xFFFFFFFE := by decide
theorem test_smul_imm : sAfter (.smulImm ga (si 3)) = some 0xFFFFFFFD := by decide
theorem test_sand_imm : sAfter (.sandImm ga (si 0x3FFFFFF0)) = some 0xFFFFFFF0 := by decide
theorem test_sor_imm : sAfter (.sorImm ga (si 1)) = some 0xFFFFFFFF := by decide
theorem test_sxor_imm : sAfter (.sxorImm ga (si 0x3FFFFFFF)) = some 0 := by decide
theorem test_sshl_imm_negative_gives_zero : sAfter (.sshlImm ga (si 0x3FFFFFFF)) = some 0 := by decide
theorem test_sshr_imm_is_logical : sAfter (.sshrImm ga (si 4)) = some 0x0FFFFFFF := by decide
theorem test_scmp_imm_unsigned : after (exec (.scmpImm ga ⟨2, 1, 0x14000000 + 5⟩) sc) (fun t => !(t.thread 0 0).p 2) = true := by decide
theorem test_smov_k : sAfter (.smovK ga ⟨7, 0, 0xDEADBEEF⟩) = some 0xDEADBEEF := by decide
theorem test_rdsr_clock : sAfter (.rdsrScalar ga ⟨7, 12, 0, 0, 0, 0, 0⟩) = some 1 := by decide
theorem test_rdsr_lane : after (exec (.rdsrVector ga ⟨5, 1, 0, 0, 0, 0, 0⟩) four) (fun t => (t.thread 0 3).v 5 == 3) = true := by decide
theorem test_scalar_write_to_sz : (match exec (.smov ga ⟨511, 1, 0, 0, 0, 0, 0⟩) sc with | .next t => (t.wg? 0).map (fun w => w.s 0 511) | _ => none) = some 0 := by decide
/-! Hypotheses of the statements are met: each list names the instructions of one statement. -/

theorem issuable_all {s : State} {l : List Instr} (h : l.all (fun i => goes s i && i.guard? == some ga) = true) :
    ∀ i ∈ l, Issuable s (envOf s) ga i := by
  intro i hi
  have h := List.all_eq_true.1 h i hi
  simp only [Bool.and_eq_true, beq_iff_eq] at h
  obtain ⟨h1, h2⟩ := h
  unfold goes at h1
  split at h1
  · rename_i e g he hg
    rw [h2] at hg; cases hg
    refine issuable_iff.2 ⟨by simp [envOf, he], ?_⟩
    simp only [envOf, he, Option.getD_some]
    split at h1
    · assumption
    · cases h1
  · cases h1

def integerWords : List Instr :=
  [.add ga v3, .sub ga v3, .mul ga v3, .mulhi ga v3, .mad ga v3, .min ga v3, .max ga v3, .abs ga v3, .neg ga v3, .addc ga (v3 0 0 0x2F),
   .subb ga (v3 0 0 0x2F), .lea ga v3, .and ga v3, .or ga v3, .xor ga v3, .not ga v3, .shl ga v3, .shr ga v3, .sar ga v3, .rot ga v3,
   .popc ga v3, .clz ga v3, .ctz ga v3, .brev ga v3, .bfe ga v3, .bfi ga v3, .sel ga v3, .cmp ga v3p, .addImm ga (vi 1), .subImm ga (vi 1),
   .mulImm ga (vi 1), .minImm ga (vi 1) false, .maxImm ga (vi 1) true, .andImm ga (vi 1), .orImm ga (vi 1), .xorImm ga (vi 1),
   .shlImm ga (vi 1), .shrImm ga (vi 1), .sarImm ga (vi 1), .rotImm ga (vi 1), .cmpImm ga ⟨2, 1, 1⟩ 0 false, .mov ga v3, .movi ga (vi 1),
   .movs ga ⟨5, 0, 0, 7, 0, 0, 0⟩]

theorem integer_and_moves_may_issue : ∀ i ∈ integerWords, Issuable (one 1 2 3) (envOf (one 1 2 3)) ga i :=
  issuable_all (by decide +kernel)

def floatWords : List Instr :=
  [.fadd ga v3, .fsub ga v3, .fmul ga v3, .fma ga v3, .fmin ga v3, .fmax ga v3, .fcmp ga v3p, .fclass ga v3, .frnd ga v3, .frcp ga v3,
   .fsqrt ga v3, .frsq ga v3, .fex2 ga v3, .flg2 ga v3, .fsin ga v3, .fcos ga v3,
   .faddImm ga (vi 1), .fsubImm ga (vi 1), .fmulImm ga (vi 1), .fminImm ga (vi 1), .fmaxImm ga (vi 1), .cvt ga (v3 0 0 (cvCl 4 5)),
   .pack ga (v3 0 0 (cvCl 6 0)), .unpack ga (v3 0 0 (cvCl 6 1)), .scl ga v3]

theorem floats_and_conversions_may_issue : ∀ i ∈ floatWords, Issuable (one 1 2 3) (envOf (one 1 2 3)) ga i :=
  issuable_all (by decide +kernel)

/-- A conversion whose RS names its mode is served, and one that names a slot of no served format is not. -/
theorem conversion_modes : convMode (benchLaunch 0) v3 false = some (.rne, false) ∧
    convMode { benchLaunch 0 with words := List.replicate 32 0x500 } ⟨5, 1, 2, 3, 7, 7, 0, 0⟩ false = none := by decide

def crossWords : List Instr :=
  [.shflIdx ga v3s, .shflUp ga v3s, .shflDown ga v3s, .shflXor ga v3s, .bcast ga v3s, .voteAll ga ⟨2, 0, 0, 9, 0, 0, 1⟩,
   .voteAny ga ⟨2, 0, 0, 9, 0, 0, 1⟩, .voteBallot ga ⟨5, 0, 0, 9, 0, 0, 1⟩,
   .matchAny ga ⟨5, 1, 0, 9, 0, 0, 0⟩, .matchAll ga ⟨5, 1, 0, 9, 0, 0, 0⟩, .gscan ga ⟨5, 1, 0, 9, 0, 0, 0⟩, .minidx ga ⟨5, 1, 0, 9, 0, 0, 0⟩,
   .maxidx ga ⟨5, 1, 0, 9, 0, 0, 0⟩, .redux ga ⟨5, 1, 0, 9, 0, 0, 0⟩ .xor]

theorem cross_lane_may_issue_in_a_drawn_group :
    (∀ i ∈ crossWords, Issuable four (envOf four) ga i) ∧ (envOf four).g.drawn = true :=
  ⟨issuable_all (by decide +kernel), by decide⟩

def fourFiled : State := { four with groups := [labGroup [0, 1, 2, 3] false] }

theorem cross_lane_may_issue_in_an_undrawn_group :
    (∀ i ∈ crossWords, Issuable fourFiled (envOf fourFiled) ga i) ∧ (envOf fourFiled).g.drawn = false :=
  ⟨issuable_all (by decide +kernel), by decide⟩

def scalarWords : List Instr :=
  [.sadd ga sr, .ssub ga sr, .smul ga sr, .sand ga sr, .sor ga sr, .sxor ga sr, .sshl ga sr, .sshr ga sr, .smov ga ⟨7, 1, 0, 0, 0, 0, 0⟩,
   .scmp ga ⟨2, 1, 2, 0, 0, 0, 2⟩, .smovK ga ⟨7, 0, 5⟩, .rdsrScalar ga ⟨7, 12, 0, 0, 0, 0, 0⟩, .rdsrVector ga ⟨5, 1, 0, 0, 0, 0, 0⟩,
   .saddImm ga (si 1), .ssubImm ga (si 1), .smulImm ga (si 1), .sandImm ga (si 1), .sorImm ga (si 1), .sxorImm ga (si 1), .sshlImm ga (si 1),
   .sshrImm ga (si 1), .scmpImm ga ⟨2, 1, 5⟩]

theorem scalars_may_issue : (∀ i ∈ scalarWords, Issuable sc (envOf sc) ga i) ∧ sc.someLane (envOf sc) ga ∧
    ¬ sc.someLane (envOf sc) ⟨true, 15⟩ := by
  refine ⟨issuable_all (by decide +kernel), ?_, ?_⟩ <;> unfold State.someLane <;> decide
/-! Memory accesses (spec 08; 07). The paged bench maps the first 64 KiB of world 0 one to one, with every right. -/

/-- The paged bench with one thread, s4:s5 = 0x1000, s6 = 0x200, and the word 0x8899AABB at 0x1000. -/
def paged : State :=
  let s := State.reset.bench []
  let s := { s with
    agenda := [], cur := some 0, clock := 1, groups := [labGroup [0] true]
    threads := [(threadKey 0 0, { ((benchThread.setV 1 0x8899AABB).setV 2 7).setV 3 0x8899AABB with left := 6 })] }
  State.scalars (s.poke 0x1000 0x8899AABB) [(4, 0x1000), (6, 0x200)]

def nextOf (o : Out) : State := match o with | .next t => t | _ => State.reset

def fm (sz : BitVec 2) (sx : BitVec 1 := 0) (disp : BitVec 13 := 0) : FM := ⟨5, 4, 255, disp, sz, 0, sx, 0, 0⟩
def fs (sz : BitVec 2) (disp : BitVec 13 := 0) : FM := ⟨1, 6, 255, disp, sz, 0, 0, 0, 0⟩
def fa : FMA := ⟨5, 4, 255, 2, 3, 0, 0, 0⟩
def fas : FMA := ⟨5, 6, 255, 2, 3, 0, 0, 0⟩

/-- The word at an address of world 0, at its home. -/
def wordAt (s : State) (k : Nat) : Nat := leNat ((List.range 4).map (fun i => s.homeByte (k + i)))

/-- ld issues a flight, and its return extends the byte with its sign. -/
def loading : State := nextOf (exec (.ld ga (fm 0 1)) paged)

theorem test_ld_issues : (loading.flights.all (fun f => f.tids == [0] && f.inLd && f.elems.all (fun x => x.va == 0x1000 && x.size == 1 && x.reg == 5))) = true ∧
    (loading.thread 0 0).ld = 1 ∧ (loading.thread 0 0).pc = 16 := by decide +kernel

theorem test_load_return_sign_extends :
    after (exec (.loadReturn 1 (some 0)) loading) (fun t => (t.thread 0 0).v 5 == 0xFFFFFFBB && (t.thread 0 0).ld == 0 && t.flights.isEmpty) = true := by
  decide +kernel

theorem test_st_performs :
    after (exec (.storePerformed 1 true none) (nextOf (exec (.storePerformed 1 false none) (nextOf (exec (.st ga ⟨1, 4, 255, 8, 1, 0, 0, 0, 0⟩) paged)))))
      (fun t => wordAt t 0x1008 == 0xAABB && (t.thread 0 0).st == 0) = true := by decide +kernel

theorem test_ld_misaligned_traps : after (exec (.ld ga (fm 2 0 1)) paged) (fun t => (t.gangs.map (·.status)) == [.trapped]) = true := by
  decide +kernel

theorem test_sts_then_lds :
    after (exec (.loadReturn 2 none) (nextOf (exec (.lds ga ⟨5, 6, 255, 0, 2, 0, 0, 0, 0⟩) (nextOf (exec (.storePerformed 1 true none)
      (nextOf (exec (.sts ga (fs 2)) paged)))))))
      (fun t => (t.thread 0 0).v 5 == 0x8899AABB) = true := by decide +kernel

theorem test_atom_cas_swaps :
    after (exec (.atomicReply 1) (nextOf (exec (.atom ga fa .cas) paged)))
      (fun t => (t.thread 0 0).v 5 == 0x8899AABB && wordAt t 0x1000 == 7) = true := by decide +kernel

theorem test_atoms_add :
    after (exec (.atomicReply 1) (nextOf (exec (.atoms ga fas .add) paged)))
      (fun t => (t.thread 0 0).v 5 == 0 && memGet t.mem (spadKey 0 0x200) == 7) = true := by decide +kernel

theorem test_ldp_of_an_absent_page :
    after (exec (.ldp ga ⟨5, 4, 255, 0, 2, 0, 0, 2, 0⟩) (State.scalars paged [(4, 0x10000)]))
      (fun t => (t.thread 0 0).v 5 == 0 && t.flights.isEmpty) = true := by decide +kernel
/-! Hypotheses of the statements on memory accesses. -/

/-- Issuable, as one closed question. -/
theorem issuable_of {s : State} {i : Instr} (h : (goes s i && i.guard? == some ga) = true) : Issuable s (envOf s) ga i :=
  issuable_all (l := [i]) (by simpa using h) i (List.mem_singleton.2 rfl)

def eP : Env := envOf paged

theorem ld_and_st_may_issue :
    (Issuable paged eP ga (.ld ga (fm 2)) ∧ (∀ c ∈ paged.ldstConds eP ga .read (fm 2), c.2.clear) ∧
      paged.miss eP (linesOf ((paged.ldstConds eP ga .read (fm 2)).flatMap (fun c => c.2.elems))).length ≠ .reject) ∧
    (Issuable paged eP ga (.st ga (fm 2)) ∧ (∀ c ∈ paged.ldstConds eP ga .write (fm 2), c.2.clear) ∧
      paged.miss eP (linesOf ((paged.ldstConds eP ga .write (fm 2)).flatMap (fun c => c.2.elems))).length ≠ .reject) :=
  ⟨⟨issuable_of (by decide +kernel), by decide +kernel, by decide +kernel⟩, issuable_of (by decide +kernel), by decide +kernel, by decide +kernel⟩

def ldpForm : FM := ⟨5, 4, 255, 0, 2, 0, 0, 2, 0⟩
def ldpConds (s : State) : List (Nat × Cond) :=
  (s.lanesAsc eP ga).map (fun n =>
    (n, s.globalCond eP .read 0 (eP.va (s.thread eP.w.id n) ldpForm.base ldpForm.idx ldpForm.disp.toInt) (fmSize ldpForm)
      (regsOf (s.thread eP.w.id n) ldpForm.d 1)))

theorem ldp_may_issue : Issuable paged eP ga (.ldp ga ldpForm) ∧ (∀ c ∈ ldpConds paged, c.2.traps = []) ∧
    (∀ c ∈ (ldpConds paged).filter (fun c => c.2.pages.isEmpty), c.2.clear) ∧
    paged.miss eP (linesOf (((ldpConds paged).filter (fun c => c.2.pages.isEmpty)).flatMap (fun c => c.2.elems))).length ≠ .reject :=
  ⟨issuable_of (by decide +kernel), by decide +kernel, by decide +kernel, by decide +kernel⟩

/-- A misaligned ld and st: code 0x24 at the address. -/
theorem misaligned_accesses_trap :
    (Issuable paged eP ga (.ld ga (fm 2 0 1)) ∧ (∀ c ∈ paged.ldstConds eP ga .read (fm 2 0 1), c.2.absent = none) ∧
      worst (paged.ldstConds eP ga .read (fm 2 0 1)) = some (0x24, 0x1001, false)) ∧
    Issuable paged eP ga (.st ga (fm 2 0 1)) ∧ (∀ c ∈ paged.ldstConds eP ga .write (fm 2 0 1), c.2.absent = none) ∧
      worst (paged.ldstConds eP ga .write (fm 2 0 1)) = some (0x24, 0x1001, false) :=
  ⟨⟨issuable_of (by decide +kernel), by decide +kernel, by decide +kernel⟩, issuable_of (by decide +kernel), by decide +kernel, by decide +kernel⟩

/-- A locked granule 0x200 to 0x240: the last byte of an access meets it, and one byte lower does not. -/
def lockedGranule : RangeLock := ⟨9, 0, true, 0, 0x200, 0x240, true, true⟩
def lockedSpad : State := { paged with locks := [lockedGranule] }

theorem range_hit_at_the_first_byte :
    (lockedGranule ∈ lockedSpad.locks ∧ lockedGranule.spad = true ∧ lockedGranule.place = eP.w.id ∧ eP.w.home = eP.g.core ∧ eP.w.home ≠ (⟨{ eP.g with core := 5 }, eP.w, eP.gang, eP.l⟩ : Env).g.core ∧ lockedGranule.lo < 0x1FD + 4 ∧ 0x1FD < lockedGranule.hi) ∧
    ∀ k ∈ lockedSpad.locks, k.spad = true → k.place = eP.w.id → ¬((k.dst = true ∨ Access.read ≠ .read) ∧ k.lo < 0x1FC + 4 ∧ 0x1FC < k.hi) := by
  decide

def spadPages (cs : List (Nat × Cond)) : List (Workgroup × Nat) :=
  (dedup (cs.flatMap (fun c => c.2.elems.flatMap (fun x => pagesOf x.va x.size)))).map (fun p => (eP.w, p))
def spadRun (a : Access) : List (Nat × Cond) :=
  paged.spadConds eP ga a (some eP.w) (fun t => eP.spadVa t 6 255 0) 4 (fun t => regsOf t 1 1)
def isReady : Page → Bool | .ready _ => true | _ => false
theorem ready_of {p : Page} (h : isReady p = true) : ∃ s, p = .ready s := by cases p <;> simp_all [isReady]

theorem lds_and_sts_may_issue :
    (Issuable paged eP ga (.lds ga (fs 2)) ∧ paged.space eP false (eP.s 6) = some eP.w ∧ worst (spadRun .read) = none ∧
      ∃ p, paged.touchPages false (spadPages (spadRun .read)) = .ready p) ∧
    Issuable paged eP ga (.sts ga (fs 2)) ∧ worst (spadRun .write) = none ∧ ∃ p, paged.touchPages true (spadPages (spadRun .write)) = .ready p :=
  ⟨⟨issuable_of (by decide +kernel), by decide +kernel, by decide +kernel, ready_of (by decide +kernel)⟩,
    issuable_of (by decide +kernel), by decide +kernel, ready_of (by decide +kernel)⟩

/-- ldfrag through the layout word with base 0, strides 4 and 128 and ESIZE 2 (words). -/
def fragState : State := State.scalars paged [(8, 4 * 2 ^ 24), (9, 0x80000), (10, 2 * 2 ^ 24)]
def fragForm : FM := ⟨5, 8, 255, 0, 2, 0, 0, 0, 0⟩
theorem ldfrag_may_issue :
    Issuable fragState (envOf fragState) ga (.ldfrag ga fragForm) ∧ fragState.someLane (envOf fragState) ga ∧
    (layoutOf ((envOf fragState).layoutNat 8)).ok = true ∧ (layoutOf ((envOf fragState).layoutNat 8)).esize = 2 ∧ fragMode fragForm = 0 ∧
    (∀ x ∈ fragElems 0 (layoutOf ((envOf fragState).layoutNat 8)) 0 0 1 0 5, (fragState.spadCond (envOf fragState) (some (envOf fragState).w) .read x.va x.size x.size).traps = []) ∧
    ∃ p, fragState.touchPages false [((envOf fragState).w, 0)] = .ready p :=
  ⟨issuable_of (by decide +kernel), by decide +kernel, by decide +kernel, by decide +kernel, by decide +kernel, by decide +kernel, ready_of (by decide +kernel)⟩

def atomConds : List (Nat × Cond) :=
  (paged.lanesAsc eP ga).map (fun n => (n, paged.globalCond eP .atomic (verNum eP.l (paged.thread eP.w.id n).sub)
    (eP.va (paged.thread eP.w.id n) fa.base fa.idx 0) 4 [(fa.d.toNat, 0)]))
theorem atom_and_atoms_may_issue :
    (∀ op ∈ [AtomOp.add, .sub, .min, .max, .and, .or, .xor, .exch, .cas],
      Issuable paged eP ga (.atom ga fa op) ∧ Issuable paged eP ga (.atoms ga fas op)) ∧
    (∀ c ∈ atomConds, c.2.clear) ∧ (∀ c ∈ atomConds, ∀ x ∈ c.2.elems, isHost x.key = false) ∧
    paged.miss eP (linesOf (atomConds.flatMap (fun c => c.2.elems))).length ≠ .reject := by
  refine ⟨fun op h => ⟨?_, ?_⟩, by decide +kernel, by decide +kernel, by decide +kernel⟩ <;>
  · simp only [List.mem_cons, List.not_mem_nil, or_false] at h
    obtain rfl | rfl | rfl | rfl | rfl | rfl | rfl | rfl | rfl := h <;> exact issuable_of (by decide +kernel)

theorem prefetch_and_sld_may_issue :
    Issuable paged eP ga (.pref ga ⟨0, 4, 255, 0, 0, 0, 0, 0, 0⟩) ∧ Issuable paged eP ga (.pgreq ga ⟨0, 4, 255, 0, 0, 0, 0, 0, 0⟩) ∧
    worst ((paged.lanesAsc eP ga).map (fun n => (n, (paged.permit 0 0 0 (eP.va (paged.thread 0 n) 4 255 0) .read).1))) = none :=
  ⟨issuable_of (by decide +kernel), issuable_of (by decide +kernel), by decide +kernel⟩

/-- A kernel whose code and constants begin at 0: sld of the word at 0x1000. -/
def sldState : State := { paged with launches := [{ benchLaunch 0 with words := listPut 0 benchWords 1 (2 ^ 40 + 2 ^ 16 + 0x100) }] }
def sldForm : SI := ⟨7, 511, 0xFF8⟩
theorem sld_may_issue :
    Issuable sldState (envOf sldState) ga (.sld ga sldForm) ∧ sldState.someLane (envOf sldState) ga ∧ sldState.sldVa (envOf sldState) sldForm = 0x1000 ∧
    (envOf sldState).l.code = 0 ∧ 0x1000 < 64 * (envOf sldState).l.ksize ∧
    (match sldState.translate 0 0 0x1000 with | .ok tr => tr.key == 0x1000 && !keyAbsent tr.key && !sldState.errs tr.key && !sldState.uncrossed tr.key | .error _ => false) = true :=
  ⟨issuable_of (by decide +kernel), by decide +kernel, by decide +kernel, by decide +kernel, by decide +kernel, by decide +kernel⟩
theorem test_sld_reads_the_pool :
    (match exec (.sld ga sldForm) sldState with | .next t => (t.wg? 0).map (fun w => w.s 0 7) | _ => none) = some 0x8899AABB := by decide +kernel

/-- fence.acqrel.pod with nothing in flight, and a range of one line for the maintenance instructions; and of none. -/
def fenceForm : FC := ⟨511, 0, 28⟩
def rangeForm : FMC := ⟨4, 6, 511, 511, 0⟩
theorem fences_and_maintenance_may_issue :
    (Issuable paged eP ga (.fence ga fenceForm) ∧ fenceAcq fenceForm = true ∧ fenceRel fenceForm = true ∧ fenceScope fenceForm = 4 ∧
      ∀ n ∈ paged.lanes eP ga, paged.fenceMet eP.w.id n fenceForm = true) ∧
    (Issuable paged eP ga (.hflush ga rangeForm) ∧ Issuable paged eP ga (.hinv ga rangeForm) ∧ Issuable paged eP ga (.cwb ga rangeForm)) ∧
    (eP.s 6).toNat ≠ 0 ∧ (paged.rangeKeys eP 0x1000 0x1200).1.traps = [] ∧ (eP.s 511).toNat = 0 ∧
    Issuable paged eP ga (.cwb ga ⟨4, 511, 511, 511, 0⟩) :=
  ⟨⟨issuable_of (by decide +kernel), by decide, by decide, by decide, by decide +kernel⟩,
    ⟨issuable_of (by decide +kernel), issuable_of (by decide +kernel), issuable_of (by decide +kernel)⟩, by decide +kernel, by decide +kernel,
    by decide +kernel, issuable_of (by decide +kernel)⟩
theorem test_fence_marks_release : after (exec (.fence ga fenceForm) paged) (fun t => (t.thread 0 0).fences == [⟨1, 4⟩]) = true := by decide +kernel
theorem test_hflush_counts : after (exec (.hflush ga rangeForm) paged) (fun t => (t.thread 0 0).st == 1 && t.flights.length == 1) = true := by decide +kernel
theorem test_hinv_counts : after (exec (.hinv ga rangeForm) paged) (fun t => (t.thread 0 0).st == 1) = true := by decide +kernel
theorem test_cwb_of_an_empty_range : after (exec (.cwb ga ⟨4, 511, 511, 511, 0⟩) paged) (fun t => (t.thread 0 0).st == 0 && (t.thread 0 0).pc == 16) = true := by decide +kernel

/-- A dirty host line in the range of a flush that is in flight. -/
def flushing : State :=
  let s := nextOf (exec (.hflush ga rangeForm) paged)
  { s with flights := s.flights.map (fun f => { f with kind := .flush [(keyHost + 0x1000, 128)] false })
           iod := { s.iod with hostLines := [⟨0, (keyHost + 0x1000) / 128, List.replicate 128 7, true :: List.replicate 31 false⟩] } }
theorem flush_may_perform :
    (flushing.flight? 1).any (fun f => f.kind == .flush [(keyHost + 0x1000, 128)] false && !f.poisoned && flushing.depsMet f.deps && f.elems.all (fun x => !x.green)) = true ∧
    flushing.iod.hostLines.all (fun h => inRanges [(keyHost + 0x1000, 128)] h.line && isHost (h.line * 128)) = true := by decide +kernel
theorem test_flush_writes_dirty_words : after (exec (.storePerformed 1 true none) flushing) (fun t => memGet t.mem (keyHost + 0x1003) == 7 && memGet t.mem (keyHost + 0x1004) == 0 &&
    t.iod.hostLines.map (·.dirty) == [List.replicate 32 false]) = true := by decide +kernel
/-- Flights in flight: a load of one element, a load of a fragment, a store, a passed store, an atomic. -/
def storing : State := nextOf (exec (.st ga ⟨1, 4, 255, 8, 2, 0, 0, 0, 0⟩) paged)
def stored : State := nextOf (exec (.storePerformed 1 false none) storing)
def atoming : State := nextOf (exec (.atom ga fa .cas) paged)
/-- A load of two words; and an exchange on a word of host memory of which the cache has a dirty copy, 9, and the host has 5. -/
def pairing : State := nextOf (exec (.ld ga { fm 2 with cnt := 1 }) paged)
def hostAtoming : State :=
  let s := nextOf (exec (.atom ga fa .exch) paged)
  { s with flights := s.flights.map (fun f => { f with elems := f.elems.map (fun x => { x with key := keyHost + 0x1000 }) }), mem := memSet s.mem (keyHost + 0x1000) 5
           iod := { s.iod with hostLines := [⟨0, (keyHost + 0x1000) / 128, 9 :: List.replicate 127 0, true :: List.replicate 31 false⟩] } }
theorem load_may_return :
    (loading.flight? 1).any (fun f => f.kind.isLoad && f.inLd && f.elems.length == 1 && loading.mayPerform f f.elems &&
      loading.wgs.any (fun w => w.id == f.wg) && (f.elems[0]?).any (fun x => loading.mayPerform f [x] && x.key % 128 + x.size ≤ 128 && x.reg < 255)) = true ∧
    (pairing.flight? 1).any (fun f => f.kind.isLoad && f.elems.map (fun x => (x.reg, x.key % 128 + x.size)) == [(5, 4), (6, 8)] && pairing.mayPerform f f.elems &&
      (f.elems[0]?).any (fun x => pairing.mayPerform f [x])) = true ∧ pairing.wgs.any (fun w => w.id == 0) = true := by decide +kernel
theorem test_load_returns_a_part : after (exec (.loadReturn 1 (some 0)) pairing) (fun t => (t.thread 0 0).v 5 == 0x8899AABB && (t.thread 0 0).ld == 1 &&
      t.flights.map (fun f => f.elems.map (·.reg)) == [[6]]) = true ∧
    after (exec (.loadReturn 1 none) pairing) (fun t => (t.thread 0 0).v 5 == 0x8899AABB && (t.thread 0 0).ld == 0 && t.flights.isEmpty) = true := by decide +kernel
theorem store_may_pass_and_perform :
    (storing.flight? 1).any (fun f => f.kind == .store && !f.passed && !f.spad && !f.poisoned && storing.depsMet f.deps &&
      (f.elems.find? (fun y => storing.showsTo (benchLaunch 0) f y && (y.byteAt 0x1008).isSome)).any (fun x => (x.byteAt 0x1008).isSome)) = true ∧
    storing.flights.all (fun y => decide (y.passOrder < storing.nextId)) = true ∧
    (stored.flight? 1).any (fun f => f.kind == .store && f.passed && (f.elems[0]?).any (fun x => stored.mayPerform f [x] && stored.roomFor f [x] &&
      (stored.injects.find? (fun y => y.die == Config.dieOfCore f.core && y.key == wordOf x.key)).isNone && x.size ≤ 4 && !x.green)) = true := by
  decide +kernel
theorem atomic_may_reply :
    (atoming.flight? 1).any (fun f => (match f.kind with | .atomic .. => true | _ => false) && f.elems.length == 1 && f.acq == false &&
      (f.elems[0]?).any (fun x => x.reg < 255 && atoming.mayPerform f [x] && atoming.roomFor f [x] && !isHost x.key && !x.green)) = true ∧
    atoming.injects = [] ∧ atoming.wgs.any (fun w => w.id == 0) = true ∧ (benchLaunch 0).shadowOf = none ∧
    (hostAtoming.flight? 1).any (fun f => (match f.kind with | .atomic .. => true | _ => false) && f.elems.length == 1 &&
      (f.elems[0]?).any (fun x => x.reg < 255 && x.fill.isNone && hostAtoming.mayPerform f [x] && hostAtoming.roomFor f [x] && isHost x.key && x.key % 4 == 0) &&
      (hostAtoming.launchOf f).shadowOf.isNone) = true ∧ hostAtoming.wgs.any (fun w => w.id == 0) = true := by
  decide +kernel
theorem test_host_atomic_takes_the_dirty_word : after (exec (.atomicReply 1) hostAtoming) (fun t => (t.thread 0 0).v 5 == 9 && memGet t.mem (keyHost + 0x1000) == 7 &&
    t.homeByte (keyHost + 0x1000) == 7) = true := by decide +kernel

/-- A core whose frames are taken by another workgroup, all but its first page locked, in a world without a backing area. -/
def packedEntry (n : Nat) : SttEntry := ⟨0, 1, 9, n, true, false, true, true, n, 0, 0⟩
def packedTo (m : Nat) : State := { paged with
  stt := (List.range m).map packedEntry, locks := [⟨99, 0, true, 9, 1024, 1536 * 1024, true, true⟩] }
def packed : State := packedTo 1536
theorem packed_frames (m : Nat) : ((packedTo m).stt.filter (fun x => x.core == 0 && x.present)).map (·.frame) = List.range m := by
  show (((List.range m).map packedEntry).filter _).map _ = _
  rw [List.filter_eq_self.2 (by simp [packedEntry]), List.map_map]
  exact List.map_id _
theorem packed_has_no_frame : packed.freeFrame 0 = none := by
  unfold State.freeFrame packed
  rw [packed_frames]
  refine List.find?_eq_none.2 fun n _ => ?_
  simp only [List.contains_eq_mem, List.mem_range, Config.frames]
  by_cases hn : n < 1536 <;> simp [hn]
def pageWaits : Page → Bool | .wait => true | _ => false
theorem no_backing {s : State} {w : Workgroup} {p : Nat} {x : SttEntry} {b : Bool} (h1 : s.stt? w.id p = none) (h2 : s.sttRoom w.home = true)
    (h3 : s.freeFrame w.home = none) (h4 : s.victim w.home w.id = some x) (h5 : s.evict x = none) : s.touchPages b [(w, p)] = .backing p := by
  simp [State.touchPages, State.touchPage, State.makeRoom, h1, h2, h3, h4, h5]
theorem packed_page_has_no_backing : packed.touchPages true [((envOf packed).w, 0)] = .backing 0 :=
  have hh : (envOf packed).w.home = 0 := by decide +kernel
  no_backing (x := packedEntry 0) (by decide +kernel) (by decide +kernel) (hh ▸ packed_has_no_frame) (by decide +kernel) (by decide +kernel)
/-- The page table names no page at 0x10000; a page of the pager that is out, and has room. -/
def absentPaged : State := State.scalars paged [(4, 0x10000)]
def outPaged : State := { paged with stt := [⟨0, 0, 0, 0, false, false, true, false, 0, 0, 0⟩] }
def absentConds (a : Access) : List (Nat × Cond) := absentPaged.ldstConds (envOf absentPaged) ga a (fm 2)
def absentAtoms : List (Nat × Cond) :=
  (absentPaged.lanesAsc (envOf absentPaged) ga).map (fun n => (n, absentPaged.globalCond (envOf absentPaged) .atomic
    (verNum (envOf absentPaged).l (absentPaged.thread 0 n).sub) ((envOf absentPaged).va (absentPaged.thread 0 n) fa.base fa.idx 0) 4 [(fa.d.toNat, 0)]))
theorem absent_pages_may_park :
    (Issuable absentPaged (envOf absentPaged) ga (.ld ga (fm 2)) ∧ Issuable absentPaged (envOf absentPaged) ga (.st ga (fm 2)) ∧
      Issuable absentPaged (envOf absentPaged) ga (.atom ga fa .cas)) ∧
    (∀ cs ∈ [absentConds .read, absentConds .write, absentAtoms], worst cs = none ∧ (∀ c ∈ cs, c.2.absent = none ∧ c.2.pages ≠ [] ∧ c.2.parks = true ∧ c.2.elems = []) ∧
      absentPaged.miss (envOf absentPaged) (linesOf ((cs.filter (fun c => !c.2.parks)).flatMap (fun c => c.2.elems))).length ≠ .reject) ∧
    absentPaged.lanes (envOf absentPaged) ga = [0] := by
  refine ⟨⟨issuable_of ?_, issuable_of ?_, issuable_of ?_⟩, ?_, ?_⟩ <;> decide +kernel
theorem test_absent_store_parks_and_records : after (exec (.st ga (fm 2)) absentPaged) (fun t =>
    (t.thread 0 0).status == .parked (.pages [0x10000]) && (t.thread 0 0).pc == 8 && t.flights.isEmpty &&
    t.worlds.any (fun w => w.2.waiting.map (fun r => (r.code, r.daddr, r.wr, r.lanes)) == [(0x30, 0, true, 1)])) = true := by decide +kernel
theorem scratchpad_pages_may_be_out :
    (∀ s ∈ [outPaged], Issuable s (envOf s) ga (.lds ga (fs 2)) ∧ s.space (envOf s) false ((envOf s).s 6) = some (envOf s).w ∧
      (s.spadConds (envOf s) ga .read (some (envOf s).w) (fun t => (envOf s).spadVa t 6 255 0) 4 (fun t => regsOf t 1 1)).map (fun c => (c.2.traps, c.2.elems.map (·.va))) = [([], [0x200])]) ∧
    pagesOf 0x200 4 = [0] ∧ pageWaits (outPaged.touchPages false [((envOf outPaged).w, 0)]) = true := by
  refine ⟨fun s h => ?_, ?_, ?_⟩
  · obtain rfl := List.mem_singleton.1 h
    exact ⟨issuable_of (by decide +kernel), by decide +kernel, by decide +kernel⟩
  · decide
  · decide +kernel
theorem scratchpad_pages_may_have_no_backing :
    Issuable packed (envOf packed) ga (.sts ga (fs 2)) ∧ packed.space (envOf packed) false ((envOf packed).s 6) = some (envOf packed).w ∧
    (packed.spadConds (envOf packed) ga .write (some (envOf packed).w) (fun t => (envOf packed).spadVa t 6 255 0) 4 (fun t => regsOf t 1 1)).map (fun c => (c.2.traps, c.2.elems.map (·.va))) = [([], [0x200])] ∧
    packed.touchPages true [((envOf packed).w, 0)] = .backing 0 :=
  ⟨issuable_of (by decide +kernel), by decide +kernel, by decide +kernel, packed_page_has_no_backing⟩

/-- Flights on a greenware page (G set in its PTE): a byte that is stored, a word that an atomic swaps; and a store of a shadow run, and one
that carries the rest of its word. -/
def greenPaged : State := paged.poke 0x31000 (2 ^ 63 + 2 ^ 62 + 2 ^ 55 + 2 ^ 54 + 2 ^ 53 + 2 ^ 52)
def greenStored : State := nextOf (exec (.storePerformed 1 false none) (nextOf (exec (.st ga ⟨1, 4, 255, 9, 0, 0, 0, 0, 0⟩) greenPaged)))
def greenAtoming : State := nextOf (exec (.atom ga fa .cas) greenPaged)
def shadowStored : State := { stored with launches := stored.launches.map (fun l => { l with shadowOf := some 7 }) }
def filledStored : State := { stored with flights := stored.flights.map (fun f => { f with elems := f.elems.map (fun x => { x with size := 1, fill := some 0x11223344 }) }) }
theorem stores_and_atomics_of_each_kind_may_perform :
    [greenStored, shadowStored, filledStored].all (fun s => (s.flight? 1).any (fun f => f.kind == .store && f.passed && (f.elems[0]?).any (fun x =>
      x.key % 4 + x.size ≤ 4 && decide (x.key < keySpad) && s.mayPerform f [x] && s.roomFor f [x] && !s.dropped (s.launchOf f).world f.num)) && s.injects.isEmpty) = true ∧
    (greenStored.flights.flatMap (fun f => f.elems)).all (fun x => x.green && x.fill.isNone) = true ∧ shadowStored.launches.all (fun l => l.shadowOf.isSome) = true ∧
    (filledStored.flights.flatMap (fun f => f.elems)).all (fun x => x.fill.isSome && !x.green) = true ∧
    (greenAtoming.flight? 1).any (fun f => (match f.kind with | .atomic .. => true | _ => false) && f.elems.length == 1 && (f.elems[0]?).any (fun x => x.green && x.fill.isNone &&
      x.key % 4 == 0 && greenAtoming.mayPerform f [x] && greenAtoming.roomFor f [x] && !greenAtoming.dropped (greenAtoming.launchOf f).world f.num)) = true ∧
    greenAtoming.injects = [] ∧ (storing.flight? 1).any (fun f => !storing.subBlocked f f.elems) = true := by decide +kernel
theorem test_greenware_writes_go_to_the_version :
    after (exec (.storePerformed 1 true (some 0)) greenStored) (fun t => t.versions.map (·.words) == [[(0x1008, 0xBB00)]] && wordAt t 0x1008 == 0) = true ∧
    after (exec (.atomicReply 1) greenAtoming) (fun t => t.versions.map (·.words) == [[(0x1000, 7)]] && wordAt t 0x1000 == 0x8899AABB) = true := by decide +kernel

/-- The line at 0x1000 is poisoned: the load's reply is an error, and an instruction that reads its register then traps. -/
def poisonedLoad : State := { loading with poison := [lineOf 0x1000] }
def poisonMarked : State := nextOf (exec (.poisonedReply ⟨1, false⟩) poisonedLoad)
theorem poisoned_reply_may_arrive :
    (poisonedLoad.flight? 1).any (fun f => f.kind == .load && !f.poisoned && !f.replay && poisonedLoad.depsMet f.deps &&
      f.elems.any (poisonedLoad.mayRefuse f false)) = true := by decide +kernel
def readsV5 : Instr := .mov ga ⟨6, 5, 0, 0, 0, 0, 0, 0⟩
/-- A load whose world's region no longer holds its address: the home refuses it. -/
def outsideLoad : State := { loading with worlds := loading.worlds.map (fun w => (w.1, { w.2 with qlimit := 1 })) }
theorem refused_reply_may_arrive :
    (outsideLoad.flight? 1).any (fun f => f.kind == .load && !f.poisoned && !f.replay && outsideLoad.depsMet f.deps && f.elems.any (outsideLoad.mayRefuse f true)) = true := by decide +kernel
theorem test_refused_reply_traps_prot : after (exec readsV5 (nextOf (exec (.poisonedReply ⟨1, true⟩) outsideLoad))) (fun t => t.worlds.all (fun w => w.2.waiting.map (·.code) == [0x23])) = true := by
  decide +kernel
theorem poison_hits_the_reader :
    poisonMarked.issuer.isSome = true ∧ poisonMarked.decodeTrap (envOf poisonMarked) readsV5 = none ∧
    poisonMarked.fallBad (envOf poisonMarked) readsV5 = none ∧ (poisonMarked.poisonHit (envOf poisonMarked) (readsV5.vregs 0 0) readsV5.preds).isSome = true := by
  decide +kernel
theorem poison_is_known : poisonMarked.condsKnown (envOf poisonMarked) ga readsV5 = true ∧ poisonMarked.raised = none ∧
    { poisonMarked with raised := some 1 }.raised ≠ none := by decide +kernel
theorem test_poison_traps_the_reader :
    after (exec readsV5 poisonMarked) (fun t => t.gangs.map (·.status) == [.trapped] && (t.thread 0 0).pc == 16) = true := by decide +kernel
def staleLine : State := { paged with l1 := [⟨3, 0, 32, [], 0⟩, ⟨4, 0, 33, [], 0⟩] }
theorem test_line_staleness_drop :
    staleLine.l1.any (fun x => x.id == 3) = true ∧ after (exec (.lineStalenessDrop 3) staleLine) (fun t => t.l1.map (·.id) == [4]) = true := by decide +kernel
theorem test_pref_changes_no_register : after (exec (.pref ga ⟨0, 4, 255, 0, 0, 0, 0, 0, 0⟩) paged) (fun t => t.flights.isEmpty && (t.thread 0 0).pc == 16) = true := by decide +kernel
theorem test_pgreq_of_an_absent_page_waits_for_nothing :
    after (exec (.pgreq ga ⟨0, 4, 255, 0, 0, 0, 0, 0, 0⟩) (State.scalars paged [(4, 0x10000)]))
      (fun t => (t.thread 0 0).status == .run && (t.thread 0 0).pc == 16 && t.worlds.any (fun w => w.2.waiting.length == 1)) = true := by decide +kernel
theorem test_ldfrag_fills_by_the_layout_word : after (exec (.ldfrag ga fragForm) fragState) (fun t => t.flights.any (fun f =>
    f.kind == .frag && f.elems.map (·.va) == [0] && f.elems.map (·.reg) == [5])) = true := by decide +kernel
/-! The matrix engine (spec 06). Slot 0 is BF16; the workgroup has two threads, so that one signature leaves the round open and two
complete it (absent ranks count as signed, R138). -/

def bf16Slot : Code := 0x1FF200006
def mxWords : List Code := listPut 0 (listPut 0 benchWords 18 bf16Slot) 19 bf16Slot
def mx (threads : Nat) (cv : Cv) : State :=
  let s := lab [0] true (fun _ x => (x.setV 16 0x3F803F80).setV 24 0x40004000)
  { s with launches := [{ benchLaunch 0 with words := mxWords }]
           wgs := [{ benchWg 0 with threads, cvs := cv :: List.replicate 15 ⟨0, 0, none, []⟩ }] }
def idleCv : Cv := ⟨32, 0, none, []⟩
def ft (mode : BitVec 2 := 0) (cl : BitVec 6 := 0) : FT := ⟨2, 0, 16, 24, 0, 0, 0, mode, cl⟩
/-- mmac: the source tile in B. -/
def ftc : FT := ⟨2, 0, 0, 24, 0, 0, 0, 0, 0⟩
def signTraps (s : State) (f : CvFields) : Option (Nat × Nat) := signTrap (envOf s) (s.lanes (envOf s) ga) ((envOf s).w.cv 0) f

theorem signing_may_complete_or_stay_open :
    (Issuable (mx 1 idleCv) (envOf (mx 1 idleCv)) ga (.mma ga (ft)) ∧ (envOf (mx 1 idleCv)).g.drawn = true ∧ signTraps (mx 1 idleCv) (cvFields false ft) = none) ∧
    (Issuable (mx 2 idleCv) (envOf (mx 2 idleCv)) ga (.mma ga (ft)) ∧ (envOf (mx 2 idleCv)).g.drawn = true ∧ signTraps (mx 2 idleCv) (cvFields false ft) = none) ∧
    (Issuable (mx 1 idleCv) (envOf (mx 1 idleCv)) ga (.mmac ga ftc) ∧ signTraps (mx 1 idleCv) (cvFields true ftc) = none) ∧
    Issuable (mx 2 idleCv) (envOf (mx 2 idleCv)) ga (.mmac ga ftc) ∧ signTraps (mx 2 idleCv) (cvFields true ftc) = none := by
  refine ⟨⟨issuable_of ?_, ?_, ?_⟩, ⟨issuable_of ?_, ?_, ?_⟩, ⟨issuable_of ?_, ?_⟩, issuable_of ?_, ?_⟩ <;> decide +kernel

/-- Each trap of a signing: an idle register of count 0 (CV), a tile past the declared (REG_RANGE), slots that serve no step (FMT_SLOT). -/
theorem signing_may_trap :
    Issuable (mx 1 ⟨0, 0, none, []⟩) (envOf (mx 1 ⟨0, 0, none, []⟩)) ga (.mma ga ft) ∧ signTraps (mx 1 ⟨0, 0, none, []⟩) (cvFields false ft) = some (0x12, 0) ∧
    signTraps (mx 1 idleCv) ⟨false, 0, 16 + 15, 0, 0, 0⟩ = none ∧
    signTrap { envOf (mx 1 idleCv) with l := { benchLaunch 0 with words := listPut 0 mxWords 3 (2 ^ 38) } } [0] idleCv (cvFields false ft) = some (0x04, 0) ∧
    signTraps (mx 1 idleCv) ⟨false, 0, 2, 3, 0, 0⟩ = some (0x10, 0) ∧ signTrap (envOf (mx 1 idleCv)) [] idleCv ⟨false, 0, 2, 3, 0, 0⟩ = some (0x10, 0) ∧
    signTrap (envOf (mx 1 idleCv)) [] idleCv (cvFields false ft) = none ∧ signTraps (mx 1 ⟨32, 1, none, []⟩) (cvFields false ft) = some (0x12, 0) := by
  refine ⟨issuable_of ?_, ?_, ?_, ?_, ?_, ?_, ?_, ?_⟩ <;> decide +kernel

/-- A scaled slot's entries (4 bytes, 32 rows of 2): inside the scratchpad, off their size, and past it. -/
theorem scales_may_trap : slotScale 0x29 ≠ 0 ∧ scaleUnit 0x29 * 32 * scaleRow 0x29 = 256 ∧ scaleTrap (benchLaunch 0) 0x29 0x1000 = none ∧
    scaleTrap (benchLaunch 0) 0x29 0x1002 = some (0x24, 0x1002) ∧ scaleTrap (benchLaunch 0) 0x29 ((benchLaunch 0).spad - 252) = some (0x20, (benchLaunch 0).spad) ∧
    256 ≤ (benchLaunch 0).spad := by decide +kernel

theorem test_mma_issues_the_step :
    after (exec (.mma ga ft) (mx 1 idleCv)) (fun t => t.tiles.any (fun o => o.tids == [0] && o.writes == [2] && o.reads == [2]) &&
      (t.thread 0 0).tl == 1 && (t.wgs.all (fun w => w.cv 0 == idleCv))) = true := by decide +kernel
theorem test_mmac_reads_its_source_tile :
    after (exec (.mmac ga ftc) (mx 1 idleCv)) (fun t => t.tiles.any (fun o => o.reads == [2, 0])) = true := by decide +kernel

/-- cvset: a new set, the same set again, a set with signatures in it, a set past the workgroup. -/
def cvForm (first : BitVec 8) (cl : BitVec 6) : FT := ⟨0, 0, first, 0, 0, 0, 0, 0, cl⟩
def signedCv : Cv := ⟨32, 0, some (cvFields false ft), [⟨0, 0, [], []⟩]⟩
theorem cvset_may_issue_in_each_case :
    Issuable (mx 32 idleCv) (envOf (mx 32 idleCv)) ga (.cvset ga (cvForm 0 0)) ∧ 0 * 32 + 32 ≤ 32 * (envOf (mx 32 idleCv)).w.groups ∧
    32 * (envOf (mx 32 idleCv)).w.groups < 1 * 32 + 32 ∧ cvCount (cvForm 0 0) = 32 ∧
    Issuable (mx 32 ⟨0, 0, none, []⟩) (envOf (mx 32 ⟨0, 0, none, []⟩)) ga (.cvset ga (cvForm 0 0)) ∧
    Issuable (mx 64 signedCv) (envOf (mx 64 signedCv)) ga (.cvset ga (cvForm 0 1)) ∧ signedCv.sigs ≠ [] ∧ cvCount (cvForm 0 1) ≠ signedCv.count := by
  refine ⟨issuable_of ?_, ?_, ?_, ?_, issuable_of ?_, issuable_of ?_, ?_, ?_⟩ <;> decide +kernel
theorem test_cvset_past_the_workgroup_traps :
    after (exec (.cvset ga (cvForm 1 0)) (mx 32 idleCv)) (fun t => t.gangs.map (·.status) == [.trapped]) = true := by decide +kernel

/-- Tile instructions: accz, mproj on a written tile and on one an operation still writes, accld and accst of a scratchpad extent. -/
def tileBench : State := State.scalars (mx 32 idleCv) [(6, 0x1000)]
def tileBusy : State := nextOf (exec (.accz ga ⟨2, 0, 0, 0, 0, 0, 0, 0, 0⟩) tileBench)
def projForm : FT := ⟨2, 0, 12, 1, 0, 0, 0, 0, 0⟩
def tmForm : FTM := ⟨2, 6, 255, 0, 1, 0⟩
theorem tile_instructions_may_issue :
    (Issuable tileBench (envOf tileBench) ga (.accz ga ⟨2, 0, 0, 0, 0, 0, 0, 0, 0⟩) ∧ tileBench.someLane (envOf tileBench) ga) ∧
    (Issuable tileBench (envOf tileBench) ga (.mproj ga projForm) ∧ tileBench.tilesWritten 0 [2] = true) ∧
    (Issuable tileBusy (envOf tileBusy) ga (.mproj ga projForm) ∧ tileBusy.tilesWritten 0 [2] = false) ∧
    (Issuable tileBench (envOf tileBench) ga (.accld ga tmForm) ∧ Issuable tileBench (envOf tileBench) ga (.accst ga tmForm) ∧
      (tileBench.tileConds (envOf tileBench) tmForm .read 0).2.2.clear ∧ (tileBench.tileConds (envOf tileBench) tmForm .write 0).2.2.clear ∧
      (tileBench.tileConds (envOf tileBench) tmForm .read 0).2.1 = some (envOf tileBench).w ∧
      ∃ p, tileBench.touchPages false ((pagesOf 0x1000 4096).map (fun p => ((envOf tileBench).w, p))) = .ready p) := by
  refine ⟨⟨issuable_of ?_, ?_⟩, ⟨issuable_of ?_, ?_⟩, ⟨issuable_of ?_, ?_⟩, issuable_of ?_, issuable_of ?_, ?_, ?_, ?_, ready_of ?_⟩ <;> decide +kernel

theorem accst_may_wait : Issuable tileBusy (envOf tileBusy) ga (.accst ga tmForm) ∧ tileBusy.someLane (envOf tileBusy) ga ∧ tileBusy.tilesWritten 0 (tilesFrom 2 1) = false := by
  refine ⟨issuable_of ?_, ?_, ?_⟩ <;> decide +kernel

def tileLoading : State := nextOf (exec (.accld ga tmForm) tileBench)
def tileStoring : State := nextOf (exec (.accst ga tmForm) { tileBench with wgs := tileBench.wgs.map (fun w => { w with acc := setElem [] 2 0 1 9 }) })
def projecting : State := nextOf (exec (.mproj ga projForm) tileBench)
def stepping : State := nextOf (exec (.mma ga ft) (mx 1 idleCv))
theorem tile_operations_may_perform :
    (stepping.tile? 1).any (fun o => stepping.tileReady o && (stepping.wg? o.wg).isSome && (match o.kind with | .step .. => true | _ => false)) = true ∧
    (tileBusy.tile? 1).any (fun o => tileBusy.tileReady o && (match o.kind with | .zero => true | _ => false)) = true ∧
    (projecting.tile? 1).any (fun o => projecting.tileReady o && (match o.kind with | .proj .. => true | _ => false)) = true ∧
    (tileLoading.tile? 1).any (fun o => tileLoading.tileReady o && (match o.kind with | .load _ keys => !keys.any tileLoading.errs | _ => false)) = true ∧
    (tileStoring.tile? 1).any (fun o => tileStoring.tileReady o &&
      (match o.kind with | .store (.spad _ _) keys _ => keys.all (fun k => decide (keySpad ≤ k) && !tileStoring.errs k) | _ => false)) = true := by
  decide +kernel
/-- Transfers of two words to and from global addresses; and a line of theirs poisoned. -/
def farMoving (kind : TileKind) : State := { paged with
  wgs := paged.wgs.map (fun w => { w with acc := setElem [] 2 0 1 9 }), tiles := [⟨1, 0, [0], [0], 8, kind, 0, [2], [], false, 0, 0, false, [], 0⟩] }
def farStoring : State := farMoving (.store (.va 0x1000) [0x1000, 0x1004] (some 0))
def farPoisoned : State := { farMoving (.load (.va 0x1000) [0x1000, 0x1004]) with poison := [lineOf 0x1000] }
theorem global_tile_transfers_may_perform :
    ((farStoring.tile? 1).any (fun o => farStoring.tileReady o && (match o.kind with | .store (.va _) keys _ => keys.all (fun k => decide (k < keySpad) && (farStoring.tileRefused 0 true k).isNone) &&
        (farStoring.tileElems ((farStoring.wg? 0).getD (benchWg 0)) 0 o (.va 0x1000) keys 2).all (fun x => !x.green) | _ => false)) = true ∧ farStoring.injects = []) ∧
    (farPoisoned.tile? 1).any (fun o => farPoisoned.tileReady o && (match o.kind with | .load _ keys => keys.any (fun k => (farPoisoned.tileRefused 0 false k).isSome) | _ => false)) = true := by
  decide +kernel
theorem test_accst_stores_at_a_global_address : after (exec (.tileTransferPerformed 1) farStoring) (fun t => wordAt t 0x1004 == 9 && wordAt t 0x1000 == 0 && t.tiles.isEmpty) = true ∧
    after (exec (.tileTransferPerformed 1) farPoisoned) (fun t => t.gangs.map (·.status) == [.trapped] && t.tiles.map (·.poisoned) == [true]) = true := by decide +kernel
def farGreen : State := farStoring.poke 0x31000 (2 ^ 63 + 2 ^ 62 + 2 ^ 55 + 2 ^ 54 + 2 ^ 53 + 2 ^ 52)
def farRefused : State := farMoving (.store (.va 0x1000) [0x1000, 0x4000000] (some 0))
theorem tile_stores_of_each_kind_may_perform :
    [farStoring, farGreen, farRefused].all (fun s => (s.tile? 1).any (fun o => s.tileReady o && (match o.kind with
      | .store (.va a) keys _ => keys.all (fun k => decide (k < keySpad)) && (s.tileElems ((s.wg? 0).getD (benchWg 0)) 0 o (.va a) keys 2).all (fun x =>
          !s.fifth 0 o.num x.key && !s.wordBusy o.core x.key)
      | _ => false) && !s.dropped 0 o.num)) = true ∧ farGreen.injects = [] ∧
    farGreen.tileRefused 0 true 0x1004 = none ∧ farRefused.tileRefused 0 true 0x1000 = none ∧ (farRefused.tileRefused 0 true 0x4000000).isSome = true := by decide +kernel
theorem test_accst_on_a_green_page_and_refused :
    after (exec (.tileTransferPerformed 1) farGreen) (fun t => t.versions.map (·.words) == [[(0x1000, 0), (0x1004, 9)]] && wordAt t 0x1004 == 0) = true ∧
    after (exec (.tileTransferPerformed 1) farRefused) (fun t => t.gangs.map (·.status) == [.trapped] && t.tiles.map (·.poisoned) == [true] && wordAt t 0x1000 == 0) = true := by decide +kernel
def nearStoring : State := farMoving (.store (.spad 0 0x100) [spadKey 0 0x100, spadKey 0 0x104] (some 0))
theorem near_tile_store_may_perform : (nearStoring.tile? 1).any (fun o => nearStoring.tileReady o && (match o.kind with
    | .store (.spad _ _) keys _ => keys.all (fun k => decide (keySpad ≤ k)) && decide (keys.Pairwise (fun x y => x + 4 ≤ y ∨ y + 4 ≤ x)) | _ => false)) = true := by
  decide +kernel
theorem test_accst_into_scratchpad : after (exec (.tileTransferPerformed 1) nearStoring) (fun t => memGet t.mem (spadKey 0 0x104) == 9) = true := by decide +kernel
theorem test_accst_elements : (tileStoring.tileElems ((tileStoring.wg? 0).getD (benchWg 0)) 0
    ⟨1, 0, [0], [0], 0, .zero, 0, [2], [], false, 0, 0, false, [], 0⟩ (.spad 0 0x1000) [100, 104] 2).map (fun x => (x.key, x.data)) = [(100, 0), (104, 9)] := by
  decide +kernel
theorem test_accld_performs : after (exec (.tileTransferPerformed 1) { tileLoading with mem := memPut [] (spadKey 0 0x1080) [5] }) (fun t =>
    t.wgs.all (fun w => w.elem 2 1 0 == 5)) = true := by decide +kernel
theorem test_accz_performs : after (exec (.tileTransferPerformed 1) { tileBusy with wgs := tileBusy.wgs.map (fun w => { w with acc := setElem (setElem [] 2 0 1 9) 3 0 0 7 }) })
    (fun t => t.wgs.all (fun w => w.elem 2 0 1 == 0 && w.elem 3 0 0 == 7)) = true := by decide +kernel
/-- One element of a BF16 step: 1 x 2 over sixteen places, on 0.5 (spec 04, R98 to R100). -/
theorem test_step_element :
    stepElem bf16Slot bf16Slot (List.replicate 16 0x3F80) (List.replicate 16 0x4000) (fun _ => (.nan, 0)) (fun _ => (.nan, 0)) 0x3F000000 = 0x42020000 := by decide +kernel
/-- The signs of the witness projection: SplitMix64's first output for seed 0 is 0xE220A8397B1DCDAF (spec 06, R160). -/
theorem test_projection_sign : mix64 0 1 = 0xE220A8397B1DCDAF ∧ projNeg 0 1 = true := by decide
/-! Control flow, barriers, groups and bins (spec 02, 03, 10). The code: a plain header at 0, its word at 8, a header at 16, a word at 24,
a header of KIND 01 at 32, an illegal header (LEN 0) at 40. Threads 0 and 1 stand at 8; p1 is set in thread 0 only. -/

def codedAs (first : Nat) (members : List Nat) (th : Nat → Thread → Thread) : State :=
  let s := State.reset.bench [first, 0, benchHeader, 0, benchHeader + 0x100, 0x7F * 2 ^ 57]
  { s with
    agenda := [], cur := some 0, clock := 200, groups := [labGroup members false]
    threads := members.map (fun n => (threadKey 0 n, { th n (benchThread.setP 1 (n == 0)) with status := .run })) }
def coded (members : List Nat) (th : Nat → Thread → Thread) : State := codedAs benchHeader members th
def two : State := coded [0, 1] (fun _ x => { x with stack := [16] })
/-- Their block's header names word 24, which is no header, as the place to reconverge; and one whose thread 0 has nothing to return to. -/
def badMerge : State := codedAs (benchHeader + 3 * 2 ^ 14) [0, 1] (fun _ x => { x with stack := [16] })
def noReturn : State := coded [0, 1] (fun n x => { x with stack := if n = 0 then [] else [16] })
def fullStack : State := coded [0, 1] (fun _ x => { x with stack := List.replicate 16 16 })
def gp : Guard := ⟨false, 1⟩
def fc (imm : Word) : FC := ⟨511, 0, imm⟩
def headerAt (s : State) (va : VA) : Bool := match s.atHeader (envOf s) va with | .inr _ => true | .inl _ => false
def wordAtVa (s : State) (va : VA) : Bool := match s.atHeader (envOf s) va with | .inl (.word _) => true | _ => false

theorem issuable_under {s : State} {g : Guard} {i : Instr} (h : (goes s i && i.guard? == some g) = true) : Issuable s (envOf s) g i := by
  simp only [Bool.and_eq_true, beq_iff_eq] at h
  obtain ⟨h1, h2⟩ := h
  unfold goes at h1
  split at h1
  · rename_i e g' he hg
    rw [h2] at hg; cases hg
    refine issuable_iff.2 ⟨by simp [envOf, he], ?_⟩
    simp only [envOf, he, Option.getD_some]
    split at h1
    · assumption
    · cases h1
  · cases h1

theorem branches_may_issue :
    (Issuable two (envOf two) gp (.br gp (fc 1)) ∧ Issuable two (envOf two) gp (.brc gp (fc 1)) ∧ Issuable two (envOf two) gp (.call gp (fc 1)) ∧
      Issuable two (envOf two) gp (.ret gp (fc 0))) ∧
    two.lanes (envOf two) gp = [0] ∧ two.offLanes (envOf two) gp = [1] ∧ headerAt two 16 = true ∧ (two.reconvOf (envOf two)).isNone = true ∧
    wordAtVa two 8 = true ∧ two.badReturns (envOf two) [0] = [] ∧ (two.thread 0 0).stack ≠ [] ∧ (two.thread 0 0).stack.length < 16 ∧
    two.reconvBad (envOf two) [0] [1] = [] ∧
    Issuable fullStack (envOf fullStack) gp (.call gp (fc 1)) ∧ 16 ≤ (fullStack.thread 0 0).stack.length ∧ fullStack.reconvBad (envOf fullStack) [0] [1] = [] ∧
    Issuable badMerge (envOf badMerge) gp (.br gp (fc 1)) ∧ headerAt badMerge 16 = true ∧ badMerge.reconvOf (envOf badMerge) = some 24 ∧ wordAtVa badMerge 24 = true ∧
    Issuable noReturn (envOf noReturn) gp (.ret gp (fc 0)) ∧ noReturn.badReturns (envOf noReturn) [0] = [] ∧ (noReturn.thread 0 0).stack = [] := by
  refine ⟨⟨issuable_under ?_, issuable_under ?_, issuable_under ?_, issuable_under ?_⟩, ?_, ?_, ?_, ?_, ?_, ?_, ?_, ?_, ?_, issuable_under ?_, ?_, ?_,
    issuable_under ?_, ?_, ?_, ?_, issuable_under ?_, ?_, ?_⟩ <;> decide +kernel

theorem test_br_divides_the_group :
    after (exec (.br gp (fc 1)) two) (fun t => (t.thread 0 0).pc == 16 && (t.thread 0 0).left == 0 && (t.thread 0 1).pc == 16 && (t.thread 0 1).left == 0 &&
      t.groups.map (·.members) == [[0], [1]]) = true := by decide +kernel
theorem test_br_to_a_word_traps : after (exec (.br ga (fc 0)) two) (fun t => t.gangs.map (·.status) == [.trapped] && (t.thread 0 0).pc == 8) = true := by decide +kernel
theorem test_brc_adds_the_register :
    after (exec (.brc ga ⟨7, 0, 0⟩) (State.scalars two [(7, 1)])) (fun t => (t.thread 0 1).pc == 16) = true := by decide +kernel
theorem test_call_pushes : after (exec (.call ga (fc 1)) two) (fun t => (t.thread 0 0).stack == [16, 16] && (t.thread 0 0).pc == 16) = true := by decide +kernel
theorem test_ret_pops : after (exec (.ret ga (fc 0)) two) (fun t => (t.thread 0 1).stack == [] && (t.thread 0 1).pc == 16) = true := by decide +kernel

def standing (pc : VA) (drawn : Bool) : State :=
  let s := coded [0, 1] (fun _ x => { x with pc, left := 0 })
  { s with groups := [labGroup [0, 1] drawn] }
theorem block_entries :
    headerAt (standing 0 false) 0 = true ∧ headerAt (standing 32 false) 32 = true ∧ headerAt (standing 40 false) 40 = true ∧
    after ((standing 0 false).blockEntry (envOf (standing 0 false))) (fun t => (t.thread 0 0).pc == 8 && (t.thread 0 1).left == 1) = true ∧
    after ((standing 32 false).blockEntry (envOf (standing 32 false))) (fun t => (t.thread 0 1).status == .filed && t.groups.isEmpty) = true ∧
    after ((standing 32 true).blockEntry (envOf (standing 32 true))) (fun t => (t.thread 0 1).pc == 40 && (t.thread 0 1).left == 1) = true ∧
    after ((standing 40 false).blockEntry (envOf (standing 40 false))) (fun t => t.gangs.map (·.status) == [.trapped]) = true := by decide +kernel

theorem reform_exit_yield_nop_and_trap_may_issue :
    (∀ i ∈ [Instr.reform gp (fc 0), .exit gp (fc 0), .yield gp (fc 0), .nop gp (fc 0), .trap gp (fc 7)], Issuable two (envOf two) gp i) ∧
    two.someLane (envOf two) gp ∧ two.pendingPoison 0 [0] true true = none := by
  refine ⟨fun i h => ?_, ?_, ?_⟩
  · simp only [List.mem_cons, List.not_mem_nil, or_false] at h
    obtain rfl | rfl | rfl | rfl | rfl := h <;> exact issuable_under (by decide +kernel)
  · decide +kernel
  · decide +kernel
theorem test_reform_files : after (exec (.reform gp (fc 0)) two) (fun t => (t.thread 0 0).status == .filed && (t.thread 0 1).status == .run &&
    t.bins.all (fun b => b.pc == 16 && b.entries == [(0, 200)]) && t.groups.map (·.members) == [[1]]) = true := by decide +kernel
theorem test_exit_ends : after (exec (.exit gp (fc 0)) two) (fun t => (t.thread 0 0).status == .ended && t.groups.map (·.members) == [[1]]) = true := by decide +kernel
theorem test_yield_restamps : after (exec (.yield ga (fc 0)) two) (fun t => t.groups.map (·.stamp) == [200]) = true := by decide +kernel
theorem test_nop_moves_on : after (exec (.nop ga (fc 0)) two) (fun t => (t.thread 0 0).pc == 16) = true := by decide +kernel
theorem test_trap_then_resume : after (exec (.trapResume 0) (nextOf (exec (.trap ga (fc 7)) two)))
    (fun t => (t.thread 0 0).pc == 16 && t.gangs.map (·.status) == [.running]) = true := by decide +kernel

/-- wait for st at most 1 (bit 20 and bits [19:14]): met at 1, not at 2; and a poisoned store. -/
def waitForm : FC := fc (2 ^ 20 + 1 * 2 ^ 14)
def waiting (st : BitVec 6) : State := lab [0] false (fun _ x => { x with st })
def someFlight (kind : FlightKind) (poisoned : Bool) : Flight :=
  { id := 70, wg := 0, gang := 0, launch := 0, part := 0, tids := [0], iaddr := 8, kind, elems := [⟨0x1000, 0x1000, 4, 5, 5, false, none⟩], sx := false
    pred := none, inLd := false, scope := 0, acq := false, rel := false, spad := false, core := 0, world := 0, version := none, otag := 0
    passed := false, passOrder := 0, batch := 70, replay := false, poisoned, denied := false, taken := false, lines := [], reserve := false, deps := [] }
def poisonedStore : State := { waiting 1 with flights := [someFlight .store true] }
theorem wait_may_complete_hold_or_trap :
    (Issuable (waiting 1) (envOf (waiting 1)) ga (.wait ga waitForm) ∧ (waiting 1).pendingPoison 0 [0] false true = none ∧
      waitForm.imm.getLsbD 20 = true ∧ (waitForm.imm.extractLsb' 14 6).toNat = 1) ∧
    Issuable (waiting 2) (envOf (waiting 2)) ga (.wait ga waitForm) ∧
    Issuable poisonedStore (envOf poisonedStore) ga (.wait ga waitForm) ∧ (poisonedStore.pendingPoison 0 [0] false true).isSome = true := by
  refine ⟨⟨issuable_of ?_, ?_, ?_, ?_⟩, issuable_of ?_, issuable_of ?_, ?_⟩ <;> decide +kernel
theorem test_wait_at_the_limit : after (exec (.wait ga waitForm) (waiting 1)) (fun t => (t.thread 0 0).pc == 16) = true := by decide +kernel
theorem test_wait_beyond_holds : after (exec (.wait ga waitForm) (waiting 2)) (fun t => (t.thread 0 0).pc == 8 && t.groups.all (·.held)) = true := by decide +kernel

/-- A workgroup of one thread completes barrier 0 alone; one of two does not. -/
def bars (threads : Nat) (b : Barrier) (owed : List (Nat × Word)) : State :=
  let s := State.scalars (lab [0] false (fun _ x => { x with owed })) [(7, 0xFFFFFF)]
  { s with threads := s.threads ++ [(1, benchThread)], wgs := s.wgs.map (fun w => { w with threads, bars := b :: List.replicate 15 Barrier.new }) }
theorem bar_may_complete_or_wait :
    (Issuable (bars 1 ⟨5, [], 0⟩ []) (envOf (bars 1 ⟨5, [], 0⟩ [])) ga (.bar ga (fc 0)) ∧ barTrap (envOf (bars 1 ⟨5, [], 0⟩ [])) (fc 0) [0] = none ∧
      (bars 1 ⟨5, [], 0⟩ []).released 0 0 0 = true ∧
      ((bars 1 ⟨5, [], 0⟩ []).arrive (envOf (bars 1 ⟨5, [], 0⟩ [])).w 0 0 [0]).barDone (benchLaunch 0) (envOf (bars 1 ⟨5, [], 0⟩ [])).w 0 0 = true) ∧
    Issuable (bars 2 ⟨5, [], 0⟩ []) (envOf (bars 2 ⟨5, [], 0⟩ [])) ga (.bar ga (fc 0)) ∧
    ((bars 2 ⟨5, [], 0⟩ []).arrive (envOf (bars 2 ⟨5, [], 0⟩ [])).w 0 0 [0]).barDone (benchLaunch 0) (envOf (bars 2 ⟨5, [], 0⟩ [])).w 0 0 = false := by
  refine ⟨⟨issuable_of ?_, ?_, ?_, ?_⟩, issuable_of ?_, ?_⟩ <;> decide +kernel
theorem test_bar_completes : after (exec (.bar ga (fc 0)) (bars 1 ⟨5, [], 0⟩ [])) (fun t => t.wgs.all (fun w => (listGet Barrier.new w.bars 0).phase == 6) &&
    (t.thread 0 0).pc == 16) = true := by decide +kernel
theorem test_bar_waits : after (exec (.bar ga (fc 0)) (bars 2 ⟨5, [], 0⟩ [])) (fun t => (t.thread 0 0).hold == some (0, 5) && (t.thread 0 0).pc == 8) = true := by decide +kernel

/-- barx at its bounds: an expectation that fits exactly, one that overflows by one, one with bit 24 set, and a second arrival. -/
def barxForm : FC := ⟨7, 0, 0⟩
theorem barx_in_each_case :
    (Issuable (bars 2 ⟨5, [], 0⟩ []) (envOf (bars 2 ⟨5, [], 0⟩ [])) ga (.barx ga barxForm) ∧ ((envOf (bars 2 ⟨5, [], 0⟩ [])).s 7).toNat = 16777215) ∧
    (Issuable (bars 2 ⟨5, [], 1⟩ []) (envOf (bars 2 ⟨5, [], 1⟩ [])) ga (.barx ga barxForm) ∧ 16777215 < (1 : BitVec 24).toNat + 16777215) ∧
    (Issuable (bars 2 ⟨5, [], 0⟩ [(0, 5)]) (envOf (bars 2 ⟨5, [], 0⟩ [(0, 5)])) ga (.barx ga barxForm)) ∧
    (Issuable (State.scalars (bars 2 ⟨5, [], 0⟩ []) [(7, 0x1000000)]) (envOf (State.scalars (bars 2 ⟨5, [], 0⟩ []) [(7, 0x1000000)])) ga (.barx ga barxForm)) := by
  refine ⟨⟨issuable_of ?_, ?_⟩, ⟨issuable_of ?_, ?_⟩, issuable_of ?_, issuable_of ?_⟩ <;> decide +kernel
theorem test_barx_posts : after (exec (.barx ga barxForm) (bars 2 ⟨5, [], 0⟩ [])) (fun t => t.wgs.all (fun w => listGet Barrier.new w.bars 0 == ⟨5, [0], 0xFFFFFF⟩) &&
    (t.thread 0 0).owed == [(0, 5)]) = true := by decide +kernel
theorem test_barx_overflow_traps : after (exec (.barx ga barxForm) (bars 2 ⟨5, [], 1⟩ [])) (fun t => t.gangs.map (·.status) == [.trapped] &&
    t.wgs.all (fun w => listGet Barrier.new w.bars 0 == ⟨5, [], 1⟩)) = true := by decide +kernel

/-! Events of groups, bins and power. -/

def parked : State := { coded [] (fun _ x => x) with groups := [], threads := [(threadKey 0 0, { benchThread with status := .parked (.pages [0]) })] }
def binned (clock : Nat) (entries : List (Nat × Nat)) (aged : Bool) (groups : List Group) : State :=
  { coded [0, 1] (fun _ x => { x with status := .filed }) with
    clock, groups, bins := [⟨5, 0, 0, 0, 8, entries, aged, none, none⟩]
    threads := [(threadKey 0 0, { benchThread with status := .filed }), (threadKey 0 1, { benchThread with status := .filed })] }
theorem refile_draw_age_and_dissolve_may_happen :
    (parked.resolved (benchWg 0) (parked.worldOfWg 0) ((benchWg 0).seat 0).1 0 (.pages [0]) = true ∧ (parked.wg? 0).isSome = true) ∧
    ((binned 200 [(0, 72)] true []).drawOf ⟨5, 0, 0, 0, 8, [(0, 72)], true, none, none⟩ = some (0, 72, [0]) ∧
      (binned 200 [(0, 72)] true []).firstDraw ⟨5, 0, 0, 0, 8, [(0, 72)], true, none, none⟩ 0 72 = true) ∧
    (binned 200 [(0, 72)] false []).mayAge ⟨5, 0, 0, 0, 8, [(0, 72)], false, none, none⟩ = true ∧ (binned 199 [(0, 72)] false []).mayAge ⟨5, 0, 0, 0, 8, [(0, 72)], false, none, none⟩ = false := by
  decide +kernel
/-- Every group record taken: the bin's draw has not yet been tried, and has waited 128 clocks. -/
def crowdedSince (since : Option Nat) : State :=
  let s := binned 328 [(0, 72)] true ((List.range 128).map (fun n => ⟨n, 0, 0, 0, [1], 10 + n, false, false, 0, 0, false, []⟩))
  { s with bins := s.bins.map (fun b => { b with waitAt := since }) }
def crowded : State := crowdedSince (some 200)
theorem dissolve_may_happen : (crowded.oldestGroup 0 0).any (fun x => x.id == 0) = true ∧ Config.groupRecords ≤ crowded.groupCount 0 0 ∧
    (crowded.bins.any (fun b => b.core == 0 && b.part == 0 && (crowded.drawOf b).isSome && (b.waitAt).any (fun c => decide (c + 128 ≤ crowded.clock)))) = true ∧
    (crowdedSince none).bins.any (fun b => (crowdedSince none).drawOf b == some (0, 72, [0]) && (crowdedSince none).firstDraw b 0 72 && b.waitAt == none) = true ∧
    Config.groupRecords ≤ (crowdedSince none).groupCount 0 0 := by decide +kernel
theorem test_refile : after (exec (.parkedThreadRefile 0 0) parked) (fun t => (t.thread 0 0).status == .filed && t.bins.all (fun b => b.pc == 8)) = true := by decide +kernel
theorem test_bin_draw : after (exec (.binDraw 5) (binned 200 [(0, 72), (1, 90)] true [])) (fun t => t.groups.map (·.members) == [[0, 1]] && t.bins.isEmpty) = true := by decide +kernel
theorem test_bin_aged : after (exec (.binAged 5) (binned 200 [(0, 72)] false [])) (fun t => t.bins.all (·.aged)) = true := by decide +kernel
theorem test_group_dissolve : after (exec (.groupDissolve 0 0) crowded) (fun t => t.groups.length == 127 && t.bins.length == 1 && t.bins.all (fun b => b.entries.length == 2)) = true ∧
    isRefused (exec (.groupDissolve 0 0) (crowdedSince (some 201))) = true := by decide +kernel
theorem test_draw_without_a_record_waits : after (exec (.binDraw 5) (crowdedSince none)) (fun t => t.bins.map (·.waitAt) == [some 328] && t.groups.length == 128) = true := by
  decide +kernel

def powered (credits : Nat) (cost : Nat) : State := { State.reset with clock := 1024, dies := State.reset.dies.map (fun d => { d with credits, leaves := [⟨cost, false, 9, 0⟩] }) }
theorem leave_grants : ((powered 8 8).die 0).leaves = [⟨8, false, 9, 0⟩] ∧ (8 : Nat) ≤ ((powered 8 8).die 0).credits ∧ ((powered 7 8).die 0).credits < 8 ∧
    bucketMax < 5000 ∧ ((powered 4096 5000).die 0).credits = bucketMax ∧ ((powered 8 8).die 0).refilled + 1024 ≤ (powered 8 8).clock := by decide
theorem test_leave_grant : after (exec (.leaveGrant 0) (powered 8 8)) (fun t => (t.die 0).credits == 0 && (t.die 0).leaves.isEmpty) = true := by decide
theorem test_power_credit_refill : after (exec (.powerCreditRefill 3) (powered 8 8)) (fun t => (t.die 3).credits == 45 && (t.die 2).credits == 8) = true := by decide

/-! The copy engine, rings, hand and take (spec 08; 07). -/

/-- cpy of 64 bytes from 0x1000 to scratchpad 0x200; two rings of two stages of 64 bytes at 0x400. -/
def cpyForm : FMC := ⟨6, 511, 4, 511, 16⟩
def copying : State := nextOf (exec (.cpy ga cpyForm) paged)
def copied : State := nextOf (engineMove copying 1 0 16 0 16)
def ringed : State := paged.modWg 0 (fun w => { w with rings := [⟨0x400, 2, 64, 0, 0, 0, []⟩, ⟨0x400, 2, 64, 0, 1, 0, [0]⟩] })
def ringForm (k : BitVec 12) : FMC := ⟨511, 4, 511, 511, 16 + k⟩
/-- A layout word of 32 by 32 bytes at scratchpad 0x800; the index of one row in scratchpad byte 0x200 (s6), s10 = 1. -/
def engined : State := State.scalars ringed [(8, 0x800 + 2 ^ 24), (9, 2 ^ 17), (10, 1)]
def lwForm : FMC := ⟨8, 511, 4, 511, 8⟩
def gatherForm : FMC := ⟨511, 4, 6, 10, 16⟩
def binsForm : FMC := ⟨511, 4, 6, 10, 16⟩
def eE : Env := envOf engined

theorem copies_may_issue :
    (engined.someLane eE ga ∧ engined.engineFull eE.g.core = false ∧ engined.lanes eE ga = [0]) ∧
    (Issuable engined eE ga (.cpy ga cpyForm) ∧ lowestTrap (rightsTrap eE [0] ++ ((engined.cpySides eE cpyForm).1.2 ++ (engined.cpySides eE cpyForm).2.2)) = none) ∧
    (Issuable engined eE ga (.cpyRing ga (ringForm 0)) ∧ (eE.ring (ringForm 0)).isSome = true ∧ lowestTrap (rightsTrap eE [0] ++ ringTraps eE (ringForm 0)) = none) ∧
    (Issuable engined eE ga (.cpyg ga gatherForm) ∧ lowestTrap (rightsTrap eE [0] ++ cpygTraps engined eE gatherForm) = none ∧ (eE.s 10).toNat = 1 ∧
      engined.depsMet (engined.depsOf 0 0 ⟨.copy, 0, false, false, [(spadKey 0 0x200, 4)], true, false, none⟩) = true ∧
      isReady (engined.touchPages false [(eE.w, 0)]) = true ∧ pagesOf 0x200 4 = [0]) ∧
    (Issuable engined eE ga (.cpyb ga binsForm) ∧ lowestTrap (rightsTrap eE [0] ++ cpybTraps engined eE binsForm) = none ∧
      engined.depsMet (engined.depsOf 0 0 ⟨.copy, 0, false, false, [(spadKey 0 0x200, 1)], true, false, none⟩) = true) := by
  refine ⟨?_, ⟨issuable_of ?_, ?_⟩, ⟨issuable_of ?_, ?_, ?_⟩, ⟨issuable_of ?_, ?_, ?_, ?_, ?_, ?_⟩, ⟨issuable_of ?_, ?_, ?_⟩⟩ <;> decide +kernel
theorem cpy_lw_may_issue : Issuable engined eE ga (.cpyLw ga lwForm) ∧ lowestTrap (rightsTrap eE [0] ++ lwTraps eE lwForm) = none :=
  ⟨issuable_of (by decide +kernel), by decide +kernel⟩
/-- The bins of row 0 (bin 0) and the overflow bin are read and clear. -/
theorem cpyb_bins_are_there :
    (match engined.touchPages false [(eE.w, 0)] with
     | .ready p => ([p.spadNat eE 0x200 1, 255].all (fun b => decide (p.binEntry eE 0x1000 b).1.clear && !p.binAway eE 0x1000 b)) && (p.arrivalFor eE.gang).isSome
     | _ => false) = true := by decide +kernel
/-- Every arrival entry is reserved for another world, so that the gang gets none; and a `cpyb` of no token, with and without one. -/
def exhausted (s : State) : State := { s with worlds := s.worlds ++ [(1, { World.new with acquota := 65536 })] }
def noBins : FMC := ⟨511, 4, 6, 511, 16⟩
theorem cpyb_of_no_token_may_issue :
    (Issuable engined eE ga (.cpyb ga noBins) ∧ (eE.s 511).toNat = 0 ∧ lowestTrap (rightsTrap eE [0] ++ cpybTraps engined eE noBins) = none ∧ (engined.arrivalFor eE.gang).isSome = true ∧
      (match engined.touchPages false ((pagesOf 0x200 0).map (fun p => (eE.w, p))) with
       | .ready p => decide (p.binEntry eE 0x1000 255).1.clear && !p.binAway eE 0x1000 255
       | _ => false) = true) ∧
    (let s := exhausted engined
     Issuable s (envOf s) ga (.cpyb ga noBins) ∧ lowestTrap (rightsTrap (envOf s) [0] ++ cpybTraps s (envOf s) noBins) = none ∧ (s.arrivalFor (envOf s).gang).isNone = true) := by
  refine ⟨⟨issuable_of ?_, ?_, ?_, ?_, ?_⟩, issuable_of ?_, ?_, ?_⟩ <;> decide +kernel
/-- Outside the producer home group, and with a queue of 32. -/
def otherGroup : State := { lab [40] true (fun _ x => x) with wgs := [{ benchWg 0 with threads := 64, cores := [0, 0] }] }
def fullEngine : State := { paged with engines := List.replicate 32 (copying.engines.headD ⟨0, 0, 0, 0, 0, 0, 0, [], 0, .copy, [], [], [], [], [], 0, .queued, false, none, 0, 0, 0, 0, [], []⟩) }
theorem copies_may_be_turned_away :
    (Issuable otherGroup (envOf otherGroup) ga (.cpy ga cpyForm) ∧ 40 ∈ otherGroup.lanes (envOf otherGroup) ga ∧ 40 / 32 ≠ (envOf otherGroup).l.producer) ∧
    (Issuable fullEngine (envOf fullEngine) ga (.cpy ga cpyForm) ∧ 32 ≤ (fullEngine.engines.filter (fun o => o.core == 0 && !fullEngine.recorded o)).length ∧
      lowestTrap (rightsTrap (envOf fullEngine) [0] ++ ((fullEngine.cpySides (envOf fullEngine) cpyForm).1.2 ++ (fullEngine.cpySides (envOf fullEngine) cpyForm).2.2)) = none) := by
  refine ⟨⟨issuable_of ?_, ?_, ?_⟩, issuable_of ?_, ?_, ?_⟩ <;> decide +kernel
theorem test_cpy_locks_both_ranges : copying.locks.map (fun k => (k.spad, k.lo, k.hi, k.dst)) = [(false, 0x1000, 0x1100, false), (true, 0x200, 0x240, true)] := by
  decide +kernel
theorem test_copy_moves_and_completes :
    after (exec (.copyComplete 1) copied) (fun t => memNat t.mem (spadKey 0 0x200) 4 == 0x8899AABB && (t.thread 0 0).cp == 0 && t.locks.isEmpty) = true := by
  decide +kernel
/-- A queued copy into a free slot of a ring whose stages are of 128 bytes: the whole slot is its destination. -/
def slotting : State := nextOf (exec (.cpyRing ga (ringForm 0)) (paged.modWg 0 (fun w => { w with rings := [⟨0x400, 2, 128, 0, 0, 0, []⟩] })))
def slotless : State := { slotting with locks := [] }
theorem a_slot_may_be_registered : slotless.engines.all (fun o => o.wg == 0 && (match o.kind with | .ring 0 _ => true | _ => false) && o.stage == .queued && slotless.ringFree o) = true ∧
    slotless.engines.length = 1 ∧ slotless.locks = [] ∧ (slotless.wg? 0).any (fun w => w.rings.map (·.bytes) == [128]) = true := by decide +kernel
theorem test_a_slot_is_locked_whole : slotting.locks.map (fun k => (k.spad, k.lo, k.hi, k.dst)) = [(false, 0x1000, 0x1100, false), (true, 0x400, 0x480, true)] := by decide +kernel
theorem test_cpy_ring_takes_the_next_slot : after (exec (.cpyRing ga (ringForm 0)) ringed) (fun t =>
    t.wgs.all (fun w => w.rings.map (·.i) == [1, 0]) && (t.engines.map (·.segs)) == [[⟨.va 0x1000, .spad 0 0x400, 64⟩]]) = true := by decide +kernel
theorem test_cpyg_gathers_a_row : after (exec (.cpyg ga gatherForm) engined) (fun t => (t.engines.map (·.segs)) == [[⟨.va 0x1000, .spad 0 0, 64⟩]]) = true := by
  decide +kernel
theorem test_cpyb_takes_its_rows : after (exec (.cpyb ga binsForm) engined) (fun t => (t.engines.map (·.rows)) == [[(0, .spad 0 0)]]) = true := by decide +kernel

/-- A ring whose sequence 0 has landed (1), one whose has not (0), and one the thread has released already. -/
def waitRing (k : BitVec 12) : FMC := ⟨511, 511, 511, 511, k⟩
theorem ring_waits_and_releases :
    (Issuable ringed (envOf ringed) ga (.stwait ga (waitRing 1)) ∧ ((envOf ringed).ring (waitRing 1)).any (fun r => decide (0 < (r.f - (envOf ringed).s 511).toInt)) = true) ∧
    (Issuable ringed (envOf ringed) ga (.stwait ga (waitRing 0)) ∧ ((envOf ringed).ring (waitRing 0)).any (fun r => decide ((r.f - (envOf ringed).s 511).toInt ≤ 0)) = true) ∧
    (Issuable ringed (envOf ringed) ga (.stwait ga (waitRing 2)) ∧ (envOf ringed).ring (waitRing 2) = none) ∧
    (Issuable ringed (envOf ringed) ga (.strel ga (waitRing 0)) ∧ ((envOf ringed).ring (waitRing 0)).any (fun r => ((envOf ringed).s 511 - r.e).toInt == 0 && r.arrived == []) = true ∧
      ringed.released 0 0 0 = true) ∧
    (Issuable ringed (envOf ringed) ga (.strel ga (waitRing 1)) ∧ ((envOf ringed).ring (waitRing 1)).any (fun r => r.arrived.contains 0) = true) ∧
    (Issuable engined eE ga (.strel ga ⟨10, 511, 511, 511, 0⟩) ∧ (eE.ring (waitRing 0)).any (fun r => decide (0 < (eE.s 10 - r.e).toInt)) = true) := by
  refine ⟨⟨issuable_of ?_, ?_⟩, ⟨issuable_of ?_, ?_⟩, ⟨issuable_of ?_, ?_⟩, ⟨issuable_of ?_, ?_, ?_⟩, ⟨issuable_of ?_, ?_⟩, issuable_of ?_, ?_⟩ <;> decide +kernel
theorem test_stwait : after (exec (.stwait ga (waitRing 1)) ringed) (fun t => (t.thread 0 0).pc == 16) = true ∧
    after (exec (.stwait ga (waitRing 0)) ringed) (fun t => (t.thread 0 0).pc == 8 && t.groups.all (·.held)) = true := by decide +kernel
theorem test_strel : after (exec (.strel ga (waitRing 0)) ringed) (fun t => t.wgs.all (fun w => w.rings.map (fun r => (r.e, r.arrived)) == [(1, []), (0, [0])])) = true ∧
    after (exec (.strel ga (waitRing 1)) ringed) (fun t => t.gangs.map (·.status) == [.trapped]) = true := by decide +kernel

/-- Engine operations that have moved everything, of each kind, and one with its source to read. -/
def engineAt (f : EngineOp → EngineOp) (s : State) : State := { s with engines := s.engines.map f }
def asRing : State := engineAt (fun o => { o with kind := .ring 0 0 }) { copied with wgs := ringed.wgs }
def within : State := engineAt (fun o => { o with segs := [⟨.spad 0 0x200, .spad 0 0x240, 64⟩], todo := [⟨.spad 0 0x200, .spad 0 0x240, 64⟩], stage := .running }) copying
theorem engine_operations_may_complete :
    (copied.engine? 1).any (fun o => o.stage == .running && o.todo == [] && o.buf == [] && o.rows == [] && !copied.overdue o && o.kind == .copy) = true ∧
    (asRing.engine? 1).any (fun o => o.stage == .running && o.todo == [] && o.buf == [] && o.rows == [] && !asRing.overdue o && o.kind == .ring 0 0 &&
      (asRing.wg? 0).any (fun w => (w.rings[0]?).any (fun r => r.f == 0))) = true ∧
    copied.wgs.any (fun w => w.id == 0) = true ∧ within.stt = [] ∧
    (within.engine? 1).any (fun o => o.stage == .running && o.todo == [⟨.spad 0 0x200, .spad 0 0x240, 64⟩] && o.buf == [] && o.rows == [] && o.skip == [] &&
      !within.overdue o && o.kind == .copy) = true := by decide +kernel
theorem test_ring_sequence_landed : after (exec (.ringSequenceLanded 1) asRing) (fun t => t.wgs.all (fun w => (w.rings.map (·.f))[0]? == some 1)) = true := by decide +kernel
theorem test_source_range_released : after (exec (.sourceRangeReleased 1) copied) (fun t => t.locks.map (·.dst) == [true]) = true := by decide +kernel

/-- An engine at a page that is not mapped, one that waits for a page that is, and one whose gang has halted. -/
def denied : State := engineAt (fun o => { o with stage := .running, todo := [⟨.va 0x1000, .spad 0 0x200, 4⟩] }) { copying with poison := [lineOf 0x1000] }
def waitingEngine : State := engineAt (fun o => { o with stage := .waitPage 0x1000 }) copying
def haltedCopy : State := { copying with clock := 512, gangs := [{ benchGang 0 with status := .halting }] }
theorem engine_waits_and_stops :
    (waitingEngine.engine? 1).any (fun o => o.stage == .waitPage 0x1000 && (match waitingEngine.translate o.core o.world 0x1000 with | .ok _ => true | .error _ => false)) = true ∧
    (denied.engine? 1).any (fun o => o.stage == .running && ((denied.nextMet o).findSome? (NextReq.atPeer none)) == some (Met.deny 0x25 0x1000 false false)) = true ∧
    (haltedCopy.engine? 1).any (fun o => o.restarts && o.stage == .queued && o.haltAt == 0 && decide (o.haltAt + 512 ≤ haltedCopy.clock) && (haltedCopy.gang? o.gang).any (fun x => x.status == .halting)) = true := by
  decide +kernel
theorem test_engine_page_resident : after (exec (.enginePageResident 1) waitingEngine) (fun t => t.engines.map (·.stage) == [.queued]) = true := by decide +kernel
theorem test_engine_stop : after (exec (.engineStop ⟨1, none⟩) denied) (fun t => t.engines.map (·.stage) == [.stopped] && t.gangs.map (·.status) == [.trapped]) = true := by
  decide +kernel
theorem test_copy_restart_timeout : after (exec (.copyRestartTimeout 1) haltedCopy) (fun t => t.engines.map (·.stage) == [.halted]) = true := by decide +kernel

/-- hand of the page at 0 to owner 3 with its flag at 0x1000; and 65 pages. -/
def handState : State := State.scalars paged [(10, 1), (11, 65)]
def handForm : FMC := ⟨12, 10, 4, 10, 3 * 8 + 3⟩
def handState0 : State := State.scalars handState [(12, 0)]
def eH : Env := envOf handState0
theorem hand_and_take_may_issue :
    (Issuable handState0 eH ga (.hand ga handForm) ∧ handState0.someLane eH ga ∧ eH.l.shadowOf = none ∧ (eH.s 10).toNat = 1 ∧ eH.pair 12 % 2 ^ 56 = 0 ∧
      handState0.handPages eH handForm = (16, [0]) ∧ (handState0.handCond eH 16 0).clear ∧
      (handState0.globalCond eH .write 0 (eH.pair 4 % 2 ^ 56) 4 [(255, eH.s 10)]).clear ∧ handState0.undrained (handState0.locKeys 0 0 (.va 0, 65536)) = false ∧
      handState0.depsMet (handState0.depsOf 0 0 ⟨.hand, 3, false, true, (0x1000, 4) :: handState0.locKeys 0 0 (.va 0, 65536), false, true, none⟩) = true ∧
      handState0.miss eH 1 ≠ .reject) ∧
    (Issuable paged eP ga (.take ga ⟨5, 4, 511, 511, 3⟩) ∧ (paged.globalCond eP .read 0 (eP.pair 4 % 2 ^ 56) 4 [(5, 0)]).clear ∧
      paged.miss eP 1 ≠ .reject) := by
  refine ⟨⟨issuable_of ?_, ?_, ?_, ?_, ?_, ?_, ?_, ?_, ?_, ?_, ?_⟩, issuable_of ?_, ?_, ?_⟩ <;> decide +kernel
theorem test_hand_changes_the_tag :
    after (exec (.hand ga handForm) handState0) (fun t => memNat t.mem 0x31000 8 == memNat paged.mem 0x31000 8 % 2 ^ 56 + memNat paged.mem 0x31000 8 / 2 ^ 60 * 2 ^ 60 + 3 * 2 ^ 56 &&
      (t.thread 0 0).st == 1) = true := by decide +kernel
theorem test_hand_of_65_pages_traps : after (exec (.hand ga ⟨12, 11, 4, 10, 27⟩) handState) (fun t => t.gangs.map (·.status) == [.trapped]) = true := by decide +kernel
theorem test_take_acquires : after (exec (.take ga ⟨5, 4, 511, 511, 3⟩) paged) (fun t => t.flights.map (fun f => (f.acq, f.scope)) == [(true, 3)] && (t.thread 0 0).ld == 1) = true := by decide +kernel

/-! The fabric, collective transfers and messages (spec 09). -/

/-- The gang holds arrival entry 5: counter 3 stands at 1 of 2, counter 4 at 2 of 2, counter 5 at its largest count. -/
def counted : State :=
  let s := State.scalars paged [(10, 64), (11, 2), (14, 0x40), (20, 4)]
  { s with
    gangs := [{ benchGang 0 with arrival := some 5 }]
    iod := { s.iod with arrivals := [⟨5, 0, 0, List.replicate 3 0 ++ [1, 2, 0xFFFFFE] ++ List.replicate 10 0, List.replicate 3 0 ++ [2, 2, 0] ++ List.replicate 10 0, true, [4]⟩] } }
def eC : Env := envOf counted
/-- 64 bytes from scratchpad 0x200 to 0x1000, and the same bytes sent to chip 0. -/
def bulkForm : FMC := ⟨4, 6, 10, 511, 4⟩
def sendForm : FMC := ⟨6, 511, 11, 10, 1⟩
def shadowed (s : State) : State := { s with launches := [{ benchLaunch 0 with shadowOf := some 9 }] }

theorem bulk_and_send_may_issue :
    (Issuable counted eC ga (.bulk ga bulkForm) ∧ lowestTrap (rightsTrap eC [0] ++ bulkTraps counted eC bulkForm) = none ∧ (eC.s 10).toNat = 64 ∧
      eC.l.shadowOf = none ∧ (counted.arrivalFor eC.gang).isSome = true ∧ counted.engineFull 0 = false ∧ counted.lanes eC ga = [0]) ∧
    (Issuable counted eC ga (.bulk ga ⟨4, 6, 511, 511, 4⟩) ∧ lowestTrap (rightsTrap eC [0] ++ bulkTraps counted eC ⟨4, 6, 511, 511, 4⟩) = none) ∧
    (Issuable counted eC ga (.send ga sendForm) ∧ lowestTrap (rightsTrap eC [0] ++ sendTraps counted eC sendForm) = none) ∧
    (Issuable (shadowed counted) (envOf (shadowed counted)) ga (.send ga sendForm) ∧ (envOf (shadowed counted)).l.shadowOf = some 9) := by
  refine ⟨⟨issuable_of ?_, ?_, ?_, ?_, ?_, ?_, ?_⟩, ⟨issuable_of ?_, ?_⟩, ⟨issuable_of ?_, ?_⟩, issuable_of ?_, ?_⟩ <;> decide +kernel
/-- The gang's first bulk or send where no entry is free: both are held. -/
def entryless : State := exhausted { counted with gangs := [benchGang 0], iod := { counted.iod with arrivals := [] } }
theorem bulk_and_send_may_be_held :
    (Issuable entryless (envOf entryless) ga (.bulk ga bulkForm) ∧ lowestTrap (rightsTrap (envOf entryless) [0] ++ bulkTraps entryless (envOf entryless) bulkForm) = none) ∧
    (Issuable entryless (envOf entryless) ga (.send ga sendForm) ∧ lowestTrap (rightsTrap (envOf entryless) [0] ++ sendTraps entryless (envOf entryless) sendForm) = none) ∧
    (entryless.arrivalFor (envOf entryless).gang).isNone = true := by
  refine ⟨⟨issuable_of ?_, ?_⟩, ⟨issuable_of ?_, ?_⟩, ?_⟩ <;> decide +kernel
theorem test_bulk_queues : after (exec (.bulk ga bulkForm) counted) (fun t => t.engines.map (fun o => (o.kind, o.segs)) ==
    [(.bulk 0 0 false 0 0 0, [⟨.spad 0 0x200, .va 0x1000, 64⟩])] && (t.thread 0 0).cp == 1) = true := by decide +kernel
theorem test_send_queues : after (exec (.send ga sendForm) counted) (fun t => t.engines.map (·.kind) == [.send false 0 2 64]) = true := by decide +kernel

/-- acset of counter 3 with target 2 into s7; the same of target 2^24 traps; acwait below, at and above its target. -/
theorem counters_may_issue :
    (Issuable counted eC ga (.acset ga ⟨7, 11, 511, 511, 3⟩) ∧ (eC.s 11).toNat < 2 ^ 24 ∧ eC.gang.arrival = some 5 ∧ counted.iod.arrivals.all (fun a => a.gang == eC.gang.id) = true) ∧
    (Issuable counted eC ga (.acwait ga ⟨511, 511, 511, 511, 4⟩) ∧ (∀ n ∈ counted.lanes eC ga, counted.mayAcquire eC.w.id n (counted.arrivalScope eC.gang.id 4) = true) ∧ counted.arrivalScope eC.gang.id 4 = 3 ∧ counted.arrivalScope eC.gang.id 3 = 0 ∧
      (counted.iod.arrivals.find? (fun a => a.gang == eC.gang.id)).any (fun a => (listGet 0 a.targets 4).toNat == (listGet 0 a.counts 4).toNat) = true) ∧
    (Issuable counted eC ga (.acwait ga ⟨511, 511, 511, 511, 3⟩) ∧
      (counted.iod.arrivals.find? (fun a => a.gang == eC.gang.id)).any (fun a => decide ((listGet 0 a.counts 3).toNat < (listGet 0 a.targets 3).toNat)) = true) := by
  refine ⟨⟨issuable_of ?_, ?_, ?_, ?_⟩, ⟨issuable_of ?_, ?_, ?_, ?_, ?_⟩, issuable_of ?_, ?_⟩ <;> decide +kernel
theorem test_acset : after (exec (.acset ga ⟨7, 11, 511, 511, 3⟩) counted) (fun t => t.iod.arrivals.map (fun a => (listGet 0 a.counts 3, listGet 0 a.targets 3)) == [(0, 2)] &&
    t.wgs.all (fun w => w.s 0 7 == 0x53)) = true := by decide +kernel
theorem test_acwait : after (exec (.acwait ga ⟨511, 511, 511, 511, 4⟩) counted) (fun t => (t.thread 0 0).pc == 16) = true ∧
    after (exec (.acwait ga ⟨511, 511, 511, 511, 3⟩) counted) (fun t => (t.thread 0 0).pc == 8 && t.groups.all (·.held)) = true := by decide +kernel
theorem test_arrivals_saturate : ((counted.addArrival true 5 0 5 2).iod.arrivals.map (fun a => (listGet 0 a.counts 5, a.bulked))) = [(0xFFFFFF, [4, 5])] ∧
    (counted.addArrival true 6 0 5 2).iod.dropped = 1 := by decide +kernel

/-- A line for this chip from chip 1, and one of an operation; a bulk operation all of whose lines are acknowledged. -/
def lineOf4 (op : Option Nat) : BulkLine := ⟨7, 0, 0, 0x1000, some 0x1000, false, [1, 2, 3, 4], true, 0x53, none, op, 1, none, false, none⟩
def arriving (op : Option Nat) : State := { counted with iod := { counted.iod with bulk := [lineOf4 op] } }
def bulking : State := engineAt (fun o => { o with stage := .running, todo := [], sent := 1, acked := 0 }) (nextOf (exec (.bulk ga bulkForm) (arriving (some 1))))
def bulked : State := engineAt (fun o => { o with acked := 1 }) bulking
/-- The last line of a peer operation whose range is locked here; and the operation's line to chip 2, which is reached. -/
def lastLine : State := { arriving none with
  iod := { (arriving none).iod with bulk := [{ lineOf4 none with owner := some 900, last := true }] }, locks := [⟨900, 0, false, 0, 0x1000, 0x1100, true, some false⟩] }
def awayLine : State := { bulking with iod := { bulking.iod with bulk := [{ lineOf4 (some 1) with dst := 2, key := none }], routing := [(2, 2 ^ 63 + 1)], links := [⟨true, 0, 0, false, 0, 0, some 2, none, 0⟩] }, checker := { bulking.checker with admitted := [2] } }
theorem lines_may_arrive :
    ((arriving none).iod.bulk.find? (fun x => x.id == 7)).any (fun x => x.dst == (arriving none).me && x.op == none && x.key == some 0x1000) = true ∧
    (arriving none).refuses 0x1000 = false ∧ (arriving none).outside 0 0x1000 = false ∧ (arriving none).lineRoom (lineOf4 none) 0x1000 = true ∧
    (arriving none).lineTag (lineOf4 none) 0x1000 = true ∧ (arriving none).lineBehind (lineOf4 none) 0x1000 = false ∧ (arriving none).lineHeld (lineOf4 none) 0x1000 = false ∧
    lastLine.lineHeld { lineOf4 none with owner := some 900, last := true } 0x1000 = false ∧ awayLine.answers 0 2 = true ∧
    bulking.lineBehind (lineOf4 (some 1)) 0x1000 = false ∧ bulking.lineHeld (lineOf4 (some 1)) 0x1000 = false ∧
    bulking.refuses 0x1000 = false ∧ bulking.outside 0 0x1000 = false ∧ bulking.lineFull (lineOf4 (some 1)) 0x1000 false = false ∧
    bulking.lineRoom (lineOf4 (some 1)) 0x1000 = true ∧ (bulking.engine? 1).isSome = true ∧
    lastLine.iod.bulk.map (fun x => (x.owner, x.last)) = [(some 900, true)] ∧ lastLine.refuses 0x1000 = false ∧ lastLine.outside 0 0x1000 = false ∧
    lastLine.lineRoom { lineOf4 none with owner := some 900, last := true } 0x1000 = true ∧
    awayLine.iod.bulk.map (fun x => (x.id, x.dst, x.op)) = [(7, 2, some 1)] ∧ awayLine.me = 0 ∧ awayLine.reachable 2 = true ∧ awayLine.crosses 2 = true ∧ (awayLine.engine? 1).isSome = true ∧
    (bulking.iod.bulk.find? (fun x => x.id == 7)).any (fun x => x.dst == bulking.me && x.op == some 1 && x.key == some 0x1000) = true ∧
    (bulked.engine? 1).any (fun o => o.kind == .bulk 0 0 false 0 0 0 && o.stage == .running && o.todo == [] && o.buf == [] && o.acked == o.sent) = true := by
  decide +kernel
theorem test_bulk_line_arrival : after (exec (.bulkLineArrival ⟨7, none⟩) (arriving none)) (fun t => wordAt t 0x1000 == 0x04030201 && t.iod.bulk.isEmpty &&
    t.iod.arrivals.map (fun a => listGet 0 a.counts 3) == [5] && t.iod.replies == [.peer 1 0 0 []]) = true := by decide +kernel
theorem test_last_line_frees_its_range : after (exec (.bulkLineArrival ⟨7, none⟩) lastLine) (fun t => t.locks.isEmpty) = true := by decide +kernel
theorem test_line_away : after (exec (.bulkLineArrival ⟨7, none⟩) awayLine) (fun t => t.engines.map (·.acked) == [1] && t.iod.bulk.isEmpty) = true ∧
    after (exec (.bulkLineArrival ⟨7, some 0x23⟩) awayLine) (fun t => t.engines.map (·.stage) == [.stopped] && t.gangs.map (·.status) == [.trapped]) = true := by decide +kernel
theorem test_bulk_complete : after (exec (.bulkComplete 1) bulked) (fun t => t.engines.isEmpty && (t.thread 0 0).cp == 0) = true := by decide +kernel

/-- A reduction of chips 0 and 1: 1 + 2 and 0xFFFFFFFF + 2, by rank. -/
def redGroup : CollGroup := ⟨true, 0, true, [0, 1], 0, [0, 0]⟩
def redState : State := { counted with iod := { counted.iod with coll := [(2, redGroup)], red := [⟨2, 3, 0, 0, 1, 0, 0x1000, false, [1, 0, 0, 0, 255, 255, 255, 255]⟩] } }
def redParts : List RedPart := [⟨0, 0, [1, 0, 0, 0, 255, 255, 255, 255]⟩, ⟨1, 0, [2, 0, 0, 0, 2, 0, 0, 0]⟩]
theorem reduction_may_combine :
    redState.collGroup 0 2 true = some redGroup ∧ redParts.length = redGroup.chips.length ∧
    (redState.iod.red.find? (fun x => x.group == 2 && x.turn == 3 && x.pos == 0)).any (fun x => x.world == 0 && redParts.all (fun p => p.data.length == x.data.length && p.op == x.code) &&
      redParts.any (fun p => p.rank == redGroup.rank && p.op == x.code && p.data == x.data)) = true ∧ (List.range 2).all (fun r => redParts.any (fun p => p.rank == r)) = true := by
  decide +kernel
theorem test_reduction_combine : after (exec (.reductionCombine ⟨2, 3⟩ 0 redParts) redState) (fun t => t.iod.bulk.map (fun y => (y.dst, y.va, y.data)) ==
    [(0, 0x1000, [3, 0, 0, 0, 1, 0, 0, 0])] && t.iod.red.isEmpty) = true ∧ isRefused (exec (.reductionCombine ⟨2, 0⟩ 0 redParts) redState) = true := by decide +kernel

/-- Chip 1 is admitted to world 0 by the byte at 0x8000 (peer table number 64), chip 2 is not; chip 3 is not admitted to this chip. -/
def peered : State :=
  let s := paged.poke 0x8000 2
  { s with worlds := s.worlds.map (fun w => (w.1, { w.2 with peertab := 2 ^ 31 + 64 })), checker := { s.checker with admitted := [1, 2] } }
def packet (src seq addr : Nat) (kind : PacketKind) : Packet := ⟨0, src, seq, 1, BitVec.ofNat 52 addr, false, kind⟩
/-- A write of the line's first bytes under their enables; the packet in a receive port; and at its home. -/
def writing (xs : List Byte) (en : BitVec 128) : PacketKind := .write (xs ++ List.replicate (128 - xs.length) 0) en
def porting (p : Packet) : State := { peered with iod := { peered.iod with ports := [⟨0, false, .request p⟩] } }
def homed (p : Packet) : State := { peered with iod := { peered.iod with atHome := [(p, 0x1000)] } }
def read1 (seq : Nat) : Packet := packet 1 seq 0x1000 .read
def write1 : Packet := packet 1 0 0x1000 (writing [1, 2] 1)
def atom1 : Packet := packet 1 0 0x1000 (.atomic .add 0 1 0)
theorem packets_may_arrive :
    peered.powered = true ∧ peered.me = 0 ∧ tabGet 0 (seqKey 0 1) peered.iod.gotSeq = 0 ∧ peered.iod.reorder = [] ∧ peered.checker.admitted.contains 1 = true ∧
    peered.checker.admitted.contains 3 = false ∧ peered.liveWorld 0 = true ∧ peered.peerAdmits 0 1 = true ∧ peered.peerAdmits 0 2 = false ∧
    (peered.world? 0).any (fun w => w.place 0x1000 == some 0x1000) = true ∧
    ([read1 0, read1 2047, write1, atom1, packet 2 0 0x1000 .read, packet 3 0 0x1000 .read].all (fun p => ((porting p).waiting? (.request p)).isSome)) = true := by decide +kernel
theorem homes_may_perform :
    ([read1 0, write1, atom1].all (fun p => (homed p).iod.atHome[0]? == some (p, 0x1000) && !(homed p).errs 0x1000 && !(homed p).refuses 0x1000 && !(homed p).outside 0 0x1000)) = true ∧
    keyAbsent 0x1000 = false ∧ (homed write1).tagAdmits 0 0x1000 = true ∧ (homed atom1).tagAdmits 0 0x1000 = true ∧
    ([read1 0, write1, atom1].all (fun p => !(homed p).packetHeld p 0x1000)) = true ∧
    ([read1 0, write1, atom1].all (fun p => !(homed p).behindAtHome 0 1 0 (keyDie 0x1000))) = true ∧ (List.replicate 128 (0 : Byte)).length = 128 := by decide +kernel
theorem test_packet_is_presented : after (exec (.fabricPacketArrival write1) (porting write1)) (fun t => t.iod.atHome == [(write1, 0x1000)] && t.iod.ports.isEmpty && t.mem == peered.mem) = true := by
  decide +kernel
theorem test_packet_write_under_enables : after (homeMove (homed write1) 0)
    (fun t => wordAt t 0x1000 == 0x8899AA01 && t.iod.replies == [.peer 1 0 0 []]) = true := by decide +kernel
theorem test_packet_atomic_answers : after (homeMove (homed atom1) 0)
    (fun t => wordAt t 0x1000 == 0x8899AABC && t.iod.replies == [.peer 1 0 0 [0xBB, 0xAA, 0x99, 0x88]]) = true := by decide +kernel
theorem test_packet_read_answers_its_line : after (homeMove (homed (read1 0)) 0) (fun t =>
    t.iod.replies == [.peer 1 0 0 ([0xBB, 0xAA, 0x99, 0x88] ++ List.replicate 124 0)]) = true := by decide +kernel
theorem test_packet_out_of_turn_waits : after (exec (.fabricPacketArrival (read1 2047)) (porting (read1 2047))) (fun t => t.iod.reorder.length == 1) = true ∧
    isRefused (exec (.fabricPacketArrival (read1 2048)) (porting (read1 2048))) = true := by decide +kernel
theorem test_packet_refused : after (exec (.fabricPacketArrival (packet 2 0 0x1000 .read)) (porting (packet 2 0 0x1000 .read)))
    (fun t => t.mem == peered.mem && t.iod.replies == [.peer 2 0 0x23 []]) = true := by decide +kernel

/-- Two writes that may merge, and links at the edges of their rules. -/
def merging : State := { peered with iod := { peered.iod with reorder := [packet 1 1 0x1000 (writing [1, 2] 3), packet 1 2 0x1000 (writing [3, 4] 2)] } }
def evidence (root : Nat) : PeerEvidence := ⟨1, root, true, true, [1, 1, 1, 1, 1]⟩
def linkOf (replays : Nat) (root : Option Nat) : Link := ⟨true, replays, 0, false, 9, 4, root.map (fun _ => 1), root.map evidence, 0⟩
def linked : State := { peered with
  iod := { peered.iod with links := [linkOf 16 (some 4), linkOf 15 none, linkOf 0 (some 5)] }, checker := { peered.checker with roots := [4], minima := [1, 1, 1, 1, 1] } }
theorem links_and_merging :
    (merging.iod.reorder[0]?).any (fun p => (merging.iod.reorder.find? (fun q => q.world == p.world && q.src == p.src && q.seq == p.seq + p.covers)).any
      (fun q => (mergePackets p q).any (fun m => m.covers == 2))) = true ∧
    linked.link? 0 = some (linkOf 16 (some 4)) ∧ linked.link? 1 = some (linkOf 15 none) ∧ linked.link? 2 = some (linkOf 0 (some 5)) ∧
    linked.checker.accepts (evidence 4) = true ∧ linked.checker.accepts (evidence 5) = false := by decide +kernel
theorem test_write_merge : after (exec (.writeMerge 0) merging) (fun t => t.iod.reorder == [{ packet 1 1 0x1000 (writing [1, 4] 3) with covers := 2 }]) = true := by decide +kernel
theorem test_flit_replay : after (exec (.flitReplay 1) linked) (fun t => (t.iod.links.map (·.replays)) == [16, 16, 0]) = true ∧
    after (flitsMove linked (.qormon 1) 64 0 5) (fun t => t.iod.links.map (fun x => (x.replays, x.unacked, x.counter, x.counterIn)) == [(16, 0, 9, 4), (0, 64, 73, 9), (0, 0, 9, 4)]) = true ∧
    after (flitsMove linked (.qormon 1) 65 0 0) (fun t => t == linked) = true := by decide +kernel
theorem test_link_taken_down : after (exec (.linkTakenDown 0) linked) (fun t => (t.iod.links.map (·.up)) == [false, true, true]) = true ∧
    isRefused (exec (.linkTakenDown 1) linked) = true := by decide +kernel
theorem test_link_rekey : after (exec (.linkRekey 0) linked) (fun t => t.link? 0 == some { linkOf 16 (some 4) with slot := true, counter := 0, counterIn := 0 }) = true ∧
    after (exec (.linkRekey 2) linked) (fun t => (t.iod.links.map (·.up)) == [true, true, false] && t.checker.admitted == [2]) = true := by decide +kernel
theorem test_peer_admission : after (exec (.peerAdmission 1 { evidence 4 with chip := 7 }) linked) (fun t => t.checker.admitted.contains 7) = true ∧
    after (exec (.peerAdmission 0 (evidence 5)) linked) (fun t => !t.checker.admitted.contains 1 && (t.iod.links.map (·.up)) == [false, true, true]) = true := by decide +kernel
/-- A port slot: one of 128 shared ones, and past them one of the world's own two. -/
def portsAt (n : Nat) : State := { linked with iod := { linked.iod with ports := List.replicate n ⟨0, false, .request (read1 9)⟩ } }
theorem test_receive_takes_a_slot : after (receiveMove linked 0 (.request (read1 0))) (fun t => t.iod.ports == [⟨0, false, .request (read1 0)⟩]) = true ∧
    (portsAt 127).portSlot 0 0 0 = some false ∧ (portsAt 128).portSlot 0 0 0 = some true ∧
    (portsAt 128).portSlot 0 0 1 = some false := by decide +kernel

/-- A posted receive of one byte run at scratchpad 0x100 that takes tag 7 from any source. -/
def byteLayout : BitVec 96 := BitVec.ofNat 96 (0x100 + 2 ^ 24 + 256 * 2 ^ 44)
def posted (status : RStatus) : Receive := ⟨20, 0x99, 0, 0, 8, 0, byteLayout, 4, 7, 0, 0x1FFF, 0, none, 4, 1, [], 0, [], none, status⟩
def withReceive (xs : List Receive) (un : List Message) (s : State) : State := { s with worlds := s.worlds.map (fun w => (w.1, { w.2 with posted := xs, unexp := un })) }
def message (tag : Word) (op : Option Nat) (src : BitVec 13) : Message := ⟨0, src, tag, 4, op, match op with | none => [1, 2, 3, 4] | some _ => []⟩
def sending : State := engineAt (fun o => { o with kind := .send false 0 7 4, bytes := 4, segs := [⟨.spad 0 0x200, .spad 0 0x200, 4⟩], todo := [⟨.spad 0 0x200, .spad 0 0x200, 4⟩], stage := .running })
  (withReceive [posted .posted] [] (nextOf (exec (.send ga sendForm) counted)))
def unread : State := withReceive [] (List.replicate 1024 (message 9 none 1)) sending
def framed : State := let s := withReceive [] [] peered; { s with iod := { s.iod with endpoints := [(6, ⟨0xA, 80, true, 0, 2⟩)], resend := [(message 7 (some 1) 0, 1)] } }
def refusedAgain : State := withReceive [] (List.replicate 1024 (message 9 none 1)) framed
def frame (port seq : Nat) : Frame := ⟨0, 0xA, port, seq, message 7 none 0⟩
/-- A peer's header in a receive port; of chip 2, whom the world does not admit; and of chip 1 where the unexpected queue is full. -/
def hailing (src : BitVec 13) (un : Nat) : State :=
  let s := withReceive [] (List.replicate un (message 9 none 1)) peered
  { s with iod := { s.iod with ports := [⟨0, false, .message (message 7 none src)⟩] } }
theorem headers_may_arrive :
    (sending.engine? 1).isSome = true ∧ sending.ownHeader (message 7 (some 1) 0) 1 = true ∧ (sending.takeHeader (message 7 (some 1) 0)).isSome = true ∧
    unread.ownHeader (message 7 (some 1) 0) 1 = true ∧ (unread.takeHeader (message 7 (some 1) 0)).isNone = true ∧
    (sending.world? 0).any (fun w => (w.postedList.find? (fun r => r.matches (message 7 none 1))) == some (posted .posted) &&
      (w.postedList.find? (fun r => r.matches (message 8 none 1))) == none && decide (w.unexp.length < 1024)) = true ∧
    ([hailing 1 0, hailing 1 1024].all (fun s => (s.waiting? (.message (message 7 none 1))).isSome && s.checker.admitted.contains 1 && s.liveWorld 0 && s.peerAdmits 0 1)) = true ∧
    ((hailing 1 0).takeHeader (message 7 none 1)).isSome = true ∧ ((hailing 1 1024).takeHeader (message 7 none 1)).isNone = true ∧
    ((hailing 2 0).waiting? (.message (message 7 none 2))).isSome = true ∧ (hailing 2 0).checker.admitted.contains 2 = true ∧ (hailing 2 0).peerAdmits 0 2 = false ∧
    [(hailing 1 0, message 7 none 1), (hailing 1 1024, message 7 none 1), (hailing 2 0, message 7 none 2)].all (fun x => x.1.headerFirst x.2) = true ∧
    sending.iod.resend = [] ∧ framed.powered = true ∧ (framed.iod.eth[0]?).any (·.up) = true ∧ framed.liveWorld 0 = true ∧
    (frame 80 2).msg.size = (frame 80 2).msg.data.length ∧
    (framed.iod.endpoints.find? (fun x => x.2.live && x.2.addr == 0xA && x.2.port == 80)).isSome = true ∧
    (framed.iod.endpoints.find? (fun x => x.2.live && x.2.addr == 0xA && x.2.port == 81)).isNone = true ∧
    (framed.takeHeader { message 7 none 0 with src := 4102 }).isSome = true ∧
    ((framed.iod.resend.find? (fun x => x.1.op == some 1 && x.2 ≤ framed.clock)).isSome && (framed.takeHeader (message 7 (some 1) 0)).isSome) = true ∧
    ((refusedAgain.iod.resend.find? (fun x => x.1.op == some 1 && x.2 ≤ refusedAgain.clock)).isSome && (refusedAgain.takeHeader (message 7 (some 1) 0)).isNone) = true := by
  decide +kernel
theorem test_header_is_taken_by_the_receive : after (exec (.messageHeaderArrival (message 7 (some 1) 0)) sending)
    (fun t => t.worlds.all (fun w => w.2.posted.map (·.status) == [.matched (message 7 (some 1) 0)]) && t.engines.map (·.sent) == [1]) = true := by decide +kernel
theorem test_header_that_finds_no_room_comes_again : after (exec (.messageHeaderArrival (message 7 (some 1) 0)) unread)
    (fun t => t.iod.resend.map (·.2) == [unread.clock + 1024]) = true := by decide +kernel
theorem test_peer_headers : after (exec (.messageHeaderArrival (message 7 none 1)) (hailing 1 0)) (fun t => t.iod.ports.isEmpty && t.worlds.all (fun w => w.2.unexp.length == 1)) = true ∧
    after (exec (.messageHeaderArrival (message 7 none 1)) (hailing 1 1024)) (fun t => t.iod.ports.isEmpty && t.worlds.all (fun w => w.2.unexp.length == 1024)) = true ∧
    after (exec (.messageHeaderArrival (message 7 none 2)) (hailing 2 0)) (fun t => t.iod.replies == [.peer 2 0 0x23 []] && t.worlds.all (fun w => w.2.unexp.isEmpty)) = true := by
  decide +kernel
theorem test_message_resend : after (exec (.messageResend 1) framed) (fun t => t.iod.resend.isEmpty && t.worlds.all (fun w => w.2.unexp.length == 1)) = true ∧
    after (exec (.messageResend 1) refusedAgain) (fun t => t.iod.resend.map (·.2) == [refusedAgain.clock + 1024]) = true := by decide +kernel
theorem test_eth_frame_arrival : after (exec (.ethFrameArrival (frame 80 2)) framed) (fun t => t.worlds.all (fun w => w.2.unexp.map (·.src) == [4102]) &&
      t.iod.endpoints.map (fun x => x.2.got) == [3]) = true ∧
    after (exec (.ethFrameArrival (frame 80 3)) framed) (fun t => t == framed) = true ∧
    after (exec (.ethFrameArrival (frame 81 2)) framed) (fun t => t.iod.ethDropped == 1) = true := by decide +kernel
def ethSend : State := engineAt (fun o => { o with kind := .send true 6 7 4 }) sending
theorem test_eth_retransmit : after (exec (.ethRetransmit 1) ethSend) (fun t => t.engines == ethSend.engines && t.mem == ethSend.mem) = true := by decide +kernel

/-- A descriptor at s32: 4 bytes in a row at scratchpad 0x100, capacity 4, tag 7, any source. -/
def describing (c : Word) : State := State.scalars paged [(32, 0x01000100), (33, 0x100000), (34, 0), (35, 4), (36, 7), (37, 0), (38, c), (39, 0x10004), (7, 0x99)]
def postForm : FMC := ⟨8, 32, 511, 511, 0⟩
def eQ : Env := envOf (describing 0x3FFE000)
theorem post_may_issue :
    Issuable (describing 0x3FFE000) eQ ga (.post ga postForm) ∧ (eQ.desc postForm 6).getLsbD 31 = false ∧ descX eQ postForm = 4 ∧ descY eQ postForm = 1 ∧
    (layoutOf (eQ.layoutNat 32)).ok = true ∧ tensorBounds (layoutOf (eQ.layoutNat 32)) 4 1 4 = (0x100, 0x104) ∧ 0x104 ≤ eQ.l.spad ∧ eQ.l.shadowOf = none ∧
    (describing 0x3FFE000).lockRoom 0 true 0 = true ∧ ((describing 0x3FFE000).world? 0).any (fun w => w.posted == []) = true ∧ (describing 0x3FFE000).flights = [] := by
  refine ⟨issuable_of ?_, ?_, ?_, ?_, ?_, ?_, ?_, ?_, ?_, ?_, ?_⟩ <;> decide +kernel
theorem test_post : after (exec (.post ga postForm) (describing 0x3FFE000)) (fun t => t.worlds.all (fun w => w.2.posted.map (fun r => (r.cap, r.tag, r.smask, r.xext)) == [(4, 7, 0x1FFF, 4)]) &&
    t.locks.map (fun k => (k.spad, k.lo, k.hi, k.dst)) == [(true, 0x100, 0x140, true)]) = true ∧
    after (exec (.post ga postForm) (describing 0x80000000)) (fun t => t.gangs.map (·.status) == [.trapped]) = true := by decide +kernel
/-- The handle 0x99 in s7; its receive posted, complete with 4 bytes, or cancelled. -/
def reporting (status : RStatus) : State := withReceive [posted status] [] (describing 0)
def statusForm : FMC := ⟨8, 7, 511, 511, 0⟩
def cancelForm : FMC := ⟨7, 511, 511, 511, 0⟩
theorem status_may_be_read :
    (Issuable (reporting .posted) (envOf (reporting .posted)) ga (.rprobe ga statusForm) ∧
      ((reporting .posted).receive? (envOf (reporting .posted)) ((envOf (reporting .posted)).s 7)).any (fun r => !r.over) = true) ∧
    Issuable (reporting .posted) (envOf (reporting .posted)) ga (.rwait ga statusForm) ∧
    (Issuable (reporting .cancelled) (envOf (reporting .cancelled)) ga (.rwait ga statusForm) ∧
      ((reporting .cancelled).receive? (envOf (reporting .cancelled)) ((envOf (reporting .cancelled)).s 7)).any (fun r => r.over) = true) ∧
    (Issuable (reporting .posted) (envOf (reporting .posted)) ga (.rcancel ga cancelForm)) ∧
    (Issuable (describing 0) (envOf (describing 0)) ga (.rcancel ga cancelForm) ∧ ((describing 0).receive? (envOf (describing 0)) ((envOf (describing 0)).s 7)).isNone = true) := by
  refine ⟨⟨issuable_of ?_, ?_⟩, issuable_of ?_, ⟨issuable_of ?_, ?_⟩, issuable_of ?_, issuable_of ?_, ?_⟩ <;> decide +kernel
theorem test_rwait : after (exec (.rwait ga statusForm) (reporting (.complete 4 true false 7 1))) (fun t => t.wgs.all (fun w => w.s 0 8 == 0x03000004 && w.s 0 9 == 7 && w.s 0 10 == 1) &&
    t.worlds.all (fun w => w.2.posted.isEmpty)) = true := by decide +kernel
theorem test_rprobe : after (exec (.rprobe ga statusForm) (reporting .posted)) (fun t => t.wgs.all (fun w => w.s 0 8 == 0) && t.worlds.all (fun w => w.2.posted.length == 1)) = true := by decide +kernel
theorem test_rcancel : after (exec (.rcancel ga cancelForm) (reporting .posted)) (fun t => t.worlds.all (fun w => w.2.posted.map (·.status) == [.cancelled])) = true := by decide +kernel

/-- A landing of a peer's 4 bytes; the same cut short after 2; a send whose receiver has read it, and one to chip 1. -/
def landing : State := withReceive [posted (.matched (message 7 none 1))] [] (describing 0)
def readSend : State := engineAt (fun o => { o with acked := 1 }) sending
def farSend : State := engineAt (fun o => { o with kind := .send false 1 7 4 }) { sending with
  iod := { sending.iod with routing := [(1, 2 ^ 63 + 1)], links := [linkOf 0 none] |>.map (fun x => { x with peer := some 1 }) }, checker := { sending.checker with admitted := [1] } }
theorem landings_may_complete :
    (landing.matched? 0 20).isSome = true ∧ (landing.landPages (posted .posted) [0, 1, 2, 3]).isSome = true ∧ (landing.landPages (posted .posted) []).isSome = true ∧
    landing.depsMet (posted .posted).deps = true ∧ (posted .posted).mayLand 4 [0, 1, 2, 3] = true ∧ (posted .posted).mayLand 4 [] = true ∧ (posted .posted).mayLand 4 [0, 1] = false ∧
    (farSend.engine? 1).any (fun o => (farSend.readWords (farSend.launchOfOp o) o (o.todo.flatMap Seg.each)).2.2.2.isNone) = true ∧
    (readSend.engine? 1).any (fun o => o.kind == .send false 0 7 4 && o.stage == .running && o.acked == 1 && (readSend.nextMet o).all (fun m => match m.met with | .deny .. => false | _ => true)) = true ∧
    farSend.answers 0 1 = true ∧ (farSend.engine? 1).any (fun o => o.kind == .send false 1 7 4 && o.stage == .running && (farSend.nextMet o).all (fun m => match m.met with | .deny .. => false | _ => true)) = true := by
  decide +kernel
theorem test_receive_landing_complete : after (exec (.receiveLandingComplete 0 20) landing) (fun t => memNat t.mem (spadKey 0 0x100) 4 == 0x04030201 &&
    t.worlds.all (fun w => w.2.posted.map (·.status) == [.complete 4 false false 7 1]) && t.iod.replies == [.peer 1 0 0 []]) = true := by decide +kernel
theorem test_landing_aborted : after (exec (.landingAborted 0 20 []) landing) (fun t => memNat t.mem (spadKey 0 0x100) 4 == 0 &&
    t.worlds.all (fun w => w.2.posted.map (·.status) == [.complete 0 false true 7 1])) = true ∧ isRefused (exec (.landingAborted 0 20 [0, 1]) landing) = true := by decide +kernel
theorem test_send_complete : after (exec (.sendComplete 1 false) readSend) (fun t => t.engines.isEmpty && (t.thread 0 0).cp == 0) = true ∧
    after (exec (.sendComplete 1 true) farSend) (fun t => t.engines.map (·.stage) == [.stopped]) = true := by decide +kernel

/-! Launches, queues, counters, pre-emption and the fault queue (spec 10, 14, 18). -/

def withWorld (f : World → World) (s : State) : State := { s with worlds := s.worlds.map (fun w => (w.1, f w.2)) }
def withQueue (q : Queue) : State → State := withWorld (fun w => { w with queues := listPut Queue.new w.queues 2 q })
/-- A packet with launch counter 9, 255 vector registers and one gang of one workgroup of 32 threads. -/
def packet9 : List Code := listPut 0 benchWords 5 (BitVec.ofNat 64 (2 ^ 64 - 1 - 0xFFFF * 2 ^ 48 + 9 * 2 ^ 48))
def packetAt (s : State) (va : Nat) : State := (packet9.zip (List.range 32)).foldl (fun s w => s.poke (va + 8 * w.2) w.1.toNat) s
/-- s12:s13 = 0x3000, s14 = 2, s15 = 0x10000, s16 = 0x50000000, s17 = 0x10000007, s18 = 3, s19 = 5, s20 = 4. -/
def launching : State := State.scalars (withQueue ⟨0x2000, 4, 0, 15, [], [], none⟩ paged)
  [(12, 0x3000), (13, 0), (14, 2), (15, 0x10000), (16, 0x50000000), (17, 0x10000007), (18, 3), (19, 5), (20, 4)]
def fullQueue : State := withQueue ⟨0x2000, 4, 0, 16, [], [], none⟩ launching
def launchForm : FMC := ⟨12, 14, 511, 511, 0⟩
def oneReg (r : BitVec 9) : FMC := ⟨r, 511, 511, 511, 0⟩
def waitOn (thresh : BitVec 9) : FMC := ⟨8, 18, thresh, 511, 3⟩
/-- Counter 3 runs at 4. -/
def counting : State := withWorld (fun w => { w with ctrs := [(3, (Ctr.bits ⟨6, 4, 2, 0, 1⟩))] }) launching
def eL : Env := envOf launching

theorem launch_cancel_and_hcwait_may_issue :
    (Issuable launching eL ga (.launch ga launchForm) ∧ eL.pair 12 % 2 ^ 56 = 0x3000 ∧ (eL.s 14).toNat = 2 ∧ eL.l.shadowOf = none ∧
      (∀ a ∈ regionsOf 0x3000 256, (launching.permit 0 0 0 a .read).1.clear) ∧ (∀ n ∈ eL.g.members, launching.released 0 n 3 = true)) ∧
    [launching, fullQueue].all (fun s => (s.packetKeys (envOf s) 0x3000).all (fun k => !s.errs k) && !s.submitAway (envOf s) 0x3000 ⟨0x2000, 4, 0, 15, [], [], none⟩) = true ∧
    (Issuable fullQueue (envOf fullQueue) ga (.launch ga launchForm)) ∧
    (Issuable launching eL ga (.cancel ga (oneReg 15)) ∧ (eL.s 15).toNat / 2 ^ 16 % 2 ^ 12 ≠ 0) ∧
    (Issuable launching eL ga (.cancel ga (oneReg 16)) ∧ (eL.s 16).toNat / 2 ^ 28 = 5) ∧
    (Issuable launching eL ga (.cancel ga (oneReg 511)) ∧ (eL.s 511).toNat = 0) ∧
    (Issuable launching eL ga (.cancel ga (oneReg 17)) ∧ (eL.s 17).toNat / 2 ^ 28 = 1 ∧ ((launching.advance eL).ctr 0 7).status = 0) ∧
    (Issuable counting (envOf counting) ga (.hcwait ga (waitOn 19)) ∧ (counting.ctr 0 3).count = 4 ∧ (counting.ctr 0 3).status = 2 ∧ ((envOf counting).s 19).toNat = 5) ∧
    (Issuable counting (envOf counting) ga (.hcwait ga (waitOn 20)) ∧ ((envOf counting).s 20).toNat = 4 ∧ (∀ n ∈ counting.lanes (envOf counting) ga, counting.mayAcquire 0 n 3 = true)) ∧
    (Issuable launching eL ga (.hcwait ga (waitOn 19)) ∧ (launching.ctr 0 3).status = 0 ∧
      (∀ n ∈ launching.lanes eL ga, launching.mayAcquire 0 n 3 = true)) := by
  refine ⟨⟨issuable_of ?_, ?_, ?_, ?_, ?_, ?_⟩, ?_, issuable_of ?_, ⟨issuable_of ?_, ?_⟩, ⟨issuable_of ?_, ?_⟩, ⟨issuable_of ?_, ?_⟩, ⟨issuable_of ?_, ?_, ?_⟩,
    ⟨issuable_of ?_, ?_, ?_, ?_⟩, ⟨issuable_of ?_, ?_, ?_⟩, issuable_of ?_, ?_, ?_⟩ <;> decide +kernel
theorem launch_submits : (launching.submit 0 2 [1, 2]).isSome = true := by decide +kernel
theorem test_launch_held_by_a_full_queue : after (exec (.launch ga launchForm) fullQueue) (fun t => t.groups.all (·.held) && (t.thread 0 0).pc == 8) = true := by decide +kernel
theorem test_cancel : after (exec (.cancel ga (oneReg 15)) launching) (fun t => t.gangs.map (·.status) == [.trapped]) = true ∧
    after (exec (.cancel ga (oneReg 511)) launching) (fun t => t.gangs.map (fun g => (g.status, g.cancelled)) == [(.discarding, true)] && t.groups.isEmpty) = true := by decide +kernel
theorem test_hcwait : after (exec (.hcwait ga (waitOn 19)) counting) (fun t => t.groups.all (·.held)) = true ∧
    after (exec (.hcwait ga (waitOn 20)) counting) (fun t => t.wgs.all (fun w => w.s 0 8 == 0x20000004)) = true := by decide +kernel

/-- Queue 2 of 16 slots with head 0: tail 16 fits and tail 17 does not; chip 1 of one world may ring. -/
def belledBy (acl : BitVec 32) : State := withQueue ⟨0x2000, 4, 0, 0, [acl], [], none⟩ { peered with
  iod := { peered.iod with links := [linkOf 0 (some 4)] }, checker := { peered.checker with admitted := [1] } }
def belled : State := belledBy 0x80000001
theorem doorbells_may_ring :
    belled.powered = true ∧ (belled.world? 0).any (fun w => listGet Queue.new w.queues 2 == ⟨0x2000, 4, 0, 0, [0x80000001], [], none⟩) = true ∧
    belled.postedDone 0 = true ∧ belled.postedDone 7 = true ∧ counting.postedDone 0 = true ∧ belled.me = 0 ∧ belled.peerAdmits 0 1 = true ∧
    aclAdmits 0x80000001 1 0 = true ∧ ((belledBy 0x80003001).world? 0).any (fun w => !(listGet Queue.new w.queues 2).acl.any (fun e => aclAdmits e 1 0)) = true ∧
    ((16 : BitVec 16) - 0).toNat ≤ 2 ^ 4 ∧ ¬((17 : BitVec 16) - 0).toNat ≤ 2 ^ 4 ∧ belled.checker.admitted.contains 1 = true ∧ belled.liveWorld 0 = true ∧
    belled.portRoom 0 0 (fun _ => true) = true ∧
    aclAdmits 0x80003001 1 3 = true ∧ aclAdmits 0x80003001 2 3 = false ∧ aclAdmits 0x80003001 1 2 = false ∧ (launching.world? 0).any (fun w =>
      let q := listGet Queue.new w.queues 2; q.qhead != q.qtail) = true := by decide +kernel
theorem test_qtail : after (exec (.qtail ⟨0, 0⟩ 2 16) belled) (fun t => t.worlds.all (fun w => (w.2.queues.map (·.qtail)) == [0, 0, 16, 0, 0, 0, 0, 0])) = true ∧
    after (exec (.qtail ⟨0, 0⟩ 2 17) belled) (fun t => t.worlds.all (fun w => (w.2.queues.map (·.qtail)) == [0, 0, 0, 0, 0, 0, 0, 0] && w.2.waiting.map (·.code) == [0x48])) = true := by decide +kernel
theorem test_qtail_of_another_function : after (exec (.qtail ⟨7, 0⟩ 2 16) belled) (fun t => t.worlds == belled.worlds && t.iod.bellDropped == 1) = true ∧
    after (exec (.notifyWrite ⟨7, 0⟩ 15 1) belled) (fun t => t.worlds == belled.worlds) = true := by decide +kernel
theorem test_masked_vector_stays_pending : (State.reset.raiseIrq 0 3).iod.irqPend = [(0, 3)] ∧
    after (exec (.registerWrite (.msix 0 7) 0) (State.reset.raiseIrq 0 3)) (fun t => t.iod.irqPend.isEmpty) = true := by decide +kernel
theorem test_peer_doorbell : after (exec (.peerDoorbell 0 2 1 0 3) belled) (fun t => t.worlds.all (fun w => (w.2.queues.map (·.qtail)) == [0, 0, 3, 0, 0, 0, 0, 0])) = true ∧
    after (exec (.peerDoorbell 0 2 1 0 3) (belledBy 0x80003001)) (fun t => t.worlds.all (fun w => (w.2.queues.map (·.qtail)) == [0, 0, 0, 0, 0, 0, 0, 0] && w.2.waiting.map (·.code) == [0x4B, 0x4B, 0x4B])) = true := by
  decide +kernel
theorem test_queue_config_write : after (exec (.queueConfigWrite 0 2 true 16) belled) (fun t => t.worlds.all (fun w => (w.2.queues.map (·.qsize)) == [0, 0, 16, 0, 0, 0, 0, 0])) = true ∧
    after (exec (.queueConfigWrite 0 2 true 17) belled) (fun t => t.worlds == belled.worlds) = true ∧
    after (exec (.queueConfigWrite 0 2 false 0x40) launching) (fun t => t.worlds == launching.worlds) = true := by decide +kernel
def ctrWord : BitVec 128 := Ctr.bits ⟨6, 5, 2, 0, 2⟩
theorem counter_may_be_written : (ctrOf ctrWord).level = 2 ∧ (ctrOf ctrWord).status ≤ 6 ∧ ctrWord.toNat % 2 ^ 48 = 0 ∧ (ctrOf (Ctr.bits ⟨1, 1, 6, 0, 4⟩)).level = 4 := by decide
theorem test_completion_counter_write : after (exec (.completionCounterWrite 0 4095 ctrWord) belled) (fun t => t.ctr 0 4095 == ⟨6, 5, 2, 0, 2⟩) = true := by decide +kernel
theorem test_notify_write : after (exec (.notifyWrite ⟨0, 0⟩ 15 (2 ^ 63 + 3 * 2 ^ 32 + 4)) counting) (fun t => t.iod.irqs == [(0, 17)] &&
    t.worlds.all (fun w => listGet 0 w.2.notify 15 == 3 * 2 ^ 32 + 4)) = true ∧
    after (exec (.notifyWrite ⟨0, 0⟩ 15 (2 ^ 63 + 3 * 2 ^ 32 + 5)) counting) (fun t => t.iod.irqs.isEmpty) = true := by decide +kernel

/-- A packet at the head of queue 2, one of no size, and an accepted launch at the head. -/
def iodTlb (s : State) : State := { s with tlb := [⟨2000, 0, 0, 0, 2 ^ 63 + 2 ^ 62 + 2 ^ 54 + 2 ^ 53 + 2 ^ 52⟩] }
def submitted : State := iodTlb <| withQueue ⟨0x2000, 4, 0, 1, [], [], none⟩ (packetAt paged 0x2000)
def emptyPacket : State := iodTlb <| withQueue ⟨0x4000, 4, 0, 1, [], [], none⟩ paged
def isBytes (b : Block) (p : List Byte → Bool) : Bool := match b with | .bytes x => p x | _ => false
theorem packets_may_be_accepted :
    isBytes (submitted.readBlock 0 0x2000 256) (fun b =>
      let l := packetLaunch 1 0 2 0x2000 (wordsOf64 32 b)
      (submitted.acceptCode 0 l true).isNone && isBytes (submitted.readBlock 0 l.argp (4 * l.argn)) (·.isEmpty) && l.membp == 0) = true ∧
    isBytes (emptyPacket.readBlock 0 0x4000 256) (fun b => (emptyPacket.acceptCode 0 (packetLaunch 1 0 2 0x4000 (wordsOf64 32 b)) true) == some 0x48) = true ∧
    submitted.liveWorld 0 = true := by decide +kernel
theorem test_launch_accept : after (exec (.launchAccept 0 2) submitted) (fun t => t.launches.map (fun l => (l.id, l.status)) == [(0, .running), (1, .waiting)] &&
    (t.ctr 0 9).status == 1 && t.worlds.all (fun w => (listGet Queue.new w.2.queues 2).order == [1] && (listGet Queue.new w.2.queues 2).qhead == 1)) = true := by decide +kernel
def accepted : State :=
  let l := { packetLaunch 5 0 2 0x2000 packet9 with placed := List.replicate 8 0 }
  withQueue ⟨0x2000, 4, 1, 1, [], [5], none⟩ { State.reset with launches := [l], nextId := 6, worlds := [(0, { World.new with diemask := 1 })] }
theorem gang_may_be_placed :
    accepted.powered = true ∧ (accepted.launch? 5).any (fun l => l.status == .waiting && !l.cancelled && l.gangs == 1 && !l.cores && accepted.depsState l == .met &&
      accepted.served 0 == some l && l.nextGang 0 == some (0, 0)) = true ∧ (accepted.world? 0).any (fun w => w.heads.contains 5) = true ∧
    accepted.worldOpen 0 = true ∧ accepted.dieOpen 0 0 = true := by decide +kernel
theorem test_gang_placement : after (exec (.gangPlacement 5 0) accepted) (fun t => t.gangs.map (fun g => (g.launch, g.die, g.index)) == [(5, 0, 0)] &&
    t.wgs.map (fun w => (w.threads, w.cores)) == [(32, [0])] && t.launches.map (·.status) == [.running]) = true := by decide +kernel

/-- Every core of die 0 is full: the gang of cluster 9 has priority 0 and its world's grant, the others priority 3. -/
def occupied : State :=
  let n := List.range 28
  { accepted with
    launches := accepted.launches ++ [benchLaunch 0, { benchLaunch 1 with prio := 3 }], worlds := accepted.worlds.map (fun w => (w.1, { w.2 with grant := true }))
    gangs := n.map (fun c => { benchGang (100 + c) with launch := if c == 9 then 0 else 1, cluster := c })
    wgs := n.map (fun c => { benchWg (200 + c) with gang := 100 + c, threads := 65536, cores := (List.range 4).map (4 * c + ·) }) }
theorem gang_may_be_pre_empted_for : (occupied.launch? 5).any (fun l => l.status == .waiting && !l.cancelled && l.gangs == 1 && occupied.depsState l == .met &&
      (occupied.placeNext l 0).isNone && (occupied.preemptFor l 0).isSome) = true ∧ (occupied.world? 0).any (fun w => w.heads.contains 5) = true ∧
    occupied.powered = true ∧ occupied.worldOpen 0 = true ∧ occupied.dieOpen 0 0 = true := by decide +kernel
theorem test_placement_pre_empts : after (exec (.gangPlacement 5 0) occupied) (fun t => t.gangs.filterMap (fun g => if g.status == .halting then some g.id else none) == [109]) = true := by
  decide +kernel

/-- A saved gang of the higher priority that no cluster seats. -/
def keptOutGang : State := { occupied with
  gangs := occupied.gangs ++ [{ benchGang 50 with launch := 5, status := .saved }], wgs := occupied.wgs ++ [{ benchWg 51 with gang := 50, launch := 5 }] }
theorem a_saved_gang_may_be_kept_out :
    (keptOutGang.launch? 5).any (fun l => keptOutGang.keptOut l 0 && !(keptOutGang.savedGangs 5).isEmpty && (keptOutGang.preemptFor l 0).isSome) = true := by decide +kernel
theorem test_a_saved_gang_pre_empts : after (exec (.gangPlacement 5 0) keptOutGang) (fun t => t.gangs.filterMap (fun g => if g.status == .halting then some g.id else none) == [109]) = true := by
  decide +kernel

/-- A workgroup all of whose threads have ended, and a gang that is over, of a launch of two gangs. -/
def endedWg : State := { paged with threads := [], stt := [⟨0, 0, 0, 0, true, false, true, true, 0, 0, 0⟩] }
def overGang : State := { paged with
  wgs := [], threads := [], groups := [], gangs := [{ benchGang 0 with unit := 1 }]
  launches := [{ benchLaunch 0 with words := listPut 0 benchWords 2 (BitVec.ofNat 64 (2 * 2 ^ 40 + 31 * 2 ^ 27)) }] }
theorem workgroups_and_gangs_may_end :
    ((endedWg.wg? 0).isSome = true ∧ (List.range 32).all (fun n => (endedWg.thread 0 n).status == .ended) = true ∧ endedWg.tiles = [] ∧ endedWg.writesSpad 0 = false ∧
      (endedWg.gang? 0).any (fun x => x.status == .running) = true) ∧
    ((overGang.gang? 0).any (fun x => x.unit == x.size) = true ∧ overGang.drains 0 = true ∧ overGang.engines = [] ∧ overGang.checker.rerun = [] ∧
      (overGang.launch? 0).any (fun l => l.status == .running && !l.cancelled && l.ended + 1 != l.gangs) = true) ∧
    ((paged.launch? 0).any (fun l => l.shadowOf == none && l.status != .ended) = true ∧ paged.versions = [] ∧ paged.checker.rerun = []) := by decide +kernel
theorem test_workgroup_end : after (exec (.workgroupEnd 0) endedWg) (fun t => t.wgs.isEmpty && t.stt.isEmpty && t.groups.isEmpty && t.gangs.map (·.unit) == [1]) = true := by decide +kernel
theorem test_gang_end : after (exec (.gangEnd 0) overGang) (fun t => t.gangs.isEmpty && t.launches.map (·.ended) == [1]) = true := by decide +kernel
theorem test_driver_cancel : after (exec (.driverCancel 0) paged) (fun t => t.gangs.map (·.status) == [.discarding] && t.launches.map (·.cancelled) == [true]) = true := by decide +kernel

/-- Gangs to halt, to save and to resume. -/
def gangAt (st : GStatus) (f : Gang → Gang) : State := { paged with gangs := [f { benchGang 0 with status := st }] }
def sealedGang : State := withWorld (fun w => { w with prot := true, keys := true, lastSeq := [(0, 5)] }) (gangAt .saved (fun g => { g with saggar := some ⟨0, 0, 0, 4, 0, 0⟩ }))
/-- Two gangs of a co-resident launch, both saved, and a marked load of the first. -/
def together : State :=
  let s := gangAt .saved id
  { s with
    gangs := s.gangs ++ [{ benchGang 7 with status := .saved, launch := 0, index := 1 }], wgs := s.wgs ++ [{ benchWg 8 with gang := 7, launch := 0 }]
    launches := [{ benchLaunch 0 with words := listPut 0 benchWords 3 (listGet 0 benchWords 3 + 2 ^ 13) }] }
def markedWith (h : Flight → Flight) : State := { loading with flights := loading.flights.map (fun f => h { f with replay := true }) }
def marked : State := markedWith id
/-- The marked load counts no more; and it is an `ldp` into p3 at 0x30000, whose page is out. -/
def markedUncounted : State := (markedWith (fun f => { f with uncounted := true })).setThread 0 0 { loading.thread 0 0 with ld := 0 }
def markedOut : State := (markedWith (fun f => { f with pred := some 3, elems := f.elems.map (fun x => { x with va := 0x30000 }) })).poke 0x31000 0
/-- A thread within a block whose header, at 0, lists 2 vector registers and 5 scalar ones. -/
def inBlock : State := (gangAt .halting id).poke 0 (127 * 2 ^ 57 + 6 * 2 ^ 47 + 2 * 2 ^ 39 + 5 * 2 ^ 30)
theorem gangs_may_halt_save_and_resume :
    paged.gangs.any (fun g => g.status == .running) = true ∧
    ((gangAt .halting id).gang? 0).any (fun x => (gangAt .halting id).quiet x && ((gangAt .halting id).savePages ((gangAt .halting id).wgsOf 0)).isSome) = true ∧
    ((gangAt .saved id).gang? 0).any (fun x => x.status == .saved && !x.held && !x.heldDie && !x.waits && (gangAt .saved id).saggarOk x &&
      ((gangAt .saved id).resumeGang x (benchLaunch 0) 3).isSome) = true ∧
    (sealedGang.gang? 0).any (fun x => !sealedGang.saggarOk x) = true ∧ Config.dieOfCore (3 * 4) = 0 ∧ (gangAt .saved id).dieOpen 0 0 = true ∧
    (gangAt .saved id).worldOpen 0 = true ∧ ((gangAt .saved id).world? 0).any (fun w => w.diemask.getLsbD 0 && !w.stalled && !w.halted) = true ∧
    ((gangAt .trapped (fun g => { g with skip := [threadKey 0 0] })).gang? 0).any (fun x => x.status == .trapped && x.skip == [threadKey 0 0]) = true ∧
    ((gangAt .saved (fun g => { g with waits := true })).gang? 0).any (fun x => x.waits) = true := by decide +kernel
theorem gangs_may_resume_together :
    (together.launch? 0).any (fun l => l.cores && (together.gang? 0).any (fun x => (together.together l x).map (·.id) == [7] && (together.together l x).all Gang.resumable &&
      together.saggarOk x && (together.together l x).all together.saggarOk && ((together.resumeGang x l 3).bind (fun t => t.resumeRest l (together.together l x))).isSome)) = true ∧
    together.clusterOpen 0 3 = true ∧ (gangAt .saved id).clusterOpen 0 3 = true ∧
    [(gangAt .saved id).served 0, together.served 0].all (fun x => x.any (·.id == 0)) = true ∧ marked.flights.all (fun f => marked.reissueMiss f (marked.replayCond f).elems != .reject) = true ∧ sealedGang.clusterOpen 0 3 = true ∧ sealedGang.worldOpen 0 = true ∧
    marked.flights.all (fun f => !f.spad && f.replay && decide (marked.replayCond f).clear) = true := by decide +kernel
theorem marked_accesses_may_be_issued_again :
    markedUncounted.flights.all (fun f => !f.spad && f.uncounted && decide (markedUncounted.replayCond f).clear && markedUncounted.reissueMiss f (markedUncounted.replayCond f).elems != .reject) = true ∧
    markedOut.flights.all (fun f => !f.spad && f.pred == some 3 && (markedOut.replayCond f).absent.isNone && (markedOut.replayCond f).traps == [] && (markedOut.replayCond f).pages != []) = true ∧
    [markedUncounted, markedOut].all (fun s => s.wgs.any (fun w => w.id == 0)) = true ∧
    [gangAt .saved id, together, sealedGang].all (fun s => s.gangs.all (fun x => !s.leftBehind x 3)) = true := by decide +kernel
theorem test_marked_load_counts_again : after (reissueMove markedUncounted 1) (fun t => t.flights.map (·.replay) == [false] && (t.thread 0 0).ld == 1) = true ∧
    after (reissueMove markedOut 1) (fun t => t.flights.isEmpty && (t.thread 0 0).ld == 0 && (t.thread 0 0).v 5 == 0 && t.worlds.all (fun w => w.2.waiting.isEmpty)) = true := by decide +kernel
theorem a_gang_may_be_saved_within_a_block :
    ((inBlock.gang? 0).any (fun x => x.status == .halting && inBlock.quiet x) && ((inBlock.savePages (inBlock.wgsOf 0)).bind (fun p => (inBlock.wg? 0).bind (fun w =>
      p.blockHeader w (inBlock.worldOfWg 0) (inBlock.thread 0 0)))).any (fun h => h.vlive == 2 && h.slive == 5) && (inBlock.thread 0 0).left != 0 && !(inBlock.thread 0 0).written.contains 5) = true := by
  decide +kernel
theorem test_registers_in_use_are_saved : after (exec (.contextSaveComplete 0) inBlock) (fun t => (t.thread 0 0).v 1 == 0x8899AABB && t.wgs.all (fun w => w.s 0 4 == 0x1000)) = true := by
  decide +kernel
theorem test_co_resident_gangs_resume_together : after (exec (.gangResume 0 3) together) (fun t => t.gangs.map (·.status) == [.running, .running]) = true := by decide +kernel
theorem test_marked_load_is_issued_again : after (reissueMove marked 1) (fun t => t.flights.map (·.replay) == [false]) = true := by decide +kernel
theorem test_preempt_request : after (exec (.preemptRequest (.die 0)) paged) (fun t => t.gangs.map (·.status) == [.halting]) = true := by decide +kernel
theorem test_context_save_complete : after (exec (.contextSaveComplete 0) (gangAt .halting id)) (fun t => t.gangs.map (·.status) == [.saved] &&
    t.groups.all (fun g => g.core == 4096) && (t.thread 0 0).pc == 8) = true := by decide +kernel
theorem test_gang_resume : after (exec (.gangResume 0 3) (gangAt .saved id)) (fun t => t.gangs.map (fun g => (g.status, g.cluster)) == [(.running, 3)] &&
      t.wgs.map (·.cores) == [[12]]) = true ∧
    after (exec (.gangResume 0 3) sealedGang) (fun t => t.worlds.all (fun w => w.2.error && !w.2.keys)) = true := by decide +kernel
theorem test_trap_resume_after_a_save : after (exec (.trapResume 0) (gangAt .saved (fun g => { g with waits := true, skip := [threadKey 0 0] })))
    (fun t => (t.thread 0 0).pc == 16 && t.gangs.map (fun g => (g.status, g.waits)) == [(.saved, false)]) = true := by decide +kernel

/-- A page that is out, a record in the fault queue of world 0 (base 0x9000, 4 slots) that is open, and translations to discard. -/
def outPage : State := { paged with stt := [⟨0, 0, 0, 3, false, true, true, false, 0, 7, 0⟩, ⟨0, 0, 0, 4, true, true, true, true, 5, 8, 0⟩, ⟨0, 1, 9, 4, true, true, true, true, 6, 9, 0⟩] }
def recorded : State := withWorld (fun w => { w with fqbase := 0x90, fqsize := 2, fqhead := 0, fqtail := 2 }) (paged.poke 0x9000 0x2001)
theorem pages_and_records_may_go :
    (outPage.stt? 0 3).any (fun x => !x.present) = true ∧ (outPage.wg? 0).any (fun w => match outPage.makeRoom w.home 0 with | .frame .. => true | _ => false) = true ∧
    (outPage.gang? 0).any (fun x => x.status != .saved) = true ∧ recorded.postedDone 0 = true ∧
    (recorded.world? 0).any (fun w => (w.fqSlot 0).isSome && w.waiting == [] && decide (((0 : BitVec 16) - w.fqhead).toNat < w.fqCount)) = true := by
  decide +kernel
theorem test_page_in_complete : after (exec (.pageInComplete 0 3) outPage) (fun t => (t.stt? 0 3).any (fun x => x.present && !x.dirty)) = true := by decide +kernel
theorem test_fqhead : after (exec (.fqhead 0 1) recorded) (fun t => t.worlds.all (fun w => w.2.fqhead == 1)) = true := by decide +kernel

/-! Witness records, the checker, system instructions (spec 14, 15). -/

/-- Slot 0 of a format with a step; s20 = 32, s21 = 64, s22 = 32, s23 = Q 64 and H 32, s12:s13 = 0x4000, s14 = 0x4001, s24 = 255, s25 = 256. -/
def slotted (slot : Nat) : State :=
  State.scalars { paged with launches := [{ benchLaunch 0 with words := listPut 0 benchWords 18 (BitVec.ofNat 64 slot) }] }
    [(20, 32), (21, 64), (22, 32), (23, 64 + 32 * 65536), (12, 0x4000), (14, 0x4001), (24, 255), (25, 256)]
def witbForm : FMC := ⟨20, 21, 22, 23, 0⟩
def witpForm (role : BitVec 12) : FMC := ⟨12, 511, 511, 511, role⟩
def witeForm : FMC := ⟨8, 511, 511, 511, 0⟩
/-- An open scan record of one element, with some of its parts. -/
def scanRec (parts : List WitPart) : WitRec := ⟨2, 1, 1, 0, 0, 0, 0, 0, false, false, 0, parts⟩
def scanParts : List WitPart := [⟨8, 0x4000, 0⟩, ⟨9, 0x4010, 0⟩, ⟨12, 0x4020, 0⟩]
def opened (r : WitRec) : State := (slotted 5).setRec 0 0 (some r)
/-- K of 255, which is no number of steps; and a slot with a step and a reserved bit. -/
def badShape : FMC := ⟨20, 21, 24, 23, 0⟩
def badSlot : Nat := 5 + 2 ^ 63
def refusal (slot : Nat) (f : FMC) : Bool × Bool × Bool :=
  let r := witNew (envOf (slotted slot)) f 0
  let a := (envOf (slotted slot)).l.slot r.slotA
  (r.hasStep a, r.shapeOk a, r.slotsOk a ((envOf (slotted slot)).l.slot r.slotB))
theorem witness_instructions_may_issue :
    (Issuable (slotted 5) (envOf (slotted 5)) ga (.witb ga witbForm) ∧ (envOf (slotted 5)).w.rec? 0 = none ∧
      (let r := witNew (envOf (slotted 5)) witbForm 0; r.shapeOk ((envOf (slotted 5)).l.slot 0) && r.slotsOk ((envOf (slotted 5)).l.slot 0) ((envOf (slotted 5)).l.slot 0)) = true) ∧
    (Issuable (slotted 0) (envOf (slotted 0)) ga (.witb ga witbForm) ∧ (refusal 0 witbForm).1 = false ∧ Issuable (slotted 5) (envOf (slotted 5)) ga (.witb ga badShape) ∧
      refusal 5 badShape = (true, false, true) ∧ Issuable (slotted badSlot) (envOf (slotted badSlot)) ga (.witb ga witbForm) ∧ refusal badSlot witbForm = (true, true, false)) ∧
    (Issuable (opened (scanRec [])) (envOf (opened (scanRec []))) ga (.witb ga witbForm) ∧ (envOf (opened (scanRec []))).w.rec? 0 = some (scanRec [])) ∧
    (Issuable (opened (scanRec [])) (envOf (opened (scanRec []))) ga (.witp ga (witpForm 8)) ∧ roleFits 2 8 = true ∧ roleFits 2 10 = false ∧
      Issuable (opened (scanRec [])) (envOf (opened (scanRec []))) ga (.witp ga (witpForm 10)) ∧ Issuable (slotted 5) (envOf (slotted 5)) ga (.witp ga (witpForm 8))) ∧
    (Issuable (opened (scanRec scanParts)) (envOf (opened (scanRec scanParts))) ga (.wite ga witeForm) ∧ ((scanRec scanParts).needs 5 5).all (fun n => ((scanRec scanParts).part? n).isSome) = true ∧
      Issuable (opened (scanRec [])) (envOf (opened (scanRec []))) ga (.wite ga witeForm) ∧ ((scanRec []).part? 8) = none ∧ Issuable (slotted 5) (envOf (slotted 5)) ga (.wite ga witeForm)) ∧
    (Issuable (slotted 5) (envOf (slotted 5)) ga (.gver ga ⟨24, 8, 511, 511, 0⟩) ∧ ((envOf (slotted 5)).s 24).toNat = 255 ∧
      Issuable (slotted 5) (envOf (slotted 5)) ga (.gver ga ⟨25, 8, 511, 511, 0⟩) ∧ ((envOf (slotted 5)).s 25).toNat = 256) := by
  refine ⟨⟨issuable_of ?_, ?_, ?_⟩, ⟨issuable_of ?_, ?_, issuable_of ?_, ?_, issuable_of ?_, ?_⟩, ⟨issuable_of ?_, ?_⟩, ⟨issuable_of ?_, ?_, ?_, issuable_of ?_, issuable_of ?_⟩,
    ⟨issuable_of ?_, ?_, issuable_of ?_, ?_, issuable_of ?_⟩, issuable_of ?_, ?_, issuable_of ?_, ?_⟩ <;> decide +kernel
theorem test_witb : after (exec (.witb ga witbForm) (slotted 5)) (fun t => t.wgs.all (fun w => (w.rec? 0).any (fun r => r.m == 32 && r.n == 64 && r.k == 32 && r.q == 64 && r.h == 32))) = true ∧
    after (exec (.witb ga witbForm) (slotted 0)) (fun t => t.worlds.all (fun w => w.2.waiting.map (·.code) == [0x10])) = true ∧
    after (exec (.witb ga badShape) (slotted 5)) (fun t => t.worlds.all (fun w => w.2.waiting.map (·.code) == [1])) = true := by decide +kernel
theorem test_witp : after (exec (.witp ga (witpForm 8)) (opened (scanRec []))) (fun t => t.wgs.all (fun w => (w.rec? 0).any (fun r => r.parts == [⟨8, 0x4000, 0⟩]))) = true ∧
    after (exec (.witp ga ⟨14, 511, 511, 511, 8⟩) (opened (scanRec []))) (fun t => t.gangs.map (·.status) == [.trapped]) = true := by decide +kernel
theorem test_wite : after (exec (.wite ga witeForm) (opened (scanRec scanParts))) (fun t => t.checker.subs.map (·.body) == [scanRec scanParts] && t.wgs.all (fun w => w.rec? 0 == none)) = true ∧
    after (exec (.wite ga witeForm) (opened (scanRec []))) (fun t => t.gangs.map (·.status) == [.trapped]) = true := by decide +kernel
theorem test_gver : after (exec (.gver ga ⟨24, 8, 511, 511, 0⟩) (slotted 5)) (fun t => (t.thread 0 0).sub == 255 && t.wgs.all (fun w => w.s 0 8 == 255)) = true := by decide +kernel

/-- A version of launch 0 in testing with a scan record of one element: 5 and its sums, or a wrong sum of the block. -/
def version (id launch : Nat) (words : List (Nat × Word)) (shadow : Bool) : Version :=
  { id, num := 0, world := 0, launch, attempt := 0, lctr := 0, words, writers := 1, up := [], full := false, future := false, state := .testing, group := id
    shadow, passedTest := false, dual := shadow || !words.isEmpty, matched := false, injected := false }
/-- The last gang of a launch with an open version under a group counter; a launch with no gang; and one of co-resident gangs. -/
def under (words : List Code) : List Code :=
  listPut 0 (listPut 0 words 5 (BitVec.ofNat 64 (9 * 2 ^ 48 + 10 * 2 ^ 32 + 2 ^ 32 - 1))) 3 (listGet 0 words 3 - 3 * 2 ^ 11)
def countersAt (status : Nat) : State → State := withWorld (fun w => { w with ctrs := [(9, Ctr.bits ⟨1, 0, status, 0, 1⟩), (10, Ctr.bits ⟨1, 0, 2, 0, 2⟩)] })
def lastGang : State := countersAt 2 { overGang with
  launches := [{ benchLaunch 0 with words := under benchWords, counted := false }], versions := [{ version 40 0 [(0x4000, 5)] false with state := .openV, dual := false }] }
def launchAt (words : List Code) : State := countersAt 1 { accepted with
  launches := [{ packetLaunch 5 0 2 0x2000 (under words) with placed := List.replicate 8 0, counted := false }] }
def noGangs : State := launchAt (listPut 0 (listPut 0 packet9 2 (BitVec.ofNat 64 (31 * 2 ^ 27))) 10 0)
def coResident : State := launchAt (listPut 0 packet9 3 (listGet 0 packet9 3 + 2 ^ 13))
def alone (s : State) (l : Launch) : Bool :=
  s.checker.rerun == [] && s.launches.all (fun y => y.shadowOf == none) && s.versions.all (fun v => v.state != .waitingV) && l.wkind != 3 && l.bad == none && !l.cancelled &&
  l.status != .ended && !l.counted && decide (l.lctr < 4096) && (s.ctr l.world l.lctr).level == 1
theorem launches_may_complete :
    ((lastGang.gang? 0).any (fun x => x.launch == 0 && x.unit == x.size && !x.cancelled) && lastGang.engines == [] && lastGang.drains 0 &&
      (lastGang.launch? 0).any (fun l => alone lastGang l && l.ended + 1 == l.gangs) && lastGang.gangs.all (·.id == 0)) = true ∧
    (noGangs.powered && (noGangs.launch? 5).any (fun l => alone noGangs l && l.gangs == 0 && noGangs.depsState l == .met) && (noGangs.world? 0).any (fun w => w.heads.contains 5) &&
      noGangs.savedGangs 5 == [] && noGangs.worldOpen 0) = true ∧
    (coResident.powered && (coResident.launch? 5).any (fun l => l.cores && l.gangs != 0 && !l.cancelled && coResident.depsState l == .met && coResident.served 0 == some l) &&
      (coResident.world? 0).any (fun w => w.heads.contains 5) && coResident.savedGangs 5 == [] && coResident.worldOpen 0 && coResident.dieOpen 0 0) = true ∧
    (lastGang.ctr 0 10 == ⟨1, 0, 2, 0, 2⟩ && lastGang.ctrEnd 0 10 == CtrEnd.new && (lastGang.launch? 0).any (fun l => l.gctr == 10)) = true := by decide +kernel
theorem test_the_last_gang_completes_its_launch : after (exec (.gangEnd 0) lastGang) (fun t => t.ctr 0 9 == ⟨1, 1, 3, 0, 1⟩ && t.ctr 0 10 == ⟨1, 1, 3, 0, 2⟩ &&
    t.versions.map (·.state) == [.testing] && t.launches.map (·.status) == [.ended]) = true := by decide +kernel
theorem test_a_launch_with_no_gang_completes : after (exec (.gangPlacement 5 0) noGangs) (fun t => t.ctr 0 9 == ⟨1, 0, 3, 0, 1⟩ && t.ctr 0 10 == ⟨1, 1, 3, 0, 2⟩ && t.gangs.isEmpty) = true := by
  decide +kernel
theorem test_co_resident_gangs_are_placed : after (exec (.gangPlacement 5 0) coResident) (fun t => t.gangs.map (fun g => (g.index, g.die, g.status)) == [(0, 0, .running)]) = true := by
  decide +kernel
def testLaunch : Launch := { benchLaunch 0 with words := listPut 0 benchWords 3 (BitVec.ofNat 64 (255 * 2 ^ 52 + 384 * 2 ^ 43 + 16 * 2 ^ 38 + 64 * 2 ^ 23 + 3 * 2 ^ 4)) }
def tested (sum : Nat) : State :=
  let s := (((paged.poke 0x4000 5).poke 0x4010 5).poke 0x4020 5).poke 0x4024 sum
  { s with launches := [testLaunch], versions := [version 40 0 [] false], checker := { s.checker with subs := [⟨41, 0, 0, 0, 0, scanRec scanParts, none⟩] } }
theorem versions_may_be_tested :
    ((tested 5).versions.find? (fun v => v.id == 40 && v.world == 0)).any (fun v => v.state == .testing && !v.shadow && !v.passedTest &&
      (tested 5).coveredBy testLaunch v [scanRec scanParts]) = true ∧ (tested 5).testRec testLaunch (scanRec scanParts) = .pass ∧ testLaunch.wkind ≠ 3 ∧
    (tested 6).testRec testLaunch (scanRec scanParts) = .fail 1 0 ∧ ((tested 5).launch? 0).map (·.asOf 0) = some testLaunch := by decide +kernel
theorem test_waits_for_a_writer_in_reset :
    (tested 5).versions.all (fun v => !(tested 5).writerReset v) = true ∧
    (let s := { tested 5 with dies := (tested 5).dies.map (fun d => { d with resetting := true }) }
     s.versions.all s.writerReset && isRefused (exec (.witnessTestResult 0 40) s)) = true := by decide +kernel
theorem test_witness_test_result : after (exec (.witnessTestResult 0 40) (tested 6)) (fun t => t.versions.isEmpty && (t.dies.map (·.score)) == [32, 0, 0, 0, 0, 0, 0, 0]) = true ∧
    after (exec (.witnessTestResult 0 40) (tested 5)) (fun t => t.checker.subs.isEmpty && t.versions.all (·.passedTest)) = true := by decide +kernel

/-- A second run on die 1 of a launch of die 0, both ended; the same word, or another one; dies 0 to 2 live. -/
def runLaunch : Launch := { benchLaunch 0 with status := .ended, sum := [(0x4000, 5)] }
def secondRun (w : Word) : Launch := { benchLaunch 7 with status := .ended, shadowOf := some 0, run := 2, shareOn := List.replicate 8 1, sum := [(0x4000, w)] }
def compared (w : Word) : State := withWorld (fun w => { w with diemask := 7 }) { paged with
  wgs := [], groups := [], gangs := [], launches := [runLaunch, secondRun w], versions := [version 40 0 [(0x4000, 5)] false, version 42 7 [(0x4000, w)] true] }
theorem runs_may_be_compared :
    ([5, 6].all (fun w => (compared w).launch? 7 == some (secondRun w) && (((secondRun w).shadowOf.bind (compared w).launch?).map (·.asOf 0)) == some runLaunch && (secondRun w).bad.isNone &&
      (compared w).gangsOf 7 == [] && !(compared w).launches.any (fun y => y.shadowOf == some 0 && y.attempt == 0 && y.run == 3) &&
      !((compared w).held runLaunch).all (fun v => !v.dual || v.matched))) = true ∧ (secondRun 5).attempt = runLaunch.attempt ∧
    (secondRun 5).sum = runLaunch.sum ∧ (secondRun 6).sum ≠ runLaunch.sum ∧ (compared 5).powered = true ∧
    2 ∈ dieList (7 &&& (compared 6).liveMask) ∧ runLaunch.dies = [0] ∧ (secondRun 6).dies = [1] := by decide +kernel
theorem test_shadow_run_complete : after (exec (.shadowRunComplete 7) (compared 6)) (fun t => t.launches.map (fun l => (l.run, l.shareOn)) ==
    [(runLaunch.run, runLaunch.shareOn), (2, List.replicate 8 1), (3, List.replicate 8 2)]) = true ∧
    after (exec (.shadowRunComplete 7) (compared 5)) (fun t => t.versions.map (·.id) == [40] && t.versions.all (·.matched)) = true := by decide +kernel

/-- Scores at the threshold and below it, links at their third tag failure and before. -/
def failing (n : Nat) : Link := { linkOf 0 none with tagFails := n }
def scored (x : BitVec 8) : State := { paged with clock := 2 ^ 29, dies := paged.dies.map (fun d => { d with score := x }), iod := { paged.iod with links := [failing 2, failing 1] } }
theorem errors_may_be_reported :
    (scored 127).powered = true ∧ ((scored 127).die 7).live = true ∧ (scored 127).garrun.thresh.toNat ≤ min 255 (127 + 1) ∧ isDevice 0x1000 = true ∧ keyDie 0x1000 = 0 ∧ keyAbsent 0x1000 = false ∧
    ((scored 127).gang? 0).any (fun x => x.placedOn 0) = true ∧ (scored 127).checker.decayed + 2 ^ 29 ≤ (scored 127).clock ∧
    (scored 127).link? 0 = some (failing 2) ∧ (scored 127).link? 1 = some (failing 1) := by decide +kernel
theorem test_checker_event_report : after (exec (.checkerEventReport 0 .corrected) (scored 127)) (fun t => (t.die 0).score == 128 && (t.die 0).retired && t.gangs.map (·.status) == [.halting]) = true ∧
    after (exec (.checkerEventReport 0 .corrected) (scored 126)) (fun t => (t.die 0).score == 127 && !(t.die 0).retired) = true := by decide +kernel
theorem test_score_decay : after (exec .scoreDecay (scored 0)) (fun t => (t.die 0).score == 0) = true ∧ after (exec .scoreDecay (scored 1)) (fun t => (t.die 7).score == 0) = true := by decide +kernel
theorem test_tag_failure : after (exec (.tagFailure (.qormon 0)) (scored 0)) (fun t => t.iod.links.map (·.up) == [false, true]) = true ∧
    after (exec (.tagFailure (.ucie 3)) (scored 0)) (fun t => (t.die 3).score == 4 && (t.die 3).linkFails == 1) = true := by decide +kernel

/-- A stack in each stage of a warm reset; a split that leaves CD0 with the IOD, and one that leaves neither CP. -/
def resetAtStage (req resetting : Bool) (st : GStatus) : State :=
  { gangAt st id with dies := (Die.new :: List.replicate 7 Die.new).map (fun d => { d with resetReq := req, resetting }), llcDirty := [1], tlb := [⟨0, 0, 0, 0, 1⟩, ⟨1000, 0, 0, 0, 1⟩, ⟨2000, 0, 0, 0, 1⟩] }
def splits (a : BitVec 8) : List Split := [⟨a, true, 0xFF⟩, ⟨~~~a, false, 0xFF⟩]
theorem resets_and_splits_may_happen :
    ((resetAtStage false false .running).die 0).live = true ∧ ((resetAtStage true false .saved).die 0).resetReq = true ∧
    (∀ x ∈ (resetAtStage true false .saved).gangs, (resetAtStage true false .saved).resets 0 x = true → x.status = .saved) ∧ ((resetAtStage true true .saved).die 0).resetting = true ∧
    splitOk paged.stacks (splits 0x0F) = true ∧ splitOk paged.stacks (splits 0xEE) = true ∧ (splits 0xEE).find? (·.iod) = some ⟨0xEE, true, 0xFF⟩ ∧
    (resetAtStage true true .saved).versions = [] ∧ (resetAtStage true true .saved).checker.rerun = [] ∧ (resetAtStage true true .saved).launches.all (fun l => l.shadowOf == none) = true ∧
    (0xEE : BitVec 8).getLsbD 0 = false ∧ (0xEE : BitVec 8).getLsbD 4 = false ∧ (0x0F : BitVec 8).getLsbD 0 = true ∧ paged.checker.pending = none := by decide +kernel
theorem test_warm_reset : after (exec (.warmReset 0) (resetAtStage false false .running)) (fun t => (t.die 0).resetReq && t.gangs.map (·.status) == [.halting]) = true ∧
    after (exec (.warmReset 0) (resetAtStage true false .saved)) (fun t => (t.die 0).resetting && t.llcDirty.isEmpty && t.tlb.map (·.place) == [2000]) = true ∧
    after (exec (.warmReset 0) (resetAtStage true true .saved)) (fun t => !(t.die 0).resetting && !(t.die 0).resetReq) = true := by decide +kernel
/-- A slice that is reset writes its host line back and drops it; the line of another slice stays. -/
theorem test_warm_reset_writes_host_lines : after (exec (.warmReset 0) { resetAtStage true false .saved with iod := { Iod.new with
    hostLines := [⟨0, keyHost / 128, List.replicate 128 7, List.replicate 32 true⟩, ⟨1, keyHost / 128 + 1, List.replicate 128 8, List.replicate 32 true⟩] } })
    (fun t => t.iod.hostLines.map (·.die) == [1] && memGet t.mem keyHost == 7 && memGet t.mem (keyHost + 128) == 0) = true := by decide +kernel
theorem test_link_split_decision : after (exec (.linkSplitDecision (splits 0xFE)) paged) (fun t => t.powered && (t.dies.map (·.fenced)) == [true, false, false, false, false, false, false, false] &&
      t.worlds.all (fun w => w.2.error)) = true ∧
    after (exec (.linkSplitDecision (splits 0xEE)) paged) (fun t => !t.powered && t.worlds.all (fun w => w.2.error)) = true := by decide +kernel
theorem test_firmware_activation : after (exec (.firmwareActivationSwitch ⟨1, 2, 3, 4, 5⟩) (nextOf (exec (.firmwareActivationSwitch ⟨1, 2, 3, 4, 5⟩) paged)))
    (fun t => t.checker.meas == ⟨1, 2, 3, 4, 5⟩ && t.checker.pending == none) = true := by decide +kernel
theorem test_spdm : after (exec .spdmMeasurementRequest paged) (fun t => t.iod.replies == [.spdm ⟨0, 0, 0, 0, 0⟩ false]) = true := by decide +kernel

/-- Privileged registers of world 0 (PRN 0, 2, 0x1D), of a world that is not there (PRN 0x182) and of the chip; s3 = 3, s4 = 0x100. -/
def privileged : State := { State.scalars paged [(3, 3), (4, 0x100), (5, 7 * 256), (6, 0x1000), (7, 0), (8, 0xFF), (10, 0x10000001), (11, 0x20000007), (12, 0x10000100), (13, 0x20000008), (14, 1), (16, 0x10000000), (18, 8)] with
  tlb := [⟨3, 0, 9, 0, 1⟩, ⟨1000, 0, 1, 0, 1⟩, ⟨1000, 1, 1, 0, 1⟩], stt := [⟨9, 3, 5, 0, true, true, true, true, 0, 1, 0⟩, ⟨9, 4, 6, 0, true, true, true, true, 1, 2, 0⟩] }
def sysForm (sa : BitVec 9) (prn : BitVec 16) : FY := ⟨sa, 511, 511, 0, prn⟩
def eV : Env := envOf privileged
theorem privileged_instructions_may_issue :
    (Issuable privileged eV ga (.rdpr ga (sysForm 20 0x8000)) ∧ (∀ n ∈ privileged.lanes eV ga, privileged.released 0 n 3 = true)) ∧
    (Issuable privileged eV ga (.wrpr ga (sysForm 3 2)) ∧ privileged.privIllegal 2 3 = false ∧ (privileged.world? 0).isSome = true) ∧
    (Issuable privileged eV ga (.wrpr ga (sysForm 3 4)) ∧ privileged.privIllegal 4 3 = false) ∧
    (Issuable privileged eV ga (.wrpr ga (sysForm 4 2)) ∧ privileged.privIllegal 2 0x100 = true) ∧
    (Issuable privileged eV ga (.wrpr ga (sysForm 3 0)) ∧ privileged.privIllegal 0 3 = false ∧ (privileged.world? 0).any (fun w => !w.error) = true) ∧
    (Issuable privileged eV ga (.wrpr ga (sysForm 3 0x182)) ∧ privileged.privIllegal 0x182 3 = false ∧ (privileged.world? 3).isNone = true) := by
  refine ⟨⟨issuable_of ?_, ?_⟩, ⟨issuable_of ?_, ?_, ?_⟩, ⟨issuable_of ?_, ?_⟩, ⟨issuable_of ?_, ?_⟩, ⟨issuable_of ?_, ?_, ?_⟩, issuable_of ?_, ?_, ?_⟩ <;> decide +kernel
theorem test_wrpr_then_rdpr : after (exec (.wrpr ga (sysForm 3 2)) privileged) (fun t => t.readPriv 2 == 3) = true ∧
    after (exec (.rdpr ga (sysForm 20 0x8000)) privileged) (fun t => t.wgs.all (fun w => w.s 0 20 == 0xFF)) = true := by decide +kernel
theorem test_wrpr_of_a_read_only_register_traps : after (exec (.wrpr ga (sysForm 3 0x1D)) privileged) (fun t => t.gangs.map (·.status) == [.trapped]) = true := by decide +kernel
/-- tlbinv of world 0, of all, and of a misaligned range (base 0x1000); sttinv that discards slot 3 of core 9, and that writes it back. -/
def tlbForm (prn : BitVec 16) : FY := ⟨16, 511, 511, 0, prn⟩
def sttForm (prn : BitVec 16) : FY := ⟨18, 3, 511, 0, prn⟩
def invState : State := State.scalars privileged [(16, 0), (17, 0), (18, 9)]
def eI : Env := envOf invState
theorem invalidations_may_issue :
    (Issuable invState eI ga (.tlbinv ga (tlbForm 0)) ∧ eI.pair 16 % 65536 = 0 ∧ Issuable invState eI ga (.tlbinv ga (tlbForm 1))) ∧
    (Issuable invState eI ga (.sttinv ga (sttForm 1)) ∧ Issuable invState eI ga (.sttinv ga (sttForm 0)) ∧ sttCore eI (sttForm 0) = 9 ∧ sttSlot eI (sttForm 0) = 3 ∧
      invState.slotBusy 9 3 = false ∧
      invState.stt.all (fun x => x.core == 9 && x.present && x.dirty && x.backed && (invState.backKey (invState.worldOfWg x.wg) x.bline).any isDevice) = true) := by
  refine ⟨⟨issuable_of ?_, ?_, issuable_of ?_⟩, issuable_of ?_, issuable_of ?_, ?_, ?_, ?_, ?_⟩ <;> decide +kernel
theorem test_tlbinv_of_a_world : after (exec (.tlbinv ga (tlbForm 1)) invState) (fun t => t.tlb.map (·.world) == [1] && (t.thread 0 0).st == 1) = true := by decide +kernel
theorem test_sttinv : after (exec (.sttinv ga (sttForm 0)) invState) (fun t => t.stt.map (fun x => (x.wslot, x.present)) == [(3, false), (4, true)]) = true := by decide +kernel

/-- Code that is not privileged: a page without SYS. -/
def plainCode : State := { invState with tlb := [⟨0, 0, 0, 0, 2 ^ 63 + 2 ^ 62 + 2 ^ 53 + 2 ^ 52⟩] }
theorem system_instructions_may_be_refused :
    plainCode.privileged (envOf plainCode) = false ∧ privileged.privileged eV = true ∧ plainCode.issuer.isSome = true ∧
    ([Instr.rdpr ga (sysForm 20 0x8000), .tlbinv ga (tlbForm 1), .wrpr ga (sysForm 3 2), .sttinv ga (sttForm 1), .finj ga (sysForm 511 2), .halt ga (sysForm 511 0)]).all
      (fun i => i.legal && (plainCode.fallBad (envOf plainCode) i).isNone) = true ∧
    plainCode.privIllegal 2 3 = false ∧ plainCode.finjIllegal (envOf plainCode) (sysForm 511 2) = false ∧ haltWordOk 0 = true ∧ paged.garrun.test = false := by decide +kernel
theorem test_privilege_trap : after (exec (.rdpr ga (sysForm 20 0x8000)) plainCode) (fun t => t.gangs.map (·.status) == [.trapped] &&
      t.worlds.all (fun w => w.2.waiting.map (·.code) == [3])) = true ∧
    after (exec (.wrpr ga (sysForm 4 2)) plainCode) (fun t => t.worlds.all (fun w => w.2.waiting.map (·.code) == [1])) = true := by decide +kernel

/-- Injections in test mode, on die 7 of world 0 at 0x1000; and halts of each kind. -/
def inTest : State := { privileged with garrun := { privileged.garrun with test := true } }
def finjForm (sa : BitVec 9) (prn : BitVec 16) : FY := ⟨sa, 6, 8, 0, prn⟩
def inTest7 : State := State.scalars inTest [(5, 7)]
def eT : Env := envOf inTest7
theorem injections_and_halts_may_issue :
    (∀ n ∈ [1, 2, 3, 4], Issuable inTest7 eT ga (.finj ga (finjForm 5 n))) ∧ inTest7.finjIllegal eT (finjForm 5 1) = false ∧ eT.pair 6 % 4 = 0 ∧
    inTest7.finjKey eT (finjForm 5 1) = some 0x1000 ∧ (Issuable inTest7 eT ga (.finj ga (finjForm 18 1)) ∧ inTest7.finjIllegal eT (finjForm 18 1) = true) ∧
    (∀ r ∈ ([511, 10, 11, 12, 13] : List (BitVec 9)), Issuable privileged eV ga (.halt ga (sysForm r 0))) ∧ eV.s 10 = 0x10000001 ∧ eV.s 11 = 0x20000007 ∧
    eV.s 12 = 0x10000100 ∧ eV.s 13 = 0x20000008 := by
  refine ⟨fun n h => ?_, ?_, ?_, ?_, ⟨issuable_of ?_, ?_⟩, fun r h => ?_, ?_, ?_, ?_, ?_⟩
  case refine_1 => simp only [List.mem_cons, List.not_mem_nil, or_false] at h; obtain rfl | rfl | rfl | rfl := h <;> exact issuable_of (by decide +kernel)
  case refine_7 => simp only [List.mem_cons, List.not_mem_nil, or_false] at h; obtain rfl | rfl | rfl | rfl | rfl := h <;> exact issuable_of (by decide +kernel)
  all_goals decide +kernel
/-- Kind 1 at an address that no page maps, and at one within a word. -/
def finjUnmapped : State := State.scalars inTest7 [(6, 0x10000000)]
def finjUnaligned : State := State.scalars inTest7 [(6, 0x1002)]
theorem injections_may_trap :
    (Issuable finjUnmapped (envOf finjUnmapped) ga (.finj ga (finjForm 5 1)) ∧ finjUnmapped.finjKey (envOf finjUnmapped) (finjForm 5 1) = none ∧
      finjUnmapped.finjIllegal (envOf finjUnmapped) (finjForm 5 1) = false) ∧
    (Issuable finjUnaligned (envOf finjUnaligned) ga (.finj ga (finjForm 5 1)) ∧ (finjUnaligned.finjKey (envOf finjUnaligned) (finjForm 5 1)).isSome = true ∧
      finjUnaligned.finjIllegal (envOf finjUnaligned) (finjForm 5 1) = false) := by
  refine ⟨⟨issuable_of ?_, ?_, ?_⟩, issuable_of ?_, ?_, ?_⟩ <;> decide +kernel
theorem test_finj_traps : after (exec (.finj ga (finjForm 5 1)) finjUnmapped) (fun t => t.worlds.all (fun w => w.2.waiting.map (fun r => (r.code, r.daddr)) == [(0x23, 0x10000000)])) = true ∧
    after (exec (.finj ga (finjForm 5 1)) finjUnaligned) (fun t => t.worlds.all (fun w => w.2.waiting.map (fun r => (r.code, r.daddr)) == [(0x24, 0x1002)])) = true := by decide +kernel
theorem test_finj : after (exec (.finj ga (finjForm 5 1)) inTest7) (fun t => t.injects == [⟨0, 7, 0x1000, 0xFF⟩]) = true ∧
    after (exec (.finj ga (finjForm 5 2)) inTest7) (fun t => (t.die 7).score == 1) = true := by decide +kernel
theorem test_halt : after (exec (.halt ga (sysForm 511 0)) privileged) (fun t => t.gangs.map (fun g => (g.status, g.held)) == [(.halting, true)] && (t.thread 0 0).pc == 16) = true ∧
    after (exec (.halt ga (sysForm 13 0)) privileged) (fun t => t.gangs.map (·.status) == [.trapped]) = true := by decide +kernel
/-- No gang is placed for a halted world or on a halted die, and none that holds a halt is resumed. -/
theorem halts_keep_gangs_out :
    (accepted.launch? 5).any (fun l => accepted.savedGangs 5 == [] && accepted.depsState l == .met && l.gangs != 0) = true ∧
    isRefused (exec (.gangPlacement 5 0) (withWorld (fun w => { w with halted := true }) accepted)) = true ∧
    isRefused (exec (.gangPlacement 5 0) { accepted with dies := accepted.dies.map (fun d => { d with halted := true }) }) = true ∧
    isRefused (exec (.gangResume 0 3) (gangAt .saved (fun g => { g with held := true }))) = true ∧ isRefused (exec (.gangResume 0 3) (gangAt .saved (fun g => { g with heldDie := true }))) = true ∧
    isRefused (exec (.gangResume 0 3) (withWorld (fun w => { w with halted := true }) (gangAt .saved id))) = true ∧
    isRefused (exec (.gangResume 0 3) { gangAt .saved id with dies := [{ Die.new with halted := true }] }) = true := by decide +kernel
theorem test_ghaltrel : after (exec (.ghaltrel (2 * 2 ^ 28)) { (gangAt .saved (fun g => { g with heldDie := true })) with dies := [{ Die.new with halted := true }] })
    (fun t => t.gangs.map (·.heldDie) == [false] && !(t.die 0).halted) = true := by decide +kernel

/-! The host and power (spec 07; 14; 18). -/

/-- The aperture of world 0 starts at address 0; a host write is on its way, another waits behind it. -/
def hosted : State := { paged with iod := { paged.iod with hostWrites := [⟨50, 0, 0x1000, [(0x1000, 0xEE)], false, true, 1⟩, ⟨51, 0, 0x1001, [(0x1001, 0xDD)], false, false, 1⟩] } }
/-- A write over two dies, one route of which is acknowledged at a time. -/
def hostedTwo : State := { paged with iod := { paged.iod with hostWrites := [⟨50, 0, 0x1FFF, [(0x1FFF, 0xEE), (2 ^ 40, 0xDD)], false, true, 2⟩] } }
def shutWorld : State := withWorld (fun w => { w with prot := true }) paged
theorem host_traffic_may_come :
    paged.powered = true ∧ (∀ x ∈ paged.iod.hostWrites, x.world ≠ 0) ∧ paged.apKeys 0 0x1000 4 = [0x1000, 0x1001, 0x1002, 0x1003] ∧
    paged.apFault 0 0x1000 4 .read = none ∧ (paged.apFault 0 0x10000 4 .read).isSome = true ∧ paged.apFault 0 0x1000 4 .write = none ∧
    (∀ k ∈ paged.apKeys 0 0x1000 4, keyAbsent k = false ∧ paged.errs k = false) ∧ (shutWorld.world? 0).any (fun w => w.prot) = true ∧
    (hosted.iod.hostWrites.find? (fun w => w.id == 50)).any (fun w => w.sent && w.keys.filter (fun k => routeOf k.1 == 0) == w.keys) = true ∧ hosted.refuses 0x1000 = false ∧
    hosted.outside 0 0x1000 = false ∧ hostedTwo.outside 0 0x1FFF = false ∧ hostedTwo.refuses 0x1FFF = false ∧
    (hostedTwo.iod.hostWrites.find? (fun w => w.id == 50)).any (fun w => w.sent && w.keys.filter (fun k => routeOf k.1 == 0) == [(0x1FFF, 0xEE)]) = true := by decide +kernel
theorem test_host_aperture_read : after (exec (.hostApertureRead 0 0x1000 4 false) paged) (fun t => t.iod.replies == [.data 0 [0xBB, 0xAA, 0x99, 0x88]]) = true ∧
    after (exec (.hostApertureRead 0 0x1000 4 false) shutWorld) (fun t => t.iod.replies == [.unsupported 0]) = true := by decide +kernel
theorem test_host_aperture_write : after (exec (.hostApertureWrite 0 0x1000 [1] false false) hosted) (fun t => t.iod.hostWrites.map (·.sent) == [true, false, false] && t.mem == hosted.mem) = true ∧
    after (exec (.hostApertureWrite 0 0x1000 [1] true false) hosted) (fun t => t.iod.hostWrites.map (·.sent) == [true, false, true]) = true ∧
    after (exec (.hostApertureWrite 0 0x1000 [1] true false) shutWorld) (fun t => t.iod.replies == [.unsupported 0] && t.iod.hostWrites.isEmpty) = true := by decide +kernel
theorem test_iod_write_acknowledged : after (exec (.iodWriteAcknowledged ⟨50, 0⟩) hosted) (fun t => wordAt t 0x1000 == 0x8899AAEE && t.iod.hostWrites.map (fun w => (w.id, w.sent)) == [(51, true)]) = true ∧
    after (exec (.iodWriteAcknowledged ⟨50, 0⟩) hostedTwo) (fun t => t.homeByte 0x1FFF == 0xEE && t.homeByte (2 ^ 40) == 0 && t.iod.hostWrites.map (·.keys) == [[(2 ^ 40, 0xDD)]]) = true := by
  decide +kernel
/-- The last byte of the window, and one byte beyond it. -/
theorem test_host_window_access : after (exec (.hostWindowAccess 0 (2 ^ 23 - 1) 0 (some [7])) paged) (fun t => t.homeByte (keyWindow + 2 ^ 23 - 1) == 7) = true ∧
    isRefused (exec (.hostWindowAccess 0 (2 ^ 23) 0 (some [7])) paged) = true := by decide +kernel

/-- An AtomicOp through the aperture, at an address within a word, and behind a posted write (spec 18, R369). -/
theorem test_host_atomic : after (hostAtomicMove paged 0 0x1000 false false (.fetchAdd 2)) (fun t => wordAt t 0x1000 == 0x8899AABD && t.iod.replies == [.data 0 [0xBB, 0xAA, 0x99, 0x88]]) = true ∧
    after (hostAtomicMove paged 0 0x1002 false false (.swap 2)) (fun t => t.mem == paged.mem && t.iod.replies == [.unsupported 0]) = true ∧
    after (hostAtomicMove hosted 0 0x1000 true false (.cas 5 0)) (fun t => t.iod.replies.isEmpty) = true := by decide +kernel
theorem host_atomics_may_come : keyWindow % 4 = 0 ∧ paged.errs keyWindow = false ∧ (∀ x ∈ paged.iod.hostWrites, x.world ≠ 0) ∧
    after (hostAtomicMove paged 0 0 true false (.cas 5 0)) (fun t => wordAt t keyWindow == 5) = true := by decide +kernel
/-- The host's own write leaves the line that the LLC holds; before READY a configuration request is to be tried again (R173; R376). -/
theorem test_outside_write_goes_under_the_line : after (move { paged with iod := { paged.iod with hostLines := [⟨0, keyHost / 128, List.replicate 128 7, List.replicate 32 false⟩] } }
    (.outside keyHost [9])) (fun t => t.homeByte keyHost == 7 && memGet t.mem keyHost == 9) = true := by decide +kernel
theorem test_configuration_before_ready : after (configMove { paged with garrun := { paged.garrun with ready := false, stage := 3 } } 5) (fun t => t.iod.replies == [.retry 5]) = true ∧
    after (coolantMove paged 1100) (fun t => t.garrun.temp == 1100) = true := by decide +kernel

/-- World 3 in a state, with nothing running in it. -/
def third (w : World) : State := { paged with worlds := paged.worlds ++ [(3, w)] }
def lockedWorld : World := { World.new with state := 2, prot := true, keys := true }
theorem worlds_may_change :
    (paged.world? 3).isNone = true ∧ ((third World.new).world? 3).any (fun w => w.state == 1 && !w.error && (third World.new).noLaunch 3 w) = true ∧ (third World.new).garrun.test = false ∧
    ((third lockedWorld).world? 3).any (fun w => w.state == 2 && w.prot && !w.error) = true ∧ (third lockedWorld).worldIdle 3 = true := by decide +kernel
theorem test_world_create : after (exec (.worldCreate 3) paged) (fun t => t.world? 3 == some World.new) = true ∧ isRefused (exec (.worldCreate 256) paged) = true := by decide +kernel
theorem test_lock_interface : after (exec (.lockInterface 3) (third World.new)) (fun t => t.world? 3 == some lockedWorld) = true ∧
    after (exec (.lockInterface 3) (third lockedWorld)) (fun t => t.world? 3 == some lockedWorld) = true := by decide +kernel
theorem test_start_interface : after (exec (.startInterface 3) (third lockedWorld)) (fun t => (t.world? 3).any (fun w => w.state == 3)) = true ∧
    after (exec (.startInterface 3) (third World.new)) (fun t => (t.world? 3).any (fun w => w.state == 1)) = true := by decide +kernel

/-- Garrun registers at their bounds, and the mailbox. -/
def mailbox (n world : Nat) : BitVec 56 := BitVec.ofNat 56 (world * 2 ^ 48 + n)
theorem registers_may_be_written :
    (0x1001 : BitVec 64) &&& 0xFF01 = 0x1001 ∧ ((0x1001 : BitVec 64).extractLsb' 8 8).toNat = 16 ∧ ((0x0F00 : BitVec 64).extractLsb' 8 8).toNat = 15 ∧
    (∀ x ∈ paged.worlds, x.2.prot = false) ∧ (shutWorld.worlds.any (fun x => x.2.prot)) = true ∧ collOk redGroup = true ∧ paged.postedDone 0 = true ∧ hosted.postedDone 0 = false ∧ prnOk 2 = true ∧ paged.privIllegal 2 3 = false ∧ prnOk 4 = true ∧ paged.privIllegal 4 3 = false ∧
    paged.garrun.busy = false ∧ paged.versions = [] ∧ paged.checker.rerun = [] ∧ ((mailbox 16 0).extractLsb' 48 8).toNat = 0 ∧ (mailbox 16 0).toNat % 2 ^ 48 = 16 ∧
    (paged.world? ((mailbox 0 9).extractLsb' 48 8).toNat).isNone = true := by decide +kernel
theorem test_gpolicy : after (exec (.gpolicy 0x1001) paged) (fun t => t.garrun.thresh == 16 && !t.garrun.all) = true ∧ after (exec (.gpolicy 0x0F00) paged) (fun t => t.garrun.thresh == 128) = true := by
  decide +kernel
theorem test_gtest : after (exec (.gtest 1) paged) (fun t => t.garrun.test) = true ∧ after (exec (.gtest 1) shutWorld) (fun t => !t.garrun.test) = true := by decide +kernel
theorem test_tables : after (exec (.grtdata 7) { paged with garrun := { paged.garrun with grtidx := 9 } }) (fun t => tabGet 0 9 t.iod.routing == 7) = true ∧
    after (exec (.gcgdata redGroup) paged) (fun t => assoc 0 t.iod.coll == some redGroup) = true := by decide +kernel
theorem test_gprdata : after (exec (.gprdata 3) { paged with garrun := { paged.garrun with gprsel := 2 } }) (fun t => t.readPriv 2 == 3) = true := by decide +kernel
theorem test_gpwrcap : after (exec (.gpwrcap 7 600) paged) (fun t => (t.die 7).pwrcap == 600) = true ∧ after (exec (.gpwrcap 7 601) paged) (fun t => (t.die 7).pwrcap == 300) = true := by decide +kernel
theorem test_register_write : after (exec (.registerWrite .grtidx 4095) paged) (fun t => t.garrun.grtidx == 4095) = true ∧
    after (exec (.registerWrite .grtidx 4096) paged) (fun t => t.garrun.grtidx == 0) = true := by decide +kernel
theorem test_fire_ring_base : after (exec (.fireRingBase (mailbox 0x5000 0)) paged) (fun t => (t.world? 0).any (fun w => w.fire.base == 0x500 && w.fire.baseSet) && t.iod.irqs == [(0, 1)]) = true := by
  decide +kernel
theorem test_fire_ring_size : after (exec (.fireRingSize (mailbox 16 0)) paged) (fun t => (t.world? 0).any (fun w => w.fire.size == 16)) = true ∧
    after (exec (.fireRingSize (mailbox 17 0)) paged) (fun t => t.garrun.refused) = true := by decide +kernel
theorem test_fire_ring_head : after (exec (.fireRingHead (mailbox 5 0)) paged) (fun t => (t.world? 0).any (fun w => w.fire.head == 5)) = true := by decide +kernel
theorem test_end_test_injections : after (exec (.endTestInjections (mailbox 0 0)) { paged with injects := [⟨0, 0, 0, 1⟩, ⟨1, 0, 0, 1⟩] }) (fun t => t.injects.map (·.world) == [1]) = true := by decide +kernel

/-- Throttled, draining with nothing running, asleep, and without power with everything kept. -/
def throttled : State := { paged with garrun := { paged.garrun with therm := true, caps := List.replicate 8 300 }, dies := paged.dies.map (fun d => { d with pwrcap := 75 }) }
def draining : State := { gangAt .saved id with checker := { paged.checker with draining := true } }
def sleeping : State := nextOf (exec .deepSleepEnter draining)
/-- Two links wake: what one peer showed is accepted still, the other's is not. -/
def sleepingLinked : State := { sleeping with iod := { sleeping.iod with links := [linkOf 0 (some 4), linkOf 0 (some 5)] }, checker := { sleeping.checker with roots := [4], minima := [1, 1, 1, 1, 1] } }
def unpowered : State := { gangAt .saved id with powered := false, checker := { paged.checker with marker := true } }
def boot (ok : Bool) : BootReport := ⟨ok, true, 0xFF, true⟩
theorem power_may_change :
    paged.garrun.therm = false ∧ throttled.garrun.therm = true ∧ throttled.powered = true ∧ (1120 : BitVec 16).toNat = 1120 ∧ (1039 : BitVec 16).toNat < 1040 ∧ (1280 : BitVec 16).toNat = 1280 ∧
    paged.checker.draining = false ∧ draining.checker.draining = true ∧ draining.allSaved = true ∧ sleeping.powered = false ∧ sleeping.checker.asleep = true ∧ sleeping.checker.keyState = true ∧ sleepingLinked.checker.keyState = true ∧
    sleepingLinked.powered = false ∧ sleepingLinked.checker.asleep = true ∧ sleepingLinked.checker.accepts (evidence 4) = true ∧ sleepingLinked.checker.accepts (evidence 5) = false ∧
    paged.bootStage (boot false) = some 1 ∧ paged.bootStage (boot true) = none ∧ unpowered.powered = false ∧ unpowered.checker.asleep = false ∧ unpowered.checker.training = true ∧
    unpowered.checker.keyState = true ∧ unpowered.checker.marker = true ∧ (∀ d ∈ unpowered.stacks, (boot true).stacksOk.getLsbD d = true) := by decide +kernel
theorem test_thermal_throttle : after (exec (.thermalThrottle 1120) paged) (fun t => t.garrun.therm && (t.die 7).pwrcap == 75) = true ∧
    isRefused (exec (.thermalThrottle 1119) paged) = true := by decide +kernel
theorem test_coolant : after (exec (.coolantOutletBelow65c 1039) throttled) (fun t => !t.garrun.therm && (t.die 7).pwrcap == 300) = true ∧
    isRefused (exec (.coolantOutletBelow65c 1040) throttled) = true := by decide +kernel
theorem test_thermal_shutdown : after (exec (.thermalShutdown 1280) paged) (fun t => t.checker.draining && t.gangs.map (·.status) == [.halting]) = true ∧
    after (exec (.thermalShutdown 1280) { draining with iod := { draining.iod with hostLines := [⟨0, keyHost / 128, List.replicate 128 7, List.replicate 32 true⟩] } })
      (fun t => !t.powered && t.gangs.length == 1 && t.iod.hostLines.isEmpty && memGet t.mem keyHost == 7) = true := by decide +kernel
theorem test_deep_sleep : after (exec .deepSleepWake sleeping) (fun t => t.powered && !t.checker.draining && t.gangs.length == 1 && t.iod.links.all (·.slot)) = true ∧
    after (exec .deepSleepWake sleepingLinked) (fun t => t.iod.links.map (fun x => (x.up, x.slot, x.peer)) == [(true, true, some 1), (false, false, none)]) = true := by decide +kernel
theorem test_aon_rail_loss : after (exec .aonRailLoss shutWorld) (fun t => t.worlds.all (fun w => w.2.error && !w.2.keys) && !t.checker.keyState) = true := by decide +kernel
theorem test_cold_start : after (exec (.coldStart (boot false)) paged) (fun t => !t.powered && t.garrun.stage == 1) = true ∧
    after (exec (.coldStart ⟨true, true, 0xF0, true⟩) paged) (fun t => t.powered && t.mem.isEmpty && !(t.die 0).live && (t.die 4).live && t.checker.cpB) = true := by decide +kernel
theorem test_warm_start : after (exec (.warmStart ⟨true, true, true⟩ (boot true)) unpowered) (fun t => t.powered && t.mem == unpowered.mem && t.gangs.length == 1) = true ∧
    after (exec (.warmStart ⟨true, true, false⟩ (boot true)) unpowered) (fun t => t.powered && t.gangs.isEmpty) = true := by decide +kernel

/-! The machine: traps, a step, ill-formed instructions and the words of the encoding (spec 02, 03, 14). -/

/-- A fault queue of four slots at 0x9000 with room, full, and with records waiting; a world with 256 records waiting. -/
def faulting (tail : BitVec 16) (n : Nat) : State := withWorld (fun w => { w with fqbase := 0x90, fqsize := 2, fqhead := 0, fqtail := tail, waiting := List.replicate n FaultRec.none }) paged
theorem traps_may_be_taken :
    (paged.gang? eP.gang.id) = some eP.gang ∧
    ((faulting 3 0).world? 0).any (fun w => w.fqsize != 0 && w.waiting == [] && decide (w.fqCount < w.fqCapacity) && (w.fqSlot w.fqtail).isSome) = true ∧
    ((faulting 4 0).world? 0).any (fun w => decide (w.fqCapacity ≤ w.fqCount)) = true ∧ ((faulting 0 256).world? 0).any (fun w => decide (256 ≤ w.waiting.length)) = true ∧
    paged.issuer.isSome = true ∧ Instr.legal (.nop ga (fc 1)) = false ∧ Instr.legal (.mov ga (v3)) = true := by decide +kernel
theorem test_trap_record : ((faulting 3 0).takeTrap (envOf (faulting 3 0)) { code := 0x24, daddr := 0x123, wr := true }).worlds.all (fun w => w.2.fqtail == 4 && w.2.waiting.isEmpty) = true ∧
    ((((faulting 3 0).world? 0).bind (fun w => w.fqSlot 3)).any (fun k =>
      let x := memNat ((faulting 3 0).takeTrap (envOf (faulting 3 0)) { code := 0x24, daddr := 0x123, wr := true }).mem k 32
      x % 256 == 0x24 && x / 2 ^ 11 % 2 == 1 && x / 2 ^ 48 % 2 ^ 32 == 1 && x / 2 ^ 80 % 2 ^ 56 == 8 && x / 2 ^ 136 % 2 ^ 56 == 0x123)) = true ∧
    ((faulting 0 256).takeTrap (envOf (faulting 0 256)) { code := 1 }).worlds.all (fun w => w.2.stalled) = true := by decide +kernel

/-- An instruction whose register is beyond the kernel's; one at the end of a block with a word after it; one that waits for a load. -/
def narrow : State := { paged with launches := [{ benchLaunch 0 with words := listPut 0 benchWords 3 (BitVec.ofNat 64 (5 * 2 ^ 52 + 384 * 2 ^ 43 + 16 * 2 ^ 38 + 64 * 2 ^ 23 + 3 * 2 ^ 4)) }] }
def lastOfBlock : State := { coded [0] (fun _ x => x) with threads := [(threadKey 0 0, { benchThread with pc := 0 })] }
theorem issue_may_trap_or_hold :
    (narrow.issuer.isSome = true ∧ (narrow.fallBad (envOf narrow) (.mov ga v3)).isNone = true ∧
      ((Instr.mov ga v3).opnds 0 0).any (fun o => !o.inRange (envOf narrow).l.vregs (envOf narrow).l.acc) = true) ∧
    ((lastOfBlock.fallBad (envOf lastOfBlock) (.nop ga (fc 0))).any (fun x => x.1 == 8 && (match x.2 with | .word _ => true | _ => false)) = true) ∧
    (lastOfBlock.decodeTrap (envOf lastOfBlock) (.witp ga (witpForm 8)) = none ∧ lastOfBlock.condsKnown (envOf lastOfBlock) ga (.witp ga (witpForm 8)) = true ∧ lastOfBlock.raised = none ∧
      (lastOfBlock.fallBad (envOf lastOfBlock) (.witp ga (witpForm 8))).any (fun x => x.1 == 8 && (match x.2 with | .word _ => true | _ => false)) = true ∧
      (lastOfBlock.takeTrap (envOf lastOfBlock) { code := 1 }).raised = some 1) ∧
    (loading.decodeTrap (envOf loading) readsV5 = none ∧ (loading.fallBad (envOf loading) readsV5).isNone = true ∧ (loading.poisonHit (envOf loading) (readsV5.vregs 0 0) readsV5.preds).isNone = true ∧
      loading.scoreHold (envOf loading) ga readsV5 (readsV5.vregs 0 0) readsV5.preds = true) := by decide +kernel
theorem test_register_out_of_range_traps : after (exec (.mov ga v3) narrow) (fun t => t.worlds.all (fun w => w.2.waiting.map (·.code) == [4])) = true := by decide +kernel
theorem test_block_end_without_a_header_traps : after (exec (.nop ga (fc 0)) lastOfBlock) (fun t => t.worlds.all (fun w => w.2.waiting.map (fun r => (r.code, r.daddr, r.fetch)) == [(2, 8, true)])) = true := by
  decide +kernel
theorem test_lowest_code_wins : after (exec (.witp ga (witpForm 8)) lastOfBlock) (fun t => t.worlds.all (fun w => w.2.waiting.map (·.code) == [1])) = true := by decide +kernel
theorem test_pending_load_holds_its_reader : after (exec readsV5 loading) (fun t => t.groups.all (·.held) && (t.thread 0 0).pc == 16) = true := by decide +kernel

/-! One step. The bench of `withFetchWord` issues the word after a header. -/

def stepAt (w : Nat) : State := State.reset.withFetchWord 64 w
theorem step_may_run_an_instruction :
    (stepAt 0xA0EF000000000000).agenda = [.issue 0 0] ∧
    (((stepAt 0xA0EF000000000000).tick ((stepAt 0xA0EF000000000000).issueClocks 0 0) []).choose 0 0).any (fun g =>
      let u := ((stepAt 0xA0EF000000000000).tick ((stepAt 0xA0EF000000000000).issueClocks 0 0) []).issuing g
      u.issuer.any (fun e => (u.thread e.w.id e.g.leader).left == 1 && (match u.translate e.g.core e.gang.world (u.iaddr e).toNat with
        | .ok tr => pteX tr.leaf.pte && !keyAbsent tr.key && !u.uncrossed tr.key && (match decode (BitVec.ofNat 64 (leWord (memBytes u.mem tr.key 8))) with | .ok (.nop ..) => true | _ => false)
        | .error _ => false) && !u.inScan g)) = true ∧ (stepAt 0xA0EF000000000000).issueClocks 0 0 = 1 := by decide +kernel
/-- Two groups of one partition issue `movi` in one clock, each once. -/
def twoGroups : State :=
  let s := stepAt 0x0A0F050000000001
  { s with groups := s.groups.flatMap (fun g => [{ g with members := [0], stamp := 1 }, { g with id := g.id + 1, members := [1], stamp := 2 }]), agenda := [.issue 0 0, .issue 0 0, .issue 0 0] }
theorem test_a_scan_issues_each_ready_group_once :
    after (step (nextOf (step twoGroups))) (fun t => t.clock == 1 && (t.thread 0 0).pc == 16 && (t.thread 0 1).pc == 16 && (t.choose 0 0).isNone) = true := by decide +kernel
/-- `nop` (opcode 0x50, FN 7) moves the group on; opcode 0 traps ILLEGAL; an event in the agenda happens. -/
theorem test_step_runs_the_word : after (step (stepAt 0xA0EF000000000000)) (fun t => (t.thread 0 31).pc == 16 && t.clock == 1 && t.cur == none) = true := by decide +kernel
theorem test_step_refuses_opcode_0 : after (step (stepAt 0)) (fun t => t.gangs.map (·.status) == [.trapped] && (t.thread 0 0).pc == 8) = true := by decide +kernel
theorem test_step_fires_an_event : after (step { paged with agenda := [.event (.gpwrcap 7 600)] }) (fun t => (t.die 7).pwrcap == 600 && t.clock == 2 && t.agenda.isEmpty) = true := by decide +kernel
theorem memory_is_canonical : State.reset.memOk = true ∧ paged.memOk = true ∧ after (step (stepAt 0)) (fun t => t.memOk) = true := by decide +kernel

/-! Special registers at the largest thread number (8191) and register numbers at their bounds. -/

theorem test_special_registers : paged.special eP 8191 0 = 8191 ∧ paged.special eP 8191 1 = 31 ∧ paged.special eP 8191 2 = 255 := by decide +kernel
theorem test_hard_wired_registers : (benchThread.setV 254 7).v 254 = 7 ∧ (benchThread.setV 255 7).v 255 = 0 ∧ (benchThread.setP 15 false).p 15 = true ∧ ((benchWg 0).setSs [0] 383 7).s 0 383 = 7 ∧
    ((benchWg 0).setSs [0] 511 7).s 0 511 = 0 ∧ ((benchWg 0).setSs [0] 383 7).s 1 383 = 0 := by decide

/-! Ill-formed instructions: each check of `Instr.legal` refuses a term (spec 03, R62 to R70, R73, R75 to R79, R81, R82). -/

def bad (is : List Instr) : Bool := is.all (fun i => !i.wf)
def v (rs : BitVec 3) (ty : BitVec 2) (cl : BitVec 8) (slot : BitVec 3 := 0) : V3 := ⟨5, 1, 2, 3, slot, rs, ty, cl⟩
def vS (d : BitVec 8) (s : BitVec 9) (rsv : BitVec 5) (ty : BitVec 2) (cl : BitVec 8) : V3S := ⟨d, 1, 2, s, rsv, ty, cl⟩
def mC (cl : BitVec 12) : FMC := ⟨4, 6, 8, 10, cl⟩
def mL (sz : BitVec 2) (cnt : BitVec 2) (sx : BitVec 1) (ord : BitVec 2) (scope : BitVec 3) : FM := ⟨5, 4, 255, 0, sz, cnt, sx, ord, scope⟩

theorem ill_formed_guard : bad [.add ⟨true, 15⟩ v3] = true := by decide
theorem ill_formed_integer : bad [.add ga (v 1 0 0), .sub ga (v 0 2 0), .mul ga (v 0 0 1), .mulhi ga (v 7 0 0), .mad ga (v 0 0 0 1), .min ga (v 0 3 0), .max ga (v 0 0 9), .abs ga (v 0 1 0), .neg ga (v 2 0 0),
    .addc ga (v 7 0 0), .subb ga (v 0 1 0), .lea ga (v 0 0 5), .and ga (v 7 0 0), .or ga (v 0 1 0), .xor ga (v 0 0 1), .not ga (v 0 0 0 1), .shl ga (v 1 0 0), .shr ga (v 0 2 0), .sar ga (v 0 0 2), .rot ga (v 3 0 0),
    .popc ga (v 0 1 0), .clz ga (v 0 0 1), .ctz ga (v 4 0 0), .brev ga (v 0 3 0), .bfe ga (v 0 2 0), .bfi ga (v 0 1 0), .sel ga (v 0 0 16), .cmp ga (v 0 0 6), .cmpImm ga ⟨2, 1, 7⟩ 6 false, .mov ga (v 0 0 1),
    .movs ga (vS 5 7 1 0 0)] = true := by decide
theorem ill_formed_float : bad [.fadd ga (v 7 0 0), .fsub ga (v 0 1 0), .fmul ga (v 0 0 1), .fma ga (v 0 0 0 1), .fmin ga (v 1 0 0), .fmax ga (v 2 0 0), .fcmp ga (v 0 0 6), .fclass ga (v 0 0 1), .frnd ga (v 4 0 0),
    .frcp ga (v 7 0 0), .frsq ga (v 1 0 0), .fsqrt ga (v 0 2 0), .fex2 ga (v 1 0 0), .flg2 ga (v 0 0 1), .fsin ga (v 1 0 0), .fcos ga (v 0 3 0), .cvt ga (v 0 0 0xA0), .cvt ga (v 0 0 0x0A), .cvt ga (v 4 0 0x94),
    .pack ga (v 0 0 0x44), .unpack ga (v 0 0 0x40), .scl ga (v 0 0 2)] = true := by decide
theorem ill_formed_cross_lane : bad [.shflIdx ga (vS 5 7 0 0 1), .shflUp ga (vS 5 7 0 0 64), .shflDown ga (vS 5 7 0 1 0), .shflXor ga (vS 5 7 0 0 32), .voteAll ga (vS 5 7 0 0 16), .voteAny ga (vS 5 7 1 0 0),
    .voteBallot ga (vS 5 7 0 2 0), .matchAny ga (vS 5 7 0 0 1), .matchAll ga (vS 5 384 0 0 0), .bcast ga (vS 5 7 0 0 32), .gscan ga (vS 5 7 0 0 2), .minidx ga (vS 254 7 0 0 0), .maxidx ga (vS 5 7 0 3 0),
    .redux ga (vS 5 7 0 3 0) .add, .redux ga (vS 5 510 0 0 0) .min] = true := by decide
theorem ill_formed_scalar : bad [.sadd ga ⟨384, 1, 2, 0, 0, 0, 0⟩, .ssub ga ⟨3, 400, 2, 0, 0, 0, 0⟩, .smul ga ⟨3, 1, 510, 0, 0, 0, 0⟩, .sand ga ⟨3, 1, 2, 0, 1, 0, 0⟩, .sor ga ⟨3, 1, 2, 0, 0, 1, 0⟩, .sxor ga ⟨3, 1, 2, 0, 0, 0, 1⟩,
    .sshl ga ⟨3, 1, 2, 0, 2, 0, 0⟩, .sshr ga ⟨3, 1, 2, 0, 0, 0, 2⟩, .smov ga ⟨3, 1, 2, 0, 0, 3, 0⟩, .scmp ga ⟨3, 1, 2, 0, 0, 2, 0⟩, .scmp ga ⟨16, 1, 2, 0, 0, 0, 0⟩, .saddImm ga ⟨384, 1, 0⟩, .ssubImm ga ⟨3, 384, 0⟩,
    .smulImm ga ⟨3, 385, 0⟩, .sandImm ga ⟨500, 1, 0⟩, .sorImm ga ⟨3, 510, 0⟩, .sxorImm ga ⟨384, 1, 0⟩, .sshlImm ga ⟨3, 384, 0⟩, .sshrImm ga ⟨384, 1, 0⟩, .scmpImm ga ⟨3, 1, 0x30000000⟩, .smovK ga ⟨3, 1, 0⟩,
    .rdsrScalar ga ⟨3, 1, 0, 0, 0, 0, 0⟩, .rdsrScalar ga ⟨3, 13, 0, 0, 0, 0, 0⟩, .rdsrVector ga ⟨256, 0, 0, 0, 0, 0, 0⟩, .sld ga ⟨384, 1, 0⟩] = true := by decide
theorem ill_formed_memory : bad [.ld ga (mL 3 0 0 0 0), .ld ga (mL 0 1 0 0 0), .ld ga (mL 2 0 0 2 3), .ld ga (mL 2 0 0 0 1), .ld ga (mL 2 0 0 1 6), .ldp ga (mL 2 0 0 1 0), .lds ga (mL 2 0 0 0 2), .ldfrag ga (mL 0 0 0 0 0),
    .st ga (mL 2 0 1 0 0), .st ga (mL 2 0 0 1 3), .sts ga (mL 2 0 0 0 2), .atom ga ⟨5, 4, 255, 2, 3, 0, 0, 3⟩ .add, .atom ga ⟨5, 4, 255, 2, 3, 0, 1, 0⟩ .add, .atoms ga ⟨5, 4, 255, 2, 3, 0, 2, 0⟩ .add,
    .atom ga ⟨5, 5, 255, 2, 3, 0, 0, 0⟩ .add, .pref ga (mL 1 0 0 0 0), .pgreq ga (mL 0 1 0 0 0), .hflush ga (mC 1), .hinv ga (mC 2), .cwb ga ⟨5, 6, 8, 10, 0⟩, .fence ga (fc 3), .fence ga (fc 14), .fence ga (fc 32)] = true := by decide
theorem ill_formed_engine : bad [.cpy ga (mC 0), .cpyLw ga (mC 0x18), .cpyRing ga (mC 8), .cpyg ga (mC 0x11), .cpyb ga (mC 0x12), .bulk ga (mC 3), .bulk ga (mC 0x100), .stwait ga (mC 8), .strel ga (mC 16), .hand ga (mC 2), .hand ga (mC 128),
    .take ga ⟨256, 6, 0, 0, 3⟩, .take ga (mC 2), .send ga (mC 4), .post ga (mC 1), .rprobe ga ⟨5, 6, 0, 0, 0⟩, .rwait ga (mC 1), .rcancel ga (mC 1), .acset ga (mC 32), .acwait ga (mC 16)] = true := by decide
theorem ill_formed_matrix : bad [.mma ga ⟨16, 0, 0, 8, 0, 0, 0, 0, 8⟩, .mma ga ⟨0, 0, 0, 8, 0, 1, 0, 0, 8⟩, .mma ga ⟨0, 16, 0, 8, 0, 0, 0, 0, 8⟩, .mma ga ⟨0, 0, 0, 8, 0, 0, 0, 0, 16⟩, .mmac ga ⟨0, 0, 16, 8, 0, 0, 0, 0, 8⟩,
    .mproj ga ⟨0, 0, 1, 0, 1, 0, 0, 0, 0⟩, .accz ga ⟨0, 0, 0, 0, 0, 0, 0, 0, 1⟩, .cvset ga ⟨0, 0, 0, 0, 0, 0, 0, 1, 0⟩, .accld ga ⟨0, 4, 255, 0, 3, 0⟩, .accst ga ⟨0, 4, 255, 0, 1, 4⟩] = true := by decide
theorem ill_formed_witness : bad [.witb ga (mC 1), .witb ga (mC 0x300), .witp ga (mC 6), .witp ga (mC 16), .wite ga (mC 1), .gver ga (mC 1)] = true := by decide
theorem ill_formed_control : bad [.br ga ⟨511, 1, 0⟩, .brc ga ⟨384, 0, 0⟩, .call ga ⟨511, 1, 0⟩, .ret ga (fc 1), .reform ga (fc 1), .exit ga (fc 1), .yield ga (fc 1), .nop ga (fc 1), .trap ga (fc 0x10000), .wait ga (fc 0x10000000),
    .bar ga (fc 0x30), .bar ga (fc 0x18), .bar ga (fc 0x24), .barx ga ⟨7, 0, 0x20⟩, .launch ga (mC 1), .cancel ga (mC 1), .hcwait ga (mC 1), .hcwait ga (mC 6)] = true := by decide
theorem ill_formed_system : bad [.rdpr ga ⟨5, 0, 0, 1, 2⟩, .rdpr ga ⟨5, 0, 0, 0, 0x8002⟩, .wrpr ga ⟨384, 0, 0, 0, 2⟩, .tlbinv ga ⟨4, 0, 0, 0, 3⟩, .sttinv ga ⟨4, 0, 0, 0, 2⟩, .finj ga ⟨4, 0, 0, 0, 0⟩, .finj ga ⟨4, 0, 0, 0, 5⟩,
    .halt ga ⟨4, 0, 0, 0, 1⟩] = true := by decide

/-! Words of the encoding, built from the fields of spec 03, R55 to R67, with the opcodes of R71. A word is OP at 57, FN at 53, GN at 52,
GP at 48, and its family's fields. -/

def word (op fn : Nat) (fields : List (Nat × Nat)) : Code := BitVec.ofNat 64 (op * 2 ^ 57 + fn * 2 ^ 53 + 15 * 2 ^ 48 + (fields.map (fun x => x.2 * 2 ^ x.1)).foldl (· + ·) 0)
def reads (w : Code) (i : Instr) : Bool := match decode w with | .ok j => j == i | .error _ => false
def readsAll (op first : Nat) (fields : List (Nat × Nat)) (is : List Instr) : Bool := ((List.range is.length).zip is).all (fun x => reads (word op (first + x.1) fields) x.2)

/-- D 5, A 6, B 12, C 3. -/
def fV : List (Nat × Nat) := [(40, 5), (32, 6), (24, 12), (16, 3)]
def iV : V3 := ⟨5, 6, 12, 3, 0, 0, 0, 0⟩
def iI : VI := ⟨5, 6, 0xFFFFFFFE⟩
def fI : List (Nat × Nat) := [(40, 5), (32, 6), (0, 0xFFFFFFFE)]
/-- D 5, A 6, B 12, S 300. -/
def fS : List (Nat × Nat) := [(40, 5), (32, 6), (24, 12), (15, 300)]
def iS : V3S := ⟨5, 6, 12, 300, 0, 0, 0⟩

theorem decode_integer :
    readsAll 0x01 0 fV [.add ga iV, .sub ga iV, .mul ga iV, .mulhi ga iV, .mad ga iV, .min ga iV, .max ga iV, .abs ga iV, .neg ga iV, .addc ga iV, .subb ga iV, .lea ga iV] = true ∧
    readsAll 0x02 0 fV [.and ga iV, .or ga iV, .xor ga iV, .not ga iV, .shl ga iV, .shr ga iV, .sar ga iV, .rot ga iV, .popc ga iV, .clz ga iV, .ctz ga iV, .brev ga iV, .bfe ga iV, .bfi ga iV, .sel ga iV, .cmp ga iV] = true ∧
    readsAll 0x03 0 fI [.addImm ga iI, .subImm ga iI, .mulImm ga iI, .minImm ga iI false, .minImm ga iI true, .maxImm ga iI false, .maxImm ga iI true, .andImm ga iI, .orImm ga iI, .xorImm ga iI, .shlImm ga iI, .shrImm ga iI,
      .sarImm ga iI, .rotImm ga iI] = true ∧
    reads (word 0x04 0xB fI) (.cmpImm ga iI 5 true) = true ∧ reads (word 0x05 0 fI) (.movi ga iI) = true ∧ reads (word 0x06 0 fV) (.mov ga iV) = true ∧ reads (word 0x07 0 fS) (.movs ga iS) = true ∧
    reads (word 0x01 0 ((10, 5) :: (8, 1) :: fV)) (.add ga ⟨5, 6, 12, 3, 0, 5, 1, 0⟩) = true ∧ reads (word 0x02 15 ((8, 1) :: (0, 5) :: fV)) (.cmp ga ⟨5, 6, 12, 3, 0, 0, 1, 5⟩) = true := by decide +kernel
theorem decode_float :
    readsAll 0x08 0 fV [.fadd ga iV, .fsub ga iV, .fmul ga iV, .fma ga iV, .fmin ga iV, .fmax ga iV, .fcmp ga iV, .fclass ga iV, .frnd ga iV] = true ∧
    readsAll 0x09 0 fV [.frcp ga iV, .frsq ga iV, .fsqrt ga iV, .fex2 ga iV, .flg2 ga iV, .fsin ga iV, .fcos ga iV] = true ∧
    readsAll 0x0A 0 fI [.faddImm ga iI, .fsubImm ga iI, .fmulImm ga iI, .fminImm ga iI, .fmaxImm ga iI] = true ∧
    reads (word 0x0B 0 ((13, 5) :: (10, 7) :: (0, 0x42) :: fV)) (.cvt ga ⟨5, 6, 12, 3, 5, 7, 0, 0x42⟩) = true ∧ reads (word 0x0B 1 ((0, 5) :: fV)) (.pack ga ⟨5, 6, 12, 3, 0, 0, 0, 5⟩) = true ∧
    reads (word 0x0B 2 ((0, 5) :: fV)) (.unpack ga ⟨5, 6, 12, 3, 0, 0, 0, 5⟩) = true ∧ reads (word 0x0B 3 ((0, 1) :: fV)) (.scl ga ⟨5, 6, 12, 3, 0, 0, 0, 1⟩) = true ∧
    reads 0x104F06060C000000 (.fmul ga ⟨6, 6, 12, 0, 0, 0, 0, 0⟩) = true := by decide +kernel
theorem decode_cross_lane_and_scalar :
    readsAll 0x10 0 fS [.shflIdx ga iS, .shflUp ga iS, .shflDown ga iS, .shflXor ga iS, .voteAll ga iS, .voteAny ga iS, .voteBallot ga iS, .matchAny ga iS, .matchAll ga iS, .bcast ga iS, .gscan ga iS, .minidx ga iS, .maxidx ga iS] = true ∧
    readsAll 0x11 0 fS [.redux ga iS .add, .redux ga iS .min, .redux ga iS .max, .redux ga iS .and, .redux ga iS .or, .redux ga iS .xor] = true ∧
    readsAll 0x11 6 fS [.redux ga iS .fadd, .redux ga iS .fmin, .redux ga iS .fmax] = true ∧ reads (word 0x11 0 ((8, 1) :: fS)) (.redux ga { iS with ty := 1 } .add) = true ∧
    reads 0x200F070306048000 (.shflIdx ga ⟨7, 3, 6, 9, 0, 0, 0⟩) = true ∧ reads 0x216F020800048100 (.minidx ga ⟨2, 8, 0, 9, 0, 1, 0⟩) = true ∧
    (let f := [(39, 300), (30, 7), (21, 9), (12, 0)]; let i : SR := ⟨300, 7, 9, 0, 0, 0, 0⟩
     readsAll 0x18 0 f [.sadd ga i, .ssub ga i, .smul ga i, .sand ga i, .sor ga i, .sxor ga i, .sshl ga i, .sshr ga i, .smov ga i] = true) ∧
    reads (word 0x18 9 [(39, 3), (30, 7), (21, 9), (8, 1), (0, 5)]) (.scmp ga ⟨3, 7, 9, 0, 0, 1, 5⟩) = true ∧
    (let f := [(39, 300), (30, 7), (0, 0x3FFFFFFF)]; let i : SI := ⟨300, 7, 0x3FFFFFFF⟩
     readsAll 0x19 0 f [.saddImm ga i, .ssubImm ga i, .smulImm ga i, .sandImm ga i, .sorImm ga i, .sxorImm ga i, .sshlImm ga i, .sshrImm ga i] = true ∧ reads (word 0x1C 0 f) (.sld ga i) = true) ∧
    reads (word 0x1A 0 [(39, 300), (0, 0xFFFFFFFE)]) (.smovK ga ⟨300, 0, 0xFFFFFFFE⟩) = true ∧
    reads (word 0x1B 0 [(39, 300), (30, 12)]) (.rdsrScalar ga ⟨300, 12, 0, 0, 0, 0, 0⟩) = true ∧ reads (word 0x1B 1 [(39, 200), (30, 0)]) (.rdsrVector ga ⟨200, 0, 0, 0, 0, 0, 0⟩) = true := by decide +kernel
/-- D 5, BASE 4, IDX 9, DISP -4, SZ 10. -/
def fM : List (Nat × Nat) := [(40, 5), (31, 4), (23, 9), (10, 8188), (8, 2)]
def iM : FM := ⟨5, 4, 9, 8188, 2, 0, 0, 0, 0⟩
def fA : List (Nat × Nat) := [(40, 5), (31, 4), (23, 9), (15, 11), (7, 13), (5, 1), (2, 1)]
def iA : FMA := ⟨5, 4, 9, 11, 13, 1, 1, 0⟩
/-- F1 4, F2 6, F3 8, F4 10. -/
def fC (cl : Nat) : List (Nat × Nat) := [(39, 4), (30, 6), (21, 8), (12, 10), (0, cl)]
def iC (cl : BitVec 12) : FMC := ⟨4, 6, 8, 10, cl⟩
theorem decode_memory :
    reads 0x400F1000008002C0 (.ld ga ⟨16, 0, 1, 0, 2, 3, 0, 0, 0⟩) = true ∧ reads (word 0x20 0 ((3, 1) :: (0, 5) :: fM)) (.ld ga { iM with ord := 1, scope := 5 }) = true ∧
    reads (word 0x20 1 ((4, 10) :: fM)) (.ldp ga ⟨5, 4, 9, 8188, 2, 2, 1, 0, 0⟩) = true ∧ reads (word 0x20 2 ((0, 1) :: fM)) (.lds ga { iM with scope := 1 }) = true ∧
    reads (word 0x20 3 [(40, 5), (31, 4), (23, 255), (8, 2), (4, 1), (6, 1)]) (.ldfrag ga ⟨5, 4, 255, 0, 2, 1, 0, 2, 0⟩) = true ∧
    reads (word 0x21 0 ((3, 2) :: (0, 3) :: fM)) (.st ga { iM with ord := 2, scope := 3 }) = true ∧ reads (word 0x21 1 fM) (.sts ga iM) = true ∧
    readsAll 0x22 0 fA [.atom ga iA .add, .atom ga iA .sub, .atom ga iA .min, .atom ga iA .max, .atom ga iA .and, .atom ga iA .or, .atom ga iA .xor, .atom ga iA .exch, .atom ga iA .cas] = true ∧ reads (word 0x22 0 ((0, 1) :: fA)) (.atom ga { iA with ty := 1 } .add) = true ∧
    readsAll 0x23 0 fA [.atoms ga iA .add, .atoms ga iA .sub, .atoms ga iA .min, .atoms ga iA .max, .atoms ga iA .and, .atoms ga iA .or, .atoms ga iA .xor, .atoms ga iA .exch, .atoms ga iA .cas] = true ∧ reads (word 0x23 0 ((0, 1) :: fA)) (.atoms ga { iA with ty := 1 } .add) = true ∧
    reads (word 0x24 0 [(40, 0), (31, 4), (23, 9), (10, 64), (6, 1)]) (.pref ga ⟨0, 4, 9, 64, 0, 1, 0, 0, 0⟩) = true ∧ reads (word 0x24 1 [(31, 4), (23, 9), (10, 64)]) (.pgreq ga ⟨0, 4, 9, 64, 0, 0, 0, 0, 0⟩) = true ∧
    readsAll 0x25 0 (fC 0) [.hflush ga (iC 0), .hinv ga (iC 0), .cwb ga (iC 0)] = true ∧ reads (word 0x27 0 [(39, 511), (0, 0x1D)]) (.fence ga ⟨511, 0, 0x1D⟩) = true := by decide +kernel
theorem decode_engine :
    readsAll 0x28 0 (fC 0x10) [.cpy ga (iC 0x10), .cpyRing ga (iC 0x10), .cpyg ga (iC 0x10), .cpyb ga (iC 0x10)] = true ∧ reads (word 0x28 0 (fC 9)) (.cpyLw ga (iC 9)) = true ∧
    reads (word 0x28 4 (fC 0x702)) (.bulk ga (iC 0x702)) = true ∧ readsAll 0x29 0 (fC 7) [.stwait ga (iC 7), .strel ga (iC 7)] = true ∧ readsAll 0x2A 0 (fC 4) [.hand ga (iC 4), .take ga (iC 4)] = true ∧
    reads (word 0x2B 0 (fC 3)) (.send ga (iC 3)) = true ∧ readsAll 0x2B 1 [(39, 4), (30, 8)] [.post ga ⟨4, 8, 0, 0, 0⟩, .rprobe ga ⟨4, 8, 0, 0, 0⟩, .rwait ga ⟨4, 8, 0, 0, 0⟩, .rcancel ga ⟨4, 8, 0, 0, 0⟩] = true ∧
    readsAll 0x2C 0 (fC 15) [.acset ga (iC 15), .acwait ga (iC 15)] = true := by decide +kernel
theorem decode_matrix_and_witness :
    reads 0x600F000000080009 (.mma ga ⟨0, 0, 0, 8, 0, 0, 0, 0, 9⟩) = true ∧ reads (word 0x30 1 [(40, 12), (32, 7), (24, 3), (16, 8), (13, 5), (6, 2), (0, 0x28)]) (.mmac ga ⟨12, 7, 3, 8, 5, 0, 0, 2, 0x28⟩) = true ∧
    reads (word 0x30 2 [(40, 12), (24, 3), (0, 1)]) (.mproj ga ⟨12, 0, 3, 0, 0, 0, 0, 0, 1⟩) = true ∧ reads (word 0x30 3 [(40, 12), (6, 1)]) (.accz ga ⟨12, 0, 0, 0, 0, 0, 0, 1, 0⟩) = true ∧
    reads 0x608F000000000000 (.cvset ga ⟨0, 0, 0, 0, 0, 0, 0, 0, 0⟩) = true ∧ reads (word 0x31 0 [(40, 12), (31, 4), (23, 9), (10, 64), (0, 2)]) (.accld ga ⟨12, 4, 9, 64, 0, 2⟩) = true ∧
    reads (word 0x31 1 [(40, 12), (31, 4), (23, 9), (10, 64), (8, 2), (0, 1)]) (.accst ga ⟨12, 4, 9, 64, 2, 1⟩) = true ∧
    (match decode 0x622F00FFFFA00100 with | .ok (.accst g f) => g == ga && f.d == 0 && f.base == 1 + 0x1FE && f.space == 1 && f.cl == 0 | _ => false) = true ∧
    reads 0x700F04024140B004 (.witb ga ⟨8, 9, 10, 11, 4⟩) = true ∧ reads 0x702F060380000002 (.witp ga ⟨12, 14, 0, 0, 2⟩) = true ∧ reads 0x704F070000000000 (.wite ga ⟨14, 0, 0, 0, 0⟩) = true ∧
    reads 0x706F02FFC0000000 (.gver ga ⟨5, 511, 0, 0, 0⟩) = true := by decide +kernel
theorem decode_control_and_system :
    reads 0xA012000000000004 (.br ⟨true, 2⟩ ⟨0, 0, 4⟩) = true ∧
    readsAll 0x50 0 [(39, 300), (0, 0xFFFFFFFE)] [.br ga ⟨300, 0, 0xFFFFFFFE⟩, .brc ga ⟨300, 0, 0xFFFFFFFE⟩, .call ga ⟨300, 0, 0xFFFFFFFE⟩] = true ∧
    readsAll 0x50 3 [(39, 300)] [.ret ga ⟨300, 0, 0⟩, .reform ga ⟨300, 0, 0⟩, .exit ga ⟨300, 0, 0⟩, .yield ga ⟨300, 0, 0⟩, .nop ga ⟨300, 0, 0⟩, .trap ga ⟨300, 0, 0⟩, .wait ga ⟨300, 0, 0⟩] = true ∧
    readsAll 0x51 0 [(39, 300), (0, 0x17)] [.bar ga ⟨300, 0, 0x17⟩, .barx ga ⟨300, 0, 0x17⟩] = true ∧
    readsAll 0x52 0 (fC 0) [.launch ga (iC 0), .cancel ga (iC 0)] = true ∧ reads (word 0x52 2 (fC 5)) (.hcwait ga (iC 5)) = true ∧
    reads 0xE00F028000000082 (.rdpr ga ⟨5, 0, 0, 0, 130⟩) = true ∧ reads (word 0x70 1 [(39, 5), (30, 0), (21, 0), (0, 2)]) (.wrpr ga ⟨5, 0, 0, 0, 2⟩) = true ∧
    reads 0xE04F000000E00001 (.tlbinv ga ⟨0, 0, 7, 0, 1⟩) = true ∧ reads (word 0x70 3 [(39, 5), (30, 6), (0, 1)]) (.sttinv ga ⟨5, 6, 0, 0, 1⟩) = true ∧
    reads 0xE08F020181000001 (.finj ga ⟨4, 6, 8, 0, 1⟩) = true ∧ reads (word 0x70 5 [(39, 5)]) (.halt ga ⟨5, 0, 0, 0, 0⟩) = true := by decide +kernel
/-- Opcodes and functions that are not assigned, a header, and a layout's reserved bit. -/
theorem decode_refuses :
    ([0x00, 0x0C, 0x12, 0x1D, 0x26, 0x2D, 0x32, 0x37, 0x39, 0x4F, 0x53, 0x6F, 0x71, 0x7E].all (fun op => match decode (word op 0 []) with | .error _ => true | .ok _ => false)) = true ∧
    ([(0x01, 12), (0x03, 14), (0x08, 9), (0x10, 13), (0x19, 8), (0x20, 4), (0x30, 5), (0x50, 10), (0x70, 6)].all (fun x => match decode (word x.1 x.2 []) with | .error _ => true | .ok _ => false)) = true ∧
    (match decode 0xFE00000000000000 with | .error .header => true | _ => false) = true ∧ (match decode (word 0x50 7 [(32, 1)]) with | .error _ => true | .ok _ => false) = true := by decide +kernel
/-- The encoder gives the words back. -/
theorem encode_words : encode (.fmul ga ⟨6, 6, 12, 0, 0, 0, 0, 0⟩) = some 0x104F06060C000000 ∧ encode (.ld ga ⟨16, 0, 1, 0, 2, 3, 0, 0, 0⟩) = some 0x400F1000008002C0 ∧
    encode (.br ⟨true, 2⟩ ⟨0, 0, 4⟩) = some 0xA012000000000004 ∧ decodeTableWord 64 0x104F06060C000000 = some (.fmul ga ⟨6, 6, 12, 0, 0, 0, 0, 0⟩) := by decide +kernel

end Sys2Proof.Tests
end

section
/-! Register reads after register writes (spec 02, R25, R34; 03, R68), and what the leader and the home groups of an
issue group are. -/

namespace Sys2Proof.Machine

/-! Scalar registers of a workgroup. -/

/-- Each scalar register of each home group has its own place in the workgroup's table. -/
theorem sregKey_inj {h k : Nat} {q r : BitVec 9} : h * 512 + q.toNat = k * 512 + r.toNat ↔ h = k ∧ q = r := by
  rw [← BitVec.toNat_inj]
  have hq := q.isLt
  have hr := r.isLt
  omega

@[simp] theorem Workgroup.s_sz (w : Workgroup) (h : Nat) : w.s h 511#9 = 0#32 := rfl
@[simp] theorem Workgroup.setS_sz (w : Workgroup) (h : Nat) (x : Word) : w.setS h 511#9 x = w := rfl
@[simp] theorem Workgroup.setS_id (w : Workgroup) (h : Nat) (r : BitVec 9) (x : Word) : (w.setS h r x).id = w.id := by
  unfold Workgroup.setS; split <;> rfl

theorem Workgroup.s_setS (w : Workgroup) (k h : Nat) (r q : BitVec 9) (x : Word) (hr : r ≠ 511) :
    (w.setS k r x).s h q = if h = k ∧ q = r then x else w.s h q := by
  unfold Workgroup.setS Workgroup.s
  rw [if_neg hr]
  by_cases hq : q = 511
  · subst hq
    rw [if_pos rfl, if_pos rfl, if_neg (fun hkq => hr hkq.2.symm)]
  · simp only [if_neg hq, tabGet_tabSet, sregKey_inj]

@[simp] theorem Workgroup.setSs_nil (w : Workgroup) (r : BitVec 9) (x : Word) : w.setSs [] r x = w := rfl
@[simp] theorem Workgroup.setSs_cons (w : Workgroup) (k : Nat) (hs : List Nat) (r : BitVec 9) (x : Word) :
    w.setSs (k :: hs) r x = (w.setS k r x).setSs hs r x := rfl

@[simp] theorem Workgroup.setSs_sz (w : Workgroup) (hs : List Nat) (x : Word) : w.setSs hs 511#9 x = w := by
  induction hs with
  | nil => rfl
  | cons k hs ih => rw [Workgroup.setSs_cons, Workgroup.setS_sz, ih]

@[simp] theorem Workgroup.setSs_id (w : Workgroup) (hs : List Nat) (r : BitVec 9) (x : Word) : (w.setSs hs r x).id = w.id := by
  induction hs generalizing w with
  | nil => rfl
  | cons k hs ih => rw [Workgroup.setSs_cons, ih, Workgroup.setS_id]

theorem Workgroup.s_setSs_of_ne_sz (w : Workgroup) (hs : List Nat) (r q : BitVec 9) (x : Word) (h : Nat) (hr : r ≠ 511) :
    (w.setSs hs r x).s h q = if q = r ∧ h ∈ hs then x else w.s h q := by
  induction hs generalizing w with
  | nil => simp
  | cons k hs ih =>
    rw [Workgroup.setSs_cons, ih, Workgroup.s_setS _ _ _ _ _ _ hr]
    by_cases hq : q = r <;> by_cases hk : h = k <;> simp [hq, hk]

theorem Workgroup.s_setSs (w : Workgroup) (hs : List Nat) (r q : BitVec 9) (x : Word) (h : Nat) :
    (w.setSs hs r x).s h q = if q = 511 then 0 else if q = r ∧ h ∈ hs then x else w.s h q := by
  by_cases hq : q = 511
  · subst hq
    rfl
  · rw [if_neg hq]
    by_cases hr : r = 511
    · subst hr
      rw [if_neg (fun hqh => hq hqh.1)]
      exact congrArg (·.s h q) (w.setSs_sz hs x)
    · exact w.s_setSs_of_ne_sz hs r q x h hr

/-! A scalar result in the state. -/

theorem State.wg?_setS (s : State) (e : Env) (r : BitVec 9) (x : Word) (k : Nat) :
    (s.setS e r x).wg? k = if k = e.w.id then (s.wg? k).map (fun w => w.setSs e.g.hgrps r x) else s.wg? k :=
  s.wg?_modWg e.w.id k _ (fun w => w.setSs_id e.g.hgrps r x)

/-! The leader and the home groups of an issue group (spec 02, R30, R34). -/

theorem Group.min?_members (g : Group) (h : g.members ≠ []) : g.members.min? = some g.leader := by
  unfold Group.leader
  cases hm : g.members with
  | nil => exact absurd hm h
  | cons t r => exact List.min?_cons'

theorem Group.leader_mem (g : Group) (h : g.members ≠ []) : g.leader ∈ g.members :=
  List.min?_mem (g.min?_members h)

theorem Group.leader_le (g : Group) {t : Nat} (h : t ∈ g.members) : g.leader ≤ t :=
  (List.min?_eq_some_iff.1 (g.min?_members (List.ne_nil_of_mem h))).2 t h

theorem Group.mem_hgrps (g : Group) (h : Nat) : h ∈ g.hgrps ↔ ∃ t ∈ g.members, t / 32 = h := by
  unfold Group.hgrps
  rw [mem_dedup, List.mem_map]
  rfl

theorem Env.s_eq (e : Env) (r : BitVec 9) : e.s r = e.w.s (e.g.leader / 32) r := rfl

/-! Vector registers and predicates of a thread; `Thread.v_setV` and the lemmas beside it are in Laws/State. -/

theorem Thread.v_setV_or_vz (t : Thread) (r q : BitVec 8) (x : Word) :
    (t.setV r x).v q = if q = 255 then 0 else if q = r then x else t.v q := by
  by_cases hq : q = 255
  · subst hq
    rfl
  · rw [if_neg hq]
    by_cases hr : r = 255
    · subst hr
      rw [if_neg hq]
      rfl
    · exact t.v_setV r q x hr

/-- Predicates are bits of one word, and `Thread.setP` sets or clears one of them through a mask. The number 1 is a
`Nat` in the mask that sets and a `BitVec 15` in the mask that clears, so each mask's bits have their own fact. -/
theorem getLsbD_writeBit (y : BitVec 15) (n m : Nat) (b : Bool) (hm : m < 15) :
    (if b then y ||| (1 <<< n) else y &&& ~~~((1 : BitVec 15) <<< n)).getLsbD m = if m = n then b else y.getLsbD m := by
  have hset : BitVec.getLsbD (((1 <<< n : Nat)) : BitVec 15) m = decide (m = n) := by
    change (BitVec.ofNat 15 (1 <<< n)).getLsbD m = _
    rw [BitVec.getLsbD_ofNat, Nat.one_shiftLeft, Nat.testBit_two_pow, decide_eq_true hm, Bool.true_and]
    exact decide_eq_decide.2 eq_comm
  have hclear : ((1 : BitVec 15) <<< n).getLsbD m = decide (m = n) := by
    change (BitVec.twoPow 15 n).getLsbD m = _
    rw [BitVec.getLsbD_twoPow, ← Bool.decide_and, decide_eq_decide]
    omega
  cases b with
  | true =>
    rw [if_pos rfl, BitVec.getLsbD_or, hset]
    by_cases h : m = n <;> simp [h]
  | false =>
    rw [if_neg Bool.false_ne_true, BitVec.getLsbD_and, BitVec.getLsbD_not, hclear]
    by_cases h : m = n <;> simp [h, hm]

theorem Thread.p_setP (t : Thread) (n m : BitVec 4) (b : Bool) :
    (t.setP n b).p m = if m = 15 then true else if m = n then b else t.p m := by
  by_cases hm : m = 15
  · subst hm
    rfl
  · rw [if_neg hm]
    by_cases hn : n = 15
    · subst hn
      rw [if_neg hm]
      rfl
    · have hlt : m.toNat < 15 := by
        bv_omega
      unfold Thread.setP Thread.p
      rw [if_neg hn, if_neg hm, if_neg hm, getLsbD_writeBit _ _ _ _ hlt]
      simp only [BitVec.toNat_inj]

end Sys2Proof.Machine

namespace Sys2Proof

open Sys2Proof.Machine

/-- Settles O4: the read after each kind of write, by induction over the home groups written, with R68's hard-wired
registers apart. -/
theorem registerWrites : Obligations.RegisterWrites := by
  unfold Obligations.RegisterWrites
  refine ⟨fun w hs r q x h => ⟨w.s_setSs hs r q x h, w.setSs_sz hs x, fun s e hw => ⟨?_, fun k hk => ?_, rfl, rfl⟩⟩,
    fun e r => ⟨e.s_eq r, e.g.mem_hgrps, fun hne => ⟨e.g.leader_mem hne, fun t ht => e.g.leader_le ht⟩,
      fun x hx => (e.s_eq r).trans (hx _)⟩,
    fun t r q x m n b => ⟨t.v_setV_or_vz r q x, t.p_setV r x m, t.p_setP n m b, t.v_setP n b q, t.setV_vz x, t.setP_pt b⟩⟩
  · rw [State.wg?_setS, if_pos rfl, hw, Option.map_some]
  · rw [State.wg?_setS, if_neg hk]

end Sys2Proof
end

section
/-! When an instruction that changes its own lanes, or one scalar register, completes (spec 02, R33, R34); what the
gate before an effect can raise (spec 03, R70, R78); and which words of an opcode decode (spec 03, R59, R71). -/

namespace Sys2Proof.Machine

/-! Completion of an instruction from the shared operation that its meaning calls. -/

theorem vecCompletes_of_exec {i : Instr} {g : Guard} {R : Thread → Thread} (hx : ∀ s, exec i s = vecOp g i s R) :
    VecCompletes i g R := by
  intro s e h
  rw [hx s]
  exact h.vec R

theorem scalarCompletes_of_exec {i : Instr} {g : Guard} {sd : BitVec 9} {R : State → Env → Word}
    (hx : ∀ s, exec i s = scalarOp g i s (fun e => s.setS e sd (R s e))) : ScalarCompletes i g sd R := by
  intro s e h
  rw [hx s]
  exact ⟨fun hl => h.scalarOp hl _, fun hl => h.scalarOp_none hl _⟩

/-- An effect that reads scalar registers is the same function in every lane (spec 02, R34). -/
theorem Issuable.lanesAlike {s : State} {e : Env} {g : Guard} {i : Instr} (h : Issuable s e g i) (f : Env → Thread → Thread) :
    Out.Leads (Machine.issue g i s (fun e => (s.modThreads e.w.id (s.lanes e g) (f e)).done e)) (fun t => OnlyThreads s t ∧
      ThreadsBecome s t e (fun _ x => if x.guarded g then (f e x).next else x.next)) := by
  rw [h.issue]
  exact s.each_done e g (fun _ => f e)

/-! What the gate raises. -/

theorem State.decodeTrap_of_gate_trap {s : State} {e : Env} {g : Guard} {i : Instr} {x : TrapInfo} (h : s.gate e g i = .trap x) :
    s.decodeTrap e i = some x.code := by
  unfold State.gate at h
  dsimp only at h
  split at h
  case h_1 hd =>
    cases h
    exact hd
  case h_2 =>
    split at h
    case h_1 => cases h
    case h_2 hd _ =>
      cases h
      exact hd
    case h_3 =>
      split at h
      case h_1 => split at h <;> cases h
      case h_2 => cases h
      case h_3 => cases h
      case h_4 => split at h <;> cases h

/-- Of the decode conditions, a system instruction alone can meet PRIV (spec 14, R314). -/
theorem State.decodeTrap_of_not_system {s : State} {e : Env} {i : Instr} {c : Nat} (hi : instrSystem i = false)
    (h : s.decodeTrap e i = some c) : c = 0x01 ∨ c = 0x04 := by
  simp only [State.decodeTrap, hi, Bool.false_and, Bool.false_eq_true, if_false] at h
  split at h
  · exact .inl (Option.some.inj h).symm
  · split at h
    · exact .inr (Option.some.inj h).symm
    · cases h

theorem State.gate_trap_code_of_not_system {s : State} {e : Env} {g : Guard} {i : Instr} {x : TrapInfo}
    (hi : instrSystem i = false) (h : s.gate e g i = .trap x) : x.code = 0x01 ∨ x.code = 0x04 :=
  State.decodeTrap_of_not_system hi (State.decodeTrap_of_gate_trap h)

theorem exec_unassignedEncoding {s : State} {e : Env} (h : s.issuer = some e) (w : Code) :
    exec (.unassignedEncoding w) s = .next (s.takeTrap e { code := 0x01 }) := by
  change execUnassignedEncoding w s = _
  simp only [execUnassignedEncoding, h]

/-! The six comparison conditions (spec 03, R72), for one reading of both operands. -/

theorem intOf_inj {u : Bool} {a b : Word} : intOf u a = intOf u b ↔ a = b := by
  cases u with
  | false => exact BitVec.toInt_inj
  | true => exact Int.ofNat_inj.trans BitVec.toNat_inj

theorem intCond_eq (c : Nat) (u : Bool) (a b : Word) :
    intCond c u a b = condHolds c (decide (intOf u a < intOf u b)) (decide (intOf u a = intOf u b)) := by
  have hlt : (if u then a.ult b else a.slt b) = decide (intOf u a < intOf u b) := by
    cases u with
    | false => rfl
    | true => exact decide_eq_decide.2 Int.ofNat_lt.symm
  have heq : (a == b) = decide (intOf u a = intOf u b) := by
    rw [beq_eq_decide, decide_eq_decide, intOf_inj]
  rw [intCond, hlt, heq]

theorem intCond_meaning (u : Bool) (a b : Word) :
    intCond 0 u a b = decide (a = b) ∧ intCond 1 u a b = decide (a ≠ b) ∧
    intCond 2 u a b = decide (intOf u a < intOf u b) ∧ intCond 3 u a b = decide (intOf u a ≤ intOf u b) ∧
    intCond 4 u a b = decide (intOf u b < intOf u a) ∧ intCond 5 u a b = decide (intOf u b ≤ intOf u a) := by
  have hle : intOf u a ≤ intOf u b ↔ intOf u a < intOf u b ∨ intOf u a = intOf u b := le_iff_lt_or_eq
  have hgt : intOf u b < intOf u a ↔ ¬ intOf u a < intOf u b ∧ ¬ intOf u a = intOf u b := by omega
  have hge : intOf u b ≤ intOf u a ↔ ¬ intOf u a < intOf u b := not_lt.symm
  simp only [intCond_eq, condHolds, ← intOf_inj (u := u), hle, hgt, hge, ne_eq, Bool.decide_or, Bool.decide_and, decide_not, and_self]

end Sys2Proof.Machine

namespace Sys2Proof

/-! Legal fields, and the words of an opcode that decode. -/

theorem Instr.legal_eq_false_of_fieldsOk {i : Instr} (h : i.fieldsOk = false) : i.legal = false := by
  rw [Instr.legal, h, Bool.and_false, Bool.false_and]

theorem intOk_plain_iff (f : V3) : intOk f false false = true ↔ f.slot = 0 ∧ f.rs = 0 ∧ f.ty = 0 ∧ f.cl = 0 := by
  simp [intOk, modOk, and_assoc]

theorem Guard.ok_of_ne {g : Guard} (h : g ≠ ⟨true, 15⟩) : g.ok = true := by
  obtain ⟨neg, p⟩ := g
  simp only [ne_eq, Guard.mk.injEq] at h
  simp only [Guard.ok, Bool.not_eq_true', Bool.and_eq_false_imp, beq_eq_false_iff_ne, ne_eq]
  exact fun hn hp => h ⟨hn, hp⟩

theorem decode_ne_ok_of_decodeFields {w : Code} {d : DecodeError} (h : decodeFields w = .error d) (i : Instr) :
    decode w ≠ .ok i := by
  simp [decode, h]

theorem decode0A_eq_none (g : Guard) (p : BitVec 48) {fn : Nat} (h : 5 ≤ fn) : decode0A g p fn = none := by
  obtain ⟨k, rfl⟩ := Nat.exists_eq_add_of_le' h
  rfl

theorem decodeFields_op0A {w : Code} (h : w.extractLsb' 57 7 = 0x0A) :
    decodeFields w = orSub 0x0A (w.extractLsb' 53 4).toNat
      (decode0A (Guard.unpack w) (w.extractLsb' 0 48) (w.extractLsb' 53 4).toNat) := by
  rw [decodeFields, h]
  rfl

theorem decodeFields_op19 {w : Code} (h : w.extractLsb' 57 7 = 0x19) :
    decodeFields w = orSub 0x19 (w.extractLsb' 53 4).toNat
      (decode19 (Guard.unpack w) (w.extractLsb' 0 48) (w.extractLsb' 53 4).toNat) := by
  rw [decodeFields, h]
  rfl

/-! IMM30 of the SI form (spec 03, R64; 05, R122). -/

/-- The condition code of `scmp` stands in the three highest bits of IMM30. -/
theorem SI.cond_toNat (f : SI) : (f.imm.extractLsb' 27 3).toNat = f.imm.toNat / 2 ^ 27 := by
  have hlt := f.imm.isLt
  rw [BitVec.extractLsb'_toNat, Nat.shiftRight_eq_div_pow]
  omega

/-- A negative immediate, read unsigned, is beyond every shift amount. -/
theorem SI.le_toNat_signExtend (f : SI) (h : f.imm.getLsbD 29 = true) : 32 ≤ (f.imm.signExtend 32).toNat := by
  have hm : f.imm.msb = true := (BitVec.msb_eq_getLsbD_last f.imm).trans h
  rw [BitVec.toNat_signExtend, hm, if_pos rfl]
  omega

end Sys2Proof

namespace Sys2Proof

open Sys2Proof.Machine

/-- Settles O3: each move's meaning is a function of its own lanes, and of the gate's conditions a move meets those of
decoding alone, since a poisoned reply answers at the gate under a name of its own. -/
theorem movesCopy : Obligations.MovesCopy := by
  unfold Obligations.MovesCopy
  refine ⟨fun g f => ⟨rfl, vecCompletes_of_exec fun _ => rfl, fun hf => ?_⟩,
    fun g f => ⟨rfl, fun hg => ?_, vecCompletes_of_exec fun _ => rfl⟩,
    fun g f => ⟨rfl, fun hf => ?_, fun s e h => h.lanesAlike (fun e x => x.setV f.d (e.s f.s))⟩,
    fun g i hi s e x hx => ?_⟩
  · apply Instr.legal_eq_false_of_fieldsOk
    change intOk f false false = false
    rw [Bool.eq_false_iff, ne_eq, intOk_plain_iff]
    tauto
  · simp [Instr.legal, Instr.guard?, Guard.ok_of_ne hg, Instr.fieldsOk, Instr.opnds, Opnd.legal]
  · apply Instr.legal_eq_false_of_fieldsOk
    change (f.rsv == 0 && f.ty == 0 && f.cl == 0) = false
    simp only [Bool.and_eq_false_iff, beq_eq_false_iff_ne]
    tauto
  · have hsys : instrSystem i = false := by
      obtain ⟨f, rfl⟩ | ⟨f, rfl⟩ | ⟨f, rfl⟩ := hi <;> rfl
    exact (State.gate_trap_code_of_not_system hsys hx).imp_right .inl

/-- Settles O6: each form's meaning is its function of a and IMM in its own lanes; opcode 0x0A has no sub-function from
5 on; the two products are evaluated. -/
theorem floatImmediateForms : Obligations.FloatImmediateForms := by
  unfold Obligations.FloatImmediateForms
  refine ⟨fun g f => ⟨vecCompletes_of_exec fun _ => rfl, vecCompletes_of_exec fun _ => rfl, vecCompletes_of_exec fun _ => rfl,
    vecCompletes_of_exec fun _ => rfl, vecCompletes_of_exec fun _ => rfl, rfl, rfl, rfl, rfl, rfl⟩,
    fun w hop hfn => ?_, fun s e w he => exec_unassignedEncoding he w, by decide, by decide⟩
  apply decode_ne_ok_of_decodeFields
  rw [decodeFields_op0A hop, decode0A_eq_none _ _ hfn]
  rfl

/-- Settles O10: `scmp` writes one truth value in its own lanes, the shifts write one scalar register, and opcode 0x19
has no sub-function 8. -/
theorem scalarCompareImmediate : Obligations.ScalarCompareImmediate := by
  unfold Obligations.ScalarCompareImmediate
  refine ⟨fun g f => ⟨fun hc => ?_, fun s e h => ?_, scalarCompletes_of_exec fun _ => rfl, scalarCompletes_of_exec fun _ => rfl,
    f.le_toNat_signExtend⟩, intCond_meaning, fun w hop hfn => ?_⟩
  · apply Instr.legal_eq_false_of_fieldsOk
    change decide ((f.imm.extractLsb' 27 3).toNat < 6) = false
    rw [f.cond_toNat, decide_eq_false_iff_not, not_lt]
    exact hc
  · rw [← f.cond_toNat]
    exact h.lanesAlike (fun e x => x.setP (f.sd.extractLsb' 0 4)
      (intCond (f.imm.extractLsb' 27 3).toNat (f.imm.getLsbD 26) (e.s f.sa) ((f.imm.extractLsb' 0 26).signExtend 32)))
  · apply decode_ne_ok_of_decodeFields
    rw [decodeFields_op19 hop, hfn]
    rfl

end Sys2Proof
end

section
/-! What a trap leaves of barriers and threads (spec 03, R77), and when `barx` traps (spec 10, R282). -/

namespace Sys2Proof.Machine

/-! A write of bytes at their homes changes memory and what the LLC holds of it. -/

theorem State.homeWrite_eq (s : State) (k : Nat) (b : Byte) :
    ∃ mem llcDirty iod, s.homeWrite k b = { s with mem, llcDirty, iod } := by
  have hfill : ∃ iod, s.fillHost k = { s with iod } := by
    unfold State.fillHost
    split
    · exact ⟨s.iod, rfl⟩
    · split
      · exact ⟨s.iod, rfl⟩
      · exact ⟨_, rfl⟩
  obtain ⟨iod, hiod⟩ := hfill
  unfold State.homeWrite
  split
  · dsimp only
    rw [hiod]
    split
    · exact ⟨s.mem, s.llcDirty, _, rfl⟩
    · exact ⟨_, s.llcDirty, iod, rfl⟩
  · exact ⟨_, _, s.iod, rfl⟩

theorem State.homePut_eq (s : State) (k : Nat) (bs : List Byte) :
    ∃ mem llcDirty iod, s.homePut k bs = { s with mem, llcDirty, iod } := by
  induction bs generalizing s k with
  | nil => exact ⟨s.mem, s.llcDirty, s.iod, rfl⟩
  | cons b bs ih =>
    obtain ⟨m, d, i, hwrite⟩ := s.homeWrite_eq k b
    obtain ⟨mem, llcDirty, iod, hrest⟩ := ih (s.homeWrite k b) (k + 1)
    exact ⟨mem, llcDirty, iod, by rw [State.homePut, hrest, hwrite]⟩

/-- A gang's record after an update that keeps names. -/
theorem State.gang?_modGang (s : State) (id j : Nat) (f : Gang → Gang) (h : ∀ x, (f x).id = x.id) :
    (s.modGang id f).gang? j = if j = id then (s.gang? j).map f else s.gang? j := by
  unfold State.modGang State.gang?
  split
  · next hj =>
    subst hj
    exact find_mapIf _ f (fun x => by rw [h]) _
  · next hj =>
    refine find_mapIf_of _ _ f (fun x hx => ?_) (fun x hx => ?_) _
    · rw [eq_of_beq hx]
      exact beq_false_of_ne hj
    · rw [h, eq_of_beq hx]
      exact beq_false_of_ne (Ne.symm hj)

/-! A barrier read at the level of the gang and at that of the launch (spec 10, R278). -/

theorem State.getBar_gang (s : State) (w : Workgroup) (n : Nat) :
    s.getBar w 1 n = (((s.gang? w.gang).map (·.bars)).map (listGet Barrier.new · n)).getD Barrier.new := by
  unfold State.getBar
  cases s.gang? w.gang <;> rfl

theorem State.getBar_launch (s : State) (w : Workgroup) (k n : Nat) :
    s.getBar w (k + 2) n = ((s.launch? w.launch).map (listGet Barrier.new ·.bars n)).getD Barrier.new := by
  unfold State.getBar
  cases s.launch? w.launch <;> rfl

/-- Workgroups, launches and threads are as before, and each gang has the barriers it had: all that a barrier, its
arrivals and the marks of its members stand in (spec 10, R278, R280). -/
structure KeepsBarriers (s t : State) : Prop where
  wgs : t.wgs = s.wgs
  launches : t.launches = s.launches
  threads : t.threads = s.threads
  gangBars : ∀ id, (t.gang? id).map (·.bars) = (s.gang? id).map (·.bars)

namespace KeepsBarriers

theorem of_gangs {s t : State} (hw : t.wgs = s.wgs) (hl : t.launches = s.launches) (ht : t.threads = s.threads)
    (hg : t.gangs = s.gangs) : KeepsBarriers s t :=
  ⟨hw, hl, ht, fun id => by rw [State.gang?, State.gang?, hg]⟩

theorem refl (s : State) : KeepsBarriers s s := of_gangs rfl rfl rfl rfl

theorem trans {s t u : State} (h : KeepsBarriers s t) (h' : KeepsBarriers t u) : KeepsBarriers s u :=
  ⟨h'.wgs.trans h.wgs, h'.launches.trans h.launches, h'.threads.trans h.threads,
    fun id => (h'.gangBars id).trans (h.gangBars id)⟩

theorem getBar {s t : State} (h : KeepsBarriers s t) (w : Workgroup) (level n : Nat) :
    t.getBar w level n = s.getBar w level n := by
  match level with
  | 0 =>
    change listGet Barrier.new ((t.wg? w.id).getD w).bars n = listGet Barrier.new ((s.wg? w.id).getD w).bars n
    rw [State.wg?, State.wg?, h.wgs]
  | 1 => rw [State.getBar_gang, State.getBar_gang, h.gangBars]
  | _ + 2 => rw [State.getBar_launch, State.getBar_launch, State.launch?, State.launch?, h.launches]

/-- A sequence of operations that each keep the barriers keeps them. -/
theorem foldl {β : Type} {f : State → β → State} (h : ∀ s x, KeepsBarriers s (f s x)) (l : List β) (s : State) :
    KeepsBarriers s (l.foldl f s) := by
  induction l generalizing s with
  | nil => exact refl s
  | cons x l ih => exact (h s x).trans (ih (f s x))

theorem homePut (s : State) (k : Nat) (bs : List Byte) : KeepsBarriers s (s.homePut k bs) := by
  obtain ⟨mem, llcDirty, iod, h⟩ := s.homePut_eq k bs
  rw [h]
  exact of_gangs rfl rfl rfl rfl

theorem modWorld (s : State) (w : Nat) (f : World → World) : KeepsBarriers s (s.modWorld w f) :=
  of_gangs (by simp) (by simp) (by simp) (by simp)

theorem raiseIrq (s : State) (w v : Nat) : KeepsBarriers s (s.raiseIrq w v) := of_gangs rfl rfl rfl rfl

theorem modFlight (s : State) (id : Nat) (f : Flight → Flight) : KeepsBarriers s (s.modFlight id f) := of_gangs rfl rfl rfl rfl

theorem raised (s : State) (code : Option Nat) : KeepsBarriers s { s.progress with raised := code } := of_gangs rfl rfl rfl rfl

theorem modGang (s : State) (id : Nat) {f : Gang → Gang} (hid : ∀ x, (f x).id = x.id) (hbars : ∀ x, (f x).bars = x.bars) :
    KeepsBarriers s (s.modGang id f) := by
  refine ⟨rfl, rfl, rfl, fun j => ?_⟩
  rw [State.gang?_modGang _ _ _ _ hid]
  split
  · rw [Option.map_map]
    exact congrArg (Option.map · _) (funext hbars)
  · rfl

/-- A halt changes the status of the gang, its loads and its copies, and no barrier (spec 10, R286, R287). -/
theorem haltGang (s : State) (id : Nat) (st : GStatus) : KeepsBarriers s (s.haltGang id st) :=
  (modGang s id (f := fun g => { g with status := st, haltAt := s.clock }) (fun _ => rfl) (fun _ => rfl)).trans
    (of_gangs rfl rfl rfl rfl)

theorem haltGangs (s : State) (st : GStatus) (p : Gang → Bool) : KeepsBarriers s (s.haltGangs st p) := by
  unfold State.haltGangs
  exact foldl (fun s (x : Gang) => haltGang s x.id st) _ s

/-- A fault record goes to the queue, or waits at the IOD and may stall its world's gangs (spec 14, R325, R326). -/
theorem pushRecord (s : State) (world : Nat) (r : FaultRec) : KeepsBarriers s (s.pushRecord world r) := by
  unfold State.pushRecord
  split
  · exact refl s
  · dsimp only
    split
    · exact ((homePut ..).trans (modWorld ..)).trans (raiseIrq ..)
    · split
      · exact modWorld ..
      · exact ((modWorld ..).trans (modWorld ..)).trans (haltGangs ..)

/-- An instruction that traps takes no effect on a barrier or a thread (spec 03, R77). -/
theorem takeTrap (s : State) (e : Env) (i : TrapInfo) : KeepsBarriers s (s.takeTrap e i) := by
  unfold State.takeTrap
  dsimp only
  split
  · exact (((modFlight ..).trans (haltGang ..)).trans (pushRecord ..)).trans (raised ..)
  · exact ((haltGang ..).trans (pushRecord ..)).trans (raised ..)

end KeepsBarriers

/-! The traps of `barx` (spec 10, R282). -/

/-- An expectation has 24 bits; a value with a higher bit set is ILLEGAL before any other condition is looked at. -/
theorem Issuable.barx_illegal {s : State} {e : Env} {g : Guard} {f : FC} (h : Issuable s e g (.barx g f)) (l : s.someLane e g)
    (hx : 2 ^ 24 ≤ (e.s f.sa).toNat) : exec (.barx g f) s = .next (s.takeTrap e { code := 0x01 }) := by
  have hhigh : ((e.s f.sa).toNat / 2 ^ 24 != 0) = true := bne_iff_ne.2 (by omega)
  change execBarx g f s = _
  rw [execBarx, h.groupOp l]
  exact if_pos hhigh

/-- Where the level serves, every arriving thread is a member and none arrives twice, a pending count that the
expectation takes past 24 bits is BAR_EXPECT_OVF. -/
theorem Issuable.barx_overflow {s : State} {e : Env} {g : Guard} {f : FC} (h : Issuable s e g (.barx g f)) (l : s.someLane e g)
    (hx : (e.s f.sa).toNat < 2 ^ 24) (hb : barTrap e f (s.lanes e g) = none)
    (hfirst : ∀ t ∈ s.lanes e g, (barKey f, (s.getBar e.w (barLevel f) (barNum f)).phase) ∉ (s.thread e.w.id t).owed)
    (hover : 16777215 < (s.getBar e.w (barLevel f) (barNum f)).pending.toNat + (e.s f.sa).toNat) :
    exec (.barx g f) s = .next (s.takeTrap e { code := 0x15 }) := by
  have hlow : ¬((e.s f.sa).toNat / 2 ^ 24 != 0) = true := by
    rw [bne_iff_ne]
    omega
  have hbar : ∀ c : Nat, ¬(barTrap e f (s.lanes e g) == some c) = true := fun c => by
    rw [hb]
    exact Bool.false_ne_true
  have hagain : ¬((s.lanes e g).any (fun t => (s.thread e.w.id t).owed.any
      (fun o => o.1 == barKey f && o.2 == (s.getBar e.w (barLevel f) (barNum f)).phase))) = true := by
    simp only [List.any_eq_true, Bool.and_eq_true, beq_iff_eq]
    rintro ⟨t, ht, ⟨key, phase⟩, ho, rfl, rfl⟩
    exact hfirst t ht ho
  have hfull : 2 ^ 24 ≤ (s.getBar e.w (barLevel f) (barNum f)).pending.toNat + (e.s f.sa).toNat := by omega
  change execBarx g f s = _
  rw [execBarx, h.groupOp l]
  dsimp only
  rw [if_neg hlow, if_neg (hbar _), if_neg hagain, if_neg (hbar _), if_pos hfull]

end Sys2Proof.Machine

namespace Sys2Proof

open Sys2Proof.Machine

/-- Settles O26: `barx` traps by the first of its conditions that holds, and a trap keeps the barriers at each level. -/
theorem expectationOverflow : Obligations.ExpectationOverflow := by
  unfold Obligations.ExpectationOverflow
  intro g f s e h l
  have hsame (i : TrapInfo) : (s.takeTrap e i).wgs = s.wgs ∧ (s.takeTrap e i).launches = s.launches ∧
      (s.takeTrap e i).threads = s.threads ∧
      (s.takeTrap e i).getBar e.w (barLevel f) (barNum f) = s.getBar e.w (barLevel f) (barNum f) :=
    have k := KeepsBarriers.takeTrap s e i
    ⟨k.wgs, k.launches, k.threads, k.getBar ..⟩
  exact ⟨h.barx_illegal l, h.barx_overflow l, hsame _, hsame _⟩

end Sys2Proof
end

section
/-! What code is privileged, and the PRIV trap of the system instructions (spec 14, R314; 15, R356; 03, R78). -/

namespace Sys2Proof.Machine

theorem State.privileged_iff (s : State) (e : Env) : s.privileged e = true ↔ e.gang.world = 0 ∧
    ∃ tr, s.translate e.g.core 0 (s.iaddr e).toNat = .ok tr ∧ pteSys tr.leaf.pte = true := by
  unfold State.privileged
  cases s.translate e.g.core 0 (s.iaddr e).toNat with
  | ok tr => simp
  | error x => simp

section
variable {s : State} {e : Env} {g : Guard} {i : Instr}

/-- A legal system instruction meets PRIV at decode, whatever its registers: REG_RANGE has a higher code (spec 03, R78). -/
theorem State.decodeTrap_priv (hl : i.legal = true) (hs : instrSystem i = true)
    (hp : s.privileged e = false ∨ instrTest i = true ∧ s.garrun.test = false) : s.decodeTrap e i = some 0x03 := by
  have hpriv : (instrSystem i && (!s.privileged e || (instrTest i && !s.garrun.test))) = true := by
    rw [hs, Bool.true_and, Bool.or_eq_true, Bool.and_eq_true, Bool.not_eq_true', Bool.not_eq_true']
    exact hp
  simp only [State.decodeTrap, hl, hpriv, Bool.not_true, Bool.false_eq_true, if_false, if_true]

/-- Where a header follows at the block's end, the gate traps on any decode condition that is met. -/
theorem State.gate_of_decodeTrap {c : Nat} (hf : s.fallBad e i = none) (hd : s.decodeTrap e i = some c) :
    s.gate e g i = .trap { code := c } := by
  simp only [State.gate, hd, hf]
  split
  next h =>
    cases h
    rfl
  next => rfl

/-- The gate's trap is taken where no value is ILLEGAL, with or without an active lane. -/
theorem sysOp_of_gate_trap {x : TrapInfo} {illegal : Env → Bool} {body : Env → List Nat → Out} (he : s.issuer = some e)
    (hx : s.gate e g i = .trap x) (hi : illegal e = false) : sysOp g i s illegal body = .next (s.takeTrap e x) := by
  simp only [sysOp, groupOp, issue, he, hx, hi, Bool.and_false, Bool.false_eq_true, if_false]

theorem sysOp_priv {illegal : Env → Bool} {body : Env → List Nat → Out} (he : s.issuer = some e) (hl : i.legal = true)
    (hf : s.fallBad e i = none) (hs : instrSystem i = true)
    (hp : s.privileged e = false ∨ instrTest i = true ∧ s.garrun.test = false) (hi : illegal e = false) :
    sysOp g i s illegal body = .next (s.takeTrap e { code := 0x03 }) :=
  sysOp_of_gate_trap he (State.gate_of_decodeTrap hf (State.decodeTrap_priv hl hs hp)) hi

end

end Sys2Proof.Machine

namespace Sys2Proof

open Sys2Proof.Machine

/-- Settles O50: each system instruction goes through `sysOp`, with its own test for a value that is ILLEGAL, and the
gate traps PRIV where that test is false; of `finj` the gate asks test mode too. -/
theorem privilegedCode : Obligations.PrivilegedCode := by
  unfold Obligations.PrivilegedCode
  refine ⟨State.privileged_iff, fun g f i s e he hl hf hp hi => ?_, fun g f s e he hl hf ht hi => ?_⟩
  · obtain (rfl | rfl) | ⟨rfl, hi⟩ | ⟨rfl, hcore, hbusy⟩ | ⟨rfl, hi⟩ | ⟨rfl, hok⟩ := hi
    case inl.inl => exact sysOp_priv he hl hf rfl (.inl hp) rfl
    case inl.inr => exact sysOp_priv he hl hf rfl (.inl hp) rfl
    case inr.inl => exact sysOp_priv he hl hf rfl (.inl hp) hi
    case inr.inr.inl =>
      refine sysOp_priv he hl hf rfl (.inl hp) ?_
      rw [hbusy, Bool.or_false, decide_eq_false_iff_not, not_lt]
      exact hcore
    case inr.inr.inr.inl => exact sysOp_priv he hl hf rfl (.inl hp) hi
    case inr.inr.inr.inr =>
      refine sysOp_priv he hl hf rfl (.inl hp) ?_
      rw [hok, Bool.not_true]
  · exact sysOp_priv he hl hf rfl (.inr ⟨rfl, ht⟩) hi

end Sys2Proof
end

section
/-! Decoding and encoding are inverse to each other (spec 03, R59 to R71). -/

namespace Sys2Proof

/-! From an instruction to its word and back. -/

theorem cmpImmFn_decodes : ∀ (cond : BitVec 3) (u : Bool), cond.toNat < 6 →
    (cond ++ BitVec.ofBool u).toNat < 12 ∧ BitVec.ofNat 3 ((cond ++ BitVec.ofBool u).toNat / 2) = cond ∧
      ((cond ++ BitVec.ofBool u).toNat % 2 == 1) = u := by
  decide

theorem decodeFields_cmpImm (g : Guard) (f : VI) {cond : BitVec 3} (u : Bool) (hc : cond.toNat < 6) :
    decodeFields (packWord 0x04 (cond ++ BitVec.ofBool u) g f.pack) = .ok (.cmpImm g f cond u) := by
  obtain ⟨hlt, hcond, hu⟩ := cmpImmFn_decodes cond u hc
  unfold decodeFields
  rw [packWord_op, packWord_fn, packWord_guard, packWord_layout]
  change orSub 0x04 _ (decode04 g f.pack _) = _
  rw [decode04, if_pos hlt, hcond, hu, f.unpack_pack]
  rfl

/-- Opcode 0x28, FN 0 is `cpy` or `cpy.lw` by bit 3 of CL (spec 08, R212). -/
theorem decodeFields_cpy (g : Guard) (f : FMC) :
    decodeFields (packWord 0x28 0 g f.pack) = .ok (if f.cl.getLsbD 3 then .cpyLw g f else .cpy g f) := by
  unfold decodeFields
  rw [packWord_op, packWord_fn, packWord_guard, packWord_layout]
  conv_rhs => rw [← f.unpack_pack]
  rfl

theorem Instr.fieldsOk_of_legal {i : Instr} (h : i.legal = true) : i.fieldsOk = true := by
  rw [Instr.legal, Bool.and_eq_true, Bool.and_eq_true] at h
  exact h.1.2

/-- The word of a legal instruction decodes to it: each layout gives its fields back. -/
theorem exists_encode_of_wf {i : Instr} (hg : i.guard?.isSome = true) (hl : i.legal = true) :
    ∃ w, encode i = some w ∧ decodeFields w = .ok i := by
  cases i with
  | add g f | sub g f | mul g f | mulhi g f | mad g f | min g f | max g f | abs g f | neg g f | addc g f | subb g f
  | lea g f | and g f | or g f | xor g f | not g f | shl g f | shr g f | sar g f | rot g f | popc g f | clz g f | ctz g f
  | brev g f | bfe g f | bfi g f | sel g f | cmp g f | mov g f | fadd g f | fsub g f | fmul g f | fma g f | fmin g f
  | fmax g f | fcmp g f | fclass g f | frnd g f | frcp g f | frsq g f | fsqrt g f | fex2 g f | flg2 g f | fsin g f
  | fcos g f | cvt g f | pack g f | unpack g f | scl g f | movs g f | shflIdx g f | shflUp g f | shflDown g f | shflXor g f
  | voteAll g f | voteAny g f | voteBallot g f | matchAny g f | matchAll g f | bcast g f | gscan g f | minidx g f
  | maxidx g f | addImm g f | subImm g f | mulImm g f | andImm g f | orImm g f | xorImm g f | shlImm g f | shrImm g f
  | sarImm g f | rotImm g f | movi g f | faddImm g f | fsubImm g f | fmulImm g f | fminImm g f | fmaxImm g f | sadd g f
  | ssub g f | smul g f | sand g f | sor g f | sxor g f | sshl g f | sshr g f | smov g f | scmp g f | rdsrScalar g f
  | rdsrVector g f | saddImm g f | ssubImm g f | smulImm g f | sandImm g f | sorImm g f | sxorImm g f | sshlImm g f
  | sshrImm g f | scmpImm g f | sld g f | smovK g f | ld g f | ldp g f | lds g f | ldfrag g f | st g f | sts g f | pref g f
  | pgreq g f | hflush g f | hinv g f | cwb g f | cpyRing g f | cpyg g f | cpyb g f | bulk g f | stwait g f | strel g f
  | hand g f | take g f | send g f | post g f | rprobe g f | rwait g f | rcancel g f | acset g f | acwait g f | witb g f
  | witp g f | wite g f | gver g f | launch g f | cancel g f | hcwait g f | mma g f | mmac g f | mproj g f | accz g f
  | cvset g f | accld g f | accst g f | fence g f | br g f | brc g f | call g f | ret g f | reform g f | exit g f
  | yield g f | nop g f | trap g f | wait g f | bar g f | barx g f | rdpr g f | wrpr g f | tlbinv g f | sttinv g f
  | finj g f | halt g f =>
    refine ⟨_, rfl, ?_⟩
    unfold decodeFields
    rw [packWord_op, packWord_fn, packWord_guard, packWord_layout]
    conv_rhs => rw [← f.unpack_pack]
    rfl
  | minImm g f b | maxImm g f b | redux g f b | atom g f b | atoms g f b =>
    refine ⟨_, rfl, ?_⟩
    unfold decodeFields
    rw [packWord_op, packWord_fn, packWord_guard, packWord_layout]
    conv_rhs => rw [← f.unpack_pack]
    cases b <;> rfl
  | cmpImm g f cond u =>
    refine ⟨_, rfl, ?_⟩
    have hf := Instr.fieldsOk_of_legal hl
    exact decodeFields_cmpImm g f u (of_decide_eq_true hf)
  | cpy g f =>
    refine ⟨_, rfl, ?_⟩
    have hf := Instr.fieldsOk_of_legal hl
    simp only [Instr.fieldsOk, Bool.and_eq_true, beq_iff_eq] at hf
    obtain ⟨⟨-, hlw⟩, -⟩ := hf
    rw [decodeFields_cpy, hlw]
    rfl
  | cpyLw g f =>
    refine ⟨_, rfl, ?_⟩
    have hf := Instr.fieldsOk_of_legal hl
    simp only [Instr.fieldsOk, Bool.and_eq_true] at hf
    obtain ⟨⟨⟨-, hlw⟩, -⟩, -⟩ := hf
    rw [decodeFields_cpy, hlw]
    rfl
  | _ => exact absurd hg Bool.false_ne_true

/-! From a word to its instruction and back, one row of the opcode map at a time. -/

/-- What a row of the opcode map decodes is an instruction of a program, and its word has the parts that were decoded. -/
def RowEncodes (op : BitVec 7) (row : Guard → BitVec 48 → Nat → Option Instr) : Prop :=
  ∀ (g : Guard) (p : BitVec 48) (fn : BitVec 4) (i : Instr), row g p fn.toNat = some i →
    i.guard? = some g ∧ encode i = some (packWord op fn g p)

theorem packWord_eq {op : BitVec 7} {fn k : BitVec 4} {g : Guard} {p q : BitVec 48} (hfn : fn.toNat = k.toNat) (hp : q = p) :
    some (packWord op k g q) = some (packWord op fn g p) := by
  rw [BitVec.eq_of_toNat_eq hfn, hp]

theorem V3_rows_encode :
    RowEncodes 0x01 decode01 ∧ RowEncodes 0x02 decode02 ∧ RowEncodes 0x06 decode06 ∧ RowEncodes 0x08 decode08 ∧
      RowEncodes 0x09 decode09 ∧ RowEncodes 0x0B decode0B := by
  refine ⟨?_, ?_, ?_, ?_, ?_, ?_⟩
  all_goals
    intro g p fn i h
    dsimp only [decode01, decode02, decode06, decode08, decode09, decode0B] at h
    split at h <;> cases h
    all_goals exact ⟨rfl, packWord_eq ‹_› (V3.pack_unpack p)⟩

theorem V3S_rows_encode :
    RowEncodes 0x07 decode07 ∧ RowEncodes 0x10 decode10 := by
  refine ⟨?_, ?_⟩
  all_goals
    intro g p fn i h
    dsimp only [decode07, decode10] at h
    split at h <;> cases h
    all_goals exact ⟨rfl, packWord_eq ‹_› (V3S.pack_unpack p)⟩

theorem VI_rows_encode :
    RowEncodes 0x03 decode03 ∧ RowEncodes 0x05 decode05 ∧ RowEncodes 0x0A decode0A := by
  refine ⟨?_, ?_, ?_⟩
  all_goals
    intro g p fn i h
    dsimp only [decode03, decode05, decode0A] at h
    split at h <;> cases h
    all_goals exact ⟨rfl, packWord_eq ‹_› (VI.pack_unpack p)⟩

theorem SR_rows_encode :
    RowEncodes 0x18 decode18 ∧ RowEncodes 0x1B decode1B := by
  refine ⟨?_, ?_⟩
  all_goals
    intro g p fn i h
    dsimp only [decode18, decode1B] at h
    split at h <;> cases h
    all_goals exact ⟨rfl, packWord_eq ‹_› (SR.pack_unpack p)⟩

theorem SI_rows_encode :
    RowEncodes 0x19 decode19 ∧ RowEncodes 0x1C decode1C := by
  refine ⟨?_, ?_⟩
  all_goals
    intro g p fn i h
    dsimp only [decode19, decode1C] at h
    split at h <;> cases h
    all_goals exact ⟨rfl, packWord_eq ‹_› (SI.pack_unpack p)⟩

theorem SK_rows_encode :
    RowEncodes 0x1A decode1A := by
  intro g p fn i h
  dsimp only [decode1A] at h
  split at h <;> cases h
  all_goals exact ⟨rfl, packWord_eq ‹_› (SK.pack_unpack p)⟩

theorem FM_rows_encode :
    RowEncodes 0x20 decode20 ∧ RowEncodes 0x21 decode21 ∧ RowEncodes 0x24 decode24 := by
  refine ⟨?_, ?_, ?_⟩
  all_goals
    intro g p fn i h
    dsimp only [decode20, decode21, decode24] at h
    split at h <;> cases h
    all_goals exact ⟨rfl, packWord_eq ‹_› (FM.pack_unpack p)⟩

theorem FMC_rows_encode :
    RowEncodes 0x25 decode25 ∧ RowEncodes 0x29 decode29 ∧ RowEncodes 0x2A decode2A ∧ RowEncodes 0x2B decode2B ∧
      RowEncodes 0x2C decode2C ∧ RowEncodes 0x38 decode38 ∧ RowEncodes 0x52 decode52 := by
  refine ⟨?_, ?_, ?_, ?_, ?_, ?_, ?_⟩
  all_goals
    intro g p fn i h
    dsimp only [decode25, decode29, decode2A, decode2B, decode2C, decode38, decode52] at h
    split at h <;> cases h
    all_goals exact ⟨rfl, packWord_eq ‹_› (FMC.pack_unpack p)⟩

theorem FT_rows_encode :
    RowEncodes 0x30 decode30 := by
  intro g p fn i h
  dsimp only [decode30] at h
  split at h <;> cases h
  all_goals exact ⟨rfl, packWord_eq ‹_› (FT.pack_unpack p)⟩

theorem FTM_rows_encode :
    RowEncodes 0x31 decode31 := by
  intro g p fn i h
  dsimp only [decode31] at h
  split at h <;> cases h
  all_goals exact ⟨rfl, packWord_eq ‹_› (FTM.pack_unpack p)⟩

theorem FC_rows_encode :
    RowEncodes 0x27 decode27 ∧ RowEncodes 0x50 decode50 ∧ RowEncodes 0x51 decode51 := by
  refine ⟨?_, ?_, ?_⟩
  all_goals
    intro g p fn i h
    dsimp only [decode27, decode50, decode51] at h
    split at h <;> cases h
    all_goals exact ⟨rfl, packWord_eq ‹_› (FC.pack_unpack p)⟩

theorem FY_rows_encode :
    RowEncodes 0x70 decode70 := by
  intro g p fn i h
  dsimp only [decode70] at h
  split at h <;> cases h
  all_goals exact ⟨rfl, packWord_eq ‹_› (FY.pack_unpack p)⟩

theorem row04_encodes : RowEncodes 0x04 decode04 := by
  have hfn : ∀ fn : BitVec 4, fn.toNat < 12 → BitVec.ofNat 3 (fn.toNat / 2) ++ BitVec.ofBool (fn.toNat % 2 == 1) = fn := by
    decide
  intro g p fn i h
  dsimp only [decode04] at h
  split at h
  next hlt =>
    cases h
    exact ⟨rfl, packWord_eq (congrArg BitVec.toNat (hfn fn hlt)).symm (VI.pack_unpack p)⟩
  next => cases h

theorem reduxOp_fn_of_ofFn {n : Nat} {op : ReduxOp} (h : ReduxOp.ofFn n = some op) : op.fn.toNat = n := by
  unfold ReduxOp.ofFn at h
  split at h <;> cases h <;> rfl

theorem atomOp_fn_of_ofFn {n : Nat} {op : AtomOp} (h : AtomOp.ofFn n = some op) : op.fn.toNat = n := by
  unfold AtomOp.ofFn at h
  split at h <;> cases h <;> rfl

theorem row11_encodes : RowEncodes 0x11 decode11 := by
  intro g p fn i h
  obtain ⟨op, hop, rfl⟩ := Option.map_eq_some_iff.1 h
  exact ⟨rfl, packWord_eq (reduxOp_fn_of_ofFn hop).symm (V3S.pack_unpack p)⟩

theorem row22_encodes : RowEncodes 0x22 decode22 := by
  intro g p fn i h
  obtain ⟨op, hop, rfl⟩ := Option.map_eq_some_iff.1 h
  exact ⟨rfl, packWord_eq (atomOp_fn_of_ofFn hop).symm (FMA.pack_unpack p)⟩

theorem row23_encodes : RowEncodes 0x23 decode23 := by
  intro g p fn i h
  obtain ⟨op, hop, rfl⟩ := Option.map_eq_some_iff.1 h
  exact ⟨rfl, packWord_eq (atomOp_fn_of_ofFn hop).symm (FMA.pack_unpack p)⟩

theorem row28_encodes : RowEncodes 0x28 decode28 := by
  intro g p fn i h
  dsimp only [decode28] at h
  split at h <;> cases h
  case h_1 hfn =>
    split
    · exact ⟨rfl, packWord_eq hfn (FMC.pack_unpack p)⟩
    · exact ⟨rfl, packWord_eq hfn (FMC.pack_unpack p)⟩
  all_goals exact ⟨rfl, packWord_eq ‹_› (FMC.pack_unpack p)⟩

theorem eq_some_of_orSub {op fn : Nat} {o : Option Instr} {i : Instr} (h : orSub op fn o = .ok i) : o = some i := by
  cases o with
  | none => cases h
  | some j =>
    cases h
    rfl

/-- A row that decodes a word's parts gives the word back. -/
theorem RowEncodes.word {op : BitVec 7} {row : Guard → BitVec 48 → Nat → Option Instr} (hr : RowEncodes op row) {w : Code} {i : Instr}
    (hop : (w.extractLsb' 57 7).toNat = op.toNat)
    (h : orSub (w.extractLsb' 57 7).toNat (w.extractLsb' 53 4).toNat
      (row (Guard.unpack w) (w.extractLsb' 0 48) (w.extractLsb' 53 4).toNat) = .ok i) :
    i.guard?.isSome = true ∧ encode i = some w := by
  obtain ⟨hg, he⟩ := hr _ _ _ _ (eq_some_of_orSub h)
  rw [← BitVec.eq_of_toNat_eq hop, packWord_parts] at he
  exact ⟨by rw [hg]; rfl, he⟩

theorem encode_of_decodeFields {w : Code} {i : Instr} (h : decodeFields w = .ok i) :
    i.guard?.isSome = true ∧ encode i = some w := by
  obtain ⟨v301, v302, v306, v308, v309, v30B⟩ := V3_rows_encode
  obtain ⟨v3s07, v3s10⟩ := V3S_rows_encode
  obtain ⟨vi03, vi05, vi0A⟩ := VI_rows_encode
  obtain ⟨sr18, sr1B⟩ := SR_rows_encode
  obtain ⟨si19, si1C⟩ := SI_rows_encode
  obtain ⟨fm20, fm21, fm24⟩ := FM_rows_encode
  obtain ⟨fmc25, fmc29, fmc2A, fmc2B, fmc2C, fmc38, fmc52⟩ := FMC_rows_encode
  obtain ⟨fc27, fc50, fc51⟩ := FC_rows_encode
  unfold decodeFields at h
  dsimp only at h
  split at h
  case h_1 hop => exact v301.word hop h
  case h_2 hop => exact v302.word hop h
  case h_3 hop => exact vi03.word hop h
  case h_4 hop => exact row04_encodes.word hop h
  case h_5 hop => exact vi05.word hop h
  case h_6 hop => exact v306.word hop h
  case h_7 hop => exact v3s07.word hop h
  case h_8 hop => exact v308.word hop h
  case h_9 hop => exact v309.word hop h
  case h_10 hop => exact vi0A.word hop h
  case h_11 hop => exact v30B.word hop h
  case h_12 hop => exact v3s10.word hop h
  case h_13 hop => exact row11_encodes.word hop h
  case h_14 hop => exact sr18.word hop h
  case h_15 hop => exact si19.word hop h
  case h_16 hop => exact SK_rows_encode.word hop h
  case h_17 hop => exact sr1B.word hop h
  case h_18 hop => exact si1C.word hop h
  case h_19 hop => exact fm20.word hop h
  case h_20 hop => exact fm21.word hop h
  case h_21 hop => exact row22_encodes.word hop h
  case h_22 hop => exact row23_encodes.word hop h
  case h_23 hop => exact fm24.word hop h
  case h_24 hop => exact fmc25.word hop h
  case h_25 hop => exact fc27.word hop h
  case h_26 hop => exact row28_encodes.word hop h
  case h_27 hop => exact fmc29.word hop h
  case h_28 hop => exact fmc2A.word hop h
  case h_29 hop => exact fmc2B.word hop h
  case h_30 hop => exact fmc2C.word hop h
  case h_31 hop => exact FT_rows_encode.word hop h
  case h_32 hop => exact FTM_rows_encode.word hop h
  case h_33 hop => exact fmc38.word hop h
  case h_34 hop => exact fc50.word hop h
  case h_35 hop => exact fc51.word hop h
  case h_36 hop => exact fmc52.word hop h
  case h_37 hop => exact FY_rows_encode.word hop h
  case h_38 => cases h
  case h_39 => cases h

theorem decode_eq_ok_iff {w : Code} {i : Instr} : decode w = .ok i ↔ decodeFields w = .ok i ∧ i.legal = true := by
  unfold decode
  split
  next j hj =>
    rw [hj]
    constructor
    · intro h
      split at h
      next hl =>
        cases h
        exact ⟨rfl, hl⟩
      next => cases h
    · rintro ⟨h, hl⟩
      cases h
      rw [if_pos hl]
  next d hd => simp [hd]

/-- Settles O58: each row of the opcode map inverts the encoder, and each layout its fields. -/
theorem decodeAndEncodeAgree : Obligations.DecodeAndEncodeAgree := by
  unfold Obligations.DecodeAndEncodeAgree
  refine ⟨fun i hwf => ?_, fun w i h => ?_⟩
  · obtain ⟨hguard, hlegal⟩ := Bool.and_eq_true_iff.1 hwf
    obtain ⟨w, hw, hd⟩ := exists_encode_of_wf hguard hlegal
    exact ⟨w, hw, decode_eq_ok_iff.2 ⟨hd, hlegal⟩⟩
  · obtain ⟨hfields, hlegal⟩ := decode_eq_ok_iff.1 h
    obtain ⟨hguard, hw⟩ := encode_of_decodeFields hfields
    exact ⟨Bool.and_eq_true_iff.2 ⟨hguard, hlegal⟩, hw⟩

end Sys2Proof
end

section
/-! Vector and scalar instructions complete with their results (spec 05). -/

namespace Sys2Proof.Machine

theorem rndCompletes_of_exec {i : Instr} {g : Guard} {R : BitVec 16 → Thread → Thread} (hx : ∀ s, exec i s = vecRnd g i s R) :
    RndCompletes i g R := by
  intro s e h
  rw [hx s]
  exact h.rnd R

/-- An instruction that only moves on, after changes that leave the threads alone. -/
theorem threadsBecome_next {s u : State} {e : Env} (h : u.threads = s.threads) :
    ThreadsBecome s (u.advance e).progress e (fun _ x => x.next) := by
  refine ⟨fun n hn => ?_, fun wg n hn => ?_⟩
  · rw [State.thread_progress, State.thread_advance _ _ _ hn, State.thread_congr h]
  · rw [State.thread_progress, State.thread_advance_other _ _ _ _ hn, State.thread_congr h]

/-- A workgroup reads as before where the list of workgroups is the same. -/
theorem State.wg?_congr {s t : State} (h : t.wgs = s.wgs) (id : Nat) : t.wg? id = s.wg? id := by
  rw [State.wg?, State.wg?, h]

/-! `rdsr` to a scalar register (spec 02, R41). -/

/-- Each home group's register takes the value of its own threads; the value depends on nothing that these writes change. -/
theorem State.foldl_setS_special (e : Env) (r : BitVec 9) (k : Nat) (hr : r ≠ 511) (hs : List Nat) (s : State) (w : Workgroup)
    (hw : s.wg? e.w.id = some w) :
    ∃ wgs w', hs.foldl (fun s h => s.modWg e.w.id (fun w => w.setS h r (s.special e (h * 32) k))) s = { s with wgs } ∧
      State.wg? { s with wgs } e.w.id = some w' ∧
      ∀ h q, w'.s h q = if q = r ∧ h ∈ hs then s.special e (h * 32) k else w.s h q := by
  induction hs generalizing s w with
  | nil => exact ⟨s.wgs, w, rfl, hw, fun h q => (if_neg (fun hm => List.not_mem_nil hm.2)).symm⟩
  | cons k' hs ih =>
    have hmod : (s.modWg e.w.id (fun w => w.setS k' r (s.special e (k' * 32) k))).wg? e.w.id =
        some (w.setS k' r (s.special e (k' * 32) k)) := by
      rw [State.wg?_modWg _ _ _ _ (fun w => w.setS_id k' r _), if_pos rfl, hw, Option.map_some]
    obtain ⟨wgs, w', hfold, hw', hval⟩ := ih _ _ hmod
    refine ⟨wgs, w', hfold, hw', fun h q => ?_⟩
    have hspecial : State.special (s.modWg e.w.id (fun w => w.setS k' r (s.special e (k' * 32) k))) e (h * 32) k =
        s.special e (h * 32) k := rfl
    rw [hval, hspecial, Workgroup.s_setS _ _ _ _ _ _ hr]
    by_cases hq : q = r <;> by_cases hk : h = k' <;> simp [hq, hk]

/-! Two draws in each lane (spec 04, R94). -/

/-- Lanes that take draws one after another, `k` each. -/
def State.drawEach (s : State) (wg k : Nat) (l : List Nat) (f : Nat → Thread → Thread) : State :=
  l.foldl (fun s t => { s.modThread wg t (f s.draws) with draws := s.draws + k }) s

theorem State.perLaneTwice_eq_drawEach (s : State) (e : Env) (l : List Nat) (f : BitVec 16 → BitVec 16 → Thread → Thread) :
    s.perLaneTwice e l f = s.drawEach e.w.id 2 (dedup l) (fun n => f (Config.rand16 n) (Config.rand16 (n + 1))) := rfl

theorem State.drawEach_cons (s : State) (wg k u : Nat) (l : List Nat) (f : Nat → Thread → Thread) :
    s.drawEach wg k (u :: l) f = State.drawEach { s.modThread wg u (f s.draws) with draws := s.draws + k } wg k l f := rfl

theorem State.drawEach_eq (s : State) (wg k : Nat) (l : List Nat) (f : Nat → Thread → Thread) :
    ∃ th d, s.drawEach wg k l f = { s with threads := th, draws := d } := by
  induction l generalizing s with
  | nil => exact ⟨_, _, rfl⟩
  | cons t l ih =>
    obtain ⟨th, d, h⟩ := ih { s.modThread wg t (f s.draws) with draws := s.draws + k }
    exact ⟨th, d, h⟩

theorem State.drawEach_other (s : State) (wg k : Nat) (l : List Nat) (f : Nat → Thread → Thread) (wg' t : Nat)
    (h : ∀ u ∈ l, threadKey wg' t ≠ threadKey wg u) : (s.drawEach wg k l f).thread wg' t = s.thread wg' t := by
  induction l generalizing s with
  | nil => rfl
  | cons u l ih =>
    rw [State.drawEach_cons, ih _ (fun v hv => h v (List.mem_cons_of_mem _ hv))]
    exact State.thread_modThread_of_ne s _ (h u List.mem_cons_self)

theorem State.drawEach_self (s : State) (wg k : Nat) (l : List Nat) (f : Nat → Thread → Thread) (hl : l.Nodup) (t : Nat) :
    ∃ n, (s.drawEach wg k l f).thread wg t = if t ∈ l then f n (s.thread wg t) else s.thread wg t := by
  induction l generalizing s with
  | nil => exact ⟨0, rfl⟩
  | cons u l ih =>
    obtain ⟨hu, hl⟩ := List.nodup_cons.1 hl
    rw [State.drawEach_cons]
    by_cases ht : t = u
    · subst ht
      refine ⟨s.draws, ?_⟩
      rw [State.drawEach_other _ _ _ _ _ _ _ (fun v hv => threadKey_ne (fun (htv : t = v) => hu (htv ▸ hv))), if_pos List.mem_cons_self]
      exact State.thread_modThread ..
    · obtain ⟨n, hn⟩ := ih { s.modThread wg u (f s.draws) with draws := s.draws + k } hl
      have hsame : State.thread { s.modThread wg u (f s.draws) with draws := s.draws + k } wg t = s.thread wg t :=
        State.thread_modThread_of_ne s _ (threadKey_ne ht)
      refine ⟨n, ?_⟩
      rw [hn, hsame]
      simp only [List.mem_cons, ht, false_or]

/-- An instruction with two draws for each lane completes. -/
theorem State.perLaneTwice_done (s : State) (e : Env) (g : Guard) (f : BitVec 16 → BitVec 16 → Thread → Thread) :
    Out.Leads ((s.perLaneTwice e (s.lanes e g) f).done e) (fun t => OnlyThreads s t ∧
      ∃ first second : Nat → BitVec 16, ThreadsBecome s t e (fun n x =>
        if x.guarded g then (f (first n) (second n) x).next else x.next)) := by
  rw [State.perLaneTwice_eq_drawEach]
  obtain ⟨th, d, hframe⟩ := s.drawEach_eq e.w.id 2 (dedup (s.lanes e g)) (fun n => f (Config.rand16 n) (Config.rand16 (n + 1)))
  choose draw hdraw using
    s.drawEach_self e.w.id 2 (dedup (s.lanes e g)) (fun n => f (Config.rand16 n) (Config.rand16 (n + 1))) (nodup_dedup _)
  simp only [mem_dedup] at hdraw
  refine ⟨_, rfl, onlyThreads_done hframe, fun n => Config.rand16 (draw n), fun n => Config.rand16 (draw n + 1),
    threadsBecome_done (f := fun n => f (Config.rand16 (draw n)) (Config.rand16 (draw n + 1))) hdraw ?_⟩
  exact fun wg t hv => s.drawEach_other _ _ _ _ _ _ (fun u hu => hv u ((mem_dedup _ _).1 hu))

/-! Conversions (spec 05, R115). -/

theorem convCompletes_of_exec {i : Instr} {g : Guard} {f : V3} {l6 : Bool} {R : Rnd → Bool → BitVec 16 → Thread → Thread}
    (hx : ∀ s, exec i s = convOp g f i l6 s R) : ConvCompletes i g f l6 R := by
  intro s e m h hm
  rw [hx s, convOp, h.issue, hm]
  exact s.perLane_done e g (R m.1 m.2)

theorem Issuable.pack {s : State} {e : Env} {g : Guard} {f : V3} (h : Issuable s e g (.pack g f)) :
    exec (.pack g f) s = match convMode e.l f (clLo f == 9) with
      | none => .next (s.takeTrap e { code := 0x10 })
      | some m => (s.perLaneTwice e (s.lanes e g) (packThread f m.1 m.2)).done e := by
  change execPack g f s = _
  exact h.issue _

end Sys2Proof.Machine

namespace Sys2Proof

open Sys2Proof.Machine

/-- Settles O1: each meaning is its function of a lane's registers, in the lanes whose guard holds. -/
theorem integerResults : Obligations.IntegerResults := by
  unfold Obligations.IntegerResults
  refine ⟨fun g f => ?_, fun g f => ?_⟩
  · refine ⟨?_, ?_, ?_, ?_, ?_, ?_, ?_, ?_, ?_, ?_, ?_, ?_, ?_, ?_, ?_, ?_, ?_, ?_, ?_, ?_, ?_, ?_, ?_, ?_, ?_, ?_, ?_, ?_⟩
    all_goals exact vecCompletes_of_exec fun _ => rfl
  · refine ⟨?_, ?_, ?_, fun u => ?_, fun u => ?_, ?_, ?_, ?_, ?_, ?_, ?_, ?_, fun c u => ?_⟩
    all_goals exact vecCompletes_of_exec fun _ => rfl

/-- Settles O5: the rounding instructions take a draw in each lane, the others are functions of a lane's registers. -/
theorem floatResults : Obligations.FloatResults := by
  unfold Obligations.FloatResults
  intro g f
  refine ⟨?_, ?_, ?_, ?_, ?_, ?_, vecCompletes_of_exec fun _ => rfl, vecCompletes_of_exec fun _ => rfl, vecCompletes_of_exec fun _ => rfl,
    vecCompletes_of_exec fun _ => rfl, vecCompletes_of_exec fun _ => rfl, vecCompletes_of_exec fun _ => rfl,
    vecCompletes_of_exec fun _ => rfl, vecCompletes_of_exec fun _ => rfl, vecCompletes_of_exec fun _ => rfl,
    vecCompletes_of_exec fun _ => rfl⟩
  all_goals exact rndCompletes_of_exec fun _ => rfl

/-- Settles O7: a conversion is issued under its slot's mode, and traps where the slot has none. -/
theorem conversionResults : Obligations.ConversionResults := by
  unfold Obligations.ConversionResults
  refine fun g f => ⟨convCompletes_of_exec fun _ => rfl, fun s e m h hm => ?_, convCompletes_of_exec fun _ => rfl,
    vecCompletes_of_exec fun _ => rfl, fun i l6 hi s e h hm => ?_⟩
  · rw [h.pack, hm]
    exact s.perLaneTwice_done e g (packThread f m.1 m.2)
  · obtain ⟨rfl, rfl⟩ | ⟨rfl, rfl⟩ | ⟨rfl, rfl⟩ := hi
    · change execCvt g f s = _
      rw [execCvt, convOp, h.issue, hm]
    · rw [h.pack, hm]
    · change execScl g f s = _
      rw [execScl, convOp, h.issue, hm]

/-- Settles O9: a scalar instruction writes once for the group; `scmp` writes one truth value in its own lanes. -/
theorem scalarResults : Obligations.ScalarResults := by
  unfold Obligations.ScalarResults
  refine ⟨fun g f => ⟨?_, ?_, ?_, ?_, ?_, ?_, ?_, ?_, ?_, fun s e h => ?_⟩, fun g f => ⟨?_, ?_, ?_, ?_, ?_, ?_⟩, fun g f => ?_⟩
  case refine_10 =>
    exact h.lanesAlike (fun e x => x.setP (f.sd.extractLsb' 0 4) (intCond (f.cl.toNat % 8) (tyU f.ty) (e.s f.sa) (e.s f.sb)))
  all_goals exact scalarCompletes_of_exec fun _ => rfl

/-- Settles O11: `rdsr` writes in its own lanes, or in each home group in turn; each selector's value is read off. -/
theorem specialRegisterReads : Obligations.SpecialRegisterReads := by
  unfold Obligations.SpecialRegisterReads
  refine ⟨fun g f s e h => ?_, fun g f s e w h hl hw hsd => ?_,
    fun s e n _ => ⟨rfl, rfl, rfl, rfl, rfl, rfl, rfl, rfl, rfl, rfl, rfl, rfl, rfl⟩⟩
  · change Out.Leads (execRdsrVector g f s) _
    rw [execRdsrVector, h.issue]
    exact s.each_done e g (fun n x => x.setV (f.sd.extractLsb' 0 8) (s.special e n f.sa.toNat))
  · obtain ⟨wgs, w', hfold, hw', hval⟩ := State.foldl_setS_special e f.sd f.sa.toNat hsd e.g.hgrps s w hw
    change Out.Leads (execRdsrScalar g f s) _
    rw [execRdsrScalar, h.scalarOp hl, hfold]
    refine ⟨_, rfl, w', ?_, hval, ?_, threadsBecome_next rfl⟩
    · rw [State.wg?_congr (t := State.progress _) (State.advance_wgs _ e)]
      exact hw'
    · exact ⟨_, _, _, by rw [State.advance, State.modThreads_eq]; rfl⟩

end Sys2Proof
end

section
/-! What the integer functions are, in numbers (spec 05, R109; 08, R205). -/

namespace Sys2Proof.Machine

/-! Wrapping and saturating. -/

theorem clampInt_eq {lo hi : Int} (h : lo ≤ hi) (x : Int) : clampInt lo hi x = max lo (min hi x) := by
  unfold clampInt
  split <;> omega

theorem fitInt_wraps (u : Bool) (x : Int) : fitInt false u x = BitVec.ofInt 32 x := rfl

theorem toInt_fitInt_signed (x : Int) : (fitInt true false x).toInt = max (-2 ^ 31) (min (2 ^ 31 - 1) x) := by
  change (BitVec.ofInt 32 (clampInt (-2 ^ 31) (2 ^ 31 - 1) x)).toInt = _
  rw [clampInt_eq (by decide), BitVec.toInt_ofInt]
  exact Int.bmod_eq_of_le (by omega) (by omega)

theorem toNat_fitInt_unsigned (x : Int) : ((fitInt true true x).toNat : Int) = max 0 (min (2 ^ 32 - 1) x) := by
  change ((BitVec.ofInt 32 (clampInt 0 (2 ^ 32 - 1) x)).toNat : Int) = _
  rw [clampInt_eq (by decide), BitVec.toNat_ofInt]
  omega

/-! Bit counts. -/

theorem length_filter_eq_sum_toNat (p : Nat → Bool) (l : List Nat) : (l.filter p).length = (l.map (fun i => (p i).toNat)).sum := by
  induction l with
  | nil => rfl
  | cons i l ih =>
    rw [List.filter_cons, List.map_cons, List.sum_cons, ← ih]
    cases p i with
    | false => simp
    | true => simp [Nat.add_comm]

theorem toNat_popcW (a : Word) : (popcW a).toNat = ((List.range 32).map (fun i => (a.getLsbD i).toNat)).sum := by
  have hle : ((List.range 32).filter (fun i => a.getLsbD i)).length ≤ 32 := List.length_filter_le _ _
  rw [popcW, BitVec.toNat_ofNat, Nat.mod_eq_of_lt (by omega), length_filter_eq_sum_toNat]

theorem exists_getLsbD_of_ne_zero {a : Word} (h : a ≠ 0) : ∃ i, i < 32 ∧ a.getLsbD i = true := by
  by_contra hnone
  push Not at hnone
  exact h (BitVec.eq_of_getLsbD_eq (fun i hi => (Bool.eq_false_iff.2 (hnone i hi)).trans (BitVec.getLsbD_zero ..).symm))

/-- Where some number below 32 meets a test, the search answers the first that does. -/
theorem find_range_first {p : Nat → Bool} (h : ∃ i, i < 32 ∧ p i = true) :
    ∃ k, k < 32 ∧ p k = true ∧ (∀ j, j < k → p j = false) ∧ ((List.range 32).find? p).getD 32 = k := by
  obtain ⟨i, hi, hp⟩ := h
  obtain ⟨k, hk⟩ := Option.isSome_iff_exists.1 (List.find?_isSome.2 ⟨i, List.mem_range.2 hi, hp⟩)
  obtain ⟨hpk, hmem, hfirst⟩ := List.find?_range_eq_some.1 hk
  refine ⟨k, List.mem_range.1 hmem, hpk, fun j hj => ?_, by rw [hk]; rfl⟩
  simpa using hfirst j hj

theorem clzW_bounds {a : Word} (h : a ≠ 0) : 2 ^ (31 - (clzW a).toNat) ≤ a.toNat ∧ a.toNat < 2 ^ (32 - (clzW a).toNat) := by
  obtain ⟨i, hi, hbit⟩ := exists_getLsbD_of_ne_zero h
  have hmsb : a.getMsbD (31 - i) = true := by
    rw [BitVec.getMsbD_eq_getLsbD, decide_eq_true (by omega), Bool.true_and, show 32 - 1 - (31 - i) = i by omega, hbit]
  obtain ⟨k, hk, hone, hfirst, hfind⟩ := find_range_first (p := a.getMsbD) ⟨31 - i, by omega, hmsb⟩
  have hclz : (clzW a).toNat = k := by
    rw [clzW, hfind, BitVec.toNat_ofNat, Nat.mod_eq_of_lt (by omega)]
  rw [hclz]
  constructor
  · rw [BitVec.getMsbD_eq_getLsbD, decide_eq_true hk, Bool.true_and] at hone
    exact Nat.ge_two_pow_of_testBit hone
  · refine Nat.lt_pow_two_of_testBit _ (fun j hj => ?_)
    by_cases hj32 : j < 32
    · have hzero := hfirst (31 - j) (by omega)
      rw [BitVec.getMsbD_eq_getLsbD, decide_eq_true (by omega), Bool.true_and, show 32 - 1 - (31 - j) = j by omega] at hzero
      exact hzero
    · exact BitVec.getLsbD_of_ge a j (by omega)

theorem ctzW_bounds {a : Word} (h : a ≠ 0) : (ctzW a).toNat < 32 ∧ a.toNat % 2 ^ ((ctzW a).toNat + 1) = 2 ^ (ctzW a).toNat := by
  obtain ⟨k, hk, hone, hfirst, hfind⟩ := find_range_first (exists_getLsbD_of_ne_zero h)
  have hctz : (ctzW a).toNat = k := by
    rw [ctzW, hfind, BitVec.toNat_ofNat, Nat.mod_eq_of_lt (by omega)]
  rw [hctz]
  refine ⟨hk, Nat.eq_of_testBit_eq (fun j => ?_)⟩
  rw [Nat.testBit_mod_two_pow, Nat.testBit_two_pow]
  obtain hj | hj | hj := Nat.lt_trichotomy j k
  · have hzero : a.toNat.testBit j = false := hfirst j hj
    simp [hzero, hj.ne']
  · have hbit : a.toNat.testBit k = true := hone
    simp [hbit, hj]
  · rw [decide_eq_false (by omega), decide_eq_false (by omega), Bool.false_and]

theorem getLsbD_brevW (a : Word) {j : Nat} (h : j < 32) : (brevW a).getLsbD j = a.getLsbD (31 - j) := by
  rw [brevW, BitVec.getLsbD_reverse, BitVec.getMsbD_eq_getLsbD, decide_eq_true h, Bool.true_and]

/-! Bit fields: `pos` and `len` are those of the control word, so that a field ends in the word. -/

theorem toNat_bfeW_unsigned (a b : Word) :
    let pos := b.toNat % 32
    let len := min (b.toNat / 256 % 64) (32 - pos)
    (bfeW true a b).toNat = a.toNat / 2 ^ pos % 2 ^ len := by
  intro pos len
  have hlen : 2 ^ len ≤ 2 ^ 32 := Nat.pow_le_pow_right (by decide) (by omega)
  have hfield : a.toNat / 2 ^ pos % 2 ^ len < 2 ^ len := Nat.mod_lt _ (Nat.two_pow_pos len)
  change (if len == 0 then 0 else if true || decide (a.toNat / 2 ^ pos % 2 ^ len < 2 ^ (len - 1)) then
    BitVec.ofNat 32 (a.toNat / 2 ^ pos % 2 ^ len) else BitVec.ofNat 32 (a.toNat / 2 ^ pos % 2 ^ len + 2 ^ 32 - 2 ^ len)).toNat = _
  split
  next h0 => simp [eq_of_beq h0, Nat.mod_one]
  next => rw [Bool.true_or, if_pos rfl, BitVec.toNat_ofNat, Nat.mod_eq_of_lt (by omega)]

/-- The sign of a field is its highest bit. -/
theorem field_lt_half_iff (x pos len : Nat) (h : 0 < len) :
    x / 2 ^ pos % 2 ^ len < 2 ^ (len - 1) ↔ x.testBit (pos + len - 1) = false := by
  obtain ⟨n, rfl⟩ := Nat.exists_eq_add_of_lt h
  have hbit : (x / 2 ^ pos % 2 ^ (n + 1)).testBit n = x.testBit (pos + (n + 1) - 1) := by
    rw [Nat.testBit_mod_two_pow, decide_eq_true (by omega), Bool.true_and, Nat.testBit_div_two_pow]
    congr 1
    omega
  rw [Nat.zero_add, ← hbit, Nat.add_sub_cancel]
  have hfield : x / 2 ^ pos % 2 ^ (n + 1) < 2 ^ (n + 1) := Nat.mod_lt _ (Nat.two_pow_pos _)
  constructor
  · exact Nat.testBit_lt_two_pow
  · intro hz
    by_contra hge
    have := Nat.testBit_of_two_pow_le_and_two_pow_add_one_gt (not_lt.1 hge) hfield
    rw [hz] at this
    exact Bool.false_ne_true this

theorem toInt_bfeW_signed (a b : Word) :
    let pos := b.toNat % 32
    let len := min (b.toNat / 256 % 64) (32 - pos)
    0 < len → (bfeW false a b).toInt =
      (if a.getLsbD (pos + len - 1) then ((a.toNat / 2 ^ pos % 2 ^ len : Nat) : Int) - 2 ^ len else (a.toNat / 2 ^ pos % 2 ^ len : Nat)) := by
  intro pos len hpos
  have hlen : 2 ^ len ≤ 2 ^ 32 := Nat.pow_le_pow_right (by decide) (by omega)
  have hhalf : 2 ^ len = 2 ^ (len - 1) + 2 ^ (len - 1) := by
    rw [← Nat.two_mul, ← Nat.pow_succ', Nat.succ_eq_add_one, Nat.sub_add_cancel hpos]
  have hfield : a.toNat / 2 ^ pos % 2 ^ len < 2 ^ len := Nat.mod_lt _ (Nat.two_pow_pos len)
  have hsign := field_lt_half_iff a.toNat pos len hpos
  change (if len == 0 then 0 else if false || decide (a.toNat / 2 ^ pos % 2 ^ len < 2 ^ (len - 1)) then
    BitVec.ofNat 32 (a.toNat / 2 ^ pos % 2 ^ len) else BitVec.ofNat 32 (a.toNat / 2 ^ pos % 2 ^ len + 2 ^ 32 - 2 ^ len)).toInt = _
  generalize a.toNat / 2 ^ pos % 2 ^ len = x at *
  have hcast : ((2 ^ len : Nat) : Int) = 2 ^ len := by push_cast; rfl
  rw [if_neg (by simpa using hpos.ne'), Bool.false_or, ← hcast]
  generalize 2 ^ len = m at *
  generalize 2 ^ (len - 1) = k at *
  split
  next hlt =>
    have hz : a.getLsbD (pos + len - 1) = false := hsign.1 (of_decide_eq_true hlt)
    rw [hz, if_neg Bool.false_ne_true, BitVec.toInt_ofNat']
    have := of_decide_eq_true hlt
    exact Int.bmod_eq_of_le (by omega) (by omega)
  next hge =>
    have hge' : ¬ x < k := fun hlt => hge (decide_eq_true hlt)
    have hone : a.getLsbD (pos + len - 1) = true := by
      rw [← Bool.not_eq_false]
      exact fun hz => hge' (hsign.2 hz)
    rw [if_pos hone, BitVec.toInt_ofNat']
    have hsum : ((x + 2 ^ 32 - m : Nat) : Int) = (x : Int) - m + (2 ^ 32 : Nat) * 1 := by omega
    rw [hsum, Int.add_mul_bmod_self_left]
    exact Int.bmod_eq_of_le (by omega) (by omega)

/-- The mask of a field has the field's bits. -/
theorem getLsbD_fieldMask {pos len j : Nat} (hj : j < 32) :
    (BitVec.ofNat 32 ((2 ^ len - 1) * 2 ^ pos)).getLsbD j = decide (pos ≤ j ∧ j < pos + len) := by
  rw [BitVec.getLsbD_ofNat, decide_eq_true hj, Bool.true_and, Nat.testBit_mul_two_pow, Nat.testBit_two_pow_sub_one, ← Bool.decide_and,
    decide_eq_decide]
  omega

theorem getLsbD_bfiW (a b c : Word) {j : Nat} (hj : j < 32) :
    let pos := c.toNat % 32
    let len := min (c.toNat / 256 % 64) (32 - pos)
    (bfiW a b c).getLsbD j = if pos ≤ j ∧ j < pos + len then b.getLsbD (j - pos) else a.getLsbD j := by
  intro pos len
  change ((a &&& ~~~(BitVec.ofNat 32 ((2 ^ len - 1) * 2 ^ pos))) ||| ((b <<< pos) &&& BitVec.ofNat 32 ((2 ^ len - 1) * 2 ^ pos))).getLsbD j = _
  rw [BitVec.getLsbD_or, BitVec.getLsbD_and, BitVec.getLsbD_and, BitVec.getLsbD_not, BitVec.getLsbD_shiftLeft, getLsbD_fieldMask hj]
  by_cases hin : pos ≤ j ∧ j < pos + len
  · have hnot : ¬ j < pos := by omega
    simp [hin, hj, hnot]
  · simp [hin, hj]

/-! Integer atomics. -/

theorem toInt_minW (a b : Word) : (atomNew.minW' false a b).toInt = min a.toInt b.toInt := by
  rw [atomNew.minW', if_neg Bool.false_ne_true, BitVec.slt]
  simp only [decide_eq_true_eq]
  split <;> omega

theorem toInt_maxW (a b : Word) : (atomNew.maxW' false a b).toInt = max a.toInt b.toInt := by
  rw [atomNew.maxW', if_neg Bool.false_ne_true, BitVec.slt]
  simp only [decide_eq_true_eq]
  split <;> omega

theorem toNat_minW (a b : Word) : (atomNew.minW' true a b).toNat = min a.toNat b.toNat := by
  rw [atomNew.minW', if_pos rfl, BitVec.ult]
  simp only [decide_eq_true_eq]
  split <;> omega

theorem toNat_maxW (a b : Word) : (atomNew.maxW' true a b).toNat = max a.toNat b.toNat := by
  rw [atomNew.maxW', if_pos rfl, BitVec.ult]
  simp only [decide_eq_true_eq]
  split <;> omega

theorem atomNew_add {ty : BitVec 2} (h : ty ≠ 2) (o b c : Word) : atomNew .add ty o b c = o + b := by
  rw [atomNew, if_neg (by simpa using h)]

theorem atomNew_cas (ty : BitVec 2) (o b c : Word) : atomNew .cas ty o b c = if o = c then b else o := by
  rw [atomNew]
  simp only [beq_iff_eq]

end Sys2Proof.Machine

namespace Sys2Proof

open Sys2Proof.Machine

/-- Settles O2: each function of the integer instructions and atomics, by its bits or its value. -/
theorem functionMeanings : Obligations.FunctionMeanings := by
  unfold Obligations.FunctionMeanings
  exact ⟨⟨fitInt_wraps, toInt_fitInt_signed, toNat_fitInt_unsigned, toNat_popcW, fun _ => clzW_bounds, fun _ => ctzW_bounds, by decide,
      by decide, fun a j => getLsbD_brevW a, fun a b => ⟨toNat_bfeW_unsigned a b, toInt_bfeW_signed a b⟩, fun a b c j => getLsbD_bfiW a b c,
      intCond_meaning⟩,
    fun o b c ty => ⟨fun h => atomNew_add h o b c, rfl, rfl, rfl, rfl, rfl, atomNew_cas ty o b c, toInt_minW o b, toInt_maxW o b,
      toNat_minW o b, toNat_maxW o b⟩⟩

end Sys2Proof
end

section
/-! What an outcome leaves in memory: the shared shapes of instructions and events keep the canonical form. -/

namespace Sys2Proof.Machine

/-- The memory of the state that an outcome leaves, if it leaves one, is canonical. -/
def Out.MemOk : Out → Prop
  | .next t => Memory.wf t.mem = true
  | _ => True

@[simp] theorem Out.memOk_next (t : State) : Out.MemOk (.next t) ↔ Memory.wf t.mem = true := Iff.rfl

@[simp] theorem Out.memOk_fault (r : Fault) : Out.MemOk (.fault r) := trivial

@[simp] theorem Out.memOk_refused (r : Refusal) : Out.MemOk (.refused r) := trivial

theorem Out.memOk_ite {c : Prop} [Decidable c] {a b : Out} (h : a.MemOk) (h' : b.MemOk) : (if c then a else b).MemOk := by
  split
  · exact h
  · exact h'

theorem State.ite_wf {c : Prop} [Decidable c] {s t : State} (h : Memory.wf s.mem = true) (h' : Memory.wf t.mem = true) :
    Memory.wf (if c then s else t).mem = true := by
  split
  · exact h
  · exact h'

/-! What an instruction or an event may end in. -/

@[simp] theorem event_memOk {b : Bool} {t : State} (h : Memory.wf t.mem = true) : (event b t).MemOk := by
  unfold event
  split
  · exact h
  · trivial

theorem eventOf_memOk {o : Option State} (h : ∀ t, o = some t → Memory.wf t.mem = true) : (eventOf o).MemOk := by
  cases o with
  | none => trivial
  | some t => exact h t rfl

theorem Out.moved_memOk {o : Out} (h : o.MemOk) : o.moved.MemOk := by
  cases o <;> exact h

theorem lowerOf_memOk {own other : Out} {code : Nat} (h : own.MemOk) (h' : other.MemOk) : (lowerOf own code other).MemOk := by
  unfold lowerOf
  split
  · split
    · exact h
    · exact h'
  · exact h'

@[simp] theorem State.done_memOk {s : State} (e : Env) (w : Memory.wf s.mem = true) : (s.done e).MemOk := by simp [State.done, w]

@[simp] theorem State.doneDrawn_memOk {s : State} (e : Env) (w : Memory.wf s.mem = true) : (s.doneDrawn e).MemOk := by
  simp [State.doneDrawn, w]

@[simp] theorem State.doneWithout_memOk {s : State} (e : Env) (l : List Nat) (w : Memory.wf s.mem = true) : (s.doneWithout e l).MemOk := by
  simp [State.doneWithout, w]

@[simp] theorem State.badTarget_memOk {s : State} (e : Env) (va : VA) (f : Fetched) (w : Memory.wf s.mem = true) :
    (s.badTarget e va f).MemOk := by
  unfold State.badTarget
  split <;> simp [w]

section
variable {s : State} (w : Memory.wf s.mem = true)
include w

/-- The checks before an instruction trap, hold, or go on to its own effect. -/
theorem issue_memOk {g : Guard} {i : Instr} {body : Env → Out} (h : ∀ e, (body e).MemOk) : (issue g i s body).MemOk := by
  unfold issue
  split
  · trivial
  next e _ =>
    have bad (va f) := State.badTarget_memOk e va f w
    split
    · simp [w]
    · split
      · exact lowerOf_memOk (h e) (bad _ _)
      · exact bad _ _
    · split
      · exact lowerOf_memOk (h e) (by simp [w])
      · simp [w]
    · simp [w]
    · exact h e

theorem groupOp_memOk {g : Guard} {i : Instr} {body : Env → List Nat → Out} (h : ∀ e l, (body e l).MemOk) :
    (groupOp g i s body).MemOk := by
  refine issue_memOk w (fun e => ?_)
  split
  · exact State.done_memOk e w
  · exact h e _

theorem sysOp_memOk {g : Guard} {i : Instr} {illegal : Env → Bool} {body : Env → List Nat → Out} (h : ∀ e l, (body e l).MemOk) :
    (sysOp g i s illegal body).MemOk := by
  unfold sysOp
  dsimp only
  split
  · simp [w]
  · refine groupOp_memOk w (fun e l => ?_)
    split
    · simp [w]
    · exact h e l

theorem scalarOp_memOk {g : Guard} {i : Instr} {f : Env → State} (h : ∀ e, Memory.wf (f e).mem = true) : (scalarOp g i s f).MemOk := by
  refine issue_memOk w (fun e => ?_)
  split
  · exact State.done_memOk e w
  · exact State.done_memOk e (h e)

theorem vecOp_memOk (g : Guard) (i : Instr) (f : Thread → Thread) : (vecOp g i s f).MemOk :=
  issue_memOk w (fun e => State.done_memOk e (by simp [w]))

theorem vecRnd_memOk (g : Guard) (i : Instr) (f : BitVec 16 → Thread → Thread) : (vecRnd g i s f).MemOk :=
  issue_memOk w (fun e => State.done_memOk e (by simp [w]))

theorem fOp_memOk (g : Guard) (f : V3) (i : Instr) (op : Rnd → Bool → BitVec 16 → Word → Word → Word → Word) : (fOp g f i s op).MemOk :=
  vecRnd_memOk w ..

theorem srOp_memOk (g : Guard) (f : SR) (i : Instr) (op : Word → Word → Word) : (srOp g f i s op).MemOk :=
  scalarOp_memOk w (fun e => by simp [w])

theorem siOp_memOk (g : Guard) (f : SI) (i : Instr) (op : Word → Word → Word) : (siOp g f i s op).MemOk :=
  scalarOp_memOk w (fun e => by simp [w])

theorem scmpOp_memOk (g : Guard) (i : Instr) (sd : BitVec 9) (truth : Env → Bool) : (scmpOp g i s sd truth).MemOk :=
  issue_memOk w (fun e => State.done_memOk e (by simp [w]))

theorem convOp_memOk (g : Guard) (f : V3) (i : Instr) (l6 : Bool) (op : Rnd → Bool → BitVec 16 → Thread → Thread) :
    (convOp g f i l6 s op).MemOk := by
  refine issue_memOk w (fun e => ?_)
  split <;> simp [w]

theorem crossOp_memOk (g : Guard) (f : V3S) (i : Instr) (op : Lanes → Nat → Thread → Thread) : (crossOp g f i s op).MemOk := by
  refine issue_memOk w (fun e => ?_)
  split <;> simp [w]

theorem State.transfer_memOk {e : Env} {bads : List (VA × Fetched)} {depth : Bool} {go : Out} (h : go.MemOk) :
    (s.transfer e bads depth go).MemOk := by
  unfold State.transfer
  split <;> split <;> simp [w, h]

theorem State.divide_wf (e : Env) (take off : List Nat) (b : Bool) (f : Thread → Thread) :
    Memory.wf (s.divide e take off b f).mem = true := by
  simp [State.divide, w]

theorem branchOp_memOk (g : Guard) (i : Instr) (target : Env → VA) (call : Bool) : (branchOp g i s target call).MemOk := by
  refine issue_memOk w (fun e => ?_)
  dsimp only
  split
  · exact State.done_memOk e w
  · exact State.transfer_memOk w (State.divide_wf w ..)

theorem copyOp_memOk {g : Guard} {i : Instr} {conds : Env → List (Nat × Nat × Bool)} {body : Env → List Nat → Out}
    (h : ∀ e l, (body e l).MemOk) : (copyOp g i s conds body).MemOk := by
  refine groupOp_memOk w (fun e l => ?_)
  split
  · simp [w]
  · split
    · simp [w]
    · exact h e l

theorem State.readArray_memOk {e : Env} {ts : List Nat} {a n : Nat} {go : State → Out}
    (h : ∀ t, Memory.wf t.mem = true → (go t).MemOk) : (s.readArray e ts a n go).MemOk := by
  unfold State.readArray
  dsimp only
  split
  · simp [w]
  · split
    · simp [w]
    · simp [w]
    next t ht => exact h t (State.touchPages_wf w ht)

theorem State.apServe_memOk {world va n : Nat} {ide : Bool} {a : Access} {serve : State → Out}
    (h : ∀ t, Memory.wf t.mem = true → (serve t).MemOk) : (s.apServe world va n ide a serve).MemOk := by
  unfold State.apServe
  split
  · simp [w]
  · split
    · dsimp only
      split <;> simp [w]
    · split
      · trivial
      · exact h _ (by simp [w])

theorem mailOp_memOk {cmd : BitVec 8} {ok : Bool} {effect : State} (h : Memory.wf effect.mem = true) : (mailOp cmd s ok effect).MemOk := by
  refine event_memOk ?_
  repeat' split
  all_goals simp [w, h]

theorem State.globalAccess_memOk (e : Env) (a : Access) (m : Form) (cs : List (Nat × Cond)) : (s.globalAccess e a m cs).MemOk := by
  unfold State.globalAccess
  split
  · trivial
  · split
    · simp [w]
    · dsimp only
      split <;> simp [w]

theorem State.spadAccess_memOk (e : Env) (a : Access) (m : Form) (cs : List (Nat × Cond)) (x : Option Workgroup) :
    (s.spadAccess e a m cs x).MemOk := by
  unfold State.spadAccess
  split
  · simp [w]
  · exact State.done_memOk e w
  · dsimp only
    split
    · simp [w]
    · simp [w]
    next t ht => exact State.doneWithout_memOk _ _ (by simp [State.touchPages_wf w ht])

theorem maintain_memOk (g : Guard) (f : FMC) (i : Instr) (kind : List (Nat × Nat) → FlightKind) : (maintain g f i s kind).MemOk := by
  refine groupOp_memOk w (fun e l => ?_)
  dsimp only
  split
  · simp [w]
  · split <;> simp [w]

theorem State.blockEntry_memOk (e : Env) : (s.blockEntry e).MemOk := by
  unfold State.blockEntry
  dsimp only
  split
  · simp [w]
  · split
    · simp [w]
    · split
      · simp [w]
      · split <;> split <;> simp [w]

theorem signOp_memOk (g : Guard) (f : FT) (mmac : Bool) (i : Instr) : (signOp g f mmac i s).MemOk := by
  refine issue_memOk w (fun e => ?_)
  split
  · simp [w]
  · dsimp only
    split
    · simp [w]
    · refine State.doneDrawn_memOk _ ?_
      split <;> simp [w]

theorem tileMove_memOk (g : Guard) (f : FTM) (i : Instr) (a : Access) : (tileMove g f i a s).MemOk := by
  refine groupOp_memOk w (fun e ts => ?_)
  dsimp only
  split
  · simp [w]
  · split
    · simp [w]
    · trivial
    · split
      · simp [w]
      · split
        · simp [w]
        · simp [w]
        next t ht =>
          refine State.done_memOk _ ?_
          have h := State.touchPages_wf w ht
          rw [State.countTl_mem, State.addTile_mem]
          split <;> simp [h]

theorem State.lineAway_memOk (x : BulkLine) (err : Option Nat) : (s.lineAway x err).MemOk := by
  unfold State.lineAway
  repeat' split
  all_goals simp [w]

theorem State.performPacket_memOk (p : Packet) (k : Nat) : (s.performPacket p k).MemOk := by
  unfold State.performPacket
  dsimp only
  repeat' split
  all_goals simp [w]

theorem State.waitRec_memOk (l : Launch) (r : SubRec) (va bits : Nat) : (s.waitRec l r va bits).MemOk := by
  unfold State.waitRec
  split <;> simp [w]

end

end Sys2Proof.Machine

end

section
/-! Vector, memory, matrix, control and copy instructions keep the canonical form of memory. -/

namespace Sys2Proof.Machine
section
variable {s : State} (w : Memory.wf s.mem = true)
include w

theorem execMovs_memOk (g : Guard) (f : V3S) : (execMovs g f s).MemOk := issue_memOk w (fun e => State.done_memOk e (by simp [w]))

theorem execPack_memOk (g : Guard) (f : V3) : (execPack g f s).MemOk := by
  refine issue_memOk w (fun e => ?_)
  split <;> simp [w]

theorem execLd_memOk (g : Guard) (f : FM) : (execLd g f s).MemOk := issue_memOk w (fun _ => State.globalAccess_memOk w ..)

theorem execSt_memOk (g : Guard) (f : FM) : (execSt g f s).MemOk := issue_memOk w (fun _ => State.globalAccess_memOk w ..)

theorem execLdp_memOk (g : Guard) (f : FM) : (execLdp g f s).MemOk := by
  refine issue_memOk w (fun _ => State.globalAccess_memOk ?_ ..)
  split <;> simp [w]

theorem execAtom_memOk (g : Guard) (f : FMA) (op : AtomOp) : (execAtom g f op s).MemOk :=
  issue_memOk w (fun _ => State.globalAccess_memOk w ..)

theorem execLds_memOk (g : Guard) (f : FM) : (execLds g f s).MemOk := issue_memOk w (fun _ => State.spadAccess_memOk w ..)

theorem execSts_memOk (g : Guard) (f : FM) : (execSts g f s).MemOk := issue_memOk w (fun _ => State.spadAccess_memOk w ..)

theorem execLdfrag_memOk (g : Guard) (f : FM) : (execLdfrag g f s).MemOk := by
  refine issue_memOk w (fun e => ?_)
  dsimp only
  split
  · exact State.done_memOk e w
  · split
    · simp [w]
    · exact State.spadAccess_memOk w ..

theorem execAtoms_memOk (g : Guard) (f : FMA) (op : AtomOp) : (execAtoms g f op s).MemOk :=
  issue_memOk w (fun _ => State.spadAccess_memOk w ..)

theorem execPref_memOk (g : Guard) (f : FM) : (execPref g f s).MemOk := by
  refine issue_memOk w (fun e => State.done_memOk e (foldl_wf (fun s t w => ?_) _ w))
  dsimp only
  split
  · exact State.ite_wf w (State.ite_wf (by simp [w]) (by simp [w]))
  · exact w

theorem execPgreq_memOk (g : Guard) (f : FM) : (execPgreq g f s).MemOk := by
  refine issue_memOk w (fun e => ?_)
  dsimp only
  split
  · simp [w]
  · refine State.done_memOk e (State.recordPages_wf _ _ _ _ ?_)
    rw [foldl_mem (fun t n => State.tlbFill_mem ..)]
    exact w

theorem execFence_memOk (g : Guard) (f : FC) : (execFence g f s).MemOk := by
  refine issue_memOk w (fun e => Out.memOk_ite (by simp [w]) (State.done_memOk e ?_))
  have acquired (c : Prop) [Decidable c] : Memory.wf (if c then s.acquire e.g.core (fenceScope f) else s).mem = true := by
    split <;> simp [w]
  exact State.ite_wf (foldl_wf (fun s t w => by simp [w]) _ (acquired _)) (acquired _)

theorem execStorePerformed_memOk (fl : Nat) (home : Bool) (elem : Option Nat) : (execStorePerformed fl home elem s).MemOk := by
  unfold execStorePerformed
  split
  · trivial
  next f _ =>
    have ws : Memory.wf (if f.kind == .store then s.passStore f else s).mem = true := by split <;> simp [w]
    dsimp only
    split
    · exact event_memOk (by simp [w])
    · split
      · trivial
      · split
        · trivial
        · refine event_memOk ?_
          split
          · rw [State.landElem_mem]; exact State.homeEffect_wf _ _ _ ws
          · rw [State.land_mem]; exact State.homeEffect_wf _ _ _ ws

theorem execPoisonedReply_memOk (r : ErrorReply) : (execPoisonedReply r s).MemOk := by
  unfold execPoisonedReply
  split
  · trivial
  · refine event_memOk ?_
    rw [State.modFlight_mem, foldl_mem (fun s x => State.dropLine_mem ..), State.lower_mem]
    exact w

theorem execCvset_memOk (g : Guard) (f : FT) : (execCvset g f s).MemOk := by
  refine groupOp_memOk w (fun e ts => ?_)
  dsimp only
  repeat' split
  all_goals simp [w]

theorem execMproj_memOk (g : Guard) (f : FT) : (execMproj g f s).MemOk := by
  refine groupOp_memOk w (fun e ts => ?_)
  dsimp only
  split <;> simp [w]

theorem execTileTransferPerformed_memOk (op : Nat) : (execTileTransferPerformed op s).MemOk := by
  unfold execTileTransferPerformed
  split
  · trivial
  next o _ =>
  split
  · trivial
  next x _ =>
    dsimp only
    split
    · trivial
    · exact event_memOk (by simp [w])
    · exact event_memOk (by simp [w])
    next addr keys _ =>
      have noted (num : Word) (t : State) (h : Memory.wf t.mem = true) : Memory.wf (keys.foldl (fun s k =>
          if k < keySpad then s.noteLoad (s.launchOfWg x) o.core num k else s) t).mem = true :=
        foldl_wf (fun s k w => by split <;> simp [w]) _ h
      split
      · exact event_memOk (by simp [w])
      · refine event_memOk ?_
        rw [State.landTile_mem]
        exact foldl_wf (fun s k w => by split <;> simp [w]) _ (by simp [w])
    next addr keys _ _ =>
      refine event_memOk ?_
      have put (t : State) (y : Elem) (h : Memory.wf t.mem = true) : Memory.wf (if
          (decide (y.key < keySpad) && !y.green && (s.launchOfWg x).shadowOf.isNone) = true then
          (t.passElem (s.launchOfWg x) o.core [y] y).writeElem (s.launchOfWg x) o.num o.core y
        else t.writeElem (s.launchOfWg x) o.num o.core y).mem = true := by split <;> simp [h]
      split
      · rw [State.landTile_mem]
        exact foldl_wf put _ w
      · exact State.tileFault_wf _ _ _ _ _ _ _ (foldl_wf put _ w)

theorem execBar_memOk (g : Guard) (f : FC) : (execBar g f s).MemOk := by
  refine issue_memOk w (fun e => ?_)
  dsimp only
  split
  · simp [w]
  · refine Out.memOk_ite (by simp [w]) (Out.memOk_ite (by simp [w]) ?_)
    rw [Out.memOk_next, State.progress_mem, State.passPart_mem]
    refine State.ite_wf ?_ ?_ <;> simp only [State.acquire_mem, State.modThreads_mem]
    all_goals exact State.ite_wf (by simp [w]) (by simp [w])

theorem execBarx_memOk (g : Guard) (f : FC) : (execBarx g f s).MemOk := by
  refine groupOp_memOk w (fun e ts => ?_)
  dsimp only
  repeat' split
  all_goals simp [w]

theorem execRet_memOk (g : Guard) (f : FC) : (execRet g f s).MemOk := by
  refine issue_memOk w (fun e => ?_)
  dsimp only
  split
  · exact State.done_memOk e w
  · refine State.transfer_memOk w ?_
    rw [Out.memOk_next, State.modGroup_mem, foldl_mem (fun s t => by simp)]
    exact State.divide_wf w ..

theorem execExit_memOk (g : Guard) (f : FC) : (execExit g f s).MemOk := by
  refine issue_memOk w (fun e => ?_)
  dsimp only
  split <;> simp [w]

theorem execWait_memOk (g : Guard) (f : FC) : (execWait g f s).MemOk := by
  refine issue_memOk w (fun e => ?_)
  dsimp only
  repeat' split
  all_goals simp [w]

theorem execCpyRing_memOk (g : Guard) (f : FMC) : (execCpyRing g f s).MemOk := by
  refine copyOp_memOk w (fun e ts => ?_)
  split <;> simp [w]

theorem execCpyg_memOk (g : Guard) (f : FMC) : (execCpyg g f s).MemOk := by
  refine copyOp_memOk w (fun e ts => ?_)
  dsimp only
  split
  · exact State.done_memOk e w
  · exact State.readArray_memOk w (fun t w => State.done_memOk e (by simp [w]))

theorem execCpyb_memOk (g : Guard) (f : FMC) : (execCpyb g f s).MemOk := by
  refine copyOp_memOk w (fun e ts => State.readArray_memOk w (fun t wt => ?_))
  dsimp only
  split
  · trivial
  · simp [w]
  · simp [w]
  · split
    · simp [w]
    next t' h =>
      have w' : Memory.wf t'.mem = true := by
        split at h
        · cases h
        · rw [State.arrivalFor_mem h]; exact wt
      refine Out.memOk_ite ?_ ?_ <;> simp [w']

theorem execStwait_memOk (g : Guard) (f : FMC) : (execStwait g f s).MemOk := by
  refine groupOp_memOk w (fun e ts => ?_)
  split
  · simp [w]
  · split <;> simp [w]

theorem execStrel_memOk (g : Guard) (f : FMC) : (execStrel g f s).MemOk := by
  refine groupOp_memOk w (fun e ts => ?_)
  split
  · simp [w]
  · dsimp only
    repeat' split
    all_goals simp [w]

theorem execHand_memOk (g : Guard) (f : FMC) : (execHand g f s).MemOk := by
  refine groupOp_memOk w (fun e ts => ?_)
  refine Out.memOk_ite (State.done_memOk e w) (Out.memOk_ite (by simp [w]) ?_)
  dsimp only
  split
  · simp [w]
  · trivial
  · refine Out.memOk_ite (by simp [w]) (Out.memOk_ite (by simp [w]) (Out.memOk_ite (by simp [w]) (State.done_memOk e ?_)))
    rw [State.modGroup_mem, State.addFlight_mem, State.acts_mem]
    exact foldl_wf (fun s p w => State.flipPage_wf _ _ _ _ w) _ w

theorem execTake_memOk (g : Guard) (f : FMC) : (execTake g f s).MemOk := by
  refine groupOp_memOk w (fun e ts => ?_)
  dsimp only
  split
  · simp [w]
  · trivial
  · split
    · simp [w]
    · split <;> simp [w]

theorem execBulk_memOk (g : Guard) (f : FMC) : (execBulk g f s).MemOk := by
  refine copyOp_memOk w (fun e ts => ?_)
  dsimp only
  split
  · simp [w]
  · split
    · simp [w]
    next t h =>
      have w' : Memory.wf t.mem = true := by rw [State.arrivalFor_mem h]; exact w
      repeat' split
      all_goals simp [w']

theorem execAcset_memOk (g : Guard) (f : FMC) : (execAcset g f s).MemOk := by
  refine groupOp_memOk w (fun e ts => ?_)
  dsimp only
  split
  · simp [w]
  · split
    · simp [w]
    · split
      · simp [w]
      next t h =>
        have w' : Memory.wf t.mem = true := by rw [State.arrivalFor_mem h]; exact w
        simp [w']

theorem execAcwait_memOk (g : Guard) (f : FMC) : (execAcwait g f s).MemOk := by
  refine groupOp_memOk w (fun e ts => ?_)
  dsimp only
  split <;> simp [w]

theorem execSend_memOk (g : Guard) (f : FMC) : (execSend g f s).MemOk := by
  refine copyOp_memOk w (fun e ts => ?_)
  split
  · simp [w]
  · split
    · simp [w]
    next t h =>
      have w' : Memory.wf t.mem = true := by rw [State.arrivalFor_mem h]; exact w
      simp [w']

end

end Sys2Proof.Machine

end

section
/-! Engine operations, fabric lines, message headers and receives keep the canonical form of memory. -/

namespace Sys2Proof.Machine

theorem State.bump_wf {s t : State} {l : Launch} {o : EngineOp} {table b old : Nat} (w : Memory.wf s.mem = true)
    (h : s.bump l o table b = .count t old) : Memory.wf t.mem = true := by
  unfold State.bump at h
  dsimp only at h
  split at h
  next key green _ =>
    have noted : Memory.wf (if green then (s.fillLoc o (.va ((table + 16 * b + 12) % 2 ^ 56))).noteRead l o.version (wordOf key)
        else s.fillLoc o (.va ((table + 16 * b + 12) % 2 ^ 56))).mem = true := State.ite_wf (by simp [w]) (by simp [w])
    cases h
    refine State.ite_wf ?_ (State.engineElem_wf _ _ _ _ noted)
    rw [State.modLaunch_mem]
    exact State.putHostWord_wf _ _ _ noted
  · cases h

theorem State.engineStart_wf {s t : State} {o : EngineOp} (w : Memory.wf s.mem = true) (h : s.engineStart o = .yes t) :
    Memory.wf t.mem = true := by
  unfold State.engineStart at h
  split at h
  · cases h
  · split at h
    · split at h <;> cases h
    · split at h
      · cases h
      next ht =>
        split at h
        · cases h
        · cases h
        next ht' =>
          split at h
          · cases h
          · cases h
          next ht'' =>
            cases h
            have w1 := State.takeEntries_mem ht
            rw [State.registerSlots_mem] at w1
            rw [State.modEngine_mem]
            exact State.touchPages_wf (State.touchPages_wf (by rw [w1]; exact w) ht') ht''

theorem State.engineStart_entered_wf {s t : State} {o : EngineOp} (w : Memory.wf s.mem = true) (h : s.engineStart o = .entered t) :
    Memory.wf t.mem = true := by
  unfold State.engineStart at h
  split at h
  · cases h
  · split at h
    · split at h
      next ht =>
        cases h
        rw [State.takeEntries_mem ht]
        exact w
      · cases h
    · repeat' split at h
      all_goals cases h

theorem State.payloadByte_mem {s t : State} {m : Message} {n : Nat} {b : Byte} (h : s.payloadByte m n = some (t, b)) : t.mem = s.mem := by
  unfold State.payloadByte at h
  split at h
  · obtain ⟨_, _, h⟩ := Option.map_eq_some_iff.1 h
    cases h
    rfl
  · obtain ⟨o, _, h⟩ := Option.bind_eq_some_iff.1 h
    obtain ⟨_, _, h⟩ := Option.map_eq_some_iff.1 h
    cases h
    exact State.readWords_mem ..

theorem State.payloadBytes_mem {s t : State} {m : Message} {l : List Nat} {x : List (Nat × Byte)}
    (h : s.payloadBytes m l = some (t, x)) : t.mem = s.mem := by
  induction l generalizing s x with
  | nil => cases h; rfl
  | cons b l ih =>
    obtain ⟨u, hu, h⟩ := Option.bind_eq_some_iff.1 h
    obtain ⟨v, hv, h⟩ := Option.map_eq_some_iff.1 h
    cases h
    exact (ih hv).trans (State.payloadByte_mem hu)

section
variable {s : State} (w : Memory.wf s.mem = true)
include w

theorem State.engineMeets_memOk (o : EngineOp) (m : Met) : (s.engineMeets o m).MemOk := by
  unfold State.engineMeets
  split <;> simp [w]

theorem State.placeRow_memOk (l : Launch) (o : EngineOp) (table width : Nat) (caps : List (Nat × Nat × Nat)) (n : Nat) :
    (s.placeRow l o table width caps n).MemOk := by
  unfold State.placeRow
  split
  · exact w
  · split
    · exact State.engineMeets_memOk w ..
    next h =>
      have w' := State.bump_wf w h
      exact Out.memOk_ite (by simp [w']) (Out.memOk_ite (by simp [w']) (by simp [w']))

theorem State.engineWords_memOk (l : Launch) (o : EngineOp) (rskip reads wskip writes : Nat) :
    (s.engineWords l o rskip reads wskip writes).MemOk := by
  unfold State.engineWords
  extract_lets op rskip a b chosen q x t
  have wt : Memory.wf t.mem = true := by simp [t, x, w]
  split
  · exact State.engineMeets_memOk wt ..
  next u _ _ =>
    extract_lets y
    have wy : Memory.wf y.1.mem = true := State.drainBuf_wf _ _ _ _ _ wt
    split
    · exact State.engineMeets_memOk wy ..
    · simp [wy]
  · exact wt

theorem State.engineRun_memOk (op rskip reads wskip writes : Nat) : (s.engineRun op rskip reads wskip writes).MemOk := by
  unfold State.engineRun
  split
  · exact w
  · dsimp only
    split
    · exact Out.memOk_ite (State.placeRow_memOk w ..) (State.engineWords_memOk w ..)
    · split
      · exact State.engineMeets_memOk w ..
      · exact w
    · exact State.engineWords_memOk w ..

theorem engineMove_memOk (op rskip reads wskip writes : Nat) : (engineMove s op rskip reads wskip writes).MemOk := by
  unfold engineMove
  split
  · exact w
  · refine Out.memOk_ite (by simp [w]) ?_
    split
    · exact Out.moved_memOk (State.engineRun_memOk w ..)
    · split
      next h => exact Out.moved_memOk (State.engineRun_memOk (State.engineStart_wf w h) ..)
      next h => exact State.engineStart_entered_wf w h
      · exact w
      · simp [w]
    · exact w

theorem execSourceRangeReleased_memOk (op : Nat) : (execSourceRangeReleased op s).MemOk := by
  unfold execSourceRangeReleased
  split
  · trivial
  · refine eventOf_memOk (fun t h => ?_)
    obtain ⟨_, h⟩ := Option.ite_none_right_eq_some.1 h
    rw [State.readRest_mem h]
    exact w

theorem execCopyComplete_memOk (op : Nat) : (execCopyComplete op s).MemOk := by
  unfold execCopyComplete
  split
  · trivial
  · split
    case h_4 => trivial
    all_goals
      refine eventOf_memOk (fun t h => ?_)
      obtain ⟨u, hu, rfl⟩ := Option.map_eq_some_iff.1 h
      rw [State.creditLanding_mem]
      exact State.finishCopy_wf w hu

theorem execRingSequenceLanded_memOk (op : Nat) : (execRingSequenceLanded op s).MemOk := by
  unfold execRingSequenceLanded
  split
  · trivial
  · split
    · split
      · trivial
      · refine eventOf_memOk (fun t h => ?_)
        obtain ⟨_, h⟩ := Option.ite_none_right_eq_some.1 h
        obtain ⟨u, hu, rfl⟩ := Option.map_eq_some_iff.1 h
        rw [State.modWg_mem]
        exact State.finishCopy_wf w hu
    · trivial

theorem execEngineStop_memOk (op : Answered) : (execEngineStop op s).MemOk := by
  unfold execEngineStop
  split
  · trivial
  · refine Out.memOk_ite trivial ?_
    split
    · exact Out.moved_memOk (State.engineMeets_memOk w ..)
    · trivial

theorem execBulkLineArrival_memOk (line : Answered) : (execBulkLineArrival line s).MemOk := by
  unfold execBulkLineArrival
  split
  · trivial
  · refine Out.memOk_ite (State.lineAway_memOk w ..) (Out.memOk_ite trivial ?_)
    split
    · exact event_memOk (by simp [w])
    · trivial
    · trivial
    · trivial
    · simp [w]
    · split <;> simp [w]

theorem execMessageHeaderArrival_memOk (m : Message) : (execMessageHeaderArrival m s).MemOk := by
  unfold execMessageHeaderArrival
  split
  · refine Out.memOk_ite trivial ?_
    split
    next h => simp [State.takeHeader_mem h, w]
    · exact w
  · dsimp only
    split
    · trivial
    · refine Out.memOk_ite trivial (Out.memOk_ite (by simp [w]) ?_)
      split
      next h => simp [State.takeHeader_mem h, w]
      · simp [w]

theorem execMessageResend_memOk (op : Nat) : (execMessageResend op s).MemOk := by
  unfold execMessageResend
  split
  · trivial
  · dsimp only
    split
    next h => simp [State.takeHeader_mem h, w]
    · exact w

theorem execPost_memOk (g : Guard) (f : FMC) : (execPost g f s).MemOk := by
  refine groupOp_memOk w (fun e ts => ?_)
  refine Out.memOk_ite (by simp [w]) (Out.memOk_ite (by simp [w]) (Out.memOk_ite (by simp [w]) ?_))
  split
  · trivial
  · refine Out.memOk_ite (by simp [w]) ?_
    dsimp only
    refine State.done_memOk e ?_
    rw [State.setS_mem]
    split <;> simp [w]

theorem execRwait_memOk (g : Guard) (f : FMC) : (execRwait g f s).MemOk := by
  refine groupOp_memOk w (fun e ts => ?_)
  split
  · split <;> simp [w]
  · simp [w]

theorem execReceiveLandingComplete_memOk (world rcv : Nat) : (execReceiveLandingComplete world rcv s).MemOk := by
  unfold execReceiveLandingComplete
  split
  · trivial
  · split
    · trivial
    next hp =>
      refine Out.memOk_ite trivial (eventOf_memOk (fun t h => ?_))
      obtain ⟨u, hu, rfl⟩ := Option.map_eq_some_iff.1 h
      refine State.finishReceive_wf _ _ _ _ _ _ (State.landBytes_wf _ _ _ (State.landPages_wf ?_ hu))
      rw [State.payload_mem hp]
      exact w

end

end Sys2Proof.Machine

end

section
/-! Landings, launches, gangs, witness records, system instructions and worlds keep the canonical form of memory. -/

namespace Sys2Proof.Machine

theorem State.landed_wf {s t : State} {r : Receive} {m : Message} {bytes : List Nat} {g : State → List (Nat × Byte) → State}
    (w : Memory.wf s.mem = true) (hg : ∀ s x, Memory.wf s.mem = true → Memory.wf (g s x).mem = true)
    (h : (s.payloadBytes m bytes).bind (fun x => (x.1.landPages r bytes).map (fun s => g s x.2)) = some t) : Memory.wf t.mem = true := by
  obtain ⟨u, hu, h⟩ := Option.bind_eq_some_iff.1 h
  obtain ⟨v, hv, rfl⟩ := Option.map_eq_some_iff.1 h
  refine hg _ _ (State.landPages_wf ?_ hv)
  rw [State.payloadBytes_mem hu]
  exact w

section
variable {s : State} (w : Memory.wf s.mem = true)
include w

theorem landMove_memOk (world rcv : Nat) (bytes : List Nat) : (landMove s world rcv bytes).MemOk := by
  unfold landMove
  split
  · exact w
  · refine Out.memOk_ite w ?_
    split
    · exact w
    next h =>
      dsimp only
      rw [Out.memOk_next, State.progress_mem, State.modWorld_mem]
      exact State.landed_wf (g := fun s x => s.landBytes _ x) w (fun s x w => State.landBytes_wf _ _ _ w) h

theorem execLandingAborted_memOk (world rcv : Nat) (landed : List Nat) : (execLandingAborted world rcv landed s).MemOk := by
  unfold execLandingAborted
  split
  · trivial
  · refine Out.memOk_ite trivial (eventOf_memOk (fun t h => ?_))
    exact State.landed_wf (g := fun s x => (s.landBytes _ x).finishReceive world _ _ landed.length true) w
      (fun s x w => State.finishReceive_wf _ _ _ _ _ _ (State.landBytes_wf _ _ _ w)) h

theorem execEthFrameArrival_memOk (f : Frame) : (execEthFrameArrival f s).MemOk := by
  unfold execEthFrameArrival
  refine Out.memOk_ite trivial ?_
  split
  · exact w
  · refine Out.memOk_ite w (Out.memOk_ite w ?_)
    dsimp only
    split
    · exact w
    next h => simp [State.takeHeader_mem h, w]

theorem State.queueWait_memOk (world prio va bits : Nat) (q : Queue) : (s.queueWait world prio va bits q).MemOk := by
  unfold State.queueWait
  split
  · split
    · trivial
    · simp [State.queueWait.go, w]
  · simp [State.queueWait.go, w]

theorem execLaunchAccept_memOk (world prio : Nat) : (execLaunchAccept world prio s).MemOk := by
  have reject (code va lctr : Nat) (above : List (Nat × Nat)) :
      Out.MemOk (.next ((s.rejectLaunch world lctr code va above).headDone world prio).progress) := by simp [w]
  unfold execLaunchAccept
  split
  · trivial
  · refine Out.memOk_ite trivial ?_
    split
    · exact State.queueWait_memOk w ..
    · trivial
    · trivial
    · exact reject ..
    · dsimp only
      split
      · exact reject ..
      · split
        · trivial
        · trivial
        · exact reject ..
        · exact reject ..
        · exact State.queueWait_memOk w ..
        · exact State.queueWait_memOk w ..
        · trivial
        · trivial
        · simp [w]

theorem execQtail_memOk (world : Requested) (prio : Nat) (value : BitVec 16) : (execQtail world prio value s).MemOk :=
  event_memOk (State.ite_wf (by simp [w]) w)

theorem execPeerDoorbell_memOk (world prio srcChip srcWorld : Nat) (value : BitVec 16) :
    (execPeerDoorbell world prio srcChip srcWorld value s).MemOk := by
  unfold execPeerDoorbell
  split
  · trivial
  · exact event_memOk (State.ite_wf (by simp [w]) (State.ite_wf (by simp [w]) (by simp [w])))

theorem execGangPlacement_memOk (launch die : Nat) : (execGangPlacement launch die s).MemOk := by
  have preempted (l : Launch) : (eventOf (s.preemptFor l die)).MemOk := eventOf_memOk (fun t h => by rw [State.preemptFor_mem h]; exact w)
  unfold execGangPlacement
  split
  · trivial
  · refine Out.memOk_ite (Out.memOk_ite (preempted _) trivial) (Out.memOk_ite trivial ?_)
    split
    · trivial
    · simp [w]
    · refine Out.memOk_ite (event_memOk (by simp [w])) (Out.memOk_ite trivial ?_)
      split
      · exact preempted _
      · trivial
      next h _ => exact Out.memOk_ite trivial (by simp [State.placeNext_mem h, w])

theorem execLaunch_memOk (g : Guard) (f : FMC) : (execLaunch g f s).MemOk := by
  refine groupOp_memOk w (fun e ts => Out.memOk_ite (by simp [w]) ?_)
  dsimp only
  split
  · simp [w]
  · trivial
  · refine Out.memOk_ite (by simp [w]) (Out.memOk_ite (by simp [w]) ?_)
    split
    · trivial
    · refine Out.memOk_ite (by simp [w]) (Out.memOk_ite (by simp [w]) (Out.memOk_ite (by simp [w]) (Out.memOk_ite (by simp [w]) ?_)))
      split
      · simp [w]
      next h => 
        have w' : Memory.wf (State.mem _) = true := State.submit_wf (by simp [w]) h
        simp [w']

theorem execCancel_memOk (g : Guard) (f : FMC) : (execCancel g f s).MemOk := by
  refine groupOp_memOk w (fun e ts => ?_)
  exact Out.memOk_ite (by simp [w]) (Out.memOk_ite (by simp [w]) (Out.memOk_ite (by simp [w]) (State.ite_wf (by simp [w]) (by simp [w]))))

theorem execHcwait_memOk (g : Guard) (f : FMC) : (execHcwait g f s).MemOk := by
  refine groupOp_memOk w (fun e ts => ?_)
  exact Out.memOk_ite (by simp [w]) (State.done_memOk e (by simp [w]))

theorem execContextSaveComplete_memOk (gang : Nat) : (execContextSaveComplete gang s).MemOk := by
  unfold execContextSaveComplete
  split
  · trivial
  · refine Out.memOk_ite trivial (eventOf_memOk (fun t h => ?_))
    obtain ⟨u, hu, rfl⟩ := Option.map_eq_some_iff.1 h
    rw [State.saveGang_mem]
    exact State.savePages_wf w hu

theorem reissueMove_memOk (flight : Nat) : (reissueMove s flight).MemOk := by
  unfold reissueMove
  split
  · exact w
  · refine Out.memOk_ite w ?_
    split
    · trivial
    · simp [w]

theorem execGangResume_memOk (gang cluster : Nat) : (execGangResume gang cluster s).MemOk := by
  unfold execGangResume
  split
  · trivial
  · split
    · refine Out.memOk_ite trivial (Out.memOk_ite (by simp [w]) (eventOf_memOk (fun t h => ?_)))
      obtain ⟨_, h⟩ := Option.ite_none_right_eq_some.1 h
      obtain ⟨u, hu, rfl⟩ := Option.map_eq_some_iff.1 h
      obtain ⟨v, hv, hu⟩ := Option.bind_eq_some_iff.1 hu
      rw [State.modDie_mem]
      exact State.resumeRest_wf (State.resumeGang_wf w hv) hu
    · trivial

theorem execPageInComplete_memOk (wg page : Nat) : (execPageInComplete wg page s).MemOk := by
  unfold execPageInComplete
  split
  · refine Out.memOk_ite trivial ?_
    split
    next h => simp [State.makeRoom_wf w h]
    · trivial
  · trivial

theorem execWitb_memOk (g : Guard) (f : FMC) : (execWitb g f s).MemOk := by
  refine groupOp_memOk w (fun e ts => ?_)
  exact Out.memOk_ite (by simp [w]) (Out.memOk_ite (by simp [w]) (by simp [w]))

theorem execWitp_memOk (g : Guard) (f : FMC) : (execWitp g f s).MemOk := by
  refine groupOp_memOk w (fun e ts => ?_)
  dsimp only
  split
  · simp [w]
  · exact Out.memOk_ite (by simp [w]) (Out.memOk_ite (by simp [w]) (by simp [w]))

theorem execWite_memOk (g : Guard) (f : FMC) : (execWite g f s).MemOk := by
  refine groupOp_memOk w (fun e ts => ?_)
  split
  · simp [w]
  · exact Out.memOk_ite (by simp [w]) (Out.memOk_ite (by simp [w]) (State.done_memOk e (by simp [w])))

theorem execGver_memOk (g : Guard) (f : FMC) : (execGver g f s).MemOk := by
  refine issue_memOk w (fun e => ?_)
  exact Out.memOk_ite (by simp [w]) (Out.memOk_ite (by simp [w]) (State.done_memOk e (by simp [w])))

theorem execWitnessTestResult_memOk (world version : Nat) :
    (execWitnessTestResult world version s).MemOk := by
  unfold execWitnessTestResult
  split
  · trivial
  · split
    · trivial
    · refine Out.memOk_ite trivial ?_
      split
      · trivial
      · split
        · simp [w]
        · split
          · exact State.waitRec_memOk w ..
          · simp [w]

theorem execShadowRunComplete_memOk (launch : Nat) : (execShadowRunComplete launch s).MemOk := by
  unfold execShadowRunComplete
  split
  · trivial
  · split
    · trivial
    · refine Out.memOk_ite trivial (Out.memOk_ite (Out.memOk_ite (by simp [w]) ?_) ?_)
      · dsimp only
        split <;> simp [w]
      · split
        · trivial
        · exact Out.memOk_ite (by simp [w]) (Out.memOk_ite (by simp [w]) (by simp [w]))

theorem execWarmReset_memOk (die : Nat) : (execWarmReset die s).MemOk :=
  Out.memOk_ite trivial (Out.memOk_ite (by simp [w]) (Out.memOk_ite (event_memOk (by simp [w])) (by simp [w])))

theorem execLinkSplitDecision_memOk (parts : List Split) : (execLinkSplitDecision parts s).MemOk := by
  unfold execLinkSplitDecision
  refine Out.memOk_ite trivial ?_
  split
  · trivial
  · refine Out.memOk_ite ?_ ?_
    · rw [Out.memOk_next, State.stopAll_mem]
      exact foldl_wf (fun s w h => by simp [h]) _ w
    · rw [Out.memOk_next, State.progress_mem]
      exact State.fencedWorlds_wf _ _ (foldl_wf (fun s d h => State.fence_wf _ _ h) _ w)

theorem execRdpr_memOk (g : Guard) (f : FY) : (execRdpr g f s).MemOk :=
  sysOp_memOk w (fun e ts => Out.memOk_ite (by simp [w]) (State.done_memOk e (by simp [w])))

theorem execTlbinv_memOk (g : Guard) (f : FY) : (execTlbinv g f s).MemOk :=
  sysOp_memOk w (fun e ts => Out.memOk_ite (by simp [w]) (Out.memOk_ite (by simp [w]) (State.done_memOk e (by simp [w]))))

theorem execSttinv_memOk (g : Guard) (f : FY) : (execSttinv g f s).MemOk := by
  refine sysOp_memOk w (fun e ts => Out.memOk_ite (by simp [w]) (Out.memOk_ite (State.done_memOk e (by simp [w])) ?_))
  dsimp only
  split
  · simp [w]
  next h =>
    refine State.done_memOk e ?_
    rw [State.addSettle_mem]
    exact foldl_option_wf (fun _ => rfl) (fun _ _ _ w e => State.evict_wf w e) w h

theorem execFinj_memOk (g : Guard) (f : FY) : (execFinj g f s).MemOk := by
  refine sysOp_memOk w (fun e ts => Out.memOk_ite (by simp [w]) (Out.memOk_ite (by simp [w]) ?_))
  dsimp only
  split
  · simp [w]
  · simp [w]
  · simp [w]
  · have wt : Memory.wf (s.advance e).progress.mem = true := by simp [w]
    exact State.ite_wf (State.addScore_wf _ _ _ _ (State.dieFault_wf _ _ wt)) (State.addScore_wf _ _ _ _ wt)
  · simp [w]

theorem execHalt_memOk (g : Guard) (f : FY) : (execHalt g f s).MemOk :=
  sysOp_memOk w (fun e ts => Out.memOk_ite (by simp [w]) (by simp [w]))

theorem execHostApertureRead_memOk (world offset bytes : Nat) (ide : Bool) : (execHostApertureRead world offset bytes ide s).MemOk :=
  Out.memOk_ite trivial (State.apServe_memOk w (fun t w => by simp [w]))

theorem execHostApertureWrite_memOk (world offset : Nat) (data : List Byte) (relaxed ide : Bool) :
    (execHostApertureWrite world offset data relaxed ide s).MemOk :=
  Out.memOk_ite trivial (State.apServe_memOk w (fun _ w => event_memOk w))

theorem hostAtomicMove_memOk (world offset : Nat) (window ide : Bool) (op : HostAtomic) :
    (hostAtomicMove s world offset window ide op).MemOk := by
  refine Out.memOk_ite w (Out.memOk_ite ?_ (Out.memOk_ite w (Out.memOk_ite (by simp [w]) (Out.memOk_ite w ?_))))
  · split
    · exact w
    · exact State.ite_wf w (by simp [w])
  · refine State.apServe_memOk w (fun t w => ?_)
    rw [Out.memOk_next]
    split
    · simp [w]
    · exact w

theorem execStopInterface_memOk (world : Nat) : (execStopInterface world s).MemOk := by
  unfold execStopInterface
  split
  · trivial
  · exact event_memOk (State.ite_wf w (State.ite_wf (by simp [w]) (by simp [w])))

theorem execWorldDestroy_memOk (world : Nat) : (execWorldDestroy world s).MemOk :=
  have cancelled := s.cancelWorld_wf world w
  event_memOk (State.ite_wf (State.forgetWorld_wf _ _ (State.cryptoErase_wf _ _ cancelled)) cancelled)

theorem execGpolicy_memOk (value : BitVec 64) : (execGpolicy value s).MemOk :=
  event_memOk (State.ite_wf w (State.ite_wf (by simp [w]) w))

end

end Sys2Proof.Machine

end

section
/-! Privileged registers, the mailbox, power and the kernel's own reads keep the canonical form of memory. -/

namespace Sys2Proof.Machine

/-- The state that a write of a privileged register leaves, if it leaves one. -/
def PrivWrite.MemOk : PrivWrite → Prop
  | .illegal => True
  | .wait t => Memory.wf t.mem = true
  | .done t => Memory.wf t.mem = true

theorem PrivWrite.memOk_ite {c : Prop} [Decidable c] {a b : PrivWrite} (h : a.MemOk) (h' : b.MemOk) : (if c then a else b).MemOk := by
  split
  · exact h
  · exact h'

section
variable {s : State} (w : Memory.wf s.mem = true)
include w

theorem State.writeState_memOk (world : Nat) (x : World) (v : Nat) : (s.writeState world x v).MemOk := by
  refine PrivWrite.memOk_ite trivial (PrivWrite.memOk_ite (s.cancelWorld_wf world w) ?_)
  show Memory.wf (State.mem _) = true
  rw [State.leaveError_mem]
  exact State.ite_wf (s.cancelWorld_wf world w) w

theorem State.writePriv_memOk (n v : Nat) : (s.writePriv n v).MemOk := by
  refine PrivWrite.memOk_ite trivial ?_
  split
  · exact w
  · have set (x : World → World) : Memory.wf (s.modWorld (prnWorld n) x).mem = true := by simp [w]
    refine PrivWrite.memOk_ite (State.writeState_memOk w ..) (PrivWrite.memOk_ite (State.consume_wf _ _ _ w)
      (PrivWrite.memOk_ite (State.closeRecord_wf _ _ _ w) ?_))
    have dropped (c : Prop) [Decidable c] (x : World → World) :
        Memory.wf (if c then (s.modWorld (prnWorld n) x).dropMemory else s.modWorld (prnWorld n) x).mem = true :=
      State.ite_wf (State.dropMemory_wf _ (set x)) (set x)
    exact State.ite_wf (State.unstall_wf _ _ (State.flushRecords_wf _ _ (dropped _ _))) (dropped _ _)

theorem execWrpr_memOk (g : Guard) (f : FY) : (execWrpr g f s).MemOk := by
  refine sysOp_memOk w (fun e ts => Out.memOk_ite (by simp [w]) ?_)
  have h := State.writePriv_memOk w f.prn.toNat (e.s f.sa).toNat
  split
  · simp [w]
  next t e' => rw [e'] at h; rw [Out.memOk_next, State.hold_mem]; exact h
  next t e' => rw [e'] at h; exact State.done_memOk e h

theorem execGprdata_memOk (value : BitVec 64) : (execGprdata value s).MemOk := by
  refine event_memOk (State.ite_wf w ?_)
  have h := State.writePriv_memOk w s.garrun.gprsel.toNat value.toNat
  split
  · exact w
  next t e' =>
    rw [e'] at h
    rw [State.stateWrites_mem, State.modWorld_mem]
    exact h
  next t e' => rw [e'] at h; exact h

theorem execRegisterWrite_memOk (r : PlainReg) (value : BitVec 64) : (execRegisterWrite r value s).MemOk := by
  unfold execRegisterWrite
  cases r
  case msix => exact event_memOk ((State.modWorld_mem s _ _).symm ▸ w)
  case endpoint => exact event_memOk w
  all_goals exact event_memOk (State.ite_wf (by simp [w]) w)

theorem execFireRingBase_memOk (arg : BitVec 56) : (execFireRingBase arg s).MemOk := by
  unfold execFireRingBase
  dsimp only
  split
  · exact mailOp_memOk w w
  · exact mailOp_memOk w (State.ringSet_wf _ _ (by simp [w]))

theorem execFireRingSize_memOk (arg : BitVec 56) : (execFireRingSize arg s).MemOk := by
  unfold execFireRingSize
  dsimp only
  split
  · exact mailOp_memOk w w
  · exact mailOp_memOk w (State.ringSet_wf _ _ (by simp [w]))

theorem execFireRingHead_memOk (arg : BitVec 56) : (execFireRingHead arg s).MemOk :=
  mailOp_memOk w (State.ringSet_wf _ _ (by simp [w]))

theorem execDeepSleepWake_memOk : (execDeepSleepWake s).MemOk := by
  have h := State.rekeyAll_mem s
  unfold execDeepSleepWake
  generalize s.rekeyAll = t at h ⊢
  refine event_memOk ?_
  show Memory.wf t.mem = true
  rw [h]
  exact w

theorem execAonRailLoss_memOk : (execAonRailLoss s).MemOk :=
  event_memOk (foldl_wf (fun _ _ h => State.eraseRegion_wf _ _ h) _ (foldl_wf (fun _ _ h => State.worldError_wf _ _ h) _ w))

theorem execRdsrScalar_memOk (g : Guard) (f : SR) : (execRdsrScalar g f s).MemOk :=
  scalarOp_memOk w (fun e => foldl_wf (fun _ _ h => by simp [h]) _ w)

theorem execSld_memOk (g : Guard) (f : SI) : (execSld g f s).MemOk := by
  refine groupOp_memOk w (fun e ts => Out.memOk_ite (by simp [w]) ?_)
  dsimp only
  split
  · simp [w]
  · trivial
  · simp [w]
  · exact Out.memOk_ite (by simp [w]) (Out.memOk_ite (by simp [w]) (State.done_memOk e (by simp [w])))

end

end Sys2Proof.Machine

end

section
/-! The events and moves whose effect is one operation on the state keep the canonical form of memory. -/

namespace Sys2Proof.Machine
section
variable {s : State} (w : Memory.wf s.mem = true)
include w

theorem execLoadReturn_memOk (fl : Nat) (elem : Option Nat) : (execLoadReturn fl elem s).MemOk := by
  unfold execLoadReturn
  repeat' split
  all_goals simp [w]

theorem execAtomicReply_memOk (fl : Nat) : (execAtomicReply fl s).MemOk := by
  unfold execAtomicReply
  split
  · trivial
  · exact event_memOk (by simp [w])

theorem execAccz_memOk (g : Guard) (f : FT) : (execAccz g f s).MemOk :=
  groupOp_memOk w (fun e ts => by simp [w])

theorem execMatrixStepPerformed_memOk (op : Nat) : (execMatrixStepPerformed op s).MemOk := by
  unfold execMatrixStepPerformed
  repeat' split
  all_goals simp [w]

theorem execReform_memOk (g : Guard) (f : FC) : (execReform g f s).MemOk :=
  issue_memOk w (fun e => by simp [w])

theorem execTrap_memOk (g : Guard) (f : FC) : (execTrap g f s).MemOk :=
  groupOp_memOk w (fun e ts => by simp [w])

theorem execBinDraw_memOk (bin : Nat) : (execBinDraw bin s).MemOk := by
  unfold execBinDraw
  repeat' split
  all_goals simp [w]

theorem execBinAged_memOk (bin : Nat) : (execBinAged bin s).MemOk := by
  unfold execBinAged
  split
  · trivial
  · exact event_memOk (by simp [w])

theorem execLeaveGrant_memOk (die : Nat) : (execLeaveGrant die s).MemOk := by
  unfold execLeaveGrant
  split
  · trivial
  · exact event_memOk (by simp [w])

theorem execCpy_memOk (g : Guard) (f : FMC) : (execCpy g f s).MemOk :=
  copyOp_memOk w (fun e ts => by simp [w])

theorem execCpyLw_memOk (g : Guard) (f : FMC) : (execCpyLw g f s).MemOk :=
  copyOp_memOk w (fun e ts => by simp [w])

theorem execEnginePageResident_memOk (op : Nat) : (execEnginePageResident op s).MemOk := by
  unfold execEnginePageResident
  split
  · trivial
  · exact event_memOk (by simp [w])

theorem execCopyRestartTimeout_memOk (op : Nat) : (execCopyRestartTimeout op s).MemOk := by
  unfold execCopyRestartTimeout
  split
  · trivial
  · exact event_memOk (by simp [w])

theorem execBulkComplete_memOk (op : Nat) : (execBulkComplete op s).MemOk := by
  unfold execBulkComplete
  split
  · trivial
  · exact event_memOk (by simp [w])

theorem execReductionCombine_memOk (group : GroupTurn) (pos : Nat) (parts : List RedPart) : (execReductionCombine group pos parts s).MemOk := by
  unfold execReductionCombine
  split
  · trivial
  · split
    · trivial
    · exact event_memOk (by simp [w])

theorem homeMove_memOk (pos : Nat) : (homeMove s pos).MemOk := by
  unfold homeMove
  split
  · exact w
  · exact Out.memOk_ite w (State.performPacket_memOk (s := { s with iod := { s.iod with atHome := s.iod.atHome.eraseIdx pos } }) w ..)

theorem receiveMove_memOk (link : Nat) (x : PortItem) : (receiveMove s link x).MemOk := by
  unfold receiveMove
  dsimp only
  repeat' split
  all_goals simp [w]

theorem answerMove_memOk (pos : Nat) : (answerMove s pos).MemOk := by
  unfold answerMove
  dsimp only
  repeat' split
  all_goals simp [w]

theorem execFabricPacketArrival_memOk (p : Packet) : (execFabricPacketArrival p s).MemOk := by
  unfold execFabricPacketArrival
  dsimp only
  repeat' split
  all_goals simp [w]

theorem execWriteMerge_memOk (pos : Nat) : (execWriteMerge pos s).MemOk := by
  unfold execWriteMerge
  dsimp only
  repeat' split
  all_goals simp [w]

theorem execFlitReplay_memOk (link : Nat) : (execFlitReplay link s).MemOk :=
  event_memOk (by simp [w])

theorem execLinkTakenDown_memOk (link : Nat) : (execLinkTakenDown link s).MemOk :=
  event_memOk (by simp [w])

theorem flitsMove_memOk (edge : Edge) (sent acked got : Nat) : (flitsMove s edge sent acked got).MemOk := by
  unfold flitsMove
  dsimp only
  repeat' split
  all_goals simp [w]

theorem execPeerAdmission_memOk (link : Nat) (ev : PeerEvidence) : (execPeerAdmission link ev s).MemOk := by
  unfold execPeerAdmission
  repeat' split
  all_goals simp [w]

theorem execLinkRekey_memOk (link : Nat) : (execLinkRekey link s).MemOk := by
  unfold execLinkRekey
  repeat' split
  all_goals simp [w]

theorem policyMove_memOk (roots minima : List Nat) : (policyMove s roots minima).MemOk := by
  unfold policyMove
  split <;> simp [w]

theorem execRprobe_memOk (g : Guard) (f : FMC) : (execRprobe g f s).MemOk :=
  groupOp_memOk w (fun e ts => by simp [w])

theorem execRcancel_memOk (g : Guard) (f : FMC) : (execRcancel g f s).MemOk :=
  groupOp_memOk w (fun e ts => by split <;> simp [w])

theorem execSendComplete_memOk (op : Nat) (refused : Bool) : (execSendComplete op refused s).MemOk := by
  unfold execSendComplete
  split
  · trivial
  · split
    · refine Out.memOk_ite trivial (Out.memOk_ite ?_ (Out.memOk_ite ?_ ?_))
      · exact Out.memOk_ite trivial (by simp [w])
      · exact event_memOk (by simp [w])
      · refine event_memOk ?_
        split <;> simp [w]
    · trivial

theorem execQueueConfigWrite_memOk (world prio : Nat) (size : Bool) (value : BitVec 64) : (execQueueConfigWrite world prio size value s).MemOk := by
  unfold execQueueConfigWrite
  split
  · trivial
  · exact event_memOk (by simp [w])

theorem execWorkgroupEnd_memOk (wg : Nat) : (execWorkgroupEnd wg s).MemOk := by
  unfold execWorkgroupEnd
  split
  · trivial
  · exact event_memOk (by simp [w])

theorem execGangEnd_memOk (gang : Nat) : (execGangEnd gang s).MemOk := by
  unfold execGangEnd
  split
  · trivial
  · exact event_memOk (by simp [w])

theorem execDriverCancel_memOk (launch : Nat) : (execDriverCancel launch s).MemOk :=
  event_memOk (by simp [w])

theorem execCompletionCounterWrite_memOk (world ctr : Nat) (value : BitVec 128) : (execCompletionCounterWrite world ctr value s).MemOk :=
  event_memOk (by simp [w])

theorem execNotifyWrite_memOk (world : Requested) (n : Nat) (value : BitVec 64) : (execNotifyWrite world n value s).MemOk :=
  event_memOk (by simp [w])

theorem execPreemptRequest_memOk (t : Target) : (execPreemptRequest t s).MemOk :=
  event_memOk (by simp [w])

theorem saveAreaMove_memOk (gang : Nat) (image : Saggar) : (saveAreaMove s gang image).MemOk := by
  unfold saveAreaMove
  split <;> simp [w]

theorem execTrapResume_memOk (gang : Nat) : (execTrapResume gang s).MemOk := by
  unfold execTrapResume
  split
  · trivial
  · exact event_memOk (by simp [w])

theorem execFqclose_memOk (world : Nat) (index : BitVec 16) : (execFqclose world index s).MemOk :=
  event_memOk (by simp [w])

theorem execFqhead_memOk (world : Nat) (value : BitVec 16) : (execFqhead world value s).MemOk :=
  event_memOk (by simp [w])

theorem execParkedThreadRefile_memOk (wg tid : Nat) : (execParkedThreadRefile wg tid s).MemOk := by
  unfold execParkedThreadRefile
  split
  · exact event_memOk (by simp [w])
  · trivial

theorem execGroupDissolve_memOk (core part : Nat) : (execGroupDissolve core part s).MemOk := by
  unfold execGroupDissolve
  split
  · trivial
  · split
    · trivial
    · exact event_memOk (by simp [w])

theorem execTagFailure_memOk (edge : Edge) : (execTagFailure edge s).MemOk := by
  unfold execTagFailure
  repeat' split
  all_goals simp [w]

theorem execCheckerEventReport_memOk (die : Nat) (err : ErrorKind) : (execCheckerEventReport die err s).MemOk := by
  unfold execCheckerEventReport
  repeat' split
  all_goals simp [w]

theorem execFirmwareActivationSwitch_memOk (values : Measurement) : (execFirmwareActivationSwitch values s).MemOk := by
  unfold execFirmwareActivationSwitch
  repeat' split
  all_goals simp [w]

theorem execUnassignedEncoding_memOk (word : Code) : (execUnassignedEncoding word s).MemOk := by
  unfold execUnassignedEncoding
  split <;> simp [w]

theorem execIodWriteAcknowledged_memOk (write : WriteRoute) : (execIodWriteAcknowledged write s).MemOk := by
  unfold execIodWriteAcknowledged
  split
  · trivial
  · exact event_memOk (by simp [w])

theorem execHostWindowAccess_memOk (world offset bytes : Nat) (data : Option (List Byte)) : (execHostWindowAccess world offset bytes data s).MemOk := by
  unfold execHostWindowAccess
  dsimp only
  repeat' split
  all_goals simp [w]

theorem configMove_memOk (fn : Nat) : (configMove s fn).MemOk := by
  unfold configMove
  simp [w]

theorem execLockInterface_memOk (world : Nat) : (execLockInterface world s).MemOk := by
  unfold execLockInterface
  split
  · trivial
  · exact event_memOk (by simp [w])

theorem execStartInterface_memOk (world : Nat) : (execStartInterface world s).MemOk := by
  unfold execStartInterface
  split
  · trivial
  · exact event_memOk (by simp [w])

theorem execGtest_memOk (value : BitVec 64) : (execGtest value s).MemOk :=
  event_memOk (by simp [w])

theorem execGhaltrel_memOk (value : BitVec 64) : (execGhaltrel value s).MemOk :=
  event_memOk (by simp [w])

theorem execGcgdata_memOk (value : CollGroup) : (execGcgdata value s).MemOk :=
  event_memOk (by simp [w])

theorem execGpwrcap_memOk (die : Nat) (value : BitVec 64) : (execGpwrcap die value s).MemOk :=
  event_memOk (by simp [w])

theorem execThermalThrottle_memOk (temp : BitVec 16) : (execThermalThrottle temp s).MemOk :=
  event_memOk (by simp [w])

theorem execCoolantOutletBelow65c_memOk (temp : BitVec 16) : (execCoolantOutletBelow65c temp s).MemOk :=
  event_memOk (by simp [w])

theorem coolantMove_memOk (temp : BitVec 16) : (coolantMove s temp).MemOk := by
  unfold coolantMove
  simp [w]

theorem execThermalShutdown_memOk (temp : BitVec 16) : (execThermalShutdown temp s).MemOk := by
  unfold execThermalShutdown
  repeat' split
  all_goals simp [w]

theorem execDeepSleepEnter_memOk : (execDeepSleepEnter s).MemOk := by
  unfold execDeepSleepEnter
  repeat' split
  all_goals simp [w]

theorem execColdStart_memOk (r : BootReport) : (execColdStart r s).MemOk := by
  unfold execColdStart
  simp [w]

theorem execWarmStart_memOk (checks : WarmChecks) (r : BootReport) : (execWarmStart checks r s).MemOk := by
  unfold execWarmStart
  dsimp only
  repeat' split
  all_goals simp [w]

theorem execRdsrVector_memOk (g : Guard) (f : SR) : (execRdsrVector g f s).MemOk :=
  issue_memOk w (fun e => by simp [w])

end

end Sys2Proof.Machine

end

section
/-! Every step keeps the canonical form of memory (spec 02; 07). -/

namespace Sys2Proof.Machine

@[simp] theorem State.unissue_mem (s : State) (id : Nat) : (s.unissue id).mem = s.mem := by
  unfold State.unissue
  split
  · rfl
  · split <;> simp

theorem Out.endIssue_memOk {o : Out} (h : o.MemOk) : o.endIssue.MemOk := by
  cases o with
  | next t =>
    show Memory.wf (State.mem (match t.cur with | some id => t.unissue id | none => t)) = true
    split
    · rw [State.unissue_mem]; exact h
    · exact h
  | fault r => trivial
  | refused r => trivial

theorem State.issueOf_stop_memOk {s : State} {e : Env} {o : Out} (w : Memory.wf s.mem = true) (h : s.issueOf e = .stop o) : o.MemOk := by
  unfold State.issueOf at h
  split at h
  · cases h
  · dsimp only at h
    split at h
    · split at h <;> cases h
    all_goals
      cases h
      simp [w]

section
variable {s : State} (w : Memory.wf s.mem = true)
include w

/-- Whatever instruction or event it is, memory stays canonical: a case for each form. -/
theorem exec_memOk (i : Instr) : Out.MemOk (exec i s) := by
  cases i with
  | add _ _ => exact vecOp_memOk w ..
  | sub _ _ => exact vecOp_memOk w ..
  | mul _ _ => exact vecOp_memOk w ..
  | mulhi _ _ => exact vecOp_memOk w ..
  | mad _ _ => exact vecOp_memOk w ..
  | min _ _ => exact vecOp_memOk w ..
  | max _ _ => exact vecOp_memOk w ..
  | abs _ _ => exact vecOp_memOk w ..
  | neg _ _ => exact vecOp_memOk w ..
  | addc _ _ => exact vecOp_memOk w ..
  | subb _ _ => exact vecOp_memOk w ..
  | lea _ _ => exact vecOp_memOk w ..
  | and _ _ => exact vecOp_memOk w ..
  | or _ _ => exact vecOp_memOk w ..
  | xor _ _ => exact vecOp_memOk w ..
  | not _ _ => exact vecOp_memOk w ..
  | shl _ _ => exact vecOp_memOk w ..
  | shr _ _ => exact vecOp_memOk w ..
  | sar _ _ => exact vecOp_memOk w ..
  | rot _ _ => exact vecOp_memOk w ..
  | popc _ _ => exact vecOp_memOk w ..
  | clz _ _ => exact vecOp_memOk w ..
  | ctz _ _ => exact vecOp_memOk w ..
  | brev _ _ => exact vecOp_memOk w ..
  | bfe _ _ => exact vecOp_memOk w ..
  | bfi _ _ => exact vecOp_memOk w ..
  | sel _ _ => exact vecOp_memOk w ..
  | cmp _ _ => exact vecOp_memOk w ..
  | addImm _ _ => exact vecOp_memOk w ..
  | subImm _ _ => exact vecOp_memOk w ..
  | mulImm _ _ => exact vecOp_memOk w ..
  | minImm _ _ _ => exact vecOp_memOk w ..
  | maxImm _ _ _ => exact vecOp_memOk w ..
  | andImm _ _ => exact vecOp_memOk w ..
  | orImm _ _ => exact vecOp_memOk w ..
  | xorImm _ _ => exact vecOp_memOk w ..
  | shlImm _ _ => exact vecOp_memOk w ..
  | shrImm _ _ => exact vecOp_memOk w ..
  | sarImm _ _ => exact vecOp_memOk w ..
  | rotImm _ _ => exact vecOp_memOk w ..
  | cmpImm _ _ _ _ => exact vecOp_memOk w ..
  | mov _ _ => exact vecOp_memOk w ..
  | movi _ _ => exact vecOp_memOk w ..
  | movs _ _ => exact execMovs_memOk w ..
  | fadd _ _ => exact (show Out.MemOk (execFadd _ _ s) from fOp_memOk w ..)
  | fsub _ _ => exact (show Out.MemOk (execFsub _ _ s) from fOp_memOk w ..)
  | fmul _ _ => exact (show Out.MemOk (execFmul _ _ s) from fOp_memOk w ..)
  | fma _ _ => exact fOp_memOk w ..
  | fmin _ _ => exact vecOp_memOk w ..
  | fmax _ _ => exact vecOp_memOk w ..
  | fcmp _ _ => exact vecOp_memOk w ..
  | fclass _ _ => exact vecOp_memOk w ..
  | frnd _ _ => exact vecOp_memOk w ..
  | frcp _ _ => exact (show Out.MemOk (execFrcp _ _ s) from fOp_memOk w ..)
  | frsq _ _ => exact vecOp_memOk w ..
  | fsqrt _ _ => exact (show Out.MemOk (execFsqrt _ _ s) from fOp_memOk w ..)
  | fex2 _ _ => exact vecOp_memOk w ..
  | flg2 _ _ => exact vecOp_memOk w ..
  | fsin _ _ => exact vecOp_memOk w ..
  | fcos _ _ => exact vecOp_memOk w ..
  | faddImm _ _ => exact vecOp_memOk w ..
  | fsubImm _ _ => exact vecOp_memOk w ..
  | fmulImm _ _ => exact vecOp_memOk w ..
  | fminImm _ _ => exact vecOp_memOk w ..
  | fmaxImm _ _ => exact vecOp_memOk w ..
  | cvt _ _ => exact (show Out.MemOk (execCvt _ _ s) from convOp_memOk w ..)
  | pack _ _ => exact execPack_memOk w ..
  | unpack _ _ => exact vecOp_memOk w ..
  | scl _ _ => exact (show Out.MemOk (execScl _ _ s) from convOp_memOk w ..)
  | shflIdx _ _ => exact (show Out.MemOk (execShflIdx _ _ s) from crossOp_memOk w ..)
  | shflUp _ _ => exact (show Out.MemOk (execShflUp _ _ s) from crossOp_memOk w ..)
  | shflDown _ _ => exact (show Out.MemOk (execShflDown _ _ s) from crossOp_memOk w ..)
  | shflXor _ _ => exact (show Out.MemOk (execShflXor _ _ s) from crossOp_memOk w ..)
  | voteAll _ _ => exact (show Out.MemOk (execVoteAll _ _ s) from crossOp_memOk w ..)
  | voteAny _ _ => exact (show Out.MemOk (execVoteAny _ _ s) from crossOp_memOk w ..)
  | voteBallot _ _ => exact (show Out.MemOk (execVoteBallot _ _ s) from crossOp_memOk w ..)
  | matchAny _ _ => exact (show Out.MemOk (execMatchAny _ _ s) from crossOp_memOk w ..)
  | matchAll _ _ => exact (show Out.MemOk (execMatchAll _ _ s) from crossOp_memOk w ..)
  | bcast _ _ => exact (show Out.MemOk (execBcast _ _ s) from crossOp_memOk w ..)
  | gscan _ _ => exact (show Out.MemOk (execGscan _ _ s) from crossOp_memOk w ..)
  | minidx _ _ => exact (show Out.MemOk (execMinidx _ _ s) from crossOp_memOk w ..)
  | maxidx _ _ => exact (show Out.MemOk (execMaxidx _ _ s) from crossOp_memOk w ..)
  | redux _ _ _ => exact (show Out.MemOk (execRedux _ _ _ s) from crossOp_memOk w ..)
  | sadd _ _ => exact srOp_memOk w ..
  | ssub _ _ => exact srOp_memOk w ..
  | smul _ _ => exact srOp_memOk w ..
  | sand _ _ => exact srOp_memOk w ..
  | sor _ _ => exact srOp_memOk w ..
  | sxor _ _ => exact srOp_memOk w ..
  | sshl _ _ => exact srOp_memOk w ..
  | sshr _ _ => exact (show Out.MemOk (execSshr _ _ s) from srOp_memOk w ..)
  | smov _ _ => exact (show Out.MemOk (execSmov _ _ s) from srOp_memOk w ..)
  | scmp _ _ => exact scmpOp_memOk w ..
  | saddImm _ _ => exact siOp_memOk w ..
  | ssubImm _ _ => exact siOp_memOk w ..
  | smulImm _ _ => exact siOp_memOk w ..
  | sandImm _ _ => exact siOp_memOk w ..
  | sorImm _ _ => exact siOp_memOk w ..
  | sxorImm _ _ => exact siOp_memOk w ..
  | sshlImm _ _ => exact siOp_memOk w ..
  | sshrImm _ _ => exact siOp_memOk w ..
  | scmpImm _ _ => exact scmpOp_memOk w ..
  | smovK _ _ => exact scalarOp_memOk w (fun e => by simp [w])
  | rdsrScalar _ _ => exact execRdsrScalar_memOk w ..
  | rdsrVector _ _ => exact execRdsrVector_memOk w ..
  | sld _ _ => exact execSld_memOk w ..
  | ld _ _ => exact execLd_memOk w ..
  | ldp _ _ => exact execLdp_memOk w ..
  | lds _ _ => exact execLds_memOk w ..
  | ldfrag _ _ => exact execLdfrag_memOk w ..
  | st _ _ => exact execSt_memOk w ..
  | sts _ _ => exact execSts_memOk w ..
  | atom _ _ _ => exact execAtom_memOk w ..
  | atoms _ _ _ => exact execAtoms_memOk w ..
  | pref _ _ => exact execPref_memOk w ..
  | pgreq _ _ => exact execPgreq_memOk w ..
  | hflush _ _ => exact (show Out.MemOk (execHflush _ _ s) from maintain_memOk w ..)
  | hinv _ _ => exact (show Out.MemOk (execHinv _ _ s) from maintain_memOk w ..)
  | cwb _ _ => exact maintain_memOk w ..
  | fence _ _ => exact execFence_memOk w ..
  | cpy _ _ => exact execCpy_memOk w ..
  | cpyLw _ _ => exact execCpyLw_memOk w ..
  | cpyRing _ _ => exact execCpyRing_memOk w ..
  | cpyg _ _ => exact execCpyg_memOk w ..
  | cpyb _ _ => exact execCpyb_memOk w ..
  | bulk _ _ => exact execBulk_memOk w ..
  | stwait _ _ => exact execStwait_memOk w ..
  | strel _ _ => exact execStrel_memOk w ..
  | hand _ _ => exact execHand_memOk w ..
  | take _ _ => exact execTake_memOk w ..
  | send _ _ => exact execSend_memOk w ..
  | post _ _ => exact execPost_memOk w ..
  | rprobe _ _ => exact execRprobe_memOk w ..
  | rwait _ _ => exact execRwait_memOk w ..
  | rcancel _ _ => exact execRcancel_memOk w ..
  | acset _ _ => exact execAcset_memOk w ..
  | acwait _ _ => exact execAcwait_memOk w ..
  | mma _ _ => exact signOp_memOk w ..
  | mmac _ _ => exact signOp_memOk w ..
  | mproj _ _ => exact execMproj_memOk w ..
  | accz _ _ => exact execAccz_memOk w ..
  | cvset _ _ => exact execCvset_memOk w ..
  | accld _ _ => exact tileMove_memOk w ..
  | accst _ _ => exact tileMove_memOk w ..
  | witb _ _ => exact execWitb_memOk w ..
  | witp _ _ => exact execWitp_memOk w ..
  | wite _ _ => exact execWite_memOk w ..
  | gver _ _ => exact execGver_memOk w ..
  | br _ _ => exact branchOp_memOk w ..
  | brc _ _ => exact branchOp_memOk w ..
  | call _ _ => exact branchOp_memOk w ..
  | ret _ _ => exact execRet_memOk w ..
  | reform _ _ => exact execReform_memOk w ..
  | exit _ _ => exact execExit_memOk w ..
  | yield _ _ => exact (show Out.MemOk (execYield _ _ s) from groupOp_memOk w (fun e ts => State.done_memOk e w))
  | nop _ _ => exact (show Out.MemOk (execNop _ _ s) from groupOp_memOk w (fun e ts => State.done_memOk e w))
  | trap _ _ => exact execTrap_memOk w ..
  | wait _ _ => exact execWait_memOk w ..
  | bar _ _ => exact execBar_memOk w ..
  | barx _ _ => exact execBarx_memOk w ..
  | launch _ _ => exact execLaunch_memOk w ..
  | cancel _ _ => exact execCancel_memOk w ..
  | hcwait _ _ => exact execHcwait_memOk w ..
  | rdpr _ _ => exact execRdpr_memOk w ..
  | wrpr _ _ => exact execWrpr_memOk w ..
  | tlbinv _ _ => exact execTlbinv_memOk w ..
  | sttinv _ _ => exact execSttinv_memOk w ..
  | finj _ _ => exact execFinj_memOk w ..
  | halt _ _ => exact execHalt_memOk w ..
  | loadReturn _ _ => exact execLoadReturn_memOk w ..
  | storePerformed _ _ _ => exact execStorePerformed_memOk w ..
  | atomicReply _ => exact execAtomicReply_memOk w ..
  | poisonedReply _ => exact execPoisonedReply_memOk w ..
  | parkedThreadRefile _ _ => exact execParkedThreadRefile_memOk w ..
  | binDraw _ => exact execBinDraw_memOk w ..
  | binAged _ => exact execBinAged_memOk w ..
  | groupDissolve _ _ => exact execGroupDissolve_memOk w ..
  | matrixStepPerformed _ => exact execMatrixStepPerformed_memOk w ..
  | tileTransferPerformed _ => exact execTileTransferPerformed_memOk w ..
  | sourceRangeReleased _ => exact execSourceRangeReleased_memOk w ..
  | copyComplete _ => exact execCopyComplete_memOk w ..
  | ringSequenceLanded _ => exact execRingSequenceLanded_memOk w ..
  | enginePageResident _ => exact execEnginePageResident_memOk w ..
  | engineStop _ => exact execEngineStop_memOk w ..
  | leaveGrant _ => exact execLeaveGrant_memOk w ..
  | powerCreditRefill _ => exact event_memOk w
  | lineStalenessDrop _ => exact event_memOk w
  | bulkLineArrival _ => exact execBulkLineArrival_memOk w ..
  | bulkComplete _ => exact execBulkComplete_memOk w ..
  | reductionCombine _ _ _ => exact execReductionCombine_memOk w ..
  | fabricPacketArrival _ => exact execFabricPacketArrival_memOk w ..
  | writeMerge _ => exact execWriteMerge_memOk w ..
  | flitReplay _ => exact execFlitReplay_memOk w ..
  | linkTakenDown _ => exact execLinkTakenDown_memOk w ..
  | tagFailure _ => exact execTagFailure_memOk w ..
  | linkRekey _ => exact execLinkRekey_memOk w ..
  | peerAdmission _ _ => exact execPeerAdmission_memOk w ..
  | messageHeaderArrival _ => exact execMessageHeaderArrival_memOk w ..
  | messageResend _ => exact execMessageResend_memOk w ..
  | receiveLandingComplete _ _ => exact execReceiveLandingComplete_memOk w ..
  | landingAborted _ _ _ => exact execLandingAborted_memOk w ..
  | sendComplete _ _ => exact execSendComplete_memOk w ..
  | ethFrameArrival _ => exact execEthFrameArrival_memOk w ..
  | ethRetransmit _ => exact event_memOk w
  | qtail _ _ _ => exact execQtail_memOk w ..
  | queueConfigWrite _ _ _ _ => exact execQueueConfigWrite_memOk w ..
  | peerDoorbell _ _ _ _ _ => exact execPeerDoorbell_memOk w ..
  | launchAccept _ _ => exact execLaunchAccept_memOk w ..
  | gangPlacement _ _ => exact execGangPlacement_memOk w ..
  | workgroupEnd _ => exact execWorkgroupEnd_memOk w ..
  | gangEnd _ => exact execGangEnd_memOk w ..
  | preemptRequest _ => exact execPreemptRequest_memOk w ..
  | copyRestartTimeout _ => exact execCopyRestartTimeout_memOk w ..
  | contextSaveComplete _ => exact execContextSaveComplete_memOk w ..
  | gangResume _ _ => exact execGangResume_memOk w ..
  | trapResume _ => exact execTrapResume_memOk w ..
  | pageInComplete _ _ => exact execPageInComplete_memOk w ..
  | fqclose _ _ => exact execFqclose_memOk w ..
  | fqhead _ _ => exact execFqhead_memOk w ..
  | iodWriteAcknowledged _ => exact execIodWriteAcknowledged_memOk w ..
  | hostApertureRead _ _ _ _ => exact execHostApertureRead_memOk w ..
  | hostApertureWrite _ _ _ _ _ => exact execHostApertureWrite_memOk w ..
  | hostWindowAccess _ _ _ _ => exact execHostWindowAccess_memOk w ..
  | checkerEventReport _ _ => exact execCheckerEventReport_memOk w ..
  | scoreDecay => exact event_memOk w
  | witnessTestResult _ _ => exact execWitnessTestResult_memOk w ..
  | shadowRunComplete _ => exact execShadowRunComplete_memOk w ..
  | lockInterface _ => exact execLockInterface_memOk w ..
  | startInterface _ => exact execStartInterface_memOk w ..
  | stopInterface _ => exact execStopInterface_memOk w ..
  | spdmMeasurementRequest => exact event_memOk w
  | firmwareActivationSwitch _ => exact execFirmwareActivationSwitch_memOk w ..
  | worldCreate _ => exact event_memOk w
  | worldDestroy _ => exact execWorldDestroy_memOk w ..
  | gpolicy _ => exact execGpolicy_memOk w ..
  | gtest _ => exact execGtest_memOk w ..
  | ghaltrel _ => exact execGhaltrel_memOk w ..
  | grtdata _ => exact event_memOk w
  | gcgdata _ => exact execGcgdata_memOk w ..
  | gprdata _ => exact execGprdata_memOk w ..
  | gpwrcap _ _ => exact execGpwrcap_memOk w ..
  | notifyWrite _ _ _ => exact execNotifyWrite_memOk w ..
  | registerWrite _ _ => exact execRegisterWrite_memOk w ..
  | fireRingBase _ => exact execFireRingBase_memOk w ..
  | fireRingSize _ => exact execFireRingSize_memOk w ..
  | fireRingHead _ => exact execFireRingHead_memOk w ..
  | endTestInjections _ => exact mailOp_memOk w w
  | thermalThrottle _ => exact execThermalThrottle_memOk w ..
  | thermalShutdown _ => exact execThermalShutdown_memOk w ..
  | aonRailLoss => exact execAonRailLoss_memOk w
  | deepSleepEnter => exact execDeepSleepEnter_memOk w
  | deepSleepWake => exact execDeepSleepWake_memOk w
  | coldStart _ => exact execColdStart_memOk w ..
  | warmStart _ _ => exact execWarmStart_memOk w ..
  | warmReset _ => exact execWarmReset_memOk w ..
  | linkSplitDecision _ => exact execLinkSplitDecision_memOk w ..
  | unassignedEncoding word => exact execUnassignedEncoding_memOk w word
  | driverCancel _ => exact execDriverCancel_memOk w ..
  | completionCounterWrite _ _ _ => exact execCompletionCounterWrite_memOk w ..
  | coolantOutletBelow65c _ => exact execCoolantOutletBelow65c_memOk w ..

/-! The moves of the agents. -/

theorem State.issuing_wf (g : Group) : Memory.wf (s.issuing g).mem = true := by rw [State.issuing_mem]; exact w

theorem issueStep_memOk (g : Group) : (issueStep s g).MemOk := by
  have w := State.issuing_wf w g
  unfold issueStep
  dsimp only
  split
  · trivial
  next e _ =>
    split
    · exact Out.endIssue_memOk (State.blockEntry_memOk w e)
    · exact Out.endIssue_memOk (exec_memOk w _)
    next h => exact Out.endIssue_memOk (State.issueOf_stop_memOk w h)

theorem move_memOk (m : Move) : (move s m).MemOk := by
  cases m with
  | event i => exact exec_memOk (s := { s with cur := none }) w i
  | issue core part =>
    rw [move]
    split
    · exact issueStep_memOk w _
    · exact w
  | engine => exact engineMove_memOk w ..
  | tick n => simpa [move] using w
  | outside key data => exact State.ite_wf (State.outsidePut_wf _ _ _ w) w
  | receive => exact receiveMove_memOk w ..
  | home => exact homeMove_memOk w ..
  | answer => exact answerMove_memOk w ..
  | land => exact landMove_memOk w ..
  | flits => exact flitsMove_memOk w ..
  | reissue => exact reissueMove_memOk w ..
  | saveArea => exact saveAreaMove_memOk w ..
  | policy => exact policyMove_memOk w ..
  | coolant => exact coolantMove_memOk w ..
  | config => exact configMove_memOk w ..
  | hostAtomic => exact hostAtomicMove_memOk w ..

theorem step_memOk : Out.MemOk (step s) := move_memOk (s := s.tick (s.clocks s.nextMove.1) s.nextMove.2) w _

end

end Sys2Proof.Machine

namespace Sys2Proof
open Sys2Proof.Machine

/-- Settles O59: every agent's move keeps the canonical form, by cases on the move and, for an issue or an event, on the instruction. -/
theorem memoryStaysCanonical : Obligations.MemoryStaysCanonical := by
  intro s t w h
  have m : Out.MemOk (step s) := step_memOk w
  rw [h] at m
  exact m

end Sys2Proof

end

section
/-! The words the spec writes out, the state after reset, and how a step takes the next instruction (spec 03; 10; 18). -/

namespace Sys2Proof.Machine

/-! The group with the lowest stamp (spec 10, R275). -/

/-- The choice between the group found so far and the next one. -/
theorem leastStamp_aux (gs : List Group) (b : Option Group) (g : Group)
    (h : gs.foldl (fun b g => match b with | none => some g | some x => if g.stamp < x.stamp then some g else b) b = some g) :
    (g ∈ gs ∨ b = some g) ∧ (∀ x ∈ gs, g.stamp ≤ x.stamp) ∧ ∀ x, b = some x → g.stamp ≤ x.stamp := by
  induction gs generalizing b with
  | nil => exact ⟨.inr h, fun x hx => (List.not_mem_nil hx).elim, fun x hx => by cases hx.symm.trans h; exact Nat.le_refl _⟩
  | cons a gs ih =>
    obtain ⟨hmem, hall, hb⟩ := ih _ h
    cases b with
    | none =>
      refine ⟨.inl ?_, ?_, fun x hx => by cases hx⟩
      · rcases hmem with hmem | hmem
        · exact List.mem_cons_of_mem _ hmem
        · cases hmem; exact List.mem_cons_self
      · exact List.forall_mem_cons.2 ⟨hb a rfl, hall⟩
    | some y =>
      by_cases hlt : a.stamp < y.stamp
      · simp only [hlt, if_true] at hmem hb
        have ha := hb a rfl
        refine ⟨.inl ?_, List.forall_mem_cons.2 ⟨ha, hall⟩, fun x hx => by cases hx; omega⟩
        rcases hmem with hmem | hmem
        · exact List.mem_cons_of_mem _ hmem
        · cases hmem; exact List.mem_cons_self
      · simp only [hlt, if_false] at hmem hb
        have hy := hb y rfl
        refine ⟨?_, List.forall_mem_cons.2 ⟨by omega, hall⟩, fun x hx => by cases hx; exact hy⟩
        exact hmem.imp (List.mem_cons_of_mem _) id

theorem leastStamp_least {gs : List Group} {g : Group} (h : leastStamp gs = some g) : g ∈ gs ∧ ∀ x ∈ gs, g.stamp ≤ x.stamp := by
  obtain ⟨hmem, hall, -⟩ := leastStamp_aux gs none g h
  exact ⟨hmem.resolve_right (by simp), hall⟩

/-! The state in which a group issues. -/

theorem State.tlbFill_eq (s : State) (place world va : Nat) : ∃ tlb, s.tlbFill place world va = { s with tlb } := by
  unfold State.tlbFill
  split
  · exact ⟨s.tlb, rfl⟩
  · exact ⟨_, rfl⟩

/-- Naming the issuing group touches the scan, the TLBs and the name, and at an instruction notes the group in the scan. -/
theorem State.issuing_eq (s : State) (g : Group) : ∃ tlb cores, s.issuing g = { s with tlb, cores, cur := some g.id } ∧
    ((s.thread g.wg g.leader).left ≠ 0 → cores = (s.noteScan g (s.nextClass g)).cores) := by
  unfold State.issuing
  split
  next h =>
    obtain ⟨tlb, ht⟩ := s.tlbFill_eq g.core (s.worldOfWg g.wg) (s.thread g.wg g.leader).pc.toNat
    dsimp only
    rw [ht]
    exact ⟨tlb, s.cores, rfl, fun hn => absurd (by simpa using h) hn⟩
  next h =>
    obtain ⟨tlb, ht⟩ := (s.noteScan g (s.nextClass g)).tlbFill_eq g.core (s.worldOfWg g.wg) (s.thread g.wg g.leader).pc.toNat
    dsimp only
    rw [ht]
    exact ⟨tlb, _, rfl, fun _ => rfl⟩

/-- A partition's scan does not come to a group twice in a clock (spec 10, R275). -/
theorem State.inScan_issuing {s : State} {g x : Group} (h : (s.thread g.wg g.leader).left ≠ 0) (hid : x.id = g.id) (hcore : x.core = g.core)
    (hpart : x.part = g.part) : (s.issuing g).inScan x = false := by
  obtain ⟨tlb, cores, hs, hc⟩ := s.issuing_eq g
  have noted : ⟨g.part, g.id, g.stamp, s.nextClass g⟩ ∈ (s.issuing g).scanOf x.core x.part := by
    rw [hs, hc h]
    simp [State.scanOf, State.noteScan, State.modCore, hcore, hpart]
  have passed : ((s.issuing g).scanOf x.core x.part).all (fun y => y.group != x.id && decide (y.stamp ≤ x.stamp)) = false := by
    refine List.all_eq_false.2 ⟨_, noted, ?_⟩
    simp [hid]
  simp [State.inScan, passed]

theorem State.choose_least {s : State} {core part : Nat} {g : Group} (h : s.choose core part = some g) :
    g ∈ s.groups ∧ g.core = core ∧ g.part = part ∧ s.ready g = true ∧ s.inScan g = true ∧
    ∀ x ∈ s.groups, x.core = core → x.part = part → s.ready x = true → s.inScan x = true → g.stamp ≤ x.stamp := by
  obtain ⟨hmem, hall⟩ := leastStamp_least h
  obtain ⟨hg, hf⟩ := List.mem_filter.1 hmem
  simp only [Bool.and_eq_true, beq_iff_eq] at hf
  obtain ⟨⟨⟨hcore, hpart⟩, hready⟩, hscan⟩ := hf
  refine ⟨hg, hcore, hpart, hready, hscan, fun x hx hc hp hr hs => hall x (List.mem_filter.2 ⟨hx, ?_⟩)⟩
  simp [hc, hp, hr, hs]

/-! What a step does with an issue or an event. -/

theorem step_of_event {s : State} {i : Instr} {rest : List Move} (h : s.agenda = .event i :: rest) :
    step s = exec i { s.tick 1 rest with cur := none } := by
  have hm : s.nextMove = (.event i, rest) := by rw [State.nextMove, h]
  rw [step, stepOnce, hm]
  rfl

theorem step_of_issue {s : State} {core part : Nat} {rest : List Move} {g : Group} (h : s.agenda = .issue core part :: rest)
    (hg : (s.tick (s.issueClocks core part) rest).choose core part = some g) :
    step s = issueStep (s.tick (s.issueClocks core part) rest) g := by
  have hm : s.nextMove = (.issue core part, rest) := by rw [State.nextMove, h]
  rw [step, stepOnce, hm]
  simp only [State.clocks, move, hg]

theorem issueStep_of_enter {s : State} {g : Group} {e : Env} (h : (s.issuing g).issuer = some e) (hi : (s.issuing g).issueOf e = .enter) :
    issueStep s g = Out.endIssue ((s.issuing g).blockEntry e) := by
  simp only [issueStep, h, hi]

theorem issueStep_of_word {s : State} {g : Group} {e : Env} {i : Instr} (h : (s.issuing g).issuer = some e)
    (hi : (s.issuing g).issueOf e = .word i) : issueStep s g = Out.endIssue (exec i (s.issuing g)) := by
  simp only [issueStep, h, hi]

/-- A code address that can be read gives its word (spec 03, R55, R57). -/
theorem State.fetch_of_translate {s : State} {core world : Nat} {va : VA} {t : Trans} (h : s.translate core world va.toNat = .ok t)
    (hx : pteX t.leaf.pte = true) (ha : keyAbsent t.key = false) (hu : s.uncrossed t.key = false) :
    s.fetch core world va = .word (BitVec.ofNat 64 (leWord (memBytes s.mem t.key 8))) := by
  simp [State.fetch, h, hx, ha, hu]

theorem State.issueOf_of_header {s : State} {e : Env} (h : (s.thread e.w.id e.g.leader).left = 0) : s.issueOf e = .enter := by
  rw [State.issueOf, if_pos (by rw [h]; rfl)]

/-- A group inside a block stands at the instruction that its word decodes to, or at an unassigned encoding (spec 03, R55). -/
theorem State.issueOf_of_word {s : State} {e : Env} {w : Code} (h : (s.thread e.w.id e.g.leader).left ≠ 0)
    (hf : s.fetch e.g.core e.gang.world (s.iaddr e) = .word w) :
    (∀ i, decode w = .ok i → s.issueOf e = .word i) ∧ ∀ x, decode w = .error x → s.issueOf e = .word (.unassignedEncoding w) := by
  have hleft : ¬ ((s.thread e.w.id e.g.leader).left == 0) = true := by rwa [beq_iff_eq]
  rw [State.issueOf, if_neg hleft]
  constructor <;> intro i hd <;> simp only [hf, hd]

theorem exec_unassigned {s : State} {e : Env} (w : Code) (h : s.issuer = some e) :
    exec (.unassignedEncoding w) s = .next (s.takeTrap e { code := 0x01 }) := by
  show execUnassignedEncoding w s = _
  rw [execUnassignedEncoding, h]

end Sys2Proof.Machine

namespace Sys2Proof
open Sys2Proof.Machine

/-- Settles O56: the issuing group is the first of its partition's scan, and its word, read through the translation of its core, is
decoded and executed. -/
theorem stepRunsDecodedInstruction : Obligations.StepRunsDecodedInstruction := by
  refine ⟨?_, fun s core part g h => State.choose_least h, fun s g x h hid hc hp => State.inScan_issuing h hid hc hp,
    fun s i rest h => step_of_event h, fun gs g h => leastStamp_least h⟩
  intro s core part rest g e tr hagenda hchoose u hissuer
  have hstep : step s = issueStep (s.tick (s.issueClocks core part) rest) g := step_of_issue hagenda hchoose
  rw [hstep]
  refine ⟨?_, fun hleft => ?_, fun hleft htr hx ha hu => ⟨fun i hi => ?_, fun x hx' => ?_⟩⟩
  · obtain ⟨tlb, cores, hs, -⟩ := (s.tick (s.issueClocks core part) rest).issuing_eq g
    rw [show u = _ from hs]
    exact ⟨rfl, rfl, rfl, rfl, rfl, rfl, rfl⟩
  · exact issueStep_of_enter hissuer (State.issueOf_of_header hleft)
  · exact issueStep_of_word hissuer ((State.issueOf_of_word hleft (State.fetch_of_translate htr hx ha hu)).1 i hi)
  · rw [issueStep_of_word hissuer ((State.issueOf_of_word hleft (State.fetch_of_translate htr hx ha hu)).2 x hx')]
    exact congrArg Out.endIssue (exec_unassigned _ hissuer)

/-- Settles O57: each word is decoded by computation. -/
theorem decodeWords : Obligations.DecodeWords := ⟨rfl, rfl, rfl, rfl, rfl⟩

/-- Settles O60: no byte is listed at reset, and no host line is cached, so every byte reads 0; the rest stands in the initial records. -/
theorem resetState : Obligations.ResetState := by
  refine ⟨rfl, fun k _ => ?_, rfl, rfl, rfl, rfl, rfl, rfl, fun w h => ?_, by decide⟩
  · have unlisted : memGet State.reset.mem k = 0 := rfl
    simp only [State.homeByte, unlisted]
    split <;> rfl
  · cases h
    exact ⟨rfl, rfl, rfl⟩

end Sys2Proof

end

section
/-! How threads are filed in bins and taken out of their group (spec 02, R29). -/

namespace Sys2Proof.Machine

/-- Filing marks the threads and touches nothing else but bins and their names. -/
theorem State.file_eq (s : State) (wg core part : Nat) (pc : VA) (tids : List Nat) :
    ∃ bins nextId, s.file wg core part pc tids =
      { s.modThreads wg tids (fun t => { t with status := .filed }) with bins, nextId } := by
  unfold State.file
  split
  next h =>
    rw [List.isEmpty_iff.1 h]
    exact ⟨s.bins, s.nextId, rfl⟩
  · dsimp only
    split
    · exact ⟨_, (s.modThreads wg tids (fun t => { t with status := .filed })).nextId, rfl⟩
    · exact ⟨_, _, rfl⟩

theorem State.thread_file (s : State) (wg core part : Nat) (pc : VA) (tids : List Nat) :
    (s.file wg core part pc tids).thread = (s.modThreads wg tids (fun t => { t with status := .filed })).thread := by
  obtain ⟨_, _, h⟩ := s.file_eq wg core part pc tids
  rw [h]
  rfl

/-- A filed thread waits in the bin of its address from then on. -/
theorem State.mem_bins_file (s : State) (wg core part : Nat) (pc : VA) {tids : List Nat} {n : Nat} (hn : n ∈ tids) :
    ∃ b ∈ (s.file wg core part pc tids).bins, b.wg = wg ∧ b.core = core ∧ b.part = part ∧ b.pc = pc ∧ (n, s.clock) ∈ b.entries := by
  have entry : (n, s.clock) ∈ tids.map (fun t => (t, s.clock)) := List.mem_map_of_mem hn
  have hne : ¬ tids.isEmpty = true := fun h => by rw [List.isEmpty_iff.1 h] at hn; cases hn
  unfold State.file
  rw [if_neg hne]
  dsimp only
  split
  next b hb =>
    have hkey := List.find?_some hb
    simp only [Bool.and_eq_true, beq_iff_eq] at hkey
    obtain ⟨⟨⟨hwg, hcore⟩, hpart⟩, hpc⟩ := hkey
    refine ⟨_, List.mem_map.2 ⟨b, List.mem_of_find?_eq_some hb, rfl⟩, ?_⟩
    rw [if_pos (beq_self_eq_true _)]
    refine ⟨hwg, hcore, hpart, hpc, List.mem_append_right _ ?_⟩
    rw [State.modThreads_clock]
    exact entry
  · refine ⟨_, List.mem_append_right _ (List.mem_singleton_self _), rfl, rfl, rfl, rfl, ?_⟩
    rw [State.modThreads_clock]
    exact entry

/-- Taking threads out of a group touches the groups alone. -/
theorem State.keepMembers_eq (s : State) (id : Nat) (tids : List Nat) : ∃ groups, s.keepMembers id tids = { s with groups } := by
  unfold State.keepMembers
  split <;> exact ⟨_, rfl⟩

/-- A group with no thread left is no group. -/
theorem State.ne_of_mem_groups_keepMembers_nil {s : State} {id : Nat} {g : Group} (h : g ∈ (s.keepMembers id []).groups) : g.id ≠ id := by
  have hf := (List.mem_filter.1 h).2
  simpa using hf

theorem State.fileFrom_eq (s : State) (e : Env) (pc : VA) (tids : List Nat) :
    ∃ groups bins nextId, s.fileFrom e pc tids =
      { s.modThreads e.w.id tids (fun t => { t with status := .filed }) with groups, bins, nextId } := by
  obtain ⟨bins, nextId, hf⟩ := s.file_eq e.w.id e.g.core e.g.part pc tids
  obtain ⟨groups, hk⟩ := (s.file e.w.id e.g.core e.g.part pc tids).keepMembers_eq e.g.id (e.g.members.filter (fun t => !tids.contains t))
  refine ⟨groups, bins, nextId, ?_⟩
  rw [State.fileFrom, hk, hf]

theorem State.thread_fileFrom (s : State) (e : Env) (pc : VA) (tids : List Nat) :
    (s.fileFrom e pc tids).thread = (s.modThreads e.w.id tids (fun t => { t with status := .filed })).thread := by
  obtain ⟨_, _, _, h⟩ := s.fileFrom_eq e pc tids
  rw [h]
  rfl

theorem State.bins_fileFrom (s : State) (e : Env) (pc : VA) (tids : List Nat) :
    (s.fileFrom e pc tids).bins = (s.file e.w.id e.g.core e.g.part pc tids).bins := by
  obtain ⟨_, h⟩ := (s.file e.w.id e.g.core e.g.part pc tids).keepMembers_eq e.g.id (e.g.members.filter (fun t => !tids.contains t))
  rw [State.fileFrom, h]

/-- A group all of whose threads are filed is gone. -/
theorem State.ne_of_mem_groups_fileFrom_members {s : State} {e : Env} {pc : VA} {g : Group} (h : g ∈ (s.fileFrom e pc e.g.members).groups) :
    g.id ≠ e.g.id := by
  have nobody : e.g.members.filter (fun t => !e.g.members.contains t) = [] := by
    refine List.filter_eq_nil_iff.2 (fun t ht => ?_)
    simp [ht]
  rw [State.fileFrom, nobody] at h
  exact State.ne_of_mem_groups_keepMembers_nil h

end Sys2Proof.Machine

end

section
/-! The cross-lane instructions (spec 05, R125 to R130). -/

namespace Sys2Proof.Machine

/-! Contributors (spec 05, R126). -/

theorem State.contrib_eq_some {s : State} {e : Env} {g : Guard} {mask : BitVec 9} {L : Nat} {x : Thread} :
    s.contrib e g mask L = some x ↔ ∃ t, e.laneTid L = some t ∧ (e.s mask).getLsbD L = true ∧
      (s.thread e.w.id t).guarded g = true ∧ s.thread e.w.id t = x := by
  unfold State.contrib
  split
  next h => simp [h]
  next t h => simp [h, Thread.guarded, and_assoc]

theorem State.lanesOf_c_eq_some {s : State} {e : Env} {g : Guard} {f : V3S} {L : Nat} {v : Word} :
    (s.lanesOf e g f).c L = some v ↔ ∃ t, e.laneTid L = some t ∧ (e.s f.s).getLsbD L = true ∧
      (s.thread e.w.id t).guarded g = true ∧ (s.thread e.w.id t).v f.a = v := by
  simp only [State.lanesOf, Option.map_eq_some_iff, State.contrib_eq_some]
  constructor
  · rintro ⟨x, ⟨t, ht, hm, hg, rfl⟩, hv⟩
    exact ⟨t, ht, hm, hg, hv⟩
  · rintro ⟨t, ht, hm, hg, hv⟩
    exact ⟨_, ⟨t, ht, hm, hg, rfl⟩, hv⟩

theorem State.lanesOf_p {s : State} {e : Env} {g : Guard} {f : V3S} {L : Nat} :
    (s.lanesOf e g f).p L = true ↔ (s.lanesOf e g f).c L ≠ none ∧
      ∃ t, e.laneTid L = some t ∧ (s.thread e.w.id t).p (f.cl.extractLsb' 0 4) = true := by
  simp only [State.lanesOf]
  cases h : s.contrib e g f.s L with
  | none => simp
  | some x =>
    obtain ⟨t, ht, -, -, rfl⟩ := State.contrib_eq_some.1 h
    simp [ht]

/-! Masks and lists of lanes. -/

theorem getLsbD_laneBit (n j : Nat) (hj : j < 32) : (((1 <<< n : Nat)) : Word).getLsbD j = decide (n = j) := by
  change (BitVec.ofNat 32 (1 <<< n)).getLsbD j = _
  rw [BitVec.getLsbD_ofNat, Nat.one_shiftLeft, Nat.testBit_two_pow, decide_eq_true hj, Bool.true_and]

/-- A mask built up over some lanes has the bits of those that meet the test. -/
theorem getLsbD_foldl_mask (p : Nat → Bool) (l : List Nat) (m : Word) (j : Nat) (hj : j < 32) :
    (l.foldl (fun (m : Word) j => if p j then m ||| (1 <<< j) else m) m).getLsbD j = (m.getLsbD j || (decide (j ∈ l) && p j)) := by
  induction l generalizing m with
  | nil => simp
  | cons k l ih =>
    rw [List.foldl_cons, ih]
    by_cases hp : p k
    · rw [if_pos hp, BitVec.getLsbD_or, getLsbD_laneBit k j hj]
      by_cases hk : k = j
      · subst hk; simp [hp]
      · simp [hk, Ne.symm hk]
    · by_cases hk : k = j
      · subst hk; simp [hp]
      · simp [hp, Ne.symm hk]

theorem getLsbD_maskOf (p : Nat → Bool) (j : Nat) (hj : j < 32) : (maskOf p).getLsbD j = p j := by
  rw [maskOf, getLsbD_foldl_mask p lanes32 0 j hj]
  simp [lanes32, hj]

theorem maskOf_none {p : Nat → Bool} (h : ∀ j, j < 32 → p j = false) : maskOf p = 0 := by
  refine BitVec.eq_of_getLsbD_eq (fun j hj => ?_)
  rw [getLsbD_maskOf p j hj, h j hj]
  simp

theorem Lanes.mem_list {X : Lanes} {j : Nat} {v : Word} : (j, v) ∈ X.list ↔ j < 32 ∧ X.c j = some v := by
  simp only [Lanes.list, lanes32, List.mem_filterMap, List.mem_range, Option.map_eq_some_iff, Prod.mk.injEq]
  constructor
  · rintro ⟨k, hk, w, hw, rfl, rfl⟩
    exact ⟨hk, hw⟩
  · rintro ⟨hj, hv⟩
    exact ⟨j, hj, v, hv, rfl, rfl⟩

/-- `match_all` compares each contributor with the first, which is to compare each with each (spec 05, R128). -/
theorem Lanes.matchAll_eq (X : Lanes) :
    (match X.list with
      | [] => 0
      | (_, v) :: r => if r.all (fun y => y.2 == v) then maskOf (fun j => (X.c j).isSome) else 0) =
    if (List.range 32).all (fun j => (List.range 32).all (fun k => (X.c j).isNone || (X.c k).isNone || X.c j == X.c k))
      then maskOf (fun j => (X.c j).isSome) else 0 := by
  cases hl : X.list with
  | nil =>
    have none (j : Nat) (hj : j < 32) : X.c j = none := by
      cases hc : X.c j with
      | none => rfl
      | some v => exact absurd (hl ▸ Lanes.mem_list.2 ⟨hj, hc⟩) List.not_mem_nil
    rw [maskOf_none (fun j hj => by rw [none j hj]; rfl), ite_self]
  | cons y r =>
    obtain ⟨i, v⟩ := y
    refine if_congr ?_ rfl rfl
    have hi : i < 32 ∧ X.c i = some v := Lanes.mem_list.1 (by rw [hl]; exact List.mem_cons_self)
    have same : (∀ y ∈ r, y.2 = v) ↔ ∀ j, j < 32 → ∀ u, X.c j = some u → u = v := by
      constructor
      · intro h j hj u hu
        have hm : (j, u) ∈ (i, v) :: r := hl ▸ Lanes.mem_list.2 ⟨hj, hu⟩
        rcases List.mem_cons.1 hm with hm | hm
        · cases hm; rfl
        · exact h _ hm
      · intro h y hy
        obtain ⟨hj, hu⟩ := Lanes.mem_list.1 (show (y.1, y.2) ∈ X.list by rw [hl]; exact List.mem_cons_of_mem _ hy)
        exact h y.1 hj y.2 hu
    simp only [List.all_eq_true, beq_iff_eq, List.mem_range, Bool.or_eq_true, Option.isNone_iff_eq_none]
    rw [same]
    constructor
    · intro h j hj k hk
      cases hcj : X.c j with
      | none => exact .inl (.inl rfl)
      | some a =>
        cases hck : X.c k with
        | none => exact .inl (.inr rfl)
        | some b => rw [h j hj a hcj, h k hk b hck]; exact .inr rfl
    · intro h j hj u hu
      have := h j hj i hi.1
      rw [hu, hi.2] at this
      simpa using this

/-! Reductions of integers (spec 05, R130). -/

/-- A reduction with an identity is a fold from it. -/
theorem Lanes.fold_eq_foldl (X : Lanes) {id : Word} {op : Word → Word → Word} (h : ∀ v, op id v = v) :
    X.fold id op = X.list.foldl (fun a y => op a y.2) id := by
  unfold Lanes.fold
  cases X.list with
  | nil => rfl
  | cons y r => rw [List.foldl_cons, h]

theorem toNat_foldl_add (l : List (Nat × Word)) (a : Word) :
    (l.foldl (fun a y => a + y.2) a).toNat = (a.toNat + (l.map (fun y => y.2.toNat)).sum) % 2 ^ 32 := by
  induction l generalizing a with
  | nil => simp [Nat.mod_eq_of_lt a.isLt]
  | cons y r ih =>
    rw [List.foldl_cons, ih, BitVec.toNat_add, List.map_cons, List.sum_cons, Nat.mod_add_mod, Nat.add_assoc]

theorem Lanes.reduce_add (X : Lanes) (ty : BitVec 2) :
    (reduce .add ty X).toNat = ((X.list.map (fun y => y.2.toNat)).sum) % 2 ^ 32 := by
  show (X.fold 0 (· + ·)).toNat = _
  have zero (v : Word) : (0 : Word) + v = v := BitVec.zero_add v
  rw [X.fold_eq_foldl zero, toNat_foldl_add]
  simp

theorem Lanes.fold_nil {X : Lanes} (h : X.list = []) (id : Word) (op : Word → Word → Word) : X.fold id op = id := by
  rw [Lanes.fold, h]

theorem intOf_minW_le (u : Bool) (a b : Word) : intOf u (minW u a b) ≤ intOf u a ∧ intOf u (minW u a b) ≤ intOf u b := by
  unfold minW
  split <;> omega

theorem le_intOf_maxW (u : Bool) (a b : Word) : intOf u a ≤ intOf u (maxW u a b) ∧ intOf u b ≤ intOf u (maxW u a b) := by
  unfold maxW
  split <;> omega

/-- A fold of an operation that stays below both its operands stays below every value folded. -/
theorem foldl_below {f : Word → Int} {op : Word → Word → Word} (h : ∀ a b, f (op a b) ≤ f a ∧ f (op a b) ≤ f b) (l : List (Nat × Word))
    (a : Word) : f (l.foldl (fun a y => op a y.2) a) ≤ f a ∧ ∀ y ∈ l, f (l.foldl (fun a y => op a y.2) a) ≤ f y.2 := by
  induction l generalizing a with
  | nil => exact ⟨Int.le_refl _, fun y hy => (List.not_mem_nil hy).elim⟩
  | cons z r ih =>
    obtain ⟨h1, h2⟩ := ih (op a z.2)
    obtain ⟨ha, hz⟩ := h a z.2
    exact ⟨Int.le_trans h1 ha, List.forall_mem_cons.2 ⟨Int.le_trans h1 hz, h2⟩⟩

theorem Lanes.fold_below {f : Word → Int} {op : Word → Word → Word} (h : ∀ a b, f (op a b) ≤ f a ∧ f (op a b) ≤ f b) (X : Lanes) (id : Word)
    {y : Nat × Word} (hy : y ∈ X.list) : f (X.fold id op) ≤ f y.2 := by
  unfold Lanes.fold
  cases hl : X.list with
  | nil => rw [hl] at hy; cases hy
  | cons z r =>
    rw [hl] at hy
    obtain ⟨h1, h2⟩ := foldl_below h r z.2
    rcases List.mem_cons.1 hy with rfl | hy
    · exact h1
    · exact h2 y hy

theorem Lanes.min_le (X : Lanes) (id : Word) (u : Bool) {y : Nat × Word} (hy : y ∈ X.list) : intOf u (X.fold id (minW u)) ≤ intOf u y.2 :=
  Lanes.fold_below (intOf_minW_le u) X id hy

theorem Lanes.le_max (X : Lanes) (id : Word) (u : Bool) {y : Nat × Word} (hy : y ∈ X.list) : intOf u y.2 ≤ intOf u (X.fold id (maxW u)) := by
  have h := Lanes.fold_below (f := fun a => -intOf u a) (op := maxW u)
    (fun a b => ⟨Int.neg_le_neg (le_intOf_maxW u a b).1, Int.neg_le_neg (le_intOf_maxW u a b).2⟩) X id hy
  omega

/-! What a cross-lane instruction does in a drawn group, and outside one. -/

theorem State.advance_threads {s u : State} (e : Env) (h : ∃ th, u = { s with threads := th }) :
    ∃ th, u.advance e = { s with threads := th } := by
  obtain ⟨th, rfl⟩ := h
  exact ⟨_, State.modThreads_eq _ _ _ _⟩

theorem crossCompletes_of_exec {i : Instr} {g : Guard} {f : V3S} {R : Lanes → Nat → Thread → Thread} (hx : ∀ s, exec i s = crossOp g f i s R) :
    CrossCompletes i g f R := by
  intro s e h hd
  rw [hx, crossOp, h.issue, if_pos hd]
  have each := threadsBecome_done (u := s.modEach e.w.id (s.lanes e g) (fun t => R (s.lanesOf e g f) (laneOf t)))
    (fun t => s.thread_modEach ..) (fun wg t hv => s.thread_modEach_other _ _ _ _ _ hv)
  obtain ⟨th, moved⟩ := State.advance_threads e ⟨_, State.modEach_eq s e.w.id (s.lanes e g) (fun t => R (s.lanesOf e g f) (laneOf t))⟩
  exact ⟨_, rfl, ⟨th, _, congrArg (fun t => (t.modGroup e.g.id (fun g => { g with drawn := false })).progress) moved⟩, each⟩

/-- Every cross-lane form is `crossOp` of its effect. -/
theorem exec_crossLane {g : Guard} {f : V3S} {i : Instr}
    (h : i = .shflIdx g f ∨ i = .shflUp g f ∨ i = .shflDown g f ∨ i = .shflXor g f ∨ i = .bcast g f ∨ i = .voteAll g f ∨
      i = .voteAny g f ∨ i = .voteBallot g f ∨ i = .matchAny g f ∨ i = .matchAll g f ∨ i = .gscan g f ∨ i = .minidx g f ∨
      i = .maxidx g f ∨ ∃ op, i = .redux g f op) : ∃ op, ∀ s, exec i s = crossOp g f i s op := by
  rcases h with rfl | rfl | rfl | rfl | rfl | rfl | rfl | rfl | rfl | rfl | rfl | rfl | rfl | ⟨op, rfl⟩
  · exact ⟨_, fun s => show execShflIdx g f s = _ from rfl⟩
  · exact ⟨_, fun s => show execShflUp g f s = _ from rfl⟩
  · exact ⟨_, fun s => show execShflDown g f s = _ from rfl⟩
  · exact ⟨_, fun s => show execShflXor g f s = _ from rfl⟩
  · exact ⟨_, fun s => show execBcast g f s = _ from rfl⟩
  · exact ⟨_, fun s => show execVoteAll g f s = _ from rfl⟩
  · exact ⟨_, fun s => show execVoteAny g f s = _ from rfl⟩
  · exact ⟨_, fun s => show execVoteBallot g f s = _ from rfl⟩
  · exact ⟨_, fun s => show execMatchAny g f s = _ from rfl⟩
  · exact ⟨_, fun s => show execMatchAll g f s = _ from rfl⟩
  · exact ⟨_, fun s => show execGscan g f s = _ from rfl⟩
  · exact ⟨_, fun s => show execMinidx g f s = _ from rfl⟩
  · exact ⟨_, fun s => show execMaxidx g f s = _ from rfl⟩
  · exact ⟨_, fun s => show execRedux g f op s = _ from rfl⟩

/-- Outside a group drawn for it, a cross-lane instruction files its threads at its own address and does nothing else. -/
theorem crossFiles_of_exec {s : State} {e : Env} {g : Guard} {f : V3S} {i : Instr} (hx : ∃ op, ∀ s, exec i s = crossOp g f i s op)
    (h : Issuable s e g i) (hd : e.g.drawn = false) : Out.Leads (exec i s) (fun t =>
      t.mem = s.mem ∧ t.wgs = s.wgs ∧ t.gangs = s.gangs ∧ t.launches = s.launches ∧ t.flights = s.flights ∧
      ThreadsBecome s t e (fun _ x => { x with status := .filed }) ∧
      (∀ n ∈ e.g.members, ∃ b ∈ t.bins, b.wg = e.w.id ∧ b.core = e.g.core ∧ b.part = e.g.part ∧ b.pc = s.iaddr e ∧ (n, s.clock) ∈ b.entries) ∧
      ∀ x ∈ t.groups, x.id ≠ e.g.id) := by
  obtain ⟨op, hx⟩ := hx
  rw [hx, crossOp, h.issue, if_neg (by rw [hd]; exact Bool.false_ne_true)]
  obtain ⟨groups, bins, nextId, hf⟩ := s.fileFrom_eq e (s.iaddr e) e.g.members
  refine ⟨_, rfl, ?_⟩
  simp only [State.fileHere]
  refine ⟨?_, ?_, ?_, ?_, ?_, ⟨fun n hn => ?_, fun wg n hn => ?_⟩, fun n hn => ?_, fun x hx => ?_⟩
  · rw [hf]; exact State.modThreads_mem ..
  · rw [hf]; exact State.modThreads_wgs ..
  · rw [hf]; exact State.modThreads_gangs ..
  · rw [hf]; exact State.modThreads_launches ..
  · rw [hf]; exact State.modThreads_flights ..
  · rw [State.thread_progress, State.thread_fileFrom, State.thread_modThreads, if_pos hn]
  · rw [State.thread_progress, State.thread_fileFrom, State.thread_modThreads_other _ _ _ _ _ _ hn]
  · show ∃ b ∈ (s.fileFrom e (s.iaddr e) e.g.members).bins, _
    rw [State.bins_fileFrom]
    exact s.mem_bins_file _ _ _ _ hn
  · obtain ⟨y, hy, rfl⟩ := List.mem_map.1 hx
    exact State.ne_of_mem_groups_fileFrom_members (g := y) hy

end Sys2Proof.Machine

namespace Sys2Proof
open Sys2Proof.Machine

/-- Settles O8: each cross-lane form is `crossOp` of its own effect; what the contributors and the reductions are, and what happens
outside a drawn group, is said once for all of them. -/
theorem crossLaneInstructions : Obligations.CrossLaneInstructions := by
  refine ⟨fun g f => ⟨?_, ?_, ?_, ?_, ?_, ?_, ?_, ?_, ?_, ?matchAll, ?_, ?_, ?_, fun op => ?_⟩, ⟨fun s e g f L v => State.lanesOf_c_eq_some,
    fun s e g f L => State.lanesOf_p, getLsbD_maskOf, ?reductions⟩, ?filed⟩
  case matchAll =>
    refine crossCompletes_of_exec (fun s => ?_)
    have each := funext (fun X : Lanes => funext (fun _ : Nat => funext (fun x : Thread => congrArg (x.setV f.d) X.matchAll_eq)))
    show execMatchAll g f s = _
    exact congrArg (crossOp g f (.matchAll g f) s) each
  case reductions =>
    refine fun X ty => ⟨X.reduce_add ty, fun h => ?_, fun y hy => ?_⟩
    · exact ⟨Lanes.fold_nil h _ _, Lanes.fold_nil h _ _, Lanes.fold_nil h _ _, Lanes.fold_nil h _ _, Lanes.fold_nil h _ _,
        Lanes.fold_nil h _ _, Lanes.fold_nil h _ _⟩
    · have unsigned := And.intro (X.min_le (extremeId false 1) true hy) (X.le_max (extremeId true 1) true hy)
      simp only [intOf, if_true, Int.ofNat_le] at unsigned
      exact ⟨X.min_le (extremeId false 0) false hy, X.le_max (extremeId true 0) false hy, unsigned.1, unsigned.2⟩
  case filed =>
    intro g f i hi s e h hd
    exact crossFiles_of_exec (exec_crossLane hi) h hd
  all_goals exact crossCompletes_of_exec (fun s => rfl)

end Sys2Proof

end

section
/-! What a byte reads as after writes at its home, and numbers written to memory and read back (spec 07, R162). -/

namespace Sys2Proof.Machine

/-! Numbers as bytes. -/

theorem natLe_length (n x : Nat) : (natLe n x).length = n := by
  induction n generalizing x with
  | zero => rfl
  | succ n ih => simp [natLe, ih]

theorem leNat_natLe (n x : Nat) : leNat (natLe n x) = x % 256 ^ n := by
  induction n generalizing x with
  | zero => simp [natLe, leNat, Nat.mod_one]
  | succ n ih =>
    have split : x % 256 ^ (n + 1) = x % 256 + 256 * (x / 256 % 256 ^ n) := by rw [Nat.pow_succ', Nat.mod_mul]
    rw [natLe, leNat, ih, BitVec.toNat_ofNat, split]

theorem leNat_lt (bs : List Byte) : leNat bs < 256 ^ bs.length := by
  induction bs with
  | nil => simp [leNat]
  | cons b bs ih =>
    have hb := b.isLt
    rw [leNat, List.length_cons, Nat.pow_succ]
    omega

theorem memBytes_length (m : List Host.Cell) (a n : Nat) : (memBytes m a n).length = n := by
  induction n generalizing a with
  | zero => rfl
  | succ n ih => simp [memBytes, ih]

theorem memBytes_memPut (m : List Host.Cell) (k : Nat) (bs : List Byte) : memBytes (memPut m k bs) k bs.length = bs := by
  induction bs generalizing m k with
  | nil => rfl
  | cons b bs ih =>
    rw [memPut, List.length_cons, memBytes, ih, memGet_memPut, if_neg (by omega), memGet_memSet, if_pos rfl]

theorem memNat_memPut_natLe (m : List Host.Cell) (k n x : Nat) : memNat (memPut m k (natLe n x)) k n = x % 256 ^ n := by
  have h := memBytes_memPut m k (natLe n x)
  rw [natLe_length] at h
  rw [memNat, h, leNat_natLe]

/-! A byte at its home. -/

theorem State.homeByte_of_not_host {s : State} {k : Nat} (h : isHost k = false) : s.homeByte k = memGet s.mem k := by
  rw [State.homeByte, if_neg (by rw [h]; exact Bool.false_ne_true)]

theorem State.homeByte_congr {s t : State} (hm : ∀ k, memGet t.mem k = memGet s.mem k) (hl : t.iod.hostLines = s.iod.hostLines) (k : Nat) :
    t.homeByte k = s.homeByte k := by
  unfold State.homeByte
  rw [hl, hm]

/-- The same memory and the same host lines read alike. -/
theorem sameMemory_of {s t : State} (hm : t.mem = s.mem) (hl : t.iod.hostLines = s.iod.hostLines) : SameMemory s t :=
  ⟨fun k => by rw [hm], State.homeByte_congr (fun k => by rw [hm]) hl⟩

theorem SameMemory.refl (s : State) : SameMemory s s := ⟨fun _ => rfl, fun _ => rfl⟩

theorem SameMemory.trans {s t u : State} (h : SameMemory s t) (h' : SameMemory t u) : SameMemory s u :=
  ⟨fun k => (h'.1 k).trans (h.1 k), fun k => (h'.2 k).trans (h.2 k)⟩

/-! Host lines. -/

theorem mod_eq_of_lineOf_eq {j k : Nat} (h : lineOf j = lineOf k) : lineOf k * 128 + j % 128 = j := by
  unfold lineOf at h ⊢
  omega

theorem listGet_map_range {α : Type} (d : α) (f : Nat → α) (n i : Nat) (h : i < n) : listGet d ((List.range n).map f) i = f i := by
  have get (l : List α) (i : Nat) (h : i < l.length) : listGet d l i = l[i] := by
    induction l generalizing i with
    | nil => cases h
    | cons x l ih =>
      cases i with
      | zero => rfl
      | succ i => exact ih i (Nat.lt_of_succ_lt_succ h)
  rw [get _ i (by simpa using h)]
  simp

/-- A line of host memory that the LLC takes reads as it did in the host. -/
theorem State.homeByte_fillHost (s : State) (k j : Nat) : (s.fillHost k).homeByte j = s.homeByte j := by
  unfold State.fillHost
  split
  · rfl
  next h =>
    split
    · rfl
    next d _ =>
      have absent : ∀ x ∈ s.iod.hostLines, ¬ (x.line == lineOf k) = true := by
        intro x hx hl
        exact h (by simp only [Bool.or_eq_true]; exact .inr (List.any_eq_true.2 ⟨x, hx, hl⟩))
      unfold State.homeByte
      split
      · rw [List.find?_append]
        by_cases hj : lineOf j = lineOf k
        · have none : s.iod.hostLines.find? (fun x => x.line == lineOf j) = none := by
            rw [hj]
            exact List.find?_eq_none.2 absent
          rw [none]
          simp only [Option.none_or, List.find?_singleton, hj, beq_self_eq_true, if_true]
          rw [listGet_map_range _ _ _ _ (Nat.mod_lt _ (by decide)), mod_eq_of_lineOf_eq hj]
        · have other : [(⟨d, lineOf k, (List.range 128).map (fun i => memGet s.mem (lineOf k * 128 + i)), List.replicate 32 false⟩ : HostLine)].find?
              (fun x => x.line == lineOf j) = none := by
            simp [Ne.symm hj]
          rw [other, Option.or_none]
      · rfl

/-- A change of lines that keeps their numbers is seen by a search for a number. -/
theorem find_mapIf_line (f : HostLine → HostLine) (hf : ∀ x, (f x).line = x.line) (n m : Nat) (l : List HostLine) :
    (mapIf (fun x => x.line == n) f l).find? (fun x => x.line == m) =
      (l.find? (fun x => x.line == m)).map (fun x => if x.line == n then f x else x) := by
  induction l with
  | nil => rfl
  | cons x l ih =>
    have hx : (if x.line == n then f x else x).line = x.line := by split <;> simp [hf]
    rw [mapIf, List.map_cons, List.find?_cons, List.find?_cons, hx]
    split
    · rfl
    · exact ih

/-- A write at its home is read there, and nowhere else. -/
theorem State.homeByte_homeWrite (s : State) (k j : Nat) (b : Byte) :
    (s.homeWrite k b).homeByte j = if j = k then b else s.homeByte j := by
  unfold State.homeWrite
  split
  next hk =>
    rw [← s.homeByte_fillHost k j]
    generalize s.fillHost k = t
    dsimp only
    split
    next hany =>
      unfold State.homeByte
      by_cases hh : isHost j = true
      · rw [if_pos hh, if_pos hh]
        dsimp only
        rw [find_mapIf_line (fun h => { h with bytes := listPut 0 h.bytes (k % 128) b, dirty := listPut false h.dirty (k % 128 / 4) true })
          (fun _ => rfl)]
        cases hf : t.iod.hostLines.find? (fun x => x.line == lineOf j) with
        | none =>
          have hne : j ≠ k := by
            rintro rfl
            obtain ⟨x, hx, hl⟩ := List.any_eq_true.1 hany
            exact List.find?_eq_none.1 hf x hx hl
          rw [Option.map_none, if_neg hne]
        | some x =>
          have hx : x.line = lineOf j := by simpa using List.find?_some hf
          rw [Option.map_some]
          by_cases hjk : lineOf j = lineOf k
          · rw [if_pos (by rw [hx, hjk]; exact beq_self_eq_true _)]
            dsimp only
            rw [listGet_listPut]
            have hmod : j % 128 = k % 128 ↔ j = k := by unfold lineOf at hjk; omega
            simp only [hmod]
          · rw [if_neg (by rw [hx, beq_iff_eq]; exact hjk), if_neg (fun h => hjk (by rw [h]))]
      · rw [if_neg hh, if_neg hh, if_neg (by rintro rfl; exact hh hk)]
    next hany =>
      have absent : ∀ x ∈ t.iod.hostLines, ¬ (x.line == lineOf k) = true := fun x hx hl => hany (List.any_eq_true.2 ⟨x, hx, hl⟩)
      unfold State.homeByte
      by_cases hjk : j = k
      · subst hjk
        rw [if_pos hk, List.find?_eq_none.2 absent]
        simp [memGet_memSet]
      · simp only [memGet_memSet, if_neg hjk]
  next hk =>
    unfold State.homeByte
    dsimp only
    by_cases hjk : j = k
    · subst hjk
      rw [if_neg hk, memGet_memSet, if_pos rfl, if_pos rfl]
    · simp only [memGet_memSet, if_neg hjk]

theorem State.memGet_homeWrite_of_ne (s : State) {k j : Nat} (b : Byte) (h : j ≠ k) : memGet (s.homeWrite k b).mem j = memGet s.mem j := by
  unfold State.homeWrite
  split
  · dsimp only
    split
    · rw [State.fillHost_mem]
    · rw [memGet_memSet, if_neg h, State.fillHost_mem]
  · exact (memGet_memSet s.mem k j b).trans (if_neg h)

/-- Bytes written at their homes are read there, and nowhere else. -/
theorem State.homeByte_homePut (s : State) (k j : Nat) (bs : List Byte) :
    (s.homePut k bs).homeByte j = if k ≤ j ∧ j < k + bs.length then listGet 0 bs (j - k) else s.homeByte j := by
  induction bs generalizing s k with
  | nil => rw [State.homePut, List.length_nil, if_neg (by omega)]
  | cons b bs ih =>
    rw [State.homePut, ih, State.homeByte_homeWrite, List.length_cons]
    by_cases hj : j = k
    · subst hj
      rw [if_neg (by omega), if_pos rfl, if_pos (by omega), Nat.sub_self]
      rfl
    · rw [if_neg hj]
      by_cases h : k + 1 ≤ j ∧ j < k + 1 + bs.length
      · obtain ⟨n, hn⟩ : ∃ n, j - k = n + 1 := ⟨j - k - 1, by omega⟩
        rw [if_pos h, if_pos (by omega), hn, listGet]
        congr 1
        omega
      · rw [if_neg h, if_neg (by omega)]

theorem State.memGet_homePut_of_not_mem (s : State) {k j : Nat} (bs : List Byte) (h : ¬ (k ≤ j ∧ j < k + bs.length)) :
    memGet (s.homePut k bs).mem j = memGet s.mem j := by
  induction bs generalizing s k with
  | nil => rfl
  | cons b bs ih =>
    rw [List.length_cons] at h
    rw [State.homePut, ih _ (by omega), State.memGet_homeWrite_of_ne _ _ (by omega)]

/-- Outside host memory, bytes written at their homes are written to memory. -/
theorem State.homePut_mem_of_not_host (s : State) (k : Nat) (bs : List Byte) (h : ∀ j, k ≤ j → j < k + bs.length → isHost j = false) :
    (s.homePut k bs).mem = memPut s.mem k bs := by
  induction bs generalizing s k with
  | nil => rfl
  | cons b bs ih =>
    rw [List.length_cons] at h
    have hk : (s.homeWrite k b).mem = memSet s.mem k b := by
      rw [State.homeWrite, if_neg (by rw [h k (Nat.le_refl _) (by omega)]; exact Bool.false_ne_true)]
    rw [State.homePut, memPut, ih _ _ (fun j hj hj' => h j (by omega) (by omega)), hk]

end Sys2Proof.Machine

end

section
/-! Fault records, halts and traps: what they leave and what a record holds (spec 03, R77; 14, R324 to R326). -/

namespace Sys2Proof.Machine

/-! Worlds by name. -/

theorem State.world?_modWorld (s : State) (world j : Nat) (f : World → World) :
    (s.modWorld world f).world? j = if j = world then (s.world? j).map f else s.world? j := by
  unfold State.modWorld
  cases h : s.world? world with
  | none =>
    by_cases hj : j = world
    · subst hj; simp [h]
    · simp [hj]
  | some w =>
    simp only [State.world?, assoc_assocSet]
    by_cases hj : j = world
    · subst hj
      rw [if_pos rfl, if_pos rfl, show assoc j s.worlds = some w from h, Option.map_some]
    · rw [if_neg hj, if_neg hj]

theorem State.world?_congr {s t : State} (h : t.worlds = s.worlds) (j : Nat) : t.world? j = s.world? j := by
  rw [State.world?, State.world?, h]

/-- A world's record changes and nothing else. -/
theorem State.modWorld_eq (s : State) (world : Nat) (f : World → World) : ∃ worlds, s.modWorld world f = { s with worlds } := by
  unfold State.modWorld
  split
  · exact ⟨_, rfl⟩
  · exact ⟨s.worlds, rfl⟩

/-! Halts (spec 10, R286). -/

theorem State.haltGangs_eq (s : State) (st : GStatus) (p : Gang → Bool) :
    ∃ gangs flights engines, s.haltGangs st p = { s with gangs, flights, engines } := by
  unfold State.haltGangs
  generalize s.gangs.filter (fun g => p g && g.status == .running) = l
  induction l generalizing s with
  | nil => exact ⟨s.gangs, s.flights, s.engines, rfl⟩
  | cons g l ih =>
    obtain ⟨gangs, flights, engines, h⟩ := ih (s.haltGang g.id st)
    exact ⟨gangs, flights, engines, h⟩

/-- A gang that runs after a halt is another, and ran before. -/
theorem State.running_of_haltGang {s : State} {id : Nat} {st : GStatus} {x : Gang} (hst : st ≠ .running) (h : x ∈ (s.haltGang id st).gangs)
    (hx : x.status = .running) : x ∈ s.gangs ∧ x.id ≠ id := by
  obtain ⟨y, hy, hxy⟩ := List.mem_map.1 (show x ∈ mapIf (·.id == id) (fun g => { g with status := st, haltAt := s.clock }) s.gangs from h)
  by_cases hid : (y.id == id) = true
  · rw [if_pos hid] at hxy
    subst hxy
    exact absurd hx hst
  · rw [if_neg hid] at hxy
    subst hxy
    exact ⟨hy, fun h => hid (beq_iff_eq.2 h)⟩

/-- A gang that runs after some halts is none of those halted. -/
theorem State.running_of_haltGangs {s : State} {st : GStatus} {p : Gang → Bool} {x : Gang} (hst : st ≠ .running)
    (h : x ∈ (s.haltGangs st p).gangs) (hx : x.status = .running) : x ∈ s.gangs ∧ p x = false := by
  have kept (l : List Gang) (s : State) (h : x ∈ (l.foldl (fun s g => s.haltGang g.id st) s).gangs) :
      x ∈ s.gangs ∧ ∀ g ∈ l, x.id ≠ g.id := by
    induction l generalizing s with
    | nil => exact ⟨h, fun g hg => (List.not_mem_nil hg).elim⟩
    | cons g l ih =>
      obtain ⟨hmem, hall⟩ := ih _ h
      obtain ⟨hmem, hne⟩ := State.running_of_haltGang hst hmem hx
      exact ⟨hmem, List.forall_mem_cons.2 ⟨hne, hall⟩⟩
  obtain ⟨hmem, hall⟩ := kept _ s h
  refine ⟨hmem, Bool.eq_false_iff.2 (fun hp => hall x (List.mem_filter.2 ⟨hmem, ?_⟩) rfl)⟩
  simp [hp, hx]

/-- Halts of other gangs leave a gang that does not run as it is. -/
theorem State.gang?_haltGangs {s : State} {st : GStatus} {p : Gang → Bool} {id : Nat} (h : ∀ x ∈ s.gangs, x.id = id → x.status ≠ .running) :
    (s.haltGangs st p).gang? id = s.gang? id := by
  have kept (l : List Gang) (s : State) (hl : ∀ g ∈ l, g.id ≠ id) : (l.foldl (fun s g => s.haltGang g.id st) s).gang? id = s.gang? id := by
    induction l generalizing s with
    | nil => rfl
    | cons g l ih =>
      have hg : (s.haltGang g.id st).gang? id = s.gang? id := by
        refine (s.gang?_modGang g.id id (fun x => { x with status := st, haltAt := s.clock }) (fun _ => rfl)).trans (if_neg ?_)
        exact Ne.symm (hl g List.mem_cons_self)
      rw [List.foldl_cons, ih _ (fun x hx => hl x (List.mem_cons_of_mem _ hx)), hg]
  refine kept _ s (fun g hg => ?_)
  obtain ⟨hmem, hrun⟩ := List.mem_filter.1 hg
  simp only [Bool.and_eq_true, beq_iff_eq] at hrun
  exact fun hid => h g hmem hid hrun.2

/-! A fault record goes to its world's queue, or waits at the IOD (spec 14, R325, R326). -/

theorem State.pushRecord_eq (s : State) (world : Nat) (r : FaultRec) : ∃ mem llcDirty iod worlds gangs flights engines,
    s.pushRecord world r = { s with mem, llcDirty, iod, worlds, gangs, flights, engines } := by
  unfold State.pushRecord
  split
  · exact ⟨s.mem, s.llcDirty, s.iod, s.worlds, s.gangs, s.flights, s.engines, rfl⟩
  next w _ =>
    dsimp only
    split
    next k _ =>
      obtain ⟨mem, llcDirty, iod, hp⟩ := s.homePut_eq k (natLe 32 r.toNat)
      obtain ⟨worlds, hw⟩ := (s.homePut k (natLe 32 r.toNat)).modWorld_eq world World.pushTail
      rw [hw, hp]
      exact ⟨_, _, _, _, s.gangs, s.flights, s.engines, rfl⟩
    · obtain ⟨worlds, hw⟩ := s.modWorld_eq world (fun w => { w with waiting := w.waiting ++ [r] })
      rw [hw]
      split
      · exact ⟨s.mem, s.llcDirty, s.iod, worlds, s.gangs, s.flights, s.engines, rfl⟩
      · obtain ⟨worlds', hw'⟩ := State.modWorld_eq { s with worlds } world (fun w => { w with stalled := true })
        obtain ⟨gangs, flights, engines, hh⟩ :=
          (State.modWorld { s with worlds } world (fun w => { w with stalled := true })).haltGangs_eq .stalled (fun g => g.world == world)
        rw [hh, hw']
        exact ⟨s.mem, s.llcDirty, s.iod, worlds', gangs, flights, engines, rfl⟩

/-- A queue with space takes the record at its tail, and vector 0 is raised. -/
theorem State.pushRecord_of_slot {s : State} {world k : Nat} {w : World} (r : FaultRec) (hw : s.world? world = some w) (hsize : w.fqsize ≠ 0)
    (hwait : w.waiting = []) (hroom : w.fqCount < w.fqCapacity) (hk : w.fqSlot w.fqtail = some k) :
    s.pushRecord world r = ((s.homePut k (natLe 32 r.toNat)).modWorld world World.pushTail).raiseIrq world 0 := by
  have free : (w.fqsize == 0 || !w.waiting.isEmpty || decide (w.fqCapacity ≤ w.fqCount)) = false := by
    have hs : (w.fqsize == 0) = false := beq_false_of_ne hsize
    simp only [hs, hwait, Nat.not_le.2 hroom, decide_false, List.isEmpty_nil, Bool.not_true, Bool.or_self]
  unfold State.pushRecord
  simp only [hw, free, Bool.false_eq_true, if_false, hk]

/-- With no queue, no space, or records that wait already, the record waits too; beyond 256 the world stalls. -/
theorem State.pushRecord_of_waits {s : State} {world : Nat} {w : World} (r : FaultRec) (hw : s.world? world = some w)
    (h : w.fqsize = 0 ∨ w.waiting ≠ [] ∨ w.fqCapacity ≤ w.fqCount) :
    s.pushRecord world r = if w.waiting.length < 256 then s.modWorld world (fun w => { w with waiting := w.waiting ++ [r] })
      else ((s.modWorld world (fun w => { w with waiting := w.waiting ++ [r] })).modWorld world (fun w => { w with stalled := true })).haltGangs
        .stalled (fun g => g.world == world) := by
  have full : (w.fqsize == 0 || !w.waiting.isEmpty || decide (w.fqCapacity ≤ w.fqCount)) = true := by
    rcases h with h | h | h <;> simp [h]
  unfold State.pushRecord
  simp only [hw, full, if_true]

/-- A list's entries, and the default past its end, satisfy what all of them do. -/
theorem listGet_of_forall {α : Type} {p : α → Prop} {d : α} {l : List α} (hd : p d) (hl : ∀ x ∈ l, p x) (i : Nat) : p (listGet d l i) := by
  induction l generalizing i with
  | nil => exact hd
  | cons x l ih =>
    cases i with
    | zero => exact hl x List.mem_cons_self
    | succ i => exact ih (fun y hy => hl y (List.mem_cons_of_mem _ hy)) i

theorem listGet_dieList_lt (m : BitVec 8) (i : Nat) : listGet 0 (dieList m) i < 8 :=
  listGet_of_forall (p := (· < 8)) (by decide) (fun _ hx => List.mem_range.1 (List.mem_filter.1 hx).1) i

/-- A record's place lies in device memory, and all 32 bytes of it. -/
theorem World.not_host_of_fqSlot {w : World} {index : BitVec 16} {k j : Nat} (h : w.fqSlot index = some k) (hj : j < k + 32) :
    isHost j = false := by
  unfold World.fqSlot World.place at h
  dsimp only at h
  split at h
  · cases h
  next hn =>
    split at h
    · cases h
    next hq =>
      have hlim := w.qlimit.isLt
      have hd := listGet_dieList_lt w.diemask
      generalize hx : (listGet 0 (dieList w.diemask) _) = d at h
      replace hd : d < 8 := hx ▸ hd _
      have hb := (listGet 0 w.dbase d).isLt
      simp only [Option.some.injEq] at h
      have : j < keyHost := by simp only [keyHost]; omega
      simp [isHost, this]

/-! The fields of a record (spec 14, R324). -/

/-- A field above the lower part of a concatenation. -/
theorem append_field_hi {m n : Nat} (x : BitVec m) (y : BitVec n) {p k : Nat} (h : n ≤ p) :
    (x ++ y).toNat / 2 ^ p % 2 ^ k = x.toNat / 2 ^ (p - n) % 2 ^ k := by
  have hy : y.toNat / 2 ^ n = 0 := Nat.div_eq_of_lt y.isLt
  obtain ⟨q, rfl⟩ := Nat.exists_eq_add_of_le h
  rw [BitVec.toNat_append, Nat.pow_add, ← Nat.div_div_eq_div_mul, ← Nat.shiftLeft_add_eq_or_of_lt y.isLt, Nat.shiftLeft_eq,
    Nat.add_comm, Nat.add_mul_div_right _ _ (Nat.two_pow_pos n), hy, Nat.zero_add, Nat.add_sub_cancel_left]

/-- The lower part of a concatenation. -/
theorem append_field_lo {m n : Nat} (x : BitVec m) (y : BitVec n) : (x ++ y).toNat / 2 ^ 0 % 2 ^ n = y.toNat := by
  rw [BitVec.toNat_append, ← Nat.shiftLeft_add_eq_or_of_lt y.isLt, Nat.shiftLeft_eq, Nat.pow_zero, Nat.div_one, Nat.add_comm,
    Nat.add_mul_mod_self_right, Nat.mod_eq_of_lt y.isLt]

theorem FaultRec.toNat_lt (r : FaultRec) : r.toNat < 256 ^ 32 := by
  unfold FaultRec.toNat
  exact BitVec.isLt _

theorem FaultRec.fields (r : FaultRec) :
    r.toNat / 2 ^ 0 % 2 ^ 8 = r.code.toNat ∧ r.toNat / 2 ^ 8 % 2 ^ 1 = r.mal.toNat ∧ r.toNat / 2 ^ 9 % 2 ^ 1 = r.eng.toNat ∧
    r.toNat / 2 ^ 10 % 2 ^ 1 = r.fetch.toNat ∧ r.toNat / 2 ^ 11 % 2 ^ 1 = r.wr.toNat ∧ r.toNat / 2 ^ 13 % 2 ^ 1 = r.open'.toNat ∧
    r.toNat / 2 ^ 14 % 2 ^ 8 = r.hgrp.toNat ∧ r.toNat / 2 ^ 22 % 2 ^ 10 = r.core.toNat ∧ r.toNat / 2 ^ 32 % 2 ^ 16 = r.lctr.toNat ∧
    r.toNat / 2 ^ 48 % 2 ^ 32 = r.lanes.toNat ∧ r.toNat / 2 ^ 80 % 2 ^ 56 = r.iaddr.toNat ∧ r.toNat / 2 ^ 136 % 2 ^ 56 = r.daddr.toNat := by
  simp only [FaultRec.toNat, append_field_hi, append_field_lo, Nat.reduceLeDiff, Nat.reduceSub, BitVec.toNat_ofBool, Nat.le_refl, and_self]

/-! A trap (spec 03, R77): the gang halts, and a record goes to the queue. -/

/-- The record of a trap (spec 14, R324). -/
def State.trapRecord (s : State) (e : Env) (i : TrapInfo) : FaultRec :=
  { s.record e i.code i.daddr e.g.members with
    wr := i.wr, fetch := i.fetch, mal := i.mal, eng := i.eng, iaddr := i.iaddr.getD (s.iaddr e) }

/-- What is halted when a trap's record is pushed: the flight whose poison is taken is marked, and the gang stands. -/
def State.trapHalt (s : State) (e : Env) (i : TrapInfo) : State :=
  (match i.flight with | some n => s.modFlight n (fun f => { f with taken := true }) | none => s).haltGang e.gang.id .trapped

theorem State.takeTrap_eq_push (s : State) (e : Env) (i : TrapInfo) :
    s.takeTrap e i = { ((s.trapHalt e i).pushRecord e.gang.world (s.trapRecord e i)).progress with raised := some i.code } := rfl

theorem State.trapHalt_eq (s : State) (e : Env) (i : TrapInfo) :
    ∃ gangs flights engines, s.trapHalt e i = { s with gangs, flights, engines } := by
  unfold State.trapHalt
  split
  · exact ⟨_, _, _, rfl⟩
  · exact ⟨_, _, _, rfl⟩

theorem State.trapHalt_gangs (s : State) (e : Env) (i : TrapInfo) :
    (s.trapHalt e i).gangs = mapIf (·.id == e.gang.id) (fun g => { g with status := .trapped, haltAt := s.clock }) s.gangs := by
  unfold State.trapHalt
  split <;> rfl

theorem State.gang?_trapHalt (s : State) (e : Env) (i : TrapInfo) (h : s.gang? e.gang.id = some e.gang) :
    (s.trapHalt e i).gang? e.gang.id = some { e.gang with status := .trapped, haltAt := s.clock } := by
  have hmod := s.gang?_modGang e.gang.id e.gang.id (fun g => { g with status := .trapped, haltAt := s.clock }) (fun _ => rfl)
  rw [if_pos rfl, h] at hmod
  rw [State.gang?, State.trapHalt_gangs]
  exact hmod

theorem State.not_running_trapHalt (s : State) (e : Env) (i : TrapInfo) {x : Gang} (hx : x ∈ (s.trapHalt e i).gangs) (hid : x.id = e.gang.id) :
    x.status ≠ .running := by
  intro hrun
  rw [State.trapHalt_gangs] at hx
  exact (State.running_of_haltGang (s := s) (st := .trapped) (by decide) hx hrun).2 hid

/-- A record changes gangs only by the stall of its world, which leaves a gang that does not run. -/
theorem State.gang?_pushRecord {s : State} {world id : Nat} (r : FaultRec) (h : ∀ x ∈ s.gangs, x.id = id → x.status ≠ .running) :
    (s.pushRecord world r).gang? id = s.gang? id := by
  unfold State.pushRecord
  split
  · rfl
  next w _ =>
    dsimp only
    split
    next k _ =>
      obtain ⟨mem, llcDirty, iod, hp⟩ := s.homePut_eq k (natLe 32 r.toNat)
      obtain ⟨worlds, hw⟩ := (s.homePut k (natLe 32 r.toNat)).modWorld_eq world World.pushTail
      rw [hw, hp]
      rfl
    · obtain ⟨worlds, hw⟩ := s.modWorld_eq world (fun w => { w with waiting := w.waiting ++ [r] })
      rw [hw]
      split
      · rfl
      · obtain ⟨worlds', hw'⟩ := State.modWorld_eq { s with worlds } world (fun w => { w with stalled := true })
        rw [hw']
        exact State.gang?_haltGangs (s := { s with worlds := worlds' }) h

/-- A trap changes no thread, workgroup, launch, tile or version; its gang stands trapped and its code is known. -/
theorem State.takeTrap_keeps (s : State) (e : Env) (i : TrapInfo) (h : s.gang? e.gang.id = some e.gang) :
    (s.takeTrap e i).threads = s.threads ∧ (s.takeTrap e i).wgs = s.wgs ∧ (s.takeTrap e i).launches = s.launches ∧
    (s.takeTrap e i).tiles = s.tiles ∧ (s.takeTrap e i).versions = s.versions ∧ (s.takeTrap e i).raised = some i.code ∧
    (s.takeTrap e i).gang? e.gang.id = some { e.gang with status := .trapped, haltAt := s.clock } := by
  have keeps := KeepsBarriers.takeTrap s e i
  have hgang : (s.takeTrap e i).gang? e.gang.id = some { e.gang with status := .trapped, haltAt := s.clock } :=
    (State.gang?_pushRecord (s.trapRecord e i) (fun x hx => s.not_running_trapHalt e i hx)).trans (s.gang?_trapHalt e i h)
  obtain ⟨gangs, flights, engines, hh⟩ := s.trapHalt_eq e i
  obtain ⟨mem, llcDirty, iod, worlds, gangs', flights', engines', hp⟩ := (s.trapHalt e i).pushRecord_eq e.gang.world (s.trapRecord e i)
  refine ⟨keeps.threads, keeps.wgs, keeps.launches, ?_, ?_, rfl, hgang⟩
  · rw [s.takeTrap_eq_push, hp, hh]; rfl
  · rw [s.takeTrap_eq_push, hp, hh]; rfl

/-- A trap whose world's queue has space: its record stands in the slot at the tail, and the tail is one further. -/
theorem State.takeTrap_of_slot (s : State) (e : Env) (i : TrapInfo) {w : World} {k : Nat} (hw : s.world? e.gang.world = some w)
    (hsize : w.fqsize ≠ 0) (hwait : w.waiting = []) (hroom : w.fqCount < w.fqCapacity) (hk : w.fqSlot w.fqtail = some k) :
    (s.takeTrap e i).mem = memPut s.mem k (natLe 32 (s.trapRecord e i).toNat) ∧
    (s.takeTrap e i).world? e.gang.world = some w.pushTail ∧ (e.gang.world, 0) ∈ (s.takeTrap e i).iod.irqs := by
  obtain ⟨gangs, flights, engines, hh⟩ := s.trapHalt_eq e i
  have hw' : (s.trapHalt e i).world? e.gang.world = some w := by rw [hh]; exact hw
  have hlow (j : Nat) (_ : k ≤ j) (hj : j < k + (natLe 32 (s.trapRecord e i).toNat).length) : isHost j = false := by
    rw [natLe_length] at hj
    exact World.not_host_of_fqSlot hk hj
  have hput := State.homePut_mem_of_not_host (s.trapHalt e i) k (natLe 32 (s.trapRecord e i).toNat) hlow
  obtain ⟨mem, llcDirty, iod, hp⟩ := (s.trapHalt e i).homePut_eq k (natLe 32 (s.trapRecord e i).toNat)
  obtain ⟨worlds, hm⟩ := ((s.trapHalt e i).homePut k (natLe 32 (s.trapRecord e i).toNat)).modWorld_eq e.gang.world World.pushTail
  have hpush := State.pushRecord_of_slot (s.trapRecord e i) hw' hsize hwait hroom hk
  generalize (s.trapHalt e i).homePut k (natLe 32 (s.trapRecord e i).toNat) = v at hput hp hm hpush
  have hworld := State.world?_modWorld v e.gang.world e.gang.world World.pushTail
  rw [if_pos rfl, State.world?_congr (show v.worlds = (s.trapHalt e i).worlds by rw [hp]), hw', Option.map_some] at hworld
  rw [s.takeTrap_eq_push, hpush]
  refine ⟨?_, hworld, List.mem_append_right _ List.mem_cons_self⟩
  rw [hm]
  refine hput.trans ?_
  rw [hh]

/-- A trap whose world's queue has no space: memory is as before and the record waits; beyond 256 the world stalls. -/
theorem State.takeTrap_of_waits (s : State) (e : Env) (i : TrapInfo) {w : World} (hw : s.world? e.gang.world = some w)
    (h : w.fqsize = 0 ∨ w.waiting ≠ [] ∨ w.fqCapacity ≤ w.fqCount) :
    SameMemory s (s.takeTrap e i) ∧ ∃ w', (s.takeTrap e i).world? e.gang.world = some w' ∧
      w'.waiting.length = w.waiting.length + 1 ∧ w'.fqtail = w.fqtail ∧
      (256 ≤ w.waiting.length → w'.stalled = true ∧ ∀ x ∈ (s.takeTrap e i).gangs, x.world = e.gang.world → x.status ≠ .running) := by
  obtain ⟨gangs, flights, engines, hh⟩ := s.trapHalt_eq e i
  have hw' : (s.trapHalt e i).world? e.gang.world = some w := by rw [hh]; exact hw
  rw [s.takeTrap_eq_push, State.pushRecord_of_waits _ hw' h]
  generalize hr : s.trapRecord e i = r
  have wait := State.world?_modWorld (s.trapHalt e i) e.gang.world e.gang.world (fun w => { w with waiting := w.waiting ++ [r] })
  rw [if_pos rfl, hw', Option.map_some] at wait
  obtain ⟨worlds, hm⟩ := (s.trapHalt e i).modWorld_eq e.gang.world (fun w => { w with waiting := w.waiting ++ [r] })
  split
  next hlt =>
    refine ⟨sameMemory_of ?_ ?_, _, wait, List.length_append, rfl, fun hge => absurd hge (Nat.not_le.2 hlt)⟩
    · rw [hm, hh]; rfl
    · rw [hm, hh]; rfl
  · generalize hv : (s.trapHalt e i).modWorld e.gang.world (fun w => { w with waiting := w.waiting ++ [r] }) = v at wait hm
    have stall := State.world?_modWorld v e.gang.world e.gang.world (fun w => { w with stalled := true })
    rw [if_pos rfl, wait, Option.map_some] at stall
    obtain ⟨worlds', hs⟩ := v.modWorld_eq e.gang.world (fun w => { w with stalled := true })
    obtain ⟨gangs', flights', engines', hg⟩ := (v.modWorld e.gang.world (fun w => { w with stalled := true })).haltGangs_eq .stalled
      (fun g => g.world == e.gang.world)
    have hgangs (x : Gang) (hx : x ∈ ((v.modWorld e.gang.world (fun w => { w with stalled := true })).haltGangs .stalled
        (fun g => g.world == e.gang.world)).gangs) (hxw : x.world = e.gang.world) : x.status ≠ .running := fun hrun =>
      absurd (State.running_of_haltGangs (by decide) hx hrun).2 (by simp [hxw])
    refine ⟨sameMemory_of ?_ ?_, _, (State.world?_congr ?_ _).trans stall, List.length_append, rfl, fun _ => ⟨rfl, hgangs⟩⟩
    · rw [hg, hs, hm, hh]; rfl
    · rw [hg, hs, hm, hh]; rfl
    · rw [hg]; rfl

/-! The conditions met before an effect, lowest code first (spec 03, R57, R68, R78). -/

theorem State.decodeTrap_of_illegal (s : State) (e : Env) {i : Instr} (h : i.legal = false) : s.decodeTrap e i = some 0x01 := by
  simp [State.decodeTrap, h]

theorem State.decodeTrap_of_range (s : State) (e : Env) {i : Instr} (h : i.legal = true) (hsys : instrSystem i = false)
    (hr : ∃ o ∈ i.opnds (instrFrags e.l i).1 (instrFrags e.l i).2, o.inRange e.l.vregs e.l.acc = false) :
    s.decodeTrap e i = some 0x04 := by
  obtain ⟨o, ho, hout⟩ := hr
  have hall : (i.opnds (instrFrags e.l i).1 (instrFrags e.l i).2).all (Opnd.inRange e.l.vregs e.l.acc) = false :=
    List.all_eq_false.2 ⟨o, ho, by simp [hout]⟩
  simp only [State.decodeTrap, h, hsys, hall, Bool.not_true, Bool.false_and, Bool.false_eq_true, if_false, Bool.not_false, if_true]

theorem State.decodeTrap_ne_illegal (s : State) (e : Env) {i : Instr} (h : i.legal = true) : s.decodeTrap e i ≠ some 0x01 := by
  unfold State.decodeTrap
  simp only [h, Bool.not_true, Bool.false_eq_true, if_false]
  split
  · decide
  · split <;> decide

section
variable {s : State} {e : Env} {g : Guard} {i : Instr}

theorem issue_of_gate_trap (hi : s.issuer = some e) {t : TrapInfo} (hx : s.gate e g i = .trap t) (body : Env → Out) :
    issue g i s body = .next (s.takeTrap e t) := by
  simp only [issue, hi, hx]

theorem issue_of_gate_target (hi : s.issuer = some e) {va : VA} {f : Fetched} (hx : s.gate e g i = .target va f) (body : Env → Out) :
    issue g i s body = if s.raised.isNone && s.decodeTrap e i == none && s.condsKnown e g i then lowerOf (body e) f.code (s.badTarget e va f)
      else s.badTarget e va f := by
  simp only [issue, hi, hx]

theorem issue_of_gate_poison (hi : s.issuer = some e) {t : TrapInfo} (hx : s.gate e g i = .poison t) (body : Env → Out) :
    issue g i s body = if s.raised.isNone && s.condsKnown e g i then lowerOf (body e) t.code (.next (s.takeTrap e t))
      else .next (s.takeTrap e t) := by
  simp only [issue, hi, hx]

theorem issue_of_gate_hold (hi : s.issuer = some e) (hx : s.gate e g i = .hold) (body : Env → Out) : issue g i s body = .next (s.hold e) := by
  simp only [issue, hi, hx]

theorem State.gate_of_illegal (h : i.legal = false) : s.gate e g i = .trap { code := 0x01 } := by
  unfold State.gate
  simp only [s.decodeTrap_of_illegal e h]

theorem State.gate_of_word {va : VA} {w : Code} (h : s.decodeTrap e i ≠ some 0x01) (hf : s.fallBad e i = some (va, .word w)) :
    s.gate e g i = .target va (.word w) := by
  unfold State.gate
  dsimp only
  split
  next hill => exact absurd hill h
  · simp only [hf]

theorem State.gate_of_decodeTrap_fall {c : Nat} (hc : s.decodeTrap e i = some c) (h : c ≠ 1) (hf : s.fallBad e i = none) :
    s.gate e g i = .trap { code := c } := by
  unfold State.gate
  dsimp only
  split
  next hill => exact absurd (Option.some.inj (hc.symm.trans hill)) h
  · simp only [hc, hf]

theorem State.gate_of_scoreHold (hd : s.decodeTrap e i = none) (hf : s.fallBad e i = none)
    (hp : s.poisonHit e (i.vregs (instrFrags e.l i).1 (instrFrags e.l i).2) i.preds = none)
    (hs : s.scoreHold e g i (i.vregs (instrFrags e.l i).1 (instrFrags e.l i).2) i.preds = true) : s.gate e g i = .hold := by
  unfold State.gate
  simp only [hd, hf, hp, hs, if_true]

/-- Of what an instruction raises and another condition of some code, the other is taken unless the instruction's own is lower. -/
theorem lowerOf_of_le {own other : Out} {code : Nat} (h : ∀ t, own = .next t → ∀ n, t.raised = some n → code ≤ n) :
    lowerOf own code other = other := by
  unfold lowerOf
  split
  next t =>
    rw [if_neg]
    cases hr : t.raised with
    | none => simp
    | some n => simpa using h t rfl n hr
  · rfl

theorem lowerOf_of_lt {t : State} {other : Out} {code n : Nat} (h : t.raised = some n) (hn : n < code) : lowerOf (.next t) code other = .next t := by
  unfold lowerOf
  simp [h, hn]

end

end Sys2Proof.Machine

namespace Sys2Proof
open Sys2Proof.Machine

/-- Settles O55: the trap's frame is that of the halt and of the push of its record; the order of the conditions is that of `gate`. -/
theorem takingATrap : Obligations.TakingATrap := by
  unfold Obligations.TakingATrap
  refine ⟨?_, ?_⟩
  · intro s e i w hw hgang
    obtain ⟨hthreads, hwgs, hlaunches, htiles, hversions, hraised, hstands⟩ := s.takeTrap_keeps e i hgang
    refine ⟨hthreads, hwgs, hlaunches, htiles, hversions, hraised, hstands, ?_, s.takeTrap_of_waits e i hw⟩
    intro k hsize hwait hroom hk
    obtain ⟨hmem, hworld, hirq⟩ := s.takeTrap_of_slot e i hw hsize hwait hroom hk
    have hx : memNat (s.takeTrap e i).mem k 32 = (s.trapRecord e i).toNat := by
      rw [hmem, memNat_memPut_natLe, Nat.mod_eq_of_lt (s.trapRecord e i).toNat_lt]
    obtain ⟨hcode, hmal, heng, hfetch, hwr, -, hhgrp, hcore, hlctr, hlanes, hiaddr, hdaddr⟩ := (s.trapRecord e i).fields
    rw [Nat.pow_zero, Nat.div_one] at hcode
    dsimp only
    rw [hx]
    refine ⟨fun j hj => ?_, ?_, hmal, heng, hfetch, hwr, ?_, ?_, ?_, hlanes, hiaddr, ?_, ⟨_, hworld, rfl, rfl⟩, hirq⟩
    · rw [hmem, memGet_memPut, natLe_length, if_neg hj]
    · exact hcode.trans (BitVec.toNat_ofNat ..)
    · exact hhgrp.trans (BitVec.toNat_ofNat ..)
    · exact hcore.trans (BitVec.toNat_ofNat ..)
    · exact hlctr.trans (BitVec.toNat_ofNat ..)
    · exact hdaddr.trans (BitVec.toNat_ofNat ..)
  · intro g i s e body hi
    refine ⟨fun hl => ?_, fun hl hsys hr hf => ?_, fun hl va w hf hb => ?_, fun va w t hd hf hraised hknown hb hr => ?_, fun hd hf hp hs => ?_⟩
    · exact issue_of_gate_trap hi (State.gate_of_illegal hl) body
    · exact issue_of_gate_trap hi (State.gate_of_decodeTrap_fall (s.decodeTrap_of_range e hl hsys hr) (by decide) hf) body
    · rw [issue_of_gate_target hi (State.gate_of_word (s.decodeTrap_ne_illegal e hl) hf)]
      rw [Fetched.code, lowerOf_of_le (code := 2) hb, ite_self]
      rfl
    · rw [issue_of_gate_target hi (State.gate_of_word (by rw [hd]; decide) hf)]
      simp only [hraised, hd, hknown, Option.isNone_none, beq_self_eq_true, Bool.and_self, if_true, hb]
      exact lowerOf_of_lt hr (show 1 < 2 by decide)
    · exact issue_of_gate_hold hi (State.gate_of_scoreHold hd hf hp hs) body

end Sys2Proof
end

section
/-! Block entry, and the control instructions that file, end or trap threads (spec 03, R57, R58; 10, R283, R292, R295). -/

namespace Sys2Proof.Machine

theorem sameMemory_iod {s t : State} (hm : t.mem = s.mem) (hi : t.iod = s.iod) : SameMemory s t := sameMemory_of hm (by rw [hi])

theorem State.fileFrom_iod (s : State) (e : Env) (pc : VA) (tids : List Nat) : (s.fileFrom e pc tids).iod = s.iod := by
  obtain ⟨groups, bins, nextId, h⟩ := s.fileFrom_eq e pc tids
  rw [h]
  exact State.modThreads_iod ..

theorem State.fileFrom_wgs (s : State) (e : Env) (pc : VA) (tids : List Nat) : (s.fileFrom e pc tids).wgs = s.wgs := by
  obtain ⟨groups, bins, nextId, h⟩ := s.fileFrom_eq e pc tids
  rw [h]
  exact State.modThreads_wgs ..

theorem State.mem_bins_fileFrom (s : State) (e : Env) (pc : VA) {tids : List Nat} {n : Nat} (hn : n ∈ tids) :
    ∃ b ∈ (s.fileFrom e pc tids).bins, b.wg = e.w.id ∧ b.pc = pc ∧ (n, s.clock) ∈ b.entries := by
  rw [State.bins_fileFrom]
  obtain ⟨b, hb, hwg, -, -, hpc, hent⟩ := s.mem_bins_file e.w.id e.g.core e.g.part pc hn
  exact ⟨b, hb, hwg, hpc, hent⟩

/-! Block entry. -/

/-- A thread as it enters a block at a header. -/
def Thread.entered (t : Thread) (pc : VA) (h : Header) : Thread :=
  { t with pc := pc + 8, left := h.len, block := pc, written := [], reconv := t.reconv.filter (· != pc) }

theorem State.thread_enter (s : State) (e : Env) (pc : VA) (h : Header) (n : Nat) :
    (s.enter e pc h).thread e.w.id n = if n ∈ e.g.members then (s.thread e.w.id n).entered pc h else s.thread e.w.id n :=
  s.thread_modThreads e.w.id e.g.members (fun t => t.entered pc h) n

theorem State.enter_iod (s : State) (e : Env) (pc : VA) (h : Header) : (s.enter e pc h).iod = s.iod := State.modThreads_iod ..
theorem State.enter_flights (s : State) (e : Env) (pc : VA) (h : Header) : (s.enter e pc h).flights = s.flights := State.modThreads_flights ..

/-- What leaves the group at a header: every thread at a reform point, and those marked at a division. -/
def State.reformers (s : State) (e : Env) (h : Header) : List Nat := if h.kind == 1 then e.g.members else s.marked e (s.iaddr e)

theorem State.blockEntry_of_illegal {s : State} {e : Env} {h : Header} (hh : s.atHeader e (s.iaddr e) = .inr h) (hl : h.legal = false) :
    s.blockEntry e = .next (s.takeTrap e { code := 0x01, daddr := (s.iaddr e).toNat, fetch := true }) := by
  simp only [State.blockEntry, hh, hl, Bool.not_false, if_true]

theorem State.blockEntry_of_enter {s : State} {e : Env} {h : Header} (hh : s.atHeader e (s.iaddr e) = .inr h) (hl : h.legal = true)
    (ho : e.g.drawn = true ∨ s.reformers e h = []) : s.blockEntry e = .next (s.enter e (s.iaddr e) h).progress := by
  unfold State.reformers at ho
  unfold State.blockEntry
  simp only [hh, hl, Bool.not_true, Bool.false_eq_true, if_false]
  by_cases hd : e.g.drawn = true
  · rw [if_pos hd]
  · rw [if_neg hd, ho.resolve_left hd]
    rfl

theorem State.blockEntry_of_reform {s : State} {e : Env} {h : Header} (hh : s.atHeader e (s.iaddr e) = .inr h) (hl : h.legal = true)
    (hd : e.g.drawn = false) (ho : s.reformers e h ≠ []) :
    s.blockEntry e = .next (s.fileFrom e (s.iaddr e) (s.reformers e h)).progress := by
  have hne : (s.reformers e h).isEmpty = false := by simpa using ho
  unfold State.reformers at hne ⊢
  unfold State.blockEntry
  simp only [hh, hl, hd, hne, Bool.not_true, Bool.false_eq_true, if_false]

/-! What barriers and rings do once threads have exited (spec 10, R279, R283; 08, R224). -/

/-- Only barriers, rings and range locks differ. -/
def BarsOnly (s t : State) : Prop := ∃ wgs gangs launches locks, t = { s with wgs, gangs, launches, locks }

theorem BarsOnly.refl (s : State) : BarsOnly s s := ⟨s.wgs, s.gangs, s.launches, s.locks, rfl⟩

theorem BarsOnly.trans {s t u : State} (h : BarsOnly s t) (h' : BarsOnly t u) : BarsOnly s u := by
  obtain ⟨_, _, _, _, rfl⟩ := h
  obtain ⟨wgs, gangs, launches, locks, rfl⟩ := h'
  exact ⟨wgs, gangs, launches, locks, rfl⟩

theorem BarsOnly.foldl {α : Type} {f : State → α → State} (hf : ∀ s x, BarsOnly s (f s x)) (l : List α) (s : State) :
    BarsOnly s (l.foldl f s) := by
  induction l generalizing s with
  | nil => exact .refl s
  | cons x l ih => exact (hf s x).trans (ih _)

theorem BarsOnly.ite {s t u : State} {c : Prop} [Decidable c] (h : BarsOnly s t) (h' : BarsOnly s u) : BarsOnly s (if c then t else u) := by
  split
  · exact h
  · exact h'

theorem State.putBar_barsOnly (s : State) (w : Workgroup) (level n : Nat) (b : Barrier) : BarsOnly s (s.putBar w level n b) := by
  unfold State.putBar
  split <;> exact ⟨_, _, _, _, rfl⟩

theorem State.tryBar_barsOnly (s : State) (l : Launch) (w : Workgroup) (level n : Nat) : BarsOnly s (s.tryBar l w level n) :=
  .ite (s.putBar_barsOnly w level n _) (.refl s)

theorem State.arrive_barsOnly (s : State) (w : Workgroup) (level n : Nat) (tids : List Nat) : BarsOnly s (s.arrive w level n tids) :=
  s.putBar_barsOnly w level n _

theorem State.addLock_barsOnly (s : State) (owner world : Nat) (spad : Bool) (space lo hi : Nat) (dst : Bool) :
    BarsOnly s (s.addLock owner world spad space lo hi dst) := by
  unfold State.addLock
  exact .ite (.refl s) ⟨s.wgs, s.gangs, s.launches, _, rfl⟩

theorem State.registerSlots_barsOnly (s : State) (wg : Nat) : BarsOnly s (s.registerSlots wg) := by
  unfold State.registerSlots
  refine .foldl (fun s o => ?_) _ s
  split
  · exact State.addLock_barsOnly ..
  · exact .refl s

theorem State.tryRing_barsOnly (s : State) (wg n : Nat) : BarsOnly s (s.tryRing wg n) := by
  unfold State.tryRing
  split
  · exact .refl s
  · split
    · exact .refl s
    · refine .ite (BarsOnly.trans ⟨_, _, _, _, rfl⟩ (State.registerSlots_barsOnly _ wg)) (.refl s)

theorem State.afterExit_barsOnly (s : State) (l : Launch) (w : Workgroup) : BarsOnly s (s.afterExit l w) := by
  have bars (level : Nat) (s : State) (n : Nat) : BarsOnly s
      (if !(s.getBar w level n).arrived.isEmpty then s.tryBar l w level n else s) := .ite (s.tryBar_barsOnly l w level n) (.refl s)
  unfold State.afterExit
  refine BarsOnly.trans (BarsOnly.trans (BarsOnly.trans (.foldl (bars 0) _ s) (.foldl (bars 1) _ _)) (.foldl (bars 2) _ _)) (.foldl (fun s n => ?_) _ _)
  exact .ite (s.tryRing_barsOnly w.id n) (.refl s)

/-! Exits: their loads are discarded, and they leave their group. -/

theorem State.not_mem_tids_dropLoads {s : State} {wg : Nat} {tids : List Nat} {x : Flight} (h : x ∈ (s.dropLoads wg tids).flights)
    (hwg : x.wg = wg) (hl : x.kind.isLoad = true) {n : Nat} (hn : n ∈ tids) : n ∉ x.tids := by
  obtain ⟨y, -, rfl⟩ := List.mem_map.1 (List.mem_filter.1 h).1
  by_cases hc : (y.wg == wg && y.kind.isLoad) = true
  · rw [if_pos hc]
    intro hmem
    have := (List.mem_filter.1 hmem).2
    simp [hn] at this
  · rw [if_neg hc] at hwg hl
    exact absurd (by simp [hwg, hl]) hc

theorem State.thread_dropLoads (s : State) (wg : Nat) (tids : List Nat) : (s.dropLoads wg tids).thread = s.thread := rfl

theorem State.mem_members_of_keepMembers {s : State} {id n : Nat} {tids : List Nat} {x : Group} (h : x ∈ (s.keepMembers id tids).groups)
    (hid : x.id = id) (hn : n ∈ x.members) : n ∈ tids := by
  unfold State.keepMembers at h
  split at h
  · have := (List.mem_filter.1 h).2
    simp [hid] at this
  · obtain ⟨y, -, hy⟩ := List.mem_map.1 (show x ∈ mapIf (·.id == id) (fun g => { g with members := tids }) s.groups from h)
    by_cases hc : (y.id == id) = true
    · rw [if_pos hc] at hy
      subst hy
      exact hn
    · rw [if_neg hc] at hy
      subst hy
      exact absurd (beq_iff_eq.2 hid) hc

/-! The state after an exit. -/

/-- The threads of an `exit` have ended, and the others have gone on. -/
def State.exited (s : State) (e : Env) (g : Guard) : State :=
  (((s.modThreads e.w.id (s.offLanes e g) Thread.next).dropLoads e.w.id (s.lanes e g)).modThreads e.w.id (s.lanes e g)
    (fun t => { t with status := .ended, ld := 0 })).keepMembers e.g.id (e.g.members.filter (fun t => !(s.lanes e g).contains t))

section
variable {s : State} {e : Env} {g : Guard}

theorem State.mem_offLanes {t : Nat} : t ∈ s.offLanes e g ↔ t ∈ e.g.members ∧ ¬ (s.thread e.w.id t).guarded g = true := by
  simp [State.offLanes, Thread.guarded]

theorem State.exited_threads : (s.exited e g).threads = (((s.modThreads e.w.id (s.offLanes e g) Thread.next).dropLoads e.w.id
    (s.lanes e g)).modThreads e.w.id (s.lanes e g) (fun t => { t with status := .ended, ld := 0 })).threads := by
  unfold State.exited
  obtain ⟨groups, hk⟩ := State.keepMembers_eq (((s.modThreads e.w.id (s.offLanes e g) Thread.next).dropLoads e.w.id
    (s.lanes e g)).modThreads e.w.id (s.lanes e g) (fun t => { t with status := .ended, ld := 0 })) e.g.id
    (e.g.members.filter (fun t => !(s.lanes e g).contains t))
  rw [hk]

theorem State.exited_flights : (s.exited e g).flights = ((s.modThreads e.w.id (s.offLanes e g) Thread.next).dropLoads e.w.id
    (s.lanes e g)).flights := by
  unfold State.exited
  obtain ⟨groups, hk⟩ := State.keepMembers_eq (((s.modThreads e.w.id (s.offLanes e g) Thread.next).dropLoads e.w.id
    (s.lanes e g)).modThreads e.w.id (s.lanes e g) (fun t => { t with status := .ended, ld := 0 })) e.g.id
    (e.g.members.filter (fun t => !(s.lanes e g).contains t))
  rw [hk]
  exact State.modThreads_flights ..

theorem State.thread_exited {n : Nat} (hn : n ∈ e.g.members) : (s.exited e g).thread e.w.id n =
    if (s.thread e.w.id n).guarded g then { s.thread e.w.id n with status := .ended, ld := 0 } else (s.thread e.w.id n).next := by
  rw [State.thread_congr State.exited_threads, State.thread_modThreads, State.thread_dropLoads, State.thread_modThreads]
  by_cases hg : (s.thread e.w.id n).guarded g = true
  · rw [if_pos ((s.mem_lanes e g n).2 ⟨hn, hg⟩), if_neg (fun h => (State.mem_offLanes.1 h).2 hg), if_pos hg]
  · rw [if_neg (fun h => hg ((s.mem_lanes e g n).1 h).2), if_pos (State.mem_offLanes.2 ⟨hn, hg⟩), if_neg hg]

theorem State.thread_exited_other {wg n : Nat} (hn : ∀ u ∈ e.g.members, threadKey wg n ≠ threadKey e.w.id u) :
    (s.exited e g).thread wg n = s.thread wg n := by
  rw [State.thread_congr State.exited_threads, State.thread_modThreads_other _ _ _ _ _ _ (fun u hu => hn u (State.lanes_sub hu)),
    State.thread_dropLoads, State.thread_modThreads_other _ _ _ _ _ _ (fun u hu => hn u (State.mem_offLanes.1 hu).1)]

theorem State.exited_sameMemory : SameMemory s (s.exited e g) := by
  unfold State.exited
  obtain ⟨groups, hk⟩ := State.keepMembers_eq (((s.modThreads e.w.id (s.offLanes e g) Thread.next).dropLoads e.w.id
    (s.lanes e g)).modThreads e.w.id (s.lanes e g) (fun t => { t with status := .ended, ld := 0 })) e.g.id
    (e.g.members.filter (fun t => !(s.lanes e g).contains t))
  rw [hk]
  exact sameMemory_iod ((State.modThreads_mem ..).trans (State.modThreads_mem ..)) ((State.modThreads_iod ..).trans (State.modThreads_iod ..))

theorem Issuable.exit {f : FC} (h : Issuable s e g (.exit g f)) (hp : s.pendingPoison e.w.id (s.lanes e g) true true = none) :
    exec (.exit g f) s = .next ((s.exited e g).afterExit e.l e.w).progress := by
  show execExit g f s = _
  rw [execExit, h.issue]
  simp only [hp]
  rfl

theorem Issuable.reform {f : FC} (h : Issuable s e g (.reform g f)) :
    exec (.reform g f) s = .next ((s.advance e).fileFrom e (s.iaddr e + 8) (s.lanes e g)).progress := by
  show execReform g f s = _
  rw [execReform, h.issue]

end

end Sys2Proof.Machine

namespace Sys2Proof
open Sys2Proof.Machine

/-- Settles O23: the header is legal or not, the group was drawn or not, and the point is a reform point or not. -/
theorem blockEntry : Obligations.BlockEntry := by
  unfold Obligations.BlockEntry
  intro s e h hh
  refine ⟨State.blockEntry_of_illegal hh, fun hl hd => ?_, fun hl hd hk => ?_⟩
  · have ho : e.g.drawn = true ∨ s.reformers e h = [] := by
      refine hd.imp_right (fun ⟨hk, hr⟩ => ?_)
      rw [State.reformers, if_neg (by simpa using hk)]
      exact List.filter_eq_nil_iff.2 (fun n hn => by simpa using hr n hn)
    refine ⟨_, State.blockEntry_of_enter hh hl ho, sameMemory_iod (s.enter_mem ..) (s.enter_iod ..), s.enter_flights .., fun n hn => ?_⟩
    rw [State.thread_progress, State.thread_enter, if_pos hn]
    exact ⟨rfl, rfl, rfl, rfl, rfl⟩
  · have hr : s.reformers e h = e.g.members := if_pos (by simpa using hk)
    by_cases hm : e.g.members = []
    · refine ⟨_, State.blockEntry_of_enter hh hl (.inr (hr.trans hm)), sameMemory_iod (s.enter_mem ..) (s.enter_iod ..), ⟨?_, ?_⟩, ?_⟩
      · rw [hm]; exact fun _ hn => (List.not_mem_nil hn).elim
      · exact fun wg n hn => s.thread_modThreads_other e.w.id e.g.members (fun t => t.entered (s.iaddr e) h) wg n hn
      · rw [hm]; exact fun _ hn => (List.not_mem_nil hn).elim
    · refine ⟨_, State.blockEntry_of_reform hh hl hd (by rw [hr]; exact hm), ?_⟩
      rw [hr]
      refine ⟨sameMemory_iod (s.fileFrom_mem ..) (s.fileFrom_iod ..), ⟨fun n hn => ?_, fun wg n hn => ?_⟩, fun n hn => ?_⟩
      · rw [State.thread_progress, State.thread_fileFrom, State.thread_modThreads, if_pos hn]
      · rw [State.thread_progress, State.thread_fileFrom, State.thread_modThreads_other _ _ _ _ _ _ hn]
      · exact s.mem_bins_fileFrom e (s.iaddr e) hn

/-- Settles O24: each of the five forms is its own short effect, under the rules for filing, exits, restamps and traps. -/
theorem reformExitYieldNopAndTrap : Obligations.ReformExitYieldNopAndTrap := by
  unfold Obligations.ReformExitYieldNopAndTrap
  intro g f s e
  refine ⟨fun h => ?reform, fun h hp => ?exit, fun h l => ?yield, fun h => ?nop, fun h l => ?trap⟩
  case reform =>
    refine ⟨_, h.reform, sameMemory_iod ?_ ?_, ?_, ⟨fun n hn => ?_, fun wg n hn => ?_⟩, fun n hn => ?_⟩
    · exact (State.fileFrom_mem ..).trans (State.modThreads_mem ..)
    · exact (State.fileFrom_iod ..).trans (State.modThreads_iod ..)
    · exact (State.fileFrom_wgs ..).trans (State.modThreads_wgs ..)
    · rw [State.thread_progress, State.thread_fileFrom, State.thread_modThreads, State.thread_advance _ _ _ hn]
      by_cases hg : (s.thread e.w.id n).guarded g = true
      · exact (if_pos ((s.mem_lanes e g n).2 ⟨hn, hg⟩)).trans (if_pos hg).symm
      · exact (if_neg (fun hm => hg ((s.mem_lanes e g n).1 hm).2)).trans (if_neg hg).symm
    · rw [State.thread_progress, State.thread_fileFrom,
        State.thread_modThreads_other _ _ _ _ _ _ (fun u hu => hn u (State.lanes_sub hu)), State.thread_advance_other _ _ _ _ hn]
    · have hb := (s.advance e).mem_bins_fileFrom e (s.iaddr e + 8) hn
      rwa [show (s.advance e).clock = s.clock from State.modThreads_clock ..] at hb
  case exit =>
    obtain ⟨wgs, gangs, launches, locks, ha⟩ := (s.exited e g).afterExit_barsOnly e.l e.w
    refine ⟨_, h.exit hp, ?_⟩
    rw [ha]
    refine ⟨State.exited_sameMemory, ⟨fun n hn => State.thread_exited hn, fun wg n hn => State.thread_exited_other hn⟩,
      fun x hx hwg hl n hn => ?_, fun x hx hid n hn hmem => ?_⟩
    · exact State.not_mem_tids_dropLoads (s := s.modThreads e.w.id (s.offLanes e g) Thread.next)
        (State.exited_flights (s := s) (e := e) (g := g) ▸ hx) hwg hl hn
    · obtain ⟨y, hy, rfl⟩ := List.mem_map.1 hx
      have hkept := State.mem_members_of_keepMembers hy hid hn
      simpa [hmem] using (List.mem_filter.1 hkept).2
  case yield =>
    refine ⟨((s.modGroup e.g.id (fun x => { x with stamp := s.clock })).advance e).progress, ?_, ?_, threadsBecome_next rfl, ?_⟩
    · show execYield g f s = _
      rw [execYield, h.groupOp l]
      rfl
    · obtain ⟨th, hth⟩ := State.advance_threads (s := s.modGroup e.g.id (fun x => { x with stamp := s.clock })) e ⟨_, rfl⟩
      exact ⟨th, _, by rw [hth]; rfl⟩
    · intro x hx hid
      obtain ⟨y, hy, rfl⟩ := List.mem_map.1 hx
      rw [State.advance, State.modThreads_groups] at hy
      obtain ⟨z, -, hz⟩ := List.mem_map.1 (show y ∈ mapIf (·.id == e.g.id) (fun x => { x with stamp := s.clock }) s.groups from hy)
      by_cases hc : (z.id == e.g.id) = true
      · rw [if_pos hc] at hz
        subst hz
        rfl
      · rw [if_neg hc] at hz
        subst hz
        exact absurd (beq_iff_eq.2 hid) hc
  case nop =>
    show execNop g f s = _
    by_cases l : s.someLane e g
    · rw [execNop, h.groupOp l]; rfl
    · rw [execNop, h.groupOp_none l]; rfl
  case trap =>
    refine ⟨_, ?_, rfl, (KeepsBarriers.takeTrap s e { code := 0x17, daddr := f.imm.toNat % 65536 }).threads, fun x hx => ?_⟩
    · show execTrap g f s = _
      rw [execTrap, h.groupOp l]
    · have hmod := (s.takeTrap e { code := 0x17, daddr := f.imm.toNat % 65536 }).gang?_modGang e.gang.id e.gang.id
        (fun x => { x with skip := e.g.members.map (threadKey e.w.id) }) (fun _ => rfl)
      rw [if_pos rfl] at hmod
      rw [hmod] at hx
      obtain ⟨y, hy, rfl⟩ := Option.map_eq_some_iff.1 hx
      have hy' : (s.trapHalt e { code := 0x17, daddr := f.imm.toNat % 65536 }).gang? e.gang.id = some y :=
        (State.gang?_pushRecord (s.trapRecord e { code := 0x17, daddr := f.imm.toNat % 65536 })
          (fun x hx => s.not_running_trapHalt e _ hx)).symm.trans hy
      have hstill : y.status ≠ .running :=
        s.not_running_trapHalt e _ (List.mem_of_find?_eq_some hy') (by simpa using List.find?_some hy')
      exact hstill

end Sys2Proof
end

section
/-! Branches, calls and returns: where threads go, how a group divides, and what traps (spec 02, R31; 03, R57, R58; 10, R291 to
R293). -/

namespace Sys2Proof.Machine

/-- What the issuing group and its workgroup, gang and launch are. -/
theorem State.issuer_spec {s : State} {e : Env} (h : s.issuer = some e) :
    e.g ∈ s.groups ∧ s.wg? e.g.wg = some e.w ∧ s.gang? e.w.gang = some e.gang ∧ s.launch? e.w.launch = some e.l := by
  unfold State.issuer at h
  split at h
  · cases h
  · split at h
    · cases h
    next g hg =>
      split at h
      · cases h
      next w hw =>
        split at h
        · cases h
        next gang hgang =>
          split at h
          · cases h
          next l hl =>
            obtain rfl := Option.some.inj h
            exact ⟨List.mem_of_find?_eq_some hg, hw, hgang, hl⟩

/-! Threads are as before but for whether they run or are filed. -/

/-- Each thread is as before up to its status. -/
def UpToStatus (s t : State) : Prop := ∀ wg n, ∃ status, t.thread wg n = { s.thread wg n with status }

theorem UpToStatus.of_threads {s t : State} (h : t.threads = s.threads) : UpToStatus s t := fun wg n => ⟨_, State.thread_congr h wg n⟩

theorem UpToStatus.refl (s : State) : UpToStatus s s := .of_threads rfl

theorem UpToStatus.trans {s t u : State} (h : UpToStatus s t) (h' : UpToStatus t u) : UpToStatus s u := by
  intro wg n
  obtain ⟨x, hx⟩ := h wg n
  obtain ⟨y, hy⟩ := h' wg n
  exact ⟨y, by rw [hy, hx]⟩

theorem threadKey_inj {wg t wg' : Nat} {l : List Nat} (h : ¬ ∀ u ∈ l, threadKey wg t ≠ threadKey wg' u) :
    ∃ u ∈ l, threadKey wg t = threadKey wg' u := by
  simpa using h

theorem State.thread_of_key {s : State} {wg t wg' t' : Nat} (h : threadKey wg t = threadKey wg' t') : s.thread wg t = s.thread wg' t' := by
  unfold State.thread
  rw [h]

/-- Every thread after a change of some: changed, or as before. -/
theorem State.thread_modThreads_cases (s : State) (wg : Nat) (l : List Nat) (f : Thread → Thread) (wg' n : Nat) :
    (s.modThreads wg l f).thread wg' n = f (s.thread wg' n) ∨ (s.modThreads wg l f).thread wg' n = s.thread wg' n := by
  by_cases h : ∀ u ∈ l, threadKey wg' n ≠ threadKey wg u
  · exact .inr (s.thread_modThreads_other wg l f wg' n h)
  · obtain ⟨u, hu, hk⟩ := threadKey_inj h
    left
    rw [State.thread_of_key hk, State.thread_of_key hk, State.thread_modThreads, if_pos hu]

theorem State.modThreads_only (s : State) (wg : Nat) (l : List Nat) (f : Thread → Thread) : ∃ threads, s.modThreads wg l f = { s with threads } :=
  ⟨_, s.modThreads_eq wg l f⟩

theorem State.upToStatus_modThreads (s : State) (wg : Nat) (l : List Nat) (status : TStatus) :
    UpToStatus s (s.modThreads wg l (fun t => { t with status })) := by
  intro wg' n
  rcases s.thread_modThreads_cases wg l (fun t => { t with status }) wg' n with h | h
  · exact ⟨status, h⟩
  · exact ⟨_, h⟩

theorem State.upToStatus_file (s : State) (wg core part : Nat) (pc : VA) (tids : List Nat) :
    UpToStatus s (s.file wg core part pc tids) := by
  obtain ⟨bins, nextId, h⟩ := s.file_eq wg core part pc tids
  rw [h]
  exact (s.upToStatus_modThreads wg tids .filed).trans (.of_threads rfl)

/-! Splitting a group (spec 02, R31). -/

/-- Only groups, bins and the status of threads differ. -/
def Regrouped (s t : State) : Prop := UpToStatus s t ∧ ∃ threads groups bins nextId, t = { s with threads, groups, bins, nextId }

theorem Regrouped.refl (s : State) : Regrouped s s := ⟨.refl s, s.threads, s.groups, s.bins, s.nextId, rfl⟩

theorem Regrouped.trans {s t u : State} (h : Regrouped s t) (h' : Regrouped t u) : Regrouped s u := by
  obtain ⟨hst, _, _, _, _, rfl⟩ := h
  obtain ⟨htu, threads, groups, bins, nextId, rfl⟩ := h'
  exact ⟨hst.trans htu, threads, groups, bins, nextId, rfl⟩

theorem Regrouped.of_groups {s t : State} (h : ∃ groups nextId, t = { s with groups, nextId }) : Regrouped s t := by
  obtain ⟨groups, nextId, rfl⟩ := h
  exact ⟨.of_threads rfl, s.threads, groups, s.bins, nextId, rfl⟩

theorem State.regrouped_file (s : State) (wg core part : Nat) (pc : VA) (tids : List Nat) : Regrouped s (s.file wg core part pc tids) := by
  refine ⟨s.upToStatus_file wg core part pc tids, ?_⟩
  obtain ⟨bins, nextId, h⟩ := s.file_eq wg core part pc tids
  obtain ⟨threads, ht⟩ := s.modThreads_only wg tids (fun t => { t with status := .filed })
  rw [h, ht]
  exact ⟨threads, s.groups, bins, nextId, rfl⟩

theorem State.addGroup_eq (s : State) (wg core part : Nat) (members : List Nat) (drawn : Bool) :
    ∃ groups nextId, s.addGroup wg core part members drawn = { s with groups, nextId } := by
  unfold State.addGroup
  split
  · exact ⟨s.groups, s.nextId, rfl⟩
  · exact ⟨_, _, rfl⟩

theorem State.regrouped_split (s : State) (e : Env) (stay go : List Nat) (pc : VA) : Regrouped s (s.split e stay go pc) := by
  unfold State.split
  split
  · exact .refl s
  · dsimp only
    split
    · exact (Regrouped.of_groups ⟨_, _, rfl⟩).trans (.of_groups (State.addGroup_eq ..))
    · exact (Regrouped.of_groups ⟨_, _, rfl⟩).trans (State.regrouped_file ..)

theorem State.groupCount_modGroup (s : State) (id core part : Nat) {f : Group → Group} (hf : ∀ x, (f x).core = x.core ∧ (f x).part = x.part) :
    (s.modGroup id f).groupCount core part = s.groupCount core part := by
  unfold State.groupCount State.modGroup mapIf
  dsimp only
  rw [List.filter_map, List.length_map]
  congr 2
  funext x
  dsimp only [Function.comp]
  split
  · rw [(hf x).1, (hf x).2]
  · rfl

theorem State.mem_groups_modGroup {s : State} {x : Group} (h : x ∈ s.groups) (f : Group → Group) : f x ∈ (s.modGroup x.id f).groups :=
  List.mem_map.2 ⟨x, h, if_pos (beq_self_eq_true x.id)⟩

/-- A group divides: the record keeps those that stay, and the others have one of their own where one is free. -/
theorem State.groups_split (s : State) (e : Env) {stay go : List Nat} (pc : VA) {x : Group} (hx : x ∈ s.groups) (hid : x.id = e.g.id)
    (hstay : stay ≠ []) (hgo : go ≠ []) :
    (∃ y ∈ (s.split e stay go pc).groups, y.id = e.g.id ∧ y.members = stay) ∧
    (s.groupCount e.g.core e.g.part < Config.groupRecords → ∃ y ∈ (s.split e stay go pc).groups, y.wg = e.w.id ∧ y.members = go) := by
  have hne : (stay.isEmpty || go.isEmpty) = false := by simp [hstay, hgo]
  have hgone : go.isEmpty = false := by simp [hgo]
  have hcount := s.groupCount_modGroup e.g.id e.g.core e.g.part (f := fun g => { g with members := stay, stamp := s.clock }) (fun _ => ⟨rfl, rfl⟩)
  have hmem := State.mem_groups_modGroup hx (fun g => { g with members := stay, stamp := s.clock })
  rw [show s.modGroup x.id = s.modGroup e.g.id by rw [hid]] at hmem
  unfold State.split
  rw [if_neg (by rw [hne]; exact Bool.false_ne_true)]
  dsimp only
  rw [hcount]
  split
  · unfold State.addGroup
    rw [if_neg (by rw [hgone]; exact Bool.false_ne_true)]
    exact ⟨⟨_, List.mem_append_left _ hmem, hid, rfl⟩, fun _ => ⟨_, List.mem_append_right _ List.mem_cons_self, rfl, rfl⟩⟩
  next hfull =>
    refine ⟨⟨{ x with members := stay, stamp := s.clock }, ?_, hid, rfl⟩, fun h => absurd h hfull⟩
    obtain ⟨bins, nextId, hf⟩ := (s.modGroup e.g.id (fun g => { g with members := stay, stamp := s.clock })).file_eq e.w.id e.g.core e.g.part pc go
    rw [hf]
    show _ ∈ (State.modThreads ..).groups
    rw [State.modThreads_groups]
    exact hmem

/-! Dividing a group at a transfer of control (spec 02, R31). -/

section
variable {s : State} {e : Env} {g : Guard}

/-- The mark that a division leaves in a thread. -/
def Thread.addMark (t : Thread) (mark : Option VA) : Thread :=
  { t with reconv := match mark with | some m => if t.reconv.contains m then t.reconv else m :: t.reconv | none => t.reconv }

/-- The group before it splits: the taking threads are at their new places and the others at the next word. -/
def State.divided (s : State) (e : Env) (take off : List Nat) (back : Bool) (go : Thread → Thread) : State :=
  let u := ((s.modThreads e.w.id e.g.members (fun t => t.addMark (if off.isEmpty || take.isEmpty then none else s.reconvOf e))).modThreads
    e.w.id take go).modThreads e.w.id off Thread.next
  if back && !take.isEmpty then u.modGroup e.g.id (fun g => { g with stamp := u.clock }) else u

theorem State.divide_eq (s : State) (e : Env) (take off : List Nat) (back : Bool) (go : Thread → Thread) :
    s.divide e take off back go = ((s.divided e take off back go).split e take off (s.iaddr e + 8)).progress := by
  have hmark (mark : Option VA) : (fun t : Thread => t.addMark mark) = (fun t => match mark with
      | some m => { t with reconv := if t.reconv.contains m then t.reconv else m :: t.reconv }
      | none => t) := by
    cases mark <;> rfl
  unfold State.divided
  rw [hmark]
  rfl

theorem State.divided_eq (s : State) (e : Env) (take off : List Nat) (back : Bool) (go : Thread → Thread) :
    ∃ threads groups, s.divided e take off back go = { s with threads, groups } := by
  obtain ⟨_, h1⟩ := s.modThreads_only e.w.id e.g.members (fun t => t.addMark (if off.isEmpty || take.isEmpty then none else s.reconvOf e))
  obtain ⟨_, h2⟩ := (s.modThreads e.w.id e.g.members (fun t => t.addMark (if off.isEmpty || take.isEmpty then none else s.reconvOf e))).modThreads_only
    e.w.id take go
  obtain ⟨_, h3⟩ := ((s.modThreads e.w.id e.g.members (fun t => t.addMark (if off.isEmpty || take.isEmpty then none else s.reconvOf e))).modThreads
    e.w.id take go).modThreads_only e.w.id off Thread.next
  unfold State.divided
  dsimp only
  split
  · rw [h3, h2, h1]; exact ⟨_, _, rfl⟩
  · rw [h3, h2, h1]; exact ⟨_, _, rfl⟩

/-- A member's place after a division, before the group splits. -/
theorem State.thread_divided (s : State) (e : Env) (take off : List Nat) (back : Bool) (go : Thread → Thread) (n : Nat) :
    ∃ mark, (s.divided e take off back go).thread e.w.id n =
      (fun y => if n ∈ off then y.next else y) ((fun y => if n ∈ take then go y else y)
        (if n ∈ e.g.members then (s.thread e.w.id n).addMark mark else s.thread e.w.id n)) := by
  refine ⟨if off.isEmpty || take.isEmpty then none else s.reconvOf e, ?_⟩
  unfold State.divided
  dsimp only
  split
  · rw [State.thread_modGroup, State.thread_modThreads, State.thread_modThreads, State.thread_modThreads]
  · rw [State.thread_modThreads, State.thread_modThreads, State.thread_modThreads]

/-- A division changes threads, groups and bins. -/
theorem State.divide_only (s : State) (e : Env) (take off : List Nat) (back : Bool) (go : Thread → Thread) :
    ∃ threads groups bins nextId, s.divide e take off back go = { s with threads, groups, bins, nextId } := by
  obtain ⟨_, _, hd⟩ := s.divided_eq e take off back go
  obtain ⟨-, threads, groups, bins, nextId, hs⟩ := (s.divided e take off back go).regrouped_split e take off (s.iaddr e + 8)
  rw [State.divide_eq, hs, hd]
  exact ⟨threads, _, bins, nextId, rfl⟩

/-- A member after a division: marked, and at its new place or at the next word. -/
theorem State.thread_divide (s : State) (e : Env) (take off : List Nat) (back : Bool) (go : Thread → Thread) {n : Nat} (hn : n ∈ e.g.members) :
    ∃ mark status, (s.divide e take off back go).thread e.w.id n =
      { (fun y : Thread => if n ∈ off then y.next else y) ((fun y => if n ∈ take then go y else y) ((s.thread e.w.id n).addMark mark)) with status } := by
  obtain ⟨mark, hd⟩ := s.thread_divided e take off back go n
  obtain ⟨hst, -⟩ := (s.divided e take off back go).regrouped_split e take off (s.iaddr e + 8)
  obtain ⟨status, hs⟩ := hst e.w.id n
  rw [if_pos hn] at hd
  refine ⟨mark, status, ?_⟩
  rw [State.divide_eq, State.thread_progress, hs, hd]

theorem State.groups_divided {take off : List Nat} {back : Bool} {go : Thread → Thread} (hg : e.g ∈ s.groups) :
    (∃ x ∈ (s.divided e take off back go).groups, x.id = e.g.id) ∧
    ∀ core part, (s.divided e take off back go).groupCount core part = s.groupCount core part := by
  have hgroups (wg : Nat) (l : List Nat) (f : Thread → Thread) (s : State) : ∀ core part, (s.modThreads wg l f).groupCount core part =
      s.groupCount core part := fun core part => by rw [State.groupCount, State.modThreads_groups]; rfl
  unfold State.divided
  dsimp only
  split
  · refine ⟨⟨_, State.mem_groups_modGroup (s := State.modThreads ..) (by simpa using hg) _, rfl⟩, fun core part => ?_⟩
    refine (State.groupCount_modGroup _ _ _ _ ?_).trans ?_
    · exact fun _ => ⟨rfl, rfl⟩
    · rw [hgroups, hgroups, hgroups]
  · exact ⟨⟨e.g, by simpa using hg, rfl⟩, fun core part => by rw [hgroups, hgroups, hgroups]⟩

/-- Each part of a divided group has a record, where one is free. -/
theorem State.groups_divide {take off : List Nat} (back : Bool) (go : Thread → Thread) (hg : e.g ∈ s.groups) (ht : take ≠ []) (ho : off ≠ []) :
    (∃ x ∈ (s.divide e take off back go).groups, x.id = e.g.id ∧ x.members = take) ∧
    (s.groupCount e.g.core e.g.part < Config.groupRecords →
      ∃ x ∈ (s.divide e take off back go).groups, x.wg = e.w.id ∧ x.members = off) := by
  obtain ⟨⟨x, hx, hid⟩, hcount⟩ := State.groups_divided (take := take) (off := off) (back := back) (go := go) hg
  obtain ⟨⟨y, hy, hyid, hym⟩, hroom⟩ := (s.divided e take off back go).groups_split e (s.iaddr e + 8) hx hid ht ho
  rw [State.divide_eq]
  refine ⟨⟨_, List.mem_map.2 ⟨y, hy, rfl⟩, hyid, hym⟩, fun hlt => ?_⟩
  obtain ⟨z, hz, hzwg, hzm⟩ := hroom (by rw [hcount]; exact hlt)
  exact ⟨_, List.mem_map.2 ⟨z, hz, rfl⟩, hzwg, hzm⟩

theorem State.not_mem_offLanes {n : Nat} (h : n ∈ s.lanes e g) : n ∉ s.offLanes e g :=
  fun ho => (State.mem_offLanes.1 ho).2 ((s.mem_lanes e g n).1 h).2

theorem State.mem_off_or_lanes {n : Nat} (h : n ∈ e.g.members) : n ∈ s.lanes e g ∨ n ∈ s.offLanes e g := by
  by_cases hg : (s.thread e.w.id n).guarded g = true
  · exact .inl ((s.mem_lanes e g n).2 ⟨h, hg⟩)
  · exact .inr (State.mem_offLanes.2 ⟨h, hg⟩)

/-! Where control goes, and the traps (spec 03, R57, R58, R78). -/

/-- A target that is no header, if it is none. -/
def State.badAt (s : State) (e : Env) (a : VA) : List (VA × Fetched) :=
  match s.atHeader e a with | .inl f => [(a, f)] | .inr _ => []

theorem State.badAt_of_header {a : VA} {h : Header} (hh : s.atHeader e a = .inr h) : s.badAt e a = [] := by
  simp only [State.badAt, hh]

theorem State.badAt_of_not {a : VA} {f : Fetched} (hh : s.atHeader e a = .inl f) : s.badAt e a = [(a, f)] := by
  simp only [State.badAt, hh]

theorem State.reconvBad_of_some {take off : List Nat} {m : VA} (ht : take ≠ []) (ho : off ≠ []) (hm : s.reconvOf e = some m) :
    s.reconvBad e take off = s.badAt e m := by
  have hne : (off.isEmpty || take.isEmpty) = false := by simp [ht, ho]
  cases hx : s.atHeader e m <;> simp only [State.reconvBad, State.badAt, hne, Bool.false_eq_true, if_false, hm, hx]

theorem State.reconvBad_of_none {take off : List Nat} (h : off = [] ∨ take = [] ∨ s.reconvOf e = none) : s.reconvBad e take off = [] := by
  have hn : (if off.isEmpty || take.isEmpty then none else s.reconvOf e) = none := by
    rcases h with h | h | h <;> simp [h]
  simp only [State.reconvBad, hn]

/-- A division whose mark is a header, or that leaves none, meets no bad target. -/
theorem State.reconvBad_nil {take off : List Nat} (h : off ≠ [] → ∀ m, s.reconvOf e = some m → ∃ h, s.atHeader e m = .inr h) :
    s.reconvBad e take off = [] := by
  by_cases ho : off = []
  · exact State.reconvBad_of_none (.inl ho)
  · by_cases ht : take = []
    · exact State.reconvBad_of_none (.inr (.inl ht))
    · cases hm : s.reconvOf e with
      | none => exact State.reconvBad_of_none (.inr (.inr hm))
      | some m =>
        obtain ⟨_, hh⟩ := h ho m hm
        rw [State.reconvBad_of_some ht ho hm, State.badAt_of_header hh]

theorem State.transfer_nil (s : State) (e : Env) (depth : Bool) (go : Out) :
    s.transfer e [] depth go = if depth then .next (s.takeTrap e { code := 0x16 }) else go := rfl

/-- The first of some bad targets is taken where none of the others has a lower code. -/
theorem lowestBad_cons {b : VA × Fetched} {l : List (VA × Fetched)} (h : ∀ x ∈ l, b.2.code ≤ x.2.code) : lowestBad (b :: l) = some b := by
  have keep (l : List (VA × Fetched)) (h : ∀ x ∈ l, b.2.code ≤ x.2.code) :
      l.foldl (fun r b => match r with | none => some b | some a => if b.2.code < a.2.code then some b else r) (some b) = some b := by
    induction l with
    | nil => rfl
    | cons x l ih =>
      rw [List.foldl_cons]
      dsimp only
      rw [if_neg (Nat.not_lt.2 (h x List.mem_cons_self))]
      exact ih (fun y hy => h y (List.mem_cons_of_mem _ hy))
  exact keep l h

theorem State.transfer_of_word {bads : List (VA × Fetched)} {a : VA} {w : Code} (depth : Bool) (go : Out)
    (h : lowestBad bads = some (a, .word w)) :
    s.transfer e bads depth go = .next (s.takeTrap e { code := 0x02, daddr := a.toNat, fetch := true }) := by
  have hlow : (depth && decide (0x16 < (Fetched.word w).code)) = false := by cases depth <;> rfl
  simp only [State.transfer, h, hlow, Bool.false_eq_true, if_false]
  rfl

theorem lowestBad_mem {l : List (VA × Fetched)} {b : VA × Fetched} (h : lowestBad l = some b) : b ∈ l := by
  have keep (l : List (VA × Fetched)) (r : Option (VA × Fetched))
      (h : l.foldl (fun r b => match r with | none => some b | some a => if b.2.code < a.2.code then some b else r) r = some b) :
      b ∈ l ∨ r = some b := by
    induction l generalizing r with
    | nil => exact .inr h
    | cons x l ih =>
      rcases ih _ h with hm | hr
      · exact .inl (List.mem_cons_of_mem _ hm)
      · cases r with
        | none => exact .inl (Option.some.inj hr ▸ List.mem_cons_self)
        | some a =>
          dsimp only at hr
          split at hr
          · exact .inl (Option.some.inj hr ▸ List.mem_cons_self)
          · exact .inr hr
  exact (keep l none h).resolve_right (fun h => by cases h)

/-- CALL_DEPTH is taken where every bad target has a higher code. -/
theorem State.transfer_of_depth {bads : List (VA × Fetched)} (go : Out) (h : ∀ x ∈ bads, 0x16 < x.2.code) :
    s.transfer e bads true go = .next (s.takeTrap e { code := 0x16 }) := by
  cases hl : lowestBad bads with
  | none => simp only [State.transfer, hl, if_true]
  | some b =>
    have hlt : (true && decide (0x16 < b.2.code)) = true := by simpa using h b (lowestBad_mem hl)
    simp only [State.transfer, hl, hlt, if_true]

/-- A branch's effect once its checks have passed and a guard holds. -/
theorem Issuable.branchOp {i : Instr} (h : Issuable s e g i) (l : s.someLane e g) (target : Env → VA) (call : Bool) :
    branchOp g i s target call =
      s.transfer e (s.badAt e (target e) ++ s.reconvBad e (s.lanes e g) (s.offLanes e g))
        (call && (s.lanes e g).any (fun t => 16 ≤ (s.thread e.w.id t).stack.length))
        (.next (s.divide e (s.lanes e g) (s.offLanes e g) ((target e).toNat ≤ (s.iaddr e).toNat)
          (fun t => ({ t with stack := if call then (s.iaddr e + 8) :: t.stack else t.stack }).goto (target e)))) := by
  have hne : (s.lanes e g).isEmpty = false := by simpa using l
  unfold Machine.branchOp
  rw [h.issue]
  simp only [hne, Bool.false_eq_true, if_false]
  rfl

end

/-! Returns (spec 10, R293). -/

section
variable {s : State} {e : Env} {g : Guard}

/-- A thread of a `ret` that goes elsewhere than its leader is filed at its own return address. -/
def State.fileBack (e : Env) (s : State) (t : Nat) : State :=
  (s.modThread e.w.id t Thread.popped).file e.w.id e.g.core e.g.part ((s.modThread e.w.id t Thread.popped).thread e.w.id t).pc [t]

theorem State.fileBack_only (e : Env) (s : State) (t : Nat) : ∃ threads groups bins nextId, s.fileBack e t = { s with threads, groups, bins, nextId } := by
  obtain ⟨-, threads, groups, bins, nextId, h⟩ := (s.modThread e.w.id t Thread.popped).regrouped_file e.w.id e.g.core e.g.part
    ((s.modThread e.w.id t Thread.popped).thread e.w.id t).pc [t]
  unfold State.fileBack
  rw [h]
  exact ⟨threads, groups, bins, nextId, rfl⟩

theorem State.foldl_fileBack_only (e : Env) (l : List Nat) (s : State) :
    ∃ threads groups bins nextId, l.foldl (State.fileBack e) s = { s with threads, groups, bins, nextId } := by
  induction l generalizing s with
  | nil => exact ⟨s.threads, s.groups, s.bins, s.nextId, rfl⟩
  | cons t l ih =>
    obtain ⟨_, _, _, _, h⟩ := s.fileBack_only e t
    obtain ⟨threads, groups, bins, nextId, h'⟩ := ih (s.fileBack e t)
    rw [List.foldl_cons, h', h]
    exact ⟨threads, groups, bins, nextId, rfl⟩

theorem Thread.popped_status (x : Thread) (status : TStatus) : ∃ st, ({ x with status } : Thread).popped = { x.popped with status := st } := by
  cases hs : x.stack with
  | nil => exact ⟨status, by simp only [Thread.popped, hs]⟩
  | cons a r => exact ⟨status, by simp only [Thread.popped, hs, Thread.goto]⟩

theorem State.thread_fileBack (e : Env) (s : State) (t n : Nat) :
    ∃ status, (s.fileBack e t).thread e.w.id n = { (if n = t then (s.thread e.w.id n).popped else s.thread e.w.id n) with status } := by
  obtain ⟨status, h⟩ := (s.modThread e.w.id t Thread.popped).upToStatus_file e.w.id e.g.core e.g.part
    ((s.modThread e.w.id t Thread.popped).thread e.w.id t).pc [t] e.w.id n
  refine ⟨status, ?_⟩
  unfold State.fileBack
  rw [h]
  by_cases hn : n = t
  · subst hn
    rw [if_pos rfl, State.thread_modThread]
  · rw [if_neg hn, State.thread_modThread_of_ne _ _ (threadKey_ne hn)]

theorem State.thread_foldl_fileBack (e : Env) (l : List Nat) (hl : l.Nodup) (s : State) (n : Nat) :
    ∃ status, (l.foldl (State.fileBack e) s).thread e.w.id n =
      { (if n ∈ l then (s.thread e.w.id n).popped else s.thread e.w.id n) with status } := by
  induction l generalizing s with
  | nil => exact ⟨_, rfl⟩
  | cons t l ih =>
    obtain ⟨htl, hl⟩ := List.nodup_cons.1 hl
    obtain ⟨st, h⟩ := s.thread_fileBack e t n
    obtain ⟨st', h'⟩ := ih hl (s.fileBack e t)
    rw [List.foldl_cons, h', h]
    by_cases hn : n = t
    · subst hn
      rw [if_neg htl, if_pos rfl, if_pos List.mem_cons_self]
      exact ⟨st', rfl⟩
    · rw [if_neg hn]
      by_cases hm : n ∈ l
      · obtain ⟨st'', hp⟩ := Thread.popped_status (s.thread e.w.id n) st
        rw [if_pos hm, if_pos (List.mem_cons_of_mem _ hm), hp]
        exact ⟨st', rfl⟩
      · rw [if_neg hm, if_neg (fun hc => (List.mem_cons.1 hc).elim hn hm)]
        exact ⟨st', rfl⟩

/-- The leader's return address among the threads that take a `ret`. -/
def State.retDest (s : State) (e : Env) (g : Guard) : VA :=
  ((s.thread e.w.id ((s.lanes e g).foldl min ((s.lanes e g).headD 0))).back).getD 0

/-- The threads that return where the leader does, and the others. -/
def State.retSame (s : State) (e : Env) (g : Guard) : List Nat := (s.lanes e g).filter (fun t => (s.thread e.w.id t).back == some (s.retDest e g))
def State.retOthers (s : State) (e : Env) (g : Guard) : List Nat := (s.lanes e g).filter (fun t => (s.thread e.w.id t).back != some (s.retDest e g))

/-- The state after a `ret` whose addresses are headers. -/
def State.returned (s : State) (e : Env) (g : Guard) : State :=
  ((dedup (s.retOthers e g)).foldl (State.fileBack e) (s.divide e (s.retSame e g) (s.offLanes e g)
    ((s.retDest e g).toNat ≤ (s.iaddr e).toNat) Thread.popped)).modGroup e.g.id
      (fun x => { x with members := x.members.filter (fun t => !(s.retOthers e g).contains t) })

theorem Issuable.ret {f : FC} (h : Issuable s e g (.ret g f)) (l : s.someLane e g) : exec (.ret g f) s =
    s.transfer e (s.badReturns e (s.lanes e g) ++ s.reconvBad e (s.retSame e g) (s.offLanes e g))
      ((s.lanes e g).any (fun t => (s.thread e.w.id t).back.isNone)) (.next (s.returned e g)) := by
  have hne : (s.lanes e g).isEmpty = false := by simpa using l
  show execRet g f s = _
  unfold execRet
  rw [h.issue]
  simp only [hne, Bool.false_eq_true, if_false]
  rfl

theorem State.returned_only (s : State) (e : Env) (g : Guard) :
    ∃ threads groups bins nextId, s.returned e g = { s with threads, groups, bins, nextId } := by
  obtain ⟨_, _, _, _, hd⟩ := s.divide_only e (s.retSame e g) (s.offLanes e g) ((s.retDest e g).toNat ≤ (s.iaddr e).toNat) Thread.popped
  obtain ⟨threads, groups, bins, nextId, hf⟩ := State.foldl_fileBack_only e (dedup (s.retOthers e g)) (s.divide e (s.retSame e g) (s.offLanes e g)
    ((s.retDest e g).toNat ≤ (s.iaddr e).toNat) Thread.popped)
  unfold State.returned
  rw [hf, hd]
  exact ⟨threads, _, bins, nextId, rfl⟩

theorem Thread.popped_regs (x : Thread) : x.popped.vregs = x.vregs ∧ x.popped.preds = x.preds := by
  unfold Thread.popped
  cases x.stack with
  | nil => exact ⟨rfl, rfl⟩
  | cons a r => exact ⟨rfl, rfl⟩

theorem Thread.popped_of_stack {x : Thread} {a : VA} {r : List VA} (h : x.stack = a :: r) :
    x.popped.pc = a ∧ x.popped.left = 0 ∧ x.popped.stack = r := by
  unfold Thread.popped
  rw [h]
  exact ⟨rfl, rfl, rfl⟩

/-- A member after a `ret`: returned where its guard holds, and at the next word where not. -/
theorem State.thread_returned {n : Nat} (hn : n ∈ e.g.members) : ∃ mark status, (s.returned e g).thread e.w.id n =
    { (if n ∈ s.lanes e g then ((s.thread e.w.id n).addMark mark).popped else ((s.thread e.w.id n).addMark mark).next) with status } := by
  obtain ⟨mark, st, hd⟩ := s.thread_divide e (s.retSame e g) (s.offLanes e g) ((s.retDest e g).toNat ≤ (s.iaddr e).toNat) Thread.popped hn
  obtain ⟨st', hf⟩ := State.thread_foldl_fileBack e (dedup (s.retOthers e g)) (nodup_dedup _) (s.divide e (s.retSame e g) (s.offLanes e g)
    ((s.retDest e g).toNat ≤ (s.iaddr e).toNat) Thread.popped) n
  dsimp only at hd
  refine ⟨mark, st', ?_⟩
  unfold State.returned
  rw [State.thread_modGroup, hf, hd]
  by_cases hl : n ∈ s.lanes e g
  · rw [if_neg (State.not_mem_offLanes hl), if_pos hl]
    by_cases hb : ((s.thread e.w.id n).back == some (s.retDest e g)) = true
    · have hs : n ∈ s.retSame e g := List.mem_filter.2 ⟨hl, hb⟩
      have ho : n ∉ dedup (s.retOthers e g) := by
        rw [mem_dedup]
        intro ho
        have := (List.mem_filter.1 ho).2
        simp [bne, hb] at this
      rw [if_pos hs, if_neg ho]
    · have hs : n ∉ s.retSame e g := fun hs => hb (List.mem_filter.1 hs).2
      have ho : n ∈ dedup (s.retOthers e g) := (mem_dedup _ _).2 (List.mem_filter.2 ⟨hl, by simp [bne, hb]⟩)
      rw [if_neg hs, if_pos ho]
      obtain ⟨_, hp⟩ := Thread.popped_status ((s.thread e.w.id n).addMark mark) st
      rw [hp]
  · have hs : n ∉ s.retSame e g := fun hs => hl (List.mem_filter.1 hs).1
    have ho : n ∉ dedup (s.retOthers e g) := fun ho => hl (List.mem_filter.1 ((mem_dedup _ _).1 ho)).1
    rw [if_pos (State.mem_off_or_lanes hn |>.resolve_left hl), if_neg hl, if_neg hs, if_neg ho]

end

end Sys2Proof.Machine

namespace Sys2Proof
open Sys2Proof.Machine

/-- Settles O22: the three branches are one operation with three targets; a `ret` is the same with the addresses of its threads. -/
theorem branchesCallsAndReturns : Obligations.BranchesCallsAndReturns := by
  unfold Obligations.BranchesCallsAndReturns
  refine ⟨?branch, ?ret⟩
  case branch =>
    intro g f s e i target push hi h l
    have hx : exec i s = s.transfer e (s.badAt e target ++ s.reconvBad e (s.lanes e g) (s.offLanes e g))
        (push && (s.lanes e g).any (fun t => 16 ≤ (s.thread e.w.id t).stack.length))
        (.next (s.divide e (s.lanes e g) (s.offLanes e g) (target.toNat ≤ (s.iaddr e).toNat)
          (fun t => ({ t with stack := if push then (s.iaddr e + 8) :: t.stack else t.stack }).goto target))) := by
      rcases hi with ⟨rfl, rfl, rfl⟩ | ⟨rfl, rfl, rfl⟩ | ⟨rfl, rfl, rfl⟩
      · exact (show execBr g f s = _ from h.branchOp l _ false)
      · exact (show execBrc g f s = _ from h.branchOp l _ false)
      · exact (show execCall g f s = _ from h.branchOp l _ true)
    rw [hx]
    refine ⟨fun ⟨_, hh⟩ hdepth hrec => ?_, fun w hw hrec => ?_, fun _ m w hh ho hm hw => ?_, fun _ hh hpush hrec hdeep => ?_⟩
    · have hshallow : (push && (s.lanes e g).any (fun t => 16 ≤ (s.thread e.w.id t).stack.length)) = false := by
        cases push with
        | false => rfl
        | true => simpa using hdepth rfl
      rw [State.badAt_of_header hh, State.reconvBad_nil hrec, List.nil_append, State.transfer_nil, hshallow, if_neg Bool.false_ne_true]
      obtain ⟨threads, groups, bins, nextId, hd⟩ := s.divide_only e (s.lanes e g) (s.offLanes e g) (target.toNat ≤ (s.iaddr e).toNat)
        (fun t => ({ t with stack := if push then (s.iaddr e + 8) :: t.stack else t.stack }).goto target)
      have hthread (n : Nat) (hn : n ∈ e.g.members) := s.thread_divide e (s.lanes e g) (s.offLanes e g) (target.toNat ≤ (s.iaddr e).toNat)
        (fun t => ({ t with stack := if push then (s.iaddr e + 8) :: t.stack else t.stack }).goto target) hn
      refine ⟨_, rfl, sameMemory_iod ?_ ?_, ?_, ?_, fun n hn => ?_, fun n hn => ?_, fun n hn => ?_, fun ho => ?_⟩
      · rw [hd]
      · rw [hd]
      · rw [hd]
      · rw [hd]
      · obtain ⟨_, _, ht⟩ := hthread n (State.lanes_sub hn)
        rw [ht]
        simp only [State.not_mem_offLanes hn, hn, if_true, if_false]
        exact ⟨rfl, rfl, rfl⟩
      · obtain ⟨_, _, ht⟩ := hthread n (State.mem_offLanes.1 hn).1
        have hl : n ∉ s.lanes e g := fun hl => State.not_mem_offLanes hl hn
        rw [ht]
        simp only [hl, hn, if_true, if_false]
        exact ⟨rfl, rfl⟩
      · obtain ⟨_, _, ht⟩ := hthread n hn
        rw [ht]
        by_cases hl : n ∈ s.lanes e g
        · simp only [State.not_mem_offLanes hl, hl, if_true, if_false]
          exact ⟨rfl, rfl⟩
        · simp only [hl, State.mem_off_or_lanes hn |>.resolve_left hl, if_true, if_false]
          exact ⟨rfl, rfl⟩
      · exact State.groups_divide _ _ (State.issuer_spec h.issuer).1 l ho
    · rw [State.badAt_of_not hw, List.singleton_append]
      exact State.transfer_of_word _ _ (lowestBad_cons hrec)
    · rw [State.badAt_of_header hh, State.reconvBad_of_some l ho hm, State.badAt_of_not hw]
      exact State.transfer_of_word _ _ rfl
    · have hd : (push && (s.lanes e g).any (fun t => 16 ≤ (s.thread e.w.id t).stack.length)) = true := by
        subst hpush
        simpa using hdeep
      rw [State.badAt_of_header hh, List.nil_append, hd]
      exact State.transfer_of_depth _ hrec
  case ret =>
    intro g f s e h l hbad hrec
    rw [h.ret l, hbad, State.reconvBad_nil hrec, List.nil_append, State.transfer_nil]
    refine ⟨fun ⟨n, hn, hs⟩ => ?_, fun hs => ?_⟩
    · rw [if_pos (List.any_eq_true.2 ⟨n, hn, by simp [Thread.back, hs]⟩)]
    · have hall : ¬ ((s.lanes e g).any (fun t => (s.thread e.w.id t).back.isNone)) = true := by
        simpa [Thread.back] using hs
      obtain ⟨threads, groups, bins, nextId, hr⟩ := s.returned_only e g
      rw [if_neg hall]
      refine ⟨_, rfl, sameMemory_iod ?_ ?_, ?_, fun n hn a r hstack => ?_, fun n hn => ?_, fun n hn => ?_⟩
      · rw [hr]
      · rw [hr]
      · rw [hr]
      · obtain ⟨mark, _, ht⟩ := State.thread_returned (g := g) (State.lanes_sub hn)
        rw [ht, if_pos hn]
        exact Thread.popped_of_stack (x := (s.thread e.w.id n).addMark mark) hstack
      · obtain ⟨_, _, ht⟩ := State.thread_returned (g := g) (State.mem_offLanes.1 hn).1
        rw [ht, if_neg (fun hl => State.not_mem_offLanes hl hn)]
        exact ⟨rfl, rfl⟩
      · obtain ⟨mark, _, ht⟩ := State.thread_returned (g := g) hn
        rw [ht]
        split
        · exact Thread.popped_regs ((s.thread e.w.id n).addMark mark)
        · exact ⟨rfl, rfl⟩

end Sys2Proof
end

section
/-! Waits and barriers: a barrier written and read back, its completion, and the threads that arrive (spec 10, R279 to R282, R294). -/

namespace Sys2Proof.Machine

/-! A barrier written and read back. -/

theorem State.launch?_modLaunch (s : State) (id : Nat) (f : Launch → Launch) (h : ∀ x, (f x).id = x.id) :
    (s.modLaunch id f).launch? id = (s.launch? id).map f :=
  find_mapIf _ f (fun x => by rw [h]) _

theorem State.getBar_congr {s t : State} (hw : t.wgs = s.wgs) (hg : t.gangs = s.gangs) (hl : t.launches = s.launches) (w : Workgroup)
    (level n : Nat) : t.getBar w level n = s.getBar w level n := by
  match level with
  | 0 =>
    change listGet Barrier.new ((t.wg? w.id).getD w).bars n = listGet Barrier.new ((s.wg? w.id).getD w).bars n
    rw [State.wg?, State.wg?, hw]
  | 1 => rw [State.getBar_gang, State.getBar_gang, State.gang?, State.gang?, hg]
  | _ + 2 => rw [State.getBar_launch, State.getBar_launch, State.launch?, State.launch?, hl]

/-- The records that a workgroup's barriers stand in. -/
structure State.HasBars (s : State) (w : Workgroup) : Prop where
  wg : (s.wg? w.id).isSome
  gang : (s.gang? w.gang).isSome
  launch : (s.launch? w.launch).isSome

theorem State.hasBars_of_issuer {s : State} {e : Env} (h : s.issuer = some e) : s.HasBars e.w := by
  obtain ⟨-, hw, hg, hl⟩ := State.issuer_spec h
  have hid : e.g.wg = e.w.id := by
    have := List.find?_some hw
    exact (beq_iff_eq.1 this).symm
  exact ⟨by rw [← hid, hw]; rfl, by rw [hg]; rfl, by rw [hl]; rfl⟩

theorem State.HasBars.getBar_putBar {s : State} {w : Workgroup} (h : s.HasBars w) (level n : Nat) (b : Barrier) :
    (s.putBar w level n b).getBar w level n = b := by
  match level with
  | 0 =>
    obtain ⟨x, hx⟩ := Option.isSome_iff_exists.1 h.wg
    have hp := s.wg?_modWg w.id w.id (fun x => { x with bars := listPut Barrier.new x.bars n b }) (fun _ => rfl)
    rw [if_pos rfl, hx] at hp
    change listGet Barrier.new (((s.modWg w.id (fun x => { x with bars := listPut Barrier.new x.bars n b })).wg? w.id).getD w).bars n = b
    rw [hp, Option.map_some, Option.getD_some, listGet_listPut, if_pos rfl]
  | 1 =>
    obtain ⟨x, hx⟩ := Option.isSome_iff_exists.1 h.gang
    have hp := s.gang?_modGang w.gang w.gang (fun x => { x with bars := listPut Barrier.new x.bars n b }) (fun _ => rfl)
    rw [if_pos rfl, hx] at hp
    rw [State.getBar_gang]
    change (((((s.modGang w.gang (fun x => { x with bars := listPut Barrier.new x.bars n b })).gang? w.gang).map (·.bars)).map
      (listGet Barrier.new · n)).getD Barrier.new) = b
    rw [hp, Option.map_some, Option.map_some, Option.map_some, Option.getD_some, listGet_listPut, if_pos rfl]
  | _ + 2 =>
    obtain ⟨x, hx⟩ := Option.isSome_iff_exists.1 h.launch
    have hp := s.launch?_modLaunch w.launch (fun x => { x with bars := listPut Barrier.new x.bars n b }) (fun _ => rfl)
    rw [hx] at hp
    rw [State.getBar_launch]
    change ((((s.modLaunch w.launch (fun x => { x with bars := listPut Barrier.new x.bars n b })).launch? w.launch).map
      (listGet Barrier.new ·.bars n)).getD Barrier.new) = b
    rw [hp, Option.map_some, Option.map_some, Option.getD_some, listGet_listPut, if_pos rfl]

theorem State.HasBars.putBar {s : State} {w : Workgroup} (h : s.HasBars w) (level n : Nat) (b : Barrier) : (s.putBar w level n b).HasBars w := by
  obtain ⟨hw, hg, hl⟩ := h
  match level with
  | 0 =>
    refine ⟨?_, hg, hl⟩
    change ((s.modWg w.id _).wg? w.id).isSome
    rw [s.wg?_modWg w.id w.id (fun x => { x with bars := listPut Barrier.new x.bars n b }) (fun _ => rfl), if_pos rfl, Option.isSome_map]
    exact hw
  | 1 =>
    refine ⟨hw, ?_, hl⟩
    change ((s.modGang w.gang _).gang? w.gang).isSome
    rw [s.gang?_modGang w.gang w.gang (fun x => { x with bars := listPut Barrier.new x.bars n b }) (fun _ => rfl), if_pos rfl, Option.isSome_map]
    exact hg
  | _ + 2 =>
    refine ⟨hw, hg, ?_⟩
    change ((s.modLaunch w.launch _).launch? w.launch).isSome
    rw [s.launch?_modLaunch w.launch (fun x => { x with bars := listPut Barrier.new x.bars n b }) (fun _ => rfl), Option.isSome_map]
    exact hl

theorem State.HasBars.congr {s t : State} {w : Workgroup} (h : s.HasBars w) (hw : t.wgs = s.wgs) (hg : t.gangs = s.gangs)
    (hl : t.launches = s.launches) : t.HasBars w := by
  obtain ⟨hw', hg', hl'⟩ := h
  refine ⟨?_, ?_, ?_⟩
  · rwa [State.wg?, hw]
  · rwa [State.gang?, hg]
  · rwa [State.launch?, hl]

/-- A barrier completes by what its record says and which of its members have exited. -/
theorem State.barDone_congr {s t : State} {l : Launch} {w : Workgroup} {level n : Nat} (hb : t.getBar w level n = s.getBar w level n)
    (hw : t.wgs = s.wgs) (hst : ∀ wg n, (t.thread wg n).status = (s.thread wg n).status) : t.barDone l w level n = s.barDone l w level n := by
  unfold State.barDone State.barWgs
  simp only [hb, hw, hst]

/-- A change of threads that leaves their status leaves every barrier as complete as it was. -/
theorem State.barDone_modThreads (s : State) (wg : Nat) (ts : List Nat) {f : Thread → Thread} (hf : ∀ x, (f x).status = x.status) (l : Launch)
    (w : Workgroup) (level n : Nat) : (s.modThreads wg ts f).barDone l w level n = s.barDone l w level n := by
  refine State.barDone_congr ?_ (State.modThreads_wgs ..) (fun wg' k => ?_)
  · exact State.getBar_congr (State.modThreads_wgs ..) (State.modThreads_gangs ..) (State.modThreads_launches ..) ..
  · rcases s.thread_modThreads_cases wg ts f wg' k with h | h
    · rw [h, hf]
    · rw [h]

theorem State.getBar_modThreads (s : State) (wg : Nat) (ts : List Nat) (f : Thread → Thread) (w : Workgroup) (level n : Nat) :
    (s.modThreads wg ts f).getBar w level n = s.getBar w level n :=
  State.getBar_congr (State.modThreads_wgs ..) (State.modThreads_gangs ..) (State.modThreads_launches ..) ..

/-- A barrier after the attempt to complete it. -/
theorem State.HasBars.getBar_tryBar {s : State} {w : Workgroup} (h : s.HasBars w) (l : Launch) (level n : Nat) :
    (s.tryBar l w level n).getBar w level n = if s.barDone l w level n
      then { s.getBar w level n with phase := (s.getBar w level n).phase + 1, arrived := [], pending := 0 } else s.getBar w level n := by
  unfold State.tryBar
  split
  · exact h.getBar_putBar ..
  · rfl

theorem BarsOnly.thread {s t : State} (h : BarsOnly s t) (wg n : Nat) : t.thread wg n = s.thread wg n := by
  obtain ⟨_, _, _, _, rfl⟩ := h
  rfl

theorem BarsOnly.sameMemory {s t : State} (h : BarsOnly s t) : SameMemory s t := by
  obtain ⟨_, _, _, _, rfl⟩ := h
  exact .refl s

/-! `wait` (spec 10, R294). -/

theorem waitField_isSome (f : FC) (lo : Nat) : (waitField f lo).isSome = f.imm.getLsbD (lo + 6) := by
  unfold waitField
  cases f.imm.getLsbD (lo + 6) <;> rfl

/-- A class's count is low enough, or the class is not named. -/
def lowEnough (f : FC) (lo : Nat) (c : BitVec 6) : Bool := match waitField f lo with | some n => c.toNat ≤ n | none => true

theorem lowEnough_iff (f : FC) (lo : Nat) (c : BitVec 6) :
    lowEnough f lo c = true ↔ (f.imm.getLsbD (lo + 6) = true → c.toNat ≤ (f.imm.extractLsb' lo 6).toNat) := by
  unfold lowEnough waitField
  cases f.imm.getLsbD (lo + 6) <;> simp

theorem waitMet_iff (f : FC) (x : Thread) : waitMet f x = true ↔
    (f.imm.getLsbD 27 = true → x.ld.toNat ≤ (f.imm.extractLsb' 21 6).toNat) ∧ (f.imm.getLsbD 20 = true → x.st.toNat ≤ (f.imm.extractLsb' 14 6).toNat) ∧
    (f.imm.getLsbD 13 = true → x.cp.toNat ≤ (f.imm.extractLsb' 7 6).toNat) ∧ (f.imm.getLsbD 6 = true → x.tl.toNat ≤ (f.imm.extractLsb' 0 6).toNat) := by
  have hmet : waitMet f x = (lowEnough f 21 x.ld && lowEnough f 14 x.st && lowEnough f 7 x.cp && lowEnough f 0 x.tl) := rfl
  rw [hmet, Bool.and_eq_true, Bool.and_eq_true, Bool.and_eq_true, lowEnough_iff, lowEnough_iff, lowEnough_iff, lowEnough_iff,
    and_assoc, and_assoc]

theorem State.acquire_eq (s : State) (core scope : Nat) : ∃ l1, s.acquire core scope = { s with l1 } := by
  unfold State.acquire
  split
  · exact ⟨s.l1, rfl⟩
  · exact ⟨_, rfl⟩

section
variable {s : State} {e : Env} {g : Guard} {f : FC}

theorem Issuable.wait_poisoned (h : Issuable s e g (.wait g f)) {x : Flight}
    (hp : s.pendingPoison e.w.id (s.lanes e g) (f.imm.getLsbD 27) (f.imm.getLsbD 20) = some x) :
    exec (.wait g f) s = .next (s.takeTrap e x.poisonTrap) := by
  show execWait g f s = _
  rw [execWait, h.issue]
  simp only [waitField_isSome, Nat.reduceAdd, hp]

theorem Issuable.wait_of_clean (h : Issuable s e g (.wait g f))
    (hp : s.pendingPoison e.w.id (s.lanes e g) (f.imm.getLsbD 27) (f.imm.getLsbD 20) = none) :
    exec (.wait g f) s = if !(s.lanes e g).all (fun t => waitMet f (s.thread e.w.id t)) then .next (s.hold e)
      else (if (waitField f 7).isSome && !(s.lanes e g).isEmpty then s.acquire e.g.core 4 else s).done e := by
  show execWait g f s = _
  rw [execWait, h.issue]
  simp only [waitField_isSome, Nat.reduceAdd, hp]

/-! `bar` (spec 10, R280). -/

/-- The marks of a thread that arrives without owing. -/
def Thread.arriveMark (key : Nat) (now : Word) (t : Thread) : Thread :=
  match t.hold, t.owed.find? (fun o => o.1 == key) with
  | some _, _ => t
  | none, some o => { t with hold := some (key, o.2), owed := t.owed.filter (fun o => !(o.1 == key)) }
  | none, none => { t with hold := some (key, now) }

theorem Thread.arriveMark_status (key : Nat) (now : Word) (t : Thread) : (t.arriveMark key now).status = t.status := by
  unfold Thread.arriveMark
  split <;> rfl

theorem Thread.arriveMark_fresh {key : Nat} {now : Word} {t : Thread} (hh : t.hold = none) (ho : ∀ o ∈ t.owed, o.1 ≠ key) :
    t.arriveMark key now = { t with hold := some (key, now) } := by
  have hf : t.owed.find? (fun o => o.1 == key) = none := List.find?_eq_none.2 (fun o hm => by simpa using ho o hm)
  simp only [Thread.arriveMark, hh, hf]

/-- The arrived and marked state of a `bar` all of whose threads arrive now. -/
def State.barArrived (s : State) (e : Env) (f : FC) (ts : List Nat) : State :=
  (s.arrive e.w (barLevel f) (barNum f) ts).modThreads e.w.id ts (Thread.arriveMark (barKey f) (s.getBar e.w (barLevel f) (barNum f)).phase)

/-- Threads of `bar` that wait for the phase. -/
def State.barWaits (s : State) (e : Env) (f : FC) (t : Nat) : Bool :=
  match (s.thread e.w.id t).hold with | some h => h.2 == (s.getBar e.w (barLevel f) (barNum f)).phase | none => false

/-- What follows the arrival: threads that need not wait go on. -/
def State.barPass (s : State) (e : Env) (g : Guard) (f : FC) (u : State) : State :=
  let stay := (s.lanes e g).filter (u.barWaits e f)
  let out := (s.lanes e g).filter (fun t => !u.barWaits e f t)
  let v := u.modThreads e.w.id out (fun t => { t with hold := none })
  (if barLevel f == 2 && !out.isEmpty then v.acquire e.g.core 3 else v).passPart e (out ++ s.offLanes e g) stay

theorem Issuable.bar (h : Issuable s e g (.bar g f)) (l : s.someLane e g) (hb : barTrap e f (s.lanes e g) = none)
    (hf : ∀ t ∈ s.lanes e g, (s.thread e.w.id t).hold = none ∧ ∀ o ∈ (s.thread e.w.id t).owed, o.1 ≠ barKey f)
    (hr : ∀ t ∈ s.lanes e g, s.released e.w.id t (barScope (barLevel f)) = true) :
    exec (.bar g f) s =
      .next (s.barPass e g f ((s.barArrived e f (s.lanes e g)).tryBar e.l e.w (barLevel f) (barNum f))).progress := by
  have hfresh : (s.lanes e g).filter (fun t => (s.thread e.w.id t).hold.isNone && !(s.thread e.w.id t).owed.any (fun o => o.1 == barKey f)) =
      s.lanes e g := by
    refine List.filter_eq_self.2 (fun t ht => ?_)
    obtain ⟨hh, ho⟩ := hf t ht
    rw [hh, Bool.and_eq_true]
    exact ⟨rfl, by simpa using ho⟩
  have hne : (s.lanes e g).isEmpty = false := by simpa using l
  have hall : (!(s.lanes e g).all (fun t => s.released e.w.id t (barScope (barLevel f)))) = false := by
    simpa using hr
  show execBar g f s = _
  rw [execBar, h.issue]
  dsimp only
  rw [hfresh, hb]
  simp only [hall, hne, Bool.false_eq_true, if_false, Bool.false_and]
  rfl

/-! What passes a barrier and what stays. -/

theorem State.passPart_nil (s : State) (e : Env) (go : List Nat) : s.passPart e go [] = s.modThreads e.w.id go Thread.next := rfl

theorem State.passPart_only (s : State) (e : Env) (go stay : List Nat) :
    ∃ threads groups bins nextId, s.passPart e go stay = { s with threads, groups, bins, nextId } := by
  obtain ⟨_, hm⟩ := s.modThreads_only e.w.id go Thread.next
  have hpass : Regrouped (s.modThreads e.w.id go Thread.next) (s.passPart e go stay) := by
    unfold State.passPart
    dsimp only
    split
    · exact .refl _
    · split
      · exact .refl _
      · split
        · exact (Regrouped.of_groups ⟨_, _, rfl⟩).trans (.of_groups (State.addGroup_eq ..))
        · exact (Regrouped.of_groups ⟨_, _, rfl⟩).trans (State.regrouped_file ..)
  obtain ⟨-, threads, groups, bins, nextId, hp⟩ := hpass
  rw [hp, hm]
  exact ⟨threads, groups, bins, nextId, rfl⟩

/-- Threads that do not pass are as before. -/
theorem State.thread_passPart_of_not_mem (s : State) (e : Env) {go : List Nat} (stay : List Nat) {n : Nat} (hn : n ∉ go) :
    (s.passPart e go stay).thread e.w.id n = s.thread e.w.id n := by
  have hnext : (s.modThreads e.w.id go Thread.next).thread e.w.id n = s.thread e.w.id n := by rw [State.thread_modThreads, if_neg hn]
  unfold State.passPart
  dsimp only
  split
  · exact hnext
  · split
    · exact hnext
    · split
      · obtain ⟨groups, nextId, ha⟩ := ((s.modThreads e.w.id go Thread.next).modGroup e.g.id (fun g => { g with members := stay })).addGroup_eq
          e.w.id e.g.core e.g.part go false
        rw [ha]
        exact hnext
      · rw [State.thread_file, State.thread_modThreads, if_neg hn]
        exact hnext

theorem State.barPass_of_all_out {u : State} (h : ∀ t ∈ s.lanes e g, u.barWaits e f t = false) (l : s.someLane e g) : s.barPass e g f u =
    (if barLevel f == 2 then (u.modThreads e.w.id (s.lanes e g) (fun t => { t with hold := none })).acquire e.g.core 3
      else u.modThreads e.w.id (s.lanes e g) (fun t => { t with hold := none })).modThreads e.w.id (s.lanes e g ++ s.offLanes e g) Thread.next := by
  have hstay : (s.lanes e g).filter (u.barWaits e f) = [] := List.filter_eq_nil_iff.2 (fun t ht => by simp [h t ht])
  have hout : (s.lanes e g).filter (fun t => !u.barWaits e f t) = s.lanes e g := List.filter_eq_self.2 (fun t ht => by simp [h t ht])
  have hne : (s.lanes e g).isEmpty = false := by simpa using l
  unfold State.barPass
  dsimp only
  rw [hstay, hout, State.passPart_nil, hne, Bool.not_false, Bool.and_true]

theorem State.barPass_of_all_stay {u : State} (h : ∀ t ∈ s.lanes e g, u.barWaits e f t = true) :
    s.barPass e g f u = u.passPart e (s.offLanes e g) (s.lanes e g) := by
  have hstay : (s.lanes e g).filter (u.barWaits e f) = s.lanes e g := List.filter_eq_self.2 (fun t ht => h t ht)
  have hout : (s.lanes e g).filter (fun t => !u.barWaits e f t) = [] := List.filter_eq_nil_iff.2 (fun t ht => by simp [h t ht])
  unfold State.barPass
  dsimp only
  rw [hstay, hout, List.isEmpty_nil, Bool.not_true, Bool.and_false, if_neg Bool.false_ne_true]
  rfl

/-! The arrived state. -/

theorem State.barArrived_hasBars (hs : s.HasBars e.w) (ts : List Nat) : (s.barArrived e f ts).HasBars e.w :=
  (hs.putBar ..).congr (State.modThreads_wgs ..) (State.modThreads_gangs ..) (State.modThreads_launches ..)

theorem State.getBar_barArrived (hs : s.HasBars e.w) (ts : List Nat) : (s.barArrived e f ts).getBar e.w (barLevel f) (barNum f) =
    { s.getBar e.w (barLevel f) (barNum f) with
      arrived := (s.getBar e.w (barLevel f) (barNum f)).arrived ++ ts.map (memberNo e.w (barLevel f)) } :=
  (State.getBar_modThreads ..).trans (hs.getBar_putBar ..)

theorem State.barDone_barArrived (ts : List Nat) : (s.barArrived e f ts).barDone e.l e.w (barLevel f) (barNum f) =
    (s.arrive e.w (barLevel f) (barNum f) ts).barDone e.l e.w (barLevel f) (barNum f) :=
  State.barDone_modThreads _ _ _ (fun _ => Thread.arriveMark_status ..) ..

theorem State.thread_barArrived {ts : List Nat} (hf : ∀ t ∈ ts, (s.thread e.w.id t).hold = none ∧ ∀ o ∈ (s.thread e.w.id t).owed, o.1 ≠ barKey f)
    (n : Nat) : (s.barArrived e f ts).thread e.w.id n = if n ∈ ts
      then { s.thread e.w.id n with hold := some (barKey f, (s.getBar e.w (barLevel f) (barNum f)).phase) } else s.thread e.w.id n := by
  unfold State.barArrived
  rw [State.thread_modThreads, (s.arrive_barsOnly e.w (barLevel f) (barNum f) ts).thread]
  split
  next hn =>
    obtain ⟨hh, ho⟩ := hf n hn
    exact Thread.arriveMark_fresh hh ho
  · rfl

theorem State.thread_barArrived_other {ts : List Nat} {wg n : Nat} (h : ∀ u ∈ ts, threadKey wg n ≠ threadKey e.w.id u) :
    (s.barArrived e f ts).thread wg n = s.thread wg n := by
  unfold State.barArrived
  rw [State.thread_modThreads_other _ _ _ _ _ _ h, (s.arrive_barsOnly e.w (barLevel f) (barNum f) ts).thread]

theorem State.barArrived_sameMemory (ts : List Nat) : SameMemory s (s.barArrived e f ts) :=
  (s.arrive_barsOnly e.w (barLevel f) (barNum f) ts).sameMemory.trans (sameMemory_iod (State.modThreads_mem ..) (State.modThreads_iod ..))

theorem Word.add_one_ne (x : Word) : x ≠ x + 1 := by
  intro h
  bv_omega

/-- A waiting mark of the phase that the barrier is in holds its thread; of an earlier phase it does not. -/
theorem State.barWaits_of_hold {u : State} {t key : Nat} {now : Word} (h : (u.thread e.w.id t).hold = some (key, now)) :
    u.barWaits e f t = (now == (u.getBar e.w (barLevel f) (barNum f)).phase) := by
  simp only [State.barWaits, h]

section
variable (h : Issuable s e g (.bar g f)) (l : s.someLane e g) (hb : barTrap e f (s.lanes e g) = none)
  (hf : ∀ t ∈ s.lanes e g, (s.thread e.w.id t).hold = none ∧ ∀ o ∈ (s.thread e.w.id t).owed, o.1 ≠ barKey f)
  (hr : ∀ t ∈ s.lanes e g, s.released e.w.id t (barScope (barLevel f)) = true)
include h l hb hf hr

/-- The last arrival raises the phase and lets every thread of the group go on. -/
theorem Issuable.bar_completes (hd : (s.arrive e.w (barLevel f) (barNum f) (s.lanes e g)).barDone e.l e.w (barLevel f) (barNum f) = true) :
    Out.Leads (exec (.bar g f) s) (fun t => SameMemory s t ∧
      t.getBar e.w (barLevel f) (barNum f) = { s.getBar e.w (barLevel f) (barNum f) with
        phase := (s.getBar e.w (barLevel f) (barNum f)).phase + 1, arrived := [], pending := 0 } ∧ ThreadsBecome s t e (fun _ x => x.next)) := by
  have hs := State.hasBars_of_issuer h.issuer
  have hdone : (s.barArrived e f (s.lanes e g)).barDone e.l e.w (barLevel f) (barNum f) = true := (State.barDone_barArrived _).trans hd
  have hbar := (State.barArrived_hasBars (f := f) hs (s.lanes e g)).getBar_tryBar e.l (barLevel f) (barNum f)
  rw [if_pos hdone, State.getBar_barArrived hs] at hbar
  have honly := (s.barArrived e f (s.lanes e g)).tryBar_barsOnly e.l e.w (barLevel f) (barNum f)
  rw [h.bar l hb hf hr]
  generalize hu : (s.barArrived e f (s.lanes e g)).tryBar e.l e.w (barLevel f) (barNum f) = u at hbar honly
  have hthread (n : Nat) := (honly.thread e.w.id n).trans (State.thread_barArrived hf n)
  have hout : ∀ t ∈ s.lanes e g, u.barWaits e f t = false := fun t ht => by
    rw [State.barWaits_of_hold (by rw [hthread, if_pos ht]), hbar]
    exact beq_false_of_ne (Word.add_one_ne _)
  rw [State.barPass_of_all_out hout l]
  generalize hv : (if barLevel f == 2 then (u.modThreads e.w.id (s.lanes e g) (fun t => { t with hold := none })).acquire e.g.core 3
    else u.modThreads e.w.id (s.lanes e g) (fun t => { t with hold := none })) = v
  obtain ⟨l1, hv'⟩ : ∃ l1, v = { u.modThreads e.w.id (s.lanes e g) (fun t => { t with hold := none }) with l1 } := by
    subst hv
    split
    · exact State.acquire_eq ..
    · exact ⟨_, rfl⟩
  have hmem : SameMemory u v := by rw [hv']; exact sameMemory_iod (State.modThreads_mem ..) (State.modThreads_iod ..)
  have hvt : v.threads = (u.modThreads e.w.id (s.lanes e g) (fun t => { t with hold := none })).threads := by rw [hv']
  refine ⟨_, rfl, ?_, ?_, fun n hn => ?_, fun wg n hn => ?_⟩
  · exact ((State.barArrived_sameMemory _).trans (honly.sameMemory.trans hmem)).trans
      (sameMemory_iod (State.modThreads_mem ..) (State.modThreads_iod ..))
  · refine Eq.trans (State.getBar_modThreads ..) (Eq.trans (State.getBar_congr ?_ ?_ ?_ ..) hbar)
    · rw [hv']; exact State.modThreads_wgs ..
    · rw [hv']; exact State.modThreads_gangs ..
    · rw [hv']; exact State.modThreads_launches ..
  · have hmv : v.thread e.w.id n = s.thread e.w.id n := by
      rw [State.thread_congr hvt, State.thread_modThreads, hthread]
      split
      next hl =>
        have := (hf n hl).1
        cases hx : s.thread e.w.id n
        simp_all
      · rfl
    rw [State.thread_progress, State.thread_modThreads, if_pos (List.mem_append.2 (State.mem_off_or_lanes hn)), hmv]
  · have hsub : ∀ k ∈ s.lanes e g, threadKey wg n ≠ threadKey e.w.id k := fun k hk => hn k (State.lanes_sub hk)
    have hall : ∀ k ∈ s.lanes e g ++ s.offLanes e g, threadKey wg n ≠ threadKey e.w.id k := fun k hk =>
      (List.mem_append.1 hk).elim (hsub k) (fun ho => hn k (State.mem_offLanes.1 ho).1)
    rw [State.thread_progress, State.thread_modThreads_other _ _ _ _ _ _ hall, State.thread_congr hvt,
      State.thread_modThreads_other _ _ _ _ _ _ hsub, honly.thread, State.thread_barArrived_other hsub]

/-- An arrival that does not complete the phase leaves its threads waiting for it. -/
theorem Issuable.bar_waits (hd : (s.arrive e.w (barLevel f) (barNum f) (s.lanes e g)).barDone e.l e.w (barLevel f) (barNum f) = false) :
    Out.Leads (exec (.bar g f) s) (fun t => SameMemory s t ∧
      t.getBar e.w (barLevel f) (barNum f) = { s.getBar e.w (barLevel f) (barNum f) with
        arrived := (s.getBar e.w (barLevel f) (barNum f)).arrived ++ (s.lanes e g).map (memberNo e.w (barLevel f)) } ∧
      ∀ u ∈ s.lanes e g, t.thread e.w.id u = { s.thread e.w.id u with hold := some (barKey f, (s.getBar e.w (barLevel f) (barNum f)).phase) }) := by
  have hs := State.hasBars_of_issuer h.issuer
  have hbar := State.getBar_barArrived (f := f) hs (s.lanes e g)
  have hstill : (s.barArrived e f (s.lanes e g)).tryBar e.l e.w (barLevel f) (barNum f) = s.barArrived e f (s.lanes e g) := by
    rw [State.tryBar, State.barDone_barArrived, hd, if_neg Bool.false_ne_true]
  have hstay : ∀ t ∈ s.lanes e g, (s.barArrived e f (s.lanes e g)).barWaits e f t = true := fun t ht => by
    rw [State.barWaits_of_hold (by rw [State.thread_barArrived hf, if_pos ht]), hbar]
    exact beq_self_eq_true _
  rw [h.bar l hb hf hr, hstill, State.barPass_of_all_stay hstay]
  obtain ⟨threads, groups, bins, nextId, hp⟩ := (s.barArrived e f (s.lanes e g)).passPart_only e (s.offLanes e g) (s.lanes e g)
  refine ⟨_, rfl, (State.barArrived_sameMemory (e := e) (f := f) (s.lanes e g)).trans (sameMemory_iod ?_ ?_), (State.getBar_congr ?_ ?_ ?_ ..).trans hbar, fun n hn => ?_⟩
  · rw [hp]; rfl
  · rw [hp]; rfl
  · rw [hp]; rfl
  · rw [hp]; rfl
  · rw [hp]; rfl
  · rw [State.thread_progress, State.thread_passPart_of_not_mem _ _ _ (State.not_mem_offLanes hn), State.thread_barArrived hf, if_pos hn]

end

/-! `barx` (spec 10, R280 to R282). -/

/-- The owed mark of a thread that arrives at a phase. -/
def Thread.owe (key : Nat) (phase : Word) (t : Thread) : Thread := { t with owed := (key, phase) :: t.owed.filter (fun o => !(o.1 == key)) }

theorem Thread.owe_status (key : Nat) (phase : Word) (t : Thread) : (t.owe key phase).status = t.status := rfl

theorem State.owes_iff {phase : Word} {ts : List Nat} : (ts.any (fun t => (s.thread e.w.id t).owed.any (fun o => o.1 == barKey f && o.2 == phase))) = true ↔
    ∃ t ∈ ts, (barKey f, phase) ∈ (s.thread e.w.id t).owed := by
  simp only [List.any_eq_true, Bool.and_eq_true, beq_iff_eq]
  constructor
  · rintro ⟨t, ht, ⟨k, p⟩, ho, rfl, rfl⟩
    exact ⟨t, ht, ho⟩
  · rintro ⟨t, ht, ho⟩
    exact ⟨t, ht, _, ho, rfl, rfl⟩

theorem Issuable.barx_rearrive (h : Issuable s e g (.barx g f)) (l : s.someLane e g) (hx : (e.s f.sa).toNat < 2 ^ 24)
    (hb : barTrap e f (s.lanes e g) ≠ some 0x04)
    (ho : ∃ t ∈ s.lanes e g, (barKey f, (s.getBar e.w (barLevel f) (barNum f)).phase) ∈ (s.thread e.w.id t).owed) :
    exec (.barx g f) s = .next (s.takeTrap e { code := 0x13 }) := by
  have hlow : ¬((e.s f.sa).toNat / 2 ^ 24 != 0) = true := by
    rw [bne_iff_ne]
    omega
  change execBarx g f s = _
  rw [execBarx, h.groupOp l]
  dsimp only
  rw [if_neg hlow, if_neg (by simpa using hb), if_pos (State.owes_iff.2 ho)]

/-- A barrier as `barx` leaves it before the phase completes. -/
def State.barxBar (s : State) (e : Env) (f : FC) (ts : List Nat) : Barrier :=
  { s.getBar e.w (barLevel f) (barNum f) with
    arrived := (s.getBar e.w (barLevel f) (barNum f)).arrived ++ ts.map (memberNo e.w (barLevel f))
    pending := (s.getBar e.w (barLevel f) (barNum f)).pending + BitVec.ofNat 24 (e.s f.sa).toNat }

theorem Issuable.barx (h : Issuable s e g (.barx g f)) (l : s.someLane e g) (hx : (e.s f.sa).toNat < 2 ^ 24)
    (hb : barTrap e f (s.lanes e g) = none)
    (ho : ∀ t ∈ s.lanes e g, ¬(barKey f, (s.getBar e.w (barLevel f) (barNum f)).phase) ∈ (s.thread e.w.id t).owed)
    (hsum : (s.getBar e.w (barLevel f) (barNum f)).pending.toNat + (e.s f.sa).toNat < 2 ^ 24)
    (hr : ∀ t ∈ s.lanes e g, s.released e.w.id t (barScope (barLevel f)) = true) :
    exec (.barx g f) s = (State.tryBar ((s.putBar e.w (barLevel f) (barNum f) (s.barxBar e f (s.lanes e g))).modThreads e.w.id (s.lanes e g)
      (Thread.owe (barKey f) (s.getBar e.w (barLevel f) (barNum f)).phase)) e.l e.w (barLevel f) (barNum f)).done e := by
  have hlow : ¬((e.s f.sa).toNat / 2 ^ 24 != 0) = true := by
    rw [bne_iff_ne]
    omega
  have hno : ¬ _ := fun hany => by
    obtain ⟨t, ht, hm⟩ := State.owes_iff.1 hany
    exact ho t ht hm
  have hall : ¬ (!(s.lanes e g).all (fun t => s.released e.w.id t (barScope (barLevel f)))) = true := by
    simpa using hr
  change execBarx g f s = _
  rw [execBarx, h.groupOp l]
  dsimp only
  rw [if_neg hlow, if_neg (by simp [hb]), if_neg hno, if_neg (by simp [hb]), if_neg (by omega), if_neg hall]
  rfl

end

end Sys2Proof.Machine

namespace Sys2Proof
open Sys2Proof.Machine

/-- Settles O25: `wait` by what its threads count, `bar` by whether its arrival completes the phase, `barx` by whether it has arrived. -/
theorem waitsAndBarriers : Obligations.WaitsAndBarriers := by
  unfold Obligations.WaitsAndBarriers
  refine ⟨fun g f s e h => ?wait, fun g f s e h l => ?bar, fun g f s e h l => ?barx⟩
  case wait =>
    refine ⟨fun x hp => h.wait_poisoned hp, fun hp hlow => ?_, fun hp hlow => ?_⟩
    · have hmet : (!(s.lanes e g).all (fun t => waitMet f (s.thread e.w.id t))) = false := by
        simpa using fun n hn => (waitMet_iff f _).2 (hlow n hn)
      rw [h.wait_of_clean hp, hmet, if_neg Bool.false_ne_true]
      obtain ⟨l1, ha⟩ : ∃ l1, (if (waitField f 7).isSome && !(s.lanes e g).isEmpty then s.acquire e.g.core 4 else s) = { s with l1 } := by
        split
        · exact s.acquire_eq e.g.core 4
        · exact ⟨s.l1, rfl⟩
      rw [ha]
      exact ⟨_, rfl, sameMemory_iod (State.modThreads_mem ..) (State.modThreads_iod ..), State.modThreads_wgs .., State.modThreads_flights ..,
        threadsBecome_next rfl⟩
    · have hmet : (!(s.lanes e g).all (fun t => waitMet f (s.thread e.w.id t))) = true := by
        rw [Bool.not_eq_true', Bool.eq_false_iff]
        exact fun hall => hlow (fun n hn => (waitMet_iff f _).1 (List.all_eq_true.1 hall n hn))
      rw [h.wait_of_clean hp, hmet, if_pos rfl]
  case bar => exact fun hb hf hr => ⟨h.bar_completes l hb hf hr, h.bar_waits l hb hf hr⟩
  case barx =>
    refine fun hx => ⟨fun hb ho => h.barx_rearrive l hx hb ho, fun hb ho hsum hr => ?_⟩
    have hs := State.hasBars_of_issuer h.issuer
    rw [h.barx l hx hb ho hsum hr]
    generalize hu : (s.putBar e.w (barLevel f) (barNum f) (s.barxBar e f (s.lanes e g))).modThreads e.w.id (s.lanes e g)
      (Thread.owe (barKey f) (s.getBar e.w (barLevel f) (barNum f)).phase) = u
    have hput := s.putBar_barsOnly e.w (barLevel f) (barNum f) (s.barxBar e f (s.lanes e g))
    have honly := u.tryBar_barsOnly e.l e.w (barLevel f) (barNum f)
    have hbars : u.HasBars e.w := by
      rw [← hu]
      exact (hs.putBar ..).congr (State.modThreads_wgs ..) (State.modThreads_gangs ..) (State.modThreads_launches ..)
    have hbar : u.getBar e.w (barLevel f) (barNum f) = s.barxBar e f (s.lanes e g) := by
      rw [← hu, State.getBar_modThreads]
      exact hs.getBar_putBar ..
    have hdone : u.barDone e.l e.w (barLevel f) (barNum f) =
        (s.putBar e.w (barLevel f) (barNum f) (s.barxBar e f (s.lanes e g))).barDone e.l e.w (barLevel f) (barNum f) := by
      rw [← hu, State.barDone_modThreads _ _ _ (Thread.owe_status _ _)]
    have hmem : SameMemory s u := by
      rw [← hu]
      exact hput.sameMemory.trans (sameMemory_iod (State.modThreads_mem ..) (State.modThreads_iod ..))
    refine ⟨_, rfl, ?_, ⟨fun n hn => ?_, fun wg n hn => ?_⟩, ?_⟩
    · exact (hmem.trans honly.sameMemory).trans (sameMemory_iod (State.modThreads_mem ..) (State.modThreads_iod ..))
    · rw [State.thread_progress, State.thread_advance _ _ _ hn, honly.thread, ← hu, State.thread_modThreads, hput.thread]
      by_cases hl : n ∈ s.lanes e g
      · rw [if_pos hl]
        exact (if_pos hl).symm
      · rw [if_neg hl]
        exact (if_neg hl).symm
    · rw [State.thread_progress, State.thread_advance_other _ _ _ _ hn, honly.thread, ← hu,
        State.thread_modThreads_other _ _ _ _ _ _ (fun k hk => hn k (State.lanes_sub hk)), hput.thread]
    · refine (State.getBar_modThreads ..).trans ((hbars.getBar_tryBar ..).trans ?_)
      rw [hbar, hdone]
      rfl

end Sys2Proof
end

section
/-! The events of threads, bins and power leaves (spec 02, R29, R32; 10, R276, R277, R285; 18, R374). -/

namespace Sys2Proof.Machine

theorem event_of_true {b : Bool} (h : b = true) (t : State) : event b t = .next t.progress := by rw [event, h, if_pos rfl]

theorem event_of_false {b : Bool} (h : b = false) (t : State) : event b t = .refused .notEnabled := by rw [event, h, if_neg Bool.false_ne_true]

/-- An event that is enabled leads where its effect does. -/
theorem event_leads {b : Bool} {t : State} {p : State → Prop} (h : b = true) (hp : p t.progress) : Out.Leads (event b t) p :=
  ⟨_, event_of_true h t, hp⟩

/-! Records found by name. -/

theorem State.bin?_modBins (s : State) (bin : Nat) (f : Bin → Bin) (h : ∀ x, (f x).id = x.id) :
    (mapIf (fun x => x.id == bin) f s.bins).find? (·.id == bin) = (s.bin? bin).map f :=
  find_mapIf _ f (fun x => by rw [h]) _

theorem State.tile?_modTile (s : State) (id : Nat) (f : TileOp → TileOp) (h : ∀ x, (f x).id = x.id) :
    (s.modTile id f).tile? id = (s.tile? id).map f :=
  find_mapIf _ f (fun x => by rw [h]) _

theorem State.engine?_modEngine (s : State) (id : Nat) (f : EngineOp → EngineOp) (h : ∀ x, (f x).id = x.id) :
    (s.modEngine id f).engine? id = (s.engine? id).map f :=
  find_mapIf _ f (fun x => by rw [h]) _

theorem State.engine?_congr {s t : State} (h : t.engines = s.engines) (id : Nat) : t.engine? id = s.engine? id := by
  rw [State.engine?, State.engine?, h]

theorem State.bin_id {s : State} {bin : Nat} {b : Bin} (h : s.bin? bin = some b) : b.id = bin := by
  have := List.find?_some h
  exact beq_iff_eq.1 this

theorem State.die_modDie (s : State) (d k : Nat) (f : Die → Die) : (s.modDie d f).die k = if k = d then f (s.die d) else s.die k :=
  listGet_listPut ..

theorem State.die_progress (s : State) : s.progress.die = s.die := rfl
theorem State.tile?_progress (s : State) : s.progress.tile? = s.tile? := rfl
theorem State.engine?_progress (s : State) : s.progress.engine? = s.engine? := rfl

/-! Filing and drawing. -/

theorem State.file_iod (s : State) (wg core part : Nat) (pc : VA) (tids : List Nat) : (s.file wg core part pc tids).iod = s.iod := by
  obtain ⟨bins, nextId, h⟩ := s.file_eq wg core part pc tids
  rw [h]
  exact State.modThreads_iod ..

theorem State.file_groups (s : State) (wg core part : Nat) (pc : VA) (tids : List Nat) : (s.file wg core part pc tids).groups = s.groups := by
  obtain ⟨bins, nextId, h⟩ := s.file_eq wg core part pc tids
  rw [h]
  exact State.modThreads_groups ..

/-- What a draw leaves in the bins. -/
def State.drawnBins (s : State) (b : Bin) (tids : List Nat) : List Bin :=
  let rest := b.entries.filter (fun x => !tids.contains x.1)
  if rest.isEmpty then s.bins.filter (fun x => !(x.id == b.id))
  else mapIf (fun x => x.id == b.id) (fun x => { x with entries := rest, aged := false, waitAt := none }) s.bins

/-- No thread drawn stays in its bin. -/
theorem State.not_mem_drawnBins {s : State} {b x : Bin} {tids : List Nat} (h : x ∈ s.drawnBins b tids) (hid : x.id = b.id) :
    ∀ n ∈ tids, ∀ y ∈ x.entries, y.1 ≠ n := by
  unfold State.drawnBins at h
  dsimp only at h
  split at h
  · have := (List.mem_filter.1 h).2
    simp [hid] at this
  · obtain ⟨z, -, hz⟩ := List.mem_map.1 h
    by_cases hc : (z.id == b.id) = true
    · rw [if_pos hc] at hz
      subst hz
      rintro n hn y hy rfl
      have := (List.mem_filter.1 hy).2
      simp [hn] at this
    · rw [if_neg hc] at hz
      subst hz
      exact absurd (beq_iff_eq.2 hid) hc

/-- A draw: the threads run in a group of their own, and their bin keeps the rest. -/
theorem State.draw_eq (s : State) (b : Bin) {tids : List Nat} (h : tids ≠ []) : ∃ drawn,
    s.draw b tids = { s.modThreads b.wg tids (fun t => { t with status := .run }) with
      bins := s.drawnBins b tids, nextId := s.nextId + 1
      groups := s.groups ++ [⟨s.nextId, b.wg, b.core, b.part, tids, s.clock, drawn, false, 0, 0, false, []⟩] } := by
  have hne : ¬ tids.isEmpty = true := by simpa using h
  unfold State.draw
  dsimp only
  generalize (s.atEntry b || _) = drawn
  refine ⟨drawn, ?_⟩
  unfold State.addGroup
  rw [if_neg hne, State.modThreads_eq]
  rfl

/-! The event of a group that dissolves (spec 10, R277). -/

theorem State.thread_dissolve (s : State) (w : Workgroup) (g : Group) {n : Nat} (hn : n ∈ g.members) :
    (s.dissolve w g).thread g.wg n = { s.thread g.wg n with status := if s.free w n then .filed else .parked .held } := by
  have hfree : n ∈ g.members.filter (s.free w) ↔ s.free w n = true := by simp [hn]
  have hheld : n ∈ g.members.filter (fun t => !s.free w t) ↔ ¬ s.free w n = true := by simp [hn]
  unfold State.dissolve
  dsimp only
  rw [State.thread_file, State.thread_modThreads, State.thread_modThreads]
  by_cases h : s.free w n = true
  · rw [if_pos (hfree.2 h), if_neg (fun hm => hheld.1 hm h), if_pos h]
    rfl
  · rw [if_neg (fun hm => h (hfree.1 hm)), if_pos (hheld.2 h), if_neg h]
    rfl

theorem State.dissolve_iod (s : State) (w : Workgroup) (g : Group) : (s.dissolve w g).iod = s.iod :=
  (State.file_iod ..).trans (State.modThreads_iod ..)

theorem State.dissolve_groups (s : State) (w : Workgroup) (g : Group) : (s.dissolve w g).groups = s.groups.filter (fun x => !(x.id == g.id)) :=
  (State.file_groups ..).trans (State.modThreads_groups ..)

/-! Leaves (spec 18, R374). -/

/-- A die's bucket after a leave. -/
def Die.grant (d : Die) (r : LeaveReq) (rest : List LeaveReq) : Die := { d with credits := d.credits - r.cost, leaves := rest }

/-- A granted leave: the credits are spent, the request is gone, and what asked for it may go on. -/
def State.leaveGranted (s : State) (die : Nat) (r : LeaveReq) (rest : List LeaveReq) (core : Nat) : State :=
  (((s.modDie die (fun d => d.grant r rest)).modTile r.op (fun o => { o with leave := false })).modEngine
    r.op (fun o => { o with leave := false })).modCore core (fun c => { c with leaveWait := c.leaveWait + (s.clock - r.since) })

section
variable (s : State) (die : Nat) (r : LeaveReq) (rest : List LeaveReq) (core : Nat)

/-- The oldest request is granted or not by its cost; which core counts the wait is the operation's own. -/
theorem execLeaveGrant_of_request (hl : (s.die die).leaves = r :: rest) : ∃ core, execLeaveGrant die s =
    event (die < 8 && (r.cost ≤ (s.die die).credits || (bucketMax < r.cost && (s.die die).credits == bucketMax)))
      (s.leaveGranted die r rest core) := by
  unfold execLeaveGrant
  rw [hl]
  exact ⟨_, rfl⟩

theorem State.leaveGranted_mem : (s.leaveGranted die r rest core).mem = s.mem := by
  simp only [State.leaveGranted, State.modCore_mem, State.modEngine_mem, State.modTile_mem, State.modDie_mem]

theorem State.leaveGranted_threads : (s.leaveGranted die r rest core).threads = s.threads := by
  simp only [State.leaveGranted, State.modCore_threads, State.modEngine_threads, State.modTile_threads, State.modDie_threads]

theorem State.die_leaveGranted :
    (s.leaveGranted die r rest core).die die = (s.die die).grant r rest :=
  (s.die_modDie die die (fun d => d.grant r rest)).trans (if_pos rfl)

theorem State.tile_leaveGranted {o : TileOp} (h : (s.leaveGranted die r rest core).tile? r.op = some o) : o.leave = false := by
  have ht := (s.modDie die (fun d => d.grant r rest)).tile?_modTile r.op
    (fun o => { o with leave := false }) (fun _ => rfl)
  obtain ⟨y, -, rfl⟩ := Option.map_eq_some_iff.1 (ht.symm.trans h)
  rfl

theorem State.engine_leaveGranted {o : EngineOp} (h : (s.leaveGranted die r rest core).engine? r.op = some o) : o.leave = false := by
  have he := ((s.modDie die (fun d => d.grant r rest)).modTile r.op
    (fun o => { o with leave := false })).engine?_modEngine r.op (fun o => { o with leave := false }) (fun _ => rfl)
  obtain ⟨y, -, rfl⟩ := Option.map_eq_some_iff.1 (he.symm.trans h)
  rfl

end

/-- A die's bucket after a refill. -/
def Die.refill (d : Die) : Die := { d with credits := min bucketMax (d.credits + d.pwrcap.toNat / 8), refilled := d.refilled + 1024 }

theorem execPowerCreditRefill_eq (die : Nat) (s : State) :
    execPowerCreditRefill die s = event (die < 8 && (s.die die).refilled + 1024 ≤ s.clock) (s.modDie die Die.refill) := rfl

end Sys2Proof.Machine

namespace Sys2Proof
open Sys2Proof.Machine

/-- Settles O27: each event by its own enabling condition; what files, draws and dissolves a thread is said above. -/
theorem groupsBinsAndPower : Obligations.GroupsBinsAndPower := by
  unfold Obligations.GroupsBinsAndPower
  refine ⟨⟨?refile, ?draw, ?aged, ?waits, ?dissolve⟩, ?grant, ?dear, ?refill⟩
  case refile =>
    intro s wg tid w why hw hst hsaved hres
    have hx : exec (.parkedThreadRefile wg tid) s = event true (s.file wg (w.seat (hgrpOf tid)).1 (w.seat (hgrpOf tid)).2 (s.thread wg tid).pc [tid]) := by
      show execParkedThreadRefile wg tid s = _
      unfold execParkedThreadRefile
      rw [hw, hst]
      dsimp only
      rw [hres, Bool.and_true]
      congr 1
      cases hg : s.gang? w.gang with
      | none => rfl
      | some x => simpa using hsaved x hg
    rw [hx]
    refine event_leads rfl ⟨sameMemory_iod (State.file_mem ..) (State.file_iod ..), ?_, s.mem_bins_file _ _ _ _ List.mem_cons_self⟩
    rw [State.thread_progress, State.thread_file, State.thread_modThreads, if_pos List.mem_cons_self]
  case draw =>
    intro s bin b cls clock tids hb hd hne hfirst hroom
    have hx : exec (.binDraw bin) s = event (s.firstDraw b cls clock) (s.draw b tids) := by
      show execBinDraw bin s = _
      simp only [execBinDraw, hb, hd, hroom, if_true]
    rw [hx]
    obtain ⟨drawn, hdraw⟩ := s.draw_eq b hne
    refine event_leads hfirst ?_
    rw [hdraw]
    refine ⟨sameMemory_iod (State.modThreads_mem ..) (State.modThreads_iod ..),
      ⟨_, List.mem_map.2 ⟨_, List.mem_append_right _ List.mem_cons_self, rfl⟩, rfl, rfl, rfl, rfl, rfl⟩, fun n hn => ?_,
      fun x hx hid => State.not_mem_drawnBins hx (hid.trans (State.bin_id hb).symm)⟩
    exact (State.thread_modThreads s b.wg tids (fun t => { t with status := .run }) n).trans (if_pos hn)
  case aged =>
    intro s bin b hb hage
    have hx : exec (.binAged bin) s = event (s.mayAge b)
        { s with bins := mapIf (fun x => x.id == bin) (fun x => { x with aged := true }) s.bins } := by
      show execBinAged bin s = _
      simp only [execBinAged, hb]
    rw [hx]
    refine event_leads hage ⟨rfl, rfl, _, ?_, rfl⟩
    exact (s.bin?_modBins bin (fun x => { x with aged := true }) (fun _ => rfl)).trans (by rw [hb]; rfl)
  case waits =>
    intro s bin b cls clock tids hb hd hfirst hfull hwait
    have hx : exec (.binDraw bin) s = event (s.firstDraw b cls clock && b.waitAt.isNone)
        { s with bins := mapIf (fun x => x.id == bin) (fun x => { x with waitAt := some s.clock }) s.bins } := by
      show execBinDraw bin s = _
      simp only [execBinDraw, hb, hd, Nat.not_lt.2 hfull, if_false]
    rw [hx]
    refine event_leads (by rw [hfirst, hwait]; rfl) ⟨rfl, rfl, ?_⟩
    exact (s.bin?_modBins bin (fun x => { x with waitAt := some s.clock }) (fun _ => rfl)).trans (by rw [hb]; rfl)
  case dissolve =>
    intro s core part x w hold hw hfull hwait
    have hx : exec (.groupDissolve core part) s = event (s.drawWaits core part) (s.dissolve w x) := by
      show execGroupDissolve core part s = _
      simp only [execGroupDissolve, hold, hw]
    have hdraw : s.drawWaits core part = true := by
      obtain ⟨b, hb, hc, hp, hd, c, hwa, hle⟩ := hwait
      rw [State.drawWaits, Bool.and_eq_true]
      refine ⟨decide_eq_true hfull, List.any_eq_true.2 ⟨b, hb, ?_⟩⟩
      have hsome : (s.drawOf b).isSome = true := Option.isSome_iff_ne_none.2 hd
      simp [hc, hp, hsome, hwa, hle]
    rw [hx]
    refine event_leads hdraw ⟨sameMemory_iod (s.dissolve_mem w x) (s.dissolve_iod w x), fun y hy hid => ?_, fun n hn => s.thread_dissolve w x hn⟩
    obtain ⟨z, hz, rfl⟩ := List.mem_map.1 hy
    rw [s.dissolve_groups] at hz
    have := (List.mem_filter.1 hz).2
    simp [show z.id = x.id from hid] at this
  case grant =>
    intro s die r rest hdie hl hcost
    obtain ⟨core, hx⟩ := execLeaveGrant_of_request s die r rest hl
    rw [show exec (.leaveGrant die) s = _ from hx]
    have hok : (die < 8 && (r.cost ≤ (s.die die).credits || (bucketMax < r.cost && (s.die die).credits == bucketMax))) = true := by
      rw [Bool.and_eq_true]
      refine ⟨decide_eq_true hdie, ?_⟩
      rcases hcost with h | ⟨h, h'⟩
      · simp [h]
      · simp [h, h']
    have hdie := s.die_leaveGranted die r rest core
    refine event_leads hok ?_
    simp only [State.die_progress, State.tile?_progress, State.engine?_progress, hdie]
    exact ⟨s.leaveGranted_mem die r rest core, s.leaveGranted_threads die r rest core, rfl, rfl, fun o ho => s.tile_leaveGranted die r rest core ho, fun o ho => s.engine_leaveGranted die r rest core ho⟩
  case dear =>
    intro s die r rest hl hlow hmax
    obtain ⟨core, hx⟩ := execLeaveGrant_of_request s die r rest hl
    rw [show exec (.leaveGrant die) s = _ from hx]
    exact event_of_false (by simp [Nat.not_le.2 hlow, Nat.not_lt.2 hmax]) _
  case refill =>
    intro s die hdie hdue
    rw [show exec (.powerCreditRefill die) s = _ from execPowerCreditRefill_eq die s]
    have hself : (s.modDie die Die.refill).die die = (s.die die).refill := (s.die_modDie die die Die.refill).trans (if_pos rfl)
    refine event_leads (by simp [hdie, hdue]) ⟨rfl, rfl, ?_, ?_, fun d hd => ?_⟩
    · exact (congrArg Die.credits hself : _)
    · exact (congrArg Die.refilled hself : _)
    · have hother : (s.modDie die Die.refill).die d = s.die d := (s.die_modDie die d Die.refill).trans (if_neg hd)
      exact hother

end Sys2Proof
end

section
/-! Stage rings, and the engine's page waits, stops and restarts (spec 08, R212, R220 to R224; 10, R287). -/

namespace Sys2Proof.Machine

/-! Stage rings. -/

theorem getElem?_listSet {α : Type} (l : List α) (n : Nat) (v : α) {x : α} (h : l[n]? = some x) : (listSet l n v)[n]? = some v := by
  induction l generalizing n with
  | nil => cases h
  | cons y l ih =>
    cases n with
    | zero => rfl
    | succ n => exact ih n h

/-- Operations that each change only range locks change only range locks together. -/
theorem foldl_locks {α : Type} {f : State → α → State} (hf : ∀ s x, ∃ locks, f s x = { s with locks }) (l : List α) (s : State) :
    ∃ locks, l.foldl f s = { s with locks } := by
  induction l generalizing s with
  | nil => exact ⟨s.locks, rfl⟩
  | cons x l ih =>
    obtain ⟨_, hx⟩ := hf s x
    obtain ⟨locks, hl⟩ := ih (f s x)
    rw [List.foldl_cons, hl, hx]
    exact ⟨locks, rfl⟩

theorem State.addLock_locks (s : State) (owner world : Nat) (spad : Bool) (place lo hi : Nat) (dst : Bool) :
    ∃ locks, s.addLock owner world spad place lo hi dst = { s with locks } := by
  unfold State.addLock
  split
  · exact ⟨s.locks, rfl⟩
  · exact ⟨_, rfl⟩

theorem State.registerSlots_locks (s : State) (wg : Nat) : ∃ locks, s.registerSlots wg = { s with locks } := by
  unfold State.registerSlots
  refine foldl_locks (fun s o => ?_) _ s
  split
  · exact State.addLock_locks ..
  · exact ⟨s.locks, rfl⟩

theorem State.wg?_of_issuer {s : State} {e : Env} (h : s.issuer = some e) : s.wg? e.w.id = some e.w := by
  obtain ⟨-, hw, -, -⟩ := State.issuer_spec h
  have hid := List.find?_some hw
  rwa [← show e.w.id = e.g.wg from beq_iff_eq.1 hid] at hw

/-- A ring's "empty" barrier after some arrivals: complete, or waiting for the rest (spec 08, R224). -/
def Ring.released (r : Ring) (s : State) (w : Workgroup) : Ring :=
  if (List.range w.threads).all (fun n => (s.thread w.id n).status == .ended || r.arrived.contains n)
  then { r with e := r.e + 1, arrived := [] } else r

theorem State.rings_tryRing {s : State} {w : Workgroup} {r : Ring} {n : Nat} (hw : s.wg? w.id = some w) (hr : w.rings[n]? = some r) :
    ∃ w', (s.tryRing w.id n).wg? w.id = some w' ∧ w'.rings[n]? = some (r.released s w) := by
  unfold State.tryRing Ring.released
  simp only [hw, hr]
  split
  · obtain ⟨locks, hl⟩ := (s.modWg w.id (fun w => { w with rings := listSet w.rings n { r with e := r.e + 1, arrived := [] } })).registerSlots_locks w.id
    have hmod := s.wg?_modWg w.id w.id (fun w => { w with rings := listSet w.rings n { r with e := r.e + 1, arrived := [] } }) (fun _ => rfl)
    rw [if_pos rfl, hw, Option.map_some] at hmod
    rw [hl]
    exact ⟨_, hmod, getElem?_listSet _ _ _ hr⟩
  · exact ⟨w, hw, hr⟩

section
variable {s : State} {e : Env} {g : Guard} {f : FMC}

theorem Issuable.stwait (h : Issuable s e g (.stwait g f)) (l : s.someLane e g) :
    (e.ring f = none → exec (.stwait g f) s = .next (s.takeTrap e { code := 0x01 })) ∧
    ∀ r, e.ring f = some r → exec (.stwait g f) s = if r.landed (e.s f.f1) then s.done e else .next (s.hold e) := by
  constructor
  · intro hr
    show execStwait g f s = _
    rw [execStwait, h.groupOp l]
    simp only [hr]
  · intro r hr
    show execStwait g f s = _
    rw [execStwait, h.groupOp l]
    simp only [hr]

/-- `strel` of a ring that is there: released already or twice, later, or arriving now. -/
theorem Issuable.strel (h : Issuable s e g (.strel g f)) (l : s.someLane e g) {r : Ring} (hr : e.ring f = some r) :
    exec (.strel g f) s = if seqDiff (e.s f.f1) r.e < 0 || (seqDiff (e.s f.f1) r.e == 0 && (s.lanes e g).any r.arrived.contains)
        then .next (s.takeTrap e { code := 0x13 })
      else if 0 < seqDiff (e.s f.f1) r.e || !(s.lanes e g).all (fun t => s.released e.w.id t 0) then .next (s.hold e)
      else ((s.modWg e.w.id (fun w => { w with rings := listSet w.rings (f.cl.toNat % 8) { r with arrived := r.arrived ++ s.lanes e g } })).tryRing
        e.w.id (f.cl.toNat % 8)).done e := by
  show execStrel g f s = _
  rw [execStrel, h.groupOp l]
  simp only [hr]

end

/-! What the engine's own events leave. -/

theorem State.lockLocs_locks (s : State) (owner world die : Nat) (locs : List (Loc × Nat)) (dst : Bool) :
    ∃ locks, s.lockLocs owner world die locs dst = { s with locks } := by
  unfold State.lockLocs
  split
  · exact ⟨s.locks, rfl⟩
  · exact State.addLock_locks ..
  · exact State.addLock_locks ..

theorem State.relock_locks (s : State) (o : EngineOp) : ∃ locks, s.relock o = { s with locks } := by
  unfold State.relock
  split
  · exact ⟨s.locks, rfl⟩
  · exact State.lockLocs_locks ..

/-- The operations of the engines are the same by name. -/
def SameEngines (s t : State) : Prop := t.engines.map (·.id) = s.engines.map (·.id)

theorem SameEngines.isSome {s t : State} (h : SameEngines s t) (id : Nat) : (t.engine? id).isSome = (s.engine? id).isSome := by
  have named (s : State) : (s.engine? id).isSome = (s.engines.map (·.id)).any (· == id) := by
    rw [Bool.eq_iff_iff, State.engine?, List.find?_isSome]
    simp
  rw [named, named, h]

theorem State.sameEngines_haltGang (s : State) (id : Nat) (st : GStatus) : SameEngines s (s.haltGang id st) := by
  unfold SameEngines State.haltGang
  rw [List.map_map]
  refine List.map_congr_left (fun o _ => ?_)
  dsimp only [Function.comp]
  split <;> rfl

theorem State.sameEngines_haltGangs (s : State) (st : GStatus) (p : Gang → Bool) : SameEngines s (s.haltGangs st p) := by
  unfold State.haltGangs
  generalize s.gangs.filter _ = l
  induction l generalizing s with
  | nil => rfl
  | cons g l ih => exact (ih _).trans (s.sameEngines_haltGang g.id st)

theorem State.sameEngines_pushRecord (s : State) (world : Nat) (r : FaultRec) : SameEngines s (s.pushRecord world r) := by
  unfold State.pushRecord
  split
  · rfl
  next w _ =>
    dsimp only
    split
    next k _ =>
      obtain ⟨mem, llcDirty, iod, hp⟩ := s.homePut_eq k (natLe 32 r.toNat)
      obtain ⟨worlds, hw⟩ := (s.homePut k (natLe 32 r.toNat)).modWorld_eq world World.pushTail
      rw [hw, hp]
      rfl
    · obtain ⟨worlds, hw⟩ := s.modWorld_eq world (fun w => { w with waiting := w.waiting ++ [r] })
      rw [hw]
      split
      · rfl
      · obtain ⟨worlds', hw'⟩ := State.modWorld_eq { s with worlds } world (fun w => { w with stalled := true })
        rw [hw']
        exact State.sameEngines_haltGangs { s with worlds := worlds' } _ _

theorem State.driverStop_eq (s : State) (gang : Nat) : ∃ gangs flights engines, s.driverStop gang = { s with gangs, flights, engines } := by
  unfold State.driverStop
  split
  · split <;> exact ⟨_, _, _, rfl⟩
  · exact ⟨s.gangs, s.flights, s.engines, rfl⟩

theorem State.sameEngines_driverStop (s : State) (gang : Nat) : SameEngines s (s.driverStop gang) := by
  unfold State.driverStop
  split
  · split
    · exact s.sameEngines_haltGang gang .trapped
    · rfl
  · rfl

/-- A gang that the driver must resume does not run. -/
theorem State.not_running_driverStop {s : State} {gang : Nat} {x : Gang} (h : (s.driverStop gang).gang? gang = some x) : x.status ≠ .running := by
  unfold State.driverStop at h
  cases hg : s.gang? gang with
  | none =>
    simp only [hg] at h
    cases h
  | some y =>
    simp only [hg] at h
    split at h
    · have hmod := s.gang?_modGang gang gang (fun g => { g with status := .trapped, haltAt := s.clock }) (fun _ => rfl)
      rw [if_pos rfl, hg, Option.map_some] at hmod
      obtain rfl := Option.some.inj (hmod.symm.trans h)
      exact fun hr => GStatus.noConfusion hr
    next hrun =>
      have hmod := s.gang?_modGang gang gang (fun g => { g with waits := true }) (fun _ => rfl)
      rw [if_pos rfl, hg, Option.map_some] at hmod
      obtain rfl := Option.some.inj (hmod.symm.trans h)
      exact fun hr => hrun (beq_iff_eq.2 hr)

/-- An operation that meets a denial stops, and its gang with it (spec 08, R212). -/
theorem State.engineStop_spec {s : State} {op : Nat} {o : EngineOp} (ho : s.engine? op = some o) (code va : Nat) (mal wr : Bool) :
    (s.engineStop o code va mal wr).threads = s.threads ∧
    (∃ o', (s.engineStop o code va mal wr).engine? op = some o' ∧ o'.stage = .stopped) ∧
    ∀ x, (s.engineStop o code va mal wr).gang? o.gang = some x → x.status ≠ .running := by
  have hid : o.id = op := by
    have := List.find?_some ho
    exact beq_iff_eq.1 this
  unfold State.engineStop
  dsimp only
  generalize hu : s.pushRecord o.world (s.engineRecord o code va wr mal) = u
  obtain ⟨mem, llcDirty, iod, worlds, gangs, flights, engines, hp⟩ := s.pushRecord_eq o.world (s.engineRecord o code va wr mal)
  have hsame : SameEngines s u := hu ▸ s.sameEngines_pushRecord o.world _
  obtain ⟨locks, hl⟩ := u.relock_locks o
  rw [hl]
  obtain ⟨_, _, _, hd⟩ := State.driverStop_eq { u with locks } o.gang
  have hsome : ((State.driverStop { u with locks } o.gang).engine? o.id).isSome := by
    rw [(State.sameEngines_driverStop { u with locks } o.gang).isSome, show (State.engine? { u with locks } o.id).isSome = _ from hsame.isSome o.id,
      hid, ho]
    rfl
  refine ⟨?_, ?_, fun x hx => State.not_running_driverStop hx⟩
  · rw [State.modEngine_threads, hd]
    show u.threads = s.threads
    rw [← hu, hp]
  · obtain ⟨y, hy⟩ := Option.isSome_iff_exists.1 hsome
    subst hid
    exact ⟨_, (State.engine?_modEngine _ o.id (fun o => { o with stage := .stopped }) (fun _ => rfl)).trans (congrArg _ hy), rfl⟩

end Sys2Proof.Machine

namespace Sys2Proof
open Sys2Proof.Machine

/-- Settles O30: `stwait` by the landed sequence; `strel` by the difference of its sequence and the ring's. -/
theorem stageRings : Obligations.StageRings := by
  unfold Obligations.StageRings
  intro g f s e l
  refine ⟨fun h => ⟨(h.stwait l).1, fun r hr => ⟨fun hlt => ?_, fun hle => ?_⟩⟩, fun h r hr => ⟨fun hlow => ?_, fun hgt => ?_, fun hd hnew hrel => ?_⟩⟩
  · exact ((h.stwait l).2 r hr).trans (if_pos (decide_eq_true hlt))
  · rw [(h.stwait l).2 r hr, if_neg (by simpa [Ring.landed, seqDiff] using hle)]
  · rw [h.strel l hr, if_pos]
    rcases hlow with hlow | ⟨hz, t, ht, ha⟩
    · have hneg : seqDiff (e.s f.f1) r.e < 0 := hlow
      simp only [hneg, decide_true, Bool.true_or]
    · rw [show seqDiff (e.s f.f1) r.e = 0 from hz]
      simpa using ⟨t, ht, ha⟩
  · have hpos : 0 < seqDiff (e.s f.f1) r.e := hgt
    rw [h.strel l hr, if_neg, if_pos]
    · simp [hpos]
    · simp only [Bool.or_eq_true, Bool.and_eq_true, decide_eq_true_eq, beq_iff_eq, not_or, not_and]
      exact ⟨by omega, fun hz => by omega⟩
  · have hz : seqDiff (e.s f.f1) r.e = 0 := hd
    have hfirst : ¬ (s.lanes e g).any r.arrived.contains = true := by simpa using hnew
    have hall : ((s.lanes e g).all (fun t => s.released e.w.id t 0)) = true := List.all_eq_true.2 hrel
    have hwg := State.wg?_of_issuer h.issuer
    have hrk : e.w.rings[f.cl.toNat % 8]? = some r := hr
    generalize hv : ({ e.w with rings := listSet e.w.rings (f.cl.toNat % 8) { r with arrived := r.arrived ++ s.lanes e g } } : Workgroup) = v
    have hmod := s.wg?_modWg e.w.id e.w.id (fun w => { w with rings := listSet w.rings (f.cl.toNat % 8) { r with arrived := r.arrived ++ s.lanes e g } })
      (fun _ => rfl)
    rw [if_pos rfl, hwg, Option.map_some, hv] at hmod
    have hvid : v.id = e.w.id := by rw [← hv]
    obtain ⟨w', hw', hring⟩ := State.rings_tryRing (w := v) (by rw [hvid]; exact hmod) (by rw [← hv]; exact getElem?_listSet _ _ _ hrk)
    rw [hvid] at hw'
    rw [h.strel l hr, if_neg (by simpa [hz] using hfirst), if_neg (by simp [hz, hall])]
    have honly := (s.modWg e.w.id (fun w => { w with rings := listSet w.rings (f.cl.toNat % 8) { r with arrived := r.arrived ++ s.lanes e g } })).tryRing_barsOnly
      e.w.id (f.cl.toNat % 8)
    refine ⟨_, rfl, ?_, ⟨fun n hn => ?_, fun wg n hn => ?_⟩, w', ?_, hring.trans ?_⟩
    · exact (honly.sameMemory (s := State.modWg ..)).trans (sameMemory_iod (State.modThreads_mem ..) (State.modThreads_iod ..))
    · rw [State.thread_progress, State.thread_advance _ _ _ hn, honly.thread, State.thread_modWg]
    · rw [State.thread_progress, State.thread_advance_other _ _ _ _ hn, honly.thread, State.thread_modWg]
    · exact (State.wg?_congr (State.modThreads_wgs ..) _).trans hw'
    · unfold Ring.released
      simp only [State.thread_modWg, ← hv]

/-- Settles O32: each event is enabled by what the operation met, and changes its stage. -/
theorem engineWaitsAndStops : Obligations.EngineWaitsAndStops := by
  unfold Obligations.EngineWaitsAndStops
  refine ⟨fun s op va o ho hst hres => ?_, fun s op code va mal wr o ho hst hmet => ?_, fun s op o x ho hr hg hrun hstop hhalt hdue => ?_⟩
  · have hx : exec (.enginePageResident op) s = event true (s.modEngine op (fun o => { o with stage := .queued })) := by
      show execEnginePageResident op s = _
      unfold execEnginePageResident
      rw [ho]
      dsimp only
      rw [hst]
      dsimp only
      split
      next bits green ht => exact absurd ht (hres bits green)
      · rfl
    have he := s.engine?_modEngine op (fun o => { o with stage := .queued }) (fun _ => rfl)
    rw [ho, Option.map_some] at he
    rw [hx]
    exact event_leads rfl ⟨.refl s, rfl, _, he, rfl⟩
  · have hx : exec (.engineStop ⟨op, none⟩) s = .next (s.engineStop o code va mal wr).progress := by
      show execEngineStop ⟨op, none⟩ s = _
      unfold execEngineStop
      rw [ho]
      dsimp only
      rw [if_neg (by rw [hst]; decide), hmet]
      rfl
    rw [hx]
    exact ⟨_, rfl, State.engineStop_spec ho code va mal wr⟩
  · have hx : exec (.copyRestartTimeout op) s = event true ((s.relock o).modEngine op (fun o => { o with stage := .halted })) := by
      show execCopyRestartTimeout op s = _
      unfold execCopyRestartTimeout
      rw [ho]
      dsimp only
      rw [hg]
      dsimp only
      congr 1
      have hn : (x.status != GStatus.running) = true := by simpa using hrun
      rw [hr, hn, decide_eq_true hdue, Bool.and_true, Bool.true_and]
      cases hs : o.stage with
      | stopped => exact absurd hs hstop
      | halted => exact absurd hs hhalt
      | _ => rfl
    obtain ⟨locks, hl⟩ := s.relock_locks o
    rw [hx, hl]
    have he := State.engine?_modEngine { s with locks } op (fun o => { o with stage := .halted }) (fun _ => rfl)
    rw [show State.engine? { s with locks } op = some o from ho, Option.map_some] at he
    exact event_leads rfl ⟨.refl s, rfl, _, he, rfl⟩

end Sys2Proof
end

section
/-! What the pager and the versions leave: a touch of scratchpad pages changes backing lines alone, and a note of a read changes
versions alone (spec 14, R328; 15, R345 to R347). -/

namespace Sys2Proof.Machine

/-! The pager. -/

theorem State.backKey_congr {s t : State} (h : t.worlds = s.worlds) (world line : Nat) : t.backKey world line = s.backKey world line := by
  rw [State.backKey, State.backKey, State.world?_congr h]

theorem State.worldOfWg_congr {s t : State} (hw : t.wgs = s.wgs) (hg : t.gangs = s.gangs) (wg : Nat) : t.worldOfWg wg = s.worldOfWg wg := by
  unfold State.worldOfWg
  simp only [State.wg?, State.gang?, hw, hg]

theorem SameMemory.butBacking {s t : State} (h : SameMemory s t) : SameButBacking s t := fun k _ => ⟨h.2 k, h.1 k⟩

theorem SameButBacking.trans {s t u : State} (h : SameButBacking s t) (h' : SameButBacking t u) (hworlds : t.worlds = s.worlds)
    (hw : t.wgs = s.wgs) (hg : t.gangs = s.gangs) : SameButBacking s u := by
  intro k hk
  obtain ⟨hhome, hmem⟩ := h k hk
  obtain ⟨hhome', hmem'⟩ := h' k (fun wg line b j hb hj => by
    rw [State.backKey_congr hworlds, State.worldOfWg_congr hw hg] at hb
    exact hk wg line b j hb hj)
  exact ⟨hhome'.trans hhome, hmem'.trans hmem⟩

/-- The pager has moved pages: translation entries and bytes of backing lines alone differ. -/
def Paged (s t : State) : Prop := (∃ mem llcDirty iod stt, t = { s with mem, llcDirty, iod, stt }) ∧ SameButBacking s t

theorem Paged.refl (s : State) : Paged s s := ⟨⟨s.mem, s.llcDirty, s.iod, s.stt, rfl⟩, (SameMemory.refl s).butBacking⟩

theorem Paged.trans {s t u : State} (h : Paged s t) (h' : Paged t u) : Paged s u := by
  obtain ⟨⟨_, _, _, _, rfl⟩, hst⟩ := h
  obtain ⟨⟨mem, llcDirty, iod, stt, rfl⟩, htu⟩ := h'
  exact ⟨⟨mem, llcDirty, iod, stt, rfl⟩, hst.trans htu rfl rfl rfl⟩

theorem Paged.of_stt (s : State) (stt : List SttEntry) : Paged s { s with stt } :=
  ⟨⟨s.mem, s.llcDirty, s.iod, stt, rfl⟩, (sameMemory_of rfl rfl : SameMemory s { s with stt }).butBacking⟩

theorem Paged.homePut {s : State} {wg line k : Nat} {bs : List Byte} (hk : s.backKey (s.worldOfWg wg) line = some k) (hl : bs.length = 1024) :
    Paged s (s.homePut k bs) := by
  obtain ⟨mem, llcDirty, iod, hp⟩ := s.homePut_eq k bs
  refine ⟨⟨mem, llcDirty, iod, s.stt, hp⟩, fun j hj => ?_⟩
  have hout : ¬ (k ≤ j ∧ j < k + bs.length) := by
    rintro ⟨hle, hlt⟩
    rw [hl] at hlt
    exact hj wg line k (j - k) hk (by omega) (by omega)
  exact ⟨by rw [State.homeByte_homePut, if_neg hout], State.memGet_homePut_of_not_mem s bs hout⟩

theorem State.evict_paged {s t : State} {x : SttEntry} (h : s.evict x = some t) : Paged s t := by
  unfold State.evict at h
  dsimp only at h
  split at h
  · obtain rfl := Option.some.inj h
    exact .of_stt s _
  · split at h
    · cases h
    next n k hb =>
      obtain rfl := Option.some.inj h
      have hk : s.backKey (s.worldOfWg x.wg) n = some k := by
        obtain ⟨line, -, hmap⟩ := Option.bind_eq_some_iff.1 hb
        obtain ⟨k', hk', heq⟩ := Option.map_eq_some_iff.1 hmap
        cases heq
        exact hk'
      exact (Paged.homePut hk (memBytes_length ..)).trans (.of_stt _ _)

theorem State.makeRoom_paged {s t : State} {core wg n : Nat} (h : s.makeRoom core wg = .frame n t) : Paged s t := by
  unfold State.makeRoom at h
  split at h
  · cases h
    exact .refl s
  · split at h
    · cases h
    · split at h
      next he =>
        cases h
        exact State.evict_paged he
      · cases h

theorem State.touchPage_paged {s t : State} {w : Workgroup} {page : Nat} {write : Bool} (h : s.touchPage w page write = .ready t) : Paged s t := by
  unfold State.touchPage at h
  split at h
  · split at h
    · cases h
      exact .of_stt s _
    · split at h <;> cases h
  · split at h
    · cases h
    · split at h
      · cases h
      · cases h
      next hr =>
        cases h
        exact (State.makeRoom_paged hr).trans (.of_stt _ _)

theorem State.touchPages_paged {s t : State} {write : Bool} {ps : List (Workgroup × Nat)} (h : s.touchPages write ps = .ready t) : Paged s t := by
  induction ps generalizing s with
  | nil =>
    obtain rfl := Page.ready.inj h
    exact .refl _
  | cons p ps ih =>
    unfold State.touchPages at h
    split at h
    next hp => exact (State.touchPage_paged hp).trans (ih h)
    next hx => exact absurd h (hx t)

/-! Versions. -/

/-- Only versions and the count of names differ. -/
def VersionsOnly (s t : State) : Prop := ∃ versions nextId, t = { s with versions, nextId }

theorem VersionsOnly.refl (s : State) : VersionsOnly s s := ⟨s.versions, s.nextId, rfl⟩

theorem VersionsOnly.trans {s t u : State} (h : VersionsOnly s t) (h' : VersionsOnly t u) : VersionsOnly s u := by
  obtain ⟨_, _, rfl⟩ := h
  obtain ⟨versions, nextId, rfl⟩ := h'
  exact ⟨versions, nextId, rfl⟩

theorem VersionsOnly.foldl {α : Type} {f : State → α → State} (hf : ∀ s x, VersionsOnly s (f s x)) (l : List α) (s : State) :
    VersionsOnly s (l.foldl f s) := by
  induction l generalizing s with
  | nil => exact .refl s
  | cons x l ih => exact (hf s x).trans (ih _)

theorem State.link_versionsOnly (s : State) (v u : Version) : VersionsOnly s (s.link v u) := by
  unfold State.link
  split
  · exact .refl s
  · dsimp only
    split <;> exact ⟨_, _, rfl⟩

theorem State.linkIds_versionsOnly (s : State) (v u : Nat) : VersionsOnly s (s.linkIds v u) := by
  unfold State.linkIds
  split
  · exact State.link_versionsOnly ..
  · exact .refl s

theorem State.gain_versionsOnly (s : State) (v u : Nat) : VersionsOnly s (s.gain v u) := by
  unfold State.gain
  split
  · split
    · exact .refl s
    · split
      · exact State.link_versionsOnly ..
      · dsimp only
        split
        · exact State.link_versionsOnly ..
        · exact VersionsOnly.trans ⟨_, _, rfl⟩ (.foldl (fun s i => s.linkIds_versionsOnly v i) _ _)
  · exact .refl s

theorem State.openVersion_versionsOnly (s : State) (l : Launch) (num : Word) : VersionsOnly s (s.openVersion l num).2 := by
  unfold State.openVersion
  split
  · exact .refl s
  · exact VersionsOnly.trans (VersionsOnly.trans ⟨_, _, rfl⟩ (.foldl (fun s u => State.gain_versionsOnly ..) _ _))
      (.foldl (fun s x => State.gain_versionsOnly ..) _ _)

theorem State.noteFrom_versionsOnly (s : State) (l : Launch) (num : Word) (m : Launch) (other : Word) : VersionsOnly s (s.noteFrom l num m other) := by
  unfold State.noteFrom
  split
  · exact .refl s
  · exact ((s.openVersion_versionsOnly m other).trans (State.openVersion_versionsOnly _ l num)).trans (State.gain_versionsOnly ..)

theorem State.noteRead_versionsOnly (s : State) (l : Launch) (num : Word) (word : Nat) : VersionsOnly s (s.noteRead l num word) := by
  unfold State.noteRead
  split
  · exact .refl s
  · split
    · exact .refl s
    · exact (s.openVersion_versionsOnly l num).trans (State.gain_versionsOnly ..)

theorem State.noteLoad_versionsOnly (s : State) (l : Launch) (core : Nat) (num : Word) (word : Nat) : VersionsOnly s (s.noteLoad l core num word) := by
  unfold State.noteLoad
  dsimp only
  have hfold (xs : List (Nat × Word)) (s : State) : VersionsOnly s
      (xs.foldl (fun s x => match s.launch? x.1 with | some m => s.noteFrom l num m x.2 | none => s) s) := by
    refine .foldl (fun s x => ?_) xs s
    split
    · exact State.noteFrom_versionsOnly ..
    · exact .refl s
  split
  · exact (hfold _ s).trans (State.noteRead_versionsOnly ..)
  · exact hfold _ s

theorem State.noteFor_versionsOnly (s : State) (e : Env) (tids : List Nat) (key : Nat) (green : Bool) : VersionsOnly s (s.noteFor e tids key green) := by
  unfold State.noteFor
  split
  · exact .foldl (fun s n => State.noteLoad_versionsOnly ..) _ s
  · exact .refl s

theorem State.noteBin_versionsOnly (s : State) (e : Env) (ts : List Nat) (table b : Nat) : VersionsOnly s (s.noteBin e ts table b) := by
  unfold State.noteBin
  split
  · exact .foldl (fun s i => State.noteFor_versionsOnly ..) _ s
  · exact .refl s

end Sys2Proof.Machine
end

section
/-! The copy engine takes an operation (spec 08, R211 to R219; 07, R183). -/

namespace Sys2Proof.Machine

/-! Range locks of some places. -/

/-- The granules that hold some bytes of a place are locked, and no more (spec 07, R183). -/
def RangeLock.covers (k : RangeLock) (die n : Nat) : Loc → Prop
  | .va a => k.spad = false ∧ k.place = die ∧ k.lo = a / 256 * 256 ∧ k.hi = (a + n + 255) / 256 * 256
  | .spad w a => k.spad = true ∧ k.place = w ∧ k.lo = a / 64 * 64 ∧ k.hi = (a + n + 63) / 64 * 64

theorem State.locks_addLock_sub (s : State) (owner world : Nat) (spad : Bool) (place lo hi : Nat) (dst : Bool) {k : RangeLock} (h : k ∈ s.locks) :
    k ∈ (s.addLock owner world spad place lo hi dst).locks := by
  unfold State.addLock
  split
  · exact h
  · exact List.mem_append_left _ h

theorem State.mem_addLock (s : State) (owner world : Nat) (spad : Bool) (place : Nat) {lo hi : Nat} (dst : Bool) (h : lo < hi) :
    ∃ k ∈ (s.addLock owner world spad place lo hi dst).locks, k.owner = owner ∧ k.world = world ∧ k.dst = dst ∧ k.spad = spad ∧ k.place = place ∧
      k.lo = lo / (if spad then 64 else 256) * (if spad then 64 else 256) ∧
      k.hi = (hi + (if spad then 64 else 256) - 1) / (if spad then 64 else 256) * (if spad then 64 else 256) := by
  unfold State.addLock
  rw [if_neg (Nat.not_le.2 h)]
  exact ⟨_, List.mem_append_right _ List.mem_cons_self, rfl, rfl, rfl, rfl, rfl, rfl, rfl⟩

theorem State.locks_lockLocs_sub (s : State) (owner world die : Nat) (locs : List (Loc × Nat)) (dst : Bool) {k : RangeLock} (h : k ∈ s.locks) :
    k ∈ (s.lockLocs owner world die locs dst).locks := by
  unfold State.lockLocs
  split
  · exact h
  · exact State.locks_addLock_sub _ _ _ _ _ _ _ _ h
  · exact State.locks_addLock_sub _ _ _ _ _ _ _ _ h

theorem State.mem_lockLocs (s : State) (owner world die : Nat) (loc : Loc) {n : Nat} (dst : Bool) (hn : n ≠ 0) :
    ∃ k ∈ (s.lockLocs owner world die [(loc, n)] dst).locks, k.owner = owner ∧ k.dst = dst ∧ k.world = world ∧ k.covers die n loc := by
  cases loc with
  | va a =>
    have hb : vaBounds [(.va a, n)] = (a, a + n) := rfl
    obtain ⟨k, hk, howner, hworld, hdst, hspad, hplace, hlo, hhi⟩ := s.mem_addLock owner world false die (lo := a) (hi := a + n) dst (by omega)
    refine ⟨k, ?_, howner, hdst, hworld, hspad, hplace, hlo, hhi⟩
    simp only [State.lockLocs, hb]
    exact hk
  | spad w a =>
    have hb : spadBounds [(.spad w a, n)] w = (a, a + n) := by
      simp [spadBounds]
    obtain ⟨k, hk, howner, hworld, hdst, hspad, hplace, hlo, hhi⟩ := s.mem_addLock owner world true w (lo := a) (hi := a + n) dst (by omega)
    refine ⟨k, ?_, howner, hdst, hworld, hspad, hplace, hlo, hhi⟩
    simp only [State.lockLocs, hb]
    exact hk

/-! An operation is handed to its engine. -/

/-- Places that an order reads. -/
def Order.from (o : Order) : List (Loc × Nat) := match o.kind with | .bins _ rows w _ => rows.map (fun r => (r.2, w)) | _ => segFrom o.segs

/-- The bin table that an order counts in. -/
def Order.tables (o : Order) : List (Loc × Nat) := match o.kind with | .bins table .. => [(.va table, 4096)] | _ => []

/-- The operation that an order becomes. -/
def State.newEngine (s : State) (e : Env) (ts : List Nat) (o : Order) : EngineOp :=
  let places := o.from ++ segTo o.segs ++ o.dsts.flatMap (fun l => l)
  let u : State := { s with nextId := s.nextId + 1 }
  let info : OpInfo :=
    { cls := o.cls, scope := 0, acq := false, rel := false, bytes := places.flatMap (u.locKeys e.g.core e.gang.world)
      reads := true, writes := true, space := none }
  { id := s.nextId, wg := e.w.id, gang := e.gang.id, launch := e.l.id, world := e.gang.world, core := e.g.core, die := Config.dieOfCore e.g.core
    tids := ts, iaddr := s.iaddr e, kind := o.kind, segs := o.segs, todo := o.segs, buf := [], rows := o.kind.rows, skip := [], bytes := o.bytes
    stage := .queued, leave := decide (8192 ≤ o.bytes)
    landing := if o.landing then (s.thread e.w.id e.g.leader).owed.head? else none
    version := verNum e.l (s.thread e.w.id (ts.foldl min (ts.headD 0))).sub, haltAt := 0, sent := 0, acked := 0, awaits := []
    deps := dedup (ts.flatMap (fun t => u.depsOf e.w.id t info)) }

/-- The ranges that an order registers. -/
def State.orderLocks (s : State) (id : Nat) (e : Env) (o : Order) : State :=
  let s := s.lockLocs id e.gang.world (Config.dieOfCore e.g.core) o.from false
  let s := if o.lockDst then s.lockLocs id e.gang.world (Config.dieOfCore e.g.core) (segTo o.segs) true else s
  o.dsts.foldl (fun s l => s.lockLocs id e.gang.world (Config.dieOfCore e.g.core) l true) s

/-- The operation stands in its engine, and an action of the launch is noted. -/
def State.queued (s : State) (e : Env) (ts : List Nat) (o : Order) : State :=
  let u : State := { s with nextId := s.nextId + 1, engines := s.engines ++ [s.newEngine e ts o] }
  if u.copiesOut e (segTo o.segs ++ o.dsts.flatMap (fun l => l) ++ o.tables) then u.acts e else u

theorem State.addEngine_eq (s : State) (e : Env) (ts : List Nat) (o : Order) : s.addEngine e ts o =
    (if decide (8192 ≤ o.bytes) then ((s.queued e ts o).orderLocks s.nextId e o).askLeave (Config.dieOfCore e.g.core) s.nextId ((o.bytes + 8191) / 8192) false
      else (s.queued e ts o).orderLocks s.nextId e o).modThreads e.w.id ts (fun t => { t with cp := t.cp + 1 }) := rfl

theorem State.queued_eq (s : State) (e : Env) (ts : List Nat) (o : Order) : ∃ launches,
    s.queued e ts o = { s with nextId := s.nextId + 1, engines := s.engines ++ [s.newEngine e ts o], launches } := by
  unfold State.queued
  dsimp only
  split
  · exact ⟨_, rfl⟩
  · exact ⟨s.launches, rfl⟩

theorem State.orderLocks_locks (s : State) (id : Nat) (e : Env) (o : Order) : ∃ locks, s.orderLocks id e o = { s with locks } := by
  obtain ⟨_, hfrom⟩ := s.lockLocs_locks id e.gang.world (Config.dieOfCore e.g.core) o.from false
  have hto (u : State) : ∃ locks, (if o.lockDst then u.lockLocs id e.gang.world (Config.dieOfCore e.g.core) (segTo o.segs) true else u) =
      { u with locks } := by
    split
    · exact State.lockLocs_locks ..
    · exact ⟨u.locks, rfl⟩
  obtain ⟨_, hto⟩ := hto (s.lockLocs id e.gang.world (Config.dieOfCore e.g.core) o.from false)
  unfold State.orderLocks
  dsimp only
  rw [hto, hfrom]
  exact foldl_locks (fun s l => s.lockLocs_locks id e.gang.world (Config.dieOfCore e.g.core) l true) _ _

theorem State.threads_modThread_congr {s t : State} (h : t.threads = s.threads) (wg tid : Nat) (f : Thread → Thread) :
    (t.modThread wg tid f).threads = (s.modThread wg tid f).threads := by
  simp only [State.modThread, State.setThread, State.thread, h]

/-- A change of threads depends on threads alone. -/
theorem State.threads_modThreads_congr {s t : State} (h : t.threads = s.threads) (wg : Nat) (l : List Nat) (f : Thread → Thread) :
    (t.modThreads wg l f).threads = (s.modThreads wg l f).threads := by
  unfold State.modThreads
  induction dedup l generalizing s t with
  | nil => exact h
  | cons x l ih => exact ih (State.threads_modThread_congr h wg x f)

theorem State.modThreads_of_threads {s t : State} (h : t.threads = s.threads) (wg : Nat) (l : List Nat) (f : Thread → Thread) :
    t.modThreads wg l f = { t with threads := (s.modThreads wg l f).threads } := by
  rw [State.modThreads_eq, State.threads_modThreads_congr h]

/-- What the issue of an engine operation changes. -/
theorem State.addEngine_only (s : State) (e : Env) (ts : List Nat) (o : Order) : ∃ launches locks dies, s.addEngine e ts o =
    { s with
      threads := (s.modThreads e.w.id ts (fun t => { t with cp := t.cp + 1 })).threads
      nextId := s.nextId + 1, engines := s.engines ++ [s.newEngine e ts o], launches, locks, dies } := by
  obtain ⟨launches, hq⟩ := s.queued_eq e ts o
  obtain ⟨locks, hl⟩ := (s.queued e ts o).orderLocks_locks s.nextId e o
  rw [State.addEngine_eq, hl, hq]
  split
  · exact ⟨launches, locks, _, State.modThreads_of_threads (s := s) (by rfl) ..⟩
  · exact ⟨launches, locks, s.dies, State.modThreads_of_threads (s := s) (by rfl) ..⟩

/-- An operation that has been issued, and its threads at the next word. -/
theorem engineIssued_done {p u : State} {e : Env} {ts : List Nat} {o : Order} (hsub : ∀ t ∈ ts, t ∈ e.g.members)
    (hu : ∃ locks, u = { p.addEngine e ts o with locks }) :
    EngineIssued p (u.advance e).progress e ts o.kind o.segs o.bytes ∧ SameMemory p (u.advance e).progress := by
  obtain ⟨_, _, _, ha⟩ := p.addEngine_only e ts o
  obtain ⟨locks, rfl⟩ := hu
  rw [ha]
  have hmem (v : State) (hm : v.mem = p.mem) (hi : v.iod = p.iod) : SameMemory p (v.advance e).progress :=
    sameMemory_iod ((State.modThreads_mem ..).trans hm) ((State.modThreads_iod ..).trans hi)
  refine ⟨⟨⟨p.newEngine e ts o, State.modThreads_engines .., rfl, rfl, rfl, rfl, rfl, rfl, rfl, rfl, rfl, rfl, rfl⟩, ⟨fun n hn => ?_, fun wg n hn => ?_⟩,
    hmem _ rfl rfl, State.modThreads_flights .., State.modThreads_tiles ..⟩, hmem _ rfl rfl⟩
  · rw [State.thread_progress, State.thread_advance _ _ _ hn]
    by_cases hm : n ∈ ts
    · refine Eq.trans (congrArg Thread.next ?_) (if_pos hm).symm
      exact (p.thread_modThreads e.w.id ts (fun t => { t with cp := t.cp + 1 }) n).trans (if_pos hm)
    · refine Eq.trans (congrArg Thread.next ?_) (if_neg hm).symm
      exact (p.thread_modThreads e.w.id ts (fun t => { t with cp := t.cp + 1 }) n).trans (if_neg hm)
  · rw [State.thread_progress, State.thread_advance_other _ _ _ _ hn]
    exact p.thread_modThreads_other e.w.id ts (fun t => { t with cp := t.cp + 1 }) wg n (fun u hu => hn u (hsub u hu))

theorem engineIssued_addEngine {p : State} {e : Env} {ts : List Nat} {o : Order} (hsub : ∀ t ∈ ts, t ∈ e.g.members) :
    EngineIssued p ((p.addEngine e ts o).advance e).progress e ts o.kind o.segs o.bytes ∧
      SameMemory p ((p.addEngine e ts o).advance e).progress :=
  engineIssued_done hsub ⟨(p.addEngine e ts o).locks, rfl⟩

/-! The copy instructions (spec 08, R211 to R216). -/

section
variable {s : State} {e : Env} {g : Guard} {f : FMC}

/-- A copy-engine instruction whose conditions hold and whose engine has room. -/
theorem Issuable.copyOp {i : Instr} (h : Issuable s e g i) (l : s.someLane e g) (hfull : s.engineFull e.g.core = false)
    {conds : Env → List (Nat × Nat × Bool)} (hc : lowestTrap (rightsTrap e (s.lanes e g) ++ conds e) = none) (body : Env → List Nat → Out) :
    copyOp g i s conds body = body e (s.lanes e g) := by
  unfold Machine.copyOp
  rw [h.groupOp l]
  simp only [hc, hfull, Bool.false_eq_true, if_false]

theorem State.addEngine_wgs (s : State) (e : Env) (ts : List Nat) (o : Order) : (s.addEngine e ts o).wgs = s.wgs := by
  obtain ⟨_, _, _, ha⟩ := s.addEngine_only e ts o
  rw [ha]

/-- An engine operation issued where the instruction changes nothing else: no workgroup's record differs. -/
theorem copyIssued {i : Instr} {o : Order} (hx : exec i s = (s.addEngine e (s.lanes e g) o).done e) :
    Out.Leads (exec i s) (fun t => EngineIssued s t e (s.lanes e g) o.kind o.segs o.bytes ∧ t.wgs = s.wgs) := by
  have hsub : ∀ t ∈ s.lanes e g, t ∈ e.g.members := fun _ => State.lanes_sub
  exact ⟨_, hx, (engineIssued_addEngine hsub).1,
    (State.modThreads_wgs ..).trans (State.addEngine_wgs ..)⟩

/-- The order of a `cpy`. -/
def State.cpyOrder (s : State) (e : Env) (f : FMC) : Order :=
  { kind := .copy, segs := [⟨(s.cpySides e f).2.1, (s.cpySides e f).1.1, f.cl.toNat / 16 * 64⟩], bytes := f.cl.toNat / 16 * 64
    landing := cpyDir f == 0 || cpyDir f == 3 }

theorem Issuable.cpy (h : Issuable s e g (.cpy g f)) (l : s.someLane e g) (hfull : s.engineFull e.g.core = false)
    (hc : lowestTrap (rightsTrap e (s.lanes e g) ++ ((s.cpySides e f).1.2 ++ (s.cpySides e f).2.2)) = none) :
    exec (.cpy g f) s = (s.addEngine e (s.lanes e g) (s.cpyOrder e f)).done e := by
  show execCpy g f s = _
  rw [execCpy, h.copyOp l hfull hc]
  rfl

/-- The order of a `cpy.lw`. -/
def lwOrder (f : FMC) (segs : List Seg) : Order := { kind := .copy, segs, bytes := segBytes segs, landing := cpyDir f == 0 }

/-- An element of a `cpy.lw`. -/
def Env.lwSeg (e : Env) (f : FMC) (x : Nat × Nat × Nat) : Seg :=
  if cpyDir f = 0 then ⟨.va x.1, .spad e.w.id x.2.1, x.2.2⟩ else ⟨.spad e.w.id x.2.1, .va x.1, x.2.2⟩

theorem Issuable.cpyLw (h : Issuable s e g (.cpyLw g f)) (l : s.someLane e g) (hfull : s.engineFull e.g.core = false)
    (hc : lowestTrap (rightsTrap e (s.lanes e g) ++ lwTraps e f) = none) {lay : Layout} {base pitch : Nat} (hs : e.lwSides f = (lay, base, pitch)) :
    exec (.cpyLw g f) s = (s.addEngine e (s.lanes e g) (lwOrder f ((lwElems lay base pitch).map (e.lwSeg f)))).done e := by
  have hseg : e.lwSeg f = fun x => if cpyDir f == 0 then ⟨.va x.1, .spad e.w.id x.2.1, x.2.2⟩ else ⟨.spad e.w.id x.2.1, .va x.1, x.2.2⟩ := by
    funext x
    simp only [Env.lwSeg, beq_iff_eq]
  show execCpyLw g f s = _
  rw [execCpyLw, h.copyOp l hfull hc, hs, hseg]
  rfl

/-- The order of a `cpy.ring`. -/
def Env.ringOrder (e : Env) (f : FMC) (r : Ring) : Order :=
  { kind := .ring (f.cl.toNat % 8) r.i
    segs := [⟨(e.globalSide f.f2 f.f3 4 false).1, .spad e.w.id (r.base + r.i.toNat % r.depth * r.bytes), f.cl.toNat / 16 * 64⟩]
    bytes := f.cl.toNat / 16 * 64, lockDst := false }

/-- The ring's next sequence is taken. -/
def State.nextSeq (s : State) (e : Env) (k : Nat) (r : Ring) : State :=
  s.modWg e.w.id (fun w => { w with rings := listSet w.rings k { r with i := r.i + 1 } })

theorem Issuable.cpyRing (h : Issuable s e g (.cpyRing g f)) (l : s.someLane e g) (hfull : s.engineFull e.g.core = false)
    (hc : lowestTrap (rightsTrap e (s.lanes e g) ++ ringTraps e f) = none) {r : Ring} (hr : e.ring f = some r) :
    exec (.cpyRing g f) s =
      (((s.nextSeq e (f.cl.toNat % 8) r).addEngine e (s.lanes e g) (e.ringOrder f r)).registerSlots e.w.id).done e := by
  show execCpyRing g f s = _
  rw [execCpyRing, h.copyOp l hfull hc, hr]
  rfl

theorem State.wg?_nextSeq (h : s.wg? e.w.id = some e.w) (k : Nat) (r : Ring) :
    (s.nextSeq e k r).wg? e.w.id = some { e.w with rings := listSet e.w.rings k { r with i := r.i + 1 } } := by
  have hmod := s.wg?_modWg e.w.id e.w.id (fun w => { w with rings := listSet w.rings k { r with i := r.i + 1 } }) (fun _ => rfl)
  rwa [if_pos rfl, h, Option.map_some] at hmod

/-- An array of the own scratchpad that nothing stands in the way of is read in the state that the pager leaves (spec 08, R216). -/
theorem State.readArray_ready {s : State} {e : Env} {ts : List Nat} {a n : Nat} {p : State} (go : State → Out)
    (hd : ∀ t ∈ ts, s.depsMet (s.depsOf e.w.id t ⟨.copy, 0, false, false, [(spadKey e.w.id a, n)], true, false, none⟩) = true)
    (hp : s.touchPages false ((pagesOf a n).map (fun p => (e.w, p))) = .ready p) : s.readArray e ts a n go = go p := by
  have hall : (!ts.all (fun t => s.depsMet (s.depsOf e.w.id t ⟨.copy, 0, false, false, [(spadKey e.w.id a, n)], true, false, none⟩))) = false := by
    simpa using hd
  simp only [State.readArray, hall, Bool.false_eq_true, if_false, hp]

/-- The rows that a `cpyg` gathers, by the index vector as the scratchpad holds it. -/
def State.gatherOrder (p : State) (e : Env) (f : FMC) : Order :=
  { kind := .gather
    segs := (List.range (e.s f.f4).toNat).map (fun i =>
      (⟨.va ((e.pair f.f2 % 2 ^ 56 + p.spadNat e ((e.s f.f3).toNat % 2 ^ 24 + 4 * i) 4 * (f.cl.toNat / 16 * 64)) % 2 ^ 56),
        (p.spadSide e f.f1 511 (f.cl.getLsbD 2) ((e.s f.f4).toNat * (f.cl.toNat / 16 * 64)) 1 true).1.add (i * (f.cl.toNat / 16 * 64)),
        f.cl.toNat / 16 * 64⟩ : Seg))
    bytes := (e.s f.f4).toNat * (f.cl.toNat / 16 * 64), landing := true }

section
variable (h : Issuable s e g (.cpyg g f)) (l : s.someLane e g) (hfull : s.engineFull e.g.core = false)
  (hc : lowestTrap (rightsTrap e (s.lanes e g) ++ cpygTraps s e f) = none)
include h l hfull hc

theorem Issuable.cpyg_none (hm : (e.s f.f4).toNat = 0) : exec (.cpyg g f) s = .next (s.advance e).progress := by
  have hz : ((e.s f.f4).toNat == 0) = true := beq_iff_eq.2 hm
  show execCpyg g f s = _
  rw [execCpyg, h.copyOp l hfull hc]
  simp only [hz, if_true]
  rfl

theorem Issuable.cpyg {p : State} (hm : (e.s f.f4).toNat ≠ 0)
    (hd : ∀ t ∈ s.lanes e g, s.depsMet (s.depsOf e.w.id t
      ⟨.copy, 0, false, false, [(spadKey e.w.id ((e.s f.f3).toNat % 2 ^ 24), 4 * (e.s f.f4).toNat)], true, false, none⟩) = true)
    (hp : s.touchPages false ((pagesOf ((e.s f.f3).toNat % 2 ^ 24) (4 * (e.s f.f4).toNat)).map (fun p => (e.w, p))) = .ready p) :
    exec (.cpyg g f) s = (p.addEngine e (s.lanes e g) (p.gatherOrder e f)).done e := by
  have hz : ((e.s f.f4).toNat == 0) = false := beq_false_of_ne hm
  show execCpyg g f s = _
  rw [execCpyg, h.copyOp l hfull hc]
  simp only [hz, Bool.false_eq_true, if_false]
  rw [State.readArray_ready _ hd hp]
  rfl

end

end

/-! Binned copies (spec 08, R217 to R219). -/

theorem Cond.foldl_and_clear {α : Type} (l : List (Cond × α)) (h : ∀ k ∈ l, k.1.clear) (c : Cond) (hc : c.clear) :
    (l.foldl (fun (c : Cond) k => c.and k.1) c).clear := by
  induction l generalizing c with
  | nil => exact hc
  | cons k l ih =>
    obtain ⟨htraps, hpages, hfull, habsent⟩ := hc
    obtain ⟨htraps', hpages', hfull', habsent'⟩ := h k List.mem_cons_self
    refine ih (fun k hk => h k (List.mem_cons_of_mem _ hk)) _ ⟨?_, ?_, ?_, ?_⟩
    · simp only [Cond.and, htraps, htraps', List.append_nil]
    · simp only [Cond.and, hpages, hpages', List.append_nil]
    · simp only [Cond.and, hfull, hfull', Option.or_none]
    · simp only [Cond.and, habsent, habsent', Option.or_none]

theorem worst_of_clear {c : Cond} (h : c.traps = []) (n : Nat) : worst [(n, c)] = none := by
  simp only [worst, List.flatMap_cons, List.flatMap_nil, h, List.append_nil, List.foldl_nil]

/-- An arrival entry of a gang, held or taken. -/
theorem State.arrivalFor_only {s t : State} {gang : Gang} {n : Nat} (h : s.arrivalFor gang = some (n, t)) :
    ∃ arrivals draws gangs, t = { s with iod := { s.iod with arrivals }, draws, gangs } := by
  unfold State.arrivalFor at h
  split at h
  · obtain ⟨-, rfl⟩ := Prod.mk.inj (Option.some.inj h)
    exact ⟨s.iod.arrivals, s.draws, s.gangs, rfl⟩
  · split at h
    · cases h
    · obtain ⟨-, rfl⟩ := Prod.mk.inj (Option.some.inj h)
      exact ⟨_, _, _, rfl⟩

section
variable {s : State} {e : Env} {g : Guard} {f : FMC}

/-- The bins of a `cpyb`, as the scratchpad holds their numbers. -/
def State.binsOf (p : State) (e : Env) (f : FMC) : List Nat :=
  (List.range (e.s f.f4).toNat).map (fun i => p.spadNat e ((e.s f.f3).toNat % 2 ^ 24 + i) 1)

/-- The address of its bin table. -/
def Env.binTable (e : Env) (f : FMC) : Nat := e.pair f.f2 % 2 ^ 56

/-- The bins' entries as read at issue. -/
def State.capsOf (p : State) (e : Env) (f : FMC) : List (Cond × Nat × Nat × Nat) :=
  (dedup (p.binsOf e f ++ [255])).map (p.binEntry e (e.binTable f))

/-- The reading of the bins' entries is noted, and the group waits for no page of the table. -/
def State.binsNoted (p u : State) (e : Env) (f : FMC) (ts : List Nat) : State :=
  ((dedup (p.binsOf e f ++ [255])).foldl (fun s b => s.noteBin e ts (e.binTable f) b) u).modGroup e.g.id (fun g => { g with noted := [] })

/-- Where the tokens of a `cpyb` lie. -/
def State.tokens (u : State) (e : Env) (f : FMC) : Loc :=
  if f.cl.getLsbD 0 then (e.globalSide f.f1 511 4 false).1
  else (u.spadSide e f.f1 511 false ((e.s f.f4).toNat * (f.cl.toNat / 16 * 64)) 4 false).1

/-- Its rows: the bin of each token, and where the token lies. -/
def State.rowsOf (p u : State) (e : Env) (f : FMC) : List (Nat × Loc) :=
  ((p.binsOf e f).zip (List.range (e.s f.f4).toNat)).map (fun b => (b.1, (u.tokens e f).add (b.2 * (f.cl.toNat / 16 * 64))))

/-- Its order. -/
def State.binOrder (p u : State) (e : Env) (f : FMC) : Order :=
  { kind := .bins (e.binTable f) (p.rowsOf u e f) (f.cl.toNat / 16 * 64) ((p.capsOf e f).map (·.2)), segs := []
    bytes := (e.s f.f4).toNat * (f.cl.toNat / 16 * 64)
    dsts := (p.capsOf e f).map (fun k => [(Loc.va k.2.2.1, k.2.2.2 * (f.cl.toNat / 16 * 64))]) }

theorem State.rowsOf_fst (p u : State) : (p.rowsOf u e f).map (·.1) = p.binsOf e f := by
  unfold State.rowsOf
  rw [List.map_map]
  exact List.map_fst_zip (by simp [State.binsOf])

theorem State.binEntry_name (p : State) (table b : Nat) : (p.binEntry e table b).2.1 = b := by
  unfold State.binEntry
  dsimp only
  split <;> rfl

theorem State.capsOf_entry (p : State) {c : Nat × Nat × Nat} (h : c ∈ (p.capsOf e f).map (·.2)) : c = (p.binEntry e (e.binTable f) c.1).2 := by
  obtain ⟨k, hk, rfl⟩ := List.mem_map.1 h
  obtain ⟨b, -, rfl⟩ := List.mem_map.1 hk
  rw [State.binEntry_name]

theorem State.binsNoted_only (p u : State) (ts : List Nat) : ∃ groups versions nextId, p.binsNoted u e f ts = { u with groups, versions, nextId } := by
  obtain ⟨versions, nextId, hv⟩ := VersionsOnly.foldl (fun s b => s.noteBin_versionsOnly e ts (e.binTable f) b) (dedup (p.binsOf e f ++ [255])) u
  unfold State.binsNoted
  rw [hv]
  exact ⟨_, versions, nextId, rfl⟩

section
variable (h : Issuable s e g (.cpyb g f)) (l : s.someLane e g) (hfull : s.engineFull e.g.core = false)
  (hc : lowestTrap (rightsTrap e (s.lanes e g) ++ cpybTraps s e f) = none) {p : State}
  (hd : ∀ t ∈ s.lanes e g, s.depsMet (s.depsOf e.w.id t
    ⟨.copy, 0, false, false, [(spadKey e.w.id ((e.s f.f3).toNat % 2 ^ 24), (e.s f.f4).toNat)], true, false, none⟩) = true)
  (hp : s.touchPages false ((pagesOf ((e.s f.f3).toNat % 2 ^ 24) (e.s f.f4).toNat).map (fun p => (e.w, p))) = .ready p)
  (hclear : ∀ b ∈ p.binsOf e f ++ [255], (p.binEntry e (e.binTable f) b).1.clear)
  (haway : ∀ b ∈ p.binsOf e f ++ [255], p.binAway e (e.binTable f) b = false)
include h l hfull hc hd hp hclear haway

/-- A `cpyb` whose bin table is there waits for an arrival entry; with one it does nothing for no token, or is issued. -/
theorem Issuable.cpyb : (p.arrivalFor e.gang = none → exec (.cpyb g f) s = .next (s.hold e)) ∧
    ∀ n u, p.arrivalFor e.gang = some (n, u) → exec (.cpyb g f) s =
      if (e.s f.f4).toNat == 0 then (p.binsNoted u e f (s.lanes e g)).done e
      else ((p.binsNoted u e f (s.lanes e g)).addEngine e (s.lanes e g) (p.binOrder (p.binsNoted u e f (s.lanes e g)) e f)).done e := by
  have hcaps : ∀ k ∈ p.capsOf e f, k.1.clear := by
    intro k hk
    obtain ⟨b, hb, rfl⟩ := List.mem_map.1 hk
    exact hclear b ((mem_dedup _ _).1 hb)
  obtain ⟨htraps, hpages, -, habsent⟩ := Cond.foldl_and_clear (p.capsOf e f) hcaps {} ⟨rfl, rfl, rfl, rfl⟩
  have hworst := worst_of_clear htraps 0
  have hnone : (p.binsOf e f ++ [255]).any (p.binAway e (e.binTable f)) = false := by
    rw [List.any_eq_false]
    exact fun b hb => by rw [haway b hb]; exact Bool.false_ne_true
  unfold State.capsOf at habsent hworst hpages
  unfold State.binsOf Env.binTable at habsent hworst hpages hnone
  constructor
  · intro ha
    show execCpyb g f s = _
    rw [execCpyb, h.copyOp l hfull hc, State.readArray_ready _ hd hp]
    simp only [habsent, hworst, hpages, hnone, ha, Bool.false_eq_true, if_false]
  · intro n u ha
    show execCpyb g f s = _
    rw [execCpyb, h.copyOp l hfull hc, State.readArray_ready _ hd hp]
    simp only [habsent, hworst, hpages, hnone, ha, Bool.false_eq_true, if_false]
    rfl

end

end

end Sys2Proof.Machine
end

section
/-! Copies issue, and what they lock (spec 08, R211 to R222; 07, R183). -/

namespace Sys2Proof.Machine

section
variable {s : State} {e : Env} {g : Guard} {f : FMC}

/-- With no place to begin, one of some conditions is the lowest. -/
theorem lowestTrap_cons {c : Nat × Nat × Bool} {l : List (Nat × Nat × Bool)} (h : ∀ x ∈ l, c.1 ≤ x.1) : lowestTrap (c :: l) = some c := by
  have keep (l : List (Nat × Nat × Bool)) (h : ∀ x ∈ l, c.1 ≤ x.1) :
      l.foldl (fun b c => match b with | none => some c | some x => if c.1 < x.1 then some c else b) (some c) = some c := by
    induction l with
    | nil => rfl
    | cons x l ih =>
      rw [List.foldl_cons]
      dsimp only
      rw [if_neg (Nat.not_lt.2 (h x List.mem_cons_self))]
      exact ih (fun y hy => h y (List.mem_cons_of_mem _ hy))
  exact keep l h

/-- Conditions of a side have codes of their own, above that of the rights. -/
theorem State.spadSide_codes {base idx : BitVec 9} {gs wr : Bool} {n align : Nat} {x : Nat × Nat × Bool}
    (h : x ∈ (s.spadSide e base idx gs n align wr).2) : 0x20 ≤ x.1 := by
  unfold State.spadSide at h
  dsimp only at h
  split at h
  · rw [List.mem_singleton.1 h]
  · rcases List.mem_append.1 h with h | h
    · split at h
      · rw [List.mem_singleton.1 h]
      · cases h
    · split at h
      · rw [List.mem_singleton.1 h]
        exact Nat.le_of_ble_eq_true rfl
      · cases h

theorem Env.globalSide_codes {base idx : BitVec 9} {wr : Bool} {align : Nat} {x : Nat × Nat × Bool}
    (h : x ∈ (e.globalSide base idx align wr).2) : 0x20 ≤ x.1 := by
  unfold Env.globalSide at h
  dsimp only at h
  split at h
  · rw [List.mem_singleton.1 h]
    exact Nat.le_of_ble_eq_true rfl
  · cases h

theorem State.cpySides_codes {x : Nat × Nat × Bool} (h : x ∈ (s.cpySides e f).1.2 ++ (s.cpySides e f).2.2) : 0x20 ≤ x.1 := by
  unfold State.cpySides at h
  dsimp only at h
  rcases List.mem_append.1 h with h | h
  · split at h
    · exact State.spadSide_codes h
    · exact Env.globalSide_codes h
  · split at h
    · exact State.spadSide_codes h
    · exact Env.globalSide_codes h

theorem rightsTrap_of_other {ts : List Nat} (h : ∃ n ∈ ts, n / 32 ≠ e.l.producer) : rightsTrap e ts = [(0x11, 0, false)] := by
  obtain ⟨n, hn, hp⟩ := h
  exact if_pos (List.any_eq_true.2 ⟨n, hn, by simpa [hgrpOf] using hp⟩)

/-- A `cpy` of a thread outside the producer home group takes code 0x11. -/
theorem Issuable.cpy_rights (h : Issuable s e g (.cpy g f)) (hp : ∃ n ∈ s.lanes e g, n / 32 ≠ e.l.producer) :
    exec (.cpy g f) s = .next (s.takeTrap e { code := 0x11, daddr := 0, wr := false }) := by
  have l : s.someLane e g := fun hl => by
    obtain ⟨n, hn, -⟩ := hp
    rw [hl] at hn
    cases hn
  have hlow : lowestTrap (rightsTrap e (s.lanes e g) ++ ((s.cpySides e f).1.2 ++ (s.cpySides e f).2.2)) = some (0x11, 0, false) := by
    rw [rightsTrap_of_other hp]
    exact lowestTrap_cons (fun x hx => Nat.le_trans (by decide) (State.cpySides_codes hx))
  show execCpy g f s = _
  unfold execCpy Machine.copyOp
  rw [h.groupOp l]
  simp only [hlow]

/-- A full engine holds the next `cpy`. -/
theorem Issuable.cpy_full (h : Issuable s e g (.cpy g f)) (l : s.someLane e g)
    (hc : lowestTrap (rightsTrap e (s.lanes e g) ++ ((s.cpySides e f).1.2 ++ (s.cpySides e f).2.2)) = none)
    (hfull : s.engineFull e.g.core = true) : exec (.cpy g f) s = .next (s.hold e) := by
  show execCpy g f s = _
  unfold execCpy Machine.copyOp
  rw [h.groupOp l]
  simp only [hc, hfull, if_true]

/-- A copy in flight holds both its sides. -/
theorem State.cpyOrder_locks (s : State) (e : Env) (ts : List Nat) (f : FMC) (hn : f.cl.toNat / 16 * 64 ≠ 0) (dst : Bool) :
    ∃ k ∈ (s.addEngine e ts (s.cpyOrder e f)).locks, k.owner = s.nextId ∧ k.dst = dst ∧ k.world = e.gang.world ∧
      k.covers (Config.dieOfCore e.g.core) (f.cl.toNat / 16 * 64) (if dst then (s.cpySides e f).1.1 else (s.cpySides e f).2.1) := by
  have hlocks (u : State) : ((if decide (8192 ≤ (s.cpyOrder e f).bytes) then u.askLeave (Config.dieOfCore e.g.core) s.nextId
      (((s.cpyOrder e f).bytes + 8191) / 8192) false else u).modThreads e.w.id ts (fun t => { t with cp := t.cp + 1 })).locks = u.locks := by
    rw [State.modThreads_locks]
    split <;> rfl
  rw [State.addEngine_eq, hlocks]
  cases dst with
  | false =>
    obtain ⟨k, hk, howner, hdst, hworld, hcov⟩ := (s.queued e ts (s.cpyOrder e f)).mem_lockLocs s.nextId e.gang.world (Config.dieOfCore e.g.core)
      (s.cpySides e f).2.1 false hn
    exact ⟨k, State.locks_lockLocs_sub _ _ _ _ _ _ hk, howner, hdst, hworld, hcov⟩
  | true =>
    obtain ⟨k, hk, howner, hdst, hworld, hcov⟩ := ((s.queued e ts (s.cpyOrder e f)).lockLocs s.nextId e.gang.world (Config.dieOfCore e.g.core)
      (s.cpyOrder e f).from false).mem_lockLocs s.nextId e.gang.world (Config.dieOfCore e.g.core) (s.cpySides e f).1.1 true hn
    exact ⟨k, hk, howner, hdst, hworld, hcov⟩

end

/-! The slot of a ring copy. -/

/-- A ring copy of a workgroup whose slot is free and not yet registered. -/
def State.ringReady (s : State) (wg : Nat) (o : EngineOp) : Bool :=
  o.wg == wg && s.ringFree o && (match o.kind with | .ring .. => true | _ => false) && o.stage == .queued &&
    !s.locks.any (fun k => k.owner == o.id && k.dst)

/-- Its slot is registered. -/
def State.lockSlotOf (wg : Nat) (s : State) (o : EngineOp) : State :=
  match s.slotOf o with
  | some b => s.addLock o.id o.world true wg b.1 (b.1 + b.2) true
  | none => s

theorem State.registerSlots_eq (s : State) (wg : Nat) :
    s.registerSlots wg = (s.engines.filter (s.ringReady wg)).foldl (State.lockSlotOf wg) s := rfl

theorem State.lockSlotOf_locks (wg : Nat) (s : State) (o : EngineOp) : ∃ locks, State.lockSlotOf wg s o = { s with locks } := by
  unfold State.lockSlotOf
  split
  · exact State.addLock_locks ..
  · exact ⟨s.locks, rfl⟩

theorem State.locks_lockSlotOf_sub (wg : Nat) (s : State) (o : EngineOp) {k : RangeLock} (h : k ∈ s.locks) : k ∈ (State.lockSlotOf wg s o).locks := by
  unfold State.lockSlotOf
  split
  · exact State.locks_addLock_sub _ _ _ _ _ _ _ _ h
  · exact h

theorem State.mem_foldl_lockSlotOf {wg : Nat} (l : List EngineOp) {o : EngineOp} {lo n : Nat} (ho : o ∈ l) (s : State)
    (hslot : s.slotOf o = some (lo, n)) (hn : 0 < n) : ∃ k ∈ (l.foldl (State.lockSlotOf wg) s).locks,
      k.owner = o.id ∧ k.dst = true ∧ k.spad = true ∧ k.place = wg ∧ k.lo = lo / 64 * 64 ∧ k.hi = (lo + n + 63) / 64 * 64 := by
  have kept (l : List EngineOp) (s : State) {k : RangeLock} (hk : k ∈ s.locks) : k ∈ (l.foldl (State.lockSlotOf wg) s).locks := by
    induction l generalizing s with
    | nil => exact hk
    | cons x l ih => exact ih _ (State.locks_lockSlotOf_sub wg s x hk)
  induction l generalizing s with
  | nil => cases ho
  | cons x l ih =>
    rw [List.foldl_cons]
    rcases List.mem_cons.1 ho with rfl | ho
    · obtain ⟨k, hk, howner, -, hdst, hspad, hplace, hlo, hhi⟩ := s.mem_addLock o.id o.world true wg (lo := lo) (hi := lo + n) true (by omega)
      refine ⟨k, kept l _ ?_, howner, hdst, hspad, hplace, hlo, hhi⟩
      simp only [State.lockSlotOf, hslot]
      exact hk
    · obtain ⟨_, hl⟩ := State.lockSlotOf_locks wg s x
      exact ih ho _ (by rw [hl]; exact hslot)

theorem State.addEngine_engines (s : State) (e : Env) (ts : List Nat) (o : Order) :
    (s.addEngine e ts o).engines = s.engines ++ [s.newEngine e ts o] := by
  obtain ⟨_, _, _, ha⟩ := s.addEngine_only e ts o
  rw [ha]

/-- What a `cpyb` leaves before it issues: the pager's work, an arrival entry, and notes of what was read. -/
theorem State.binsNoted_after {s p u : State} {e : Env} {f : FMC} {ps : List (Workgroup × Nat)} {n : Nat}
    (hp : s.touchPages false ps = .ready p) (hu : p.arrivalFor e.gang = some (n, u)) (ts : List Nat) :
    (p.binsNoted u e f ts).engines = s.engines ∧ (p.binsNoted u e f ts).locks = s.locks ∧ (p.binsNoted u e f ts).threads = s.threads ∧
    SameMemory p (p.binsNoted u e f ts) ∧ ∀ {t : State}, SameMemory p t → SameButBacking s t := by
  obtain ⟨⟨_, _, _, _, hpeq⟩, hback⟩ := State.touchPages_paged hp
  obtain ⟨arrivals, _, _, hueq⟩ := State.arrivalFor_only hu
  obtain ⟨_, _, _, hv⟩ := State.binsNoted_only (e := e) (f := f) p u ts
  rw [hv]
  refine ⟨by rw [hueq, hpeq], by rw [hueq, hpeq], by rw [hueq, hpeq], sameMemory_of (by rw [hueq]) (by rw [hueq]), fun hm => ?_⟩
  exact hback.trans hm.butBacking (by rw [hpeq]) (by rw [hpeq]) (by rw [hpeq])

end Sys2Proof.Machine

namespace Sys2Proof
open Sys2Proof.Machine

/-- Settles O29: the order of the conditions, the engine's room, and the granules that `lockLocs` rounds out to. -/
theorem copyRightsAndLocks : Obligations.CopyRightsAndLocks := by
  unfold Obligations.CopyRightsAndLocks
  refine ⟨⟨fun g f s e h hp => h.cpy_rights hp, fun g f s e h l hc hfull => h.cpy_full l hc (decide_eq_true hfull)⟩, ?copy, ?ring⟩
  case copy =>
    intro g f s e h l hfull hc n hn
    refine ⟨_, h.cpy l hfull hc, fun dst => ?_⟩
    obtain ⟨k, hk, howner, hdst, hworld, hcov⟩ := s.cpyOrder_locks e (s.lanes e g) f hn dst
    refine ⟨k, ?_, howner, hdst, hworld, hcov⟩
    show k ∈ (State.modThreads _ _ _ _).locks
    rwa [State.modThreads_locks]
  case ring =>
    intro s wg n seq o w r ho hwg hkind hstage hfree hlocks hw hr hbytes lo
    have hslot : s.slotOf o = some (r.base + seq.toNat % r.depth * r.bytes, r.bytes) := by
      simp only [State.slotOf, hkind, hwg, hw, Option.bind_some, hr, Option.map_some]
    have hno : s.locks.any (fun k => k.owner == o.id && k.dst) = false := by
      rw [List.any_eq_false]
      intro k hk hc
      obtain ⟨howner, hdst⟩ := Bool.and_eq_true_iff.1 hc
      rw [hlocks k hk (beq_iff_eq.1 howner)] at hdst
      cases hdst
    have hready : s.ringReady wg o = true := by
      simp only [State.ringReady, hwg, hfree, hkind, hstage, hno, beq_self_eq_true, Bool.not_false, Bool.and_self]
    rw [State.registerSlots_eq]
    exact State.mem_foldl_lockSlotOf _ (List.mem_filter.2 ⟨ho, hready⟩) s hslot hbytes

/-- Settles O28: each copy instruction is `addEngine` of its own order, in the state that the pager or an arrival entry leaves. -/
theorem copiesIssue : Obligations.CopiesIssue := by
  unfold Obligations.CopiesIssue
  refine ⟨fun g f s e l hfull => ⟨fun h hc => ?cpy, fun h hc lay base pitch hs => ?lw, fun r hr h hc => ?ring, fun h hc => ⟨fun hm => ?none, fun p hm hd hp => ?gather⟩⟩,
    fun g f s e l hfull h => ?bins⟩
  case cpy => exact copyIssued (h.cpy l hfull hc)
  case lw =>
    obtain ⟨t, ht, hissued, hwgs⟩ := copyIssued (h.cpyLw l hfull hc hs)
    have hsegs : (lwElems lay base pitch).map (e.lwSeg f) = (lwElems lay base pitch).map (fun x =>
        if cpyDir f = 0 then ⟨.va x.1, .spad e.w.id x.2.1, x.2.2⟩ else ⟨.spad e.w.id x.2.1, .va x.1, x.2.2⟩) := rfl
    refine ⟨t, ht, hwgs, (lwElems lay base pitch).map (e.lwSeg f), ?_, hsegs⟩
    generalize (lwElems lay base pitch).map (e.lwSeg f) = segs at hissued ⊢
    exact hissued
  case ring =>
    have hsub : ∀ t ∈ s.lanes e g, t ∈ e.g.members := fun _ => State.lanes_sub
    obtain ⟨locks, hl⟩ := ((s.nextSeq e (f.cl.toNat % 8) r).addEngine e (s.lanes e g) (e.ringOrder f r)).registerSlots_locks e.w.id
    have hrings := State.wg?_nextSeq (State.wg?_of_issuer h.issuer) (f.cl.toNat % 8) r
    refine ⟨_, h.cpyRing l hfull hc hr, ?_, _, Eq.trans (State.wg?_congr ?_ _) hrings, getElem?_listSet _ _ _ hr, rfl, rfl⟩
    · have hissued := (engineIssued_done (p := s.nextSeq e (f.cl.toNat % 8) r) hsub ⟨locks, hl⟩).1
      exact hissued
    · rw [hl]
      exact (State.modThreads_wgs ..).trans (State.addEngine_wgs ..)
  case none => exact h.cpyg_none l hfull hc hm
  case gather =>
    have hsub : ∀ t ∈ s.lanes e g, t ∈ e.g.members := fun _ => State.lanes_sub
    obtain ⟨⟨_, _, _, _, hpeq⟩, hback⟩ := State.touchPages_paged hp
    obtain ⟨hissued, hmem⟩ := engineIssued_addEngine (p := p) (o := p.gatherOrder e f) hsub
    have hworlds : p.worlds = s.worlds := by rw [hpeq]
    have hwgs : p.wgs = s.wgs := by rw [hpeq]
    have hgangs : p.gangs = s.gangs := by rw [hpeq]
    refine ⟨_, h.cpyg l hfull hc hm hd hp, hback.trans hmem.butBacking hworlds hwgs hgangs,
      ((State.modThreads_wgs ..).trans (State.addEngine_wgs ..)).trans hwgs, _, hissued, ?_, ?_, ?_⟩
    · exact List.map_map ..
    · exact List.map_map ..
    · intro x hx
      obtain ⟨i, -, rfl⟩ := List.mem_map.1 hx
      rfl
  case bins =>
    intro ts m x table bins hc
    have hsub : ∀ t ∈ s.lanes e g, t ∈ e.g.members := fun _ => State.lanes_sub
    refine ⟨fun p hd hp hclear haway => ⟨fun ha => ?_, fun hm ha => ?_⟩, fun p hm hd hp hclear haway ha => ?_⟩
    · exact (h.cpyb l hfull hc hd hp hclear haway).1 ha
    · obtain ⟨⟨n, u⟩, hu⟩ := Option.ne_none_iff_exists'.1 ha
      have hx := (h.cpyb l hfull hc hd hp hclear haway).2 n u hu
      rw [if_pos (beq_iff_eq.2 hm)] at hx
      obtain ⟨hengines, hlocks, hthreads, hmem, hback⟩ := State.binsNoted_after (f := f) hp hu (s.lanes e g)
      have hdone : SameMemory p ((p.binsNoted u e f (s.lanes e g)).advance e).progress :=
        hmem.trans (sameMemory_iod (State.modThreads_mem ..) (State.modThreads_iod ..))
      exact ⟨_, hx, hdone, hback hdone, (State.modThreads_engines ..).trans hengines, (State.modThreads_locks ..).trans hlocks,
        threadsBecome_next hthreads⟩
    · obtain ⟨⟨n, u⟩, hu⟩ := Option.ne_none_iff_exists'.1 ha
      have hx := (h.cpyb l hfull hc hd hp hclear haway).2 n u hu
      rw [if_neg (by simpa using hm)] at hx
      obtain ⟨hengines, -, hthreads, hmem, hback⟩ := State.binsNoted_after (f := f) hp hu (s.lanes e g)
      obtain ⟨⟨-, ⟨hin, hout⟩, -, -, -⟩, hissued⟩ :=
        engineIssued_addEngine (p := p.binsNoted u e f (s.lanes e g)) (o := p.binOrder (p.binsNoted u e f (s.lanes e g)) e f) hsub
      have hdone := hmem.trans hissued
      refine ⟨_, hx, hdone, hback hdone, ⟨fun n hn => ?_, fun wg n hn => ?_⟩,
        (p.binsNoted u e f (s.lanes e g)).newEngine e (s.lanes e g) (p.binOrder (p.binsNoted u e f (s.lanes e g)) e f), ?_, rfl, rfl, rfl,
        p.rowsOf (p.binsNoted u e f (s.lanes e g)) e f, (p.capsOf e f).map (·.2), rfl, rfl, State.rowsOf_fst .., fun c hc => State.capsOf_entry p hc⟩
      · rw [hin n hn, State.thread_congr hthreads]
      · rw [hout wg n hn, State.thread_congr hthreads]
      · exact (State.modThreads_engines ..).trans ((State.addEngine_engines ..).trans (by rw [hengines]))

end Sys2Proof
end

section
/-! Accesses issue: a flight for each lane, and the conditions that come before (spec 08, R192 to R207). -/

namespace Sys2Proof.Machine

/-! The lanes of an access. -/

theorem State.mem_lanes_of_lanesAsc {s : State} {e : Env} {g : Guard} {t : Nat} (h : t ∈ s.lanesAsc e g) : t ∈ s.lanes e g := by
  obtain ⟨L, -, hL⟩ := List.mem_filterMap.1 h
  exact List.mem_of_find?_eq_some hL

theorem State.lanesAsc_sub {s : State} {e : Env} {g : Guard} {t : Nat} (h : t ∈ s.lanesAsc e g) : t ∈ e.g.members :=
  State.lanes_sub (State.mem_lanes_of_lanesAsc h)

/-- No thread is in two lanes. -/
theorem State.lanesAsc_nodup (s : State) (e : Env) (g : Guard) : (s.lanesAsc e g).Nodup := by
  refine List.Nodup.filterMap (fun L L' t h h' => ?_) List.nodup_range
  have hL : laneOf t = L := beq_iff_eq.1 (List.find?_some (p := fun t => laneOf t == L) h)
  have hL' : laneOf t = L' := beq_iff_eq.1 (List.find?_some (p := fun t => laneOf t == L') h')
  exact hL.symm.trans hL'

/-! A flight is added. -/

theorem State.fillPages_eq (s : State) (e : Env) (xs : List Elem) : ∃ tlb, s.fillPages e xs = { s with tlb } := by
  unfold State.fillPages
  induction dedup (xs.map (fun x => x.va / 65536)) generalizing s with
  | nil => exact ⟨s.tlb, rfl⟩
  | cons p l ih =>
    rw [List.foldl_cons]
    obtain ⟨tlb, h⟩ := s.tlbFill_eq e.g.core e.gang.world (p * 65536)
    obtain ⟨tlb', h'⟩ := ih (s.tlbFill e.g.core e.gang.world (p * 65536))
    exact ⟨tlb', by rw [h', h]⟩

theorem State.addFlight_eq (s : State) (e : Env) (m : Form) (tids : List Nat) (xs : List Elem) (reserve : Bool) (before : List (Nat × Nat))
    (batch : Nat) : ∃ tlb launches, s.addFlight e m tids xs reserve before batch =
      { s with
        nextId := s.nextId + 1, flights := s.flights ++ [s.newFlight e m tids xs reserve before batch], tlb, launches
        threads := (s.modThreads e.w.id tids (fun t => t.issued m.inLd)).threads } := by
  unfold State.addFlight
  dsimp only
  have filled (u : State) : ∃ tlb, (if m.spad = true then u else u.fillPages e xs) = { u with tlb } := by
    split
    · exact ⟨u.tlb, rfl⟩
    · exact u.fillPages_eq e xs
  obtain ⟨tlb, htlb⟩ := filled { s with nextId := s.nextId + 1, flights := s.flights ++ [s.newFlight e m tids xs reserve before batch] }
  rw [htlb]
  split
  · exact ⟨tlb, _, State.modThreads_of_threads (s := s) (by rfl) ..⟩
  · exact ⟨tlb, s.launches, State.modThreads_of_threads (s := s) (by rfl) ..⟩

/-- What every flight of an access has from its form. -/
def Form.Makes (m : Form) (e : Env) (kind : Nat → FlightKind) (f : Flight) : Prop :=
  f.inLd = m.inLd ∧ f.wg = e.w.id ∧ f.passed = false ∧ f.pred = m.pred ∧ ∀ n ∈ f.tids, f.kind = kind n

theorem State.modThreads_cons (s : State) (wg : Nat) {n : Nat} {l : List Nat} (h : n ∉ l) (f : Thread → Thread) :
    s.modThreads wg (n :: l) f = (s.modThreads wg [n] f).modThreads wg l f := by
  simp only [State.modThreads, dedup, if_neg h, List.not_mem_nil, if_false, List.foldl_cons, List.foldl_nil]

theorem State.vregs_modThreads_issued (s : State) (wg : Nat) (l : List Nat) (inLd : Bool) (wg' n : Nat) :
    ((s.modThreads wg l (fun t => t.issued inLd)).thread wg' n).vregs = (s.thread wg' n).vregs := by
  rcases s.thread_modThreads_cases wg l (fun t => t.issued inLd) wg' n with h | h <;> rw [h]
  cases inLd <;> rfl

/-- The kind of an access depends on its thread's registers alone. -/
def Form.Kinds (m : Form) (s : State) (e : Env) (kind : Nat → FlightKind) : Prop :=
  ∀ n (x : Thread), x.vregs = (s.thread e.w.id n).vregs → m.kind x = kind n

theorem State.addFlights_cons (s : State) (e : Env) (m : Form) (reserve writes : Bool) (done l : List (Nat × List Elem)) (t : Nat) (xs : List Elem) :
    ∃ before batch, s.addFlights e m reserve writes done ((t, xs) :: l) =
      (s.addFlight e m [t] xs reserve before batch).addFlights e m reserve writes (done ++ [(s.nextId, xs)]) l :=
  ⟨_, _, rfl⟩

theorem State.addFlights_eq {e : Env} {m : Form} {reserve writes : Bool} {kind : Nat → FlightKind} (l done : List (Nat × List Elem))
    (hl : (l.map (·.1)).Nodup) (s : State) (hk : m.Kinds s e kind) : ∃ fs nextId tlb launches,
      s.addFlights e m reserve writes done l = { s with
        nextId, flights := s.flights ++ fs, tlb, launches
        threads := (s.modThreads e.w.id (l.map (·.1)) (fun t => t.issued m.inLd)).threads } ∧
      fs.map (fun f => (f.tids, f.elems)) = l.map (fun x => ([x.1], x.2)) ∧ ∀ f ∈ fs, m.Makes e kind f := by
  induction l generalizing s done with
  | nil => exact ⟨[], s.nextId, s.tlb, s.launches, by simp [State.addFlights, State.modThreads, dedup], rfl, by simp⟩
  | cons x l ih =>
    obtain ⟨t, xs⟩ := x
    obtain ⟨before, batch, hcons⟩ := s.addFlights_cons e m reserve writes done l t xs
    rw [hcons]
    obtain ⟨ht, hl⟩ := List.nodup_cons.1 hl
    obtain ⟨tlb, launches, h⟩ := s.addFlight_eq e m [t] xs reserve before batch
    have hthreads : (s.addFlight e m [t] xs reserve before batch).threads = (s.modThreads e.w.id [t] (fun t => t.issued m.inLd)).threads := by
      rw [h]
    have hk' : m.Kinds (s.addFlight e m [t] xs reserve before batch) e kind := by
      intro n x hx
      refine hk n x (hx.trans ?_)
      rw [State.thread_congr hthreads]
      exact s.vregs_modThreads_issued ..
    obtain ⟨fs, nextId, tlb', launches', h', hfs, hmake⟩ := ih (done ++ [(s.nextId, xs)]) hl _ hk'
    refine ⟨s.newFlight e m [t] xs reserve before batch :: fs, nextId, tlb', launches', ?_, ?_, ?_⟩
    · rw [h', State.threads_modThreads_congr hthreads, h]
      simp only [List.map_cons, State.modThreads_cons s e.w.id ht, List.append_assoc, List.singleton_append]
    · rw [List.map_cons, List.map_cons, hfs]
      rfl
    · intro f hf
      rcases List.mem_cons.1 hf with rfl | hf
      · refine ⟨rfl, rfl, rfl, rfl, fun n hn => ?_⟩
        rw [List.mem_singleton.1 hn]
        exact hk t _ rfl
      · exact hmake f hf

/-! The end of an access. -/

theorem Env.without_nil (e : Env) : e.without [] = e := by
  simp [Env.without]

theorem State.doneWithout_nil (s : State) (e : Env) :
    s.doneWithout e [] = .next ((s.advance e).modGroup e.g.id (fun g => { g with rejects := 0, paged := false })).progress := by
  rw [State.doneWithout, Env.without_nil]

/-- What an access leaves that issues for every lane of a list, in the state `p` that the pager made of `s`. -/
def Accesses (s p t : State) (e : Env) (m : Form) (l : List (Nat × List Elem)) (kind : Nat → FlightKind) : Prop :=
  (∃ fs, t.flights = s.flights ++ fs ∧ fs.map (fun f => (f.tids, f.elems)) = l.map (fun x => ([x.1], x.2)) ∧ ∀ f ∈ fs, m.Makes e kind f) ∧
  ThreadsBecome s t e (fun n x => if n ∈ l.map (·.1) then (x.issued m.inLd).next else x.next) ∧
  SameMemory p t ∧ t.versions = s.versions ∧ t.wgs = s.wgs ∧ t.worlds = s.worlds

theorem Accesses.issued {s p t : State} {e : Env} {m : Form} {l : List (Nat × List Elem)} {kind : Nat → FlightKind} (h : Accesses s p t e m l kind) :
    AccessIssued s p t e l m.inLd kind := by
  obtain ⟨⟨fs, hf, hfs, hmake⟩, ⟨hin, hout⟩, hkept⟩ := h
  refine ⟨⟨fs, hf, hfs, fun f hf n hn => ?_⟩, ⟨fun n hn => ?_, hout⟩, hkept⟩
  · obtain ⟨hin, hwg, hpassed, -, hkind⟩ := hmake f hf
    exact ⟨hkind n hn, hin, hwg, hpassed⟩
  · exact hin n hn

/-- An access that issues for every lane. -/
theorem accesses_of_addFlights {s p : State} {e : Env} {m : Form} {reserve writes : Bool} {kind : Nat → FlightKind} {l : List (Nat × List Elem)}
    {keep : State → State} (hkeep : ∀ u, ∃ groups, keep u = { u with groups }) (hp : p.flights = s.flights ∧ p.threads = s.threads ∧
      p.versions = s.versions ∧ p.wgs = s.wgs ∧ p.worlds = s.worlds)
    (hl : (l.map (·.1)).Nodup) (hsub : ∀ n ∈ l.map (·.1), n ∈ e.g.members) (hk : m.Kinds p e kind) :
    Out.Leads ((keep (p.addFlights e m reserve writes [] l)).doneWithout e []) (fun t => Accesses s p t e m l kind) := by
  obtain ⟨hflights, hthreads, hversions, hwgs, hworlds⟩ := hp
  obtain ⟨fs, nextId, tlb, launches, h, hfs, hmake⟩ := State.addFlights_eq (reserve := reserve) (writes := writes) l [] hl p hk
  obtain ⟨groups, hg⟩ := hkeep (p.addFlights e m reserve writes [] l)
  refine ⟨_, State.doneWithout_nil .., ?_⟩
  rw [hg, h]
  refine ⟨⟨fs, ?_, hfs, hmake⟩, ⟨?_, ?_⟩, ?_, ?_, ?_, ?_⟩
  · exact (State.modThreads_flights ..).trans (by rw [hflights])
  · intro n hn
    rw [State.thread_progress, State.thread_modGroup, State.thread_advance _ _ _ hn]
    have hn' := (p.thread_modThreads e.w.id (l.map (·.1)) (fun t => t.issued m.inLd) n)
    rw [State.thread_congr hthreads] at hn'
    refine (congrArg Thread.next hn').trans ?_
    dsimp only
    split
    · rfl
    · rfl
  · intro wg n hn
    rw [State.thread_progress, State.thread_modGroup, State.thread_advance_other _ _ _ _ hn]
    exact (p.thread_modThreads_other e.w.id (l.map (·.1)) (fun t => t.issued m.inLd) wg n (fun u hu => hn u (hsub u hu))).trans
      (State.thread_congr hthreads ..)
  · exact sameMemory_iod (State.modThreads_mem ..) (State.modThreads_iod ..)
  · exact (State.modThreads_versions ..).trans hversions
  · exact (State.modThreads_wgs ..).trans hwgs
  · exact (State.modThreads_worlds ..).trans hworlds

/-- What leads to one state leads to one that says less. -/
theorem Out.Leads.imp {o : Out} {p q : State → Prop} (h : o.Leads p) (hpq : ∀ t, p t → q t) : o.Leads q := by
  obtain ⟨t, ht, hp⟩ := h
  exact ⟨t, ht, hpq t hp⟩

/-! The lowest code of some lanes. -/

theorem worst_of_none {cs : List (Nat × Cond)} (h : ∀ c ∈ cs, c.2.traps = []) : worst cs = none := by
  have hnil : cs.flatMap (fun c => c.2.traps) = [] := List.flatMap_eq_nil_iff.2 h
  rw [worst, hnil]
  rfl

/-- The lower of two conditions, the first where they are alike. -/
def lowerTrap (b : Option (Nat × Nat × Bool)) (t : Nat × Nat × Bool) : Option (Nat × Nat × Bool) :=
  match b with
  | none => some t
  | some x => if t.1 < x.1 then some t else b

theorem worst_eq (cs : List (Nat × Cond)) : worst cs = (cs.flatMap (fun c => c.2.traps)).foldl lowerTrap none := rfl

theorem foldl_lowerTrap_le (l : List (Nat × Nat × Bool)) {b : Option (Nat × Nat × Bool)} {y : Nat × Nat × Bool} (h : l.foldl lowerTrap b = some y) :
    (∀ x ∈ b, y.1 ≤ x.1) ∧ ∀ x ∈ l, y.1 ≤ x.1 := by
  induction l generalizing b with
  | nil =>
    obtain rfl : b = some y := h
    simp
  | cons t l ih =>
    obtain ⟨hb, hl⟩ := ih h
    cases b with
    | none => exact ⟨by simp, fun x hx => (List.mem_cons.1 hx).elim (fun h => h ▸ hb t rfl) (hl x)⟩
    | some x =>
      simp only [lowerTrap] at hb
      split at hb <;> rename_i hlt
      · have := hb t rfl
        refine ⟨fun z hz => ?_, fun z hz => (List.mem_cons.1 hz).elim (fun h => h ▸ this) (hl z)⟩
        obtain rfl := Option.some.inj hz
        omega
      · have := hb x rfl
        refine ⟨fun z hz => Option.some.inj hz ▸ this, fun z hz => (List.mem_cons.1 hz).elim (fun h => ?_) (hl z)⟩
        rw [h]
        omega

theorem worst_le {cs : List (Nat × Cond)} {y : Nat × Nat × Bool} (h : worst cs = some y) {c : Nat × Cond} (hc : c ∈ cs)
    {x : Nat × Nat × Bool} (hx : x ∈ c.2.traps) : y.1 ≤ x.1 :=
  (foldl_lowerTrap_le _ ((worst_eq cs).symm.trans h)).2 x (List.mem_flatMap.2 ⟨c, hc, hx⟩)

theorem foldl_lowerTrap_some (l : List (Nat × Nat × Bool)) (x : Nat × Nat × Bool) : l.foldl lowerTrap (some x) ≠ none := by
  induction l generalizing x with
  | nil => simp
  | cons t l ih =>
    rw [List.foldl_cons, lowerTrap]
    split
    · exact ih t
    · exact ih x

/-- No lane traps where there is no lowest code. -/
theorem traps_of_worst {cs : List (Nat × Cond)} (h : worst cs = none) {c : Nat × Cond} (hc : c ∈ cs) : c.2.traps = [] := by
  rw [worst_eq] at h
  cases hl : cs.flatMap (fun c => c.2.traps) with
  | nil => exact List.flatMap_eq_nil_iff.1 hl c hc
  | cons t l =>
    rw [hl] at h
    exact absurd h (foldl_lowerTrap_some l t)

theorem findSome_absent_none {cs : List (Nat × Cond)} (h : ∀ c ∈ cs, c.2.absent = none) : cs.findSome? (fun c => c.2.absent) = none :=
  List.findSome?_eq_none_iff.2 h

/-! The conditions of a global access. -/

section
variable {s : State} {e : Env} {a : Access} {m : Form} {cs : List (Nat × Cond)}

/-- A trapping lane stops a global access before it has an effect. -/
theorem State.globalAccess_trap (ha : ∀ c ∈ cs, c.2.absent = none) {code va : Nat} {mal : Bool} (hw : worst cs = some (code, va, mal)) :
    s.globalAccess e a m cs = .next (s.takeTrap e { code, daddr := va, wr := a != .read, mal }) := by
  simp only [State.globalAccess, findSome_absent_none ha, hw]

/-- A global access that no lane stops issues for the lanes that do not park. -/
theorem State.globalAccess_issues (ha : ∀ c ∈ cs, c.2.absent = none) (hw : worst cs = none)
    (hm : s.miss e (linesOf ((cs.filter (fun c => !c.2.parks)).flatMap (fun c => c.2.elems))).length ≠ .reject) :
    ∃ reserve, s.globalAccess e a m cs =
      ((s.addFlights e m reserve (a != .read) [] ((cs.filter (fun c => !c.2.parks)).map (fun c => (c.1, c.2.elems)))).parkLanes e
        (a != .read) cs).doneWithout e ((cs.filter (fun c => c.2.parks)).map (·.1)) := by
  simp only [State.globalAccess, findSome_absent_none ha, hw]
  cases h : s.miss e (linesOf ((cs.filter (fun c => !c.2.parks)).flatMap (fun c => c.2.elems))).length with
  | reject => exact absurd h hm
  | free => exact ⟨false, rfl⟩
  | reserve => exact ⟨true, rfl⟩

theorem parks_of_clear {c : Cond} (h : c.clear) : c.parks = false := by
  obtain ⟨-, hpages, hfull, -⟩ := h
  simp [Cond.parks, hpages, hfull]

/-- Where no lane parks the group keeps its members. -/
theorem State.parkLanes_of_clear (s : State) (e : Env) (wr : Bool) {cs : List (Nat × Cond)} (h : ∀ c ∈ cs, c.2.clear) :
    s.parkLanes e wr cs = s.keepMembers e.g.id e.g.members := by
  have hbad : cs.filter (fun c => c.2.parks) = [] := List.filter_eq_nil_iff.2 (fun c hc => by simp [parks_of_clear (h c hc)])
  simp only [State.parkLanes, hbad]
  simp [State.recordPages, pageReps]

/-- A global access of lanes that meet no condition. -/
theorem State.globalAccess_of_clear {kind : Nat → FlightKind} (hc : ∀ c ∈ cs, c.2.clear)
    (hm : s.miss e (linesOf (cs.flatMap (fun c => c.2.elems))).length ≠ .reject)
    (hl : (cs.map (·.1)).Nodup) (hsub : ∀ n ∈ cs.map (·.1), n ∈ e.g.members) (hk : m.Kinds s e kind) :
    Out.Leads (s.globalAccess e a m cs) (fun t => Accesses s s t e m (cs.map (fun c => (c.1, c.2.elems))) kind) := by
  have hall : cs.filter (fun c => !c.2.parks) = cs := List.filter_eq_self.2 (fun c hc' => by simp [parks_of_clear (hc c hc')])
  have hnone : cs.filter (fun c => c.2.parks) = [] := List.filter_eq_nil_iff.2 (fun c hc' => by simp [parks_of_clear (hc c hc')])
  obtain ⟨reserve, h⟩ := State.globalAccess_issues (m := m) (a := a) (fun c hc' => (hc c hc').2.2.2) (worst_of_none (fun c hc' => (hc c hc').1)) (by rwa [hall])
  rw [h, hall, hnone, State.parkLanes_of_clear _ _ _ hc]
  have hfst : (cs.map (fun c => (c.1, c.2.elems))).map (·.1) = cs.map (·.1) := by simp
  exact accesses_of_addFlights (keep := fun u => u.keepMembers e.g.id e.g.members) (fun u => u.keepMembers_eq _ _) ⟨rfl, rfl, rfl, rfl, rfl⟩
    (by rwa [hfst]) (by rwa [hfst]) hk

end

theorem map_fst_pair {β : Type} (l : List Nat) (f : Nat → β) : (l.map (fun n => (n, f n))).map (·.1) = l := by
  rw [List.map_map]
  exact List.map_id _

/-- The lanes of an access are threads of its group, each once. -/
theorem State.lanesAsc_of_fst {s : State} {e : Env} {g : Guard} {l : List Nat} (h : l = s.lanesAsc e g) : l.Nodup ∧ ∀ n ∈ l, n ∈ e.g.members := by
  rw [h]
  exact ⟨s.lanesAsc_nodup e g, fun _ => State.lanesAsc_sub⟩

theorem State.ldstConds_fst (s : State) (e : Env) (g : Guard) (a : Access) (f : FM) : (s.ldstConds e g a f).map (·.1) = s.lanesAsc e g :=
  map_fst_pair ..

theorem State.spadConds_fst (s : State) (e : Env) (g : Guard) (a : Access) (w : Option Workgroup) (va : Thread → Nat) (size : Nat)
    (regs : Thread → List (Nat × Word)) : (s.spadConds e g a w va size regs).map (·.1) = s.lanesAsc e g :=
  map_fst_pair ..

/-! The conditions of an atomic on host memory. -/

@[simp] theorem Cond.and_traps (c d : Cond) : (c.and d).traps = c.traps ++ d.traps := rfl
@[simp] theorem Cond.and_pages (c d : Cond) : (c.and d).pages = c.pages ++ d.pages := rfl

/-- What the regions of an access, its alignment and the locked ranges raise. -/
def State.regionCond (s : State) (e : Env) (a : Access) (va n : Nat) : Cond :=
  let last := (va + n - 1) % 2 ^ 56
  (s.permit e.g.core e.gang.world (Config.dieOfCore e.g.core) va a).1.and
    (if last / 65536 == va / 65536 then ({}, none)
      else s.permit e.g.core e.gang.world (Config.dieOfCore e.g.core) (last / 65536 * 65536) a).1
def alignCond (va size : Nat) : Cond := if va % size != 0 then .trap 0x24 va else {}
def State.lockCond (s : State) (e : Env) (a : Access) (va n : Nat) : Cond :=
  if s.globalHit e.gang.world (Config.dieOfCore e.g.core) a va n then .trap 0x21 va else {}
def State.wordCond (s : State) (e : Env) (a : Access) (va size n : Nat) : Cond :=
  (s.regionCond e a va n).and ((alignCond va size).and (s.lockCond e a va n))

/-- The elements follow where nothing was raised. -/
theorem State.globalCond_of {s : State} {e : Env} {a : Access} {num : Word} {va size : Nat} {regs : List (Nat × Word)} :
    (s.globalCond e a num va size regs).traps = (s.wordCond e a va size (size * regs.length)).traps ∧
    ((s.wordCond e a va size (size * regs.length)).traps = [] → (s.wordCond e a va size (size * regs.length)).pages = [] →
      (s.globalCond e a num va size regs).elems = s.mkElems e.g.core e.gang.world va size regs) := by
  have heq (full : Option Nat) (c : Cond) (xs : List Elem) (t : Cond)
      (ht : t = if !c.traps.isEmpty || !c.pages.isEmpty then c else { c with elems := xs, full }) :
      t.traps = c.traps ∧ (c.traps = [] → c.pages = [] → t.elems = xs) := by
    rw [ht]
    constructor
    · split <;> rfl
    · intro h h'
      rw [if_neg (by simp [h, h'])]
  exact heq _ _ _ _ rfl

/-- An access that does not trap is aligned. -/
theorem State.globalCond_aligned {s : State} {e : Env} {a : Access} {num : Word} {va size : Nat} {regs : List (Nat × Word)}
    (h : (s.globalCond e a num va size regs).traps = []) : va % size = 0 := by
  rw [State.globalCond_of.1, State.wordCond, Cond.and_traps, Cond.and_traps, List.append_eq_nil_iff, List.append_eq_nil_iff] at h
  by_contra hne
  have hal : (alignCond va size).traps ≠ [] := by
    rw [alignCond, if_pos (by simpa using hne)]
    exact List.cons_ne_nil _ _
  exact hal h.2.1

theorem State.permit_pages {s : State} {place world die va : Nat} {a : Access} {x : Trans} (h : s.translate place world va = .ok x) :
    (s.permit place world die va a).1.pages = [] := by
  unfold State.permit
  simp only [h, Cond.and_pages]
  split <;> split <;> split <;> rfl

/-- An aligned word of an address that translates is the access's one element. -/
theorem State.globalCond_elems {s : State} {e : Env} {a : Access} {num : Word} {va : Nat} {r : Nat × Word} {x : Trans}
    (hva : va < 2 ^ 56) (hx : s.translate e.g.core e.gang.world va = .ok x) (h : (s.globalCond e a num va 4 [r]).traps = []) :
    (s.globalCond e a num va 4 [r]).elems = [⟨va, x.key, 4, r.2, r.1, pteGreen x.leaf.pte, none⟩] := by
  have hal := State.globalCond_aligned h
  have hlast : (va + 4 * [r].length - 1) % 2 ^ 56 / 65536 = va / 65536 := by
    rw [List.length_singleton]
    omega
  have hpages : (s.wordCond e a va 4 (4 * [r].length)).pages = [] := by
    have hregion : (s.regionCond e a va (4 * [r].length)).pages = [] := by
      simp only [State.regionCond, hlast, beq_self_eq_true, if_true, Cond.and_pages, State.permit_pages hx, List.append_nil]
    have hlock : (s.lockCond e a va (4 * [r].length)).pages = [] := by
      rw [State.lockCond]
      split <;> rfl
    have halign : (alignCond va 4).pages = [] := by
      rw [alignCond]
      split <;> rfl
    rw [State.wordCond, Cond.and_pages, Cond.and_pages, hregion, hlock, halign]
    rfl
  rw [State.globalCond_of.2 (State.globalCond_of.1.symm.trans h) hpages]
  simp only [State.mkElems, hx, List.append_nil]

theorem Env.va_lt (e : Env) (t : Thread) (base : BitVec 9) (idx : BitVec 8) (disp : Int) : e.va t base idx disp < 2 ^ 56 := by
  unfold Env.va
  omega

/-- The conditions of an `atom`'s lane. -/
def State.atomCond (s : State) (e : Env) (f : FMA) (n : Nat) : Cond :=
  s.globalCond e .atomic (verNum e.l (s.thread e.w.id n).sub) (e.va (s.thread e.w.id n) f.base f.idx 0) 4 [(f.d.toNat, 0)]

/-- Those that it meets: an operation that the host does not perform traps besides. -/
def State.atomConds (s : State) (e : Env) (g : Guard) (f : FMA) (op : AtomOp) : List (Nat × Cond) :=
  (s.lanesAsc e g).map (fun n =>
    let va := e.va (s.thread e.w.id n) f.base f.idx 0
    let host := match s.translate e.g.core e.gang.world va with | .ok x => isHost x.key | .error _ => false
    (n, if host && !hostAtomOk op f.ty then (s.atomCond e f n).and (.trap 0x23 va) else s.atomCond e f n))

/-- The form of an `atom`'s flights. -/
def atomForm (f : FMA) (op : AtomOp) : Form :=
  { kind := fun t => .atomic op f.ty (t.v f.b) (t.v f.c), scope := f.scope.toNat, acq := f.ord.getLsbD 0, rel := f.ord.getLsbD 1 }

theorem Issuable.atom {s : State} {e : Env} {g : Guard} {f : FMA} {op : AtomOp} (h : Issuable s e g (.atom g f op)) :
    exec (.atom g f op) s = s.globalAccess e .atomic (atomForm f op) (s.atomConds e g f op) :=
  h.issue _

/-- Where the host performs the operation its lanes meet no more than those of any access. -/
theorem State.atomConds_eq {s : State} {e : Env} {g : Guard} {f : FMA} {op : AtomOp} (ht : ∀ n ∈ s.lanesAsc e g, (s.atomCond e f n).traps = [])
    (hh : ∀ n ∈ s.lanesAsc e g, ∀ x ∈ (s.atomCond e f n).elems, isHost x.key = true → hostAtomOk op f.ty = true) :
    s.atomConds e g f op = (s.lanesAsc e g).map (fun n => (n, s.atomCond e f n)) := by
  refine List.map_congr_left (fun n hn => ?_)
  cases hx : s.translate e.g.core e.gang.world (e.va (s.thread e.w.id n) f.base f.idx 0) with
  | error _ => simp only [hx, Bool.false_and, Bool.false_eq_true, if_false]
  | ok x =>
    have hel := State.globalCond_elems (e.va_lt ..) hx (ht n hn)
    have hok := hh n hn _ (by rw [State.atomCond, hel]; exact List.mem_singleton.2 rfl)
    have hif : ¬ ((isHost x.key && !hostAtomOk op f.ty) = true) := by
      rw [Bool.and_eq_true, Bool.not_eq_true']
      exact fun ⟨h, h'⟩ => Bool.false_ne_true (h'.symm.trans (hok h))
    simp only [hx, if_neg hif]

theorem Thread.v_congr {x y : Thread} (h : x.vregs = y.vregs) (r : BitVec 8) : x.v r = y.v r := by
  simp [Thread.v, h]

/-- An atomic's kind holds the operands of its thread. -/
theorem atom_kinds (s : State) (e : Env) (f : FMA) (op : AtomOp) {m : Form} (hm : m.kind = fun t => .atomic op f.ty (t.v f.b) (t.v f.c)) :
    m.Kinds s e (fun n => .atomic op f.ty ((s.thread e.w.id n).v f.b) ((s.thread e.w.id n).v f.c)) := by
  intro n x hx
  rw [hm]
  simp only [Thread.v_congr hx]

/-! Scratchpad accesses. -/

/-- The pages that some lanes touch in a space. -/
def spadPages (w : Workgroup) (cs : List (Nat × Cond)) : List (Workgroup × Nat) :=
  (dedup (cs.flatMap (fun c => c.2.elems.flatMap (fun x => pagesOf x.va x.size)))).map (fun p => (w, p))

/-- A scratchpad access of lanes that meet no condition, its pages resident. -/
theorem State.spadAccess_of_ready {s p : State} {e : Env} {a : Access} {m : Form} {cs : List (Nat × Cond)} {w : Workgroup} {kind : Nat → FlightKind}
    (hw : worst cs = none) (hp : s.touchPages (a != .read) (spadPages w cs) = .ready p)
    (hl : (cs.map (·.1)).Nodup) (hsub : ∀ n ∈ cs.map (·.1), n ∈ e.g.members) (hk : m.Kinds s e kind) :
    Out.Leads (s.spadAccess e a m cs (some w)) (fun t => AccessIssued s p t e (cs.map (fun c => (c.1, c.2.elems))) m.inLd kind) := by
  have hx : s.spadAccess e a m cs (some w) =
      (p.addFlights e m false (a != .read) [] (cs.map (fun c => (c.1, c.2.elems)))).doneWithout e [] := by
    rw [spadPages] at hp
    simp only [State.spadAccess, hw, hp]
  obtain ⟨⟨_, _, _, _, hpeq⟩, -⟩ := State.touchPages_paged hp
  have hfst : (cs.map (fun c => (c.1, c.2.elems))).map (·.1) = cs.map (·.1) := by simp
  rw [hx]
  have hkp : m.Kinds p e kind := by
    rw [hpeq]
    exact hk
  exact (accesses_of_addFlights (keep := fun u => u) (fun u => ⟨u.groups, rfl⟩) (by rw [hpeq]; exact ⟨rfl, rfl, rfl, rfl, rfl⟩) (by rwa [hfst])
    (by rwa [hfst]) hkp).imp (fun _ => Accesses.issued)

/-! Fragment loads. -/

/-- The conditions of a fragment's elements. -/
def State.fragCond (s : State) (e : Env) (xs : List Elem) : Cond :=
  xs.foldl (fun (c : Cond) x => c.and (s.spadCond e (some e.w) .read x.va x.size x.size)) {}

theorem Cond.foldl_and_traps {α : Type} (f : α → Cond) (l : List α) (h : ∀ x ∈ l, (f x).traps = []) (c : Cond) (hc : c.traps = []) :
    (l.foldl (fun c x => c.and (f x)) c).traps = [] := by
  induction l generalizing c with
  | nil => exact hc
  | cons x l ih =>
    exact ih (fun y hy => h y (List.mem_cons_of_mem _ hy)) _ (by rw [Cond.and_traps, hc, h x List.mem_cons_self]; rfl)

/-- A layout and mode that a `ldfrag` does not take. -/
def Layout.refused (l : Layout) (mode : BitVec 2) : Bool :=
  !l.ok || l.esize == 3 || (mode == 1 && l.esize != 0) || (mode == 2 && l.esize != 1)

theorem Layout.not_refused {l : Layout} {mode : BitVec 2} (hok : l.ok = true) (h3 : l.esize ≠ 3) (h1 : mode = 1 → l.esize = 0)
    (h2 : mode = 2 → l.esize = 1) : l.refused mode = false := by
  simp only [Layout.refused, hok, Bool.not_true, Bool.false_or, Bool.or_eq_false_iff, beq_eq_false_iff_ne, Bool.and_eq_false_imp, beq_iff_eq,
    bne_eq_false_iff_eq]
  exact ⟨⟨h3, h1⟩, h2⟩

/-- The lanes of a `ldfrag` with their elements and conditions. -/
def State.fragConds (s : State) (e : Env) (g : Guard) (f : FM) (l : Layout) : List (Nat × Cond) :=
  (s.lanesAsc e g).map (fun n =>
    let xs := fragElems e.w.id l (fragMode f).toNat (laneOf n) (fmCount f) f.disp.toInt f.d
    (n, { s.fragCond e xs with elems := xs }))

theorem Issuable.ldfrag {s : State} {e : Env} {g : Guard} {f : FM} (h : Issuable s e g (.ldfrag g f)) (l : s.someLane e g)
    (hok : (layoutOf (e.layoutNat f.base)).refused (fragMode f) = false) :
    exec (.ldfrag g f) s = s.spadAccess e .read { kind := fun _ => .frag, inLd := true, spad := true }
      (s.fragConds e g f (layoutOf (e.layoutNat f.base))) (some e.w) := by
  show execLdfrag g f s = _
  unfold execLdfrag
  rw [h.issue]
  rw [Layout.refused] at hok
  simp only [hok, List.isEmpty_iff, if_neg l, Bool.false_eq_true, if_false]
  rfl

end Sys2Proof.Machine

namespace Sys2Proof
open Sys2Proof.Machine

/-- Settles O13: the order of the conditions of an access, and the granules that `spadHit` looks for. -/
theorem accessTraps : Obligations.AccessTraps := by
  unfold Obligations.AccessTraps
  refine ⟨fun g f s e code va mal => ⟨fun h ha hw => ?_, fun h ha hw => ?_, fun cs hw c hc x hx => worst_le hw hc hx⟩, ?locked⟩
  · exact (h.issue _).trans (State.globalAccess_trap ha hw)
  · exact (h.issue _).trans (State.globalAccess_trap ha hw)
  case locked =>
    intro s e w a va n align k hk hspad hplace hhome ha hlo hhi
    constructor
    · have hhit : s.spadHit e.g.core w a va n = true := by
        simp only [State.spadHit, hhome, beq_self_eq_true, Bool.true_and, List.any_eq_true]
        refine ⟨k, hk, ?_⟩
        simp only [hspad, hplace, beq_self_eq_true, RangeLock.hits, meets, hlo, hhi, decide_true, Bool.true_and, Bool.and_true, Bool.or_eq_true, bne_iff_ne]
        exact ha
      simp [State.spadCond, hhit, Cond.trap]
    · intro s' e' hno x hx
      have hhit : s'.spadHit e'.g.core w a va n = false := by
        rw [State.spadHit, Bool.and_eq_false_imp]
        intro hcore
        rcases hno with hne | hno
        · exact absurd (beq_iff_eq.1 hcore) hne
        · rw [List.any_eq_false]
          intro k' hk' hc
          simp only [RangeLock.hits, meets, Bool.and_eq_true, Bool.or_eq_true, bne_iff_ne, decide_eq_true_eq, beq_iff_eq] at hc
          obtain ⟨⟨hs, hp⟩, hrw, hm⟩ := hc
          exact hno k' hk' hs hp ⟨hrw, hm⟩
      simp only [State.spadCond, hhit, Bool.false_eq_true, if_false, Cond.and_traps, List.mem_append] at hx
      rcases hx with hx | hx | hx
      · split at hx
        · rw [List.mem_singleton.1 hx]
          exact Nat.ne_of_beq_eq_false rfl
        · cases hx
      · cases hx
      · split at hx
        · rw [List.mem_singleton.1 hx]
          exact Nat.ne_of_beq_eq_false rfl
        · cases hx

/-- Settles O14: each access is `addFlights` of its lanes, in the state that the pager left. -/
theorem scratchpadAndAtomicsIssue : Obligations.ScratchpadAndAtomicsIssue := by
  unfold Obligations.ScratchpadAndAtomicsIssue
  refine ⟨⟨fun s p write l hp => (State.touchPages_paged hp).symm, fun g f s e w p => ⟨?lds, ?sts, ?frag⟩⟩, fun g f op s e => ⟨?atom, ?atoms⟩⟩
  case lds =>
    rintro cs rfl h hs hw hp
    have hfst := s.spadConds_fst e g .read (some w) (fun t => e.spadVa t f.base f.idx f.disp.toInt) (fmSize f) (fun t => regsOf t f.d (fmCount f))
    rw [show exec (.lds g f) s = _ from h.issue _, hs]
    exact State.spadAccess_of_ready hw hp (State.lanesAsc_of_fst hfst).1 (State.lanesAsc_of_fst hfst).2 (fun _ _ _ => rfl)
  case sts =>
    rintro cs rfl h hs hw hp
    have hfst := s.spadConds_fst e g .write (some w) (fun t => e.spadVa t f.base f.idx f.disp.toInt) (fmSize f) (fun t => regsOf t f.d (fmCount f))
    rw [show exec (.sts g f) s = _ from h.issue _, hs]
    exact State.spadAccess_of_ready hw hp (State.lanesAsc_of_fst hfst).1 (State.lanesAsc_of_fst hfst).2 (fun _ _ _ => rfl)
  case frag =>
    rintro l rfl h hsome rfl hok h3 h1 h2 xs hxs ht hp
    rw [h.ldfrag hsome (Layout.not_refused hok h3 h1 h2)]
    have hconds : s.fragConds e g f (layoutOf (e.layoutNat f.base)) = (s.lanesAsc e g).map (fun n => (n, { s.fragCond e (xs n) with elems := xs n })) := by
      refine List.map_congr_left (fun n _ => ?_)
      rw [hxs]
    rw [hconds]
    have hfst := map_fst_pair (s.lanesAsc e g) (fun n => { s.fragCond e (xs n) with elems := xs n })
    have hlanes : (s.lanesAsc e g).map (fun n => (n, xs n)) =
        ((s.lanesAsc e g).map (fun n => (n, { s.fragCond e (xs n) with elems := xs n }))).map (fun c => (c.1, c.2.elems)) := by
      rw [List.map_map]
      rfl
    rw [hlanes]
    refine State.spadAccess_of_ready (worst_of_none (fun c hc => ?_)) ?_ (State.lanesAsc_of_fst hfst).1 (State.lanesAsc_of_fst hfst).2 (fun _ _ _ => rfl)
    · obtain ⟨n, hn, rfl⟩ := List.mem_map.1 hc
      exact Cond.foldl_and_traps _ _ (ht n hn) _ rfl
    · rw [spadPages, List.flatMap_map]
      exact hp
  case atom =>
    rintro cs rfl h hc hh hm
    have hfst := map_fst_pair (s.lanesAsc e g) (s.atomCond e f)
    have hcond (n : Nat) (hn : n ∈ s.lanesAsc e g) := hc _ (List.mem_map_of_mem hn)
    rw [h.atom, State.atomConds_eq (fun n hn => (hcond n hn).1) (fun n hn => hh _ (List.mem_map_of_mem hn))]
    exact (State.globalAccess_of_clear hc hm (State.lanesAsc_of_fst hfst).1 (State.lanesAsc_of_fst hfst).2 (atom_kinds s e f op rfl)).imp
      (fun _ => Accesses.issued)
  case atoms =>
    rintro w p cs rfl h hs hw hp
    have hfst := s.spadConds_fst e g .atomic (some w) (fun t => e.spadVa t f.base f.idx 0) 4 (fun _ => [(f.d.toNat, 0)])
    rw [show exec (.atoms g f op) s = _ from h.issue _, hs]
    exact State.spadAccess_of_ready hw hp (State.lanesAsc_of_fst hfst).1 (State.lanesAsc_of_fst hfst).2 (atom_kinds s e f op rfl)

end Sys2Proof
end

section
/-! Accesses some of whose lanes park, and what their records hold (spec 08, R192, R197, R199, R201; 02, R32; 14, R324). -/

namespace Sys2Proof.Machine

/-! Records leave the accesses on their way as they are. -/

/-- The threads and elements of a flight. -/
def Flight.sent (f : Flight) : List Nat × List Elem := (f.tids, f.elems)

/-- What the records of some pages change: never a thread, and no flight's threads or elements. -/
def Recorded (s t : State) : Prop :=
  (∃ mem llcDirty iod worlds gangs flights engines, t = { s with mem, llcDirty, iod, worlds, gangs, flights, engines }) ∧
  t.flights.map Flight.sent = s.flights.map Flight.sent

theorem Recorded.refl (s : State) : Recorded s s := ⟨⟨s.mem, s.llcDirty, s.iod, s.worlds, s.gangs, s.flights, s.engines, rfl⟩, rfl⟩

theorem Recorded.trans {s t u : State} (h : Recorded s t) (h' : Recorded t u) : Recorded s u := by
  obtain ⟨⟨mem, llcDirty, iod, worlds, gangs, flights, engines, ht⟩, hf⟩ := h
  obtain ⟨⟨mem', llcDirty', iod', worlds', gangs', flights', engines', hu⟩, hf'⟩ := h'
  exact ⟨⟨mem', llcDirty', iod', worlds', gangs', flights', engines', by rw [hu, ht]⟩, hf'.trans hf⟩

theorem State.sent_haltGang (s : State) (id : Nat) (st : GStatus) : (s.haltGang id st).flights.map Flight.sent = s.flights.map Flight.sent := by
  have mark (f : Flight) (b : Bool) : (if b = true then { f with replay := true, met := false } else f).sent = f.sent := by cases b <;> rfl
  simp only [State.haltGang, State.modGang, List.map_map]
  exact List.map_congr_left (fun f _ => mark f _)

theorem State.sent_haltGangs (s : State) (st : GStatus) (p : Gang → Bool) : (s.haltGangs st p).flights.map Flight.sent = s.flights.map Flight.sent := by
  unfold State.haltGangs
  induction s.gangs.filter (fun g => p g && g.status == .running) generalizing s with
  | nil => rfl
  | cons g l ih => exact (ih (s.haltGang g.id st)).trans (s.sent_haltGang g.id st)

theorem State.homePut_recorded (s : State) (k : Nat) (bs : List Byte) : Recorded s (s.homePut k bs) := by
  obtain ⟨mem, llcDirty, iod, h⟩ := s.homePut_eq k bs
  rw [h]
  exact ⟨⟨mem, llcDirty, iod, s.worlds, s.gangs, s.flights, s.engines, rfl⟩, rfl⟩

theorem State.modWorld_recorded (s : State) (world : Nat) (f : World → World) : Recorded s (s.modWorld world f) := by
  obtain ⟨worlds, h⟩ := s.modWorld_eq world f
  rw [h]
  exact ⟨⟨s.mem, s.llcDirty, s.iod, worlds, s.gangs, s.flights, s.engines, rfl⟩, rfl⟩

theorem State.haltGangs_recorded (s : State) (st : GStatus) (p : Gang → Bool) : Recorded s (s.haltGangs st p) := by
  refine ⟨?_, s.sent_haltGangs st p⟩
  obtain ⟨gangs, flights, engines, h⟩ := s.haltGangs_eq st p
  exact ⟨s.mem, s.llcDirty, s.iod, s.worlds, gangs, flights, engines, h⟩

theorem State.raiseIrq_recorded (s : State) (world vector : Nat) : Recorded s (s.raiseIrq world vector) :=
  ⟨⟨s.mem, s.llcDirty, _, s.worlds, s.gangs, s.flights, s.engines, rfl⟩, rfl⟩

theorem State.pushRecord_recorded (s : State) (world : Nat) (r : FaultRec) : Recorded s (s.pushRecord world r) := by
  unfold State.pushRecord
  split
  · exact .refl s
  · dsimp only
    split
    · exact ((s.homePut_recorded ..).trans (State.modWorld_recorded ..)).trans (State.raiseIrq_recorded ..)
    · split
      · exact s.modWorld_recorded ..
      · exact ((s.modWorld_recorded ..).trans (State.modWorld_recorded ..)).trans (State.haltGangs_recorded ..)

theorem State.recordPage_recorded (s : State) (world : Nat) (big : Bool) (r : FaultRec) (va : Nat) : Recorded s (s.recordPage world big r va) := by
  unfold State.recordPage
  split
  · exact .refl s
  · split
    · exact s.pushRecord_recorded ..
    · dsimp only
      split
      · split
        · exact .refl s
        · exact s.homePut_recorded ..
      · split
        · exact s.modWorld_recorded ..
        · exact s.pushRecord_recorded ..

theorem State.recordPages_recorded (s : State) (world : Nat) (r : FaultRec) (ps : List (Nat × Nat)) : Recorded s (s.recordPages world r ps) := by
  unfold State.recordPages
  induction pageReps ps generalizing s with
  | nil => exact .refl s
  | cons p l ih => exact (s.recordPage_recorded ..).trans (ih _)

/-- A record depends on where its group stands. -/
theorem State.record_congr {s t : State} {e : Env} (h : (t.thread e.w.id e.g.leader).pc = (s.thread e.w.id e.g.leader).pc) (code daddr : Nat)
    (lanes : List Nat) : t.record e code daddr lanes = s.record e code daddr lanes := by
  simp only [State.record, State.iaddr, h]

/-! Lanes park. -/

/-- Why a lane parks. -/
def Cond.why (c : Cond) : Park := if !c.pages.isEmpty then .pages (c.pages.map (·.1)) else .version (c.full.getD 0)

/-- One lane parks. -/
def State.parkLane (e : Env) (s : State) (c : Nat × Cond) : State :=
  let s := s.modThread e.w.id c.1 (fun t => { t with status := .parked c.2.why })
  if c.2.pages.isEmpty then s.modCore e.g.core (fun k => { k with versionWait := k.versionWait + 1 }) else s

/-- The record of the pages of some lanes. -/
def State.pagesRecord (s : State) (e : Env) (wr : Bool) (cs : List (Nat × Cond)) : FaultRec :=
  { s.record e 0x30 0 [] with lanes := laneMask ((cs.filter (fun c => !c.2.pages.isEmpty)).map (·.1)), wr := wr }

theorem State.parkLanes_eq (s : State) (e : Env) (wr : Bool) (cs : List (Nat × Cond)) : s.parkLanes e wr cs =
    ((cs.filter (fun c => c.2.parks)).foldl (State.parkLane e) (s.recordPages e.gang.world (s.pagesRecord e wr (cs.filter (fun c => c.2.parks)))
      ((cs.filter (fun c => c.2.parks)).flatMap (fun c => c.2.pages)))).keepMembers e.g.id
      (e.g.members.filter (fun t => !(cs.filter (fun c => c.2.parks)).any (fun c => c.1 == t))) := rfl

/-- A lane that has pages out parks. -/
theorem filter_parks_pages (cs : List (Nat × Cond)) :
    (cs.filter (fun c => c.2.parks)).filter (fun c => !c.2.pages.isEmpty) = cs.filter (fun c => !c.2.pages.isEmpty) := by
  rw [List.filter_filter]
  refine List.filter_congr (fun c _ => ?_)
  cases h : c.2.pages.isEmpty <;> simp [Cond.parks, h]

theorem State.parkLane_eq (e : Env) (s : State) (c : Nat × Cond) : ∃ cores, State.parkLane e s c =
    { s with threads := (s.modThread e.w.id c.1 (fun t => { t with status := .parked c.2.why })).threads, cores } := by
  unfold State.parkLane
  dsimp only
  split
  · exact ⟨_, rfl⟩
  · exact ⟨s.cores, rfl⟩

theorem State.thread_modThread_self (s : State) (wg n : Nat) (f : Thread → Thread) : (s.modThread wg n f).thread wg n = f (s.thread wg n) := by
  have h := s.thread_modThreads wg [n] f n
  rwa [if_pos (List.mem_singleton.2 rfl)] at h

theorem State.thread_modThread_ne (s : State) (wg : Nat) {n m : Nat} (h : m ≠ n) (f : Thread → Thread) : (s.modThread wg n f).thread wg m = s.thread wg m := by
  have h' := s.thread_modThreads wg [n] f m
  rwa [if_neg (fun hm => h (List.mem_singleton.1 hm))] at h'

/-- Each of some lanes parks, and no other thread of the workgroup changes. -/
theorem State.foldl_parkLane (e : Env) (l : List (Nat × Cond)) (hl : (l.map (·.1)).Nodup) (s : State) :
    (∃ threads cores, l.foldl (State.parkLane e) s = { s with threads, cores }) ∧
    (∀ c ∈ l, (l.foldl (State.parkLane e) s).thread e.w.id c.1 = { s.thread e.w.id c.1 with status := .parked c.2.why }) ∧
    ∀ n, n ∉ l.map (·.1) → (l.foldl (State.parkLane e) s).thread e.w.id n = s.thread e.w.id n := by
  induction l generalizing s with
  | nil => exact ⟨⟨s.threads, s.cores, rfl⟩, by simp, fun n _ => rfl⟩
  | cons x l ih =>
    obtain ⟨hx, hl⟩ := List.nodup_cons.1 hl
    obtain ⟨cores, h⟩ := State.parkLane_eq e s x
    obtain ⟨⟨threads', cores', h'⟩, hin, hout⟩ := ih hl (State.parkLane e s x)
    have hthreads : (State.parkLane e s x).threads = (s.modThread e.w.id x.1 (fun t => { t with status := .parked x.2.why })).threads := by rw [h]
    rw [List.foldl_cons]
    refine ⟨⟨threads', cores', by rw [h', h]⟩, fun c hc => ?_, fun n hn => ?_⟩
    · rcases List.mem_cons.1 hc with rfl | hc
      · rw [hout _ hx, State.thread_congr hthreads, State.thread_modThread_self]
      · have hne : c.1 ≠ x.1 := fun heq => hx (List.mem_map.2 ⟨c, hc, heq⟩)
        rw [hin c hc, State.thread_congr hthreads, State.thread_modThread_ne _ _ hne]
    · have hne : n ≠ x.1 := fun heq => hn (List.mem_map.2 ⟨x, List.mem_cons_self, heq.symm⟩)
      rw [hout n (fun h => hn (List.mem_cons_of_mem _ h)), State.thread_congr hthreads, State.thread_modThread_ne _ _ hne]

/-! An access with lanes that park. -/

section
variable {s : State} {e : Env} {a : Access} {m : Form} {cs : List (Nat × Cond)}

theorem Thread.issued_pc (t : Thread) (inLd : Bool) : (t.issued inLd).pc = t.pc := by cases inLd <;> rfl

/-- An issue moves no thread. -/
theorem State.pc_modThreads_issued (s : State) (wg : Nat) (l : List Nat) (inLd : Bool) (wg' n : Nat) :
    ((s.modThreads wg l (fun t => t.issued inLd)).thread wg' n).pc = (s.thread wg' n).pc := by
  rcases s.thread_modThreads_cases wg l (fun t => t.issued inLd) wg' n with h | h <;> rw [h]
  exact Thread.issued_pc ..

/-- Whether a lane is one of those that park. -/
theorem mem_parked {c : Nat × Cond} (hl : (cs.map (·.1)).Nodup) (hc : c ∈ cs) :
    c.1 ∈ (cs.filter (fun c => c.2.parks)).map (·.1) ↔ c.2.parks = true := by
  constructor
  · intro h
    obtain ⟨c', hc', heq⟩ := List.mem_map.1 h
    obtain ⟨hmem, hparks⟩ := List.mem_filter.1 hc'
    rwa [← List.inj_on_of_nodup_map hl hmem hc heq]
  · intro h
    exact List.mem_map_of_mem (List.mem_filter.2 ⟨hc, h⟩)

/-- The end of an access some of whose lanes park. -/
theorem lanesPark_of_addFlights {reserve wr writes : Bool} {kind : Nat → FlightKind} (hl : (cs.map (·.1)).Nodup) (hk : m.Kinds s e kind) :
    Out.Leads (((s.addFlights e m reserve writes [] ((cs.filter (fun c => !c.2.parks)).map (fun c => (c.1, c.2.elems)))).parkLanes e
      wr cs).doneWithout e ((cs.filter (fun c => c.2.parks)).map (·.1))) (fun t => LanesPark s t e wr cs) := by
  have hfst (q : Nat × Cond → Bool) : (cs.filter q).map (·.1) = ((cs.filter q).map (fun c => (c.1, c.2.elems))).map (·.1) := by
    rw [List.map_map]
    rfl
  have hnodup (q : Nat × Cond → Bool) : ((cs.filter q).map (·.1)).Nodup := hl.sublist (List.filter_sublist.map _)
  obtain ⟨fs, nextId, tlb, launches, hadd, hfs, -⟩ := State.addFlights_eq (e := e) (m := m) (reserve := reserve) (writes := writes) (kind := kind)
    ((cs.filter (fun c => !c.2.parks)).map (fun c => (c.1, c.2.elems))) [] (by rw [← hfst]; exact hnodup _) s hk
  generalize hu : s.addFlights e m reserve writes [] ((cs.filter (fun c => !c.2.parks)).map (fun c => (c.1, c.2.elems))) = u
  rw [hu] at hadd
  have hut : u.threads = (s.modThreads e.w.id ((cs.filter (fun c => !c.2.parks)).map (·.1)) (fun t => t.issued m.inLd)).threads := by
    rw [hadd, hfst]
  have hpc (n : Nat) : (u.thread e.w.id n).pc = (s.thread e.w.id n).pc := by
    rw [State.thread_congr hut]
    exact State.pc_modThreads_issued ..
  have hvregs (n : Nat) : (u.thread e.w.id n).vregs = (s.thread e.w.id n).vregs := by
    rw [State.thread_congr hut]
    exact State.vregs_modThreads_issued ..
  have hrec : u.pagesRecord e wr (cs.filter (fun c => c.2.parks)) = s.pagesRecord e wr cs := by
    rw [State.pagesRecord, State.record_congr (hpc _), filter_parks_pages]
    rfl
  rw [State.parkLanes_eq, hrec]
  have hrecorded := u.recordPages_recorded e.gang.world (s.pagesRecord e wr cs) ((cs.filter (fun c => c.2.parks)).flatMap (fun c => c.2.pages))
  generalize hv : u.recordPages e.gang.world (s.pagesRecord e wr cs) ((cs.filter (fun c => c.2.parks)).flatMap (fun c => c.2.pages)) = v at hrecorded ⊢
  obtain ⟨⟨mem, llcDirty, iod, worlds, gangs, flights, engines, hveq⟩, hsent⟩ := hrecorded
  have hvt : v.threads = u.threads := by rw [hveq]
  obtain ⟨⟨threads, cores, hw⟩, hin, hout⟩ := State.foldl_parkLane e _ (hnodup (fun c => c.2.parks)) v
  generalize (cs.filter (fun c => c.2.parks)).foldl (State.parkLane e) v = w at hw hin hout ⊢
  obtain ⟨groups, hx⟩ := w.keepMembers_eq e.g.id (e.g.members.filter (fun t => !(cs.filter (fun c => c.2.parks)).any (fun c => c.1 == t)))
  rw [hx]
  have hthread (n : Nat) : ((({ w with groups } : State).advance (e.without ((cs.filter (fun c => c.2.parks)).map (·.1)))).progress).thread e.w.id n =
      if n ∈ (e.without ((cs.filter (fun c => c.2.parks)).map (·.1))).g.members then (w.thread e.w.id n).next else w.thread e.w.id n :=
    State.thread_modThreads { w with groups } ..
  have hwithout (n : Nat) : n ∈ (e.without ((cs.filter (fun c => c.2.parks)).map (·.1))).g.members ↔
      n ∈ e.g.members ∧ n ∉ (cs.filter (fun c => c.2.parks)).map (·.1) := by
    simp only [Env.without, List.mem_filter, Bool.not_eq_true', List.contains_eq_mem, decide_eq_false_iff_not]
  refine ⟨_, rfl, ?_, fun c hc hpages => ?_, fun n hn hno => ?_, u, ?_⟩
  · have hflights : w.flights = v.flights := by rw [hw]
    refine (congrArg (List.map Flight.sent) ((State.modThreads_flights { w with groups } ..).trans hflights)).trans (hsent.trans ?_)
    have huf : u.flights = s.flights ++ fs := by rw [hadd]
    have hsentfs : fs.map Flight.sent = (cs.filter (fun c => !c.2.parks)).map (fun c => ([c.1], c.2.elems)) := by
      rw [List.map_map] at hfs
      exact hfs
    rw [huf, List.map_append, hsentfs]
    rfl
  · have hparks : c.2.parks = true := by simp [Cond.parks, hpages]
    have hc' := (mem_parked hl hc).2 hparks
    have hnot : ¬ c.1 ∈ (e.without ((cs.filter (fun c => c.2.parks)).map (·.1))).g.members := fun h => ((hwithout _).1 h).2 hc'
    have hwt := hin c (List.mem_filter.2 ⟨hc, hparks⟩)
    have ht := (hthread c.1).trans ((if_neg hnot).trans hwt)
    have hwhy : c.2.why = .pages (c.2.pages.map (·.1)) := by simp [Cond.why, hpages]
    refine ⟨(congrArg Thread.status ht).trans (congrArg TStatus.parked hwhy), (congrArg Thread.pc ht).trans ?_, (congrArg Thread.vregs ht).trans ?_⟩
    · show (v.thread e.w.id c.1).pc = _
      rw [State.thread_congr hvt, hpc]
    · show (v.thread e.w.id c.1).vregs = _
      rw [State.thread_congr hvt, hvregs]
  · have hno' : n ∉ (cs.filter (fun c => c.2.parks)).map (·.1) := by
      intro h
      obtain ⟨c, hc, heq⟩ := List.mem_map.1 h
      obtain ⟨hmem, hparks⟩ := List.mem_filter.1 hc
      rw [hno c hmem heq] at hparks
      cases hparks
    have ht := (hthread n).trans (if_pos ((hwithout n).2 ⟨hn, hno'⟩))
    rw [hout n hno', State.thread_congr hvt] at ht
    refine (congrArg Thread.pc ht).trans ?_
    show (u.thread e.w.id n).pc + 8 = (s.thread e.w.id n).pc + 8
    rw [hpc]
  · have hwv : w.mem = v.mem ∧ w.worlds = v.worlds ∧ w.iod = v.iod := by
      rw [hw]
      exact ⟨rfl, rfl, rfl⟩
    obtain ⟨hmem, hworlds, hiod⟩ := hwv
    refine ⟨by rw [hadd], by rw [hadd], by rw [hadd], by rw [hadd], ?_, ?_, ?_⟩
    · exact (State.modThreads_mem ..).trans (hmem.trans (congrArg State.mem hv.symm))
    · exact (State.modThreads_worlds ..).trans (hworlds.trans (congrArg State.worlds hv.symm))
    · exact (State.modThreads_iod ..).trans (hiod.trans (congrArg State.iod hv.symm))

/-- A global access that no lane stops: the lanes whose pages are out park. -/
theorem State.globalAccess_parks {kind : Nat → FlightKind} (ha : ∀ c ∈ cs, c.2.absent = none) (hw : worst cs = none)
    (hm : s.miss e (linesOf ((cs.filter (fun c => !c.2.parks)).flatMap (fun c => c.2.elems))).length ≠ .reject)
    (hl : (cs.map (·.1)).Nodup) (hk : m.Kinds s e kind) :
    Out.Leads (s.globalAccess e a m cs) (fun t => LanesPark s t e (a != .read) cs) := by
  obtain ⟨reserve, h⟩ := State.globalAccess_issues (a := a) (m := m) ha hw hm
  rw [h]
  exact lanesPark_of_addFlights hl hk

end

/-! `ldp` (spec 08, R197). -/

/-- The lanes of an `ldp` with their conditions. -/
def State.ldpConds (s : State) (e : Env) (g : Guard) (f : FM) : List (Nat × Cond) :=
  (s.lanesAsc e g).map (fun n =>
    (n, s.globalCond e .read 0 (e.va (s.thread e.w.id n) f.base f.idx f.disp.toInt) (fmSize f) (regsOf (s.thread e.w.id n) f.d 1)))

/-- The lanes that an `ldp` gives to the access. -/
def ldpRest (cs : List (Nat × Cond)) : List (Nat × Cond) :=
  (cs.map (fun c => (c.1, { c.2 with pages := [] }))).filter
    (fun c => !(cs.filter (fun c => !c.2.pages.isEmpty)).any (fun o => o.1 == c.1) || !c.2.traps.isEmpty)

/-- Where no lane traps these are the lanes whose pages are resident. -/
theorem ldpRest_eq {cs : List (Nat × Cond)} (hl : (cs.map (·.1)).Nodup) (ht : ∀ c ∈ cs, c.2.traps = []) :
    ldpRest cs = cs.filter (fun c => c.2.pages.isEmpty) := by
  have hout (c : Nat × Cond) (hc : c ∈ cs) : (!(cs.filter (fun c => !c.2.pages.isEmpty)).any (fun o => o.1 == c.1) || !c.2.traps.isEmpty) =
      c.2.pages.isEmpty := by
    rw [ht c hc, List.isEmpty_nil, Bool.not_true, Bool.or_false]
    cases hp : c.2.pages.isEmpty with
    | false =>
      have hany : (cs.filter (fun c => !c.2.pages.isEmpty)).any (fun o => o.1 == c.1) = true :=
        List.any_eq_true.2 ⟨c, List.mem_filter.2 ⟨hc, by simp [hp]⟩, beq_iff_eq.2 rfl⟩
      rw [hany]
      rfl
    | true =>
      have hany : (cs.filter (fun c => !c.2.pages.isEmpty)).any (fun o => o.1 == c.1) = false := by
        refine List.any_eq_false.2 (fun o ho heq => ?_)
        obtain ⟨hmem, hne⟩ := List.mem_filter.1 ho
        rw [List.inj_on_of_nodup_map hl hmem hc (beq_iff_eq.1 heq), hp] at hne
        cases hne
      rw [hany]
      rfl
  rw [ldpRest, List.filter_map]
  have hfilter : cs.filter ((fun c => !(cs.filter (fun c => !c.2.pages.isEmpty)).any (fun o => o.1 == c.1) || !c.2.traps.isEmpty) ∘
      fun c => (c.1, { c.2 with pages := [] })) = cs.filter (fun c => c.2.pages.isEmpty) := List.filter_congr (fun c hc => hout c hc)
  rw [hfilter]
  have hsame : (cs.filter (fun c => c.2.pages.isEmpty)).map (fun c => (c.1, ({ c.2 with pages := [] } : Cond))) =
      (cs.filter (fun c => c.2.pages.isEmpty)).map id := by
    refine List.map_congr_left (fun c hc => ?_)
    have hp := List.isEmpty_iff.1 (List.mem_filter.1 hc).2
    rw [← hp]
    rfl
  rw [hsame, List.map_id]

/-- Lanes whose page is out take 0 and a cleared predicate. -/
def Thread.ldpMissed (f : FM) (t : Thread) : Thread := (t.setV f.d 0).setP (ldpPred f) false

/-- The form of an `ldp`'s flights. -/
def ldpForm (f : FM) : Form := { kind := fun _ => .load, pred := some (ldpPred f).toNat, inLd := true }

theorem Issuable.ldp {s : State} {e : Env} {g : Guard} {f : FM} (h : Issuable s e g (.ldp g f)) (hw : worst (s.ldpConds e g f) = none)
    (hm : s.miss e (linesOf ((ldpRest (s.ldpConds e g f)).flatMap (fun c => c.2.elems))).length ≠ .reject) :
    exec (.ldp g f) s = (s.modThreads e.w.id (((s.ldpConds e g f).filter (fun c => !c.2.pages.isEmpty)).map (·.1))
      (Thread.ldpMissed f)).globalAccess e .read (ldpForm f) (ldpRest (s.ldpConds e g f)) := by
  have hissues : ((worst (s.ldpConds e g f)).isNone &&
      s.miss e (linesOf ((ldpRest (s.ldpConds e g f)).flatMap (fun c => c.2.elems))).length != .reject) = true := by
    rw [hw, Option.isNone_none, Bool.true_and, bne_iff_ne]
    exact hm
  refine (h.issue _).trans ?_
  exact congrArg (fun u => State.globalAccess u e .read (ldpForm f) (ldpRest (s.ldpConds e g f))) (if_pos hissues)

/-- An `ldp` issues for the lanes whose pages are resident, and the others move on with 0. -/
theorem Issuable.ldp_leads {s : State} {e : Env} {g : Guard} {f : FM} (h : Issuable s e g (.ldp g f)) (ht : ∀ c ∈ s.ldpConds e g f, c.2.traps = [])
    (hc : ∀ c ∈ (s.ldpConds e g f).filter (fun c => c.2.pages.isEmpty), c.2.clear)
    (hm : s.miss e (linesOf (((s.ldpConds e g f).filter (fun c => c.2.pages.isEmpty)).flatMap (fun c => c.2.elems))).length ≠ .reject) :
    Out.Leads (exec (.ldp g f) s) (fun t =>
      Accesses (s.modThreads e.w.id (((s.ldpConds e g f).filter (fun c => !c.2.pages.isEmpty)).map (·.1)) (Thread.ldpMissed f))
        (s.modThreads e.w.id (((s.ldpConds e g f).filter (fun c => !c.2.pages.isEmpty)).map (·.1)) (Thread.ldpMissed f)) t e (ldpForm f)
        (((s.ldpConds e g f).filter (fun c => c.2.pages.isEmpty)).map (fun c => (c.1, c.2.elems))) (fun _ => .load)) := by
  have hfst : (s.ldpConds e g f).map (·.1) = s.lanesAsc e g := map_fst_pair ..
  obtain ⟨hnodup, hsub⟩ := State.lanesAsc_of_fst hfst
  have hrest := ldpRest_eq hnodup ht
  rw [h.ldp (worst_of_none ht) (by rwa [hrest]), hrest]
  refine State.globalAccess_of_clear hc ?_ (hnodup.sublist (List.filter_sublist.map _)) (fun n hn => ?_) (fun _ _ _ => rfl)
  · have hmiss (l : List Nat) (n : Nat) : (s.modThreads e.w.id l (Thread.ldpMissed f)).miss e n = s.miss e n := by
      unfold State.miss State.missOf State.missUsed
      rw [State.modThreads_flights, State.modThreads_groups]
    rw [hmiss]
    exact hm
  · obtain ⟨c, hcs, rfl⟩ := List.mem_map.1 hn
    exact hsub _ (List.mem_map_of_mem (List.mem_filter.1 hcs).1)

/-- What an `ldp` leaves. -/
theorem Issuable.ldp_outcome {s : State} {e : Env} {g : Guard} {f : FM} (h : Issuable s e g (.ldp g f)) (ht : ∀ c ∈ s.ldpConds e g f, c.2.traps = [])
    (hc : ∀ c ∈ (s.ldpConds e g f).filter (fun c => c.2.pages.isEmpty), c.2.clear)
    (hm : s.miss e (linesOf (((s.ldpConds e g f).filter (fun c => c.2.pages.isEmpty)).flatMap (fun c => c.2.elems))).length ≠ .reject) :
    Out.Leads (exec (.ldp g f) s) (fun t =>
      (∃ fs : List Flight, t.flights = s.flights ++ fs ∧
        fs.map (fun f => (f.tids, f.elems)) = ((s.ldpConds e g f).filter (fun c => c.2.pages.isEmpty)).map (fun c => ([c.1], c.2.elems)) ∧
        ∀ x ∈ fs, x.kind = .load ∧ x.pred = some (ldpPred f).toNat) ∧
      ThreadsBecome s t e (fun n x =>
        if n ∈ ((s.ldpConds e g f).filter (fun c => c.2.pages.isEmpty)).map (·.1) then ({ x with ld := x.ld + 1 }).next
        else if n ∈ (s.ldpConds e g f).map (·.1) then ((x.setV f.d 0).setP (ldpPred f) false).next else x.next) ∧
      SameMemory s t) := by
  have hfst : (s.ldpConds e g f).map (·.1) = s.lanesAsc e g := map_fst_pair ..
  obtain ⟨hl, hsub⟩ := State.lanesAsc_of_fst hfst
  refine (h.ldp_leads ht hc hm).imp (fun t hx => ?_)
  clear ht hc hm hfst
  generalize s.ldpConds e g f = cs at *
  generalize hthereDef : cs.filter (fun c => c.2.pages.isEmpty) = there at *
  have hthere : (there.map (fun c => (c.1, c.2.elems))).map (·.1) = there.map (·.1) := by
    rw [List.map_map]
    rfl
  have hout (n : Nat) : n ∈ cs.map (·.1) → (n ∈ (cs.filter (fun c => !c.2.pages.isEmpty)).map (·.1) ↔ n ∉ there.map (·.1)) := by
    intro hn
    obtain ⟨c, hcs, rfl⟩ := List.mem_map.1 hn
    have key (q : Nat × Cond → Bool) : c.1 ∈ (cs.filter q).map (·.1) ↔ q c = true := by
      refine ⟨fun h => ?_, fun h => List.mem_map_of_mem (List.mem_filter.2 ⟨hcs, h⟩)⟩
      obtain ⟨c', hc', heq⟩ := List.mem_map.1 h
      rw [← List.inj_on_of_nodup_map hl (List.mem_filter.1 hc').1 hcs heq]
      exact (List.mem_filter.1 hc').2
    rw [← hthereDef, key, key]
    simp
  obtain ⟨⟨fs, hf, hfs, hmake⟩, ⟨hin, hother⟩, hmem, -⟩ := hx
  refine ⟨⟨fs, hf.trans (by rw [State.modThreads_flights]), hfs.trans (List.map_map ..), fun x hx => ?_⟩, ⟨fun n hn => ?_, fun wg n hn => ?_⟩, ?_⟩
  · obtain ⟨-, -, -, hpred, hkind⟩ := hmake x hx
    have htids : x.tids ≠ [] := by
      have hmem : (x.tids, x.elems) ∈ fs.map (fun f => (f.tids, f.elems)) := List.mem_map_of_mem hx
      rw [hfs] at hmem
      obtain ⟨c, -, heq⟩ := List.mem_map.1 hmem
      rw [show x.tids = [c.1] from (congrArg Prod.fst heq).symm]
      exact List.cons_ne_nil _ _
    obtain ⟨n, hn⟩ := List.exists_mem_of_ne_nil _ htids
    exact ⟨hkind n hn, hpred⟩
  · rw [hin n hn]
    dsimp only
    rw [hthere, State.thread_modThreads]
    by_cases hn' : n ∈ cs.map (·.1)
    · by_cases hthere' : n ∈ there.map (·.1)
      · rw [if_pos hthere', if_pos hthere', if_neg (fun hx => (hout n hn').1 hx hthere')]
        rfl
      · rw [if_neg hthere', if_neg hthere', if_pos hn', if_pos ((hout n hn').2 hthere')]
        rfl
    · have hno (q : Nat × Cond → Bool) : n ∉ (cs.filter q).map (·.1) := fun hx => hn' (by
        obtain ⟨c, hc, rfl⟩ := List.mem_map.1 hx
        exact List.mem_map_of_mem (List.mem_filter.1 hc).1)
      rw [if_neg (hno _), ← hthereDef, if_neg (hno _), if_neg hn', if_neg (hno _)]
  · rw [hother wg n hn]
    refine State.thread_modThreads_other _ _ _ _ _ _ (fun u hu => hn u (hsub u ?_))
    obtain ⟨c, hc, rfl⟩ := List.mem_map.1 hu
    exact List.mem_map_of_mem (List.mem_filter.1 hc).1
  · exact (sameMemory_iod (State.modThreads_mem ..) (State.modThreads_iod ..)).trans hmem

/-! `pgreq` (spec 08, R199). -/

/-- The translations of some lanes come into the TLBs. -/
def State.fillLanes (s : State) (e : Env) (f : FM) (l : List Nat) : State :=
  l.foldl (fun t n => t.tlbFill e.g.core e.gang.world (e.va (s.thread e.w.id n) f.base f.idx f.disp.toInt)) s

theorem State.foldl_tlbFill_eq (place world : Nat) (va : Nat → Nat) (l : List Nat) (s : State) :
    ∃ tlb, l.foldl (fun t n => t.tlbFill place world (va n)) s = { s with tlb } := by
  induction l generalizing s with
  | nil => exact ⟨s.tlb, rfl⟩
  | cons n l ih =>
    obtain ⟨tlb, h⟩ := s.tlbFill_eq place world (va n)
    obtain ⟨tlb', h'⟩ := ih (s.tlbFill place world (va n))
    exact ⟨tlb', by rw [List.foldl_cons, h', h]⟩

theorem State.fillLanes_eq (s : State) (e : Env) (f : FM) (l : List Nat) : ∃ tlb, s.fillLanes e f l = { s with tlb } :=
  State.foldl_tlbFill_eq ..

/-- The lanes of a `pgreq` with their conditions. -/
def State.pgreqConds (s : State) (e : Env) (g : Guard) (f : FM) : List (Nat × Cond) :=
  (s.lanesAsc e g).map (fun n =>
    (n, (s.permit e.g.core e.gang.world (Config.dieOfCore e.g.core) (e.va (s.thread e.w.id n) f.base f.idx f.disp.toInt) .read).1))

theorem Issuable.pgreq {s : State} {e : Env} {g : Guard} {f : FM} (h : Issuable s e g (.pgreq g f)) (hw : worst (s.pgreqConds e g f) = none) :
    exec (.pgreq g f) s = ((s.fillLanes e f (s.lanesAsc e g)).recordPages e.gang.world
      { s.record e 0x30 0 [] with lanes := laneMask (((s.pgreqConds e g f).filter (fun c => !c.2.pages.isEmpty)).map (·.1)) }
      ((s.pgreqConds e g f).flatMap (fun c => c.2.pages))).done e := by
  have hrec : (s.fillLanes e f (s.lanesAsc e g)).record e 0x30 0 [] = s.record e 0x30 0 [] := by
    obtain ⟨tlb, hf⟩ := s.fillLanes_eq e f (s.lanesAsc e g)
    rw [hf]
    rfl
  rw [← hrec]
  show execPgreq g f s = _
  unfold execPgreq
  rw [h.issue]
  rw [State.pgreqConds] at hw
  simp only [hw]
  rfl

/-- A `pgreq` records its pages and moves on. -/
theorem Issuable.pgreq_leads {s : State} {e : Env} {g : Guard} {f : FM} (h : Issuable s e g (.pgreq g f)) (hw : worst (s.pgreqConds e g f) = none) :
    Out.Leads (exec (.pgreq g f) s) (fun t => t.threads = (s.advance e).threads ∧
      PagesRecorded s t e.gang.world
        { s.record e 0x30 0 [] with lanes := laneMask (((s.pgreqConds e g f).filter (fun c => !c.2.pages.isEmpty)).map (·.1)) }
        ((s.pgreqConds e g f).flatMap (fun c => c.2.pages))) := by
  rw [h.pgreq hw]
  generalize ({ s.record e 0x30 0 [] with lanes := laneMask (((s.pgreqConds e g f).filter (fun c => !c.2.pages.isEmpty)).map (·.1)) } : FaultRec) = r
  obtain ⟨tlb, hf⟩ := s.fillLanes_eq e f (s.lanesAsc e g)
  obtain ⟨⟨mem, llcDirty, iod, worlds, gangs, flights, engines, hv⟩, -⟩ := (s.fillLanes e f (s.lanesAsc e g)).recordPages_recorded e.gang.world r
    ((s.pgreqConds e g f).flatMap (fun c => c.2.pages))
  refine ⟨_, rfl, State.threads_modThreads_congr ?_ .., s.fillLanes e f (s.lanesAsc e g), by rw [hf], by rw [hf], by rw [hf], by rw [hf],
    State.modThreads_mem .., State.modThreads_worlds .., State.modThreads_iod ..⟩
  rw [hv, hf]

/-! Scratchpad accesses that the pager does not let through. -/

section
variable {s : State} {e : Env} {a : Access} {m : Form} {cs : List (Nat × Cond)} {w : Workgroup}

theorem State.spadAccess_wait (hw : worst cs = none) (hp : s.touchPages (a != .read) (spadPages w cs) = .wait) :
    s.spadAccess e a m cs (some w) = .next ((s.countPaged e w.home).hold e) := by
  rw [spadPages] at hp
  simp only [State.spadAccess, hw, hp]

theorem State.spadAccess_backing {p : Nat} (hw : worst cs = none) (hp : s.touchPages (a != .read) (spadPages w cs) = .backing p) :
    s.spadAccess e a m cs (some w) =
      .next ((s.pushRecord e.gang.world (s.record e 0x50 (p * 1024) ((cs.filter (fun c => c.2.elems.any (fun x =>
        (pagesOf x.va x.size).contains p))).map (·.1)))).park e ((cs.filter (fun c => c.2.elems.any (fun x =>
        (pagesOf x.va x.size).contains p))).map (·.1)) (.backing p)).progress := by
  rw [spadPages] at hp
  simp only [State.spadAccess, hw, hp]

end

end Sys2Proof.Machine

namespace Sys2Proof
open Sys2Proof.Machine

/-- Settles O12: the lanes that issue, those that park, and the records of their pages. -/
theorem globalAccessesIssue : Obligations.GlobalAccessesIssue := by
  unfold Obligations.GlobalAccessesIssue
  refine ⟨fun g f s e => ⟨?ld, ?st⟩, ?ldp, fun g f s e cs hw ha hm => ⟨?ldOut, ?stOut⟩,
    fun g f op s e cs hcs hw ha hh h hm => ?atomOut, fun g f s e h => h.pgreq_leads, fun g f s e w write cs i hi h hcs hs hw => ?spad⟩
  case ld =>
    rintro cs rfl h hc hm
    have hfst := State.lanesAsc_of_fst (s.ldstConds_fst e g .read f)
    rw [show exec (.ld g f) s = _ from h.issue _]
    exact (State.globalAccess_of_clear hc hm hfst.1 hfst.2 (fun _ _ _ => rfl)).imp (fun _ => Accesses.issued)
  case st =>
    rintro cs rfl h hc hm
    have hfst := State.lanesAsc_of_fst (s.ldstConds_fst e g .write f)
    rw [show exec (.st g f) s = _ from h.issue _]
    exact (State.globalAccess_of_clear hc hm hfst.1 hfst.2 (fun _ _ _ => rfl)).imp (fun _ => Accesses.issued)
  case ldp =>
    intro g f s e cs there h ht hc hm
    exact h.ldp_outcome ht hc hm
  case ldOut =>
    rintro rfl h
    rw [show exec (.ld g f) s = _ from h.issue _]
    exact State.globalAccess_parks (kind := fun _ => .load) ha hw hm (State.lanesAsc_of_fst (s.ldstConds_fst e g .read f)).1 (fun _ _ _ => rfl)
  case stOut =>
    rintro rfl h
    rw [show exec (.st g f) s = _ from h.issue _]
    exact State.globalAccess_parks (kind := fun _ => .store) ha hw hm (State.lanesAsc_of_fst (s.ldstConds_fst e g .write f)).1 (fun _ _ _ => rfl)
  case atomOut =>
    subst hcs
    have hx := State.atomConds_eq (op := op) (fun n hn => traps_of_worst hw (List.mem_map_of_mem (f := fun n => (n, s.atomCond e f n)) hn))
      (fun n hn => hh (n, s.atomCond e f n) (List.mem_map_of_mem hn))
    rw [h.atom, hx]
    exact State.globalAccess_parks ha hw hm (State.lanesAsc_of_fst (map_fst_pair ..)).1 (atom_kinds s e f op rfl)
  case spad =>
    intro pages
    have hx : exec i s = s.spadAccess e (if write then .write else .read)
        (if write then { kind := fun _ => .store, scope := f.scope.toNat, rel := f.ord == 2, spad := true }
         else { kind := fun _ => .load, sx := f.sx == 1, inLd := true, scope := f.scope.toNat, acq := f.ord == 1, spad := true }) cs (some w) := by
      subst hi hcs
      cases write
      · refine (h.issue _).trans ?_
        rw [hs]
        rfl
      · refine (h.issue _).trans ?_
        rw [hs]
        rfl
    have hwr : ((if write then Access.write else Access.read) != Access.read) = write := by cases write <;> rfl
    rw [hx]
    exact ⟨fun hp => State.spadAccess_wait hw (by rw [hwr]; exact hp), fun p hp => State.spadAccess_backing hw (by rw [hwr]; exact hp)⟩

end Sys2Proof
end

section
/-! Poisoned replies and dropped lines (spec 08, R193; 07, R170). -/

namespace Sys2Proof.Machine

/-! Threads of a workgroup that lives, and flights found by name. -/

theorem State.modLive_of_live {s : State} {wg : Nat} (h : s.wgs.any (fun w => w.id == wg) = true) (l : List Nat) (f : Thread → Thread) :
    s.modLive wg l f = s.modThreads wg l f := if_pos h

theorem State.modLive_only (s : State) (wg : Nat) (l : List Nat) (f : Thread → Thread) : ∃ threads, s.modLive wg l f = { s with threads } := by
  unfold State.modLive
  split
  · exact s.modThreads_only wg l f
  · exact ⟨s.threads, rfl⟩

theorem State.thread_modLive_cases (s : State) (wg : Nat) (l : List Nat) (f : Thread → Thread) (wg' n : Nat) :
    (s.modLive wg l f).thread wg' n = f (s.thread wg' n) ∨ (s.modLive wg l f).thread wg' n = s.thread wg' n := by
  unfold State.modLive
  split
  · exact s.thread_modThreads_cases wg l f wg' n
  · exact .inr rfl

theorem State.flight?_congr {s t : State} (h : t.flights = s.flights) (id : Nat) : t.flight? id = s.flight? id := by
  rw [State.flight?, State.flight?, h]

theorem State.flight?_modFlight (s : State) (id : Nat) (f : Flight → Flight) (h : ∀ x, (f x).id = x.id) :
    (s.modFlight id f).flight? id = (s.flight? id).map f :=
  find_mapIf _ f (fun x => by rw [h]) _

/-! A poisoned reply. -/

/-- What carries data meets a poisoned reply. -/
def FlightKind.isData (k : FlightKind) : Bool := match k with | .load | .frag | .store | .atomic .. => true | _ => false

/-- A poisoned reply: the count falls, the cluster's lines are dropped, and the flight is marked. -/
def State.poisoned (s : State) (f : Flight) (r : ErrorReply) : State :=
  (f.elems.foldl (fun s x => s.dropLine f.core x.key) (s.lower f)).modFlight r.flight (fun f => { f with poisoned := true, denied := r.prot })

theorem execPoisonedReply_eq {s : State} {r : ErrorReply} {f : Flight} (h : s.flight? r.flight = some f) : execPoisonedReply r s =
    event (f.kind.isData && !f.poisoned && !f.replay && s.depsMet f.deps && f.elems.any (s.mayRefuse f r.prot)) (s.poisoned f r) := by
  unfold execPoisonedReply
  rw [h]
  rfl

theorem State.foldl_dropLine (core : Nat) (xs : List Elem) (s : State) : ∃ l1, xs.foldl (fun s x => s.dropLine core x.key) s = { s with l1 } := by
  induction xs generalizing s with
  | nil => exact ⟨s.l1, rfl⟩
  | cons x xs ih =>
    obtain ⟨l1, h⟩ := ih (s.dropLine core x.key)
    exact ⟨l1, h⟩

/-- What of a thread's count falls. -/
def Thread.lowered (inLd : Bool) (t : Thread) : Thread := if inLd then { t with ld := t.ld - 1 } else { t with st := t.st - 1 }

theorem State.lower_eq (s : State) (f : Flight) : s.lower f = s.modLive f.wg f.tids (Thread.lowered f.inLd) := rfl

theorem State.poisoned_eq (s : State) (f : Flight) (r : ErrorReply) : ∃ threads l1, s.poisoned f r = { s with
    threads, l1, flights := mapIf (·.id == r.flight) (fun f => { f with poisoned := true, denied := r.prot }) s.flights } ∧
    threads = (s.modLive f.wg f.tids (Thread.lowered f.inLd)).threads := by
  obtain ⟨threads, hl⟩ := s.modLive_only f.wg f.tids (Thread.lowered f.inLd)
  obtain ⟨l1, hd⟩ := State.foldl_dropLine f.core f.elems (s.lower f)
  refine ⟨threads, l1, ?_, by rw [hl]⟩
  unfold State.poisoned
  rw [hd, State.lower_eq, hl]
  rfl

/-- What waits for a poisoned reply takes its trap, or what it raises itself below that. -/
theorem State.gate_of_poison {s : State} {e : Env} {g : Guard} {i : Instr} {f : Flight} (hd : s.decodeTrap e i = none) (hf : s.fallBad e i = none)
    (hp : s.poisonHit e (i.vregs (instrFrags e.l i).1 (instrFrags e.l i).2) i.preds = some f) : s.gate e g i = .poison f.poisonTrap := by
  unfold State.gate
  simp only [hd, hf, hp]

end Sys2Proof.Machine

namespace Sys2Proof
open Sys2Proof.Machine

/-- Settles O18: the mark of the flight, and the place of a poisoned reply in the order of the conditions. -/
theorem poisonedReplies : Obligations.PoisonedReplies := by
  unfold Obligations.PoisonedReplies
  refine ⟨fun s fl f prot hfl hk hp hr hdeps hrefuse => ?reply, fun g i s e f body hi hd hf hp => ⟨fun hno => ?trap, fun hknown hraised t ht => ?own⟩,
    fun s line hline => ?drop⟩
  case reply =>
    have hdata : f.kind.isData = true := by
      rcases hk with h | h | h | ⟨op, ty, b, c, h⟩ <;> rw [h] <;> rfl
    rw [show exec (.poisonedReply ⟨fl, prot⟩) s = _ from execPoisonedReply_eq (r := ⟨fl, prot⟩) hfl]
    obtain ⟨threads, l1, heq, hthreads⟩ := s.poisoned_eq f ⟨fl, prot⟩
    have hfound : (s.poisoned f ⟨fl, prot⟩).flight? fl = some { f with poisoned := true, denied := prot } := by
      refine (State.flight?_congr (s := s.modFlight fl (fun f => { f with poisoned := true, denied := prot })) (by rw [heq]; rfl) fl).trans ?_
      rw [s.flight?_modFlight fl (fun f => { f with poisoned := true, denied := prot }) (fun _ => rfl), hfl]
      rfl
    refine event_leads (by simp only [hdata, hp, hr, hdeps, hrefuse]; rfl) ⟨by rw [heq]; rfl, sameMemory_of (by rw [heq]; rfl) (by rw [heq]; rfl),
      ⟨_, hfound, rfl, rfl, rfl, rfl⟩, fun wg u => ?_⟩
    have hx := State.thread_congr (s := s.modLive f.wg f.tids (Thread.lowered f.inLd)) (t := (s.poisoned f ⟨fl, prot⟩).progress)
      (by rw [heq]; exact hthreads) wg u
    rw [hx]
    rcases s.thread_modLive_cases f.wg f.tids (Thread.lowered f.inLd) wg u with h | h <;> rw [h]
    · unfold Thread.lowered
      split <;> exact ⟨rfl, rfl⟩
    · exact ⟨rfl, rfl⟩
  case trap =>
    rw [issue_of_gate_poison hi (State.gate_of_poison hd hf hp), if_neg]
    rcases hno with h | h
    · simp [h]
    · simp [Option.isNone_iff_eq_none, h]
  case own =>
    rw [issue_of_gate_poison hi (State.gate_of_poison hd hf hp), if_pos (by simp [hknown, hraised]), ht]
    refine ⟨fun ⟨n, hn, hlt⟩ => lowerOf_of_lt hn hlt, fun hle => lowerOf_of_le (fun t' ht' n hn => hle n ?_)⟩
    injection ht' with heq
    rwa [heq]
  case drop =>
    refine event_leads hline ⟨sameMemory_of rfl rfl, rfl, fun x => ?_⟩
    exact List.mem_filter.trans (and_congr_right (fun _ => by simp))

end Sys2Proof
end

section
/-! Prefetch, `sld`, fences and maintenance (spec 08, R198, R199, R208 to R210; 05, R124). -/

namespace Sys2Proof.Machine

/-! Lines that come into the caches. -/

/-- Only caches and TLBs differ, and every byte reads as before. -/
def Cached (s t : State) : Prop := (∃ tlb iod l1 nextId, t = { s with tlb, iod, l1, nextId }) ∧ SameMemory s t

theorem Cached.refl (s : State) : Cached s s := ⟨⟨s.tlb, s.iod, s.l1, s.nextId, rfl⟩, .refl s⟩

theorem Cached.trans {s t u : State} (h : Cached s t) (h' : Cached t u) : Cached s u := by
  obtain ⟨⟨tlb, iod, l1, nextId, ht⟩, hm⟩ := h
  obtain ⟨⟨tlb', iod', l1', nextId', hu⟩, hm'⟩ := h'
  exact ⟨⟨tlb', iod', l1', nextId', by rw [hu, ht]⟩, hm.trans hm'⟩

theorem Cached.foldl {α : Type} {f : State → α → State} (h : ∀ s x, Cached s (f s x)) (l : List α) (s : State) : Cached s (l.foldl f s) := by
  induction l generalizing s with
  | nil => exact .refl s
  | cons x l ih => exact (h s x).trans (ih _)

theorem State.tlbFill_cached (s : State) (place world va : Nat) : Cached s (s.tlbFill place world va) := by
  obtain ⟨tlb, h⟩ := s.tlbFill_eq place world va
  rw [h]
  exact ⟨⟨tlb, s.iod, s.l1, s.nextId, rfl⟩, sameMemory_of rfl rfl⟩

theorem State.fillHost_cached (s : State) (k : Nat) : Cached s (s.fillHost k) := by
  have hiod : ∃ iod, s.fillHost k = { s with iod } := by
    unfold State.fillHost
    split
    · exact ⟨s.iod, rfl⟩
    · split
      · exact ⟨s.iod, rfl⟩
      · exact ⟨_, rfl⟩
  obtain ⟨iod, h⟩ := hiod
  exact ⟨⟨s.tlb, iod, s.l1, s.nextId, h⟩, fun _ => by rw [h], s.homeByte_fillHost k⟩

theorem State.fillL1_cached (s : State) (l : Launch) (core k : Nat) (green : Bool) : Cached s (s.fillL1 l core k green) := by
  have hl1 : ∃ l1 nextId, s.fillL1 l core k green = { s with l1, nextId } := by
    unfold State.fillL1
    dsimp only
    split
    · exact ⟨s.l1, s.nextId, rfl⟩
    · exact ⟨_, _, rfl⟩
  obtain ⟨l1, nextId, h⟩ := hl1
  rw [h]
  exact ⟨⟨s.tlb, s.iod, l1, nextId, rfl⟩, sameMemory_of rfl rfl⟩

/-- One lane of a `pref`. -/
def State.prefLane (e : Env) (f : FM) (s : State) (n : Nat) : State :=
  let va := e.va (s.thread e.w.id n) f.base f.idx f.disp.toInt
  match s.permit e.g.core e.gang.world (Config.dieOfCore e.g.core) va .read with
  | (c, some t) =>
    if !c.traps.isEmpty || c.absent.isSome || s.errs t.key || s.globalHit e.gang.world (Config.dieOfCore e.g.core) .read va 1 then s
    else
      let s := (s.tlbFill e.g.core e.gang.world va).fillHost t.key
      if f.cnt == 0 then s.fillL1 e.l e.g.core t.key (pteGreen t.leaf.pte) else s
  | (_, none) => s

theorem State.prefLane_cached (e : Env) (f : FM) (s : State) (n : Nat) : Cached s (State.prefLane e f s n) := by
  unfold State.prefLane
  dsimp only
  split
  · split
    · exact .refl s
    · have filled (k : Nat) :=
        (s.tlbFill_cached e.g.core e.gang.world (e.va (s.thread e.w.id n) f.base f.idx f.disp.toInt)).trans (State.fillHost_cached _ k)
      split
      · exact (filled _).trans (State.fillL1_cached ..)
      · exact filled _
  · exact .refl s

section
variable {s : State} {e : Env} {g : Guard}

theorem Issuable.pref {f : FM} (h : Issuable s e g (.pref g f)) :
    exec (.pref g f) s = ((s.lanesAsc e g).foldl (State.prefLane e f) s).done e :=
  h.issue _

/-! `sld`. -/

/-- A read of an address that translates, at memory that is there, raises nothing. -/
theorem State.permit_read {place world die va : Nat} {t : Trans} (ht : s.translate place world va = .ok t) (ha : keyAbsent t.key = false) :
    s.permit place world die va .read = ({}, some t) := by
  unfold State.permit
  simp only [ht, ha, bne_self_eq_false, Bool.false_and, Bool.false_eq_true, if_false]
  rfl

theorem Issuable.sld {f : SI} {t : Trans} (h : Issuable s e g (.sld g f)) (l : s.someLane e g) (hlo : e.l.code ≤ s.sldVa e f)
    (hhi : s.sldVa e f < e.l.code + 64 * e.l.ksize) (hal : s.sldVa e f % 4 = 0) (ht : s.translate e.g.core e.gang.world (s.sldVa e f) = .ok t)
    (ha : keyAbsent t.key = false) (he : s.errs t.key = false) (hx : s.uncrossed t.key = false) : exec (.sld g f) s =
      .next ((((s.noteFor e (s.lanes e g) t.key (pteGreen t.leaf.pte)).tlbFill e.g.core e.gang.world (s.sldVa e f)).setS e f.sd
        (BitVec.ofNat 32 (s.loadNat e.l e.g.core t.key false (pteGreen t.leaf.pte) 4))).advance e).progress := by
  show execSld g f s = _
  unfold execSld
  rw [h.groupOp l]
  dsimp only
  have hin : (decide (s.sldVa e f < e.l.code) || decide (e.l.code + 64 * e.l.ksize ≤ s.sldVa e f)) = false := by
    simp only [Bool.or_eq_false_iff, decide_eq_false_iff_not, not_lt, not_le]
    exact ⟨hlo, hhi⟩
  have hworst : worst [(0, ({} : Cond))] = none := rfl
  have hal' : (s.sldVa e f % 4 != 0) = false := by rw [hal]; rfl
  simp only [State.permit_read ht ha, hin, hal', Bool.false_eq_true, if_false, hworst, he, hx]
  rfl

/-! Fences. -/

/-- A release fence is marked in some threads. -/
def State.markFences (s : State) (wg scope : Nat) (l : List Nat) : State := l.foldl (fun s t => s.markFence wg t scope) s

theorem State.markFence_only (s : State) (wg n scope : Nat) : ∃ threads, s.markFence wg n scope = { s with threads } := ⟨_, rfl⟩

/-- A fence's mark changes nothing else of its thread, and no other thread of the workgroup. -/
theorem State.thread_markFence (s : State) (wg n scope m : Nat) : ∃ fences,
    (s.markFence wg n scope).thread wg m = { s.thread wg m with fences } ∧
    (m = n → (⟨s.nextId, scope⟩ : Fence) ∈ fences) ∧ (m ≠ n → fences = (s.thread wg m).fences) := by
  unfold State.markFence
  dsimp only
  by_cases h : m = n
  · rw [h, State.thread_modThread_self]
    exact ⟨_, rfl, fun _ => List.mem_append_right _ (List.mem_singleton.2 rfl), fun hne => absurd rfl hne⟩
  · rw [State.thread_modThread_ne s wg h]
    exact ⟨_, rfl, fun heq => absurd heq h, fun _ => rfl⟩

theorem State.markFences_spec (wg scope : Nat) (l : List Nat) (s : State) : (∃ threads, s.markFences wg scope l = { s with threads }) ∧
    ∀ m, ∃ fences, (s.markFences wg scope l).thread wg m = { s.thread wg m with fences } ∧
      (m ∈ l → (⟨s.nextId, scope⟩ : Fence) ∈ fences) ∧ (m ∉ l → fences = (s.thread wg m).fences) := by
  induction l generalizing s with
  | nil => exact ⟨⟨s.threads, rfl⟩, fun m => ⟨_, rfl, fun h => absurd h List.not_mem_nil, fun _ => rfl⟩⟩
  | cons n l ih =>
    obtain ⟨threads, hn⟩ := s.markFence_only wg n scope
    obtain ⟨⟨threads', hl⟩, hspec⟩ := ih (s.markFence wg n scope)
    refine ⟨⟨threads', hl.trans (by rw [hn])⟩, fun m => ?_⟩
    obtain ⟨fences, ht, hin, hout⟩ := s.thread_markFence wg n scope m
    obtain ⟨fences', ht', hin', hout'⟩ := hspec m
    refine ⟨fences', ht'.trans (by rw [ht]), fun hm => ?_, fun hm => ?_⟩
    · by_cases hml : m ∈ l
      · have hx := hin' hml
        rw [hn] at hx
        exact hx
      · rw [hout' hml, ht]
        exact hin ((List.mem_cons.1 hm).resolve_right hml)
    · rw [hout' (fun h => hm (List.mem_cons_of_mem _ h)), ht]
      exact hout (fun h => hm (h ▸ List.mem_cons_self))

/-- A fence that may complete: an acquire drops lines, a release is marked. -/
def State.fenced (s : State) (e : Env) (g : Guard) (f : FC) : State :=
  let s1 := if fenceAcq f && !(s.lanes e g).isEmpty then s.acquire e.g.core (fenceScope f) else s
  if fenceRel f then s1.markFences e.w.id (fenceScope f) (s.lanes e g) else s1

theorem Issuable.fence {f : FC} (h : Issuable s e g (.fence g f)) (hm : fenceAcq f = true → ∀ n ∈ s.lanes e g, s.fenceMet e.w.id n f = true) :
    exec (.fence g f) s = (s.fenced e g f).done e := by
  refine (h.issue _).trans ?_
  have hno : (fenceAcq f && !(s.lanes e g).all (fun t => s.fenceMet e.w.id t f)) = false := by
    rw [Bool.and_eq_false_imp]
    intro ha
    rw [List.all_eq_true.2 (hm ha)]
    rfl
  simp only [hno, Bool.false_eq_true, if_false]
  rfl

theorem State.fenced_only (s : State) (e : Env) (g : Guard) (f : FC) : ∃ threads l1, s.fenced e g f = { s with threads, l1 } ∧
    (fenceAcq f = true → s.someLane e g → l1 = (s.acquire e.g.core (fenceScope f)).l1) ∧
    ∀ m, ∃ fences, (s.fenced e g f).thread e.w.id m = { s.thread e.w.id m with fences } ∧
      (fenceRel f = true → m ∈ s.lanes e g → (⟨s.nextId, fenceScope f⟩ : Fence) ∈ fences) := by
  have acquired : ∃ l1, (if fenceAcq f && !(s.lanes e g).isEmpty then s.acquire e.g.core (fenceScope f) else s) = { s with l1 } ∧
      (fenceAcq f = true → s.someLane e g → l1 = (s.acquire e.g.core (fenceScope f)).l1) := by
    obtain ⟨l1, hl⟩ := s.acquire_eq e.g.core (fenceScope f)
    split
    · exact ⟨l1, hl, fun _ _ => by rw [hl]⟩
    next hno =>
      refine ⟨s.l1, rfl, fun ha hs => absurd ?_ hno⟩
      simp [ha, hs]
  obtain ⟨l1, ha, hl1⟩ := acquired
  unfold State.fenced
  dsimp only
  rw [ha]
  split
  next hrel =>
    obtain ⟨⟨threads, hx⟩, hspec⟩ := State.markFences_spec e.w.id (fenceScope f) (s.lanes e g) { s with l1 }
    refine ⟨threads, l1, hx, hl1, fun m => ?_⟩
    obtain ⟨fences, ht, hin, -⟩ := hspec m
    exact ⟨fences, ht, fun _ hm => hin hm⟩
  next hrel => exact ⟨s.threads, l1, rfl, hl1, fun m => ⟨_, rfl, fun h => absurd h hrel⟩⟩

/-- An acquire at `pod` or wider leaves its core's L1 no line. -/
theorem State.acquire_drops {core scope : Nat} (h : 4 ≤ scope) {x : L1Line} (hx : x ∈ (s.acquire core scope).l1) : x.owner ≠ s.l1Owner core := by
  unfold State.acquire at hx
  rw [if_neg (by omega)] at hx
  have hk := (List.mem_filter.1 hx).2
  intro heq
  simp [heq, h] at hk

/-! Maintenance. -/

/-- The range of a maintenance instruction by granule. -/
def State.maintained (s : State) (e : Env) (f : FMC) : Cond × List (Nat × Nat × Nat) :=
  s.rangeKeys e (e.pair f.f1 % 2 ^ 56 / 128 * 128) ((e.pair f.f1 % 2 ^ 56 + (e.s f.f2).toNat + 127) / 128 * 128)

variable {f : FMC} {i : Instr}

theorem Issuable.maintain_none (h : Issuable s e g i) (l : s.someLane e g) (hn : (e.s f.f2).toNat = 0) (kind : List (Nat × Nat) → FlightKind) :
    maintain g f i s kind = .next (s.advance e).progress := by
  unfold maintain
  rw [h.groupOp l]
  simp only [hn, beq_self_eq_true, if_true]
  rfl

/-- The form of a maintenance operation. -/
def maintainForm (kind : FlightKind) : Form := { kind := fun _ => kind, bare := true }

theorem Issuable.maintain (h : Issuable s e g i) (l : s.someLane e g) (hn : (e.s f.f2).toNat ≠ 0) (ht : (s.maintained e f).1.traps = [])
    (kind : List (Nat × Nat) → FlightKind) :
    Machine.maintain g f i s kind = (s.addFlight e (maintainForm (kind ((s.maintained e f).2.map (·.2)))) (s.lanes e g)
      ((s.maintained e f).2.map (fun x => ⟨x.1, x.2.1, x.2.2, 0, 255, false, none⟩)) false [] s.nextId).done e := by
  have hn' : ((e.s f.f2).toNat == 0) = false := beq_eq_false_iff_ne.2 hn
  have hw : worst [(0, { (s.maintained e f).1 with absent := none })] = none := by
    refine worst_of_none (fun c hc => ?_)
    rw [List.mem_singleton.1 hc]
    exact ht
  unfold State.maintained at hw
  unfold Machine.maintain
  rw [h.groupOp l]
  simp only [hn', Bool.false_eq_true, if_false, hw]
  rfl

/-- The ranges of a maintenance operation. -/
def State.maintainedRanges (s : State) (e : Env) (f : FMC) : List (Nat × Nat) := (s.maintained e f).2.map (·.2)

/-- What a maintenance operation that issues leaves. -/
def Maintains (s t : State) (e : Env) (g : Guard) (kind : FlightKind) : Prop :=
  SameMemory s t ∧
  (∃ x : Flight, t.flights = s.flights ++ [x] ∧ x.tids = s.lanes e g ∧ x.inLd = false ∧ x.lines = [] ∧ x.kind = kind) ∧
  ThreadsBecome s t e (fun n x => if n ∈ s.lanes e g then ({ x with st := x.st + 1 }).next else x.next)

theorem maintains_addFlight (s : State) (e : Env) (g : Guard) (kind : FlightKind) (xs : List Elem) :
    Out.Leads ((s.addFlight e (maintainForm kind) (s.lanes e g) xs false [] s.nextId).done e) (fun t => Maintains s t e g kind) := by
  obtain ⟨tlb, launches, h⟩ := s.addFlight_eq e (maintainForm kind) (s.lanes e g) xs false [] s.nextId
  rw [h]
  refine ⟨_, rfl, sameMemory_iod (State.modThreads_mem ..) (State.modThreads_iod ..),
    ⟨s.newFlight e (maintainForm kind) (s.lanes e g) xs false [] s.nextId, State.modThreads_flights .., rfl, rfl, rfl, rfl⟩,
    fun n hn => ?_, fun wg n hn => ?_⟩
  · rw [State.thread_progress, State.thread_advance _ _ _ hn]
    refine (congrArg Thread.next (s.thread_modThreads e.w.id (s.lanes e g) (fun t => t.issued false) n)).trans ?_
    dsimp only
    split
    · rfl
    · rfl
  · rw [State.thread_progress, State.thread_advance_other _ _ _ _ hn]
    exact s.thread_modThreads_other e.w.id (s.lanes e g) (fun t => t.issued false) wg n (fun u hu => hn u (State.lanes_sub hu))

/-- A maintenance instruction issues one operation of the group for its range, or only moves on. -/
theorem Issuable.maintain_outcome (h : Issuable s e g i) (l : s.someLane e g) {kind : List (Nat × Nat) → FlightKind}
    (hi : exec i s = Machine.maintain g f i s kind) :
    ((e.s f.f2).toNat = 0 → exec i s = .next (s.advance e).progress) ∧
    ((e.s f.f2).toNat ≠ 0 → (s.maintained e f).1.traps = [] →
      Out.Leads (exec i s) (fun t => Maintains s t e g (kind (s.maintainedRanges e f)))) := by
  rw [hi]
  refine ⟨fun hn => h.maintain_none l hn kind, fun hn ht => ?_⟩
  rw [h.maintain l hn ht]
  exact maintains_addFlight ..

end

/-! A flush performs. -/

/-- A byte after a line's dirty words are written. -/
theorem memGet_flushLine (mem : List Host.Cell) (h : HostLine) (k : Nat) : memGet (flushLine mem h) k =
    if k / 128 = h.line ∧ listGet false h.dirty (k % 128 / 4) = true then listGet 0 h.bytes (k % 128) else memGet mem k := by
  have upTo (n : Nat) : memGet ((List.range n).foldl (fun m i =>
      if listGet false h.dirty (i / 4) then memSet m (h.line * 128 + i) (listGet 0 h.bytes i) else m) mem) k =
      if h.line * 128 ≤ k ∧ k < h.line * 128 + n ∧ listGet false h.dirty ((k - h.line * 128) / 4) = true then listGet 0 h.bytes (k - h.line * 128)
      else memGet mem k := by
    induction n with
    | zero =>
      rw [if_neg (by omega)]
      rfl
    | succ n ih =>
      rw [List.range_succ, List.foldl_append, List.foldl_cons, List.foldl_nil]
      by_cases hk : k = h.line * 128 + n
      · have hsub : k - h.line * 128 = n := by omega
        by_cases hd : listGet false h.dirty (n / 4) = true
        · rw [if_pos hd, memGet_memSet, if_pos hk, hsub, if_pos ⟨by omega, by omega, hd⟩]
        · rw [if_neg hd, ih, if_neg (by omega), if_neg (by rw [hsub]; exact fun hc => hd hc.2.2)]
      · have hskip : memGet (if listGet false h.dirty (n / 4) then memSet ((List.range n).foldl (fun m i =>
            if listGet false h.dirty (i / 4) then memSet m (h.line * 128 + i) (listGet 0 h.bytes i) else m) mem) (h.line * 128 + n)
            (listGet 0 h.bytes n) else (List.range n).foldl (fun m i =>
            if listGet false h.dirty (i / 4) then memSet m (h.line * 128 + i) (listGet 0 h.bytes i) else m) mem) k =
            memGet ((List.range n).foldl (fun m i =>
            if listGet false h.dirty (i / 4) then memSet m (h.line * 128 + i) (listGet 0 h.bytes i) else m) mem) k := by
          split
          · rw [memGet_memSet, if_neg hk]
          · rfl
        rw [hskip, ih]
        refine if_congr (and_congr_right (fun hle => and_congr_left (fun _ => ?_))) rfl rfl
        omega
  unfold flushLine
  rw [upTo 128]
  by_cases hline : k / 128 = h.line
  · have hsub : k - h.line * 128 = k % 128 := by omega
    rw [hsub]
    refine if_congr ⟨fun hc => ⟨hline, hc.2.2⟩, fun hc => ⟨by omega, by omega, hc.2⟩⟩ rfl rfl
  · rw [if_neg (by omega), if_neg (fun hc => hline hc.1)]

/-- A byte after some lines' dirty words are written: that of its own line. -/
theorem memGet_flushLines (l : List HostLine) (hl : (l.map (·.line)).Nodup) (mem : List Host.Cell) (k : Nat) :
    (∀ h ∈ l, k / 128 = h.line → listGet false h.dirty (k % 128 / 4) = true → memGet (l.foldl flushLine mem) k = listGet 0 h.bytes (k % 128)) ∧
    ((∀ h ∈ l, ¬ (k / 128 = h.line ∧ listGet false h.dirty (k % 128 / 4) = true)) → memGet (l.foldl flushLine mem) k = memGet mem k) := by
  induction l generalizing mem with
  | nil => exact ⟨fun h hh => absurd hh List.not_mem_nil, fun _ => rfl⟩
  | cons x l ih =>
    obtain ⟨hx, hl⟩ := List.nodup_cons.1 hl
    obtain ⟨hin, hout⟩ := ih hl (flushLine mem x)
    rw [List.foldl_cons]
    refine ⟨fun h hh hk hd => ?_, fun hno => ?_⟩
    · rcases List.mem_cons.1 hh with rfl | hh
      · have hnone : ∀ y ∈ l, ¬ (k / 128 = y.line ∧ listGet false y.dirty (k % 128 / 4) = true) := fun y hy hc =>
          hx (List.mem_map.2 ⟨y, hy, hc.1.symm.trans hk⟩)
        rw [hout hnone, memGet_flushLine, if_pos ⟨hk, hd⟩]
      · exact hin h hh hk hd
    · rw [hout (fun y hy => hno y (List.mem_cons_of_mem _ hy)), memGet_flushLine, if_neg (hno x List.mem_cons_self)]

/-- A flight that performs and is gone changes threads and flights only. -/
theorem State.land_only (s : State) (f : Flight) : ∃ threads, s.land f = { s with threads, flights := s.flights.filter (fun x => !(x.id == f.id)) } := by
  have lowered (u : State) (hu : ∃ threads, u = { s with threads }) :
      ∃ threads, { u.lower f with flights := u.flights.filter (fun x => !(x.id == f.id)) } =
        { s with threads, flights := s.flights.filter (fun x => !(x.id == f.id)) } := by
    obtain ⟨threads, rfl⟩ := hu
    obtain ⟨threads', h⟩ := State.modLive_only { s with threads } f.wg f.tids (Thread.lowered f.inLd)
    exact ⟨threads', by rw [State.lower_eq, h]⟩
  unfold State.land
  cases f.pred with
  | none => exact lowered s ⟨s.threads, rfl⟩
  | some p => exact lowered _ (s.modLive_only ..)

theorem State.flight?_id {s : State} {fl : Nat} {f : Flight} (h : s.flight? fl = some f) : f.id = fl :=
  beq_iff_eq.1 (List.find?_some (p := fun (x : Flight) => x.id == fl) h)

/-- The lines that a flush of some ranges writes. -/
def State.flushed (s : State) (ranges : List (Nat × Nat)) (inv : Bool) : State :=
  s.flushLines ((s.iod.hostLines.map (·.line)).filter (inRanges ranges)) inv

theorem execStorePerformed_flush {s : State} {fl : Nat} {f : Flight} {ranges : List (Nat × Nat)} {inv : Bool} (hf : s.flight? fl = some f)
    (hk : f.kind = .flush ranges inv) (hp : f.poisoned = false) (hd : s.depsMet f.deps = true) (hg : f.elems.any (fun x => x.green) = false) :
    execStorePerformed fl true none s = .next ((s.flushed ranges inv).land f).progress := by
  have hroom : s.roomFor f f.elems = true := by
    have hsub : s.submitted f = true := by simp only [State.submitted, hk]
    have hnone : f.elems.any (fun x => x.green && s.fifth f.world f.num x.key) = false := by
      rw [List.any_eq_false] at hg ⊢
      intro x hx
      rw [eq_false_of_ne_true (hg x hx)]
      simp
    rw [State.roomFor, hsub, hnone]
    rfl
  have hret : f.returns = false := by simp only [Flight.returns, hk]
  unfold execStorePerformed
  simp only [hf, hk, Bool.not_true, Bool.false_eq_true, if_false, Flight.chosen]
  have hns : (FlightKind.flush ranges inv == FlightKind.store) = false := rfl
  simp only [hns, Bool.false_eq_true, if_false, hf, hret, hroom, hp, hd, State.homeEffect, hk, FlightKind.isLoad]
  exact event_of_true rfl _

theorem listContains_flushed {s : State} {ranges : List (Nat × Nat)} {h : HostLine} (hh : h ∈ s.iod.hostLines) :
    ((s.iod.hostLines.map (·.line)).filter (inRanges ranges)).contains h.line = inRanges ranges h.line := by
  rw [List.contains_eq_mem]
  cases hr : inRanges ranges h.line with
  | true => exact decide_eq_true (List.mem_filter.2 ⟨List.mem_map_of_mem hh, hr⟩)
  | false =>
    refine decide_eq_false (fun hm => ?_)
    rw [(List.mem_filter.1 hm).2] at hr
    cases hr

/-- A flush: dirty words are in memory, and its lines are clean or dropped. -/
theorem State.flushed_spec (s : State) (ranges : List (Nat × Nat)) (inv : Bool) (hn : (s.iod.hostLines.map (·.line)).Nodup) :
    (∀ h ∈ s.iod.hostLines, inRanges ranges h.line = true → ∀ i, i < 128 → listGet false h.dirty (i / 4) = true →
      memGet (s.flushed ranges inv).mem (h.line * 128 + i) = listGet 0 h.bytes i) ∧
    (∀ h ∈ (s.flushed ranges inv).iod.hostLines, inRanges ranges h.line = true → inv = false ∧ h.dirty = List.replicate 32 false) := by
  constructor
  · intro h hh hr i hi hd
    have hmem : h ∈ s.iod.hostLines.filter (fun h => ((s.iod.hostLines.map (·.line)).filter (inRanges ranges)).contains h.line) :=
      List.mem_filter.2 ⟨hh, by rw [listContains_flushed hh]; exact hr⟩
    have hdiv : (h.line * 128 + i) / 128 = h.line := by omega
    have hmod : (h.line * 128 + i) % 128 = i := by omega
    have hx := (memGet_flushLines _ (hn.sublist (List.filter_sublist.map _)) s.mem (h.line * 128 + i)).1 h hmem hdiv (by rw [hmod]; exact hd)
    rw [hmod] at hx
    exact hx
  · intro h hh hr
    cases inv with
    | true =>
      obtain ⟨hmem, hno⟩ := List.mem_filter.1 (show h ∈ s.iod.hostLines.filter _ from hh)
      rw [listContains_flushed hmem, hr] at hno
      cases hno
    | false =>
      obtain ⟨x, hx, heq⟩ := List.mem_map.1 (show h ∈ s.iod.hostLines.map _ from hh)
      refine ⟨rfl, ?_⟩
      rw [listContains_flushed hx] at heq
      split at heq
      · rw [← heq]
      next hno =>
        rw [heq] at hno
        exact absurd hr hno

/-- A flush that drops no line leaves every byte as it reads. -/
theorem State.homeByte_flushed (s : State) (ranges : List (Nat × Nat)) (hn : (s.iod.hostLines.map (·.line)).Nodup)
    (hh : ∀ h ∈ s.iod.hostLines, ∀ i, i < 128 → isHost (h.line * 128 + i) = true) (k : Nat) :
    (s.flushed ranges false).homeByte k = s.homeByte k := by
  have hmem (hno : ∀ h ∈ s.iod.hostLines, k / 128 ≠ h.line) : memGet (s.flushed ranges false).mem k = memGet s.mem k :=
    (memGet_flushLines _ (hn.sublist (List.filter_sublist.map _)) s.mem k).2 (fun h hm hc => hno h (List.mem_filter.1 hm).1 hc.1)
  unfold State.homeByte
  cases hk : isHost k with
  | false =>
    refine hmem (fun h hm heq => ?_)
    have hx := hh h hm (k % 128) (Nat.mod_lt _ (by decide))
    rw [show h.line * 128 + k % 128 = k by omega, hk] at hx
    cases hx
  | true =>
    have hfind : (s.flushed ranges false).iod.hostLines.find? (fun h => h.line == lineOf k) =
        (s.iod.hostLines.find? (fun h => h.line == lineOf k)).map (fun h =>
          if ((s.iod.hostLines.map (·.line)).filter (inRanges ranges)).contains h.line then { h with dirty := List.replicate 32 false } else h) := by
      show (s.iod.hostLines.map _).find? _ = _
      rw [List.find?_map]
      congr 2
      funext h
      simp only [Function.comp_apply]
      split <;> rfl
    rw [if_pos rfl, if_pos rfl, hfind]
    cases hf : s.iod.hostLines.find? (fun h => h.line == lineOf k) with
    | none =>
      refine hmem (fun h hm heq => ?_)
      exact List.find?_eq_none.1 hf h hm (beq_iff_eq.2 heq.symm)
    | some h =>
      show listGet 0 (if _ then _ else h : HostLine).bytes _ = _
      split <;> rfl

end Sys2Proof.Machine

namespace Sys2Proof
open Sys2Proof.Machine

/-- Settles O15: what each instruction adds to the state, and the bytes that a flush writes back. -/
theorem prefetchFencesAndMaintenance : Obligations.PrefetchFencesAndMaintenance := by
  unfold Obligations.PrefetchFencesAndMaintenance
  refine ⟨⟨fun g f s e h => ?pref, ?pgreq, ?sld⟩, ?fence, ?maintain, ?flush⟩
  case pref =>
    obtain ⟨⟨tlb, iod, l1, nextId, hx⟩, hmem⟩ := Cached.foldl (State.prefLane_cached e f) (s.lanesAsc e g) s
    refine ⟨_, h.pref, hmem.trans (sameMemory_iod (State.modThreads_mem ..) (State.modThreads_iod ..)), (State.modThreads_flights ..).trans (by rw [hx]),
      (State.modThreads_versions ..).trans (by rw [hx]), (State.modThreads_wgs ..).trans (by rw [hx]), threadsBecome_next (by rw [hx])⟩
  case pgreq =>
    intro g f s e h cs hw
    obtain ⟨tlb, hf⟩ := s.fillLanes_eq e f (s.lanesAsc e g)
    obtain ⟨⟨mem, llcDirty, iod, worlds, gangs, flights, engines, hv⟩, -⟩ := (s.fillLanes e f (s.lanesAsc e g)).recordPages_recorded e.gang.world
      { s.record e 0x30 0 [] with lanes := laneMask (((s.pgreqConds e g f).filter (fun c => !c.2.pages.isEmpty)).map (·.1)) }
      ((s.pgreqConds e g f).flatMap (fun c => c.2.pages))
    refine ⟨_, h.pgreq hw, threadsBecome_next (by rw [hv, hf]), (State.modThreads_wgs ..).trans (by rw [hv, hf]), fun hnone => ?_⟩
    have hnil : (s.pgreqConds e g f).flatMap (fun c => c.2.pages) = [] := List.flatMap_eq_nil_iff.2 hnone
    rw [hnil]
    refine ⟨sameMemory_iod ((State.modThreads_mem ..).trans ?_) ((State.modThreads_iod ..).trans ?_), (State.modThreads_worlds ..).trans ?_,
      (State.modThreads_flights ..).trans ?_⟩ <;> rw [hf] <;> rfl
  case sld =>
    intro g f s e tr va h l hlo hhi hal ht ha he hx
    exact h.sld l hlo hhi hal ht ha he hx
  case fence =>
    intro g f s e h hm
    obtain ⟨threads, l1, hx, hl1, hspec⟩ := s.fenced_only e g f
    refine ⟨_, h.fence hm, sameMemory_iod ((State.modThreads_mem ..).trans (by rw [hx])) ((State.modThreads_iod ..).trans (by rw [hx])),
      (State.modThreads_flights ..).trans (by rw [hx]), (State.modThreads_wgs ..).trans (by rw [hx]), fun n hn => ?_, fun hrel n hn => ?_,
      fun hacq hs hsc x hmem => ?_⟩
    · obtain ⟨fences, ht, -⟩ := hspec n
      rw [State.thread_progress, State.thread_advance _ _ _ hn, ht]
      exact ⟨rfl, rfl, rfl⟩
    · obtain ⟨fences, ht, hin⟩ := hspec n
      rw [State.thread_progress, State.thread_advance _ _ _ (State.lanes_sub hn), ht]
      exact hin hrel hn
    · have hl : x ∈ l1 := by
        have := hmem
        rw [show ((s.fenced e g f).advance e).progress.l1 = (s.fenced e g f).l1 from State.modThreads_l1 .., hx] at this
        exact this
      rw [hl1 hacq hs] at hl
      exact State.acquire_drops hsc hl
  case maintain =>
    rintro g f s e i (rfl | rfl | rfl) h l
    · obtain ⟨hnone, hsome⟩ := h.maintain_outcome l (f := f) (kind := fun rs => .flush rs false) rfl
      refine ⟨hnone, fun hn ht => (hsome hn ht).imp (fun t hx => ?_)⟩
      obtain ⟨hmem, ⟨x, hf, htids, hin, hlines, hkind⟩, hthreads⟩ := hx
      exact ⟨hmem, ⟨x, hf, htids, hin, hlines, fun _ => hkind, nofun, nofun⟩, hthreads⟩
    · obtain ⟨hnone, hsome⟩ := h.maintain_outcome l (f := f) (kind := fun rs => .flush rs true) rfl
      refine ⟨hnone, fun hn ht => (hsome hn ht).imp (fun t hx => ?_)⟩
      obtain ⟨hmem, ⟨x, hf, htids, hin, hlines, hkind⟩, hthreads⟩ := hx
      exact ⟨hmem, ⟨x, hf, htids, hin, hlines, nofun, fun _ => hkind, nofun⟩, hthreads⟩
    · obtain ⟨hnone, hsome⟩ := h.maintain_outcome l (f := f) (kind := .clean) rfl
      refine ⟨hnone, fun hn ht => (hsome hn ht).imp (fun t hx => ?_)⟩
      obtain ⟨hmem, ⟨x, hf, htids, hin, hlines, hkind⟩, hthreads⟩ := hx
      exact ⟨hmem, ⟨x, hf, htids, hin, hlines, nofun, nofun, fun _ => hkind⟩, hthreads⟩
  case flush =>
    intro s fl f ranges inv hf hk hp hd hg hn
    obtain ⟨threads, hland⟩ := (s.flushed ranges inv).land_only f
    obtain ⟨hdirty, hlines⟩ := s.flushed_spec ranges inv hn
    refine ⟨_, execStorePerformed_flush hf hk hp hd hg, ?_, ?_, ?_, ?_⟩
    · rw [hland, State.flight?_id hf]
      rfl
    · rw [hland]
      exact hdirty
    · rw [hland]
      exact hlines
    · rintro rfl hhost k
      rw [hland]
      exact s.homeByte_flushed ranges hn hhost k

end Sys2Proof
end

section
/-! Loads return (spec 08, R196): the counterexample to the frame of other threads. -/

namespace Sys2Proof.Machine

/-- A load of one word by thread 0 of workgroup 1, with a predicate to set. -/
def aliasLoad : Flight :=
  { id := 9, wg := 1, gang := 1, launch := 1, part := 0, tids := [0], iaddr := 8, kind := .load, elems := [⟨0x1000, 0x1000, 4, 0, 5, false, none⟩]
    sx := false, pred := some 3, inLd := true, scope := 0, acq := false, rel := false, spad := false, core := 0, world := 0, version := none
    otag := 0, passed := false, passOrder := 0, batch := 9, replay := false, poisoned := false, denied := false, taken := false, lines := [32]
    reserve := false, deps := [] }

/-- The bench, its workgroup numbered 1, with that load on its way. -/
def aliasState : State := { ({ State.reset with nextId := 1 } : State).bench [] with flights := [aliasLoad] }

/-- The load may return. -/
theorem aliasState_may_return : aliasState.flight? 9 = some aliasLoad ∧ aliasState.mayPerform aliasLoad [⟨0x1000, 0x1000, 4, 0, 5, false, none⟩] = true ∧
    aliasState.wgs.any (fun w => w.id == aliasLoad.wg) = true := by decide +kernel

/-- Predicates that a thread has in the state that an outcome leads to. -/
def predsAfter (o : Out) (wg n : Nat) : BitVec 15 := match o with | .next t => (t.thread wg n).preds | _ => 0

/-- What is kept as thread 0 of workgroup 1 is also read as thread 8,192 of workgroup 0, and the load sets its predicate. -/
theorem aliasState_returns : predsAfter (exec (.loadReturn 9 (some 0)) aliasState) 0 8192 ≠ (aliasState.thread 0 8192).preds := by decide +kernel

end Sys2Proof.Machine

namespace Sys2Proof
open Sys2Proof.Machine

/-- Refutes O16: it says that no thread of another workgroup changes, for every thread number, and the model keeps thread `n` of workgroup
`wg` at the key `8192 * wg + n`: the load of thread 0 of workgroup 1 changes what reads as thread 8,192 of workgroup 0. -/
theorem not_loadsReturn : ¬ Obligations.LoadsReturn := by
  unfold Obligations.LoadsReturn
  intro h
  obtain ⟨hflight, hmay, hwg⟩ := aliasState_may_return
  obtain ⟨t, hnext, ⟨-, -, hothers, -⟩, -⟩ := h.1 aliasState 9 0 aliasLoad ⟨0x1000, 0x1000, 4, 0, 5, false, none⟩ hflight rfl rfl (by decide) hmay hwg
  have hkept : (t.thread 0 8192).preds = (aliasState.thread 0 8192).preds := congrArg Thread.preds (hothers 0 8192 (.inl (by decide)))
  have hset := aliasState_returns
  rw [hnext] at hset
  exact hset hkept

end Sys2Proof
end

section
/-! Stores and atomics perform (spec 08, R206): the counterexample to the frame of other flights. -/

namespace Sys2Proof.Machine

/-- An exchange of a word of die 0 by a core of die 1. -/
def exchFlight : Flight :=
  { aliasLoad with kind := .atomic .exch 0 1 0, inLd := false, pred := none, core := 100 }

/-- A byte store by the same die to the same word, past the crossbar with the word that its line gave, and poisoned. -/
def filledStore : Flight :=
  { aliasLoad with
    id := 10, kind := .store, elems := [⟨0x1000, 0x1000, 1, 0, 255, false, some 0⟩], inLd := false, pred := none, core := 100
    passed := true, poisoned := true }

/-- The bench with the two on their way. -/
def refillState : State := { ({ State.reset with nextId := 1 } : State).bench [] with flights := [exchFlight, filledStore] }

/-- The exchange may perform. -/
theorem refillState_may_perform : refillState.flight? 9 = some exchFlight ∧
    refillState.mayPerform exchFlight [⟨0x1000, 0x1000, 4, 0, 5, false, none⟩] = true ∧
    refillState.roomFor exchFlight [⟨0x1000, 0x1000, 4, 0, 5, false, none⟩] = true ∧
    refillState.wgs.any (fun w => w.id == exchFlight.wg) = true := by decide +kernel

/-- The words that the stores on their way carry, in the state that an outcome leads to. -/
def fillsAfter (o : Out) : List (List (Option Word)) := match o with | .next t => t.flights.map (fun f => f.elems.map (·.fill)) | _ => []

/-- The store carries what the exchange wrote from then on (spec 07, R171). -/
theorem refillState_performs : fillsAfter (exec (.atomicReply 9) refillState) = [[some 1]] := by decide +kernel

end Sys2Proof.Machine

namespace Sys2Proof
open Sys2Proof.Machine

/-- Refutes O17: it says that an atomic's reply leaves every other flight as it is, and the model makes a sub-word store of the same die,
past the crossbar, carry what the atomic wrote to its word: here a poisoned one, which holds nothing up. -/
theorem not_storesAndAtomicsPerform : ¬ Obligations.StoresAndAtomicsPerform := by
  unfold Obligations.StoresAndAtomicsPerform
  intro h
  obtain ⟨hflight, hmay, hroom, hwg⟩ := refillState_may_perform
  obtain ⟨t, hnext, -, hflights, -⟩ := h.2.2 refillState 9 exchFlight ⟨0x1000, 0x1000, 4, 0, 5, false, none⟩ .exch 0 1 0 hflight rfl rfl
    (by decide) rfl hmay hroom hwg (fun _ => rfl)
  have hset := refillState_performs
  rw [hnext] at hset
  have hfills : t.flights.map (fun f => f.elems.map (·.fill)) = [[some 0]] := by
    rw [hflights]
    rfl
  exact absurd (hset.symm.trans hfills) (by decide)

end Sys2Proof
end

section
/-! Signing and convergence registers (spec 06, R135 to R150). -/

namespace Sys2Proof.Machine

/-! A tile operation is added. -/

/-- The tile operation that an instruction issues. -/
def State.newTile (s : State) (e : Env) (tids : List Nat) (kind : TileKind) (mode : BitVec 2) (reads writes : List Nat) (leave : Bool)
    (core : Nat) : TileOp :=
  let o : TileOp :=
    { id := s.nextId, wg := e.w.id, tids, active := e.g.members, iaddr := s.iaddr e, kind, mode, reads, writes, leave, issuedAt := s.clock, core
      poisoned := false, deps := [], sub := (s.thread e.w.id e.g.leader).sub }
  { o with deps := dedup (tids.flatMap (fun t => State.depsOf { s with nextId := s.nextId + 1 } e.w.id t o.info)) }

theorem State.addTile_eq (s : State) (e : Env) (tids : List Nat) (kind : TileKind) (mode : BitVec 2) (reads writes : List Nat) (leave : Bool)
    (core : Nat) : ∃ dies, s.addTile e tids kind mode reads writes leave core =
      { s with nextId := s.nextId + 1, tiles := s.tiles ++ [s.newTile e tids kind mode reads writes leave core], dies } := by
  unfold State.addTile
  dsimp only
  split
  · exact ⟨_, rfl⟩
  · exact ⟨s.dies, rfl⟩

theorem State.wg?_setCv (s : State) {wg : Nat} {w : Workgroup} (h : s.wg? wg = some w) (n : Nat) (c : Cv) :
    (s.setCv wg n c).wg? wg = some { w with cvs := listPut ⟨0, 0, none, []⟩ w.cvs n c } := by
  have hx := s.wg?_modWg wg wg (fun w => { w with cvs := listPut ⟨0, 0, none, []⟩ w.cvs n c }) (fun _ => rfl)
  rw [if_pos rfl, h] at hx
  exact hx

theorem Workgroup.cv_put (w : Workgroup) (n m : Nat) (c : Cv) :
    ({ w with cvs := listPut ⟨0, 0, none, []⟩ w.cvs n c } : Workgroup).cv m = if m = n then c else w.cv m :=
  listGet_listPut ..

/-! Signing. -/

section
variable {s : State} {e : Env} {g : Guard} {f : FT} {i : Instr}

/-- The signature of a thread. -/
def State.sigOf (s : State) (e : Env) (f : FT) (mmac : Bool) (c : Cv) (t : Nat) : CvSig :=
  ⟨(c.rank t).getD 0, t, (s.thread e.w.id t).frag f.b (if mmac then 0 else fragRegs (slotFmt (slotA e.l (cvFields mmac f)))),
    (s.thread e.w.id t).frag f.c (fragRegs (slotFmt (slotB e.l (cvFields mmac f))))⟩

/-- The register once some threads have signed. -/
def State.signedCv (s : State) (e : Env) (g : Guard) (f : FT) (mmac : Bool) : Cv :=
  let c := e.w.cv (f.a.toNat % 16)
  { c with
    fields := if (s.lanes e g).isEmpty then c.fields else some (cvFields mmac f)
    sigs := c.sigs ++ ((s.lanes e g).filter (fun t => !c.signed t)).map (s.sigOf e f mmac c) }

/-- The last signature has come. -/
def State.signsLast (s : State) (e : Env) (g : Guard) (f : FT) (mmac : Bool) : Bool :=
  !(s.lanes e g).isEmpty && (s.signedCv e g f mmac).full e.w.threads

/-- The signatures are recorded; the last one issues the operation and opens a new round. -/
def State.recordSigs (u s : State) (e : Env) (g : Guard) (f : FT) (mmac : Bool) : State :=
  let c := e.w.cv (f.a.toNat % 16)
  let x := cvFields mmac f
  let c' := s.signedCv e g f mmac
  if s.signsLast e g f mmac then
    (u.setCv e.w.id (f.a.toNat % 16) ⟨c.count, c.first, none, []⟩).addTile e (c'.sigs.map (·.tid))
      (.step x c.count c.first c'.sigs (scaleBases e.l e.w x c.count c.first)) f.mode (destTiles x c.count ++ sourceTiles x c.count)
      (destTiles x c.count) (c.count == 128) e.w.home
  else u.setCv e.w.id (f.a.toNat % 16) c'

/-- The threads that sign now, and those that have signed. -/
def State.newSigners (s : State) (e : Env) (g : Guard) (c : Cv) : List Nat := (s.lanes e g).filter (fun t => !c.signed t)
def State.oldSigners (s : State) (e : Env) (g : Guard) (c : Cv) : List Nat := (s.lanes e g).filter c.signed

theorem Issuable.signOp {mmac : Bool} (h : Issuable s e g i) (hd : e.g.drawn = true)
    (ht : signTrap e (s.lanes e g) (e.w.cv (f.a.toNat % 16)) (cvFields mmac f) = none) : signOp g f mmac i s =
      (((s.countTl e (s.newSigners e g (e.w.cv (f.a.toNat % 16)))).recordSigs s e g f mmac).fileFrom e
        ((s.countTl e (s.newSigners e g (e.w.cv (f.a.toNat % 16)))).iaddr e) (s.oldSigners e g (e.w.cv (f.a.toNat % 16)))).doneDrawn
        (e.without (s.oldSigners e g (e.w.cv (f.a.toNat % 16)))) := by
  unfold Machine.signOp
  rw [h.issue]
  simp only [hd, Bool.not_true, Bool.false_eq_true, if_false, ht]
  rfl

theorem Issuable.signOp_trap {mmac : Bool} {code daddr : Nat} (h : Issuable s e g i) (hd : e.g.drawn = true)
    (ht : signTrap e (s.lanes e g) (e.w.cv (f.a.toNat % 16)) (cvFields mmac f) = some (code, daddr)) :
    Machine.signOp g f mmac i s = .next (s.takeTrap e { code, daddr }) := by
  unfold Machine.signOp
  rw [h.issue]
  simp only [hd, Bool.not_true, Bool.false_eq_true, if_false, ht]

/-- What the record of the signatures changes. -/
theorem State.recordSigs_only (u s : State) (e : Env) (g : Guard) (f : FT) (mmac : Bool) (hw : u.wg? e.w.id = some e.w) :
    (∃ nextId dies tiles wgs, u.recordSigs s e g f mmac = { u with nextId, dies, tiles, wgs }) ∧
    (∃ w, (u.recordSigs s e g f mmac).wg? e.w.id = some w ∧
      w.cv (f.a.toNat % 16) = (if s.signsLast e g f mmac then
        ⟨(e.w.cv (f.a.toNat % 16)).count, (e.w.cv (f.a.toNat % 16)).first, none, []⟩ else s.signedCv e g f mmac) ∧
      (∀ m, m ≠ f.a.toNat % 16 → w.cv m = e.w.cv m) ∧ w.acc = e.w.acc ∧ w.sregs = e.w.sregs) ∧
    (s.signsLast e g f mmac = false → (u.recordSigs s e g f mmac).tiles = u.tiles) ∧
    (s.signsLast e g f mmac = true → ∃ o, (u.recordSigs s e g f mmac).tiles = u.tiles ++ [o] ∧ o.wg = e.w.id ∧
      o.tids = (s.signedCv e g f mmac).sigs.map (·.tid) ∧ o.mode = f.mode ∧
      o.kind = .step (cvFields mmac f) (e.w.cv (f.a.toNat % 16)).count (e.w.cv (f.a.toNat % 16)).first (s.signedCv e g f mmac).sigs
        (scaleBases e.l e.w (cvFields mmac f) (e.w.cv (f.a.toNat % 16)).count (e.w.cv (f.a.toNat % 16)).first) ∧
      o.writes = destTiles (cvFields mmac f) (e.w.cv (f.a.toNat % 16)).count ∧
      o.reads = destTiles (cvFields mmac f) (e.w.cv (f.a.toNat % 16)).count ++ sourceTiles (cvFields mmac f) (e.w.cv (f.a.toNat % 16)).count ∧
      o.leave = ((e.w.cv (f.a.toNat % 16)).count == 128)) := by
  have put (c : Cv) : ∃ w, (u.setCv e.w.id (f.a.toNat % 16) c).wg? e.w.id = some w ∧ w.cv (f.a.toNat % 16) = c ∧
      (∀ m, m ≠ f.a.toNat % 16 → w.cv m = e.w.cv m) ∧ w.acc = e.w.acc ∧ w.sregs = e.w.sregs :=
    ⟨_, u.wg?_setCv hw _ c, (Workgroup.cv_put ..).trans (if_pos rfl), fun m hm => (Workgroup.cv_put ..).trans (if_neg hm), rfl, rfl⟩
  unfold State.recordSigs
  dsimp only
  cases hlast : s.signsLast e g f mmac with
  | false =>
    simp only [Bool.false_eq_true, if_false]
    exact ⟨⟨_, _, _, _, rfl⟩, put _, fun _ => rfl, fun h => absurd h (by simp)⟩
  | true =>
    simp only [if_true]
    obtain ⟨dies, ha⟩ := (u.setCv e.w.id (f.a.toNat % 16) ⟨(e.w.cv (f.a.toNat % 16)).count, (e.w.cv (f.a.toNat % 16)).first, none, []⟩).addTile_eq e
      ((s.signedCv e g f mmac).sigs.map (·.tid))
      (.step (cvFields mmac f) (e.w.cv (f.a.toNat % 16)).count (e.w.cv (f.a.toNat % 16)).first (s.signedCv e g f mmac).sigs
        (scaleBases e.l e.w (cvFields mmac f) (e.w.cv (f.a.toNat % 16)).count (e.w.cv (f.a.toNat % 16)).first)) f.mode
      (destTiles (cvFields mmac f) (e.w.cv (f.a.toNat % 16)).count ++ sourceTiles (cvFields mmac f) (e.w.cv (f.a.toNat % 16)).count)
      (destTiles (cvFields mmac f) (e.w.cv (f.a.toNat % 16)).count) ((e.w.cv (f.a.toNat % 16)).count == 128) e.w.home
    rw [ha]
    refine ⟨⟨_, dies, _, _, rfl⟩, put _, fun h => absurd h (by simp), fun _ => ⟨_, rfl, rfl, rfl, rfl, rfl, rfl, rfl, rfl⟩⟩

theorem State.countTl_only (s : State) (e : Env) (ts : List Nat) :
    s.countTl e ts = { s with threads := (s.modThreads e.w.id ts (fun t => { t with tl := t.tl + 1 })).threads } :=
  s.modThreads_eq ..

/-- The threads after a signing: the new signers count one more, those that have signed are filed, and all but these move on. -/
theorem threadsBecome_signed {u : State} (c : Cv) (hu : u.threads = (s.countTl e (s.newSigners e g c)).threads) (pc : VA)
    {t : State} (ht : (u.fileFrom e pc (s.oldSigners e g c)).doneDrawn (e.without (s.oldSigners e g c)) = .next t) :
    ThreadsBecome s t e (fun n x => if n ∈ s.newSigners e g c then ({ x with tl := x.tl + 1 }).next
      else if n ∈ s.lanes e g then { x with status := .filed } else x.next) := by
  have hsub (n : Nat) (hn : n ∈ s.oldSigners e g c ∨ n ∈ s.newSigners e g c) : n ∈ e.g.members :=
    State.lanes_sub (hn.elim (fun h => (List.mem_filter.1 h).1) (fun h => (List.mem_filter.1 h).1))
  have ht' : t = (((u.fileFrom e pc (s.oldSigners e g c)).advance (e.without (s.oldSigners e g c))).modGroup e.g.id
      (fun g => { g with drawn := false })).progress := by
    injection ht with heq
    exact heq.symm
  have hthread (wg n : Nat) : t.thread wg n = ((u.fileFrom e pc (s.oldSigners e g c)).modThreads e.w.id
      (e.g.members.filter (fun t => !(s.oldSigners e g c).contains t)) Thread.next).thread wg n := by
    rw [ht']
    rfl
  have hcount (n : Nat) : (u.thread e.w.id n) = if n ∈ s.newSigners e g c then { s.thread e.w.id n with tl := (s.thread e.w.id n).tl + 1 }
      else s.thread e.w.id n := by
    rw [State.thread_congr hu]
    exact s.thread_modThreads ..
  refine ⟨fun n hn => ?_, fun wg n hn => ?_⟩
  · rw [hthread, State.thread_modThreads, State.thread_fileFrom, State.thread_modThreads, hcount]
    by_cases hl : n ∈ s.lanes e g
    · cases hs : c.signed n with
      | true =>
        have hold : n ∈ s.oldSigners e g c := List.mem_filter.2 ⟨hl, hs⟩
        have hnew : n ∉ s.newSigners e g c := fun h => by
          have := (List.mem_filter.1 h).2
          rw [hs] at this
          cases this
        rw [if_neg (fun h => by simp [hold] at h), if_pos hold, if_neg hnew]
        exact ((if_neg hnew).trans (if_pos hl)).symm
      | false =>
        have hold : n ∉ s.oldSigners e g c := fun h => by
          have := (List.mem_filter.1 h).2
          rw [hs] at this
          cases this
        have hnew : n ∈ s.newSigners e g c := List.mem_filter.2 ⟨hl, by rw [hs]; rfl⟩
        rw [if_pos (List.mem_filter.2 ⟨hn, by simp [hold]⟩), if_neg hold, if_pos hnew]
        exact (if_pos hnew).symm
    · have hold : n ∉ s.oldSigners e g c := fun h => hl (List.mem_filter.1 h).1
      have hnew : n ∉ s.newSigners e g c := fun h => hl (List.mem_filter.1 h).1
      rw [if_pos (List.mem_filter.2 ⟨hn, by simp [hold]⟩), if_neg hold, if_neg hnew]
      exact ((if_neg hnew).trans (if_neg hl)).symm
  · rw [hthread, State.thread_modThreads_other _ _ _ _ _ _ (fun v hv => hn v (List.mem_filter.1 hv).1), State.thread_fileFrom,
      State.thread_modThreads_other _ _ _ _ _ _ (fun v hv => hn v (hsub v (.inl hv))), State.thread_congr hu]
    exact s.thread_modThreads_other _ _ _ _ _ (fun v hv => hn v (hsub v (.inr hv)))

end

/-! What a signing raises. -/

section
variable {e : Env} {ts : List Nat} {c : Cv} {f : CvFields}

theorem signTrap_of_tiles (h : ∃ t ∈ destTiles f c.count ++ sourceTiles f c.count, e.l.acc ≤ t) : signTrap e ts c f = some (0x04, 0) := by
  obtain ⟨t, ht, hle⟩ := h
  exact if_pos (List.any_eq_true.2 ⟨t, ht, decide_eq_true hle⟩)

/-- The tiles of a signing are there. -/
theorem tiles_here (h : ∀ t ∈ destTiles f c.count ++ sourceTiles f c.count, t < e.l.acc) :
    (destTiles f c.count ++ sourceTiles f c.count).any (fun t => e.l.acc ≤ t) = false :=
  List.any_eq_false.2 (fun t ht => by simpa using h t ht)

theorem signTrap_of_slots (h : ∀ t ∈ destTiles f c.count ++ sourceTiles f c.count, t < e.l.acc) (hs : slotsServe e.l f = false) :
    signTrap e ts c f = some (0x10, 0) := by
  unfold signTrap
  rw [tiles_here h, hs]
  rfl

theorem signTrap_of_none (h : ∀ t ∈ destTiles f c.count ++ sourceTiles f c.count, t < e.l.acc) (hs : slotsServe e.l f = true) (ht : ts = []) :
    signTrap e ts c f = none := by
  unfold signTrap
  rw [tiles_here h, hs, ht]
  rfl

theorem cvOver_of {tid : Nat} (h : c.count = 0 ∨ c.rank tid = none ∨ (f.mode ≠ 0 ∧ c.count ≠ 128) ∨ (c.fields ≠ none ∧ c.fields ≠ some f)) :
    cvOver c f tid = true := by
  unfold cvOver
  rcases h with h | h | ⟨hm, hc⟩ | ⟨hn, hf⟩
  · simp [h]
  · simp [h]
  · have hb : ¬ f.mode = 0#2 := hm
    simp [hb, hc]
  · obtain ⟨x, hx⟩ := Option.ne_none_iff_exists'.1 hn
    rw [hx]
    have hne : x ≠ f := fun heq => hf (hx.trans (congrArg some heq))
    simp [hne]

theorem signTrap_of_over (h : ∀ t ∈ destTiles f c.count ++ sourceTiles f c.count, t < e.l.acc) (hs : slotsServe e.l f = true)
    (ho : ∃ t ∈ ts, cvOver c f t = true) : signTrap e ts c f = some (0x12, 0) := by
  obtain ⟨t, ht, hover⟩ := ho
  have hne : ts.isEmpty = false := by
    cases ts with
    | nil => cases ht
    | cons _ _ => rfl
  have hany : ts.any (cvOver c f) = true := List.any_eq_true.2 ⟨t, ht, hover⟩
  unfold signTrap
  rw [tiles_here h, hs, hne, hany]
  rfl

/-- The scale entries of a sub-array: out of the scratchpad, not aligned, or neither. -/
theorem scaleTrap_cases (l : Launch) (x : Code) (base : Nat) (h : slotScale x ≠ 0) :
    (l.spad < base + scaleUnit x * 32 * scaleRow x → ∃ a, base ≤ a ∧ scaleTrap l x base = some (0x20, a)) ∧
    (base + scaleUnit x * 32 * scaleRow x ≤ l.spad → base % scaleUnit x ≠ 0 → scaleTrap l x base = some (0x24, base)) ∧
    (base + scaleUnit x * 32 * scaleRow x ≤ l.spad → base % scaleUnit x = 0 → scaleTrap l x base = none) := by
  have h0 : (slotScale x == 0) = false := beq_eq_false_iff_ne.2 h
  unfold scaleTrap
  rw [h0, if_neg Bool.false_ne_true]
  refine ⟨fun hout => ⟨_, Nat.le_add_right _ _, if_pos hout⟩, fun hin hal => ?_, fun hin hal => ?_⟩
  · rw [if_neg (Nat.not_lt.2 hin), if_pos (by simpa using hal)]
  · rw [if_neg (Nat.not_lt.2 hin), if_neg (by simpa using hal)]

end

/-! `cvset`. -/

section
variable {s : State} {e : Env} {g : Guard} {f : FT}

/-- What `cvset` does where an active thread's guard holds. -/
theorem Issuable.cvset (h : Issuable s e g (.cvset g f)) (l : s.someLane e g) : exec (.cvset g f) s =
    if 32 * e.w.groups < f.b.toNat * 32 + cvCount f then .next (s.takeTrap e { code := 0x12 })
    else if (e.w.cv (f.a.toNat % 16)).count == cvCount f && (e.w.cv (f.a.toNat % 16)).first == f.b.toNat then s.done e
    else if !(e.w.cv (f.a.toNat % 16)).sigs.isEmpty then .next (s.takeTrap e { code := 0x12 })
    else (s.setCv e.w.id (f.a.toNat % 16) ⟨cvCount f, f.b.toNat, none, []⟩).done e := by
  show execCvset g f s = _
  unfold execCvset
  rw [h.groupOp l]

/-- A round of other threads. -/
theorem cv_other {c : Cv} {count first : Nat} (h : ¬ (c.count = count ∧ c.first = first)) : ¬ (c.count == count && c.first == first) = true := by
  simpa using h

end

end Sys2Proof.Machine

namespace Sys2Proof
open Sys2Proof.Machine

/-- Settles O19: the record of the signatures, the operation that the last one issues, and the order of a signing's conditions. -/
theorem signing : Obligations.Signing := by
  unfold Obligations.Signing
  refine ⟨?sign, ⟨?trap, ?conditions⟩, ?cvset⟩
  case sign =>
    intro g f mmac i s e hi h hd n c x signers new sig c' all htrap
    have hx : exec i s = signOp g f mmac i s := by
      rcases hi with ⟨rfl, rfl⟩ | ⟨rfl, rfl⟩ <;> rfl
    have hc' : c' = s.signedCv e g f mmac := by
      show ({ c with fields := _, sigs := _ } : Cv) = _
      unfold State.signedCv
      simp only [List.isEmpty_iff]
      rfl
    have hall : all = s.signsLast e g f mmac := by
      show (decide (signers ≠ []) && c'.full e.w.threads) = (!signers.isEmpty && (s.signedCv e g f mmac).full e.w.threads)
      rw [hc']
      cases signers <;> rfl
    have hw : (s.countTl e (s.newSigners e g c)).wg? e.w.id = some e.w := by
      rw [State.countTl_only]
      exact State.wg?_of_issuer h.issuer
    obtain ⟨⟨nextId, dies, tiles, wgs, hrec⟩, ⟨w, hwg, hcv, hother, hacc, hsregs⟩, hnone, hlast⟩ :=
      (s.countTl e (s.newSigners e g c)).recordSigs_only s e g f mmac hw
    obtain ⟨groups, bins, nextId', hfile⟩ := ((s.countTl e (s.newSigners e g c)).recordSigs s e g f mmac).fileFrom_eq e
      ((s.countTl e (s.newSigners e g c)).iaddr e) (s.oldSigners e g c)
    have htiles : (s.countTl e (s.newSigners e g c)).tiles = s.tiles := State.modThreads_tiles ..
    rw [hx, h.signOp hd htrap, hall, hc']
    refine ⟨_, rfl, ?_, ?_, ⟨w, ?_, hcv, hother, hacc, hsregs⟩, fun hno => ?_, fun hyes => ?_, threadsBecome_signed c ?_ _ rfl⟩
    · refine sameMemory_iod ((State.modThreads_mem ..).trans ?_) ((State.modThreads_iod ..).trans ?_)
      · rw [hfile]
        refine (State.modThreads_mem ..).trans ?_
        rw [hrec]
        exact State.modThreads_mem ..
      · rw [hfile]
        refine (State.modThreads_iod ..).trans ?_
        rw [hrec]
        exact State.modThreads_iod ..
    · refine (State.modThreads_flights ..).trans ?_
      rw [hfile]
      refine (State.modThreads_flights ..).trans ?_
      rw [hrec]
      exact State.modThreads_flights ..
    · refine (State.wg?_congr ?_ _).trans hwg
      refine (State.modThreads_wgs ..).trans ?_
      rw [hfile]
      exact State.modThreads_wgs ..
    · refine (State.modThreads_tiles ..).trans ?_
      rw [hfile]
      exact (State.modThreads_tiles ..).trans ((hnone hno).trans htiles)
    · obtain ⟨o, ho, hkeep⟩ := hlast hyes
      refine ⟨o, ?_, hkeep⟩
      refine (State.modThreads_tiles ..).trans ?_
      rw [hfile]
      exact (State.modThreads_tiles ..).trans (ho.trans (by rw [htiles]))
    · rw [hrec]
  case trap =>
    intro g f mmac i s e code daddr hi h hd ht
    have hx : exec i s = signOp g f mmac i s := by
      rcases hi with ⟨rfl, rfl⟩ | ⟨rfl, rfl⟩ <;> rfl
    rw [hx]
    exact h.signOp_trap hd ht
  case conditions =>
    intro e ts c f tiles
    refine ⟨signTrap_of_tiles, signTrap_of_slots, signTrap_of_none, fun ht hs ⟨t, hmem, ho⟩ => signTrap_of_over ht hs ⟨t, hmem, cvOver_of ho⟩,
      fun l x base hx => scaleTrap_cases l x base hx⟩
  case cvset =>
    intro g f s e h l n c count first
    rw [h.cvset l]
    refine ⟨fun hout => if_pos hout, fun hin hc hf => ?_, fun hin hne hsigs => ?_, fun hin hne hsigs => ?_⟩
    · rw [if_neg (Nat.not_lt.2 hin), if_pos (by simp [c, n, count, first] at hc hf; simp [hc, hf])]
      rfl
    · rw [if_neg (Nat.not_lt.2 hin), if_neg (cv_other hne), if_pos (by simpa using hsigs)]
    · rw [if_neg (Nat.not_lt.2 hin), if_neg (cv_other hne), if_neg (by simpa using hsigs)]
      refine ⟨_, rfl, sameMemory_iod (State.modThreads_mem ..) (State.modThreads_iod ..), threadsBecome_next (by rfl), _,
        (State.wg?_congr (State.modThreads_wgs ..) _).trans (s.wg?_setCv (State.wg?_of_issuer h.issuer) _ _), ?_, fun m hm => ?_, rfl, rfl⟩
      · exact (Workgroup.cv_put ..).trans (if_pos rfl)
      · exact (Workgroup.cv_put ..).trans (if_neg hm)

end Sys2Proof
end

section
/-! Tile instructions issue (spec 06, R155 to R160). -/

namespace Sys2Proof.Machine

/-- The state after a tile instruction of a group has issued, in the state `m` that the pager made of `s`. -/
def TileIssued (s m t : State) (e : Env) (g : Guard) (kind : TileKind) (mode : BitVec 2) (reads writes : List Nat) : Prop :=
  (∃ o : TileOp, t.tiles = s.tiles ++ [o] ∧ o.wg = e.w.id ∧ o.tids = s.lanes e g ∧ o.kind = kind ∧ o.mode = mode ∧
    o.reads = reads ∧ o.writes = writes ∧ o.leave = false) ∧
  SameMemory m t ∧ t.wgs = s.wgs ∧ t.flights = s.flights ∧
  ThreadsBecome s t e (fun n x => if n ∈ s.lanes e g then ({ x with tl := x.tl + 1 }).next else x.next)

/-- A tile operation that is added in a state with the records of `s`. -/
theorem tileIssued_addTile {s m u : State} {e : Env} {g : Guard} (hu : u.tiles = s.tiles ∧ u.wgs = s.wgs ∧ u.flights = s.flights ∧ u.threads = s.threads)
    (hm : SameMemory m u) (kind : TileKind) (mode : BitVec 2) (reads writes : List Nat) (core : Nat) :
    Out.Leads (((u.addTile e (s.lanes e g) kind mode reads writes false core).countTl e (s.lanes e g)).done e)
      (fun t => TileIssued s m t e g kind mode reads writes) := by
  obtain ⟨htiles, hwgs, hflights, hthreads⟩ := hu
  obtain ⟨dies, ha⟩ := u.addTile_eq e (s.lanes e g) kind mode reads writes false core
  generalize u.addTile e (s.lanes e g) kind mode reads writes false core = v at ha ⊢
  have hvt : v.threads = s.threads := by rw [ha]; exact hthreads
  refine ⟨_, rfl, ⟨u.newTile e (s.lanes e g) kind mode reads writes false core, ?_, rfl, rfl, rfl, rfl, rfl, rfl, rfl⟩, hm.trans ?_, ?_, ?_,
    fun n hn => ?_, fun wg n hn => ?_⟩
  · refine (State.modThreads_tiles ..).trans ((State.modThreads_tiles ..).trans ?_)
    rw [ha, htiles]
  · refine sameMemory_iod ((State.modThreads_mem ..).trans ((State.modThreads_mem ..).trans ?_))
      ((State.modThreads_iod ..).trans ((State.modThreads_iod ..).trans ?_)) <;> rw [ha]
  · refine (State.modThreads_wgs ..).trans ((State.modThreads_wgs ..).trans ?_)
    rw [ha]
    exact hwgs
  · refine (State.modThreads_flights ..).trans ((State.modThreads_flights ..).trans ?_)
    rw [ha]
    exact hflights
  · rw [State.thread_progress, State.thread_advance _ _ _ hn]
    refine (congrArg Thread.next (v.thread_modThreads ..)).trans ?_
    rw [State.thread_congr hvt]
    dsimp only
    split
    · rfl
    · rfl
  · rw [State.thread_progress, State.thread_advance_other _ _ _ _ hn]
    exact (v.thread_modThreads_other _ _ _ wg n (fun x hx => hn x (State.lanes_sub hx))).trans (State.thread_congr hvt ..)

section
variable {s : State} {e : Env} {g : Guard}

theorem Issuable.accz {f : FT} (h : Issuable s e g (.accz g f)) (l : s.someLane e g) : exec (.accz g f) s =
    ((s.addTile e (s.lanes e g) .zero f.mode [] (tilesFrom (f.d.toNat % 16) (shapeTiles f.mode)) false e.w.home).countTl e (s.lanes e g)).done e := by
  show execAccz g f s = _
  unfold execAccz
  rw [h.groupOp l]

theorem Issuable.mproj {f : FT} (h : Issuable s e g (.mproj g f)) (l : s.someLane e g) : exec (.mproj g f) s =
    if !s.tilesWritten e.w.id (tilesFrom (f.d.toNat % 16) (shapeTiles f.mode)) then .next (s.hold e)
    else ((s.addTile e (s.lanes e g) (.proj (f.d.toNat % 16) ((s.thread e.w.id e.g.leader).v f.c) (f.cl.getLsbD 0) f.mode) f.mode
      (tilesFrom (f.d.toNat % 16) (shapeTiles f.mode)) [f.b.toNat % 16] false e.w.home).countTl e (s.lanes e g)).done e := by
  show execMproj g f s = _
  unfold execMproj
  rw [h.groupOp l]

/-! Transfers. -/

/-- The tiles of a transfer, its place, and the pages that it touches. -/
def moveTiles (f : FTM) : List Nat := tilesFrom (f.d.toNat % 16) (shapeTiles (f.cl.extractLsb' 0 2))
def moveLoc (w : Option Workgroup) (va : Nat) : Loc := match w with | some w => .spad w.id va | none => .va va
def movePages (w : Option Workgroup) (va : Nat) (c : Cond) : List (Workgroup × Nat) :=
  match w with | some w => (pagesOf va (4 * c.elems.length)).map (fun p => (w, p)) | none => []
def moveKind (a : Access) (loc : Loc) (keys : List Nat) (num : Word) : TileKind :=
  if a == .read then .load loc keys else .store loc keys (some num.toNat)

/-- A transfer marks the launch where it writes memory outside greenware pages. -/
def State.moveActs (p : State) (e : Env) (a : Access) (c : Cond) : State :=
  if a == .write && c.elems.any (fun x => keySpad > x.key && !x.green) then
    (p.modGroup e.g.id (fun g => { g with paged := false })).acts e
  else p.modGroup e.g.id (fun g => { g with paged := false })

theorem Issuable.tileMove_hold {f : FTM} {i : Instr} (h : Issuable s e g i) (l : s.someLane e g) (hw : s.tilesWritten e.w.id (moveTiles f) = false) :
    tileMove g f i .write s = .next (s.hold e) := by
  unfold tileMove
  rw [h.groupOp l]
  rw [moveTiles] at hw
  simp only [hw]
  rfl

/-- A transfer that meets no condition, its pages resident. -/
theorem Issuable.tileMove {f : FTM} {i : Instr} {a : Access} {va : Nat} {w : Option Workgroup} {c : Cond} {p : State} (h : Issuable s e g i)
    (l : s.someLane e g) (hw : (a == .write && !s.tilesWritten e.w.id (moveTiles f)) = false) (hc : c.clear)
    (ht : s.tileConds e f a (verNum e.l (s.thread e.w.id e.g.leader).sub) = (va, w, c)) (hp : s.touchPages (a == .write) (movePages w va c) = .ready p) :
    Machine.tileMove g f i a s = (((p.moveActs e a c).addTile e (s.lanes e g)
      (moveKind a (moveLoc w va) (c.elems.map (·.key)) (verNum e.l (s.thread e.w.id e.g.leader).sub)) (f.cl.extractLsb' 0 2)
      (if a == .read then [] else moveTiles f) (if a == .read then moveTiles f else []) false e.w.home).countTl e (s.lanes e g)).done e := by
  have hworst : worst [(0, c)] = none := worst_of_clear hc.1 0
  have hparks := parks_of_clear hc
  have habsent : c.absent = none := hc.2.2.2
  unfold Machine.tileMove
  rw [h.groupOp l]
  rw [moveTiles] at hw
  cases w with
  | none =>
    rw [show movePages none va c = [] from rfl] at hp
    simp only [hw, ht, hworst, habsent, hparks, hp, Bool.false_eq_true, if_false]
    rfl
  | some w =>
    rw [show movePages (some w) va c = (pagesOf va (4 * c.elems.length)).map (fun p => (w, p)) from rfl] at hp
    simp only [hw, ht, hworst, habsent, hparks, hp, Bool.false_eq_true, if_false]
    rfl

theorem State.moveActs_only (p : State) (e : Env) (a : Access) (c : Cond) : ∃ groups launches, p.moveActs e a c = { p with groups, launches } := by
  unfold State.moveActs
  split
  · exact ⟨_, _, rfl⟩
  · exact ⟨_, p.launches, rfl⟩

/-- A transfer issues in the state that the pager left. -/
theorem tileIssued_move {a : Access} {p : State} {write : Bool} {ps : List (Workgroup × Nat)} (hp : s.touchPages write ps = .ready p) (c : Cond)
    (kind : TileKind) (mode : BitVec 2) (reads writes : List Nat) :
    Out.Leads ((((p.moveActs e a c).addTile e (s.lanes e g) kind mode reads writes false e.w.home).countTl e (s.lanes e g)).done e)
      (fun t => TileIssued s p t e g kind mode reads writes) := by
  obtain ⟨⟨_, _, _, _, hpeq⟩, -⟩ := State.touchPages_paged hp
  obtain ⟨groups, launches, hm⟩ := p.moveActs_only e a c
  rw [hm]
  exact tileIssued_addTile (by rw [hpeq]; exact ⟨rfl, rfl, rfl, rfl⟩) (sameMemory_iod rfl rfl) ..

end

end Sys2Proof.Machine

namespace Sys2Proof
open Sys2Proof.Machine

/-- Settles O20: each instruction is `addTile` of its own operation. -/
theorem tileInstructionsIssue : Obligations.TileInstructionsIssue := by
  unfold Obligations.TileInstructionsIssue
  refine ⟨fun g f s e l => ⟨fun h => ?accz, fun h hw => ?mproj, fun h hw => ?held⟩, fun g f s e l h hw => h.tileMove_hold l hw, ?move⟩
  case accz =>
    rw [h.accz l]
    exact tileIssued_addTile ⟨rfl, rfl, rfl, rfl⟩ (.refl s) ..
  case mproj =>
    rw [h.mproj l, hw]
    exact tileIssued_addTile ⟨rfl, rfl, rfl, rfl⟩ (.refl s) ..
  case held =>
    rw [h.mproj l, hw]
    rfl
  case move =>
    intro g f s e va w c p l num mode d loc pages hc
    refine ⟨fun h ht hp => ?_, fun h hw ht hp => ?_⟩
    · rw [show exec (.accld g f) s = _ from h.tileMove l (a := .read) rfl hc ht hp]
      exact tileIssued_move hp ..
    · rw [show exec (.accst g f) s = _ from h.tileMove l (a := .write) (by rw [show s.tilesWritten e.w.id (moveTiles f) = true from hw]; rfl) hc ht hp]
      exact tileIssued_move hp ..

end Sys2Proof
end

section
/-! Writes at a home, and what a version holds (spec 07, R164; 15, R345). -/

namespace Sys2Proof.Machine

/-! A word's bytes. -/

theorem listGet_natLe (n x : Nat) {j : Nat} (h : j < n) : listGet 0 (natLe n x) j = BitVec.ofNat 8 (x / 256 ^ j) := by
  induction n generalizing x j with
  | zero => cases h
  | succ n ih =>
    cases j with
    | zero => simp [natLe, listGet]
    | succ j => rw [natLe, listGet, ih _ (Nat.lt_of_succ_lt_succ h), Nat.div_div_eq_div_mul, ← Nat.pow_succ']

theorem byte_of_word (x : Word) (j : Nat) : BitVec.ofNat 8 (x.toNat / 256 ^ j) = x.extractLsb' (8 * j) 8 := by
  refine BitVec.eq_of_toNat_eq ?_
  rw [BitVec.toNat_ofNat, BitVec.extractLsb'_toNat, Nat.shiftRight_eq_div_pow, Nat.pow_mul]

/-- A word's bytes written at their homes read as its bytes. -/
theorem State.homeByte_homePut_word (s : State) (k n : Nat) (x : Word) {j : Nat} (h : j < n) :
    (s.homePut k (natLe n x.toNat)).homeByte (k + j) = x.extractLsb' (8 * j) 8 := by
  rw [State.homeByte_homePut, natLe_length, if_pos (by omega), Nat.add_sub_cancel_left, listGet_natLe _ _ h, byte_of_word]

theorem State.soil_eq (s : State) (k : Nat) : ∃ stt, s.soil k = { s with stt } := by
  unfold State.soil
  split
  · exact ⟨s.stt, rfl⟩
  · exact ⟨_, rfl⟩

/-- A byte outside a range is as it was before some bytes were put there. -/
theorem State.homePut_outside (s : State) {k j : Nat} {bs : List Byte} (h : ¬ (k ≤ j ∧ j < k + bs.length)) :
    (s.homePut k bs).homeByte j = s.homeByte j ∧ memGet (s.homePut k bs).mem j = memGet s.mem j :=
  ⟨by rw [State.homeByte_homePut, if_neg h], s.memGet_homePut_of_not_mem bs h⟩

/-! What versions hold. -/

/-- A version's name, number and words. -/
def Version.verWords (v : Version) : Nat × Nat × Word × Tab Word := (v.id, v.world, v.num, v.words)
def State.verWords (s : State) : List (Nat × Nat × Word × Tab Word) := s.versions.map Version.verWords

theorem State.holdsWord_iff {s : State} {world : Nat} {num : Word} {word : Nat} {x : Word} :
    s.holdsWord world num word x ↔ ∃ h ∈ s.verWords, h.2.1 = world ∧ h.2.2.1 = num ∧ assoc word h.2.2.2 = some x := by
  constructor
  · rintro ⟨v, hv, hw, hn, hx⟩
    exact ⟨v.verWords, List.mem_map_of_mem hv, hw, hn, hx⟩
  · rintro ⟨h, hh, hw, hn, hx⟩
    obtain ⟨v, hv, rfl⟩ := List.mem_map.1 hh
    exact ⟨v, hv, hw, hn, hx⟩

theorem map_verWords_mapIf (p : Version → Bool) (f : Version → Version) (hf : ∀ v, (f v).verWords = v.verWords) (l : List Version) :
    (mapIf p f l).map Version.verWords = l.map Version.verWords := by
  rw [mapIf, List.map_map]
  refine List.map_congr_left (fun v _ => ?_)
  show (if p v = true then f v else v).verWords = v.verWords
  split
  · exact hf v
  · rfl

theorem State.verWords_link (s : State) (v u : Version) : (s.link v u).verWords = s.verWords := by
  unfold State.link
  split
  · rfl
  · dsimp only
    split
    · refine map_verWords_mapIf _ _ (fun _ => ?_) _
      rfl
    · refine map_verWords_mapIf _ _ (fun _ => ?_) _
      rfl

theorem State.verWords_linkIds (s : State) (v u : Nat) : (s.linkIds v u).verWords = s.verWords := by
  unfold State.linkIds
  split
  · exact State.verWords_link ..
  · rfl

theorem State.verWords_foldl {α : Type} {f : State → α → State} (hf : ∀ s x, (f s x).verWords = s.verWords) (l : List α) (s : State) :
    (l.foldl f s).verWords = s.verWords := by
  induction l generalizing s with
  | nil => rfl
  | cons x l ih => exact (ih _).trans (hf s x)

theorem State.verWords_gain (s : State) (v u : Nat) : (s.gain v u).verWords = s.verWords := by
  unfold State.gain
  split
  · split
    · rfl
    · split
      · exact State.verWords_link ..
      · dsimp only
        split
        · exact State.verWords_link ..
        · refine (State.verWords_foldl (fun s i => s.verWords_linkIds v i) _ _).trans (map_verWords_mapIf _ _ (fun _ => ?_) _)
          rfl
  · rfl

/-- A version that is opened is there, and the others hold what they did. -/
theorem State.verWords_openVersion (s : State) (l : Launch) (num : Word) :
    (∀ h ∈ s.verWords, h ∈ (s.openVersion l num).2.verWords) ∧
    ∃ h ∈ (s.openVersion l num).2.verWords, h.1 = (s.openVersion l num).1 ∧ h.2.1 = l.world ∧ h.2.2.1 = num := by
  unfold State.openVersion
  split
  next v hv =>
    have hp := List.find?_some (p := fun (v : Version) => v.world == l.world && v.num == num) hv
    rw [Bool.and_eq_true, beq_iff_eq, beq_iff_eq] at hp
    exact ⟨fun h hh => hh, v.verWords, List.mem_map_of_mem (List.mem_of_find?_eq_some hv), rfl, hp.1, hp.2⟩
  · dsimp only
    rw [State.verWords_foldl (fun s x => s.verWords_gain x _), State.verWords_foldl (fun s u => s.verWords_gain _ u)]
    have happ : ∀ (u : State) (v : Version), State.verWords { u with versions := u.versions ++ [v] } = u.verWords ++ [v.verWords] := fun u v => List.map_append
    rw [happ]
    exact ⟨fun h hh => List.mem_append_left _ hh, _, List.mem_append_right _ (List.mem_singleton.2 rfl), rfl, rfl, rfl⟩

theorem State.verWords_noteRead (s : State) (l : Launch) (num : Word) (word : Nat) : ∀ h ∈ s.verWords, h ∈ (s.noteRead l num word).verWords := by
  unfold State.noteRead
  split
  · exact fun h hh => hh
  · split
    · exact fun h hh => hh
    · dsimp only
      rw [State.verWords_gain]
      exact (s.verWords_openVersion l num).1

/-- A write into a version changes its words at that word alone. -/
theorem State.verWords_modVersion_words (s : State) (id word : Nat) (x : Word) (f : Version → Version)
    (hf : ∀ v, (f v).verWords = (v.id, v.world, v.num, assocSet word x v.words)) :
    (∀ h ∈ s.verWords, (if h.1 = id then (h.1, h.2.1, h.2.2.1, assocSet word x h.2.2.2) else h) ∈ (s.modVersion id f).verWords) := by
  intro h hh
  obtain ⟨v, hv, rfl⟩ := List.mem_map.1 hh
  refine List.mem_map.2 ⟨if v.id == id then f v else v, List.mem_map_of_mem hv, ?_⟩
  by_cases hid : v.id = id
  · rw [if_pos (beq_iff_eq.2 hid)]
    exact (hf v).trans (if_pos (c := v.verWords.1 = id) hid).symm
  · rw [if_neg (by simpa using hid)]
    exact (if_neg (c := v.verWords.1 = id) hid).symm

/-- The state in which a write's version is open. -/
def State.greenOpen (s : State) (l : Launch) (num : Word) (key size : Nat) : Nat × State :=
  (if size == 4 then s else s.noteRead l num (wordOf key)).openVersion l num

/-- Its upstream versions are noted. -/
def State.greenGains (s : State) (l : Launch) (num : Word) (key size : Nat) : State :=
  (((s.greenOpen l num key size).2.versions.filter (fun x => x.id != (s.greenOpen l num key size).1 &&
    (assoc (wordOf key) x.words).isSome)).map (·.id)).foldl (fun t u => t.gain (s.greenOpen l num key size).1 u) (s.greenOpen l num key size).2

/-- The word that a write under a number leaves. -/
def State.greenWord (s : State) (l : Launch) (key size : Nat) (data : Word) : Word :=
  mergeWord (BitVec.ofNat 32 (s.keptNat l (wordOf key) true 4)) (key % 4) size data

/-- A write into a version: its word, and its die among the writers. -/
def Version.wrote (word : Nat) (x : Word) (core : Nat) (v : Version) : Version :=
  { v with words := assocSet word x v.words, writers := v.writers ||| (1 <<< Config.dieOfCore core) }

theorem State.greenWrite_eq {s : State} {l : Launch} {num : Word} (hd : s.dropped l.world num = false) (core key size : Nat) (data : Word) :
    s.greenWrite l num core key size data = (s.greenGains l num key size).modVersion (s.greenOpen l num key size).1
      (Version.wrote (wordOf key) (s.greenWord l key size data) core) := by
  unfold State.greenWrite
  rw [hd, if_neg Bool.false_ne_true]
  rfl

theorem State.verWords_greenGains (s : State) (l : Launch) (num : Word) (key size : Nat) :
    (∀ h ∈ s.verWords, h ∈ (s.greenGains l num key size).verWords) ∧
    ∃ h ∈ (s.greenGains l num key size).verWords, h.1 = (s.greenOpen l num key size).1 ∧ h.2.1 = l.world ∧ h.2.2.1 = num := by
  unfold State.greenGains
  rw [State.verWords_foldl (fun t u => t.verWords_gain _ u)]
  have hread : ∀ h ∈ s.verWords, h ∈ (if size == 4 then s else s.noteRead l num (wordOf key)).verWords := by
    split
    · exact fun h hh => hh
    · exact s.verWords_noteRead l num _
  obtain ⟨hkept, hopen⟩ := State.verWords_openVersion (if size == 4 then s else s.noteRead l num (wordOf key)) l num
  exact ⟨fun h hh => hkept h (hread h hh), hopen⟩

/-- A write under a number leaves its word in the version of that number. -/
theorem State.holdsWord_greenWrite {s : State} {l : Launch} {num : Word} (hd : s.dropped l.world num = false) (core key size : Nat) (data : Word) :
    (s.greenWrite l num core key size data).holdsWord l.world num (wordOf key) (s.greenWord l key size data) := by
  rw [State.greenWrite_eq hd, State.holdsWord_iff]
  obtain ⟨-, h, hh, hid, hworld, hnum⟩ := s.verWords_greenGains l num key size
  have hx := (s.greenGains l num key size).verWords_modVersion_words (s.greenOpen l num key size).1 (wordOf key) (s.greenWord l key size data)
    (Version.wrote (wordOf key) (s.greenWord l key size data) core) (fun _ => rfl) h hh
  rw [if_pos hid] at hx
  exact ⟨_, hx, hworld, hnum, (assoc_assocSet ..).trans (if_pos rfl)⟩

/-- A write to one word leaves what versions hold of another. -/
theorem State.holdsWord_greenWrite_other {s : State} {l : Launch} {num : Word} (core key size : Nat) (data : Word) {world word : Nat} {num' x : Word}
    (h : s.holdsWord world num' word x) (hne : word ≠ wordOf key) : (s.greenWrite l num core key size data).holdsWord world num' word x := by
  cases hd : s.dropped l.world num with
  | true =>
    unfold State.greenWrite
    rw [hd, if_pos rfl]
    exact h
  | false =>
    rw [State.greenWrite_eq hd, State.holdsWord_iff]
    obtain ⟨y, hy, hworld, hnum, hx⟩ := State.holdsWord_iff.1 h
    have hy' := (s.greenGains l num key size).verWords_modVersion_words (s.greenOpen l num key size).1 (wordOf key) (s.greenWord l key size data)
      (Version.wrote (wordOf key) (s.greenWord l key size data) core) (fun _ => rfl) y ((s.verWords_greenGains l num key size).1 y hy)
    refine ⟨_, hy', ?_⟩
    split
    · exact ⟨hworld, hnum, (assoc_assocSet ..).trans ((if_neg hne).trans hx)⟩
    · exact ⟨hworld, hnum, hx⟩

theorem State.greenWrite_versionsOnly (s : State) (l : Launch) (num : Word) (core key size : Nat) (data : Word) :
    VersionsOnly s (s.greenWrite l num core key size data) := by
  cases hd : s.dropped l.world num with
  | true =>
    unfold State.greenWrite
    rw [hd, if_pos rfl]
    exact .refl s
  | false =>
    rw [State.greenWrite_eq hd]
    have hread : VersionsOnly s (if size == 4 then s else s.noteRead l num (wordOf key)) := by
      split
      · exact .refl s
      · exact s.noteRead_versionsOnly ..
    have hopen := hread.trans (State.openVersion_versionsOnly _ l num)
    exact (hopen.trans (.foldl (fun t u => t.gain_versionsOnly _ u) _ _)).trans ⟨_, _, rfl⟩

/-- A whole word that is merged is the word. -/
theorem mergeWord_whole (old data : Word) : mergeWord old 0 4 data = data := by
  have hm : BitVec.ofNat 32 ((2 ^ (8 * 4) - 1) * 2 ^ (8 * 0)) = BitVec.allOnes 32 := by decide
  unfold mergeWord
  dsimp only
  rw [hm, BitVec.not_allOnes, BitVec.and_zero, BitVec.zero_or, BitVec.and_allOnes]
  exact BitVec.shiftLeft_zero data

/-! A write where no injection is armed. -/

section
variable {s : State} {l : Launch} {num : Word} {core : Nat} {x : Elem}

theorem State.writeElem_spad (h : keySpad ≤ x.key) : s.writeElem l num core x = (s.homePut x.key (natLe x.size x.data.toNat)).soil x.key := by
  unfold State.writeElem
  rw [if_pos h]

theorem State.inject_none (h : s.injects = []) (die key : Nat) (data : Word) : s.inject die key data = (data, s) ∧ s.armed die key = false := by
  unfold State.inject State.armed
  rw [h]
  exact ⟨rfl, rfl⟩

theorem State.writeElem_green (hi : s.injects = []) (h : x.key < keySpad) (hg : x.green = true) :
    s.writeElem l num core x = s.greenWrite l num core x.key x.size x.data := by
  obtain ⟨hin, harm⟩ := State.inject_none hi (Config.dieOfCore core) x.key x.data
  unfold State.writeElem
  rw [if_neg (Nat.not_le.2 h)]
  simp only [hin, harm, hg, if_true]
  rfl

theorem State.writeElem_shadow (hi : s.injects = []) (h : x.key < keySpad) (hg : x.green = false) (hs : l.shadowOf ≠ none) :
    s.writeElem l num core x = s := by
  obtain ⟨hin, harm⟩ := State.inject_none hi (Config.dieOfCore core) x.key x.data
  unfold State.writeElem
  rw [if_neg (Nat.not_le.2 h)]
  simp only [hin, hg, Bool.false_eq_true, if_false, if_pos (Option.isSome_iff_ne_none.2 hs)]

theorem State.writeElem_home (hi : s.injects = []) (h : x.key < keySpad) (hg : x.green = false) (hs : l.shadowOf = none) (hf : x.fill = none) :
    s.writeElem l num core x = (s.homePut x.key (natLe x.size x.data.toNat)).refill (Config.dieOfCore core) x.key x.size x.data := by
  obtain ⟨hin, harm⟩ := State.inject_none hi (Config.dieOfCore core) x.key x.data
  unfold State.writeElem
  rw [if_neg (Nat.not_le.2 h)]
  simp only [hin, hg, Bool.false_eq_true, if_false, hs, Option.isSome_none, Elem.out, hf]

theorem State.passElem_only (xs : List Elem) : ∃ l1 nextId, s.passElem l core xs x = { s with l1, nextId } := by
  unfold State.passElem
  dsimp only
  have filled : ∃ l1 nextId, (if untracked core x.key && decide (x.size < 4) then s.fillL1 l core x.key x.green else s) = { s with l1, nextId } := by
    split
    · unfold State.fillL1
      dsimp only
      split
      · exact ⟨s.l1, s.nextId, rfl⟩
      · exact ⟨_, _, rfl⟩
    · exact ⟨s.l1, s.nextId, rfl⟩
  obtain ⟨l1, nextId, h⟩ := filled
  rw [h]
  exact ⟨_, nextId, rfl⟩

end

end Sys2Proof.Machine

end

section
/-! Tile operations perform (spec 06, R139, R147, R157, R158). -/

namespace Sys2Proof.Machine

/-! Tables set along a list. -/

theorem tabGet_foldl_keep {α : Type} {g : Tab Word → α → Tab Word} {k : Nat} {l : List α}
    (h : ∀ x ∈ l, ∀ acc, tabGet 0 k (g acc x) = tabGet 0 k acc) (acc : Tab Word) : tabGet 0 k (l.foldl g acc) = tabGet 0 k acc := by
  induction l generalizing acc with
  | nil => rfl
  | cons x l ih => exact (ih (fun y hy => h y (List.mem_cons_of_mem _ hy)) _).trans (h x List.mem_cons_self acc)

/-- Where one entry of a list sets a key and no other touches it, the table holds what that entry sets. -/
theorem tabGet_foldl_hit {α : Type} {g : Tab Word → α → Tab Word} {k : Nat} {v : Word} {l : List α} {x : α} (hx : x ∈ l)
    (hit : ∀ acc, tabGet 0 k (g acc x) = v) (h : ∀ y ∈ l, y ≠ x → ∀ acc, tabGet 0 k (g acc y) = tabGet 0 k acc) (acc : Tab Word) :
    tabGet 0 k (l.foldl g acc) = v := by
  induction l generalizing acc with
  | nil => cases hx
  | cons y l ih =>
    have hl : ∀ z ∈ l, z ≠ x → ∀ acc, tabGet 0 k (g acc z) = tabGet 0 k acc := fun z hz => h z (List.mem_cons_of_mem _ hz)
    by_cases hm : x ∈ l
    · exact ih hm hl _
    · obtain rfl := (List.mem_cons.1 hx).resolve_right hm
      exact (tabGet_foldl_keep (fun z hz => hl z hz (fun he => hm (he ▸ hz))) _).trans (hit acc)

theorem tabGet_setElem (acc : Tab Word) (tile i j : Nat) (x : Word) {tile' i' j' : Nat} (hi : i < 32) (hj : j < 32) (hi' : i' < 32) (hj' : j' < 32) :
    tabGet 0 (tile' * 1024 + i' * 32 + j') (setElem acc tile i j x) =
      if tile' = tile ∧ i' = i ∧ j' = j then x else tabGet 0 (tile' * 1024 + i' * 32 + j') acc := by
  unfold setElem
  rw [tabGet_tabSet]
  refine if_congr ?_ rfl rfl
  omega

/-- A step sets each element of its destination tiles, and no other. -/
theorem State.tabGet_stepAcc (s : State) (w : Workgroup) (l : Launch) (f : CvFields) (count : Nat) (sigs : List CvSig) (bases : List (Nat × Nat)) :
    (∀ q i j, q < subArrays f.mode count → i < 32 → j < 32 →
      tabGet 0 ((f.d.toNat % 16 + q) * 1024 + i * 32 + j) (s.stepAcc w l f count sigs bases) =
        stepElem (slotA l f) (slotB l f) (aRow s w l f sigs q i)
          ((List.range (stepK (slotFmt (slotB l f)))).map (fragElem (slotFmt (slotB l f)) (Machine.sigOf sigs (32 * q + j)).b))
          (s.scaleEntry w.id (slotA l f) (listGet (0, 0) bases q).1 i) (s.scaleEntry w.id (slotB l f) (listGet (0, 0) bases q).2 j)
          (w.elem (f.d.toNat % 16 + q) i j)) ∧
    ∀ tile i j, i < 32 → j < 32 → (tile < f.d.toNat % 16 ∨ f.d.toNat % 16 + subArrays f.mode count ≤ tile) →
      tabGet 0 (tile * 1024 + i * 32 + j) (s.stepAcc w l f count sigs bases) = w.elem tile i j := by
  have other {tile t i' i j : Nat} {v : Nat → Word} (hi : i < 32) (hj : j < 32) (hi' : i' < 32) (h : tile ≠ t ∨ i ≠ i') (acc : Tab Word) :
      tabGet 0 (tile * 1024 + i * 32 + j) ((List.range 32).foldl (fun acc j => setElem acc t i' j (v j)) acc) = tabGet 0 (tile * 1024 + i * 32 + j) acc :=
    tabGet_foldl_keep (fun j' hj' acc => (tabGet_setElem acc t i' j' _ hi' (List.mem_range.1 hj') hi hj).trans (if_neg (by omega))) acc
  constructor
  · intro q i j hq hi hj
    refine tabGet_foldl_hit (List.mem_range.2 hq) (fun acc => ?_) (fun q' _ hne acc => ?_) _
    · refine tabGet_foldl_hit (List.mem_range.2 hi) (fun acc => ?_) (fun i' hi' hne acc => ?_) acc
      · refine tabGet_foldl_hit (List.mem_range.2 hj) (fun acc => ?_) (fun j' hj' hne acc => ?_) acc
        · rw [tabGet_setElem _ _ _ _ _ hi hj hi hj, if_pos ⟨rfl, rfl, rfl⟩, listGet_map_range _ _ _ _ hj]
        · rw [tabGet_setElem _ _ _ _ _ hi (List.mem_range.1 hj') hi hj, if_neg (fun h => hne h.2.2.symm)]
      · exact other hi hj (List.mem_range.1 hi') (.inr hne.symm) acc
    · refine tabGet_foldl_keep (fun i' hi' acc => ?_) acc
      exact other hi hj (List.mem_range.1 hi') (.inl (by omega)) acc
  · intro tile i j hi hj h
    refine tabGet_foldl_keep (fun q hq acc => ?_) _
    have hq := List.mem_range.1 hq
    refine tabGet_foldl_keep (fun i' hi' acc => ?_) acc
    exact other hi hj (List.mem_range.1 hi') (.inl (by omega)) acc

theorem tabGet_filter_tile (t k : Nat) (acc : Tab Word) :
    tabGet 0 k (acc.filter (fun x => !(x.1 / 1024 == t))) = if k / 1024 = t then 0 else tabGet 0 k acc := by
  induction acc with
  | nil => simp [tabGet]
  | cons x acc ih =>
    obtain ⟨k', v⟩ := x
    by_cases hx : k' / 1024 = t
    · rw [List.filter_cons_of_neg (by simp [hx]), ih, tabGet]
      split
      · rfl
      · rw [if_neg (fun h => by subst h; contradiction)]
    · rw [List.filter_cons_of_pos (by simp [hx]), tabGet, tabGet, ih]
      by_cases hk : k' = k
      · subst hk
        rw [if_pos rfl, if_pos rfl, if_neg hx]
      · rw [if_neg hk, if_neg hk]

theorem tabGet_zeroTiles (ts : List Nat) (k : Nat) (acc : Tab Word) :
    tabGet 0 k (ts.foldl (fun acc t => acc.filter (fun x => !(x.1 / 1024 == t))) acc) = if k / 1024 ∈ ts then 0 else tabGet 0 k acc := by
  induction ts generalizing acc with
  | nil => rfl
  | cons t ts ih =>
    rw [List.foldl_cons, ih, tabGet_filter_tile]
    by_cases h : k / 1024 ∈ ts
    · rw [if_pos h, if_pos (List.mem_cons_of_mem _ h)]
    · rw [if_neg h]
      by_cases ht : k / 1024 = t
      · rw [if_pos ht, if_pos (List.mem_cons.2 (.inl ht))]
      · rw [if_neg ht, if_neg (by simp [ht, h])]

/-! An operation that has performed. -/

theorem State.any_of_wg? {s : State} {id : Nat} {w : Workgroup} (h : s.wg? id = some w) : s.wgs.any (fun w => w.id == id) = true :=
  List.any_eq_true.2 ⟨w, List.mem_of_find?_eq_some h, List.find?_some (p := fun (w : Workgroup) => w.id == id) h⟩

theorem State.tile?_id {s : State} {op : Nat} {o : TileOp} (h : s.tile? op = some o) : o.id = op :=
  beq_iff_eq.1 (List.find?_some (p := fun (o : TileOp) => o.id == op) h)

/-- A step or a transfer that is over: it is gone, and its signers count one less. -/
def TileEnds (s t : State) (op : Nat) (o : TileOp) : Prop :=
  t.tiles = s.tiles.filter (fun y => !(y.id == op)) ∧
  ∀ u ∈ o.tids, (t.thread o.wg u).tl = (s.thread o.wg u).tl - 1 ∧ (t.thread o.wg u).vregs = (s.thread o.wg u).vregs

theorem tileEnds_landTile {s p : State} {op : Nat} {o : TileOp} (hid : o.id = op) (htiles : p.tiles = s.tiles) (hthreads : p.threads = s.threads)
    (hwg : p.wgs.any (fun w => w.id == o.wg) = true) : TileEnds s (p.landTile o) op o := by
  subst hid
  have hl := State.modLive_of_live hwg o.tids (fun t => { t with tl := t.tl - 1 })
  refine ⟨?_, fun u hu => ?_⟩
  · unfold State.landTile
    rw [hl]
    exact congrArg _ ((State.modThreads_tiles ..).trans htiles)
  · have hthread : (p.landTile o).thread o.wg u = (p.modThreads o.wg o.tids (fun t => { t with tl := t.tl - 1 })).thread o.wg u := by
      unfold State.landTile
      rw [hl]
      rfl
    rw [hthread, State.thread_modThreads, if_pos hu, State.thread_congr hthreads]
    exact ⟨rfl, rfl⟩

theorem State.landTile_only (s : State) (o : TileOp) : ∃ threads tiles, s.landTile o = { s with threads, tiles } := by
  unfold State.landTile
  obtain ⟨threads, h⟩ := s.modLive_only o.wg o.tids (fun t => { t with tl := t.tl - 1 })
  rw [h]
  exact ⟨_, _, rfl⟩

theorem State.wgs_landTile (s : State) (o : TileOp) : (s.landTile o).wgs = s.wgs := by
  obtain ⟨threads, tiles, h⟩ := s.landTile_only o
  rw [h]

theorem State.sameMemory_landTile (s : State) (o : TileOp) : SameMemory s (s.landTile o) := by
  obtain ⟨threads, tiles, h⟩ := s.landTile_only o
  rw [h]
  exact .refl s

/-- An operation on accumulators alone is over, with the accumulators it leaves. -/
theorem tileEnds_acc {s : State} {op : Nat} {o : TileOp} {w : Workgroup} (ho : s.tile? op = some o) (hw : s.wg? o.wg = some w) (acc : Workgroup → Tab Word) :
    TileEnds s ((s.modWg o.wg (fun w => { w with acc := acc w })).landTile o) op o ∧
    SameMemory s ((s.modWg o.wg (fun w => { w with acc := acc w })).landTile o) ∧
    ((s.modWg o.wg (fun w => { w with acc := acc w })).landTile o).wg? o.wg = some { w with acc := acc w } := by
  have hw' : (s.modWg o.wg (fun w => { w with acc := acc w })).wg? o.wg = some { w with acc := acc w } := by
    refine (State.wg?_modWg s o.wg o.wg (fun w => { w with acc := acc w }) (fun _ => rfl)).trans ?_
    rw [if_pos rfl, hw]
    rfl
  refine ⟨tileEnds_landTile (State.tile?_id ho) rfl rfl (State.any_of_wg? hw'), ?_, ?_⟩
  · exact (sameMemory_iod rfl rfl).trans (State.sameMemory_landTile _ o)
  · exact (State.wg?_congr (State.wgs_landTile _ o) _).trans hw'

/-! A transfer that met an error. -/

/-- Halts leave a gang that does not run, by its name, not running. -/
def State.Stands (s : State) (id : Nat) : Prop := ∀ g, s.gang? id = some g → g.status ≠ .running

theorem State.stands_haltGangs {s : State} {id : Nat} {st : GStatus} (hst : st ≠ .running) (p : Gang → Bool) (h : s.Stands id) : (s.haltGangs st p).Stands id := by
  have fold (l : List Gang) (s : State) (h : s.Stands id) : (l.foldl (fun s g => s.haltGang g.id st) s).Stands id := by
    induction l generalizing s with
    | nil => exact h
    | cons x l ih =>
      refine ih _ (fun g hg => ?_)
      have hmod := s.gang?_modGang x.id id (fun g => { g with status := st, haltAt := s.clock }) (fun _ => rfl)
      have hg' := hmod.symm.trans hg
      split at hg'
      · obtain ⟨y, -, hy⟩ := Option.map_eq_some_iff.1 hg'
        rw [← hy]
        exact hst
      · exact h g hg'
  exact fold _ s h

theorem State.stands_pushRecord {s : State} {id : Nat} (world : Nat) (r : FaultRec) (h : s.Stands id) : (s.pushRecord world r).Stands id := by
  unfold State.pushRecord
  split
  · exact h
  next w _ =>
    dsimp only
    split
    next k _ =>
      obtain ⟨mem, llcDirty, iod, hp⟩ := s.homePut_eq k (natLe 32 r.toNat)
      obtain ⟨worlds, hw⟩ := (s.homePut k (natLe 32 r.toNat)).modWorld_eq world World.pushTail
      rw [hw, hp]
      exact h
    · obtain ⟨worlds, hw⟩ := s.modWorld_eq world (fun w => { w with waiting := w.waiting ++ [r] })
      rw [hw]
      split
      · exact h
      · obtain ⟨worlds', hw'⟩ := State.modWorld_eq { s with worlds } world (fun w => { w with stalled := true })
        rw [hw']
        exact State.stands_haltGangs (s := { s with worlds := worlds' }) (by decide) _ h

/-- Where the world has no queue, a record changes no byte. -/
theorem State.pushRecord_mem_of_noQueue {s : State} {world : Nat} (r : FaultRec) (h : ∀ d, s.world? world = some d → d.fqsize = 0) :
    SameMemory s (s.pushRecord world r) := by
  cases hw : s.world? world with
  | none =>
    unfold State.pushRecord
    rw [hw]
    exact .refl s
  | some d =>
    rw [State.pushRecord_of_waits r hw (.inl (h d hw))]
    obtain ⟨worlds, hw⟩ := s.modWorld_eq world (fun w => { w with waiting := w.waiting ++ [r] })
    rw [hw]
    split
    · exact .refl s
    · obtain ⟨worlds', hw'⟩ := State.modWorld_eq { s with worlds } world (fun w => { w with stalled := true })
      rw [hw']
      obtain ⟨gangs, flights, engines, hh⟩ := State.haltGangs_eq { s with worlds := worlds' } .stalled (fun g => g.world == world)
      rw [hh]
      exact .refl s

theorem State.tileFault_outcome {p : State} {op : Nat} {o : TileOp} {w : Workgroup} (l : Launch) (write : Bool) (addr : Loc) (keys : List Nat)
    (ho : p.tile? op = some o) : (∃ o', (p.tileFault o w l write addr keys).tile? op = some o' ∧ o'.poisoned = true) ∧
      (p.tileFault o w l write addr keys).threads = p.threads ∧ (p.tileFault o w l write addr keys).Stands w.gang ∧
      ((∀ d, p.world? l.world = some d → d.fqsize = 0) → SameMemory p (p.tileFault o w l write addr keys)) := by
  have hid := State.tile?_id ho
  subst hid
  obtain ⟨gangs, flights, engines, hstop⟩ := (p.modTile o.id (fun o => { o with poisoned := true })).driverStop_eq w.gang
  have hstands : ((p.modTile o.id (fun o => { o with poisoned := true })).driverStop w.gang).Stands w.gang :=
    fun g hg => State.not_running_driverStop hg
  have htile : (p.modTile o.id (fun o => { o with poisoned := true })).tile? o.id = some { o with poisoned := true } := by
    refine (State.tile?_modTile p o.id (fun o => { o with poisoned := true }) (fun _ => rfl)).trans ?_
    rw [ho]
    rfl
  unfold State.tileFault
  dsimp only
  refine ⟨⟨{ o with poisoned := true }, ?_, rfl⟩, ?_, State.stands_pushRecord _ _ hstands, fun h => ?_⟩
  · obtain ⟨mem, llcDirty, iod, worlds, gangs', flights', engines', hpush⟩ := State.pushRecord_eq _ _ _
    rw [hpush, hstop]
    exact htile
  · obtain ⟨mem, llcDirty, iod, worlds, gangs', flights', engines', hpush⟩ := State.pushRecord_eq _ _ _
    rw [hpush, hstop]
    rfl
  · refine SameMemory.trans ?_ (State.pushRecord_mem_of_noQueue _ (fun d hd => h d ?_))
    · rw [hstop]
      exact sameMemory_iod rfl rfl
    · rw [hstop] at hd
      exact hd

/-! The words of a tile store. -/

/-- What a write at a home may change. -/
def Written (s t : State) : Prop := ∃ mem llcDirty iod stt l1 nextId versions flights,
  t = { s with mem, llcDirty, iod, stt, l1, nextId, versions, flights }

theorem Written.refl (s : State) : Written s s := ⟨s.mem, s.llcDirty, s.iod, s.stt, s.l1, s.nextId, s.versions, s.flights, rfl⟩

theorem Written.trans {s t u : State} (h : Written s t) (h' : Written t u) : Written s u := by
  obtain ⟨_, _, _, _, _, _, _, _, rfl⟩ := h
  obtain ⟨_, _, _, _, _, _, _, _, rfl⟩ := h'
  exact ⟨_, _, _, _, _, _, _, _, rfl⟩

theorem VersionsOnly.written {s t : State} (h : VersionsOnly s t) : Written s t := by
  obtain ⟨versions, nextId, rfl⟩ := h
  exact ⟨_, _, _, _, _, _, _, _, rfl⟩

/-- One word of a tile store. -/
def State.tilePut (l : Launch) (o : TileOp) (s : State) (x : Elem) : State :=
  if x.key < keySpad && !x.green && l.shadowOf.isNone then (s.passElem l o.core [x] x).writeElem l o.num o.core x
  else s.writeElem l o.num o.core x

/-- An element as a tile store makes them, that may be written: in scratchpad, or at a home where no injection is armed. -/
def TileWord (s : State) (x : Elem) : Prop := x.size = 4 ∧ x.fill = none ∧ (keySpad ≤ x.key ∨ s.injects = [])

/-- A word of a tile store goes to scratchpad or to its home, and not into a version or nowhere. -/
def Elem.Lands (x : Elem) (l : Launch) : Prop := keySpad ≤ x.key ∨ (x.green = false ∧ l.shadowOf = none)

section
variable {s : State} {l : Launch} {o : TileOp} {x : Elem}

theorem TileWord.congr {t : State} (h : TileWord s x) (hi : t.injects = s.injects) : TileWord t x := by
  rw [TileWord, hi]
  exact h

/-- A word that lands is put at its home, and beside it only lines, dirty pages and the fills of other stores change. -/
theorem State.tilePut_lands (hx : TileWord s x) (h : x.Lands l) : ∃ l1 nextId stt flights,
    State.tilePut l o s x = { (State.homePut { s with l1, nextId } x.key (natLe 4 x.data.toNat)) with stt, flights } := by
  obtain ⟨hsize, hfill, hwhere⟩ := hx
  unfold State.tilePut
  by_cases hk : keySpad ≤ x.key
  · rw [if_neg (by simp [Nat.not_lt.2 hk]), State.writeElem_spad hk, hsize]
    obtain ⟨stt, hsoil⟩ := (s.homePut x.key (natLe 4 x.data.toNat)).soil_eq x.key
    rw [hsoil]
    exact ⟨s.l1, s.nextId, stt, _, rfl⟩
  · obtain ⟨hg, hs⟩ := h.resolve_left hk
    have hi := hwhere.resolve_left hk
    obtain ⟨l1, nextId, hpass⟩ := s.passElem_only (l := l) (core := o.core) (x := x) [x]
    rw [if_pos (by simp [Nat.not_le.1 hk, hg, hs]), hpass, State.writeElem_home (s := { s with l1, nextId }) hi (Nat.not_le.1 hk) hg hs hfill, hsize]
    exact ⟨l1, nextId, _, _, rfl⟩

/-- A word that does not land changes versions alone. -/
theorem State.tilePut_version (hx : TileWord s x) (h : ¬ x.Lands l) : VersionsOnly s (State.tilePut l o s x) := by
  obtain ⟨-, -, hwhere⟩ := hx
  have hk : ¬ keySpad ≤ x.key := fun hk => h (.inl hk)
  have hi := hwhere.resolve_left hk
  unfold State.tilePut
  cases hg : x.green with
  | true =>
    rw [if_neg (by simp), State.writeElem_green hi (Nat.not_le.1 hk) hg]
    exact s.greenWrite_versionsOnly ..
  | false =>
    have hs : l.shadowOf ≠ none := fun hs => h (.inr ⟨hg, hs⟩)
    rw [if_neg (by simp [hs]), State.writeElem_shadow hi (Nat.not_le.1 hk) hg hs]
    exact .refl s

theorem State.tilePut_written (hx : TileWord s x) : Written s (State.tilePut l o s x) := by
  by_cases h : x.Lands l
  · obtain ⟨l1, nextId, stt, flights, hp⟩ := s.tilePut_lands (o := o) hx h
    obtain ⟨mem, llcDirty, iod, hput⟩ := State.homePut_eq { s with l1, nextId } x.key (natLe 4 x.data.toNat)
    rw [hp, hput]
    exact ⟨_, _, _, _, _, _, _, _, rfl⟩
  · exact (s.tilePut_version hx h).written

theorem State.tilePut_injects (hx : TileWord s x) : (State.tilePut l o s x).injects = s.injects := by
  obtain ⟨_, _, _, _, _, _, _, _, h⟩ := s.tilePut_written (l := l) (o := o) hx
  rw [h]

theorem State.tilePut_outside (hx : TileWord s x) {k : Nat} (h : x.Lands l → ¬ (x.key ≤ k ∧ k < x.key + x.size)) :
    (State.tilePut l o s x).homeByte k = s.homeByte k ∧ memGet (State.tilePut l o s x).mem k = memGet s.mem k := by
  by_cases hl : x.Lands l
  · obtain ⟨l1, nextId, stt, flights, hp⟩ := s.tilePut_lands (o := o) hx hl
    have hout := State.homePut_outside { s with l1, nextId } (k := x.key) (j := k) (bs := natLe 4 x.data.toNat) (by rw [natLe_length, ← hx.1]; exact h hl)
    rw [hp]
    exact hout
  · obtain ⟨versions, nextId, hv⟩ := s.tilePut_version (o := o) hx hl
    rw [hv]
    exact ⟨rfl, rfl⟩

theorem State.tilePut_bytes (hx : TileWord s x) (h : x.Lands l) {j : Nat} (hj : j < 4) :
    (State.tilePut l o s x).homeByte (x.key + j) = x.data.extractLsb' (8 * j) 8 := by
  obtain ⟨l1, nextId, stt, flights, hp⟩ := s.tilePut_lands (o := o) hx h
  rw [hp]
  exact State.homeByte_homePut_word { s with l1, nextId } x.key 4 x.data hj

/-- A word leaves what versions hold of another. -/
theorem State.tilePut_holds (hx : TileWord s x) {world word : Nat} {num y : Word} (h : s.holdsWord world num word y)
    (hne : x.green = true → word ≠ wordOf x.key) : (State.tilePut l o s x).holdsWord world num word y := by
  by_cases hl : x.Lands l
  · obtain ⟨l1, nextId, stt, flights, hp⟩ := s.tilePut_lands (o := o) hx hl
    obtain ⟨mem, llcDirty, iod, hput⟩ := State.homePut_eq { s with l1, nextId } x.key (natLe 4 x.data.toNat)
    rw [hp, hput]
    exact h
  · have hk : ¬ keySpad ≤ x.key := fun hk => hl (.inl hk)
    have hi := hx.2.2.resolve_left hk
    unfold State.tilePut
    cases hg : x.green with
    | true =>
      rw [if_neg (by simp), State.writeElem_green hi (Nat.not_le.1 hk) hg]
      exact State.holdsWord_greenWrite_other _ _ _ _ h (hne hg)
    | false =>
      have hs : l.shadowOf ≠ none := fun hs => hl (.inr ⟨hg, hs⟩)
      rw [if_neg (by simp [hs]), State.writeElem_shadow hi (Nat.not_le.1 hk) hg hs]
      exact h

/-- A word on a greenware page is in the version of its number. -/
theorem State.tilePut_green (hx : TileWord s x) (hk : x.key < keySpad) (hg : x.green = true) (hw : x.key % 4 = 0)
    (hd : s.dropped l.world o.num = false) : (State.tilePut l o s x).holdsWord l.world o.num x.key x.data := by
  have hword : wordOf x.key = x.key := by unfold wordOf; omega
  have hi := hx.2.2.resolve_left (Nat.not_le.2 hk)
  have hh := State.holdsWord_greenWrite hd o.core x.key x.size x.data
  rw [hword] at hh
  have hdata : s.greenWord l x.key x.size x.data = x.data := by
    unfold State.greenWord
    rw [hw, hx.1, mergeWord_whole]
  rw [hdata] at hh
  unfold State.tilePut
  rw [if_neg (by simp [hg]), State.writeElem_green hi hk hg]
  exact hh

end

section
variable {l : Launch} {o : TileOp} {xs : List Elem}

theorem TileWord.foldl {s : State} (hx : ∀ x ∈ xs, TileWord s x) : Written s (xs.foldl (State.tilePut l o) s) := by
  induction xs generalizing s with
  | nil => exact .refl s
  | cons x xs ih =>
    have hput := s.tilePut_injects (l := l) (o := o) (hx x List.mem_cons_self)
    exact (s.tilePut_written (hx x List.mem_cons_self)).trans (ih (fun y hy => (hx y (List.mem_cons_of_mem _ hy)).congr hput))

theorem State.tilePuts_outside {s : State} (hx : ∀ x ∈ xs, TileWord s x) {k : Nat} (h : ∀ x ∈ xs, x.Lands l → ¬ (x.key ≤ k ∧ k < x.key + x.size)) :
    (xs.foldl (State.tilePut l o) s).homeByte k = s.homeByte k ∧ memGet (xs.foldl (State.tilePut l o) s).mem k = memGet s.mem k := by
  induction xs generalizing s with
  | nil => exact ⟨rfl, rfl⟩
  | cons x xs ih =>
    have hput := s.tilePut_injects (l := l) (o := o) (hx x List.mem_cons_self)
    obtain ⟨hb, hm⟩ := s.tilePut_outside (o := o) (hx x List.mem_cons_self) (h x List.mem_cons_self)
    obtain ⟨hb', hm'⟩ := ih (s := State.tilePut l o s x) (fun y hy => (hx y (List.mem_cons_of_mem _ hy)).congr hput)
      (fun y hy => h y (List.mem_cons_of_mem _ hy))
    exact ⟨hb'.trans hb, hm'.trans hm⟩

/-- Elements that share no byte. -/
def KeysApart (ks : List Nat) : Prop := ks.Pairwise (fun x y => x + 4 ≤ y ∨ y + 4 ≤ x)

theorem State.tilePuts_bytes {s : State} (hx : ∀ x ∈ xs, TileWord s x) (ha : KeysApart (xs.map (·.key))) {x : Elem} (hm : x ∈ xs) (h : x.Lands l)
    {j : Nat} (hj : j < 4) : (xs.foldl (State.tilePut l o) s).homeByte (x.key + j) = x.data.extractLsb' (8 * j) 8 := by
  induction xs generalizing s with
  | nil => cases hm
  | cons y xs ih =>
    have hput := s.tilePut_injects (l := l) (o := o) (hx y List.mem_cons_self)
    have hrest : ∀ z ∈ xs, TileWord (State.tilePut l o s y) z := fun z hz => (hx z (List.mem_cons_of_mem _ hz)).congr hput
    obtain ⟨hy, ha'⟩ := List.pairwise_cons.1 ha
    cases hm with
    | head =>
      refine (State.tilePuts_outside hrest (fun z hz _ => ?_)).1.trans (s.tilePut_bytes (hx x List.mem_cons_self) h hj)
      have hap : x.key + 4 ≤ z.key ∨ z.key + 4 ≤ x.key := hy z.key (List.mem_map_of_mem hz)
      rw [(hx z (List.mem_cons_of_mem _ hz)).1]
      omega
    | tail _ hm => exact ih hrest ha' hm

theorem State.tilePuts_green {s : State} (hx : ∀ x ∈ xs, TileWord s x) (ha : KeysApart (xs.map (·.key))) {x : Elem} (hm : x ∈ xs)
    (hk : x.key < keySpad) (hg : x.green = true) (hw : x.key % 4 = 0) (hd : s.dropped l.world o.num = false) :
    (xs.foldl (State.tilePut l o) s).holdsWord l.world o.num x.key x.data := by
  have keeps (ys : List Elem) (s : State) (hy : ∀ y ∈ ys, TileWord s y) (hne : ∀ y ∈ ys, x.key ≠ wordOf y.key)
      (h : s.holdsWord l.world o.num x.key x.data) : (ys.foldl (State.tilePut l o) s).holdsWord l.world o.num x.key x.data := by
    induction ys generalizing s with
    | nil => exact h
    | cons y ys ih =>
      have hput := s.tilePut_injects (l := l) (o := o) (hy y List.mem_cons_self)
      exact ih _ (fun z hz => (hy z (List.mem_cons_of_mem _ hz)).congr hput) (fun z hz => hne z (List.mem_cons_of_mem _ hz))
        (s.tilePut_holds (hy y List.mem_cons_self) h (fun _ => hne y List.mem_cons_self))
  induction xs generalizing s with
  | nil => cases hm
  | cons y xs ih =>
    have hput := s.tilePut_injects (l := l) (o := o) (hx y List.mem_cons_self)
    have hrest : ∀ z ∈ xs, TileWord (State.tilePut l o s y) z := fun z hz => (hx z (List.mem_cons_of_mem _ hz)).congr hput
    obtain ⟨hy, ha'⟩ := List.pairwise_cons.1 ha
    cases hm with
    | head =>
      refine keeps xs _ hrest (fun z hz => ?_) (s.tilePut_green (hx x List.mem_cons_self) hk hg hw hd)
      have hap : x.key + 4 ≤ z.key ∨ z.key + 4 ≤ x.key := hy z.key (List.mem_map_of_mem hz)
      unfold wordOf
      omega
    | tail _ hm =>
      refine ih hrest ha' hm ?_
      obtain ⟨_, _, _, _, _, _, _, _, h⟩ := s.tilePut_written (l := l) (o := o) (hx y List.mem_cons_self)
      rw [h]
      exact hd

end

/-! The words a tile store makes. -/

theorem State.tileElems_keys (s : State) (w : Workgroup) (world : Nat) (o : TileOp) (addr : Loc) (keys : List Nat) (d : Nat) :
    (s.tileElems w world o addr keys d).map (·.key) = keys := by
  unfold State.tileElems
  rw [List.map_map]
  exact List.map_snd_zip (by simp)

theorem State.key_of_tileElems {s : State} {w : Workgroup} {world : Nat} {o : TileOp} {addr : Loc} {keys : List Nat} {d : Nat} {x : Elem}
    (h : x ∈ s.tileElems w world o addr keys d) : x.key ∈ keys := by
  have hm := List.mem_map_of_mem (f := (·.key)) h
  rwa [State.tileElems_keys] at hm

theorem State.tileWord_tileElems {s : State} {w : Workgroup} {world : Nat} {o : TileOp} {addr : Loc} {keys : List Nat} {d : Nat} {x : Elem}
    (h : x ∈ s.tileElems w world o addr keys d) (hk : keySpad ≤ x.key ∨ s.injects = []) : TileWord s x := by
  obtain ⟨⟨n, k⟩, -, rfl⟩ := List.mem_map.1 h
  exact ⟨rfl, rfl, hk⟩

theorem State.green_of_spad {s : State} {w : Workgroup} {world wg a : Nat} {o : TileOp} {keys : List Nat} {d : Nat} {x : Elem}
    (h : x ∈ s.tileElems w world o (.spad wg a) keys d) : x.green = false := by
  obtain ⟨⟨n, k⟩, -, rfl⟩ := List.mem_map.1 h
  rfl

/-- No home refuses a write of scratchpad. -/
theorem State.tileRefused_spad (s : State) (world : Nat) {k : Nat} (h : keySpad ≤ k) : s.tileRefused world true k = none := by
  have hd : isDevice k = false := decide_eq_false (Nat.not_lt.2 (Nat.le_trans (by decide) h))
  have hp : isPeer k = false := by
    unfold isPeer
    rw [decide_eq_false (Nat.not_lt.2 h), Bool.and_false]
  unfold State.tileRefused State.outside State.refuses State.errs
  simp [hd, hp]

/-! Tile transfers that perform. -/

section
variable {s : State} {op : Nat} {o : TileOp} {w : Workgroup}

/-- The state after a load's words are noted as read. -/
def State.tileNoted (s : State) (l : Launch) (core : Nat) (num : Word) (keys : List Nat) : State :=
  keys.foldl (fun s k => if k < keySpad then s.noteLoad l core num k else s) s

theorem State.tileNoted_versionsOnly (s : State) (l : Launch) (core : Nat) (num : Word) (keys : List Nat) :
    VersionsOnly s (s.tileNoted l core num keys) :=
  .foldl (fun s k => by split; exacts [s.noteLoad_versionsOnly .., .refl s]) keys s

/-- The state in which a load's words are in the tiles. -/
def State.tileLoaded (s : State) (w : Workgroup) (o : TileOp) (keys : List Nat) (bad : Bool) : State :=
  s.modWg o.wg (fun y => { y with acc := loadTiles y.acc o.mode.toNat o.tile (s.tileWords (s.launchOfWg w) o keys bad) })

theorem loadPerforms (ho : s.tile? op = some o) (hw : s.wg? o.wg = some w) (hr : s.tileReady o = true) {addr : Loc} {keys : List Nat}
    (hk : o.kind = .load addr keys) (hbad : keys.any (fun k => (s.tileRefused (s.launchOfWg w).world false k).isSome) = false) :
    Out.Leads (exec (.tileTransferPerformed op) s) (fun t => TileEnds s t op o ∧ SameMemory s t ∧ ∃ w', t.wg? o.wg = some w' ∧
      w'.acc = loadTiles w.acc o.mode.toNat o.tile (s.tileWords (s.launchOfWg w) o keys false)) := by
  have hx : exec (.tileTransferPerformed op) s = event (s.tileReady o)
      (((s.tileLoaded w o keys false).tileNoted (s.launchOfWg w) o.core (verNum (s.launchOfWg w) o.sub) keys).landTile o) := by
    simp only [exec, execTileTransferPerformed, ho, hw, hk, hbad, Bool.false_eq_true, if_false]
    rfl
  obtain ⟨versions, nextId, hn⟩ := (s.tileLoaded w o keys false).tileNoted_versionsOnly (s.launchOfWg w) o.core (verNum (s.launchOfWg w) o.sub) keys
  obtain ⟨-, -, hw'⟩ := tileEnds_acc ho hw (fun y => loadTiles y.acc o.mode.toNat o.tile (s.tileWords (s.launchOfWg w) o keys false))
  rw [State.wg?_congr (State.wgs_landTile _ o)] at hw'
  rw [hx, hn]
  refine event_leads hr ⟨tileEnds_landTile (State.tile?_id ho) rfl rfl (State.any_of_wg? hw'), ?_, _,
    (State.wg?_congr (State.wgs_landTile _ o) _).trans hw', rfl⟩
  exact (sameMemory_iod rfl rfl).trans (State.sameMemory_landTile _ o)

theorem loadFaults (ho : s.tile? op = some o) (hw : s.wg? o.wg = some w) (hr : s.tileReady o = true) {addr : Loc} {keys : List Nat}
    (hk : o.kind = .load addr keys) (hbad : keys.any (fun k => (s.tileRefused (s.launchOfWg w).world false k).isSome) = true) :
    Out.Leads (exec (.tileTransferPerformed op) s) (fun t => (∃ o', t.tile? op = some o' ∧ o'.poisoned = true) ∧ t.Stands w.gang) := by
  simp only [exec, execTileTransferPerformed, ho, hw, hk, hbad, if_true]
  refine event_leads hr ?_
  obtain ⟨hpoison, -, hstands, -⟩ := State.tileFault_outcome (s.launchOfWg w) (w := w) false addr keys
    (p := { s.tileLoaded w o keys true with draws := s.draws + keys.length }) ho
  exact ⟨hpoison, hstands⟩

/-- The elements of a tile store that are not refused. -/
def State.tileGood (s : State) (world : Nat) (xs : List Elem) : List Elem := xs.filter (fun x => (s.tileRefused world true x.key).isNone)

theorem State.tileGood_full {world : Nat} {xs : List Elem} (h : ∀ x ∈ xs, s.tileRefused world true x.key = none) : s.tileGood world xs = xs :=
  List.filter_eq_self.2 (fun x hx => by rw [h x hx]; rfl)

theorem State.tileGood_length {world : Nat} {xs : List Elem} {x : Elem} (hx : x ∈ xs) (h : s.tileRefused world true x.key ≠ none) :
    (s.tileGood world xs).length ≠ xs.length := by
  intro he
  have := List.length_filter_eq_length_iff.1 he x hx
  exact h (Option.isNone_iff_eq_none.1 this)

/-- What a tile store waits for: versions with room, and no other write on its way to its words. -/
def State.tileClear (s : State) (world : Nat) (o : TileOp) (xs : List Elem) : Bool :=
  !xs.any (fun x => x.green && s.fifth world o.num x.key) && !xs.any (fun x => x.key < keySpad && s.wordBusy o.core x.key)

theorem exec_store (ho : s.tile? op = some o) (hw : s.wg? o.wg = some w) (hr : s.tileReady o = true) {addr : Loc} {keys : List Nat} {num : Option Nat}
    (hk : o.kind = .store addr keys num) {xs : List Elem} (hxs : s.tileElems w (s.launchOfWg w).world o addr keys o.tile = xs)
    (hclear : s.tileClear (s.launchOfWg w).world o xs = true) :
    exec (.tileTransferPerformed op) s = .next (if (s.tileGood (s.launchOfWg w).world xs).length == xs.length
      then (xs.foldl (State.tilePut (s.launchOfWg w) o) s).landTile o
      else ((s.tileGood (s.launchOfWg w).world xs).foldl (State.tilePut (s.launchOfWg w) o) s).tileFault o w (s.launchOfWg w) true addr keys).progress := by
  have hx : exec (.tileTransferPerformed op) s = event (s.tileReady o && !xs.any (fun x => x.green && s.fifth (s.launchOfWg w).world o.num x.key) &&
      !xs.any (fun x => x.key < keySpad && s.wordBusy o.core x.key)) (if (s.tileGood (s.launchOfWg w).world xs).length == xs.length
      then (xs.foldl (State.tilePut (s.launchOfWg w) o) s).landTile o
      else ((s.tileGood (s.launchOfWg w).world xs).foldl (State.tilePut (s.launchOfWg w) o) s).tileFault o w (s.launchOfWg w) true addr keys) := by
    simp only [exec, execTileTransferPerformed, ho, hw, hk, hxs]
    rfl
  rw [hx]
  refine event_of_true ?_ _
  rw [Bool.and_assoc, hr, Bool.true_and]
  exact hclear

/-- A tile store whose words no home refuses is over once they are all put. -/
theorem storePerforms (ho : s.tile? op = some o) (hw : s.wg? o.wg = some w) (hr : s.tileReady o = true) {addr : Loc} {keys : List Nat} {num : Option Nat}
    (hk : o.kind = .store addr keys num) {xs : List Elem} (hxs : s.tileElems w (s.launchOfWg w).world o addr keys o.tile = xs)
    (hclear : s.tileClear (s.launchOfWg w).world o xs = true) (hgood : ∀ x ∈ xs, s.tileRefused (s.launchOfWg w).world true x.key = none)
    (hword : ∀ x ∈ xs, TileWord s x) {p : State → Prop}
    (hp : ∀ t, TileEnds s t op o → t.wgs = s.wgs → SameMemory (xs.foldl (State.tilePut (s.launchOfWg w) o) s) t →
      t.versions = (xs.foldl (State.tilePut (s.launchOfWg w) o) s).versions → p t) :
    Out.Leads (exec (.tileTransferPerformed op) s) p := by
  have hlen : ((s.tileGood (s.launchOfWg w).world xs).length == xs.length) = true := by rw [State.tileGood_full hgood, beq_self_eq_true]
  rw [exec_store ho hw hr hk hxs hclear, hlen, if_pos rfl]
  obtain ⟨mem, llcDirty, iod, stt, l1, nextId, versions, flights, hput⟩ := TileWord.foldl (l := s.launchOfWg w) (o := o) hword
  refine ⟨_, rfl, hp _ (tileEnds_landTile (State.tile?_id ho) ?_ ?_ ?_) ?_ ?_ ?_⟩
  · rw [hput]
  · rw [hput]
  · rw [hput]
    exact State.any_of_wg? hw
  · refine (State.wgs_landTile _ o).trans ?_
    rw [hput]
  · exact State.sameMemory_landTile _ o
  · obtain ⟨threads, tiles, hl⟩ := (xs.foldl (State.tilePut (s.launchOfWg w) o) s).landTile_only o
    show ((xs.foldl (State.tilePut (s.launchOfWg w) o) s).landTile o).versions = _
    rw [hl]

/-- A tile store that a home refuses puts its other words, and stays to be made again. -/
theorem storeFaults (ho : s.tile? op = some o) (hw : s.wg? o.wg = some w) (hr : s.tileReady o = true) {addr : Loc} {keys : List Nat} {num : Option Nat}
    (hk : o.kind = .store addr keys num) {xs : List Elem} (hxs : s.tileElems w (s.launchOfWg w).world o addr keys o.tile = xs)
    (hclear : s.tileClear (s.launchOfWg w).world o xs = true) {x : Elem} (hx : x ∈ xs) (hbad : s.tileRefused (s.launchOfWg w).world true x.key ≠ none)
    (hword : ∀ x ∈ xs, TileWord s x) :
    Out.Leads (exec (.tileTransferPerformed op) s) (fun t => (∃ o', t.tile? op = some o' ∧ o'.poisoned = true) ∧ t.threads = s.threads ∧
      t.Stands w.gang ∧ ((∀ d, s.world? (s.launchOfWg w).world = some d → d.fqsize = 0) →
        SameMemory ((s.tileGood (s.launchOfWg w).world xs).foldl (State.tilePut (s.launchOfWg w) o) s) t)) := by
  rw [exec_store ho hw hr hk hxs hclear, if_neg (by simpa using State.tileGood_length hx hbad)]
  obtain ⟨mem, llcDirty, iod, stt, l1, nextId, versions, flights, hput⟩ := TileWord.foldl (l := s.launchOfWg w) (o := o)
    (fun y hy => hword y (List.mem_filter.1 hy).1 : ∀ y ∈ s.tileGood (s.launchOfWg w).world xs, TileWord s y)
  obtain ⟨hpoison, hthreads, hstands, hmem⟩ := State.tileFault_outcome (s.launchOfWg w) (w := w) true addr keys
    (p := (s.tileGood (s.launchOfWg w).world xs).foldl (State.tilePut (s.launchOfWg w) o) s) (op := op) (o := o) (by rw [hput]; exact ho)
  refine ⟨_, rfl, hpoison, hthreads.trans (by rw [hput]), hstands, fun h => hmem (fun d hd => h d ?_)⟩
  rw [hput] at hd
  exact hd

end

end Sys2Proof.Machine

namespace Sys2Proof
open Sys2Proof.Machine

/-- Settles O21: an operation on accumulators alone by the rule for tables set along a list; a load by the words it notes; a store by the
rule for one word, put along the list of its words. -/
theorem tileOperationsPerform : Obligations.TileOperationsPerform := by
  refine ⟨?step, fun s op o w ho hw hr => ⟨?zero, ?proj, ?load, ?loadFault, ?spad, ?va⟩⟩
  case step =>
    intro s op o w f count first sigs bases ho hw hk hr
    dsimp only
    obtain ⟨⟨htiles, hthreads⟩, hmem, hw'⟩ := tileEnds_acc ho hw (fun _ => s.stepAcc w (s.launchOfWg w) f count sigs bases)
    obtain ⟨hin, hout⟩ := s.tabGet_stepAcc w (s.launchOfWg w) f count sigs bases
    simp only [exec, execMatrixStepPerformed, ho, hw, hk]
    exact event_leads hr ⟨hmem.trans (sameMemory_iod rfl rfl), htiles, hthreads, _, hw', rfl, rfl, hin, hout⟩
  case zero =>
    intro hk
    obtain ⟨hends, hmem, hw'⟩ := tileEnds_acc ho hw (fun y => o.writes.foldl (fun acc t => acc.filter (fun x => !(x.1 / 1024 == t))) y.acc)
    simp only [exec, execTileTransferPerformed, ho, hw, hk]
    refine event_leads hr ⟨hends, hmem.trans (sameMemory_iod rfl rfl), _, hw', fun tile i j hi hj => ?_⟩
    refine (tabGet_zeroTiles o.writes (tile * 1024 + i * 32 + j) w.acc).trans ?_
    rw [show (tile * 1024 + i * 32 + j) / 1024 = tile by omega]
    rfl
  case proj =>
    intro tile c0 int mode hk
    obtain ⟨hends, hmem, hw'⟩ := tileEnds_acc ho hw (fun _ => projAcc w (s.launchOfWg w).seed tile (o.writes.headD 0) mode.toNat c0 int)
    simp only [exec, execTileTransferPerformed, ho, hw, hk]
    exact event_leads hr ⟨hends, hmem.trans (sameMemory_iod rfl rfl), _, hw', rfl⟩
  case load =>
    intro addr keys hk hgood
    refine loadPerforms ho hw hr hk (Bool.eq_false_iff.2 (fun h => ?_))
    obtain ⟨k, hm, hs⟩ := List.any_eq_true.1 h
    rw [hgood k hm] at hs
    cases hs
  case loadFault =>
    rintro addr keys hk ⟨k, hm, hs⟩
    exact loadFaults ho hw hr hk (List.any_eq_true.2 ⟨k, hm, Option.isSome_iff_ne_none.2 hs⟩)
  case spad =>
    intro wg a keys num hk hspad
    have hkey (x : Elem) (hx : x ∈ s.tileElems w (s.launchOfWg w).world o (.spad wg a) keys o.tile) : keySpad ≤ x.key :=
      hspad _ (State.key_of_tileElems hx)
    have hword (x : Elem) (hx : x ∈ s.tileElems w (s.launchOfWg w).world o (.spad wg a) keys o.tile) : TileWord s x :=
      State.tileWord_tileElems hx (.inl (hkey x hx))
    have hclear : s.tileClear (s.launchOfWg w).world o (s.tileElems w (s.launchOfWg w).world o (.spad wg a) keys o.tile) = true := by
      unfold State.tileClear
      simp only [Bool.and_eq_true, Bool.not_eq_true', List.any_eq_false]
      refine ⟨fun x hx => ?_, fun x hx => ?_⟩
      · simp [State.green_of_spad hx]
      · simp [Nat.not_lt.2 (hkey x hx)]
    refine storePerforms ho hw hr hk rfl hclear (fun x hx => s.tileRefused_spad _ (hkey x hx)) hword (fun t hends hwgs hmem _ => ⟨hends, hwgs, ?_, ?_⟩)
    · intro k hout
      obtain ⟨hb, hm⟩ := State.tilePuts_outside hword (l := s.launchOfWg w) (o := o) (fun x hx _ => hout x hx)
      exact ⟨(hmem.2 k).trans hb, (hmem.1 k).trans hm⟩
    · intro ha x hx j hj
      have ha' : KeysApart ((s.tileElems w (s.launchOfWg w).world o (.spad wg a) keys o.tile).map (·.key)) := by rwa [State.tileElems_keys]
      exact (hmem.2 _).trans (State.tilePuts_bytes hword ha' hx (.inl (hkey x hx)) hj)
  case va =>
    intro a keys num hk hva hi
    dsimp only
    intro hfifth hbusy
    have hkey (x : Elem) (hx : x ∈ s.tileElems w (s.launchOfWg w).world o (.va a) keys o.tile) : x.key < keySpad := hva _ (State.key_of_tileElems hx)
    have hword (x : Elem) (hx : x ∈ s.tileElems w (s.launchOfWg w).world o (.va a) keys o.tile) : TileWord s x :=
      State.tileWord_tileElems hx (.inr hi)
    have hclear : s.tileClear (s.launchOfWg w).world o (s.tileElems w (s.launchOfWg w).world o (.va a) keys o.tile) = true := by
      unfold State.tileClear
      simp only [Bool.and_eq_true, Bool.not_eq_true', List.any_eq_false]
      exact ⟨fun x hx h => absurd (hfifth x hx h.1) (by simp [h.2]), fun x hx h => absurd (hbusy x hx) (by simp [h.2])⟩
    refine ⟨fun hgood => ?_, ?_⟩
    · refine storePerforms ho hw hr hk rfl hclear (fun x hx => hgood _ (State.key_of_tileElems hx)) hword (fun t hends hwgs hmem hver =>
        ⟨hends, by rw [hwgs], fun k hout => ?_, fun hshadow => ?_, fun ha hs x hx hg j hj => ?_, fun ha hd x hx hg hw4 => ?_⟩)
      · obtain ⟨hb, hm⟩ := State.tilePuts_outside hword (l := s.launchOfWg w) (o := o) (k := k) (fun x hx hl => hout x (List.mem_filter.2 ⟨hx, by
          rw [(hl.resolve_left (Nat.not_le.2 (hkey x hx))).1]; rfl⟩))
        exact ⟨(hmem.2 k).trans hb, (hmem.1 k).trans hm⟩
      · have hno (k : Nat) := State.tilePuts_outside hword (l := s.launchOfWg w) (o := o) (k := k)
          (fun x hx hl => absurd (hl.resolve_left (Nat.not_le.2 (hkey x hx))).2 hshadow)
        exact ⟨fun k => (hmem.1 k).trans (hno k).2, fun k => (hmem.2 k).trans (hno k).1⟩
      · exact (hmem.2 _).trans (State.tilePuts_bytes hword ha hx (.inr ⟨hg, hs⟩) hj)
      · have hh := State.tilePuts_green hword ha hx (hkey x hx) hg hw4 hd
        unfold State.holdsWord at hh ⊢
        rw [hver]
        exact hh
    · rintro ⟨k, hm, hbad⟩
      rw [← State.tileElems_keys s w (s.launchOfWg w).world o (.va a) keys o.tile] at hm
      obtain ⟨y, hy, rfl⟩ := List.mem_map.1 hm
      refine (storeFaults ho hw hr hk rfl hclear hy hbad hword).imp (fun t ⟨hpoison, hthreads, hstands, hmem⟩ =>
        ⟨hpoison, hthreads, hstands, fun ha hs hq x hx hg hgood j hj => ?_⟩)
      refine ((hmem hq).2 _).trans (State.tilePuts_bytes (fun z hz => hword z (List.mem_filter.1 hz).1) ?_
        (List.mem_filter.2 ⟨hx, by rw [hgood]; rfl⟩) (.inr ⟨hg, hs⟩) hj)
      exact ha.sublist (List.filter_sublist.map _)

end Sys2Proof

end

section
/-! `hand` and `take` (spec 07, R189; 08, R226, R227). -/

namespace Sys2Proof.Machine

/-! An entry's owner tag. -/

theorem toNat_withOtag (e : BitVec 64) {tag : Nat} (h : tag < 16) :
    (withOtag e tag).toNat = e.toNat / 2 ^ 60 * 2 ^ 60 + tag * 2 ^ 56 + e.toNat % 2 ^ 56 := by
  have he := e.isLt
  unfold withOtag
  rw [BitVec.toNat_ofNat]
  omega

theorem getLsbD_eq_div (e : BitVec 64) (i : Nat) : e.getLsbD i = decide (e.toNat / 2 ^ i % 2 = 1) := by
  rw [← BitVec.testBit_toNat, Nat.testBit_eq_decide_div_mod_eq]

theorem toNat_extract (e : BitVec 64) (i n : Nat) : (e.extractLsb' i n).toNat = e.toNat / 2 ^ i % 2 ^ n := by
  rw [BitVec.extractLsb'_toNat, Nat.shiftRight_eq_div_pow]

theorem pteOtag_withOtag (e : BitVec 64) {tag : Nat} (h : tag < 16) : pteOtag (withOtag e tag) = tag := by
  unfold pteOtag
  rw [toNat_extract, toNat_withOtag e h]
  omega

/-- Every other field of an entry stays. -/
theorem withOtag_keeps (e : BitVec 64) {tag : Nat} (h : tag < 16) : pteAddr (withOtag e tag) = pteAddr e ∧
    pteValid (withOtag e tag) = pteValid e ∧ pteLeaf (withOtag e tag) = pteLeaf e ∧ pteW (withOtag e tag) = pteW e ∧
    pteGreen (withOtag e tag) = pteGreen e ∧ pteTgt (withOtag e tag) = pteTgt e ∧ pteX (withOtag e tag) = pteX e ∧
    pteSys (withOtag e tag) = pteSys e := by
  unfold pteAddr pteValid pteLeaf pteW pteGreen pteTgt pteX pteSys
  simp only [toNat_extract, getLsbD_eq_div, toNat_withOtag e h, decide_eq_decide]
  omega

/-! A page's owner tag. -/

/-- The page-table entry of a page with its new owner tag. -/
def State.flipLeaf (s : State) (world va tag : Nat) : State :=
  match (s.world? world).bind (fun w => w.leafKey s.mem va) with
  | some k => s.homePut k (natLe 8 (withOtag (BitVec.ofNat 64 (memNat s.mem k 8)) tag).toNat)
  | none => s

/-- A TLB entry with its new owner tag. -/
def TlbEntry.flip (tag : Nat) (t : TlbEntry) : TlbEntry := { t with leaf := withOtag t.leaf tag }

theorem State.flipLeaf_eq (s : State) (world va tag : Nat) : ∃ mem llcDirty iod, s.flipLeaf world va tag = { s with mem, llcDirty, iod } := by
  unfold State.flipLeaf
  split
  · exact s.homePut_eq ..
  · exact ⟨s.mem, s.llcDirty, s.iod, rfl⟩

theorem State.flipPage_eq (s : State) (world va tag : Nat) : s.flipPage world va tag =
    { s.flipLeaf world va tag with tlb := mapIf (fun t => t.covers world va) (TlbEntry.flip tag) s.tlb } := by
  obtain ⟨mem, llcDirty, iod, h⟩ := s.flipLeaf_eq world va tag
  have hx : s.flipPage world va tag = { s.flipLeaf world va tag with tlb := mapIf (fun t => t.covers world va) (TlbEntry.flip tag) (s.flipLeaf world va tag).tlb } := rfl
  rw [hx, h]

theorem TlbEntry.covers_setLeaf (t : TlbEntry) (leaf : BitVec 64) (world va : Nat) : { t with leaf }.covers world va = t.covers world va := rfl

theorem TlbEntry.covers_flip (tag : Nat) (t : TlbEntry) (world va : Nat) : (t.flip tag).covers world va = t.covers world va :=
  t.covers_setLeaf (withOtag t.leaf tag) world va

/-- An entry after a change of owner tag is an old one, with the new tag or as it was. -/
theorem State.mem_flipPage_tlb {s : State} {world va tag : Nat} {y : TlbEntry} (h : y ∈ (s.flipPage world va tag).tlb) :
    ∃ x ∈ s.tlb, y.covers = x.covers ∧ (if x.covers world va = true then y = x.flip tag else y = x) := by
  rw [State.flipPage_eq] at h
  obtain ⟨x, hx, hy⟩ := List.mem_map.1 h
  refine ⟨x, hx, ?_, ?_⟩
  · rw [← hy]
    split
    · exact funext (fun w => funext (fun v => x.covers_flip tag w v))
    · rfl
  · split
    next hc => rw [← hy, if_pos hc]
    next hc => rw [← hy, if_neg hc]

theorem State.flipPage_otag {s : State} {world va tag : Nat} (htag : tag < 16) {y : TlbEntry} (h : y ∈ (s.flipPage world va tag).tlb)
    (hc : y.covers world va = true) : pteOtag y.leaf = tag := by
  obtain ⟨x, -, hxy, hif⟩ := State.mem_flipPage_tlb h
  rw [hxy] at hc
  rw [if_pos hc] at hif
  rw [hif]
  exact pteOtag_withOtag _ htag

/-- After some pages are handed, every TLB entry of one of them has the new tag. -/
theorem State.flipPages_otag {world tag : Nat} (htag : tag < 16) (ps : List Nat) (s : State) :
    (∀ p ∈ ps, ∀ y ∈ (ps.foldl (fun s p => s.flipPage world p tag) s).tlb, y.covers world p = true → pteOtag y.leaf = tag) ∧
    ∀ y ∈ (ps.foldl (fun s p => s.flipPage world p tag) s).tlb, ∃ x ∈ s.tlb, y.covers = x.covers ∧ (pteOtag y.leaf = tag ∨ y = x) := by
  induction ps generalizing s with
  | nil => exact ⟨fun p hp => absurd hp List.not_mem_nil, fun y hy => ⟨y, hy, rfl, .inr rfl⟩⟩
  | cons p ps ih =>
    obtain ⟨hall, hold⟩ := ih (s.flipPage world p tag)
    refine ⟨List.forall_mem_cons.2 ⟨fun y hy hc => ?_, hall⟩, fun y hy => ?_⟩
    · obtain ⟨x, hx, hxy, ht | rfl⟩ := hold y hy
      · exact ht
      · exact State.flipPage_otag htag hx hc
    · obtain ⟨x, hx, hxy, hor⟩ := hold y hy
      obtain ⟨x', hx', hxx', hif⟩ := State.mem_flipPage_tlb hx
      refine ⟨x', hx', hxy.trans hxx', hor.elim .inl (fun he => ?_)⟩
      subst he
      split at hif
      · rw [hif]
        exact .inl (pteOtag_withOtag _ htag)
      · exact .inr hif

theorem State.flipPages_only {world tag : Nat} (ps : List Nat) (s : State) : ∃ mem llcDirty iod tlb,
    ps.foldl (fun s p => s.flipPage world p tag) s = { s with mem, llcDirty, iod, tlb } := by
  induction ps generalizing s with
  | nil => exact ⟨s.mem, s.llcDirty, s.iod, s.tlb, rfl⟩
  | cons p ps ih =>
    obtain ⟨mem, llcDirty, iod, h⟩ := s.flipLeaf_eq world p tag
    obtain ⟨mem', llcDirty', iod', tlb, h'⟩ := ih (s.flipPage world p tag)
    exact ⟨mem', llcDirty', iod', tlb, by rw [List.foldl_cons, h', State.flipPage_eq, h]⟩

/-- The entry of a page below host memory has the new tag, and no other byte changes. -/
theorem State.flipPage_mem {s : State} {world va k tag : Nat} {w : World} (hw : s.world? world = some w) (hk : w.leafKey s.mem va = some k)
    (hlt : k + 8 ≤ keyHost) : memNat (s.flipPage world va tag).mem k 8 = (withOtag (BitVec.ofNat 64 (memNat s.mem k 8)) tag).toNat ∧
      ∀ j, ¬ (k ≤ j ∧ j < k + 8) → memGet (s.flipPage world va tag).mem j = memGet s.mem j := by
  have hleaf : s.flipLeaf world va tag = s.homePut k (natLe 8 (withOtag (BitVec.ofNat 64 (memNat s.mem k 8)) tag).toNat) := by
    unfold State.flipLeaf
    rw [hw, Option.bind_some, hk]
  have hhost (j : Nat) (_ : k ≤ j) (h : j < k + (natLe 8 (withOtag (BitVec.ofNat 64 (memNat s.mem k 8)) tag).toNat).length) : isHost j = false := by
    rw [natLe_length] at h
    unfold isHost
    rw [decide_eq_false (by omega), Bool.false_and]
  rw [State.flipPage_eq]
  show memNat (s.flipLeaf world va tag).mem k 8 = _ ∧ ∀ j, _ → memGet (s.flipLeaf world va tag).mem j = _
  rw [hleaf]
  refine ⟨?_, fun j hj => s.memGet_homePut_of_not_mem _ (by rwa [natLe_length])⟩
  rw [s.homePut_mem_of_not_host k _ hhost, memNat_memPut_natLe]
  exact Nat.mod_eq_of_lt (withOtag _ tag).isLt

/-! Conditions that are clear. -/

theorem Cond.clear_and {c d : Cond} (hc : c.clear) (hd : d.clear) : (c.and d).clear := by
  obtain ⟨ht, hp, hf, ha⟩ := hc
  obtain ⟨ht', hp', hf', ha'⟩ := hd
  simp [Cond.clear, Cond.and, ht, hp, hf, ha, ht', hp', hf', ha']

theorem Cond.clear_foldl {l : List Cond} (h : ∀ c ∈ l, c.clear) {c : Cond} (hc : c.clear) : (l.foldl Cond.and c).clear := by
  induction l generalizing c with
  | nil => exact hc
  | cons x l ih => exact ih (fun y hy => h y (List.mem_cons_of_mem _ hy)) (Cond.clear_and hc (h x List.mem_cons_self))

/-! One flight for the group. -/

/-- The end of an instruction of the group's that issues one flight. -/
def State.sends (s : State) (e : Env) (m : Form) (ts : List Nat) (xs : List Elem) (reserve : Bool) : Out :=
  ((s.addFlight e m ts xs reserve [] s.nextId).modGroup e.g.id (fun g => { g with rejects := 0 })).done e

/-- A flight of the group's, added in a state with the flights and threads of `s`. -/
theorem sends_leads {s v : State} {e : Env} {g : Guard} (hf : v.flights = s.flights) (ht : v.threads = s.threads) (m : Form) (xs : List Elem) (reserve : Bool) :
    Out.Leads (v.sends e m (s.lanes e g) xs reserve) (fun t =>
      t.flights = s.flights ++ [v.newFlight e m (s.lanes e g) xs reserve [] v.nextId] ∧ t.mem = v.mem ∧ t.iod = v.iod ∧
      (m.spad = false → ∃ flights, t.tlb = ({ v with nextId := v.nextId + 1, flights }.fillPages e xs).tlb) ∧
      ThreadsBecome s t e (fun n x => if n ∈ s.lanes e g then (x.issued m.inLd).next else x.next)) := by
  obtain ⟨tlb, launches, h⟩ := v.addFlight_eq e m (s.lanes e g) xs reserve [] v.nextId
  have htlb (hm : m.spad = false) : (v.addFlight e m (s.lanes e g) xs reserve [] v.nextId).tlb =
      ({ v with nextId := v.nextId + 1, flights := v.flights ++ [v.newFlight e m (s.lanes e g) xs reserve [] v.nextId] }.fillPages e xs).tlb := by
    unfold State.addFlight
    dsimp only
    rw [State.modThreads_tlb, hm, if_neg Bool.false_ne_true]
    split
    · rfl
    · rfl
  unfold State.sends
  have hflights : (v.addFlight e m (s.lanes e g) xs reserve [] v.nextId).flights = s.flights ++ [v.newFlight e m (s.lanes e g) xs reserve [] v.nextId] := by
    rw [h, hf]
  have hmem : (v.addFlight e m (s.lanes e g) xs reserve [] v.nextId).mem = v.mem := by rw [h]
  have hiod : (v.addFlight e m (s.lanes e g) xs reserve [] v.nextId).iod = v.iod := by rw [h]
  have hthreads : (v.addFlight e m (s.lanes e g) xs reserve [] v.nextId).threads = (v.modThreads e.w.id (s.lanes e g) (fun t => t.issued m.inLd)).threads := by
    rw [h]
  generalize v.addFlight e m (s.lanes e g) xs reserve [] v.nextId = u at *
  refine ⟨_, rfl, (State.modThreads_flights ..).trans hflights, (State.modThreads_mem ..).trans hmem, (State.modThreads_iod ..).trans hiod,
    fun hm => ⟨_, (State.modThreads_tlb ..).trans (htlb hm)⟩, fun n hn => ?_, fun wg n hn => ?_⟩
  · rw [State.thread_progress, State.thread_advance _ _ _ hn, State.thread_modGroup, State.thread_congr hthreads, State.thread_modThreads,
      State.thread_congr ht]
    exact apply_ite Thread.next _ _ _
  · rw [State.thread_progress, State.thread_advance_other _ _ _ _ hn, State.thread_modGroup, State.thread_congr hthreads,
      State.thread_modThreads_other _ _ _ _ _ _ (fun u hu => hn u (State.lanes_sub hu)), State.thread_congr ht]

section
variable {s : State} {e : Env} {g : Guard} {f : FMC}

/-- The first lane of a group's that an instruction of one operation names. -/
def State.leadNum (s : State) (e : Env) (g : Guard) : Word :=
  verNum e.l (s.thread e.w.id ((s.lanes e g).foldl min ((s.lanes e g).headD 0))).sub

/-- The form of a `hand`'s flag, and of a `take`. -/
def handForm (scope : Nat) (pages : List (Nat × Nat)) : Form := { kind := fun _ => .store, scope, rel := true, pages }
def takeForm (scope : Nat) : Form := { kind := fun _ => .load, inLd := true, scope, acq := true }

theorem Issuable.take (h : Issuable s e g (.take g f)) (l : s.someLane e g) {c : Cond}
    (hc : s.globalCond e .read (s.leadNum e g) (e.pair f.f2 % 2 ^ 56) 4 [(f.f1.toNat % 256, 0)] = c) (hclear : c.clear)
    (hm : s.miss e (linesOf c.elems).length ≠ .reject) :
    ∃ reserve, exec (.take g f) s = s.sends e (takeForm (f.cl.toNat % 8)) (s.lanes e g) c.elems reserve := by
  have hw : worst [(0, c)] = none := worst_of_none (fun x hx => by rw [List.mem_singleton.1 hx]; exact hclear.1)
  unfold State.leadNum at hc
  refine ⟨s.miss e (linesOf c.elems).length == .reserve, ?_⟩
  show execTake g f s = _
  unfold execTake
  rw [h.groupOp l]
  simp only [hc, hw, hclear.2.2.2, parks_of_clear hclear, Bool.false_eq_true, if_false]
  rfl

theorem Issuable.hand (h : Issuable s e g (.hand g f)) (l : s.someLane e g) (hs : e.l.shadowOf = none) {n bits first : Nat} {pages : List Nat}
    {fc : Cond} {keys : List (Nat × Nat)} (hn : (e.s f.f2).toNat = n) (hp : s.handPages e f = (bits, pages)) (hfirst : e.pair f.f1 % 2 ^ 56 = first)
    (hc : s.globalCond e .write (s.leadNum e g) (e.pair f.f3 % 2 ^ 56) 4 [(255, e.s f.f4)] = fc)
    (hkeys : pages.flatMap (fun p => s.locKeys e.g.core e.gang.world (.va p, 2 ^ bits)) = keys) (h64 : n ≤ 64)
    (halign : n = 0 ∨ first % 2 ^ bits = 0) (hclear : fc.clear) (hpages : ∀ p ∈ pages, (s.handCond e bits p).clear)
    (hdeps : ∀ t ∈ s.lanes e g, s.depsMet (s.depsOf e.w.id t
      ⟨.hand, f.cl.toNat % 8, false, true, fc.elems.map (fun x => (x.key, x.size)) ++ keys, false, true, none⟩) = true)
    (hdrain : s.undrained keys = false) (hm : s.miss e (linesOf fc.elems).length ≠ .reject) :
    ∃ reserve, exec (.hand g f) s = ((pages.foldl (fun s p => s.flipPage e.gang.world p (f.cl.toNat / 8 % 16)) s).acts e).sends e
      (handForm (f.cl.toNat % 8) keys) (s.lanes e g) fc.elems reserve := by
  have halign' : (n != 0 && first % 2 ^ bits != 0) = false := by
    rcases halign with h | h <;> simp [h]
  have hall : ((pages.map (s.handCond e bits)).foldl Cond.and (({} : Cond).and fc)).clear :=
    Cond.clear_foldl (List.forall_mem_map.2 hpages) (Cond.clear_and ⟨rfl, rfl, rfl, rfl⟩ hclear)
  have hw : worst [(0, (pages.map (s.handCond e bits)).foldl Cond.and (({} : Cond).and fc))] = none :=
    worst_of_none (fun x hx => by rw [List.mem_singleton.1 hx]; exact hall.1)
  have hdeps' : (s.lanes e g).all (fun t => s.depsMet (s.depsOf e.w.id t
      ⟨.hand, f.cl.toNat % 8, false, true, fc.elems.map (fun x => (x.key, x.size)) ++ keys, false, true, none⟩)) = true := List.all_eq_true.2 hdeps
  unfold State.leadNum at hc
  refine ⟨s.miss e (linesOf fc.elems).length == .reserve, ?_⟩
  show execHand g f s = _
  unfold execHand
  rw [h.groupOp l]
  simp only [hs, Option.isSome_none, Bool.false_eq_true, if_false, hn, Nat.not_lt.2 h64, hp, hfirst, hc, halign', hw, hall.2.2.2,
    parks_of_clear hall, hkeys, hdeps', hdrain, Bool.not_true, Bool.or_self, beq_eq_false_iff_ne.2 hm]
  rfl

end

end Sys2Proof.Machine

namespace Sys2Proof
open Sys2Proof.Machine

/-- Settles O33: the change of owner tags by the rules for one page and one entry, and the flag and the acquire as one flight of the group. -/
theorem handAndTake : Obligations.HandAndTake := by
  refine ⟨?hand, fun e tag htag => ⟨pteOtag_withOtag e htag, withOtag_keeps e htag⟩, ?flip, ?take⟩
  case hand =>
    intro g f s e h l hs
    dsimp only
    intro hn halign hclear hpages hdeps hdrain hm
    obtain ⟨reserve, hx⟩ := h.hand l hs (bits := (s.handPages e f).1) (pages := (s.handPages e f).2) rfl rfl rfl rfl rfl hn halign hclear hpages hdeps hdrain hm
    obtain ⟨mem, llcDirty, iod, tlb, hflip⟩ := State.flipPages_only (world := e.gang.world) (tag := f.cl.toNat / 8 % 16) (s.handPages e f).2 s
    rw [hx]
    refine (sends_leads (s := s) (g := g) (by rw [hflip]; rfl) (by rw [hflip]; rfl) _ _ _).imp
      (fun t ⟨hflights, hmem, _, htlb, hbecome⟩ => ⟨⟨_, hflights, rfl, rfl, rfl, rfl, rfl, rfl⟩,
        ⟨hmem, (State.flipPages_otag (Nat.mod_lt _ (by decide)) _ s).1, ?_⟩, hbecome.1, hbecome.2⟩)
    obtain ⟨flights, htlb⟩ := htlb rfl
    refine ⟨_, ?_, ?_, ?_, htlb⟩
    · rfl
    · rfl
    · rfl
  case flip =>
    intro s world va tag htag
    refine ⟨fun y hy hc => State.flipPage_otag htag hy hc, fun y hy hc => ?_, ?_, fun w k hw hk hlt => State.flipPage_mem hw hk hlt⟩
    · rw [State.flipPage_eq]
      exact List.mem_map.2 ⟨y, hy, if_neg (Bool.eq_false_iff.1 hc)⟩
    · rw [State.flipPage_eq]
      exact List.length_map _
  case take =>
    intro g f s e h l
    dsimp only
    intro hclear hm
    obtain ⟨reserve, hx⟩ := h.take l rfl hclear hm
    rw [hx]
    exact (sends_leads (s := s) (g := g) rfl rfl _ _ _).imp (fun t ⟨hflights, hmem, hiod, _, hbecome⟩ =>
      ⟨sameMemory_iod hmem hiod, ⟨_, hflights, rfl, rfl, rfl, rfl, rfl⟩, hbecome.1, hbecome.2⟩)

end Sys2Proof

end

section
/-! Engine operations complete (spec 07, R167; 08, R214, R222; 10, R281). -/

namespace Sys2Proof.Machine

/-! An operation with nothing left to move. -/

/-- What the bytes of a landing may change. -/
def Credited (s t : State) : Prop := ∃ wgs gangs launches cores, t = { s with wgs, gangs, launches, cores }

theorem Credited.refl (s : State) : Credited s s := ⟨s.wgs, s.gangs, s.launches, s.cores, rfl⟩

theorem Credited.trans {s t u : State} (h : Credited s t) (h' : Credited t u) : Credited s u := by
  obtain ⟨_, _, _, _, rfl⟩ := h
  obtain ⟨_, _, _, _, rfl⟩ := h'
  exact ⟨_, _, _, _, rfl⟩

theorem State.modCore_credited (s : State) (c : Nat) (f : CoreRegs → CoreRegs) : Credited s (s.modCore c f) := ⟨_, _, _, _, rfl⟩

theorem State.putBar_credited (s : State) (w : Workgroup) (level n : Nat) (b : Barrier) : Credited s (s.putBar w level n b) := by
  unfold State.putBar
  split <;> exact ⟨_, _, _, _, rfl⟩

theorem State.tryBar_credited (s : State) (l : Launch) (w : Workgroup) (level n : Nat) : Credited s (s.tryBar l w level n) := by
  unfold State.tryBar
  split
  · exact s.putBar_credited ..
  · exact .refl s

theorem State.credit_credited (s : State) (l : Launch) (w : Workgroup) (core level n : Nat) (phase : Word) (bytes : Nat) :
    Credited s (s.credit l w core level n phase bytes) := by
  have drop (s : State) (x : Nat) : Credited s (if x == 0 then s else s.modCore core (fun c => { c with dropCredit := c.dropCredit + x })) := by
    split
    · exact .refl s
    · exact s.modCore_credited ..
  unfold State.credit
  dsimp only
  split
  · exact drop s bytes
  · exact ((s.putBar_credited ..).trans (drop _ _)).trans (State.tryBar_credited ..)

theorem State.creditLanding_credited (s : State) (o : EngineOp) : Credited s (s.creditLanding o) := by
  unfold State.creditLanding
  split
  · exact .refl s
  · dsimp only
    split
    · exact s.credit_credited ..
    · exact s.modCore_credited ..

/-- An operation that has performed is gone with its locks, and its threads count one less. -/
def EngineGone (s t : State) (op : Nat) (o : EngineOp) : Prop :=
  SameMemory s t ∧ t.engines = s.engines.filter (fun x => !(x.id == op)) ∧ (∀ k ∈ t.locks, k.owner ≠ op) ∧
  (s.wgs.any (fun w => w.id == o.wg) = true → ∀ n ∈ o.tids, (t.thread o.wg n).cp = (s.thread o.wg n).cp - 1 ∧
    (t.thread o.wg n).vregs = (s.thread o.wg n).vregs)

theorem EngineGone.credited {s t u : State} {op : Nat} {o : EngineOp} (h : EngineGone s t op o) (hu : Credited t u) : EngineGone s u op o := by
  obtain ⟨wgs, gangs, launches, cores, rfl⟩ := hu
  exact h

theorem State.engine?_id {s : State} {op : Nat} {o : EngineOp} (h : s.engine? op = some o) : o.id = op :=
  beq_iff_eq.1 (List.find?_some (p := fun (o : EngineOp) => o.id == op) h)

theorem filter_mapIf_engine (op : Nat) (f : EngineOp → EngineOp) (hf : ∀ x, (f x).id = x.id) (l : List EngineOp) :
    (mapIf (fun x => x.id == op) f l).filter (fun x => !(x.id == op)) = l.filter (fun x => !(x.id == op)) := by
  induction l with
  | nil => rfl
  | cons x l ih =>
    unfold mapIf at ih ⊢
    by_cases hx : (x.id == op) = true
    · rw [List.map_cons, if_pos hx, List.filter_cons_of_neg (by simp [hf, hx]), List.filter_cons_of_neg (by simp [hx]), ih]
    · rw [List.map_cons, if_neg hx, List.filter_cons_of_pos (by simp [hx]), List.filter_cons_of_pos (by simp [hx]), ih]

/-- An operation that lands, in a state that has changed since `s` only its own record, memory apart. -/
theorem engineGone_landEngine {s p : State} {op : Nat} {o : EngineOp} (hid : o.id = op) (hmem : SameMemory s p) (hthreads : p.threads = s.threads)
    (hwgs : p.wgs = s.wgs) (hengines : p.engines.filter (fun x => !(x.id == op)) = s.engines.filter (fun x => !(x.id == op))) :
    EngineGone s (p.landEngine o) op o := by
  subst hid
  have hl : ∃ threads, p.landEngine o = { p with threads, locks := p.locks.filter (fun k => !(k.owner == o.id && true)), engines := p.engines.filter (fun x => !(x.id == o.id)) } ∧
      threads = (p.modLive o.wg o.tids (fun t => { t with cp := t.cp - 1 })).threads := by
    obtain ⟨threads, h⟩ := p.modLive_only o.wg o.tids (fun t => { t with cp := t.cp - 1 })
    refine ⟨threads, ?_, by rw [h]⟩
    unfold State.landEngine State.unlock
    rw [h]
  obtain ⟨threads, hl, hth⟩ := hl
  rw [hl]
  refine ⟨hmem.trans (sameMemory_iod rfl rfl), hengines, fun k hk => ?_, fun hwg n hn => ?_⟩
  · have hp := (List.mem_filter.1 hk).2
    simpa using hp
  · have hthread := State.thread_modThreads p o.wg o.tids (fun t => { t with cp := t.cp - 1 }) n
    rw [if_pos hn, State.thread_congr hthreads] at hthread
    have hx : State.thread { p with threads, locks := p.locks.filter (fun k => !(k.owner == o.id && true)), engines := p.engines.filter (fun x => !(x.id == o.id)) } o.wg n =
        (p.modThreads o.wg o.tids (fun t => { t with cp := t.cp - 1 })).thread o.wg n := by
      rw [← State.modLive_of_live (s := p) (by rw [hwgs]; exact hwg)]
      exact State.thread_congr hth ..
    rw [hx, hthread]
    exact ⟨rfl, rfl⟩

/-- An operation that has read everything, and one with words left to write. -/
def EngineOp.allRead (more : List (Loc × List Byte)) (o : EngineOp) : EngineOp := { o with todo := [], buf := o.buf ++ more }
def EngineOp.withBuf (buf : List (Loc × List Byte)) (o : EngineOp) : EngineOp := { o with buf }

section
variable {s : State} {op : Nat} {o : EngineOp}

/-- The state in which an operation has read everything. -/
def State.allRead (s : State) (o : EngineOp) (more : List (Loc × List Byte)) : State :=
  (s.modEngine o.id (EngineOp.allRead more)).unlock o.id (fun k => !k.dst)

theorem State.readRest_of {words : List (Loc × List Byte)} {rest : List Seg} (ho : s.engine? op = some o) (hrows : o.rows = [])
    (hread : s.readWords (s.launchOfOp o) o (o.todo.flatMap Seg.each) = (s, words, rest, none)) : s.readRest o = some (s.allRead o words) := by
  obtain rfl := State.engine?_id ho
  have hmod : (s.modEngine o.id (fun o => { o with todo := [], buf := o.buf ++ words })).engine? o.id = some (o.allRead words) := by
    refine (State.engine?_modEngine s o.id (EngineOp.allRead words) (fun _ => rfl)).trans ?_
    rw [ho]
    rfl
  unfold State.readRest State.freeSource
  simp only [hread, Option.isSome_none, hrows, List.isEmpty_nil, Bool.not_true, Bool.or_self, Bool.false_eq_true, if_false, hmod, EngineOp.allRead, Bool.and_self, if_true]
  rfl

theorem State.engine?_allRead (ho : s.engine? op = some o) (more : List (Loc × List Byte)) :
    (s.allRead o more).engine? op = some (o.allRead more) := by
  obtain rfl := State.engine?_id ho
  refine (State.engine?_modEngine s o.id (EngineOp.allRead more) (fun _ => rfl)).trans ?_
  rw [ho]
  rfl

/-- An operation that moves words one by one. -/
def EngineOp.plain (o : EngineOp) : Prop := o.kind = .copy ∨ o.kind = .gather ∨ (∃ a b c d, o.kind = .bins a b c d) ∨ ∃ n seq, o.kind = .ring n seq

theorem State.drainBuf_plain (hk : o.plain) (htodo : o.todo = []) (l : Launch) :
    s.drainBuf l o 0 o.buf.length = ((s.writeWords l o.id o.buf).1.modEngine o.id (fun x => { x with buf := (s.writeWords l o.id o.buf).2.1 }),
      (s.writeWords l o.id o.buf).2.2) := by
  have hall : o.buf.partition o.wordRead = (o.buf, []) := by
    have hread (b : Loc × List Byte) : o.wordRead b = true := by
      unfold EngineOp.wordRead
      simp [htodo]
    rw [List.partition_eq_filter_filter, List.filter_eq_self.2 (fun b _ => hread b), List.filter_eq_nil_iff.2 (fun b _ => by simp [hread b])]
  have hjoin : joinWords (fun (b : Loc × List Byte) => b.1) (fun b => b.2.length) o.buf [] = ([], []) := by
    unfold joinWords
    dsimp only
    split
    · rfl
    · rfl
  unfold State.drainBuf
  rcases hk with h | h | ⟨_, _, _, _, h⟩ | ⟨_, _, h⟩ <;>
    simp only [h, List.drop_zero, List.take_length, hall, List.take_zero, List.drop_length, List.append_nil, hjoin]

/-- A plain operation that has read all it must and can write it is complete. -/
theorem State.finishCopy_of {words : List (Loc × List Byte)} {rest : List Seg} (ho : s.engine? op = some o) (hs : o.stage = .running) (hrows : o.rows = [])
    (hover : s.overdue o = false) (hk : o.plain) (hread : s.readWords (s.launchOfOp o) o (o.todo.flatMap Seg.each) = (s, words, rest, none))
    {t : State} {left : List (Loc × List Byte)}
    (hwrite : (s.allRead o words).writeWords ((s.allRead o words).launchOfOp (o.allRead words)) op (o.buf ++ words) = (t, left, none)) :
    s.finishCopy o = some ((t.modEngine op (EngineOp.withBuf left)).landEngine o) := by
  obtain rfl := State.engine?_id ho
  have hdrain := State.drainBuf_plain (s := s.allRead o words) (o := o.allRead words) hk rfl
    ((s.allRead o words).launchOfOp (o.allRead words))
  have hwrite' : (s.allRead o words).writeRest o.id = some (t.modEngine o.id (EngineOp.withBuf left)) := by
    have hwords : (s.allRead o words).writeWords ((s.allRead o words).launchOfOp (o.allRead words)) (o.allRead words).id (o.allRead words).buf =
        (t, left, none) := hwrite
    unfold State.writeRest
    simp only [State.engine?_allRead ho, hdrain, hwords]
    rfl
  unfold State.finishCopy
  rw [if_neg (by simp [hs, hover]), State.readRest_of ho hrows hread, Option.bind_some, hwrite']
  rfl

/-- A plain operation with nothing left lands. -/
theorem State.finishCopy_empty (ho : s.engine? op = some o) (hs : o.stage = .running) (htodo : o.todo = []) (hbuf : o.buf = []) (hrows : o.rows = [])
    (hover : s.overdue o = false) (hk : o.plain) : ∃ t, s.finishCopy o = some t ∧ EngineGone s t op o ∧ t.wgs = s.wgs := by
  have hread : s.readWords (s.launchOfOp o) o (o.todo.flatMap Seg.each) = (s, [], [], none) := by
    rw [htodo]
    rfl
  have hwrite : (s.allRead o []).writeWords ((s.allRead o []).launchOfOp (o.allRead [])) op (o.buf ++ []) =
      (s.allRead o [], [], none) := by
    rw [hbuf]
    rfl
  refine ⟨_, State.finishCopy_of ho hs hrows hover hk hread hwrite, engineGone_landEngine (State.engine?_id ho) (sameMemory_iod rfl rfl) rfl rfl ?_, ?_⟩
  · obtain rfl := State.engine?_id ho
    refine (filter_mapIf_engine o.id (EngineOp.withBuf []) (fun _ => rfl) _).trans ?_
    exact filter_mapIf_engine o.id (EngineOp.allRead []) (fun _ => rfl) _
  · obtain ⟨threads, hl⟩ := State.modLive_only ((s.allRead o []).modEngine op (EngineOp.withBuf [])) o.wg o.tids (fun t => { t with cp := t.cp - 1 })
    unfold State.landEngine
    rw [hl]
    rfl

end

/-! A copy within resident scratchpad (spec 08, R214). -/

/-- The bytes of a scratchpad place of a workgroup whose pages are in their frames. -/
theorem State.meetSpad_of_present {s : State} {w x : Nat} (h : ∀ p y, s.stt? w p = some y → y.present = true) (a : Access) :
    s.meetSpad a w x = .ok (spadKey w x) false := by
  unfold State.meetSpad
  cases hp : s.stt? w (x / 1024) with
  | none => rfl
  | some y => simp only [h _ y hp, Bool.true_or, if_true]

theorem State.present_soil {s : State} {w k : Nat} (h : ∀ p y, s.stt? w p = some y → y.present = true) :
    ∀ p y, (s.soil k).stt? w p = some y → y.present = true := by
  intro p y hy
  unfold State.soil at hy
  split at hy
  · exact h p y hy
  · have hfind : (s.modStt ((k - keySpad) / 2 ^ 24) (k % 2 ^ 24 / 1024) (fun y => { y with dirty := true })).stt? w p =
        (s.stt? w p).map (fun x => if (x.wg == (k - keySpad) / 2 ^ 24 && x.page == k % 2 ^ 24 / 1024) = true then { x with dirty := true } else x) := by
      unfold State.modStt State.stt? mapIf
      rw [List.find?_map]
      have hcomp : ((fun x : SttEntry => x.wg == w && x.page == p) ∘ (fun x : SttEntry =>
          if (x.wg == (k - keySpad) / 2 ^ 24 && x.page == k % 2 ^ 24 / 1024) = true then { x with dirty := true } else x)) =
          (fun x : SttEntry => x.wg == w && x.page == p) := by
        funext x
        dsimp only [Function.comp]
        split
        · rfl
        · rfl
      rw [hcomp]
    rw [hfind] at hy
    obtain ⟨x, hx, rfl⟩ := Option.map_eq_some_iff.1 hy
    have hpres := h p x hx
    split
    · exact hpres
    · exact hpres

theorem natLe_leNat (bs : List Byte) : natLe bs.length (leNat bs) = bs := by
  induction bs with
  | nil => rfl
  | cons b bs ih =>
    have hb := b.isLt
    have hdiv : (b.toNat + 256 * leNat bs) / 256 = leNat bs := by omega
    have hmod : BitVec.ofNat 8 (b.toNat + 256 * leNat bs) = b := BitVec.eq_of_toNat_eq (by rw [BitVec.toNat_ofNat]; omega)
    rw [leNat, List.length_cons, natLe, hdiv, hmod, ih]

theorem leNat_toWord {bs : List Byte} (h : bs.length ≤ 4) : natLe bs.length (BitVec.ofNat 32 (leNat bs)).toNat = bs := by
  have hlt : leNat bs < 2 ^ 32 := Nat.lt_of_lt_of_le (leNat_lt bs) (Nat.pow_le_pow_right (by decide) h)
  rw [BitVec.toNat_ofNat, Nat.mod_eq_of_lt hlt, natLe_leNat]

theorem spadKey_not_host {w x j : Nat} (h : spadKey w x ≤ j) : isHost j = false := by
  have hp : keyPeer ≤ keySpad := by decide
  unfold spadKey at h
  unfold isHost
  rw [decide_eq_false (p := j < keyPeer) (by omega), Bool.and_false]

/-- A copy of an engine that writes into one workgroup's scratchpad, all of whose listed pages are in their frames. -/
def CopyWrites (s : State) (op w : Nat) : Prop := (∃ o, s.engine? op = some o ∧ o.kind = .copy ∧ o.skip = []) ∧
  ∀ p y, s.stt? w p = some y → y.present = true

/-- One word of a copy into scratchpad: its bytes, and no other. -/
theorem State.writeWord_spad {s : State} {op w x : Nat} {o : EngineOp} {bytes : List Byte} (ho : s.engine? op = some o) (hk : o.kind = .copy)
    (hskip : o.skip = []) (hpres : ∀ p y, s.stt? w p = some y → y.present = true) (hlen : bytes.length ≤ 4) (l : Launch) :
    ∃ t, s.writeWord l o (.spad w x) bytes = .inl t ∧ CopyWrites t op w ∧
      (∀ j, j < bytes.length → memGet t.mem (spadKey w x + j) = listGet 0 bytes j) ∧
      ∀ k, ¬ (spadKey w x ≤ k ∧ k < spadKey w x + bytes.length) → memGet t.mem k = memGet s.mem k := by
  have hover : ∃ engines, s.overtake o (.spad w x) bytes.length (spadKey w x) = { s with engines } ∧
      State.engine? { s with engines } op = some o := by
    refine ⟨_, rfl, Eq.trans (find_mapIf_of _ _ _ (fun y hy => ?_) (fun y hy => ?_) _) ho⟩
    · rw [State.engine?_id ho, beq_iff_eq.1 hy]
      simp
    · have hlt : y.id < o.id := by
        simp only [Bool.and_eq_true, decide_eq_true_eq] at hy
        exact hy.1.2
      rw [State.engine?_id ho] at hlt
      exact beq_eq_false_iff_ne.2 (Nat.ne_of_lt hlt)
  obtain ⟨engines, hover, hfind⟩ := hover
  have hwrite : s.writeWord l o (.spad w x) bytes = .inl ((State.homePut { s with engines } (spadKey w x) bytes).soil (spadKey w x)) := by
    unfold State.writeWord
    simp only [hk]
    unfold State.meetLoc
    simp only [State.meetSpad_of_present hpres]
    unfold State.fillLoc State.putWord
    have hge : keySpad ≤ spadKey w x := by unfold spadKey; omega
    simp only [hskip, List.any_nil, Bool.not_false, if_true, hover]
    unfold State.engineElem
    simp only [Nat.not_lt.2 hge, decide_false, Bool.false_and, Bool.false_eq_true, if_false]
    rw [State.writeElem_spad hge, leNat_toWord hlen]
  obtain ⟨mem, llcDirty, iod, hput⟩ := State.homePut_eq { s with engines } (spadKey w x) bytes
  have hmem := State.homePut_mem_of_not_host { s with engines } (spadKey w x) bytes (fun j hj _ => spadKey_not_host hj)
  obtain ⟨stt, hsoil⟩ := (State.homePut { s with engines } (spadKey w x) bytes).soil_eq (spadKey w x)
  refine ⟨_, hwrite, ⟨⟨o, ?_, hk, hskip⟩, ?_⟩, fun j hj => ?_, fun k hk => ?_⟩
  · rw [hsoil, hput]
    exact hfind
  · refine State.present_soil (fun p y hy => hpres p y ?_)
    rw [hput] at hy
    exact hy
  · have hb := State.homeByte_homePut { s with engines } (spadKey w x) (spadKey w x + j) bytes
    rw [if_pos (by omega), Nat.add_sub_cancel_left, State.homeByte_of_not_host (spadKey_not_host (w := w) (x := x) (by omega))] at hb
    rw [hsoil]
    exact hb
  · rw [hsoil]
    exact State.memGet_homePut_of_not_mem { s with engines } bytes hk

/-- Words of a copy that each hold what a function gives their bytes: all their bytes hold it after, and no other byte changes. -/
theorem State.writeWords_spad {op w : Nat} (F : Nat → Byte) (l : Launch) (bs : List (Loc × List Byte)) (s : State) (hs : CopyWrites s op w)
    (hbs : ∀ b ∈ bs, ∃ x bytes, b = (.spad w x, bytes) ∧ bytes.length ≤ 4 ∧ ∀ j, j < bytes.length → listGet 0 bytes j = F (spadKey w x + j)) :
    ∃ t, s.writeWords l op bs = (t, [], none) ∧
      (∀ k, (∃ x bytes, (Loc.spad w x, bytes) ∈ bs ∧ spadKey w x ≤ k ∧ k < spadKey w x + bytes.length) → memGet t.mem k = F k) ∧
      ∀ k, (∀ x bytes, (Loc.spad w x, bytes) ∈ bs → ¬ (spadKey w x ≤ k ∧ k < spadKey w x + bytes.length)) → memGet t.mem k = memGet s.mem k := by
  induction bs generalizing s with
  | nil => exact ⟨s, rfl, fun k ⟨x, bytes, h, _⟩ => absurd h List.not_mem_nil, fun _ _ => rfl⟩
  | cons b bs ih =>
    obtain ⟨⟨o, ho, hk, hskip⟩, hpres⟩ := hs
    obtain ⟨x, bytes, rfl, hlen, hF⟩ := hbs b List.mem_cons_self
    obtain ⟨u, hu, hready, hin, hout⟩ := State.writeWord_spad (x := x) ho hk hskip hpres hlen l
    obtain ⟨t, ht, hall, hother⟩ := ih u hready (fun b hb => hbs b (List.mem_cons_of_mem _ hb))
    refine ⟨t, ?_, fun k hc => ?_, fun k hno => ?_⟩
    · rw [State.writeWords]
      simp only [ho, hu]
      exact ht
    · by_cases hlater : ∃ x bytes, (Loc.spad w x, bytes) ∈ bs ∧ spadKey w x ≤ k ∧ k < spadKey w x + bytes.length
      · exact hall k hlater
      · obtain ⟨y, bytes', hm, hle, hlt⟩ := hc
        have heq : (Loc.spad w y, bytes') = (Loc.spad w x, bytes) :=
          (List.mem_cons.1 hm).resolve_right (fun hm => hlater ⟨y, bytes', hm, hle, hlt⟩)
        obtain ⟨hy, rfl⟩ := Prod.mk.inj heq
        injection hy with _ hy
        subst hy
        rw [hother k (fun z cs hz hc => hlater ⟨z, cs, hz, hc⟩)]
        have hj := hin (k - spadKey w y) (by omega)
        rw [hF _ (by omega), Nat.add_sub_cancel' hle] at hj
        exact hj
    · rw [hother k (fun z cs hz => hno z cs (List.mem_cons_of_mem _ hz))]
      exact hout k (hno x bytes List.mem_cons_self)

/-! The pieces of a copy within scratchpad. -/

/-- A piece of such a copy: some bytes of it, at most a word of them. -/
def SpadPiece (v a w b n : Nat) (g : Seg) : Prop := ∃ d m, g = ⟨.spad v (a + d), .spad w (b + d), m⟩ ∧ m ≤ 4 ∧ d + m ≤ n

theorem Loc.add_spad {w a n : Nat} (h : a + n < 2 ^ 24) : (Loc.spad w a).add n = .spad w (a + n) := by
  unfold Loc.add
  simp only [Nat.mod_eq_of_lt h]

section
variable {v a w b n : Nat}

theorem spadPiece_word (ha : a + n ≤ 2 ^ 24) (hb : b + n ≤ 2 ^ 24) {i : Nat} (hi : i < (n + 3) / 4) :
    ((⟨.spad v a, .spad w b, n⟩ : Seg).after i).upto 1 = ⟨.spad v (a + 4 * i), .spad w (b + 4 * i), min (n - 4 * i) 4⟩ := by
  unfold Seg.after Seg.upto
  dsimp only
  rw [Loc.add_spad (by omega), Loc.add_spad (by omega)]

/-- The pieces a word of a copy is cut into are such pieces, and have all its bytes. -/
theorem spadPiece_cut {d m : Nat} (ha : a + n ≤ 2 ^ 24) (hb : b + n ≤ 2 ^ 24) (hm : m ≤ 4) (hd : d + m ≤ n) :
    (∀ g ∈ (⟨.spad v (a + d), .spad w (b + d), m⟩ : Seg).cut, SpadPiece v a w b n g) ∧
    ∀ j, d ≤ j → j < d + m → ∃ d' m', (⟨.spad v (a + d'), .spad w (b + d'), m'⟩ : Seg) ∈ (⟨.spad v (a + d), .spad w (b + d), m⟩ : Seg).cut ∧ d' ≤ j ∧ j < d' + m' := by
  unfold Seg.cut Loc.inWord
  dsimp only
  split
  · exact ⟨fun g hg => ⟨d, m, List.mem_singleton.1 hg, hm, hd⟩, fun j hle hlt => ⟨d, m, List.mem_singleton.2 rfl, hle, hlt⟩⟩
  next hcut =>
    rw [Loc.add_spad (by omega), Loc.add_spad (by omega), Nat.add_assoc, Nat.add_assoc]
    refine ⟨fun g hg => ?_, fun j hle hlt => ?_⟩
    · rcases List.mem_cons.1 hg with rfl | hg
      · exact ⟨d, _, rfl, by omega, by omega⟩
      · exact ⟨_, _, List.mem_singleton.1 hg, by omega, by omega⟩
    · by_cases hj : j < d + (4 - (b + d) % 4)
      · exact ⟨d, _, List.mem_cons_self, hle, hj⟩
      · exact ⟨_, _, List.mem_cons_of_mem _ (List.mem_singleton.2 rfl), by omega, by omega⟩

theorem spadPieces (ha : a + n ≤ 2 ^ 24) (hb : b + n ≤ 2 ^ 24) : (∀ g ∈ (⟨.spad v a, .spad w b, n⟩ : Seg).each, SpadPiece v a w b n g) ∧
    ∀ j, j < n → ∃ d m, (⟨.spad v (a + d), .spad w (b + d), m⟩ : Seg) ∈ (⟨.spad v a, .spad w b, n⟩ : Seg).each ∧ d ≤ j ∧ j < d + m := by
  unfold Seg.each
  refine ⟨fun g hg => ?_, fun j hj => ?_⟩
  · obtain ⟨i, hi, hg⟩ := List.mem_flatMap.1 hg
    have hi' : i < (n + 3) / 4 := List.mem_range.1 hi
    rw [spadPiece_word ha hb hi'] at hg
    exact (spadPiece_cut ha hb (Nat.min_le_right ..) (by omega)).1 g hg
  · have hi : j / 4 < (n + 3) / 4 := by omega
    obtain ⟨d, m, hm, hle, hlt⟩ := (spadPiece_cut (v := v) (w := w) (d := 4 * (j / 4)) (m := min (n - 4 * (j / 4)) 4) ha hb (Nat.min_le_right ..) (by omega)).2 j
      (by omega) (by omega)
    refine ⟨d, m, List.mem_flatMap.2 ⟨j / 4, List.mem_range.2 hi, ?_⟩, hle, hlt⟩
    rw [spadPiece_word ha hb hi]
    exact hm

end

/-- What an engine reads of scratchpad. -/
theorem State.engineNat_spad (s : State) (l : Launch) (core k n : Nat) (h : keySpad ≤ k) : s.engineNat l core k false n = memNat s.mem k n := by
  unfold State.engineNat memNat
  induction n generalizing k with
  | zero => rfl
  | succ n ih =>
    rw [State.loadNat, ih _ (by omega), memBytes, leNat]
    unfold State.loadByte
    rw [if_pos h]

theorem listGet_memBytes (m : List Host.Cell) (a n : Nat) {j : Nat} (h : j < n) : listGet 0 (memBytes m a n) j = memGet m (a + j) := by
  induction n generalizing a j with
  | zero => cases h
  | succ n ih =>
    cases j with
    | zero => rfl
    | succ j =>
      rw [memBytes, listGet, ih _ (Nat.lt_of_succ_lt_succ h)]
      congr 1
      omega

/-- The pieces of a copy within resident scratchpad are read. -/
theorem State.readWords_spad {s : State} {v a w b n : Nat} (hpres : ∀ p y, s.stt? v p = some y → y.present = true) (l : Launch) (o : EngineOp)
    (gs : List Seg) (hg : ∀ g ∈ gs, SpadPiece v a w b n g) :
    s.readWords l o gs = (s, gs.map (fun g => (g.dst, natLe g.len (s.engineNat l o.core (spadKey v g.src.addr) false g.len))), [], none) := by
  induction gs with
  | nil => rfl
  | cons g gs ih =>
    obtain ⟨d, m, rfl, -, -⟩ := hg g List.mem_cons_self
    have hmeet : s.meetRead l o ⟨.spad v (a + d), .spad w (b + d), m⟩ = .ok (spadKey v (a + d)) false := by
      unfold State.meetRead State.meetLoc
      simp only [State.meetSpad_of_present hpres]
    rw [State.readWords, hmeet]
    simp only [Bool.false_eq_true, if_false]
    unfold State.fillLoc
    simp only [ih (fun g hg' => hg g (List.mem_cons_of_mem _ hg')), List.map_cons]
    rfl

theorem spadKey_add {w b d : Nat} (h : b + d < 2 ^ 24) : spadKey w (b + d) = spadKey w b + d := by
  unfold spadKey
  omega

theorem listGet_spadBytes (s : State) {v a d m : Nat} (l : Launch) (core : Nat) {j : Nat} (hj : j < m) (h : a + d + j < 2 ^ 24) :
    listGet 0 (natLe m (s.engineNat l core (spadKey v (a + d)) false m)) j = memGet s.mem (spadKey v (a + (d + j))) := by
  have hbytes := natLe_leNat (memBytes s.mem (spadKey v (a + d)) m)
  rw [memBytes_length] at hbytes
  rw [s.engineNat_spad l core _ m (by unfold spadKey; omega), memNat, hbytes, listGet_memBytes _ _ _ hj, spadKey_add (by omega), spadKey_add (by omega),
    Nat.add_assoc]

/-- A copy within resident scratchpad puts each byte of its source at its place. -/
theorem State.finishCopy_spad {s : State} {op v a w b n : Nat} {o : EngineOp} (ho : s.engine? op = some o) (hs : o.stage = .running)
    (hk : o.kind = .copy) (htodo : o.todo = [⟨.spad v a, .spad w b, n⟩]) (hbuf : o.buf = []) (hrows : o.rows = []) (hskip : o.skip = [])
    (hover : s.overdue o = false) (ha : a + n ≤ 2 ^ 24) (hb : b + n ≤ 2 ^ 24)
    (hpres : ∀ p x, s.stt? v p = some x ∨ s.stt? w p = some x → x.present = true) :
    ∃ t, s.finishCopy o = some t ∧ (∀ j, j < n → memGet t.mem (spadKey w (b + j)) = memGet s.mem (spadKey v (a + j))) ∧
      ∀ k, ¬ (spadKey w b ≤ k ∧ k < spadKey w b + n) → memGet t.mem k = memGet s.mem k := by
  obtain ⟨hpieces, hcover⟩ := spadPieces (v := v) (w := w) ha hb
  have hread := State.readWords_spad (fun p y h => hpres p y (.inl h)) (s.launchOfOp o) o _ hpieces
  generalize hws : (⟨.spad v a, .spad w b, n⟩ : Seg).each.map (fun g => (g.dst, natLe g.len (s.engineNat (s.launchOfOp o) o.core
    (spadKey v g.src.addr) false g.len))) = words at hread
  have hword (x : Loc × List Byte) (hx : x ∈ words) : ∃ d m, x = (.spad w (b + d), natLe m (s.engineNat (s.launchOfOp o) o.core (spadKey v (a + d)) false m)) ∧
      m ≤ 4 ∧ d + m ≤ n := by
    rw [← hws] at hx
    obtain ⟨g, hg, rfl⟩ := List.mem_map.1 hx
    obtain ⟨d, m, rfl, hm, hd⟩ := hpieces g hg
    exact ⟨d, m, rfl, hm, hd⟩
  have hready : CopyWrites (s.allRead o words) op w := ⟨⟨_, State.engine?_allRead ho words, hk, hskip⟩, fun p y h => hpres p y (.inr h)⟩
  obtain ⟨t, ht, hin, hout⟩ := State.writeWords_spad (fun k => memGet s.mem (spadKey v (a + (k - spadKey w b))))
    ((s.allRead o words).launchOfOp (o.allRead words)) words (s.allRead o words) hready (fun x hx => by
      obtain ⟨d, m, rfl, hm, hd⟩ := hword x hx
      refine ⟨_, _, rfl, by rw [natLe_length]; exact hm, fun j hj => ?_⟩
      rw [natLe_length] at hj
      rw [listGet_spadBytes s _ _ hj (by omega), spadKey_add (w := w) (b := b) (by omega), Nat.add_assoc (spadKey w b), Nat.add_sub_cancel_left])
  have hread' : s.readWords (s.launchOfOp o) o (o.todo.flatMap Seg.each) = (s, words, [], none) := by
    rw [htodo, List.flatMap_singleton]
    exact hread
  have hwrite : (s.allRead o words).writeWords ((s.allRead o words).launchOfOp (o.allRead words)) op (o.buf ++ words) = (t, [], none) := by
    rw [hbuf]
    exact ht
  refine ⟨_, State.finishCopy_of ho hs hrows hover (.inl hk) hread' hwrite, fun j hj => ?_, fun k hno => ?_⟩
  · rw [State.landEngine_mem, State.modEngine_mem]
    obtain ⟨d, m, hg, hle, hlt⟩ := hcover j hj
    refine (hin _ ⟨b + d, _, hws ▸ List.mem_map_of_mem hg, ?_⟩).trans ?_
    · rw [natLe_length]
      show spadKey w (b + d) ≤ _ ∧ _ < spadKey w (b + d) + m
      rw [spadKey_add (by omega), spadKey_add (by omega)]
      omega
    · rw [spadKey_add (w := w) (by omega), Nat.add_sub_cancel_left]
  · rw [State.landEngine_mem, State.modEngine_mem]
    refine hout k (fun x bytes hx hc => hno ?_)
    obtain ⟨d, m, heq, hm, hd⟩ := hword _ hx
    obtain ⟨hplace, rfl⟩ := Prod.mk.inj heq
    obtain ⟨-, rfl⟩ := Loc.spad.inj hplace
    rw [natLe_length] at hc
    rw [spadKey_add (by omega)] at hc
    omega

end Sys2Proof.Machine

namespace Sys2Proof
open Sys2Proof.Machine

/-- Settles O31: with nothing left an operation lands and is gone; a copy within scratchpad by the pieces it is cut into, each read and written. -/
theorem engineOperationsComplete : Obligations.EngineOperationsComplete := by
  refine ⟨fun s op o ho hs htodo hbuf hrows hover => ⟨fun hk => ?copy, ?ring, ?source⟩, ?spad⟩
  case copy =>
    have hplain : o.plain := hk.imp id (fun h => h.imp id .inl)
    obtain ⟨t, ht, hgone, -⟩ := State.finishCopy_empty ho hs htodo hbuf hrows hover hplain
    refine ⟨(t.creditLanding o).progress, ?_, (hgone.credited (t.creditLanding_credited o) : EngineGone s (t.creditLanding o) op o)⟩
    show execCopyComplete op s = _
    unfold execCopyComplete
    rcases hk with h | h | ⟨_, _, _, _, h⟩ <;> simp only [ho, h, ht] <;> rfl
  case ring =>
    intro n seq w r hk hw hr hf
    obtain ⟨t, ht, hgone, hwgs⟩ := State.finishCopy_empty ho hs htodo hbuf hrows hover (.inr (.inr (.inr ⟨n, seq, hk⟩)))
    subst hf
    have hid : w.id = o.wg := beq_iff_eq.1 (List.find?_some (p := fun (w : Workgroup) => w.id == o.wg) hw)
    have hland : (t.modWg w.id (fun y => { y with rings := listSet y.rings n { r with f := r.f + 1 } })).wg? o.wg =
        some { w with rings := listSet w.rings n { r with f := r.f + 1 } } := by
      refine (State.wg?_modWg t w.id o.wg (fun y => { y with rings := listSet y.rings n { r with f := r.f + 1 } }) (fun _ => rfl)).trans ?_
      rw [if_pos hid.symm, State.wg?_congr hwgs, hw]
      rfl
    refine ⟨(t.modWg w.id (fun y => { y with rings := listSet y.rings n { r with f := r.f + 1 } })).progress, ?_, hgone, _, hland, ?_⟩
    · show execRingSequenceLanded op s = _
      unfold execRingSequenceLanded
      simp only [ho, hk, hw, hr, beq_self_eq_true, if_true, ht]
      rfl
    · exact getElem?_listSet _ _ _ hr
  case source =>
    intro hsend
    have hread : s.readWords (s.launchOfOp o) o (o.todo.flatMap Seg.each) = (s, [], [], none) := by
      rw [htodo]
      rfl
    refine ⟨(s.allRead o []).progress, ?_, sameMemory_iod rfl rfl, rfl, fun k hk hown => ?_, fun k hk hor => ?_⟩
    · show execSourceRangeReleased op s = _
      unfold execSourceRangeReleased
      simp only [ho, hs, State.readRest_of ho hrows hread]
      cases hk : o.kind with
      | send a b c d => exact absurd ⟨a, b, c, d, hk⟩ hsend
      | _ => rfl
    · have hp := (List.mem_filter.1 hk).2
      rw [State.engine?_id ho] at hp
      simpa [hown] using hp
    · refine List.mem_filter.2 ⟨hk, ?_⟩
      rw [State.engine?_id ho]
      rcases hor with h | h <;> simp [h]
  case spad =>
    intro s op o v a w b n ho hs hk htodo hbuf hrows hskip hover ha hb hpres _
    obtain ⟨t, ht, hbytes, hrest⟩ := State.finishCopy_spad ho hs hk htodo hbuf hrows hskip hover ha hb hpres
    obtain ⟨wgs, gangs, launches, cores, hc⟩ := t.creditLanding_credited o
    refine ⟨(t.creditLanding o).progress, ?_, ?_⟩
    · show execCopyComplete op s = _
      unfold execCopyComplete
      simp only [ho, hk, ht]
      rfl
    · rw [hc]
      exact ⟨hbytes, hrest⟩

end Sys2Proof

end

section
/-! `bulk`, `send` and arrival counters (spec 09, R238 to R246, R252). -/

namespace Sys2Proof.Machine

section
variable {s : State} {e : Env} {g : Guard} {f : FMC}

/-- The state in which a `bulk` has its turn among the reductions of its group. -/
def State.bulkTurn (s : State) (e : Env) (f : FMC) : State :=
  if cpyDir f == 2 then { s with iod := { s.iod with
    redTurns := tabSet 0 ((e.s f.f4).toNat % 256) (tabGet 0 ((e.s f.f4).toNat % 256) s.iod.redTurns + 1) s.iod.redTurns } } else s

/-- The order of a `bulk`. -/
def State.bulkOrder (s u : State) (e : Env) (f : FMC) : Order :=
  { kind := .bulk (cpyDir f) (f.cl.extractLsb' 8 4) (f.cl.getLsbD 3) (e.s f.f4) ((e.s f.f4).toNat % 256)
      (tabGet 0 ((e.s f.f4).toNat % 256) s.iod.redTurns)
    segs := [⟨(u.bulkSides e f).1.1, (u.bulkSides e f).2.1, (e.s f.f3).toNat⟩], bytes := (e.s f.f3).toNat, lockDst := false }

/-- The order of a `send`. -/
def State.sendOrder (u : State) (e : Env) (f : FMC) : Order :=
  { kind := .send (f.cl.getLsbD 1) (e.s f.f2).toNat (e.s f.f3) (e.s f.f4).toNat
    segs := if (e.s f.f4).toNat == 0 then [] else [⟨(u.sendSide e f).1, (u.sendSide e f).1, (e.s f.f4).toNat⟩]
    bytes := (e.s f.f4).toNat, lockDst := false, cls := .send }

theorem State.bulkTurn_only (s : State) (e : Env) (f : FMC) : ∃ redTurns, s.bulkTurn e f = { s with iod := { s.iod with redTurns } } := by
  unfold State.bulkTurn
  split
  · exact ⟨_, rfl⟩
  · exact ⟨s.iod.redTurns, rfl⟩

theorem Issuable.bulk (h : Issuable s e g (.bulk g f)) (l : s.someLane e g) (hfull : s.engineFull e.g.core = false)
    (hc : lowestTrap (rightsTrap e (s.lanes e g) ++ bulkTraps s e f) = none) :
    (e.l.shadowOf ≠ none → exec (.bulk g f) s = .next (s.advance e).progress) ∧
    (e.l.shadowOf = none → s.arrivalFor e.gang = none → exec (.bulk g f) s = .next (s.hold e)) ∧
    ∀ n u, e.l.shadowOf = none → s.arrivalFor e.gang = some (n, u) → exec (.bulk g f) s =
      if (e.s f.f3).toNat == 0 then (u.bulkTurn e f).done e
      else (((u.bulkTurn e f).acts e).addEngine e (s.lanes e g) (u.bulkOrder ((u.bulkTurn e f).acts e) e f)).done e := by
  have hx : exec (.bulk g f) s = execBulk g f s := rfl
  rw [hx, execBulk, h.copyOp l hfull (conds := fun e => bulkTraps s e f) hc]
  refine ⟨fun hs => ?_, fun hs ha => ?_, fun n u hs ha => ?_⟩
  · simp only [Option.isSome_iff_ne_none.2 hs, if_true]
    rfl
  · simp only [hs, Option.isSome_none, Bool.false_eq_true, if_false, ha]
  · simp only [hs, Option.isSome_none, Bool.false_eq_true, if_false, ha]
    rfl

theorem Issuable.send (h : Issuable s e g (.send g f)) (l : s.someLane e g) (hfull : s.engineFull e.g.core = false)
    (hc : lowestTrap (rightsTrap e (s.lanes e g) ++ sendTraps s e f) = none) :
    (e.l.shadowOf ≠ none → exec (.send g f) s = .next (s.advance e).progress) ∧
    (e.l.shadowOf = none → s.arrivalFor e.gang = none → exec (.send g f) s = .next (s.hold e)) ∧
    ∀ n u, e.l.shadowOf = none → s.arrivalFor e.gang = some (n, u) → exec (.send g f) s =
      ((u.acts e).addEngine e (s.lanes e g) ((u.acts e).sendOrder e f)).done e := by
  have hx : exec (.send g f) s = execSend g f s := rfl
  rw [hx, execSend, h.copyOp l hfull (conds := fun e => sendTraps s e f) hc]
  refine ⟨fun hs => ?_, fun hs ha => ?_, fun n u hs ha => ?_⟩
  · simp only [Option.isSome_iff_ne_none.2 hs, if_true]
    rfl
  · simp only [hs, Option.isSome_none, Bool.false_eq_true, if_false, ha]
  · simp only [hs, Option.isSome_none, Bool.false_eq_true, if_false, ha]
    rfl

/-- An operation of the fabric that stands in its engine, issued from a state with the engines, threads and bytes of `s`. -/
theorem fabricIssued {p : State} {o : Order} (hengines : p.engines = s.engines) (hthreads : p.threads = s.threads) (hmem : SameMemory s p) :
    Out.Leads ((p.addEngine e (s.lanes e g) o).done e) (fun t =>
      (∃ x : EngineOp, t.engines = s.engines ++ [x] ∧ x.tids = s.lanes e g ∧ x.kind = o.kind ∧ x.bytes = o.bytes ∧ x.stage = .queued ∧ x.sent = 0 ∧ x.acked = 0) ∧
      SameMemory s t ∧ ThreadsBecome s t e (fun n x => if n ∈ s.lanes e g then ({ x with cp := x.cp + 1 }).next else x.next)) := by
  have hsub : ∀ t ∈ s.lanes e g, t ∈ e.g.members := fun _ => State.lanes_sub
  obtain ⟨⟨-, ⟨hin, hout⟩, -, -, -⟩, hissued⟩ := engineIssued_addEngine (p := p) (o := o) hsub
  refine ⟨_, rfl, ⟨p.newEngine e (s.lanes e g) o, ?_, rfl, rfl, rfl, rfl, rfl, rfl⟩, hmem.trans hissued, fun n hn => ?_, fun wg n hn => ?_⟩
  · exact (State.modThreads_engines ..).trans ((State.addEngine_engines ..).trans (by rw [hengines]))
  · rw [hin n hn, State.thread_congr hthreads]
  · rw [hout wg n hn, State.thread_congr hthreads]

/-! Arrival counters. -/

/-- An arrival entry whose counter is set. -/
def Arrival.set (ctr target : Nat) (a : Arrival) : Arrival :=
  { a with counts := listPut 0 a.counts ctr 0, targets := listPut 0 a.targets ctr (BitVec.ofNat 24 target), bulked := a.bulked.filter (· != ctr) }

/-- The state in which a gang's counter is set and its handle answered. -/
def State.counterSet (s : State) (e : Env) (f : FMC) (n : Nat) : State :=
  let arrivals := mapIf (fun a => a.gang == e.gang.id) (Arrival.set (f.cl.toNat % 16) (e.s f.f2).toNat) s.iod.arrivals
  State.setS { s with iod := { s.iod with arrivals } } e f.f1 (BitVec.ofNat 32 (s.iod.chip.toNat * 2 ^ 20 + n * 16 + f.cl.toNat % 16))

theorem Issuable.acset (h : Issuable s e g (.acset g f)) (l : s.someLane e g) {n : Nat} (ht : (e.s f.f2).toNat < 2 ^ 24) (hb : f.cl.getLsbD 4 = false)
    (ha : e.gang.arrival = some n) : exec (.acset g f) s = (s.counterSet e f n).done e := by
  have harr : s.arrivalFor e.gang = some (n, s) := by
    unfold State.arrivalFor
    simp only [ha]
  show execAcset g f s = _
  unfold execAcset
  rw [h.groupOp l]
  simp only [Nat.not_le.2 ht, if_false, hb, Bool.false_and, Bool.false_eq_true, harr]
  rfl

theorem Issuable.acwait (h : Issuable s e g (.acwait g f)) (l : s.someLane e g) : exec (.acwait g f) s =
    if s.arrived e.gang.id (f.cl.toNat % 16) &&
      (s.lanes e g).all (fun t => s.mayAcquire e.w.id t (s.arrivalScope e.gang.id (f.cl.toNat % 16))) then
      (s.acquire e.g.core (s.arrivalScope e.gang.id (f.cl.toNat % 16))).done e
    else .next (s.hold e) := by
  show execAcwait g f s = _
  unfold execAcwait
  rw [h.groupOp l]

theorem State.arrived_of {gang ctr : Nat} {a : Arrival} (h : s.iod.arrivals.find? (fun a => a.gang == gang) = some a) :
    s.arrived gang ctr = decide ((listGet 0 a.targets ctr).toNat ≤ (listGet 0 a.counts ctr).toNat) := by
  unfold State.arrived
  rw [h]

end

/-- An arrival at a counter of an entry adds to its count, which saturates. -/
theorem State.mem_addArrival {s : State} {a : Arrival} (bulk : Bool) (ctr n : Nat) (h : a ∈ s.iod.arrivals) :
    ∃ a' ∈ (s.addArrival bulk a.entry a.world ctr n).iod.arrivals, a'.entry = a.entry ∧ a'.world = a.world ∧ a'.targets = a.targets ∧
      (listGet 0 a'.counts ctr).toNat = min ((listGet 0 a.counts ctr).toNat + n) (2 ^ 24 - 1) ∧ (bulk = true → ctr ∈ a'.bulked) := by
  have hself : (a.entry == a.entry && a.world == a.world) = true := by simp
  have hany : s.iod.arrivals.any (fun x => x.entry == a.entry && x.world == a.world) = true := List.any_eq_true.2 ⟨a, h, hself⟩
  unfold State.addArrival
  rw [if_pos hany]
  refine ⟨_, List.mem_map.2 ⟨a, h, if_pos hself⟩, rfl, rfl, rfl, ?_, fun hb => ?_⟩
  · dsimp only
    rw [listGet_listPut, if_pos rfl, BitVec.toNat_ofNat]
    omega
  · dsimp only
    rw [if_pos hb]
    exact (mem_dedup _ _).2 (List.mem_append_right _ (List.mem_singleton.2 rfl))

end Sys2Proof.Machine

namespace Sys2Proof
open Sys2Proof.Machine

/-- Settles O34: an arrival entry, then one order to the engine; the counters by the rule for a place of a list. -/
theorem bulkSendAndCounters : Obligations.BulkSendAndCounters := by
  refine ⟨fun g f s e l hfull => ⟨?bulk, ?send⟩, ?acset, ?acwait, ?add, ?scope⟩
  case bulk =>
    intro h hc
    obtain ⟨hshadow, hhold, hgo⟩ := h.bulk l hfull hc
    have hmade {n : Nat} {u : State} (hu : s.arrivalFor e.gang = some (n, u)) : (u.bulkTurn e f).engines = s.engines ∧
        (u.bulkTurn e f).threads = s.threads ∧ SameMemory s (u.bulkTurn e f) ∧ u.iod.redTurns = s.iod.redTurns := by
      obtain ⟨arrivals, draws, gangs, rfl⟩ := State.arrivalFor_only hu
      obtain ⟨redTurns, ht⟩ := State.bulkTurn_only { s with iod := { s.iod with arrivals }, draws, gangs } e f
      rw [ht]
      exact ⟨rfl, rfl, sameMemory_of rfl rfl, rfl⟩
    refine ⟨hshadow, hhold, fun hn hs ha => ?_, fun hn hs ha => ?_⟩
    · obtain ⟨⟨n, u⟩, hu⟩ := Option.ne_none_iff_exists'.1 ha
      obtain ⟨hengines, hthreads, hmem, -⟩ := hmade hu
      rw [hgo n u hs hu, if_pos (beq_iff_eq.2 hn)]
      exact ⟨_, rfl, (State.modThreads_engines ..).trans hengines,
        hmem.trans (sameMemory_iod (State.modThreads_mem ..) (State.modThreads_iod ..)), threadsBecome_next hthreads⟩
    · obtain ⟨⟨n, u⟩, hu⟩ := Option.ne_none_iff_exists'.1 ha
      obtain ⟨hengines, hthreads, hmem, hturn⟩ := hmade hu
      rw [hgo n u hs hu, if_neg (by simpa using hn), ← hturn]
      exact fabricIssued (p := (u.bulkTurn e f).acts e) (o := u.bulkOrder ((u.bulkTurn e f).acts e) e f) hengines hthreads hmem
  case send =>
    intro h hc
    obtain ⟨hshadow, hhold, hgo⟩ := h.send l hfull hc
    refine ⟨hshadow, hhold, fun hs ha => ?_⟩
    obtain ⟨⟨n, u⟩, hu⟩ := Option.ne_none_iff_exists'.1 ha
    rw [hgo n u hs hu]
    obtain ⟨arrivals, draws, gangs, rfl⟩ := State.arrivalFor_only hu
    exact fabricIssued (p := State.acts { s with iod := { s.iod with arrivals }, draws, gangs } e) rfl rfl (sameMemory_of rfl rfl)
  case acset =>
    intro g f s e n a h l ht hb ha hm hg
    rw [h.acset l ht hb ha]
    refine ⟨_, rfl, ?_, threadsBecome_next rfl, ⟨a.set (f.cl.toNat % 16) (e.s f.f2).toNat, ?_, rfl, hg, ?_, ?_, fun c hne => ?_⟩, ?_⟩
    · exact (sameMemory_of (t := s.counterSet e f n) rfl rfl).trans (sameMemory_iod (State.modThreads_mem ..) (State.modThreads_iod ..))
    · show _ ∈ ((s.counterSet e f n).advance e).iod.arrivals
      rw [show ((s.counterSet e f n).advance e).iod = (s.counterSet e f n).iod from State.modThreads_iod ..]
      exact List.mem_map.2 ⟨a, hm, if_pos (beq_iff_eq.2 hg)⟩
    · exact (listGet_listPut ..).trans (if_pos rfl)
    · refine (congrArg BitVec.toNat ((listGet_listPut ..).trans (if_pos rfl))).trans ?_
      rw [BitVec.toNat_ofNat, Nat.mod_eq_of_lt ht]
    · exact (listGet_listPut ..).trans (if_neg hne)
    · refine ⟨e.w.setSs e.g.hgrps f.f1 (BitVec.ofNat 32 (s.iod.chip.toNat * 2 ^ 20 + n * 16 + f.cl.toNat % 16)), ?_, fun k hk hsd => ?_⟩
      · refine (State.wg?_congr (State.modThreads_wgs ..) _).trans ((State.wg?_setS ..).trans ?_)
        rw [if_pos rfl]
        exact congrArg _ (State.wg?_of_issuer h.issuer)
      · rw [Workgroup.s_setSs_of_ne_sz _ _ _ _ _ _ hsd, if_pos ⟨rfl, hk⟩]
  case acwait =>
    intro g f s e a h l ha
    rw [h.acwait l, State.arrived_of ha]
    refine ⟨fun hle hmay => ?_, fun hlt => ?_⟩
    · obtain ⟨l1, hq⟩ := s.acquire_eq e.g.core (s.arrivalScope e.gang.id (f.cl.toNat % 16))
      rw [if_pos (Bool.and_eq_true_iff.2 ⟨decide_eq_true hle, List.all_eq_true.2 hmay⟩), hq]
      exact ⟨_, rfl, sameMemory_iod (State.modThreads_mem ..) (State.modThreads_iod ..), State.modThreads_iod .., State.modThreads_wgs ..,
        threadsBecome_next rfl⟩
    · rw [decide_eq_false (Nat.not_le.2 hlt), Bool.false_and, if_neg Bool.false_ne_true]
  case add =>
    rintro s bulk _ _ ctr n a hm rfl rfl
    exact State.mem_addArrival bulk ctr n hm
  case scope =>
    intro s gang ctr a ha
    unfold State.arrivalScope
    simp only [ha, List.contains_iff_mem]

end Sys2Proof

end

section
/-! Bulk lines and reductions (spec 09, R238 to R242). -/

namespace Sys2Proof.Machine

/-! What a write at a home may change. -/

theorem State.homeWrite_lines (s : State) (k : Nat) (b : Byte) : ∃ mem llcDirty hostLines,
    s.homeWrite k b = { s with mem, llcDirty, iod := { s.iod with hostLines } } := by
  have hfill : ∃ hostLines, s.fillHost k = { s with iod := { s.iod with hostLines } } := by
    unfold State.fillHost
    split
    · exact ⟨s.iod.hostLines, rfl⟩
    · split
      · exact ⟨s.iod.hostLines, rfl⟩
      · exact ⟨_, rfl⟩
  obtain ⟨hostLines, hfill⟩ := hfill
  unfold State.homeWrite
  split
  · dsimp only
    rw [hfill]
    split
    · exact ⟨s.mem, s.llcDirty, _, rfl⟩
    · exact ⟨_, s.llcDirty, hostLines, rfl⟩
  · exact ⟨_, _, s.iod.hostLines, rfl⟩

theorem State.homePut_lines (s : State) (k : Nat) (bs : List Byte) : ∃ mem llcDirty hostLines,
    s.homePut k bs = { s with mem, llcDirty, iod := { s.iod with hostLines } } := by
  induction bs generalizing s k with
  | nil => exact ⟨s.mem, s.llcDirty, s.iod.hostLines, rfl⟩
  | cons b bs ih =>
    obtain ⟨_, _, _, hwrite⟩ := s.homeWrite_lines k b
    obtain ⟨mem, llcDirty, hostLines, hrest⟩ := ih (s.homeWrite k b) (k + 1)
    exact ⟨mem, llcDirty, hostLines, by rw [State.homePut, hrest, hwrite]⟩

/-- Memory, what is cached of it, and what versions, stores on their way, injections and launches note of a write. -/
def Filled (s t : State) : Prop := ∃ mem llcDirty hostLines stt l1 nextId versions flights injects launches,
  t = { s with mem, llcDirty, iod := { s.iod with hostLines }, stt, l1, nextId, versions, flights, injects, launches }

theorem Filled.refl (s : State) : Filled s s :=
  ⟨s.mem, s.llcDirty, s.iod.hostLines, s.stt, s.l1, s.nextId, s.versions, s.flights, s.injects, s.launches, rfl⟩

theorem Filled.trans {s t u : State} (h : Filled s t) (h' : Filled t u) : Filled s u := by
  obtain ⟨_, _, _, _, _, _, _, _, _, _, rfl⟩ := h
  obtain ⟨_, _, _, _, _, _, _, _, _, _, rfl⟩ := h'
  exact ⟨_, _, _, _, _, _, _, _, _, _, rfl⟩

theorem Filled.foldl {α : Type} {f : State → α → State} (h : ∀ s x, Filled s (f s x)) (l : List α) (s : State) : Filled s (l.foldl f s) := by
  induction l generalizing s with
  | nil => exact .refl s
  | cons x l ih => exact (h s x).trans (ih _)

theorem VersionsOnly.filled {s t : State} (h : VersionsOnly s t) : Filled s t := by
  obtain ⟨versions, nextId, rfl⟩ := h
  exact ⟨_, _, _, _, _, _, _, _, _, _, rfl⟩

theorem State.homePut_filled (s : State) (k : Nat) (bs : List Byte) : Filled s (s.homePut k bs) := by
  obtain ⟨_, _, _, h⟩ := s.homePut_lines k bs
  rw [h]
  exact ⟨_, _, _, _, _, _, _, _, _, _, rfl⟩

theorem State.flagVersion_filled (s : State) (world : Nat) (num : Word) (hit : Bool) : Filled s (s.flagVersion world num hit) := by
  unfold State.flagVersion
  split
  · exact ⟨_, _, _, _, _, _, _, _, _, _, rfl⟩
  · exact .refl s

theorem State.writeElem_filled (s : State) (l : Launch) (num : Word) (core : Nat) (x : Elem) : Filled s (s.writeElem l num core x) := by
  have inject : Filled s (s.inject (Config.dieOfCore core) x.key x.data).2 := by
    unfold State.inject
    split
    · exact .refl s
    · exact ⟨_, _, _, _, _, _, _, _, _, _, rfl⟩
  unfold State.writeElem
  split
  · obtain ⟨stt, h⟩ := (s.homePut x.key (natLe x.size x.data.toNat)).soil_eq x.key
    rw [h]
    exact (s.homePut_filled ..).trans ⟨_, _, _, _, _, _, _, _, _, _, rfl⟩
  · dsimp only
    refine inject.trans ?_
    split
    · exact (State.greenWrite_versionsOnly ..).filled.trans (State.flagVersion_filled ..)
    · split
      · exact .refl _
      · exact (State.homePut_filled ..).trans ⟨_, _, _, _, _, _, _, _, _, _, rfl⟩

theorem State.engineElem_filled (s : State) (l : Launch) (o : EngineOp) (x : Elem) : Filled s (s.engineElem l o x) := by
  unfold State.engineElem
  split
  · obtain ⟨l1, nextId, h⟩ := s.passElem_only (l := l) (core := o.core) (x := x) [x]
    rw [h]
    exact Filled.trans (Filled.trans ⟨_, _, _, _, _, _, _, _, _, _, rfl⟩ (State.writeElem_filled { s with l1, nextId } ..)) ⟨_, _, _, _, _, _, _, _, _, _, rfl⟩
  · exact s.writeElem_filled ..

/-- The lines on their way are as before, and the operations by name and by what is acknowledged to them. -/
def LinesKept (s t : State) : Prop := t.iod.bulk = s.iod.bulk ∧ t.engines.map (fun o => (o.id, o.acked)) = s.engines.map (fun o => (o.id, o.acked))

theorem LinesKept.refl (s : State) : LinesKept s s := ⟨rfl, rfl⟩

theorem LinesKept.trans {s t u : State} (h : LinesKept s t) (h' : LinesKept t u) : LinesKept s u := ⟨h'.1.trans h.1, h'.2.trans h.2⟩

theorem LinesKept.foldl {α : Type} {f : State → α → State} (h : ∀ s x, LinesKept s (f s x)) (l : List α) (s : State) : LinesKept s (l.foldl f s) := by
  induction l generalizing s with
  | nil => exact .refl s
  | cons x l ih => exact (h s x).trans (ih _)

theorem Filled.linesKept {s t : State} (h : Filled s t) : LinesKept s t := by
  obtain ⟨_, _, _, _, _, _, _, _, _, _, rfl⟩ := h
  exact ⟨rfl, rfl⟩

theorem find_map_mark {l l' : List EngineOp} (h : l'.map (fun o => (o.id, o.acked)) = l.map (fun o => (o.id, o.acked))) {op : Nat} {o : EngineOp}
    (ho : l.find? (fun o => o.id == op) = some o) : ∃ o', l'.find? (fun o => o.id == op) = some o' ∧ o'.acked = o.acked := by
  have marked (l : List EngineOp) : (l.map (fun o => (o.id, o.acked))).find? (fun x => x.1 == op) = (l.find? (fun o => o.id == op)).map (fun o => (o.id, o.acked)) := by
    rw [List.find?_map]
    rfl
  have hm := marked l'
  rw [h, marked l, ho] at hm
  obtain ⟨o', ho', he⟩ := Option.map_eq_some_iff.1 hm.symm
  exact ⟨o', ho', (Prod.mk.inj he).2⟩

theorem LinesKept.engine {s t : State} (h : LinesKept s t) {op : Nat} {o : EngineOp} (ho : s.engine? op = some o) :
    ∃ o', t.engine? op = some o' ∧ o'.acked = o.acked := find_map_mark h.2 ho

theorem State.overtake_linesKept (s : State) (o : EngineOp) (dst : Loc) (n key : Nat) : LinesKept s (s.overtake o dst n key) := by
  refine ⟨rfl, ?_⟩
  unfold State.overtake mapIf
  rw [List.map_map]
  refine List.map_congr_left (fun y _ => ?_)
  dsimp only [Function.comp]
  split
  · rfl
  · rfl

theorem State.putWord_linesKept (s : State) (l : Launch) (o : EngineOp) (dst : Loc) (key : Nat) (green : Bool) (bytes : List Byte) :
    LinesKept s (s.putWord l o dst key green bytes) := by
  unfold State.putWord
  dsimp only
  refine (s.overtake_linesKept o dst bytes.length key).trans (Filled.linesKept ?_)
  split
  · exact State.engineElem_filled ..
  · refine .foldl (fun s b => ?_) _ _
    split
    · exact .refl s
    · exact s.engineElem_filled ..

/-! A line at its home. -/

theorem State.lineLock_locks (s : State) (x : BulkLine) (key : Nat) : ∃ locks, s.lineLock x key = { s with locks } := by
  unfold State.lineLock
  split
  · exact ⟨s.locks, rfl⟩
  · dsimp only
    split
    · exact ⟨s.locks, rfl⟩
    · split
      · exact ⟨_, rfl⟩
      · exact State.addLock_locks ..

theorem State.addArrival_only (s : State) (bulk : Bool) (entry world ctr n : Nat) : ∃ arrivals dropped,
    s.addArrival bulk entry world ctr n = { s with iod := { s.iod with arrivals, dropped } } := by
  unfold State.addArrival
  split
  · exact ⟨_, s.iod.dropped, rfl⟩
  · exact ⟨s.iod.arrivals, _, rfl⟩

theorem State.countLine_only (s : State) (x : BulkLine) : ∃ arrivals dropped, s.countLine x = { s with iod := { s.iod with arrivals, dropped } } := by
  unfold State.countLine
  split
  · exact ⟨_, _, rfl⟩
  · split
    · split
      · exact s.addArrival_only ..
      · exact ⟨s.iod.arrivals, _, rfl⟩
    · split
      · exact ⟨_, _, rfl⟩
      · split
        · exact s.addArrival_only ..
        · exact ⟨_, _, rfl⟩

theorem State.putLine_linesKept (s : State) (x : BulkLine) (key : Nat) (green : Bool) : LinesKept s (s.putLine x key green) := by
  obtain ⟨locks, h⟩ := s.lineLock_locks x key
  unfold State.putLine
  dsimp only
  rw [h]
  have hlock : LinesKept s { s with locks } := ⟨rfl, rfl⟩
  split
  · exact hlock.trans (.foldl (fun s w => s.putWord_linesKept ..) _ _)
  · exact hlock.trans (Filled.linesKept (State.homePut_filled ..))

theorem State.endLine_only (s : State) (x : BulkLine) : ∃ locks bulk, s.endLine x = { s with locks, iod := { s.iod with bulk } } ∧
    bulk.map (·.id) = (s.iod.bulk.map (·.id)).filter (· != x.id) := by
  have hrest : (s.iod.bulk.filter (fun y => !(y.id == x.id))).map (·.id) = (s.iod.bulk.map (·.id)).filter (· != x.id) := by
    rw [List.filter_map]
    rfl
  unfold State.endLine
  split
  · exact ⟨s.locks, _, rfl, hrest⟩
  · dsimp only
    have hlast (p : BulkLine → Bool) (l : List BulkLine) : (mapIf p (fun y => { y with last := y.last || x.last }) l).map (·.id) = l.map (·.id) := by
      unfold mapIf
      rw [List.map_map]
      refine List.map_congr_left (fun y _ => ?_)
      dsimp only [Function.comp]
      split
      · rfl
      · rfl
    split
    · exact ⟨_, _, rfl, (hlast _ _).trans hrest⟩
    · exact ⟨s.locks, _, rfl, (hlast _ _).trans hrest⟩

theorem State.bulk?_id {s : State} {line : Nat} {x : BulkLine} (h : s.iod.bulk.find? (fun x => x.id == line) = some x) : x.id = line :=
  beq_iff_eq.1 (List.find?_some (p := fun (x : BulkLine) => x.id == line) h)

/-- A line of an operation here that has been performed is acknowledged to it and gone. -/
theorem State.acked_endLine {s u : State} {x : BulkLine} {op : Nat} {o : EngineOp} (hk : LinesKept s u) (hop : x.op = some op) (ho : s.engine? op = some o) :
    (∃ o', ((u.ackLine x 0).endLine x).engine? op = some o' ∧ o'.acked = o.acked + 1) ∧
    ((u.ackLine x 0).endLine x).iod.bulk.map (·.id) = (s.iod.bulk.map (·.id)).filter (· != x.id) := by
  obtain ⟨locks, bulk, hend, hids⟩ := (u.ackLine x 0).endLine_only x
  obtain ⟨o', ho', hacked⟩ := hk.engine ho
  have hack : u.ackLine x 0 = u.modEngine op (fun o => { o with acked := o.acked + 1 }) := by
    unfold State.ackLine
    rw [hop]
  rw [hend]
  refine ⟨⟨{ o' with acked := o'.acked + 1 }, ?_, congrArg (· + 1) hacked⟩, hids.trans ?_⟩
  · rw [hack]
    refine (State.engine?_modEngine u op (fun o => { o with acked := o.acked + 1 }) (fun _ => rfl)).trans ?_
    rw [ho']
    rfl
  · rw [hack, ← hk.1]
    rfl

/-- A line for this chip that its home takes. -/
theorem exec_lineArrival {s : State} {line k : Nat} {x : BulkLine} (hx : s.iod.bulk.find? (fun x => x.id == line) = some x) (hdst : x.dst = s.me)
    (hkey : x.key = some k) (hout : s.outside x.world k = false) (href : s.refuses k = false) (htag : s.lineTag x k = true) (hfull : s.lineFull x k x.green = false)
    (hbehind : s.lineBehind x k = false) (hheld : s.lineHeld x k = false) (hroom : s.lineRoom x k = true) :
    exec (.bulkLineArrival ⟨line, none⟩) s = .next ((((s.putLine x k x.green).countLine x).ackLine x 0).endLine x).progress := by
  have hhome : s.lineHome x = .ok k x.green := by
    unfold State.lineHome
    simp only [hkey, hout, href, htag, hfull, Bool.false_eq_true, if_false, Bool.not_true]
  show execBulkLineArrival ⟨line, none⟩ s = _
  unfold execBulkLineArrival
  simp only [hx, hdst, bne_self_eq_false, Bool.false_eq_true, if_false, Option.isSome_none, hhome]
  exact event_of_true (by rw [hroom, hbehind, hheld]; rfl) _

/-- A line that its destination refuses stops the operation that sent it, and its gang. -/
theorem State.engineStop_endLine {s : State} {op : Nat} {o : EngineOp} (ho : s.engine? op = some o) (x : BulkLine) (code va : Nat) (mal wr : Bool) :
    ((s.engineStop o code va mal wr).endLine x).threads = s.threads ∧
    (∃ o', ((s.engineStop o code va mal wr).endLine x).engine? op = some o' ∧ o'.stage = .stopped) ∧
    ∀ g, ((s.engineStop o code va mal wr).endLine x).gang? o.gang = some g → g.status ≠ .running := by
  obtain ⟨locks, bulk, hend, -⟩ := (s.engineStop o code va mal wr).endLine_only x
  rw [hend]
  exact State.engineStop_spec ho code va mal wr

/-- With the last line of a peer's operation its ranges here are free. -/
theorem State.endLine_frees (s : State) {x : BulkLine} {n : Nat} (ho : x.owner = some n) (hl : x.last = true)
    (hno : ∀ y ∈ s.iod.bulk, y.id ≠ x.id → y.owner ≠ some n) : ∀ l ∈ (s.endLine x).locks, l.owner ≠ n := by
  have hnone : (s.iod.bulk.filter (fun y => !(y.id == x.id))).any (fun y => y.owner == some n) = false := by
    rw [List.any_eq_false]
    intro y hy
    obtain ⟨hm, hne⟩ := List.mem_filter.1 hy
    simpa using hno y hm (by simpa using hne)
  have hlocks : (s.endLine x).locks = s.locks.filter (fun k => !(k.owner == n && true)) := by
    unfold State.endLine
    simp only [ho, hl, hnone, Bool.not_false, Bool.and_self, if_true]
    rfl
  intro l hm
  rw [hlocks] at hm
  simpa using (List.mem_filter.1 hm).2

/-- The code of a reduction, as its first member gives it. -/
def RedLine.firstCode (x : RedLine) (parts : List RedPart) : BitVec 4 := match parts.find? (fun p => p.rank == 0) with | some p => p.op | none => x.code

/-- The line that a reduction's result sets out in. -/
def RedLine.result (x : RedLine) (me group : Nat) (data : List Byte) : BulkLine :=
  { id := 0, world := x.world, dst := me, va := x.va, key := none, green := false, data, count := x.count, handle := 0
    group := some group, op := some x.op, src := me, owner := none, last := false }

/-- The state in which a reduction's line is combined. -/
def State.combined (s : State) (x : RedLine) (y : BulkLine) : State := State.sendBulk { s with iod := { s.iod with red := s.iod.red.erase x } } y

theorem State.combined_spec (s : State) (x : RedLine) (group : Nat) (data : List Byte) :
    SameMemory s (s.combined x (x.result s.me group data)).progress ∧ (s.combined x (x.result s.me group data)).progress.threads = s.threads ∧
    (s.combined x (x.result s.me group data)).progress.iod.red = s.iod.red.erase x ∧
    ∃ y : BulkLine, (s.combined x (x.result s.me group data)).progress.iod.bulk = s.iod.bulk ++ [y] ∧
      y.dst = s.me ∧ y.va = x.va ∧ y.op = some x.op ∧ y.data = data :=
  ⟨sameMemory_of rfl rfl, rfl, rfl, { x.result s.me group data with id := s.nextId }, rfl, rfl, rfl, rfl, rfl⟩

theorem elem_of_redElem (a b : Word) : redElem 0 a b = a + b ∧ (redElem 2 a b).toInt = min a.toInt b.toInt ∧ (redElem 3 a b).toInt = max a.toInt b.toInt ∧
    (redElem 4 a b).toNat = min a.toNat b.toNat ∧ (redElem 5 a b).toNat = max a.toNat b.toNat := by
  refine ⟨rfl, ?_, ?_, ?_, ?_⟩
  · show (if b.slt a then b else a).toInt = _
    rw [BitVec.slt]
    split <;> simp only [decide_eq_true_eq] at * <;> omega
  · show (if a.slt b then b else a).toInt = _
    rw [BitVec.slt]
    split <;> simp only [decide_eq_true_eq] at * <;> omega
  · show (if b.ult a then b else a).toNat = _
    rw [BitVec.ult]
    split <;> simp only [decide_eq_true_eq] at * <;> omega
  · show (if a.ult b then b else a).toNat = _
    rw [BitVec.ult]
    split <;> simp only [decide_eq_true_eq] at * <;> omega

end Sys2Proof.Machine

namespace Sys2Proof
open Sys2Proof.Machine

/-- Settles O35: a line is put at its home, counted, acknowledged and gone, each step by what it leaves; a reduction is the one line it sends. -/
theorem bulkLinesAndReductions : Obligations.BulkLinesAndReductions := by
  refine ⟨⟨?here, ?own, ?away, ?complete⟩, ?combine, elem_of_redElem⟩
  case here =>
    intro s line k x hx hdst hop hkey hout href htag hbehind hheld hroom
    obtain rfl := State.bulk?_id hx
    have hfull : s.lineFull x k x.green = false := by
      unfold State.lineFull
      rw [hop]
      exact Bool.and_false _
    have hput : s.putLine x k x.green = (s.lineLock x k).homePut k x.data := by
      unfold State.putLine
      simp only [hop, Option.bind_none]
    obtain ⟨locks, hlock⟩ := s.lineLock_locks x k
    obtain ⟨mem, llcDirty, hostLines, hhome⟩ := State.homePut_lines { s with locks } k x.data
    obtain ⟨arrivals, dropped, hcount⟩ := (State.homePut { s with locks } k x.data).countLine_only x
    generalize hu : ((State.homePut { s with locks } k x.data).countLine x).ackLine x 0 = u
    have hack : u = { (State.homePut { s with locks } k x.data) with iod := { (State.homePut { s with locks } k x.data).iod with
        arrivals, dropped, replies := s.iod.replies ++ [.peer x.src (x.seq.getD 0) 0 []] } } := by
      rw [← hu, hcount]
      unfold State.ackLine
      rw [hop, hhome]
    obtain ⟨locks', bulk, hend, hids⟩ := u.endLine_only x
    have hbytes (j : Nat) : u.homeByte j = (State.homePut { s with locks } k x.data).homeByte j := by
      rw [hack]
      exact State.homeByte_congr (fun _ => rfl) rfl j
    have hbytes' (j : Nat) : (u.endLine x).progress.homeByte j = (State.homePut { s with locks } k x.data).homeByte j := by
      rw [← hbytes j, hend]
      exact State.homeByte_congr (fun _ => rfl) rfl j
    have hbulk : u.iod.bulk = s.iod.bulk := by
      rw [hack, hhome]
    rw [exec_lineArrival hx hdst hkey hout href htag hfull hbehind hheld hroom, hput, hlock, hu]
    refine ⟨_, rfl, ?_, ?_, ?_, fun j hj => ?_, fun j hj => ?_, fun n ho hl hno => ?_⟩
    · rw [hend, hack, hhome]
      rfl
    · rw [hend, hack]
      exact List.mem_append_right _ (List.mem_singleton.2 rfl)
    · rw [hend]
      exact hids.trans (by rw [hbulk])
    · rw [hbytes', State.homeByte_homePut, if_pos (by omega), Nat.add_sub_cancel_left]
    · rw [hbytes', State.homeByte_homePut, if_neg hj]
      exact State.homeByte_congr (fun _ => rfl) rfl j
    · exact u.endLine_frees ho hl (by rw [hbulk]; exact hno)
  case own =>
    intro s line op k x o hx hdst hop ho hkey hout href hfull hbehind hheld hroom
    obtain rfl := State.bulk?_id hx
    have htag : s.lineTag x k = true := by
      unfold State.lineTag
      rw [hop]
      rfl
    rw [exec_lineArrival hx hdst hkey hout href htag hfull hbehind hheld hroom]
    obtain ⟨arrivals, dropped, hcount⟩ := (s.putLine x k x.green).countLine_only x
    have hk : LinesKept s ((s.putLine x k x.green).countLine x) := (s.putLine_linesKept x k x.green).trans (by rw [hcount]; exact ⟨rfl, rfl⟩)
    exact ⟨_, rfl, State.acked_endLine hk hop ho⟩
  case away =>
    intro s line op x o hx hdst hop ho
    obtain rfl := State.bulk?_id hx
    have hexec (err : Option Nat) : exec (.bulkLineArrival ⟨x.id, err⟩) s = s.lineAway x err := by
      show execBulkLineArrival ⟨x.id, err⟩ s = _
      unfold execBulkLineArrival
      simp only [hx, bne_iff_ne.2 hdst, if_true]
    refine ⟨fun hreach hans hheld => ?_, fun code hcode => ?_⟩
    · have hk : LinesKept s (match x.key with | some k => s.putLine x k x.green | none => s) := by
        split
        · exact s.putLine_linesKept ..
        · exact .refl s
      have hany : x.key.any (s.lineHeld x) = false := by
        cases hkey : x.key with
        | none => rfl
        | some k => exact hheld k hkey
      rw [hexec]
      unfold State.lineAway
      exact event_leads (by rw [hreach, hans, hany]; rfl) (State.acked_endLine hk hop ho)
    · rw [hexec]
      unfold State.lineAway
      simp only [hop, Option.bind_some, ho]
      refine event_leads ?_ (State.engineStop_endLine ho x code x.va false true)
      obtain ⟨hreach, rfl⟩ | ⟨hreach, hans, rfl | rfl⟩ := hcode
      · rw [hreach]
        rfl
      · rw [hreach, hans]
        rfl
      · rw [hreach, hans]
        rfl
  case complete =>
    intro s op o kind code count h group turn ho hk hs htodo hbuf hack
    obtain ⟨hmem, hengines, -, hthreads⟩ := engineGone_landEngine (s := s) (p := s) (State.engine?_id ho) (.refl s) rfl rfl rfl
    show Out.Leads (execBulkComplete op s) _
    unfold execBulkComplete
    simp only [ho]
    refine event_leads ?_ ⟨hmem, hengines, fun hwg n hn => (hthreads hwg n hn).1⟩
    simp only [hs, htodo, hbuf, hk]
    obtain ⟨rfl, h⟩ | ⟨hne, h⟩ := hack
    · simpa using h
    · rcases kind with _ | _ | _ | n
      · simpa using h
      · simpa using h
      · exact absurd rfl hne
      · simpa using h
  case combine =>
    intro s group turn pos parts x cg hx hg hlen hranks hparts hown
    obtain ⟨p, hp, hrank, hop, hdata⟩ := hown
    have hwhole : (parts.length == cg.chips.length && (List.range cg.chips.length).all (fun r => parts.any (fun p => p.rank == r)) &&
        parts.all (fun p => p.data.length == x.data.length) &&
        parts.any (fun p => p.rank == cg.rank && p.op == x.code && p.data == x.data)) = true := by
      simp only [Bool.and_eq_true, beq_iff_eq, List.all_eq_true, List.any_eq_true, List.mem_range]
      exact ⟨⟨⟨hlen, hranks⟩, fun q hq => (hparts q hq).1⟩, p, hp, ⟨hrank, hop⟩, hdata⟩
    have hcode : x.firstCode parts = x.code := by
      unfold RedLine.firstCode
      split
      next q hq => exact (hparts q (List.mem_of_find?_eq_some hq)).2
      · rfl
    have hexec : exec (.reductionCombine ⟨group, turn⟩ pos parts) s = .next (s.combined x (x.result s.me group
        (bytesOf (reduceParts (x.firstCode parts) parts cg.leaves)))).progress := by
      show execReductionCombine ⟨group, turn⟩ pos parts s = _
      unfold execReductionCombine
      simp only [hx, hg]
      exact event_of_true hwhole _
    rw [hexec, hcode]
    exact ⟨_, rfl, s.combined_spec x group (bytesOf (reduceParts x.code parts cg.leaves))⟩

end Sys2Proof

end

section
/-! Packets of other chips, and links (spec 09, R230 to R236; 14, R331, R333). -/

namespace Sys2Proof.Machine

/-! Packets. -/

/-- A reply sets out, and nothing else changes. -/
theorem State.replyPeer_spec (s : State) (chip seq code : Nat) (bytes : List Byte) : SameMemory s (s.replyPeer chip seq code bytes) ∧
    (s.replyPeer chip seq code bytes).threads = s.threads ∧ Reply.peer chip seq code bytes ∈ (s.replyPeer chip seq code bytes).iod.replies :=
  ⟨sameMemory_of rfl rfl, rfl, List.mem_append_right _ (List.mem_singleton.2 rfl)⟩

section
variable {s : State} {p : Packet} {slot : PortSlot}

/-- A packet that is not in its source's window, or waits already, or comes from no admitted peer is refused. -/
theorem arrival_refused (hw : s.waiting? (.request p) = some slot) (h : s.checker.admitted.contains p.src = false) :
    exec (.fabricPacketArrival p) s = .refused .notEnabled := by
  show execFabricPacketArrival p s = _
  unfold execFabricPacketArrival
  simp only [hw, h, Bool.not_false, Bool.or_true, if_true]

theorem reorder_unknown (h : ∀ q ∈ s.iod.reorder, ¬ (q.world = p.world ∧ q.src = p.src ∧ q.seq = p.seq)) :
    s.iod.reorder.any (fun q => q.world == p.world && q.src == p.src && q.seq == p.seq) = false := by
  rw [List.any_eq_false]
  intro q hq hc
  simp only [Bool.and_eq_true, beq_iff_eq] at hc
  exact h q hq ⟨hc.1.1, hc.1.2, hc.2⟩

/-- A packet ahead of its turn waits in the reorder buffer. -/
theorem arrival_waits (hw : s.waiting? (.request p) = some slot) (ha : s.checker.admitted.contains p.src = true)
    (hnew : ∀ q ∈ s.iod.reorder, ¬ (q.world = p.world ∧ q.src = p.src ∧ q.seq = p.seq)) (hlt : tabGet 0 (seqKey p.world p.src) s.iod.gotSeq < p.seq)
    (hwin : p.seq < tabGet 0 (seqKey p.world p.src) s.iod.gotSeq + 2048) (hroom : (s.iod.reorder.filter (fun q => q.src == p.src)).length < 2048) :
    exec (.fabricPacketArrival p) s = .next { s.freeSlot slot with iod := { (s.freeSlot slot).iod with reorder := s.iod.reorder ++ [p] } } := by
  have hno : (decide (p.seq < tabGet 0 (seqKey p.world p.src) s.iod.gotSeq) || decide (tabGet 0 (seqKey p.world p.src) s.iod.gotSeq + 2048 ≤ p.seq) ||
      s.iod.reorder.any (fun q => q.world == p.world && q.src == p.src && q.seq == p.seq) || !s.checker.admitted.contains p.src) = false := by
    rw [reorder_unknown hnew, ha, decide_eq_false (by omega), decide_eq_false (by omega)]
    rfl
  show execFabricPacketArrival p s = _
  unfold execFabricPacketArrival
  simp only [hw, hno, Bool.false_eq_true, if_false, beq_eq_false_iff_ne.2 (Nat.ne_of_gt hlt), Nat.not_le.2 hroom]

/-- A packet whose turn is noted. -/
def State.turned (s : State) (p : Packet) : State :=
  { s with iod := { s.iod with gotSeq := tabSet 0 (seqKey p.world p.src) (p.seq + p.covers) s.iod.gotSeq } }

/-- A packet in its turn is presented; where no other waits, alone. -/
theorem arrival_presents (hw : s.waiting? (.request p) = some slot) (ha : s.checker.admitted.contains p.src = true)
    (hseq : p.seq = tabGet 0 (seqKey p.world p.src) s.iod.gotSeq) (hr : s.iod.reorder = []) (hpr : ((s.freeSlot slot).present p).iod.reorder = []) :
    exec (.fabricPacketArrival p) s = .next (((s.freeSlot slot).present p).turned p).progress := by
  have hno : (decide (p.seq < tabGet 0 (seqKey p.world p.src) s.iod.gotSeq) || decide (tabGet 0 (seqKey p.world p.src) s.iod.gotSeq + 2048 ≤ p.seq) ||
      s.iod.reorder.any (fun q => q.world == p.world && q.src == p.src && q.seq == p.seq) || !s.checker.admitted.contains p.src) = false := by
    rw [hr, ha, decide_eq_false (by omega), decide_eq_false (by omega)]
    rfl
  show execFabricPacketArrival p s = _
  unfold execFabricPacketArrival
  simp only [hw, hno, Bool.false_eq_true, if_false, beq_iff_eq.2 hseq, if_true]
  rw [hr, List.length_nil]
  unfold State.presentAll
  dsimp only
  split
  next q hq =>
    rw [hpr] at hq
    cases hq
  · rfl

theorem State.present_refused (h : s.liveWorld p.world = false ∨ s.peerAdmits p.world p.src = false) : s.present p = s.replyPeer p.src p.seq 0x23 [] := by
  unfold State.present
  rw [if_pos]
  rcases h with h | h <;> simp [h]

theorem State.present_atHome (hl : s.liveWorld p.world = true) (ha : s.peerAdmits p.world p.src = true) {w : World} {k : Nat}
    (hw : s.world? p.world = some w) (hk : w.place (p.addr.toNat % 2 ^ 40) = some k) (hn : ∀ a b c d e f g h, p.kind ≠ .bulkLine a b c d e f g h) :
    s.present p = { s with iod := { s.iod with atHome := s.iod.atHome ++ [(p, k)] } } := by
  unfold State.present
  simp only [hl, ha, Bool.not_true, Bool.or_self, Bool.false_eq_true, if_false, hw, Option.bind_some, hk]

end

/-- One byte of a line, written where it is enabled. -/
def State.putByte (key : Nat) (en : BitVec 128) (s : State) (b : Nat × Byte) : State := if en.getLsbD b.1 then s.homePut (key + b.1) [b.2] else s

theorem State.putByte_filled (key : Nat) (en : BitVec 128) (s : State) (b : Nat × Byte) : Filled s (State.putByte key en s b) := by
  unfold State.putByte
  split
  · exact s.homePut_filled ..
  · exact .refl s

theorem State.homeByte_putBytes (key : Nat) (en : BitVec 128) (data : List Byte) (a : Nat) (s : State) (j : Nat) :
    (((List.range' a data.length).zip data).foldl (State.putByte key en) s).homeByte j =
      if key + a ≤ j ∧ j < key + a + data.length ∧ en.getLsbD (j - key) = true then listGet 0 data (j - (key + a)) else s.homeByte j := by
  induction data generalizing a s with
  | nil =>
    rw [List.length_nil, if_neg (by omega)]
    rfl
  | cons b data ih =>
    rw [List.length_cons, List.range'_succ, List.zip_cons_cons, List.foldl_cons, ih]
    have hbyte : (State.putByte key en s (a, b)).homeByte j = if j = key + a ∧ en.getLsbD a = true then b else s.homeByte j := by
      unfold State.putByte
      split
      next hen =>
        rw [State.homeByte_homePut, List.length_singleton]
        by_cases hj : j = key + a
        · subst hj
          rw [if_pos (by omega), if_pos ⟨rfl, hen⟩, Nat.sub_self]
          rfl
        · rw [if_neg (by omega), if_neg (fun h => hj h.1)]
      next hen => rw [if_neg (fun h => hen h.2)]
    rw [hbyte]
    by_cases hj : j = key + a
    · subst hj
      rw [if_neg (by omega), Nat.add_sub_cancel_left, Nat.sub_self]
      refine if_congr ⟨fun h => ⟨by omega, by omega, h.2⟩, fun h => ⟨rfl, h.2.2⟩⟩ rfl rfl
    · rw [if_neg (c := j = key + a ∧ en.getLsbD a = true) (fun h => hj h.1)]
      by_cases hin : key + (a + 1) ≤ j
      · rw [show j - (key + a) = j - (key + (a + 1)) + 1 by omega]
        exact if_congr ⟨fun h => ⟨by omega, by omega, h.2.2⟩, fun h => ⟨hin, by omega, h.2.2⟩⟩ rfl rfl
      · rw [if_neg (fun h => hin h.1), if_neg (fun h => by omega)]

theorem State.putEnabled_eq (s : State) (key : Nat) (data : List Byte) (en : BitVec 128) :
    s.putEnabled key data en = ((List.range' 0 data.length).zip data).foldl (State.putByte key en) s := by
  rw [← List.range_eq_range']
  rfl

/-- The enabled bytes of a line are written, and no other. -/
theorem State.homeByte_putEnabled (s : State) (key : Nat) (data : List Byte) (en : BitVec 128) (j : Nat) :
    (s.putEnabled key data en).homeByte j = if key ≤ j ∧ j < key + data.length ∧ en.getLsbD (j - key) = true then listGet 0 data (j - key)
      else s.homeByte j := by
  rw [State.putEnabled_eq, State.homeByte_putBytes]
  rfl

section
variable {s : State} {pos k : Nat} {p : Packet}

/-- The state in which a packet has left its home's queue. -/
def State.leaveHome (s : State) (pos : Nat) : State := { s with iod := { s.iod with atHome := s.iod.atHome.eraseIdx pos } }

theorem homeMove_performs (hp : s.iod.atHome[pos]? = some (p, k)) (hb : s.behindAtHome p.world p.src p.seq (keyDie k) = false)
    (hh : s.packetHeld p k = false) : homeMove s pos = (s.leaveHome pos).performPacket p k := by
  unfold homeMove
  simp only [hp]
  rw [if_neg]
  · rfl
  · simp [State.homeReady, hb, hh]

theorem State.performPacket_read (ha : keyAbsent k = false) (ho : s.outside p.world k = false) (hk : p.kind = .read) (he : s.errs k = false) :
    s.performPacket p k = .next (s.replyPeer p.src p.seq 0 ((List.range 128).map (fun i => s.homeByte (lineOf k * 128 + i)))).progress := by
  unfold State.performPacket
  simp only [ha, ho, hk, he, Bool.false_eq_true, if_false]

theorem State.performPacket_write {data : List Byte} {en : BitVec 128} (ha : keyAbsent k = false) (ho : s.outside p.world k = false)
    (hk : p.kind = .write data en) (he : s.refuses k = false) (ht : s.tagAdmits p.world p.addr.toNat = true) :
    s.performPacket p k = .next ((s.putEnabled (lineOf k * 128) data en).replyPeer p.src p.seq 0 []).progress := by
  unfold State.performPacket
  simp only [ha, ho, hk, he, ht, Bool.not_true, Bool.false_eq_true, if_false]

theorem State.performPacket_atomic {op : AtomOp} {ty : BitVec 2} {b c : Word} (ha : keyAbsent k = false) (ho : s.outside p.world k = false)
    (hk : p.kind = .atomic op ty b c) (he : s.errs k = false) (ht : s.tagAdmits p.world p.addr.toNat = true) {old : Word}
    (hold : BitVec.ofNat 32 (leNat ((List.range 4).map (fun i => s.homeByte (k + i)))) = old) :
    s.performPacket p k = .next ((s.homePut k (natLe 4 (atomNew op ty old b c).toNat)).replyPeer p.src p.seq 0 (natLe 4 old.toNat)).progress := by
  unfold State.performPacket
  simp only [ha, ho, hk, he, ht, Bool.not_true, Bool.false_eq_true, if_false, hold]

end

/-! Links. -/

section
variable {s : State} {n : Nat} {x : Link}

theorem State.modLink_eq (h : s.link? n = some x) (f : Link → Link) : s.modLink n f = { s with iod := { s.iod with links := listSet s.iod.links n (f x) } } := by
  unfold State.modLink
  rw [h]

theorem State.link?_modLink (h : s.link? n = some x) (f : Link → Link) : (s.modLink n f).link? n = some (f x) := by
  rw [State.modLink_eq h]
  exact getElem?_listSet _ _ _ h

theorem State.modLink_only (s : State) (n : Nat) (f : Link → Link) : ∃ links, s.modLink n f = { s with iod := { s.iod with links } } := by
  unfold State.modLink
  split
  · exact ⟨_, rfl⟩
  · exact ⟨s.iod.links, rfl⟩

/-- A link that is down. -/
def Link.down (x : Link) : Link := { x with up := false, replays := 0, tagFails := 0, unacked := 0 }

theorem State.linkDown_only (s : State) (n : Nat) : ∃ links routing, s.linkDown n = { s with iod := { s.iod with links, routing } } := by
  obtain ⟨links, h⟩ := s.modLink_only n Link.down
  refine ⟨links, (s.linkDown n).iod.routing, ?_⟩
  unfold State.linkDown
  rw [show s.modLink n (fun x => { x with up := false, replays := 0, tagFails := 0, unacked := 0 }) = s.modLink n Link.down from rfl, h]

theorem State.link?_linkDown (h : s.link? n = some x) : (s.linkDown n).link? n = some x.down := State.link?_modLink h Link.down

/-- A link without its peer. -/
def Link.alone (x : Link) : Link := { x with peer := none, shown := none }

/-- A peer that fails the policy is admitted no more, and its link is down. -/
theorem State.expel_spec (h : s.link? n = some x) (chip : Nat) : SameMemory s (s.expel n chip) ∧ chip ∉ (s.expel n chip).checker.admitted ∧
    (s.expel n chip).link? n = some x.down.alone := by
  generalize hc : ({ s with checker := { s.checker with admitted := s.checker.admitted.filter (· != chip) } } : State) = u
  have hu : u.link? n = some x := by
    rw [← hc]
    exact h
  have hx : s.expel n chip = (u.linkDown n).modLink n Link.alone := by
    rw [← hc]
    rfl
  obtain ⟨links, routing, hd⟩ := u.linkDown_only n
  obtain ⟨links', hm⟩ := (u.linkDown n).modLink_only n Link.alone
  rw [hx]
  refine ⟨?_, ?_, State.link?_modLink (State.link?_linkDown hu) Link.alone⟩
  · rw [hm, hd, ← hc]
    exact sameMemory_of rfl rfl
  · rw [hm, hd, ← hc]
    simp

/-- A link on which a peer is admitted. -/
def Link.admitting (ev : PeerEvidence) (x : Link) : Link :=
  { x with
    up := true, peer := some ev.chip, shown := some ev, slot := !x.slot, counter := 0, counterIn := 0, replays := 0, tagFails := 0, unacked := 0 }

/-- The link's record of a peer that is admitted. -/
def State.admitPeer (s : State) (n : Nat) (ev : PeerEvidence) : State := s.modLink n (Link.admitting ev)

theorem State.admitPeer_spec (h : s.link? n = some x) (ev : PeerEvidence) : (s.admitPeer n ev).link? n = some (x.admitting ev) ∧
    ∃ links, s.admitPeer n ev = { s with iod := { s.iod with links } } :=
  ⟨State.link?_modLink h _, s.modLink_only n _⟩

/-- A peer that is not admitted, and its link where it had one. -/
def State.rejectPeer (s : State) (n : Nat) (x : Link) (ev : PeerEvidence) : State :=
  let s1 := { s with checker := { s.checker with admitted := s.checker.admitted.filter (· != ev.chip) } }
  (if x.peer.isSome then s1.linkDown n else s1).modLink n Link.alone

theorem State.rejectPeer_spec (h : s.link? n = some x) (ev : PeerEvidence) : SameMemory s (s.rejectPeer n x ev) ∧ (s.rejectPeer n x ev).threads = s.threads ∧
    ev.chip ∉ (s.rejectPeer n x ev).checker.admitted ∧ ∃ y, (s.rejectPeer n x ev).link? n = some y ∧ y.peer = none := by
  generalize hc : ({ s with checker := { s.checker with admitted := s.checker.admitted.filter (· != ev.chip) } } : State) = u
  have hu : u.link? n = some x := by
    rw [← hc]
    exact h
  have hv : ∃ v y links routing, (if x.peer.isSome then u.linkDown n else u) = v ∧ v.link? n = some y ∧ v = { u with iod := { u.iod with links, routing } } := by
    split
    · obtain ⟨links, routing, hd⟩ := u.linkDown_only n
      exact ⟨_, _, links, routing, rfl, State.link?_linkDown hu, hd⟩
    · exact ⟨u, x, u.iod.links, u.iod.routing, rfl, hu, rfl⟩
  obtain ⟨v, y, links, routing, hv, hy, hveq⟩ := hv
  have hx : s.rejectPeer n x ev = v.modLink n Link.alone := by
    unfold State.rejectPeer
    rw [hc, ← hv]
  obtain ⟨links', hm⟩ := v.modLink_only n Link.alone
  rw [hx]
  refine ⟨?_, ?_, ?_, _, State.link?_modLink hy Link.alone, rfl⟩
  · rw [hm, hveq, ← hc]
    exact sameMemory_of rfl rfl
  · rw [hm, hveq, ← hc]
  · rw [hm, hveq, ← hc]
    simp

end

/-! Merging. -/

/-- Two writes that merge are those of one place in a row, and the later one's enabled bytes win. -/
theorem mergePackets_spec {p q m : Packet} {d d' : List Byte} {e e' : BitVec 128} (hp : p.kind = .write d e) (hq : q.kind = .write d' e')
    (h : mergePackets p q = some m) : m.seq = p.seq ∧ m.covers = p.covers + q.covers ∧ ∃ x, m.kind = .write x (e ||| e') ∧ ∀ j, j < d.length →
      listGet 0 x j = if e'.getLsbD j then listGet 0 d' j else listGet 0 d j := by
  unfold mergePackets at h
  simp only [hp, hq] at h
  split at h
  · obtain rfl := Option.some.inj h
    refine ⟨rfl, rfl, _, rfl, fun j hj => ?_⟩
    rw [listGet_map_range _ _ _ _ hj]
    split
    · rfl
    · rfl
  · cases h

end Sys2Proof.Machine

namespace Sys2Proof
open Sys2Proof.Machine

/-- Settles O36: a packet is refused, waits or is presented by its turn; a home performs it by what its kind writes. -/
theorem fabricPackets : Obligations.FabricPackets := by
  refine ⟨fun s p slot hw => ⟨fun ha => arrival_refused hw ha, fun ha hnew => ⟨fun hlt hwin hroom => arrival_waits hw ha hnew hlt hwin hroom,
    fun hseq hr => ⟨fun hno => ?refused, ?presented⟩⟩⟩, fun s pos p k hp hb hh ha ho => ⟨?read, ?write, ?atomic⟩⟩
  case refused =>
    have hpr : (s.freeSlot slot).present p = (s.freeSlot slot).replyPeer p.src p.seq 0x23 [] := State.present_refused hno
    rw [arrival_presents hw ha hseq hr (by rw [hpr]; exact hr), hpr]
    obtain ⟨hmem, hthreads, hreply⟩ := (s.freeSlot slot).replyPeer_spec p.src p.seq 0x23 []
    exact ⟨_, rfl, SameMemory.trans (sameMemory_of rfl rfl) (hmem.trans (sameMemory_of rfl rfl)), hthreads, hreply⟩
  case presented =>
    intro hl hpa w k hworld hplace hkind
    have hpr := State.present_atHome (s := s.freeSlot slot) hl hpa hworld hplace hkind
    rw [arrival_presents hw ha hseq hr (by rw [hpr]; exact hr), hpr]
    exact ⟨_, rfl, sameMemory_of rfl rfl, rfl, rfl⟩
  case read =>
    intro hk he
    have hbytes (i : Nat) : (s.leaveHome pos).homeByte i = s.homeByte i := State.homeByte_congr (fun _ => rfl) rfl i
    obtain ⟨hmem, hthreads, hreply⟩ := (s.leaveHome pos).replyPeer_spec p.src p.seq 0
      ((List.range 128).map (fun i => (s.leaveHome pos).homeByte (lineOf k * 128 + i)))
    rw [homeMove_performs hp hb hh, State.performPacket_read (s := s.leaveHome pos) ha ho hk he]
    refine ⟨_, rfl, SameMemory.trans (sameMemory_of rfl rfl) (hmem.trans (sameMemory_of rfl rfl)), hthreads, ?_⟩
    simp only [hbytes] at hreply ⊢
    exact hreply
  case write =>
    intro data en hk hlen he ht
    generalize hu : (s.leaveHome pos).putEnabled (lineOf k * 128) data en = u
    obtain ⟨hmem, hthreads, hreply⟩ := u.replyPeer_spec p.src p.seq 0 []
    have hbyte (j : Nat) : u.homeByte j = if lineOf k * 128 ≤ j ∧ j < lineOf k * 128 + data.length ∧ en.getLsbD (j - lineOf k * 128) = true
        then listGet 0 data (j - lineOf k * 128) else s.homeByte j := by
      rw [← hu, State.homeByte_putEnabled]
      rfl
    have hut : u.threads = s.threads := by
      rw [← hu, State.putEnabled_eq]
      obtain ⟨_, _, _, _, _, _, _, _, _, _, hf⟩ := Filled.foldl (State.putByte_filled (lineOf k * 128) en) ((List.range' 0 data.length).zip data) (s.leaveHome pos)
      rw [hf]
      rfl
    rw [homeMove_performs hp hb hh, State.performPacket_write (s := s.leaveHome pos) ha ho hk he ht, hu]
    refine ⟨_, rfl, hthreads.trans hut, fun j hj => ?_, fun j hj => ?_, hreply⟩
    · refine (hmem.2 _).trans ((hbyte _).trans ?_)
      rw [Nat.add_sub_cancel_left]
      exact if_congr ⟨fun h => h.2.2, fun h => ⟨by omega, by omega, h⟩⟩ rfl rfl
    · refine (hmem.2 _).trans ((hbyte _).trans (if_neg (fun h => hj ?_)))
      omega
  case atomic =>
    intro op ty b c hk he ht
    dsimp only
    have hold : BitVec.ofNat 32 (leNat ((List.range 4).map (fun i => (s.leaveHome pos).homeByte (k + i)))) =
        BitVec.ofNat 32 (leNat ((List.range 4).map (fun i => s.homeByte (k + i)))) := rfl
    generalize BitVec.ofNat 32 (leNat ((List.range 4).map (fun i => s.homeByte (k + i)))) = old at hold ⊢
    generalize hu : (s.leaveHome pos).homePut k (natLe 4 (atomNew op ty old b c).toNat) = u
    obtain ⟨hmem, hthreads, hreply⟩ := u.replyPeer_spec p.src p.seq 0 (natLe 4 old.toNat)
    have hut : u.threads = s.threads := by
      obtain ⟨_, _, _, hf⟩ := (s.leaveHome pos).homePut_lines k (natLe 4 (atomNew op ty old b c).toNat)
      rw [← hu, hf]
      rfl
    rw [homeMove_performs hp hb hh, State.performPacket_atomic (s := s.leaveHome pos) ha ho hk he ht hold, hu]
    refine ⟨_, rfl, hthreads.trans hut, fun j hj => (hmem.2 _).trans ?_, fun j hj => (hmem.2 _).trans ?_, hreply⟩
    · rw [← hu]
      exact State.homeByte_homePut_word (s.leaveHome pos) k 4 _ hj
    · rw [← hu]
      exact (State.homePut_outside (s.leaveHome pos) (by rwa [natLe_length])).1

/-- Settles O37: what a link's own record becomes, and what merging keeps of both writes. -/
theorem linksAndMerging : Obligations.LinksAndMerging := by
  refine ⟨fun s pos p q m hp hq hm => ?merge, fun p q m d d' e e' hp hq h => mergePackets_spec hp hq h, fun s n x hx hup => ⟨?replay, ?down, ?rekey⟩, ?peer⟩
  case merge =>
    show execWriteMerge pos s = _
    unfold execWriteMerge
    simp only [hp, hq, hm]
  case replay =>
    obtain ⟨links, h⟩ := s.modLink_only n (fun x => { x with replays := x.replays + 1 })
    have hl := State.link?_modLink hx (fun x => { x with replays := x.replays + 1 })
    show Out.Leads (execFlitReplay n s) _
    unfold execFlitReplay
    simp only [hx]
    refine event_leads hup ⟨?_, ?_, hl⟩
    · rw [h]
      exact sameMemory_of rfl rfl
    · rw [h]
      rfl
  case down =>
    intro h16
    obtain ⟨links, routing, h⟩ := s.linkDown_only n
    have hl := State.link?_linkDown hx
    show Out.Leads (execLinkTakenDown n s) _
    unfold execLinkTakenDown
    simp only [hx]
    refine event_leads (by simp [hup, h16]) ⟨?_, ?_, _, hl, rfl⟩
    · rw [h]
      exact sameMemory_of rfl rfl
    · rw [h]
      rfl
  case rekey =>
    intro chip ev hn hpeer hshown
    have hexec : exec (.linkRekey n) s = .next (s.rekeyLink n).progress := by
      show execLinkRekey n s = _
      unfold execLinkRekey
      rw [if_neg (by omega), if_neg (by omega)]
      simp only [hx]
      exact event_of_true (by rw [hup, hpeer]; rfl) _
    rw [hexec]
    refine ⟨fun hacc => ?_, fun hacc => ?_⟩
    · have hre : s.rekeyLink n = s.modLink n Link.rekeyed := by
        unfold State.rekeyLink
        simp only [hx, hpeer, hshown, Option.any_some, hacc, if_true]
      obtain ⟨links, h⟩ := s.modLink_only n Link.rekeyed
      refine ⟨_, rfl, ?_, ?_⟩
      · rw [hre, h]
        exact sameMemory_of rfl rfl
      · rw [hre]
        exact State.link?_modLink hx Link.rekeyed
    · have hre : s.rekeyLink n = s.expel n chip := by
        unfold State.rekeyLink
        simp only [hx, hpeer, hshown, Option.any_some, hacc, Bool.false_eq_true, if_false]
      obtain ⟨hmem, hout, hl⟩ := State.expel_spec hx chip
      rw [hre]
      exact ⟨_, rfl, hmem.trans (sameMemory_of rfl rfl), hout, _, hl, rfl, rfl⟩
  case peer =>
    intro s n x ev hx
    show Out.Leads (execPeerAdmission n ev s) _
    unfold execPeerAdmission
    simp only [hx]
    cases hacc : s.checker.accepts ev with
    | true =>
      obtain ⟨hl, links, h⟩ := State.admitPeer_spec hx ev
      refine ⟨_, rfl, ?_, ?_, fun _ => ⟨?_, _, hl, rfl, rfl, rfl, rfl⟩, fun hc => absurd hc (by simp)⟩
      · exact (show SameMemory s (s.admitPeer n ev) by rw [h]; exact sameMemory_of rfl rfl)
      · exact (show (s.admitPeer n ev).threads = s.threads by rw [h])
      · show ev.chip ∈ if s.checker.admitted.contains ev.chip then s.checker.admitted else s.checker.admitted ++ [ev.chip]
        split
        next hm => exact List.contains_iff_mem.1 hm
        · exact List.mem_append_right _ (List.mem_singleton.2 rfl)
    | false =>
      obtain ⟨hmem, hthreads, hout, hl⟩ := State.rejectPeer_spec hx ev
      exact ⟨_, rfl, hmem.trans (sameMemory_of rfl rfl), hthreads, fun hc => absurd hc (by simp), fun _ => ⟨hout, hl⟩⟩

end Sys2Proof

end

section
/-! How message headers arrive and match (spec 09, R247 to R250, R259). -/

namespace Sys2Proof.Machine

/-! Matching. -/

theorem State.world?_modWorld_of {s : State} {world : Nat} {w : World} (hw : s.world? world = some w) (f : World → World) :
    (s.modWorld world f).world? world = some (f w) := by
  rw [State.world?_modWorld, if_pos rfl, hw, Option.map_some]

/-- A header that is taken changes the records of worlds alone. -/
theorem State.takeHeader_only {s t : State} {m : Message} (h : s.takeHeader m = some t) : ∃ worlds, t = { s with worlds } := by
  unfold State.takeHeader at h
  split at h
  · cases h
  · split at h
    · cases h
      exact State.modWorld_eq _ _ _
    · split at h
      · cases h
        exact State.modWorld_eq _ _ _
      · cases h

section
variable {s : State} {m : Message} {w : World} (hw : s.world? m.world = some w)
include hw

/-- The first posted receive that matches takes the header. -/
theorem takeHeader_of_match {r : Receive} (hr : w.postedList.find? (fun r => r.matches m) = some r) :
    ∃ t, s.takeHeader m = some t ∧ t.threads = s.threads ∧ t.mem = s.mem ∧
      ∃ w', t.world? m.world = some w' ∧ w'.unexp = w.unexp ∧ ∀ x ∈ w'.posted, x.id = r.id → x.status = .matched m := by
  have ht : s.takeHeader m = some (s.modWorld m.world (fun w => { w with
      posted := mapIf (fun x => x.id == r.id) (fun x => { x with status := .matched m }) w.posted })) := by
    unfold State.takeHeader
    simp only [hw, hr]
  obtain ⟨worlds, hwo⟩ := State.takeHeader_only ht
  refine ⟨_, ht, by rw [hwo], by rw [hwo], _, State.world?_modWorld_of hw _, rfl, ?_⟩
  intro x hx hid
  obtain ⟨y, -, rfl⟩ := List.mem_map.1 hx
  by_cases hy : y.id = r.id
  · simp [hy]
  · rw [if_neg (by simpa using hy)] at hid
    exact absurd hid hy

/-- A header that no posted receive matches joins the unexpected queue while that has room. -/
theorem takeHeader_of_room (hr : w.postedList.find? (fun r => r.matches m) = none) (hroom : w.unexp.length < 1024) :
    ∃ t, s.takeHeader m = some t ∧ ∃ w', t.world? m.world = some w' ∧ w'.unexp = w.unexp ++ [m] ∧ w'.posted = w.posted := by
  refine ⟨s.modWorld m.world (fun w => { w with unexp := w.unexp ++ [m] }), ?_, _,
    State.world?_modWorld_of hw _, rfl, rfl⟩
  unfold State.takeHeader
  simp only [hw, hr, hroom, if_true]

theorem takeHeader_of_full (hr : w.postedList.find? (fun r => r.matches m) = none) (hfull : 1024 ≤ w.unexp.length) :
    s.takeHeader m = none := by
  unfold State.takeHeader
  simp only [hw, hr, Nat.not_lt.2 hfull, if_false]

end

/-! A header that was accepted, for the send that brought it. -/

theorem State.headerTaken_of_op {s : State} {m : Message} {op : Nat} (h : m.op = some op) :
    s.headerTaken m = s.modEngine op (fun o => { o with sent := 1 }) := by
  unfold State.headerTaken
  rw [h]

/-- The send of a header that was taken has its header accepted. -/
theorem headerTaken_engine {s t : State} {m : Message} {op : Nat} {o : EngineOp} (hm : m.op = some op) (he : s.engine? op = some o)
    (ht : t.engines = s.engines) : ∃ o', (t.headerTaken m).progress.engine? op = some o' ∧ o'.sent = 1 := by
  rw [State.headerTaken_of_op hm]
  exact ⟨{ o with sent := 1 }, (State.engine?_modEngine t op (fun o => { o with sent := 1 }) (fun _ => rfl)).trans
    (by rw [State.engine?_congr ht, he, Option.map_some]), rfl⟩

/-- A header that comes by loopback. -/
theorem loopback_arrives {s : State} {m : Message} {op : Nat} {o : EngineOp} (hm : m.op = some op) (he : s.engine? op = some o)
    (hown : s.ownHeader m op = true) (hnone : ∀ x ∈ s.iod.resend, x.1.op ≠ some op) :
    (∀ t, s.takeHeader m = some t → Out.Leads (exec (.messageHeaderArrival m) s) (fun u => SameMemory s u ∧ u.worlds = t.worlds ∧
      ∃ o', u.engine? op = some o' ∧ o'.sent = 1)) ∧
    (s.takeHeader m = none → exec (.messageHeaderArrival m) s =
      .next { s with iod := { s.iod with resend := s.iod.resend ++ [(m, s.clock + 1024)] } }) := by
  have hno : s.iod.resend.any (fun x => x.1.op == some op) = false :=
    List.any_eq_false.2 (fun x hx => by simpa using hnone x hx)
  constructor
  · intro t ht
    refine ⟨(t.headerTaken m).progress, ?_, ?_⟩
    · show execMessageHeaderArrival m s = _
      unfold execMessageHeaderArrival
      simp only [hm, hown, hno, Bool.not_true, Bool.or_false, Bool.false_eq_true, if_false, ht]
    · obtain ⟨worlds, rfl⟩ := State.takeHeader_only ht
      refine ⟨?_, ?_, headerTaken_engine hm he rfl⟩
      · rw [State.headerTaken_of_op hm]
        exact sameMemory_of rfl rfl
      · rw [State.headerTaken_of_op hm]
        rfl
  · intro ht
    show execMessageHeaderArrival m s = _
    unfold execMessageHeaderArrival
    simp only [hm, hown, hno, Bool.not_true, Bool.or_false, Bool.false_eq_true, if_false, ht]

/-- A header that a peer brings. -/
theorem peerHeader_arrives {s : State} {m : Message} {slot : PortSlot} (hm : m.op = none) (hw : s.waiting? (.message m) = some slot)
    (ha : s.checker.admitted.contains m.src.toNat = true) (hf : s.headerFirst m = true) :
    exec (.messageHeaderArrival m) s =
      if !s.liveWorld m.world || !s.peerAdmits m.world m.src.toNat then .next ((s.freeSlot slot).replyPeer m.src.toNat 0 0x23 [])
      else .next (((s.freeSlot slot).takeHeader m).elim (s.freeSlot slot) State.progress) := by
  show execMessageHeaderArrival m s = _
  unfold execMessageHeaderArrival
  simp only [hm, hw, ha, hf, Bool.not_true, Bool.or_false, Bool.false_eq_true, if_false]
  cases (s.freeSlot slot).takeHeader m <;> rfl

/-- A header that comes again. -/
theorem header_comes_again {s : State} {op : Nat} {x : Message × Nat}
    (hx : s.iod.resend.find? (fun x => x.1.op == some op && x.2 ≤ s.clock) = some x) :
    let s1 : State := { s with iod := { s.iod with resend := s.iod.resend.erase x } }
    (∀ t, s1.takeHeader x.1 = some t → Out.Leads (exec (.messageResend op) s) (fun u => SameMemory s u ∧ u.threads = s.threads ∧
      u.worlds = t.worlds ∧ u.iod = s1.iod ∧ ∀ o, s.engine? op = some o → ∃ o', u.engine? op = some o' ∧ o'.sent = 1)) ∧
    (s1.takeHeader x.1 = none → exec (.messageResend op) s =
      .next { s1 with iod := { s1.iod with resend := s1.iod.resend ++ [(x.1, s.clock + 1024)] } }) := by
  have hm : x.1.op = some op := by
    have := List.find?_some hx
    simp only [Bool.and_eq_true, beq_iff_eq] at this
    exact this.1
  intro s1
  constructor
  · intro t ht
    refine ⟨(t.headerTaken x.1).progress, ?_, ?_⟩
    · show execMessageResend op s = _
      unfold execMessageResend
      simp only [hx]
      rw [ht]
    · obtain ⟨worlds, rfl⟩ := State.takeHeader_only ht
      refine ⟨?_, ?_, ?_, ?_, fun o he => headerTaken_engine (s := s) hm he rfl⟩
      · rw [State.headerTaken_of_op hm]
        exact sameMemory_of rfl rfl
      · rw [State.headerTaken_of_op hm]
        rfl
      · rw [State.headerTaken_of_op hm]
        rfl
      · rw [State.headerTaken_of_op hm]
        rfl
  · intro ht
    show execMessageResend op s = _
    unfold execMessageResend
    simp only [hx]
    rw [ht]

/-! Scale-out frames. -/

section
variable {s : State} {f : Frame} (hpow : s.powered = true) (hup : ∃ p, s.iod.eth[f.eth]? = some p ∧ p.up = true)
  (hsize : f.msg.size = f.msg.data.length) (hop : f.msg.op = none)
include hpow hup hsize hop

/-- A frame at a port that is up, with its payload. -/
theorem frame_eq : exec (.ethFrameArrival f) s =
    (s.iod.endpoints.find? (fun x => x.2.live && x.2.addr == f.addr && x.2.port == f.port)).elim
      (.next { s with iod := { s.iod with ethDropped := s.iod.ethDropped + 1 } }) (fun y =>
      if f.seq != y.2.got then .next s
      else if !s.liveWorld f.msg.world then .next { s with iod := { s.iod with ethDropped := s.iod.ethDropped + 1 } }
      else (s.takeHeader { f.msg with src := BitVec.ofNat 13 (4096 + y.1 % 4096) }).elim (.next s) (fun t =>
        .next (State.progress { t with iod := { t.iod with endpoints := assocSet y.1 { y.2 with got := y.2.got + 1 } t.iod.endpoints } }))) := by
  obtain ⟨p, hp, hu⟩ := hup
  have hgo : (!s.powered || !p.up || f.msg.size != f.msg.data.length || f.msg.op.isSome) = false := by
    rw [hpow, hu, hsize, hop, bne_self_eq_false]
    rfl
  show execEthFrameArrival f s = _
  unfold execEthFrameArrival
  simp only [hp, hgo, Bool.false_eq_true, if_false]
  cases s.iod.endpoints.find? (fun x => x.2.live && x.2.addr == f.addr && x.2.port == f.port) with
  | none => rfl
  | some y =>
    dsimp only [Option.elim]
    split
    · rfl
    · split
      · rfl
      · cases s.takeHeader { f.msg with src := BitVec.ofNat 13 (4096 + y.1 % 4096) } <;> rfl

variable {n : Nat} {x : Endpoint} (hx : s.iod.endpoints.find? (fun x => x.2.live && x.2.addr == f.addr && x.2.port == f.port) = some (n, x))
include hx

theorem frame_out_of_order (h : f.seq ≠ x.got) : exec (.ethFrameArrival f) s = .next s := by
  rw [frame_eq hpow hup hsize hop, hx, Option.elim_some, if_pos (by simpa using h)]

/-- A frame in its turn is the message of its endpoint, and the next is awaited. -/
theorem frame_in_order (h : f.seq = x.got) (hl : s.liveWorld f.msg.world = true) {t : State}
    (ht : s.takeHeader { f.msg with src := BitVec.ofNat 13 (4096 + n % 4096) } = some t) :
    Out.Leads (exec (.ethFrameArrival f) s) (fun u => SameMemory s u ∧ u.worlds = t.worlds ∧
      assoc n u.iod.endpoints = some { x with got := x.got + 1 }) := by
  rw [frame_eq hpow hup hsize hop, hx, Option.elim_some, if_neg (by simpa using h), if_neg (by simp [hl]), ht, Option.elim_some]
  obtain ⟨worlds, rfl⟩ := State.takeHeader_only ht
  refine ⟨_, rfl, sameMemory_of rfl rfl, rfl, ?_⟩
  exact (assoc_assocSet _ _ _ _).trans (if_pos rfl)

end

theorem ethRetransmit_next {s : State} {op : Nat} {o : EngineOp} {d : Nat} {tag : Word} {n : Nat} (he : s.engine? op = some o)
    (hs : o.stage = .running) (hk : o.kind = .send true d tag n) : exec (.ethRetransmit op) s = .next s.progress := by
  show execEthRetransmit op s = _
  unfold execEthRetransmit
  simp only [he, hs, hk]
  rfl

end Sys2Proof.Machine

namespace Sys2Proof
open Sys2Proof.Machine

/-- Settles O38, by the three outcomes of a header that is taken and, for each way it arrives, the guard that lets it. -/
theorem messageHeaders : Obligations.MessageHeaders := by
  unfold Obligations.MessageHeaders
  refine ⟨fun s m w hw => ⟨fun r => takeHeader_of_match hw, takeHeader_of_room hw, takeHeader_of_full hw⟩,
    fun s m op o hm he hown hno => loopback_arrives hm he hown hno, ?_, fun s op x hx => header_comes_again hx, ?_, ?_,
    fun s op o d tag n he hs hk => ethRetransmit_next he hs hk⟩
  · intro s m slot hm hw ha hf u
    rw [peerHeader_arrives hm hw ha hf]
    refine ⟨fun hl hp => ?_, fun h => ?_⟩
    · rw [if_neg (by simp [hl, hp])]
      exact ⟨fun t ht => by rw [show (s.freeSlot slot).takeHeader m = some t from ht]; rfl,
        fun ht => by rw [show (s.freeSlot slot).takeHeader m = none from ht]; rfl⟩
    · rw [if_pos (by rcases h with h | h <;> simp [h])]
  · exact fun s f n x hpow hup hsize hop hx => ⟨frame_out_of_order hpow hup hsize hop hx,
      fun h hl t ht => frame_in_order hpow hup hsize hop hx h hl ht⟩
  · intro s f hpow hup hsize hop hx
    rw [frame_eq hpow hup hsize hop, hx, Option.elim_none]

end Sys2Proof
end

section
/-! `post`, the status instructions and the words they report (spec 09, R253 to R257). -/

namespace Sys2Proof.Machine

/-! Handles. -/

/-- Among as many candidates as one more than are used, the first that is not used. -/
def freeOf (used : List Word) (x : Word) : Word :=
  x + BitVec.ofNat 32 (((List.range (used.length + 1)).find? (fun i => !used.contains (x + BitVec.ofNat 32 i))).getD 0)

/-- One of the candidates is free: they are all different, and more than what is used. -/
theorem freeOf_not_mem {used : List Word} (x : Word) (h : used.length < 2 ^ 32) : freeOf used x ∉ used := by
  have hfound : ∃ n, (List.range (used.length + 1)).find? (fun i => !used.contains (x + BitVec.ofNat 32 i)) = some n := by
    rw [← Option.isSome_iff_exists, List.find?_isSome]
    by_contra hno
    have hall : ∀ i ∈ List.range (used.length + 1), x + BitVec.ofNat 32 i ∈ used := by
      intro i hi
      by_contra hn
      exact hno ⟨i, hi, by simpa using hn⟩
    have hnodup : ((List.range (used.length + 1)).map (fun i => x + BitVec.ofNat 32 i)).Nodup := by
      refine (List.nodup_map_iff_inj_on List.nodup_range).2 (fun i hi j hj hij => ?_)
      rw [List.mem_range] at hi hj
      have hv := congrArg BitVec.toNat (add_left_cancel hij)
      rw [BitVec.toNat_ofNat, BitVec.toNat_ofNat, Nat.mod_eq_of_lt (by omega), Nat.mod_eq_of_lt (by omega)] at hv
      exact hv
    have hsub := (List.subperm_of_subset hnodup (l₂ := used) (by
      intro y hy
      obtain ⟨i, hi, rfl⟩ := List.mem_map.1 hy
      exact hall i hi)).length_le
    rw [List.length_map, List.length_range] at hsub
    omega
  obtain ⟨n, hn⟩ := hfound
  have hnot := List.find?_some hn
  unfold freeOf
  rw [hn]
  rwa [Bool.not_eq_true', List.contains_eq_mem, decide_eq_false_iff_not] at hnot

theorem State.freeHandle_free (s : State) (w : World) (h : w.posted.length < 2 ^ 32) : ∀ q ∈ w.posted, q.handle ≠ s.freeHandle w := by
  intro q hq heq
  refine freeOf_not_mem (used := w.posted.map (·.handle)) (Config.receiveHandle s.draws) (by rwa [List.length_map]) ?_
  exact List.mem_map.2 ⟨q, hq, heq⟩

/-! `post`. -/

section
variable (s : State) (e : Env) (f : FMC) (w : World)

/-- The receive that a descriptor posts. -/
def Env.receive : Receive :=
  { id := s.nextId, handle := s.freeHandle w, wg := e.w.id, hgrp := hgrpOf e.g.leader, iaddr := s.iaddr e, core := e.w.home,
    layout := BitVec.ofNat 96 (e.layoutNat f.f2), cap := (e.desc f 3).toNat, tag := e.desc f 4, tmask := e.desc f 5,
    smask := (e.desc f 6).extractLsb' 13 13, src := (e.desc f 6).extractLsb' 0 13,
    count := if (e.desc f 6).getLsbD 30 then some ((e.desc f 6).extractLsb' 26 4).toNat else none,
    xext := descX e f, yext := descY e f, deps := s.spadPending e, gang := e.gang.id, status := .posted }

/-- A receive is listed, with the header that waits for it. -/
def State.list (r : Receive) : State :=
  match w.unexp.find? r.matches with
  | some m => s.modWorld e.gang.world (fun w => { w with unexp := w.unexp.erase m, posted := w.posted ++ [{ r with status := .matched m }] })
  | none => s.modWorld e.gang.world (fun w => { w with posted := w.posted ++ [r] })

/-- The range of the landing tensor is locked. -/
def State.postLocked : State :=
  State.addLock { s with nextId := s.nextId + 1, draws := s.draws + 1 } s.nextId e.gang.world true e.w.id
    (tensorBounds (layoutOf (e.layoutNat f.f2)) (descX e f) (descY e f) (e.desc f 3).toNat).1
    (tensorBounds (layoutOf (e.layoutNat f.f2)) (descX e f) (descY e f) (e.desc f 3).toNat).2 true

/-- What `post` makes of a state: the receive is listed and its handle answered. -/
def State.postAs : State :=
  State.setS ((s.postLocked e f).list e w (e.receive s f w)) e f.f1 (s.freeHandle w)

end

theorem State.list_worlds (s : State) (e : Env) (w : World) (r : Receive) : ∃ worlds, s.list e w r = { s with worlds } := by
  unfold State.list
  split
  · exact State.modWorld_eq _ _ _
  · exact State.modWorld_eq _ _ _

theorem State.postLocked_only (s : State) (e : Env) (f : FMC) :
    ∃ nextId draws locks, s.postLocked e f = { s with nextId, draws, locks } := by
  obtain ⟨locks, h⟩ := State.addLock_locks { s with nextId := s.nextId + 1, draws := s.draws + 1 } s.nextId e.gang.world true e.w.id
    (tensorBounds (layoutOf (e.layoutNat f.f2)) (descX e f) (descY e f) (e.desc f 3).toNat).1
    (tensorBounds (layoutOf (e.layoutNat f.f2)) (descX e f) (descY e f) (e.desc f 3).toNat).2 true
  exact ⟨_, _, locks, h⟩

/-- What `post` leaves: memory, threads and workgroups but the register it answers in. -/
theorem State.postAs_only (s : State) (e : Env) (f : FMC) (w : World) : ∃ u, s.postAs e f w = u.setS e f.f1 (s.freeHandle w) ∧
    SameMemory s u ∧ u.threads = s.threads ∧ u.wgs = s.wgs := by
  obtain ⟨worlds, hl⟩ := (s.postLocked e f).list_worlds e w (e.receive s f w)
  obtain ⟨nextId, draws, locks, hp⟩ := s.postLocked_only e f
  refine ⟨_, rfl, ?_, ?_, ?_⟩
  · rw [hl, hp]
    exact sameMemory_of rfl rfl
  · rw [hl, hp]
  · rw [hl, hp]

/-- The world after a receive is listed: with a waiting header that it matches, or without one. -/
theorem State.list_world {s : State} {e : Env} {w : World} (hw : s.world? e.gang.world = some w) (r : Receive) (hr : r.status = .posted) :
    ∃ w' st, (s.list e w r).world? e.gang.world = some w' ∧ w'.posted = w.posted ++ [{ r with status := st }] ∧
      ((∀ m ∈ w.unexp, r.matches m = false) → st = .posted ∧ w'.unexp = w.unexp) ∧
      ∀ m, w.unexp.find? r.matches = some m → st = .matched m ∧ w'.unexp = w.unexp.erase m := by
  unfold State.list
  cases hf : w.unexp.find? r.matches with
  | none =>
    refine ⟨_, .posted, State.world?_modWorld_of hw _, ?_, fun _ => ⟨rfl, rfl⟩, fun m hm => by cases hm⟩
    rw [← hr]
  | some m =>
    refine ⟨_, .matched m, State.world?_modWorld_of hw _, rfl, fun h => ?_, fun m' hm => ?_⟩
    · have := h m (List.mem_of_find?_eq_some hf)
      rw [List.find?_some hf] at this
      cases this
    · cases hm
      exact ⟨rfl, rfl⟩

section
variable {s : State} {e : Env} {g : Guard} {f : FMC} {w : World}

theorem Issuable.post (h : Issuable s e g (.post g f)) (l : s.someLane e g) (hw : s.world? e.gang.world = some w)
    (hc : (e.desc f 6).getLsbD 31 = false) (hx : descX e f ≠ 0) (hy : descY e f ≠ 0) (hl : (layoutOf (e.layoutNat f.f2)).ok = true)
    (hb : (tensorBounds (layoutOf (e.layoutNat f.f2)) (descX e f) (descY e f) (e.desc f 3).toNat).2 ≤ e.l.spad) (hs : e.l.shadowOf = none)
    (hn : w.postedList.length < 2048) (hr : s.lockRoom e.gang.world true e.w.id = true) :
    exec (.post g f) s = (s.postAs e f w).done e := by
  have hgood : ((e.desc f 6).getLsbD 31 || descX e f == 0 || descY e f == 0 || !(layoutOf (e.layoutNat f.f2)).ok) = false := by
    rw [hc, hl, beq_eq_false_iff_ne.2 hx, beq_eq_false_iff_ne.2 hy]
    rfl
  have hroom : (decide (2048 ≤ w.postedList.length) || !s.lockRoom e.gang.world true e.w.id) = false := by
    rw [hr, decide_eq_false (Nat.not_le.2 hn)]
    rfl
  show execPost g f s = _
  unfold execPost
  rw [h.groupOp l]
  simp only [hgood, Bool.false_eq_true, if_false, Nat.not_lt.2 hb, hs, Option.isSome_none, hw, hroom]
  rfl

/-! The status instructions. -/

theorem Issuable.rprobe (h : Issuable s e g (.rprobe g f)) (l : s.someLane e g) :
    exec (.rprobe g f) s = .next ((s.report e f).advance e).progress := by
  show execRprobe g f s = _
  unfold execRprobe
  rw [h.groupOp l]
  rfl

theorem Issuable.rwait (h : Issuable s e g (.rwait g f)) (l : s.someLane e g) : exec (.rwait g f) s =
    if (s.receive? e (e.s f.f2)).all Receive.over then .next ((s.report e f).advance e).progress else .next (s.hold e) := by
  show execRwait g f s = _
  unfold execRwait
  rw [h.groupOp l]
  cases s.receive? e (e.s f.f2) with
  | none => rfl
  | some r => rfl

theorem Issuable.rcancel (h : Issuable s e g (.rcancel g f)) (l : s.someLane e g) : exec (.rcancel g f) s =
    State.done ((s.receive? e (e.s f.f1)).elim s (fun r => s.cancelPosted e.gang.world (fun x => x.id == r.id))) e := by
  show execRcancel g f s = _
  unfold execRcancel
  rw [h.groupOp l]
  cases s.receive? e (e.s f.f1) with
  | none => rfl
  | some r => rfl

theorem foldl_unlock (l : List Receive) (s : State) : ∃ locks, l.foldl (fun s r => s.unlock r.id (fun _ => true)) s = { s with locks } := by
  induction l generalizing s with
  | nil => exact ⟨s.locks, rfl⟩
  | cons r l ih => exact ih (s.unlock r.id (fun _ => true))

/-- Receives that are cancelled leave the posted list, and no other record than locks and worlds changes. -/
theorem cancelPosted_spec (hw : s.world? e.gang.world = some w) (id : Nat) : ∃ locks worlds,
    s.cancelPosted e.gang.world (fun x => x.id == id) = { s with locks, worlds } ∧ ∃ w',
      (s.cancelPosted e.gang.world (fun x => x.id == id)).world? e.gang.world = some w' ∧ w'.posted.length = w.posted.length ∧
      ∀ x ∈ w'.posted, x.id = id → x.status ≠ .posted := by
  obtain ⟨locks, hlocks⟩ := foldl_unlock (w.postedList.filter (fun x => x.id == id)) s
  have heq : s.cancelPosted e.gang.world (fun x => x.id == id) = State.modWorld { s with locks } e.gang.world (fun w => { w with
      posted := mapIf (fun r => r.status == .posted && r.id == id) (fun r => { r with status := .cancelled }) w.posted }) := by
    unfold State.cancelPosted
    simp only [hw]
    rw [hlocks]
  obtain ⟨worlds, hworlds⟩ := State.modWorld_eq { s with locks } e.gang.world (fun w => { w with
      posted := mapIf (fun r => r.status == .posted && r.id == id) (fun r => { r with status := .cancelled }) w.posted })
  refine ⟨locks, worlds, heq.trans hworlds, _, (congrArg (fun u => State.world? u e.gang.world) heq).trans
    (State.world?_modWorld_of (s := { s with locks }) hw _), List.length_map _, ?_⟩
  intro x hx hid
  obtain ⟨y, -, rfl⟩ := List.mem_map.1 hx
  by_cases hy : y.status = .posted ∧ y.id = id
  · rw [if_pos (by simpa using hy)]
    exact RStatus.noConfusion
  · rw [if_neg (by simpa using hy)] at hid ⊢
    exact fun hp => hy ⟨hp, hid⟩

end

/-! The status words. -/

/-- The first status word of a completed receive, as a number: the bytes, and three bits above them. -/
theorem statusWord_toNat {k : Nat} (hk : k < 2 ^ 24) (a b : Bool) :
    (BitVec.ofNat 32 (k + 2 ^ 24 + (if a then 2 ^ 25 else 0) + (if b then 2 ^ 28 else 0))).toNat =
      k + 16777216 * (1 + 2 * a.toNat + 16 * b.toNat) := by
  norm_num only at hk
  rw [BitVec.toNat_ofNat]
  cases a <;> cases b <;> norm_num only [Bool.toNat_true, Bool.toNat_false, if_true, if_false, Bool.false_eq_true] <;> omega

theorem statusWord_spec {k : Nat} (hk : k < 2 ^ 24) (a b : Bool) {x : Word}
    (hx : x = BitVec.ofNat 32 (k + 2 ^ 24 + (if a then 2 ^ 25 else 0) + (if b then 2 ^ 28 else 0))) :
    x.toNat % 2 ^ 24 = k ∧ x.getLsbD 24 = true ∧ x.getLsbD 25 = a ∧ x.getLsbD 28 = b := by
  have hn := (congrArg BitVec.toNat hx).trans (statusWord_toNat hk a b)
  have hbit (i : Nat) : x.getLsbD i = decide (x.toNat / 2 ^ i % 2 = 1) := Nat.testBit_eq_decide_div_mod_eq
  norm_num only at hk
  rw [hbit, hbit, hbit, hn]
  refine ⟨by norm_num only; omega, ?_, ?_, ?_⟩
  · refine decide_eq_true ?_
    cases a <;> cases b <;> norm_num only [Bool.toNat_true, Bool.toNat_false] <;> omega
  · cases a <;> cases b <;> norm_num only [Bool.toNat_true, Bool.toNat_false, decide_eq_true_eq, decide_eq_false_iff_not] <;> omega
  · cases a <;> cases b <;> norm_num only [Bool.toNat_true, Bool.toNat_false, decide_eq_true_eq, decide_eq_false_iff_not] <;> omega

theorem statusWords_pending {r : Receive} (h : r.status = .posted ∨ ∃ m, r.status = .matched m) : statusWords (some r) = (0, 0, 0) := by
  unfold statusWords
  rcases h with h | ⟨m, h⟩ <;> simp only [h]

theorem statusWords_cancelled {r : Receive} (h : r.status = .cancelled) : statusWords (some r) = (0x04000000, 0, 0) := by
  unfold statusWords
  simp only [h]

theorem statusWords_complete {r : Receive} {k : Nat} {trunc aborted : Bool} {tag : Word} {src : BitVec 13}
    (h : r.status = .complete k trunc aborted tag src) : statusWords (some r) =
      (BitVec.ofNat 32 (k + 2 ^ 24 + (if trunc then 2 ^ 25 else 0) + (if aborted then 2 ^ 28 else 0)), tag, src.setWidth 32) := by
  unfold statusWords
  simp only [h]

end Sys2Proof.Machine

namespace Sys2Proof
open Sys2Proof.Machine

/-- Settles O39: `post` by what the listing of a receive makes of its world, with a pigeonhole argument for its handle;
the status instructions and words by the receive's status. -/
theorem receives : Obligations.Receives := by
  unfold Obligations.Receives
  refine ⟨fun g f s e w l hw => ⟨fun h => ?post, fun h => h.rprobe l, fun h => ?rwait, fun h => ?rcancel⟩, by decide, fun r k trunc aborted tag src => ?words⟩
  case post =>
    intro lay hc hx hy hl hb hs hn hlen hr
    obtain ⟨u, hu, hmem, hthreads, hwgs⟩ := s.postAs_only e f w
    have hwl : (s.postLocked e f).world? e.gang.world = some w := by
      obtain ⟨nextId, draws, locks, hp⟩ := s.postLocked_only e f
      rw [hp]
      exact hw
    obtain ⟨w', st, hw', hposted, hnone, hsome⟩ := State.list_world hwl (e.receive s f w) rfl
    rw [h.post l hw hc hx hy hl hb hs hn hr]
    refine ⟨_, rfl, ?_, threadsBecome_next (by rw [hu]; exact hthreads), w', _, ?_, hposted, rfl, rfl, rfl, rfl, rfl,
      s.freeHandle_free w hlen, ⟨e.w.setSs e.g.hgrps f.f1 (s.freeHandle w), ?_, fun hf k hk => ?_⟩, hnone, hsome⟩
    · rw [hu]
      exact hmem.trans (sameMemory_iod (State.modThreads_mem ..) (State.modThreads_iod ..))
    · exact (State.world?_congr (State.modThreads_worlds ..) _).trans hw'
    · refine (State.wg?_congr (State.modThreads_wgs ..) _).trans ?_
      rw [hu, State.wg?_setS, if_pos rfl, State.wg?_congr hwgs, State.wg?_of_issuer h.issuer, Option.map_some]
    · rw [Workgroup.s_setSs_of_ne_sz _ _ _ _ _ _ hf, if_pos ⟨rfl, hk⟩]
      rfl
  case rwait =>
    rw [h.rwait l]
    refine ⟨fun r hr ho => ?_, fun hall => ?_⟩
    · rw [if_neg (by simp [hr, ho])]
    · rw [if_pos]
      cases hr : s.receive? e (e.s f.f2) with
      | none => rfl
      | some r => exact hall r hr
  case rcancel =>
    rw [h.rcancel l]
    refine ⟨fun hr => by rw [hr]; rfl, fun r hr => ?_⟩
    obtain ⟨locks, worlds, heq, w', hw', hlen, hst⟩ := cancelPosted_spec hw r.id
    rw [hr, Option.elim_some]
    refine ⟨_, rfl, ?_, threadsBecome_next (by rw [heq]), w', ?_, hlen, fun _ => hst⟩
    · rw [heq]
      exact sameMemory_iod (State.modThreads_mem ..) (State.modThreads_iod ..)
    · exact (State.world?_congr (State.modThreads_worlds ..) _).trans hw'
  case words =>
    refine ⟨statusWords_pending, statusWords_cancelled, fun h hk => ?_⟩
    rw [statusWords_complete h]
    obtain ⟨hn, h24, h25, h28⟩ := statusWord_spec hk trunc aborted rfl
    exact ⟨hn, h24, h25, h28, rfl, rfl⟩

end Sys2Proof
end

section
/-! Landings, and the end of a send (spec 09, R252, R253, R256). -/

namespace Sys2Proof.Machine

/-! Bytes that land. -/

theorem State.memGet_homeWrite_of_not_host (s : State) {k : Nat} (b : Byte) (hk : isHost k = false) (j : Nat) :
    memGet (s.homeWrite k b).mem j = if j = k then b else memGet s.mem j := by
  have h := s.homePut_mem_of_not_host k [b] (fun i hle hlt => by
    rw [List.length_singleton] at hlt
    rwa [show i = k by omega])
  rw [show (s.homeWrite k b).mem = memPut s.mem k [b] from h]
  exact memGet_memSet s.mem k j b

theorem spadPlace_not_host (wg a : Nat) : isHost (spadKey wg a) = false := spadKey_not_host (Nat.le_refl _)

/-- Where its page is resident, or no entry says otherwise, a byte lands in the scratchpad. -/
theorem State.landByte_of_present {s : State} {wg a : Nat} (h : ∀ x, s.stt? wg (a / 1024) = some x → x.present = true) (b : Byte) :
    s.landByte wg a b = s.homeWrite (spadKey wg a) b := by
  unfold State.landByte
  split
  next x hx => rw [if_pos (h x hx)]
  next => rfl

/-- A byte that lands changes memory alone, at its own place or in a backing line. -/
theorem State.landByte_spec (s : State) (wg a : Nat) (b : Byte) : (∃ mem llcDirty iod, s.landByte wg a b = { s with mem, llcDirty, iod }) ∧
    ∀ k, k ≠ spadKey wg a → (∀ wg line b j, s.backKey (s.worldOfWg wg) line = some b → j < 1024 → k ≠ b + j) →
      memGet (s.landByte wg a b).mem k = memGet s.mem k := by
  unfold State.landByte
  split
  next x hx =>
    split
    · exact ⟨State.homeWrite_eq .., fun k hk _ => State.memGet_homeWrite_of_ne _ _ hk⟩
    · split
      next b' hb => exact ⟨State.homeWrite_eq .., fun k _ hback => State.memGet_homeWrite_of_ne _ _
          (hback wg x.bline b' (a % 1024) hb (Nat.mod_lt _ (by decide)))⟩
      next => exact ⟨⟨s.mem, s.llcDirty, s.iod, rfl⟩, fun _ _ _ => rfl⟩
  next => exact ⟨State.homeWrite_eq .., fun k hk _ => State.memGet_homeWrite_of_ne _ _ hk⟩

theorem State.landBytes_spec (r : Receive) (bytes : List (Nat × Byte)) (s : State) :
    (∃ mem llcDirty iod, s.landBytes r bytes = { s with mem, llcDirty, iod }) ∧
    ∀ k, (∀ b ∈ bytes, k ≠ spadKey r.wg (r.place b.1)) →
      (∀ wg line b j, s.backKey (s.worldOfWg wg) line = some b → j < 1024 → k ≠ b + j) →
      memGet (s.landBytes r bytes).mem k = memGet s.mem k := by
  induction bytes generalizing s with
  | nil => exact ⟨⟨s.mem, s.llcDirty, s.iod, rfl⟩, fun _ _ _ => rfl⟩
  | cons b bytes ih =>
    obtain ⟨⟨mem, llcDirty, iod, hfirst⟩, hkeep⟩ := s.landByte_spec r.wg (r.place b.1) b.2
    obtain ⟨⟨mem', llcDirty', iod', hrest⟩, hkeep'⟩ := ih (s.landByte r.wg (r.place b.1) b.2)
    refine ⟨⟨mem', llcDirty', iod', ?_⟩, fun k hk hback => ?_⟩
    · refine Eq.trans hrest ?_
      rw [hfirst]
    · refine Eq.trans (hkeep' k (fun c hc => hk c (List.mem_cons_of_mem _ hc)) ?_) (hkeep k (hk b List.mem_cons_self) hback)
      rw [hfirst]
      exact hback

/-! Pages that a landing needs. -/

theorem State.modStt_paged (s : State) (wg page : Nat) (f : SttEntry → SttEntry) : Paged s (s.modStt wg page f) := .of_stt s _

theorem State.backPage_paged {s t : State} {wg page : Nat} (h : s.backPage wg page = some t) : Paged s t := by
  unfold State.backPage at h
  split at h
  · split at h
    · cases h
      exact .refl s
    · split at h
      · cases h
      · split at h
        · cases h
        next hk =>
          obtain rfl := Option.some.inj h
          exact (Paged.homePut hk (by rw [List.length_replicate])).trans (State.modStt_paged ..)
  · cases h
    exact .refl s

theorem foldl_backPage_none (wg : Nat) (pages : List Nat) :
    pages.foldl (fun (t : Option State) p => t.bind (fun s => s.backPage wg p)) none = none := by
  induction pages with
  | nil => rfl
  | cons p pages ih => exact ih

theorem foldl_backPage_paged (wg : Nat) (pages : List Nat) {s t : State}
    (h : pages.foldl (fun (t : Option State) p => t.bind (fun s => s.backPage wg p)) (some s) = some t) : Paged s t := by
  induction pages generalizing s with
  | nil =>
    obtain rfl := Option.some.inj h
    exact .refl _
  | cons p pages ih =>
    rw [List.foldl_cons, Option.bind_some] at h
    cases hp : s.backPage wg p with
    | none =>
      rw [hp, foldl_backPage_none] at h
      cases h
    | some u =>
      rw [hp] at h
      exact (State.backPage_paged hp).trans (ih h)

theorem State.landPages_paged {s t : State} {r : Receive} {bytes : List Nat} (h : s.landPages r bytes = some t) : Paged s t := by
  unfold State.landPages at h
  split at h
  · cases h
    exact .refl s
  next w hw =>
    dsimp only at h
    split at h
    next u hu =>
      obtain ⟨v, hv, rfl⟩ := Option.map_eq_some_iff.1 h
      refine Paged.trans (Paged.trans ?_ (State.touchPages_paged hu)) ((foldl_backPage_paged _ _ hv).trans (.of_stt _ _))
      split
      · split
        · exact .of_stt s _
        · exact .refl s
      · exact .refl s
    next => cases h

/-! The receive that is complete. -/

/-- A receive is complete with `k` bytes: its ranges are free. -/
def State.received (s : State) (world : Nat) (r : Receive) (m : Message) (k : Nat) (aborted : Bool) : State :=
  (s.unlock r.id (fun _ => true)).modWorld world (fun w => { w with
    posted := mapIf (fun x => x.id == r.id) (fun x => { x with status := .complete k (decide (r.cap < m.size)) aborted m.tag m.src }) w.posted })

/-- The bytes count at the receive's arrival counter, where it names one. -/
def State.counted (s : State) (world : Nat) (r : Receive) (k : Nat) : State :=
  match r.count, (s.gang? r.gang).bind (·.arrival) with
  | some c, some n => s.addArrival false n world c k
  | _, _ => s

theorem State.counted_only (s : State) (world : Nat) (r : Receive) (k : Nat) : ∃ iod, s.counted world r k = { s with iod } := by
  unfold State.counted
  split
  next c n _ _ =>
    obtain ⟨arrivals, dropped, h⟩ := State.addArrival_only s false n world c k
    exact ⟨_, h⟩
  next => exact ⟨s.iod, rfl⟩

/-- Beside the receive, the end of a landing that raises no truncation record counts at the IOD alone. -/
theorem State.finishReceive_only {s : State} {world : Nat} {r : Receive} {m : Message} {k : Nat} {aborted : Bool} (hop : m.op = none)
    (hfit : r.cap < m.size → aborted = true) : ∃ iod, s.finishReceive world r m k aborted = { s.received world r m k aborted with iod } := by
  have hquiet : (!decide (r.cap < m.size) || aborted) = true := by
    by_cases h : r.cap < m.size
    · rw [hfit h, Bool.or_true]
    · rw [decide_eq_false h]
      rfl
  have hfin : s.finishReceive world r m k aborted =
      if (decide (m.src.toNat < 4096) && !aborted) = true then ((s.received world r m k aborted).counted world r k).replyPeer m.src.toNat 0 0 []
      else (s.received world r m k aborted).counted world r k := by
    unfold State.finishReceive
    simp only [hop, hquiet, if_true]
    rfl
  obtain ⟨iod, hc⟩ := (s.received world r m k aborted).counted_only world r k
  rw [hfin, hc]
  split
  · exact ⟨_, rfl⟩
  · exact ⟨iod, rfl⟩

/-- What the end of a landing leaves. -/
theorem finishReceive_spec {s : State} {world : Nat} {w : World} (hw : s.world? world = some w) {r : Receive} {m : Message} {k : Nat}
    {aborted : Bool} (hop : m.op = none) (hfit : r.cap < m.size → aborted = true) :
    (s.finishReceive world r m k aborted).threads = s.threads ∧ (s.finishReceive world r m k aborted).mem = s.mem ∧
    (∀ x ∈ (s.finishReceive world r m k aborted).locks, x.owner ≠ r.id) ∧
    ∃ w', (s.finishReceive world r m k aborted).world? world = some w' ∧ ∀ x ∈ w'.posted, x.id = r.id →
      x.status = .complete k (decide (r.cap < m.size)) aborted m.tag m.src := by
  obtain ⟨iod, h⟩ := State.finishReceive_only (s := s) (world := world) (k := k) hop hfit
  obtain ⟨worlds, hr⟩ := (s.unlock r.id (fun _ => true)).modWorld_eq world (fun w => { w with
    posted := mapIf (fun x => x.id == r.id) (fun x => { x with status := .complete k (decide (r.cap < m.size)) aborted m.tag m.src }) w.posted })
  have hr' : s.received world r m k aborted = { s.unlock r.id (fun _ => true) with worlds } := hr
  rw [h]
  refine ⟨?_, ?_, ?_, _, (State.world?_modWorld_of (s := s.unlock r.id (fun _ => true)) hw _), ?_⟩
  · rw [hr']; rfl
  · rw [hr']; rfl
  · rw [hr']
    intro x hx
    have := (List.mem_filter.1 hx).2
    simpa using this
  · intro x hx hid
    obtain ⟨y, -, rfl⟩ := List.mem_map.1 hx
    by_cases hy : y.id = r.id
    · simp [hy]
    · rw [if_neg (by simpa using hy)] at hid
      exact absurd hid hy

/-- A matched receive is one that its world lists. -/
theorem matched_of {s : State} {world rcv : Nat} {r : Receive} {m : Message} (h : s.matched? world rcv = some (r, m)) :
    r.id = rcv ∧ ∃ w, s.world? world = some w := by
  unfold State.matched? at h
  split at h
  · cases h
  next w hw =>
    split at h
    · cases h
    next hf =>
      split at h
      · obtain rfl := (Prod.mk.inj (Option.some.inj h)).1
        exact ⟨beq_iff_eq.1 (List.find?_some (p := fun (r : Receive) => r.id == rcv) hf), w, hw⟩
      · cases h

section
variable {s p : State} {world rcv : Nat} {r : Receive} {m : Message}

theorem receiveLanding_next (hm : s.matched? world rcv = some (r, m)) (hop : m.op = none) (hsize : m.size ≤ r.cap) (hd : s.depsMet r.deps = true)
    (hp : s.landPages r (List.range m.size) = some p) : exec (.receiveLandingComplete world rcv) s =
      .next ((p.landBytes r (((List.range m.size).zip m.data).filter (fun b => !r.landed.contains b.1))).finishReceive world r m m.size false).progress := by
  have hpay : s.payload m = some (s, m.data) := by
    unfold State.payload
    rw [hop]
  show execReceiveLandingComplete world rcv s = _
  unfold execReceiveLandingComplete
  simp only [hm, hpay, Nat.min_eq_left hsize, hd, Bool.not_true, Bool.false_eq_true, if_false, hp, Option.map_some]
  rfl

/-- Bytes of a payload that its sender holds. -/
theorem payloadBytes_of_data (hop : m.op = none) (bytes : List Nat) (h : ∀ b ∈ bytes, b < m.data.length) :
    ∃ xs, s.payloadBytes m bytes = some (s, xs) := by
  induction bytes with
  | nil => exact ⟨[], rfl⟩
  | cons b bytes ih =>
    obtain ⟨xs, hxs⟩ := ih (fun c hc => h c (List.mem_cons_of_mem _ hc))
    have hb : s.payloadByte m b = some (s, m.data[b]'(h b List.mem_cons_self)) := by
      unfold State.payloadByte
      simp only [hop]
      rw [List.getElem?_eq_getElem (h b List.mem_cons_self), Option.map_some]
    refine ⟨(b, m.data[b]'(h b List.mem_cons_self)) :: xs, ?_⟩
    unfold State.payloadBytes
    rw [hb, Option.bind_some]
    dsimp only
    rw [hxs, Option.map_some]

theorem landingAborted_next {landed : List Nat} (hm : s.matched? world rcv = some (r, m)) (hop : m.op = none) (hd : s.depsMet r.deps = true)
    (hdata : ∀ b ∈ landed, b < m.data.length) (hsub : r.landed ⊆ landed) (hmay : r.mayLand (min m.size r.cap) landed = true)
    (hp : s.landPages r (landed.filter (fun b => !r.landed.contains b)) = some p) :
    ∃ xs, exec (.landingAborted world rcv landed) s = .next ((p.landBytes r xs).finishReceive world r m landed.length true).progress := by
  obtain ⟨xs, hxs⟩ := payloadBytes_of_data (s := s) hop (landed.filter (fun b => !r.landed.contains b))
    (fun b hb => hdata b (List.mem_filter.1 hb).1)
  have hall : r.landed.all landed.contains = true := List.all_eq_true.2 (fun b hb => List.contains_iff_mem.2 (hsub hb))
  refine ⟨xs, ?_⟩
  show execLandingAborted world rcv landed s = _
  unfold execLandingAborted
  simp only [hm, hop, hd, hall, hmay, Bool.not_true, Bool.or_self, Bool.false_eq_true, if_false]
  rw [hxs]
  simp only [Option.bind_some, hp, Option.map_some]
  rfl

end

/-! Sends. -/

/-- Words an engine reads fill its translations, and note what greenware words were read. -/
theorem State.readWords_only (l : Launch) (o : EngineOp) (segs : List Seg) (s : State) :
    ∃ tlb versions nextId, (s.readWords l o segs).1 = { s with tlb, versions, nextId } := by
  induction segs generalizing s with
  | nil => exact ⟨s.tlb, s.versions, s.nextId, rfl⟩
  | cons g segs ih =>
    unfold State.readWords
    split
    next key green _ =>
      have hnote : VersionsOnly s (if green then s.noteLoad l o.core o.version (wordOf key) else s) := by
        split
        · exact State.noteLoad_versionsOnly ..
        · exact .refl s
      obtain ⟨versions, nextId, hn⟩ := hnote
      have hfill (u : State) : ∃ tlb, u.fillLoc o g.src = { u with tlb } := by
        unfold State.fillLoc
        split
        · exact State.tlbFill_eq ..
        · exact ⟨u.tlb, rfl⟩
      obtain ⟨tlb, hf⟩ := hfill { s with versions, nextId }
      obtain ⟨tlb', versions', nextId', hr⟩ := ih { s with versions, nextId, tlb }
      refine ⟨tlb', versions', nextId', ?_⟩
      dsimp only
      rw [hn, hf, hr]
    next => exact ⟨s.tlb, s.versions, s.nextId, rfl⟩

section
variable {s : State} {op : Nat} {o : EngineOp} {eth : Bool} {dest : Nat} {tag : Word} {n : Nat}
  (ho : s.engine? op = some o) (hk : o.kind = .send eth dest tag n) (hs : o.stage = .running)
  (hdeny : ∀ x ∈ s.nextMet o, ∀ a b c d, x.met ≠ .deny a b c d)
include ho hk hs hdeny

theorem sendComplete_eq (hto : eth = true ∨ dest = s.me ∨ s.answers o.world dest = true) (refused : Bool) :
    exec (.sendComplete op refused) s =
      if refused then (if !eth && dest == s.me then .refused .notEnabled else .next (s.engineStop o 0x23 o.payload false false).progress)
      else if !eth && dest == s.me then event (o.acked == 1) (s.landEngine o)
      else event (s.readWords (s.launchOfOp o) o (o.todo.flatMap Seg.each)).2.2.2.isNone
        (if eth then ((s.readWords (s.launchOfOp o) o (o.todo.flatMap Seg.each)).1.landEngine o).frameSent dest
          else (s.readWords (s.launchOfOp o) o (o.todo.flatMap Seg.each)).1.landEngine o) := by
  have hno (p : NextReq → Bool) (hp : ∀ x, p x = true → ∃ a b c d, x.met = .deny a b c d) : (s.nextMet o).any p = false := by
    rw [List.any_eq_false]
    intro x hx hd
    obtain ⟨a, b, c, d, h⟩ := hp x hd
    exact hdeny x hx a b c d h
  have hgo : (!eth && !(!eth && dest == s.me) && !s.answers o.world dest) = false := by
    rcases hto with h | h | h
    · simp [h]
    · simp [h]
    · simp [h]
  have hstage : (o.stage != EngineStage.running) = false := by simp [hs]
  show execSendComplete op refused s = _
  unfold execSendComplete
  simp only [ho, hk]
  rw [hstage, hno _ (fun x hx => ?_), hgo]
  · rfl
  · split at hx
    next a b c d h => exact ⟨a, b, c, d, h⟩
    next => cases hx

theorem send_lands (heth : eth = false) (hd : dest = s.me) (ha : o.acked = 1) : Out.Leads (exec (.sendComplete op false) s) (fun t =>
    SameMemory s t ∧ t.engines = s.engines.filter (fun x => !(x.id == op)) ∧ ∀ k ∈ t.locks, k.owner ≠ op) := by
  obtain ⟨hmem, hengines, hlocks, -⟩ := engineGone_landEngine (State.engine?_id ho) (SameMemory.refl s) rfl rfl rfl
  refine ⟨(s.landEngine o).progress, ?_, hmem, hengines, hlocks⟩
  rw [sendComplete_eq ho hk hs hdeny (.inr (.inl hd)), if_neg Bool.false_ne_true, if_pos (by simp [heth, hd]), ha]
  rfl

theorem send_goes (hto : eth = true ∨ (dest ≠ s.me ∧ s.answers o.world dest = true))
    (hread : (s.readWords (s.launchOfOp o) o (o.todo.flatMap Seg.each)).2.2.2 = none) : Out.Leads (exec (.sendComplete op false) s) (fun t =>
    SameMemory s t ∧ t.engines = s.engines.filter (fun x => !(x.id == op)) ∧ ∀ k ∈ t.locks, k.owner ≠ op) := by
  obtain ⟨tlb, versions, nextId, hr⟩ := State.readWords_only (s.launchOfOp o) o (o.todo.flatMap Seg.each) s
  have hgone := engineGone_landEngine (s := s) (p := { s with tlb, versions, nextId }) (o := o) (State.engine?_id ho) (sameMemory_of rfl rfl) rfl rfl rfl
  obtain ⟨hmem, hengines, hlocks, -⟩ := hgone
  have hloop : ¬ (!eth && dest == s.me) = true := by
    rcases hto with h | h
    · simp [h]
    · simp [h.1]
  rw [sendComplete_eq ho hk hs hdeny (hto.imp_right (fun h => .inr h.2)), if_neg Bool.false_ne_true, if_neg hloop, hread, hr]
  cases eth with
  | true => exact ⟨_, rfl, hmem.trans (sameMemory_of rfl rfl), hengines, hlocks⟩
  | false => exact ⟨_, rfl, hmem, hengines, hlocks⟩

theorem send_refused (hto : eth = true ∨ (dest ≠ s.me ∧ s.answers o.world dest = true)) :
    Out.Leads (exec (.sendComplete op true) s) (fun t => ∃ o', t.engine? op = some o' ∧ o'.stage = .stopped) := by
  have hloop : ¬ (!eth && dest == s.me) = true := by
    rcases hto with h | h
    · simp [h]
    · simp [h.1]
  rw [sendComplete_eq ho hk hs hdeny (hto.imp_right (fun h => .inr h.2)), if_pos rfl, if_neg hloop]
  exact ⟨_, rfl, (State.engineStop_spec ho _ _ _ _).2.1⟩

end

end Sys2Proof.Machine

namespace Sys2Proof
open Sys2Proof.Machine

/-- Settles O40: pages of a landing move by the pager, its bytes fall at their own places or in backing lines, and its
end changes the receive and the IOD alone. -/
theorem landingsComplete : Obligations.LandingsComplete := by
  unfold Obligations.LandingsComplete
  refine ⟨?whole, ?byte, ?cut, ?send⟩
  case whole =>
    intro s p world rcv r m hm hop hsize hd hp
    obtain ⟨rfl, w, hw⟩ := matched_of hm
    obtain ⟨⟨mem, llcDirty, iod, stt, rfl⟩, hback⟩ := State.landPages_paged hp
    set data := ((List.range m.size).zip m.data).filter (fun b => !r.landed.contains b.1) with hdata
    obtain ⟨⟨mem', llcDirty', iod', hl⟩, hkeep⟩ := State.landBytes_spec r data { s with mem, llcDirty, iod, stt }
    have hw' : (State.landBytes { s with mem, llcDirty, iod, stt } r data).world? world = some w := by
      rw [hl]
      exact hw
    obtain ⟨hthreads, hmem, hlocks, hworld⟩ := finishReceive_spec (r := r) (k := m.size) (aborted := false) hw' hop (fun h => absurd hsize (by omega))
    rw [decide_eq_false (by omega)] at hworld
    refine ⟨_, receiveLanding_next hm hop hsize hd hp, ?_, hworld, hlocks, fun k => congrArg (memGet · k) hmem, fun k hk hb => ?_⟩
    · refine Eq.trans hthreads ?_
      rw [hl]
    · refine (congrArg (memGet · k) hmem).trans ((hkeep k (fun b hb' => hk b.1 ?_) hb).trans (hback k hb).2)
      rw [hdata] at hb'
      exact List.mem_range.1 (List.of_mem_zip (List.mem_filter.1 hb').1).1
  case byte =>
    intro s wg a b h k
    rw [State.landByte_of_present h, State.memGet_homeWrite_of_not_host s b (spadPlace_not_host wg a)]
  case cut =>
    intro s world rcv landed r m hm hop hd hdata hsub hmay hpages
    obtain ⟨rfl, w, hw⟩ := matched_of hm
    obtain ⟨p, hp⟩ := Option.ne_none_iff_exists'.1 hpages
    obtain ⟨xs, hx⟩ := landingAborted_next hm hop hd hdata hsub hmay hp
    obtain ⟨⟨mem, llcDirty, iod, stt, rfl⟩, -⟩ := State.landPages_paged hp
    obtain ⟨⟨mem', llcDirty', iod', hl⟩, -⟩ := State.landBytes_spec r xs { s with mem, llcDirty, iod, stt }
    have hw' : (State.landBytes { s with mem, llcDirty, iod, stt } r xs).world? world = some w := by
      rw [hl]
      exact hw
    obtain ⟨hthreads, -, -, hworld⟩ := finishReceive_spec (k := landed.length) (aborted := true) hw' hop (fun _ => rfl)
    refine ⟨_, hx, ?_, hworld⟩
    refine Eq.trans hthreads ?_
    rw [hl]
  case send =>
    intro s op o eth dest tag n ho hk hs hdeny
    exact ⟨send_lands ho hk hs hdeny, send_goes ho hk hs hdeny, send_refused ho hk hs hdeny⟩

end Sys2Proof
end

section
/-! `launch`, `cancel` and `hcwait`, and what the discard of a gang leaves (spec 10, R290, R298 to R301). -/

namespace Sys2Proof.Machine

theorem State.gang?_of_issuer {s : State} {e : Env} (h : s.issuer = some e) : s.gang? e.gang.id = some e.gang := by
  obtain ⟨-, -, hg, -⟩ := State.issuer_spec h
  have hid : e.gang.id = e.w.gang := beq_iff_eq.1 (List.find?_some (p := fun (g : Gang) => g.id == e.w.gang) hg)
  rw [hid]
  exact hg

/-! Discarding a gang. -/

/-- Engine operations, ranges, receives and what the IOD holds of them differ. -/
def Dropped (s t : State) : Prop := ∃ locks engines dies iod worlds, t = { s with locks, engines, dies, iod, worlds } ∧
  iod.hostLines = s.iod.hostLines

theorem Dropped.refl (s : State) : Dropped s s := ⟨s.locks, s.engines, s.dies, s.iod, s.worlds, rfl, rfl⟩

theorem Dropped.trans {s t u : State} (h : Dropped s t) (h' : Dropped t u) : Dropped s u := by
  obtain ⟨_, _, _, _, _, rfl, hi⟩ := h
  obtain ⟨locks, engines, dies, iod, worlds, rfl, hi'⟩ := h'
  exact ⟨locks, engines, dies, iod, worlds, rfl, hi'.trans hi⟩

theorem Dropped.foldl {α : Type} {f : State → α → State} (hf : ∀ s x, Dropped s (f s x)) (l : List α) (s : State) : Dropped s (l.foldl f s) := by
  induction l generalizing s with
  | nil => exact .refl s
  | cons x l ih => exact (hf s x).trans (ih _)

theorem State.dropEngine_dropped (s : State) (op : Nat) : Dropped s (s.dropEngine op) := ⟨_, _, _, _, s.worlds, rfl, rfl⟩

theorem State.modWorld_dropped (s : State) (world : Nat) (f : World → World) : Dropped s (s.modWorld world f) := by
  obtain ⟨worlds, h⟩ := s.modWorld_eq world f
  exact ⟨s.locks, s.engines, s.dies, s.iod, worlds, h, rfl⟩

theorem State.dropReceives_dropped (s : State) (world wg : Nat) : Dropped s (s.dropReceives world wg) := by
  refine Dropped.trans ?_ (State.modWorld_dropped ..)
  unfold State.cancelPosted
  split
  · exact .refl s
  next w hw =>
    obtain ⟨locks, h⟩ := foldl_unlock (w.postedList.filter (fun r => r.wg == wg)) s
    refine Dropped.trans ?_ (State.modWorld_dropped ..)
    rw [h]
    exact ⟨locks, s.engines, s.dies, s.iod, s.worlds, rfl, rfl⟩

theorem State.dropReceives_engines (s : State) (world wg : Nat) : (s.dropReceives world wg).engines = s.engines := by
  unfold State.dropReceives State.cancelPosted
  split
  · exact State.modWorld_engines ..
  next w hw =>
    obtain ⟨locks, h⟩ := foldl_unlock (w.postedList.filter (fun r => r.wg == wg)) s
    refine (State.modWorld_engines ..).trans ((State.modWorld_engines ..).trans ?_)
    rw [h]

theorem foldl_dropReceives_engines (world : Nat) (l : List Nat) (s : State) :
    (l.foldl (fun s w => s.dropReceives world w) s).engines = s.engines := by
  induction l generalizing s with
  | nil => rfl
  | cons w l ih => exact (ih (s.dropReceives world w)).trans (s.dropReceives_engines world w)

/-- Engine operations that are stopped one after another are gone, by their names. -/
theorem mem_dropEngines {o : EngineOp} (ids : List Nat) (s : State) (h : o ∈ (ids.foldl State.dropEngine s).engines) :
    o ∈ s.engines ∧ o.id ∉ ids := by
  induction ids generalizing s with
  | nil => exact ⟨h, List.not_mem_nil⟩
  | cons id ids ih =>
    obtain ⟨hmem, hnot⟩ := ih (s.dropEngine id) h
    obtain ⟨hs, hid⟩ := List.mem_filter.1 hmem
    refine ⟨hs, fun hin => ?_⟩
    rcases List.mem_cons.1 hin with rfl | hin
    · simp at hid
    · exact hnot hin

section
variable {s : State} {gang : Nat} {g : Gang}

/-- The gang's groups, its bins, its loads and its poisoned operations are gone, and it discards. -/
def State.stilled (s : State) (gang : Nat) : State :=
  { s.modGang gang (fun g => { g with status := .discarding, haltAt := s.clock }) with
    groups := s.groups.filter (fun x => !(s.wgsOf gang).contains x.wg), bins := s.bins.filter (fun x => !(s.wgsOf gang).contains x.wg)
    flights := s.flights.filter (fun f => !((s.wgsOf gang).contains f.wg && (f.kind.isLoad || f.poisoned || f.replay)))
    tiles := s.tiles.filter (fun o => !((s.wgsOf gang).contains o.wg && o.poisoned)) }

theorem State.discardGang_of (hg : s.gang? gang = some g) : s.discardGang gang =
    State.freeArrival ((s.wgsOf gang).foldl (fun s w => s.dropReceives g.world w)
      (((s.engines.filter (fun o => o.gang == gang)).map (·.id)).foldl State.dropEngine (s.stilled gang))) gang := by
  unfold State.discardGang
  rw [hg]
  rfl

/-- What the discard of a gang leaves, and what it takes away. -/
theorem discardGang_spec (hg : s.gang? gang = some g) : SameMemory s (s.discardGang gang) ∧ (s.discardGang gang).threads = s.threads ∧
    (s.discardGang gang).gang? gang = some { g with status := .discarding, haltAt := s.clock, arrival := none } ∧
    (s.discardGang gang).groups = s.groups.filter (fun x => !(s.wgsOf gang).contains x.wg) ∧
    (∀ o ∈ (s.discardGang gang).engines, o.gang ≠ gang) ∧
    (s.discardGang gang).flights = s.flights.filter (fun f => !((s.wgsOf gang).contains f.wg && (f.kind.isLoad || f.poisoned || f.replay))) := by
  have hdrop := Dropped.foldl State.dropEngine_dropped ((s.engines.filter (fun o => o.gang == gang)).map (·.id)) (s.stilled gang)
  have hleft := fun o => mem_dropEngines (o := o) ((s.engines.filter (fun o => o.gang == gang)).map (·.id)) (s.stilled gang)
  generalize hu : ((s.engines.filter (fun o => o.gang == gang)).map (·.id)).foldl State.dropEngine (s.stilled gang) = u at hdrop hleft
  have hrecv := Dropped.foldl (fun s w => State.dropReceives_dropped s g.world w) (s.wgsOf gang) u
  have hengines := foldl_dropReceives_engines g.world (s.wgsOf gang) u
  generalize hv : (s.wgsOf gang).foldl (fun s w => s.dropReceives g.world w) u = v at hrecv hengines
  rw [State.discardGang_of hg, hu, hv]
  obtain ⟨locks, engines, dies, iod, worlds, rfl, hlines⟩ := hdrop.trans hrecv
  refine ⟨sameMemory_of rfl hlines, rfl, ?_, rfl, fun o ho hgang => ?_, rfl⟩
  · refine (State.gang?_modGang (s.modGang gang (fun g => { g with status := .discarding, haltAt := s.clock })) gang gang
      (fun g => { g with arrival := none }) (fun _ => rfl)).trans ?_
    rw [if_pos rfl, State.gang?_modGang s gang gang (fun g => { g with status := .discarding, haltAt := s.clock }) (fun _ => rfl), if_pos rfl, hg]
    rfl
  · obtain ⟨hmem, hid⟩ := hleft o (hengines ▸ ho)
    exact hid (List.mem_map.2 ⟨o, List.mem_filter.2 ⟨hmem, beq_iff_eq.2 hgang⟩, rfl⟩)

end

/-! One flight for the group. -/

/-- A flight of the group's, added in a state with the flights and threads of `s`. -/
theorem groupFlight_leads {s v : State} {e : Env} {g : Guard} (hf : v.flights = s.flights) (ht : v.threads = s.threads) (m : Form) (xs : List Elem)
    (reserve : Bool) (batch : Nat) : Out.Leads (State.done (v.addFlight e m (s.lanes e g) xs reserve [] batch) e) (fun t =>
      t.flights = s.flights ++ [v.newFlight e m (s.lanes e g) xs reserve [] batch] ∧ t.mem = v.mem ∧ t.worlds = v.worlds ∧
      ThreadsBecome s t e (fun n x => if n ∈ s.lanes e g then (x.issued m.inLd).next else x.next)) := by
  obtain ⟨tlb, launches, h⟩ := v.addFlight_eq e m (s.lanes e g) xs reserve [] batch
  have hthreads : (v.addFlight e m (s.lanes e g) xs reserve [] batch).threads = (v.modThreads e.w.id (s.lanes e g) (fun t => t.issued m.inLd)).threads := by
    rw [h]
  refine ⟨_, rfl, (State.modThreads_flights ..).trans (by rw [h, hf]), (State.modThreads_mem ..).trans (by rw [h]),
    (State.modThreads_worlds ..).trans (by rw [h]), fun n hn => ?_, fun wg n hn => ?_⟩
  · rw [State.thread_progress, State.thread_advance _ _ _ hn, State.thread_congr hthreads, State.thread_modThreads, State.thread_congr ht]
    exact apply_ite Thread.next _ _ _
  · rw [State.thread_progress, State.thread_advance_other _ _ _ _ hn, State.thread_congr hthreads,
      State.thread_modThreads_other _ _ _ _ _ _ (fun u hu => hn u (State.lanes_sub hu)), State.thread_congr ht]

/-! `launch`. -/

section
variable {s : State} {e : Env} {g : Guard} {f : FMC}

theorem State.notePacket_versionsOnly (s : State) (e : Env) (ts : List Nat) (va : Nat) : VersionsOnly s (s.notePacket e ts va) := by
  refine .foldl (fun s i => ?_) _ s
  split
  · exact State.noteFor_versionsOnly ..
  · exact .refl s

/-- Bytes put at their homes one after another change memory and what the LLC holds of it alone. -/
theorem foldl_homes {α : Type} {put : State → α → State} (hput : ∀ s x, ∃ mem llcDirty iod, put s x = { s with mem, llcDirty, iod })
    (l : List α) (s : State) : ∃ mem llcDirty iod, l.foldl put s = { s with mem, llcDirty, iod } := by
  induction l generalizing s with
  | nil => exact ⟨s.mem, s.llcDirty, s.iod, rfl⟩
  | cons x l ih =>
    obtain ⟨mem, llcDirty, iod, h⟩ := hput s x
    obtain ⟨mem', llcDirty', iod', h'⟩ := ih { s with mem, llcDirty, iod }
    refine ⟨mem', llcDirty', iod', ?_⟩
    rw [List.foldl_cons, h, h']

/-- A packet that is submitted: its bytes are in the ring, and the queue's tail has moved on. -/
theorem submit_spec {p : State} {world prio : Nat} {b : List Byte} {w : World} (hw : s.world? world = some w) (hp : s.submit world prio b = some p) :
    p.flights = s.flights ∧ p.threads = s.threads ∧ p.world? world = some { w with
      queues := listPut Queue.new w.queues prio { listGet Queue.new w.queues prio with qtail := (listGet Queue.new w.queues prio).qtail + 1 } } := by
  unfold State.submit at hp
  simp only [hw] at hp
  split at hp
  · cases hp
  · obtain rfl := Option.some.inj hp
    have done (u : State) (hu : ∃ mem llcDirty iod, u = { s with mem, llcDirty, iod }) :
        (u.modQueue world prio (fun q => { q with qtail := q.qtail + 1 })).flights = s.flights ∧
        (u.modQueue world prio (fun q => { q with qtail := q.qtail + 1 })).threads = s.threads ∧
        (u.modQueue world prio (fun q => { q with qtail := q.qtail + 1 })).world? world = some { w with
          queues := listPut Queue.new w.queues prio { listGet Queue.new w.queues prio with qtail := (listGet Queue.new w.queues prio).qtail + 1 } } := by
      obtain ⟨mem, llcDirty, iod, rfl⟩ := hu
      exact ⟨State.modWorld_flights .., State.modWorld_threads .., State.world?_modWorld_of (s := { s with mem, llcDirty, iod }) hw _⟩
    refine done _ (foldl_homes (fun u b => ?_) _ s)
    split
    · exact State.homeWrite_eq ..
    · exact ⟨u.mem, u.llcDirty, u.iod, rfl⟩

variable {w : World} {x : Nat} (hw : s.world? e.gang.world = some w) (hx : (e.s f.f2).toNat = x) (hx8 : x < 8)
  (hva : e.pair f.f1 % 2 ^ 56 % 64 = 0) (hs : e.l.shadowOf = none)
  (hclear : ∀ a ∈ regionsOf (e.pair f.f1 % 2 ^ 56) 256, (s.permit e.g.core e.gang.world (Config.dieOfCore e.g.core) a .read).1.clear)
  (hrel : ∀ n ∈ e.g.members, s.released e.w.id n 3 = true) (herr : ∀ k ∈ s.packetKeys e (e.pair f.f1 % 2 ^ 56), s.errs k = false)
  (hq : (listGet Queue.new w.queues x).qsize ≠ 0)

theorem regionConds_clear {va : Nat} (hva : va % 64 = 0)
    (hclear : ∀ a ∈ regionsOf va 256, (s.permit e.g.core e.gang.world (Config.dieOfCore e.g.core) a .read).1.clear) :
    ((regionsOf va 256).foldl (fun (c : Cond) a => c.and (s.permit e.g.core e.gang.world (Config.dieOfCore e.g.core) a .read).1)
      (if va % 64 != 0 then .trap 0x24 va else {})).clear := by
  rw [if_neg (by simp [hva])]
  have h := Cond.clear_foldl (c := {}) (List.forall_mem_map.2 hclear) ⟨rfl, rfl, rfl, rfl⟩
  rwa [List.foldl_map] at h

include hw hx hx8 hva hs hclear hrel herr hq

theorem Issuable.launch (h : Issuable s e g (.launch g f)) (l : s.someLane e g) : exec (.launch g f) s =
    if s.submitAway e (e.pair f.f1 % 2 ^ 56) (listGet Queue.new w.queues x) ||
      ((listGet Queue.new w.queues x).qtail - (listGet Queue.new w.queues x).qhead).toNat == 2 ^ (listGet Queue.new w.queues x).qsize.toNat
    then .next (s.hold e)
    else ((s.notePacket e (s.lanes e g) (e.pair f.f1 % 2 ^ 56)).submit e.gang.world x (s.packetBytes e (e.pair f.f1 % 2 ^ 56))).elim
      ((((s.notePacket e (s.lanes e g) (e.pair f.f1 % 2 ^ 56)).acts e).rejectLaunch e.gang.world
        (packetLaunch 0 e.gang.world x (e.pair f.f1 % 2 ^ 56) (wordsOf64 32 (s.packetBytes e (e.pair f.f1 % 2 ^ 56)))).lctr 0x4B (e.pair f.f1 % 2 ^ 56)
        (packetLaunch 0 e.gang.world x (e.pair f.f1 % 2 ^ 56) (wordsOf64 32 (s.packetBytes e (e.pair f.f1 % 2 ^ 56)))).above).done e)
      (fun t => ((t.acts e).addFlight e { kind := fun _ => .submit e.gang.world x (listGet Queue.new w.queues x).qtail } (s.lanes e g) [] false [] t.nextId).done e) := by
  have hc := regionConds_clear hva hclear
  have hmod : x % 8 = x := Nat.mod_eq_of_lt hx8
  have hdiv : (x / 8 != 0) = false := by simp [Nat.div_eq_of_lt hx8]
  have hrel' : e.g.members.all (fun t => s.released e.w.id t 3) = true := List.all_eq_true.2 hrel
  have herr' : (s.packetKeys e (e.pair f.f1 % 2 ^ 56)).any s.errs = false := List.any_eq_false.2 (fun k hk => by rw [herr k hk]; exact Bool.false_ne_true)
  have hq' : ((listGet Queue.new w.queues x).qsize == 0) = false := beq_eq_false_iff_ne.2 hq
  show execLaunch g f s = _
  unfold execLaunch
  rw [h.groupOp l]
  simp only [hx, hmod, hdiv, Bool.false_eq_true, if_false, worst_of_clear hc.1, hc.2.2.2, parks_of_clear hc, hs, Option.isSome_none, hw, hrel',
    Bool.not_true, Bool.false_or, herr', hq']
  cases s.submitAway e (e.pair f.f1 % 2 ^ 56) (listGet Queue.new w.queues x) with
  | true => simp only [Bool.true_or, if_true]
  | false =>
    simp only [Bool.false_eq_true, if_false, Bool.false_or]
    split
    · rfl
    · cases (s.notePacket e (s.lanes e g) (e.pair f.f1 % 2 ^ 56)).submit e.gang.world x (s.packetBytes e (e.pair f.f1 % 2 ^ 56)) <;> rfl

end

/-! `cancel`. -/

section
variable {s : State} {e : Env} {g : Guard} {f : FMC} (h : Issuable s e g (.cancel g f)) (l : s.someLane e g)
include h l

theorem Issuable.cancel_malformed (hbad : (e.s f.f1).toNat / 2 ^ 16 % 2 ^ 12 ≠ 0 ∨ 5 ≤ (e.s f.f1).toNat / 2 ^ 28) :
    exec (.cancel g f) s = .next (s.takeTrap e { code := 0x01 }) := by
  have hb : ((e.s f.f1).toNat / 2 ^ 16 % 2 ^ 12 != 0 || decide (5 ≤ (e.s f.f1).toNat / 2 ^ 28)) = true := by
    rcases hbad with hb | hb
    · rw [bne_iff_ne.2 hb, Bool.true_or]
    · rw [decide_eq_true hb, Bool.or_true]
  show execCancel g f s = _
  unfold execCancel
  rw [h.groupOp l]
  simp only [hb, if_true]

theorem Issuable.cancel (hmid : (e.s f.f1).toNat / 2 ^ 16 % 2 ^ 12 = 0) (hlevel : (e.s f.f1).toNat / 2 ^ 28 < 5)
    (hrel : ∀ n ∈ s.lanes e g, s.released e.w.id n 3 = true) (hs : e.l.shadowOf = none) : exec (.cancel g f) s =
      .next (State.progress (if (e.s f.f1).toNat / 2 ^ 28 == 0 then
        ((s.advance e).modGang e.gang.id (fun g => { g with cancelled := true })).discardGang e.gang.id
        else (s.advance e).cancelInstance e.gang.world ((e.s f.f1).toNat / 2 ^ 28) ((e.s f.f1).toNat % 2 ^ 16))) := by
  have hok : ((e.s f.f1).toNat / 2 ^ 16 % 2 ^ 12 != 0 || decide (5 ≤ (e.s f.f1).toNat / 2 ^ 28)) = false := by
    rw [hmid, decide_eq_false (by omega)]
    rfl
  have hrel' : (s.lanes e g).all (fun t => s.released e.w.id t 3) = true := List.all_eq_true.2 hrel
  show execCancel g f s = _
  unfold execCancel
  rw [h.groupOp l]
  simp only [hok, Bool.false_eq_true, if_false, hrel', Bool.not_true, hs, Option.isSome_none]

end

/-- A cancel of what is over, free or of another level has no effect. -/
theorem cancelInstance_of_over {s : State} {world level id : Nat}
    (h : (s.ctr world id).status = 0 ∨ (s.ctr world id).level ≠ level ∨ (3 ≤ (s.ctr world id).status ∧ (s.ctr world id).status ≤ 6)) :
    s.cancelInstance world level id = s := by
  unfold State.cancelInstance
  refine if_pos ?_
  rcases h with h | h | ⟨h, h'⟩
  · simp [Ctr.free, h]
  · simp [h]
  · simp [Ctr.over, h, h']

/-! `hcwait`. -/

section
variable {s : State} {e : Env} {g : Guard} {f : FMC} (h : Issuable s e g (.hcwait g f)) (l : s.someLane e g) (hid : (e.s f.f2).toNat < 4096)
include hid

theorem State.hcCtr_of : s.hcCtr e f = s.ctr e.gang.world (e.s f.f2).toNat := by
  unfold State.hcCtr
  exact if_neg (by simp; omega)

/-- What `hcwait` waits for, in the numbers of its counter. -/
theorem State.hcMet_iff : s.hcMet e f = true ↔ (s.ctr e.gang.world (e.s f.f2).toNat).status = 0 ∨
    (4 ≤ (s.ctr e.gang.world (e.s f.f2).toNat).status ∧ (s.ctr e.gang.world (e.s f.f2).toNat).status ≤ 6) ∨
    (if (e.s f.f3).toNat = 0 then 3 ≤ (s.ctr e.gang.world (e.s f.f2).toNat).status ∧ (s.ctr e.gang.world (e.s f.f2).toNat).status ≤ 6
      else (e.s f.f3).toNat ≤ (s.ctr e.gang.world (e.s f.f2).toNat).count) := by
  unfold State.hcMet
  rw [State.hcCtr_of hid]
  generalize s.ctr e.gang.world (e.s f.f2).toNat = c
  simp only [Ctr.meets, Ctr.free, Ctr.failed, Ctr.over, Bool.or_eq_true, Bool.and_eq_true, beq_iff_eq, decide_eq_true_eq, Bool.not_eq_true']
  by_cases hk : (e.s f.f3).toNat = 0
  · simp only [hk, if_true]
    by_cases hz : c.status = 0
    · simp [hz]
    · simp [hz]
  · simp only [hk, if_false]
    by_cases hz : c.status = 0
    · simp [hz]
    · simp [hz]

include h l

theorem Issuable.hcwait : exec (.hcwait g f) s =
    if !s.hcMet e f || !(s.lanes e g).all (fun t => s.mayAcquire e.w.id t (f.cl.toNat % 8)) then .next (s.hold e)
    else ((s.acquire e.g.core (f.cl.toNat % 8)).setS e f.f1 (BitVec.ofNat 32 ((s.ctr e.gang.world (e.s f.f2).toNat).status * 2 ^ 28 +
      (s.ctr e.gang.world (e.s f.f2).toNat).code * 2 ^ 20 + (s.ctr e.gang.world (e.s f.f2).toNat).count % 2 ^ 20))).done e := by
  show execHcwait g f s = _
  unfold execHcwait
  rw [h.groupOp l]
  simp only [State.hcCtr_of hid]

end

end Sys2Proof.Machine

namespace Sys2Proof
open Sys2Proof.Machine

/-- Settles O41: `launch` by what the submission of a packet and one flight of the group leave, `cancel` by the discard
of a gang, `hcwait` by its counter's status. -/
theorem launchCancelAndWait : Obligations.LaunchCancelAndWait := by
  unfold Obligations.LaunchCancelAndWait
  refine ⟨?launch, ?cancel, ?hcwait⟩
  case launch =>
    intro g f s e w h l hw va x q hx hva hs hclear hrel herr
    refine ⟨fun hq hfull => ?_, fun p hq hroom haway hp => ?_⟩
    · rw [h.launch hw rfl hx hva hs hclear hrel herr hq l, if_pos (by rw [beq_iff_eq.2 hfull, Bool.or_true])]
    · have haway' : s.submitAway e (e.pair f.f1 % 2 ^ 56) (listGet Queue.new w.queues (e.s f.f2).toNat) = false := haway
      rw [h.launch hw rfl hx hva hs hclear hrel herr hq l, if_neg (by
        rw [haway', Bool.false_or]
        exact fun hc => hroom (beq_iff_eq.1 hc))]
      have hp' : (s.notePacket e (s.lanes e g) (e.pair f.f1 % 2 ^ 56)).submit e.gang.world (e.s f.f2).toNat
        (s.packetBytes e (e.pair f.f1 % 2 ^ 56)) = some p := hp
      rw [hp', Option.elim_some]
      obtain ⟨versions, nextId, hn⟩ := s.notePacket_versionsOnly e (s.lanes e g) (e.pair f.f1 % 2 ^ 56)
      rw [hn] at hp'
      obtain ⟨hflights, hthreads, hworld⟩ := submit_spec (s := { s with versions, nextId }) hw hp'
      refine (groupFlight_leads (s := s) (v := p.acts e) (g := g) hflights hthreads _ [] false p.nextId).imp
        (fun t ⟨hfl, hmem, hworlds, hbecome⟩ => ⟨hmem, ⟨_, (State.world?_congr hworlds _).trans hworld, ?_, fun n hne => ?_⟩,
          ⟨_, hfl, rfl, rfl, rfl⟩, hbecome.1, hbecome.2⟩)
      · exact (listGet_listPut ..).trans (if_pos rfl)
      · exact (listGet_listPut ..).trans (if_neg hne)
  case cancel =>
    intro g f s e h l x level id
    refine ⟨h.cancel_malformed l, fun hmid hlevel hrel hs => ⟨fun hz => ?_, fun hz => ⟨?_, fun hover => cancelInstance_of_over hover⟩⟩⟩
    · rw [h.cancel l hmid hlevel hrel hs, if_pos (beq_iff_eq.2 hz)]
      have hgang : State.gang? ((s.advance e).modGang e.gang.id (fun g => { g with cancelled := true })) e.gang.id =
          some { e.gang with cancelled := true } := by
        refine (State.gang?_modGang (s.advance e) e.gang.id e.gang.id (fun g => { g with cancelled := true }) (fun _ => rfl)).trans ?_
        rw [if_pos rfl, show (s.advance e).gang? e.gang.id = s.gang? e.gang.id from congrArg _ (State.modThreads_gangs ..),
          State.gang?_of_issuer h.issuer]
        rfl
      have hwgs : State.wgsOf ((s.advance e).modGang e.gang.id (fun g => { g with cancelled := true })) e.gang.id = s.wgsOf e.gang.id := by
        unfold State.wgsOf
        rw [show ((s.advance e).modGang e.gang.id (fun g => { g with cancelled := true })).wgs = s.wgs from State.modThreads_wgs ..]
      obtain ⟨hmem, -, hg, hgroups, hengines, hflights⟩ := discardGang_spec hgang
      rw [hwgs] at hgroups hflights
      refine ⟨_, rfl, ?_, fun y hy => ?_, fun y hy => ?_, hengines, fun y hy hin => ?_⟩
      · exact (sameMemory_iod (State.modThreads_mem ..) (State.modThreads_iod ..) :
          SameMemory s ((s.advance e).modGang e.gang.id (fun g => { g with cancelled := true }))).trans hmem
      · obtain rfl := Option.some.inj (hg.symm.trans hy)
        exact ⟨rfl, rfl⟩
      · obtain ⟨z, hz', rfl⟩ := List.mem_map.1 hy
        rw [hgroups] at hz'
        simpa using (List.mem_filter.1 hz').2
      · have hy' := hflights ▸ (show y ∈ State.flights (State.discardGang _ _) from hy)
        have hkeep := (List.mem_filter.1 hy').2
        rw [List.contains_iff_mem.2 hin, Bool.true_and, Bool.not_eq_true', Bool.or_eq_false_iff, Bool.or_eq_false_iff] at hkeep
        exact hkeep.1.1
    · rw [h.cancel l hmid hlevel hrel hs, if_neg (fun hc => hz (beq_iff_eq.1 hc))]
  case hcwait =>
    intro g f s e h l hid c k done go
    have hiff : s.hcMet e f = true ↔ go := State.hcMet_iff hid
    rw [h.hcwait l hid]
    refine ⟨fun hno => if_pos ?_, fun hgo hmay => ?_⟩
    · rw [Bool.eq_false_iff.2 (fun hm => hno (hiff.1 hm))]
      rfl
    · obtain ⟨l1, hq⟩ := s.acquire_eq e.g.core (f.cl.toNat % 8)
      rw [if_neg (by rw [hiff.2 hgo, List.all_eq_true.2 hmay]; exact Bool.false_ne_true), hq]
      refine ⟨_, rfl, sameMemory_iod (State.modThreads_mem ..) (State.modThreads_iod ..), threadsBecome_next rfl, State.modThreads_flights ..,
        fun w hw => ⟨_, (State.wg?_congr (State.modThreads_wgs ..) _).trans ((State.wg?_setS ..).trans ((if_pos rfl).trans (congrArg _ hw))),
          fun k q => Workgroup.s_setSs ..⟩⟩

end Sys2Proof
end

section
/-! Doorbells, queue settings, completion counters and notify registers (spec 10, R263 to R266; 09, R258; 18, R371, R372). -/

namespace Sys2Proof.Machine

/-! Notify registers (spec 18, R372). -/

/-- A notify register that is armed and met. -/
def State.notifies (s : State) (world : Nat) (r : BitVec 64) : Bool :=
  r.getLsbD 63 && (s.ctr world (r.extractLsb' 32 16).toNat).meets (r.extractLsb' 0 32).toNat

/-- One notify register of a world fires where it is met. -/
def State.notifyOne (world : Nat) (s : State) (n : Nat) : State :=
  match s.world? world with
  | none => s
  | some w =>
    if s.notifies world (listGet 0 w.notify n) then
      (s.modWorld world (fun w => { w with notify := listPut 0 w.notify n (listGet 0 w.notify n &&& 0x7FFFFFFFFFFFFFFF) })).raiseIrq world (2 + n)
    else s

theorem State.notifyMet_eq (s : State) (world : Nat) : s.notifyMet world = (List.range 16).foldl (State.notifyOne world) s := by
  have hone (s : State) (n : Nat) : State.notifyOne world s n = match s.world? world with
    | none => s
    | some w =>
      let r := listGet 0 w.notify n
      if r.getLsbD 63 && (s.ctr world (r.extractLsb' 32 16).toNat).meets (r.extractLsb' 0 32).toNat then
        (s.modWorld world (fun w => { w with notify := listPut 0 w.notify n (r &&& 0x7FFFFFFFFFFFFFFF) })).raiseIrq world (2 + n)
      else s := by
    unfold State.notifyOne State.notifies
    cases hw : s.world? world with
    | none => rfl
    | some w =>
      dsimp only
      have hmod : s.modWorld world (fun w => { w with notify := listPut 0 w.notify n (listGet 0 w.notify n &&& 0x7FFFFFFFFFFFFFFF) }) =
          s.modWorld world (fun v => { v with notify := listPut 0 v.notify n (listGet 0 w.notify n &&& 0x7FFFFFFFFFFFFFFF) }) := by
        unfold State.modWorld
        rw [hw]
      rw [hmod]
  unfold State.notifyMet
  congr 1
  funext s n
  exact (hone s n).symm

/-- Notify registers and interrupts alone differ, and every interrupt that was raised stands. -/
def Notified (s t : State) : Prop :=
  ∃ worlds irqs irqPend, t = { s with worlds, iod := { s.iod with irqs, irqPend } } ∧ (∀ x ∈ s.iod.irqs, x ∈ irqs) ∧
    ∀ j, ∃ notify, t.world? j = (s.world? j).map (fun w => { w with notify })

theorem Notified.refl (s : State) : Notified s s := by
  refine ⟨s.worlds, s.iod.irqs, s.iod.irqPend, rfl, fun _ h => h, fun j => ?_⟩
  cases hw : s.world? j with
  | none => exact ⟨[], rfl⟩
  | some w => exact ⟨w.notify, rfl⟩

theorem Notified.trans {s t u : State} (h : Notified s t) (h' : Notified t u) : Notified s u := by
  obtain ⟨_, _, _, rfl, hirqs, hworld⟩ := h
  obtain ⟨worlds, irqs, irqPend, rfl, hirqs', hworld'⟩ := h'
  refine ⟨worlds, irqs, irqPend, rfl, fun x hx => hirqs' x (hirqs x hx), fun j => ?_⟩
  obtain ⟨notify, hn⟩ := hworld j
  obtain ⟨notify', hn'⟩ := hworld' j
  exact ⟨notify', by rw [hn', hn, Option.map_map]; rfl⟩

theorem State.notifyOne_notified (world : Nat) (s : State) (n : Nat) : Notified s (State.notifyOne world s n) := by
  unfold State.notifyOne
  split
  · exact .refl s
  next w hw =>
    split
    · obtain ⟨worlds, h⟩ := s.modWorld_eq world (fun w => { w with notify := listPut 0 w.notify n (listGet 0 w.notify n &&& 0x7FFFFFFFFFFFFFFF) })
      refine ⟨worlds, _, _, by rw [h]; rfl, fun x hx => List.mem_append_left _ hx, fun j => ?_⟩
      have hj := s.world?_modWorld world j (fun w => { w with notify := listPut 0 w.notify n (listGet 0 w.notify n &&& 0x7FFFFFFFFFFFFFFF) })
      rw [State.world?_congr (State.raiseIrq_worlds ..), hj]
      split
      next heq =>
        subst heq
        rw [hw]
        exact ⟨_, rfl⟩
      next =>
        cases hv : s.world? j with
        | none => exact ⟨[], rfl⟩
        | some v => exact ⟨v.notify, rfl⟩
    · exact .refl s

theorem foldl_notifyOne (world : Nat) (l : List Nat) (s : State) : Notified s (l.foldl (State.notifyOne world) s) := by
  induction l generalizing s with
  | nil => exact .refl s
  | cons n l ih => exact (State.notifyOne_notified world s n).trans (ih _)

theorem State.notifyMet_notified (s : State) (world : Nat) : Notified s (s.notifyMet world) := by
  rw [State.notifyMet_eq]
  exact foldl_notifyOne world _ s

theorem Notified.ctr {s t : State} (h : Notified s t) (world id : Nat) : t.ctr world id = s.ctr world id := by
  obtain ⟨_, _, _, -, -, hworld⟩ := h
  obtain ⟨notify, hn⟩ := hworld world
  unfold State.ctr
  rw [hn]
  cases s.world? world <;> rfl

theorem Notified.sameMemory {s t : State} (h : Notified s t) : SameMemory s t := by
  obtain ⟨_, _, _, rfl, -, -⟩ := h
  exact sameMemory_of rfl rfl

theorem Notified.threads {s t : State} (h : Notified s t) : t.threads = s.threads := by
  obtain ⟨_, _, _, rfl, -, -⟩ := h
  rfl

theorem Notified.mem_irqs {s t : State} (h : Notified s t) {x : Nat × Nat} (hx : x ∈ s.iod.irqs) : x ∈ t.iod.irqs := by
  obtain ⟨_, _, _, rfl, hirqs, -⟩ := h
  exact hirqs x hx

/-- Other registers of the world keep register `n`. -/
theorem foldl_notifyOne_other {world n : Nat} (l : List Nat) (hn : n ∉ l) {s : State} {w : World} (hw : s.world? world = some w) :
    ∃ w', (l.foldl (State.notifyOne world) s).world? world = some w' ∧ listGet 0 w'.notify n = listGet 0 w.notify n := by
  induction l generalizing s w with
  | nil => exact ⟨w, hw, rfl⟩
  | cons m l ih =>
    have hnm : n ≠ m := List.ne_of_not_mem_cons hn
    have hnl : n ∉ l := List.not_mem_of_not_mem_cons hn
    have hone : ∃ w', (State.notifyOne world s m).world? world = some w' ∧ listGet 0 w'.notify n = listGet 0 w.notify n := by
      unfold State.notifyOne
      simp only [hw]
      split
      · refine ⟨_, (State.world?_congr (State.raiseIrq_worlds ..) _).trans (State.world?_modWorld_of hw _), ?_⟩
        exact (listGet_listPut ..).trans (if_neg hnm)
      · exact ⟨w, hw, rfl⟩
    obtain ⟨w', hw', hkeep⟩ := hone
    obtain ⟨u, hu, hkeep'⟩ := ih hnl hw'
    exact ⟨u, hu, hkeep'.trans hkeep⟩

/-- What the check of a world's notify registers makes of one: where it is met it is no longer armed, and its vector is raised. -/
theorem notifyMet_register {s : State} {world n : Nat} {w : World} (hw : s.world? world = some w) (hn : n < 16) :
    (s.notifies world (listGet 0 w.notify n) = true → (world, 2 + n) ∈ (s.notifyMet world).iod.irqs) ∧
    ∃ w', (s.notifyMet world).world? world = some w' ∧ listGet 0 w'.notify n =
      if s.notifies world (listGet 0 w.notify n) then listGet 0 w.notify n &&& 0x7FFFFFFFFFFFFFFF else listGet 0 w.notify n := by
  obtain ⟨l₁, l₂, hl⟩ := List.append_of_mem (List.mem_range.2 hn)
  have hnodup : (l₁ ++ n :: l₂).Nodup := hl ▸ List.nodup_range
  obtain ⟨-, hcons, hdisj⟩ := List.nodup_append'.1 hnodup
  have h₁ : n ∉ l₁ := fun h => hdisj h List.mem_cons_self
  have h₂ : n ∉ l₂ := (List.nodup_cons.1 hcons).1
  rw [State.notifyMet_eq, hl, List.foldl_append, List.foldl_cons]
  obtain ⟨w₁, hw₁, hkeep⟩ := foldl_notifyOne_other l₁ h₁ hw
  have hsame : (l₁.foldl (State.notifyOne world) s).notifies world (listGet 0 w.notify n) = s.notifies world (listGet 0 w.notify n) := by
    unfold State.notifies
    rw [(foldl_notifyOne world l₁ s).ctr]
  generalize l₁.foldl (State.notifyOne world) s = u at hw₁ hsame
  rw [← hkeep] at hsame ⊢
  rw [← hsame]
  cases hm : u.notifies world (listGet 0 w₁.notify n) with
  | true =>
    have hone : State.notifyOne world u n =
        (u.modWorld world (fun w => { w with notify := listPut 0 w.notify n (listGet 0 w.notify n &&& 0x7FFFFFFFFFFFFFFF) })).raiseIrq world (2 + n) := by
      unfold State.notifyOne
      simp only [hw₁, hm, if_true]
    have hw₂ : (State.notifyOne world u n).world? world = some { w₁ with
        notify := listPut 0 w₁.notify n (listGet 0 w₁.notify n &&& 0x7FFFFFFFFFFFFFFF) } := by
      rw [hone, State.world?_congr (State.raiseIrq_worlds ..), State.world?_modWorld_of hw₁]
    obtain ⟨w₃, hw₃, hkeep₃⟩ := foldl_notifyOne_other l₂ h₂ hw₂
    refine ⟨fun _ => (foldl_notifyOne world l₂ _).mem_irqs ?_, w₃, hw₃, hkeep₃.trans ((listGet_listPut ..).trans (if_pos rfl))⟩
    rw [hone]
    exact List.mem_append_right _ (List.mem_singleton.2 rfl)
  | false =>
    have hone : State.notifyOne world u n = u := by
      unfold State.notifyOne
      simp only [hw₁, hm, Bool.false_eq_true, if_false]
    rw [hone]
    obtain ⟨w₃, hw₃, hkeep₃⟩ := foldl_notifyOne_other l₂ h₂ hw₁
    exact ⟨fun h => absurd h Bool.false_ne_true, w₃, hw₃, hkeep₃⟩

/-! Completion counters (spec 10, R264). -/

/-- An entry's word as a number. -/
theorem Ctr.bits_toNat {c : Ctr} (h₁ : c.target < 2 ^ 32) (h₂ : c.count < 2 ^ 32) (h₃ : c.status < 16) (h₄ : c.code < 256)
    (h₅ : c.level < 16) : c.bits.toNat = c.target * 79228162514264337593543950336 + c.count * 18446744073709551616 +
      c.status * 1152921504606846976 + c.code * 4503599627370496 + c.level * 281474976710656 := by
  unfold Ctr.bits
  rw [BitVec.toNat_ofNat, Nat.mod_eq_of_lt h₁, Nat.mod_eq_of_lt h₂, Nat.mod_eq_of_lt h₃, Nat.mod_eq_of_lt h₄, Nat.mod_eq_of_lt h₅]
  norm_num only at *
  omega

/-- The fields of an entry's word fill it. -/
theorem ctrOf_bits_of {c : Ctr} (h₁ : c.target < 2 ^ 32) (h₂ : c.count < 2 ^ 32) (h₃ : c.status < 16) (h₄ : c.code < 256)
    (h₅ : c.level < 16) : ctrOf c.bits = c := by
  have hb := Ctr.bits_toNat h₁ h₂ h₃ h₄ h₅
  obtain ⟨target, count, status, code, level⟩ := c
  generalize Ctr.bits ⟨target, count, status, code, level⟩ = b at hb
  dsimp only at *
  unfold ctrOf
  rw [Ctr.mk.injEq]
  have field (i n : Nat) : (b.extractLsb' i n).toNat = b.toNat / 2 ^ i % 2 ^ n := by
    rw [BitVec.extractLsb'_toNat, Nat.shiftRight_eq_div_pow]
  rw [field, field, field, field, field, hb]
  norm_num only at *
  refine ⟨?_, ?_, ?_, ?_, ?_⟩ <;> omega

theorem ctrOf_bits (v : BitVec 128) : ctrOf (ctrOf v).bits = ctrOf v :=
  ctrOf_bits_of (v.extractLsb' 96 32).isLt (v.extractLsb' 64 32).isLt (v.extractLsb' 60 4).isLt (v.extractLsb' 52 8).isLt (v.extractLsb' 48 4).isLt

theorem State.modWorld_sameMemory (s : State) (world : Nat) (f : World → World) : SameMemory s (s.modWorld world f) :=
  sameMemory_iod (State.modWorld_mem ..) (State.modWorld_iod ..)

/-- A counter reads as before where its world's table does. -/
theorem State.ctr_of_ctrs {s t : State} {j : Nat} (h : (t.world? j).map World.ctrs = (s.world? j).map World.ctrs) (n : Nat) :
    t.ctr j n = s.ctr j n := by
  unfold State.ctr
  cases ht : t.world? j with
  | none =>
    rw [ht] at h
    rw [Option.map_eq_none_iff.1 h.symm]
  | some w' =>
    rw [ht] at h
    obtain ⟨w, hw, hc⟩ := Option.map_eq_some_iff.1 h.symm
    rw [hw]
    dsimp only
    rw [hc]

theorem State.ctr_modWorld (s : State) (world : Nat) (f : World → World) (hf : ∀ w, (f w).ctrs = w.ctrs) (j n : Nat) :
    (s.modWorld world f).ctr j n = s.ctr j n := by
  refine State.ctr_of_ctrs ?_ n
  rw [State.world?_modWorld]
  split
  · rw [Option.map_map]
    exact congrArg (Option.map · (s.world? j)) (funext hf)
  · rfl

/-- The counters of a world one of whose entries is written. -/
theorem State.ctr_setCtr {s : State} {world : Nat} {w : World} (hw : s.world? world = some w) {id : Nat} (hid : id < 4096) (x : BitVec 128) (n : Nat) :
    (s.modWorld world (fun w => { w with ctrs := tabSet 0 id x w.ctrs })).ctr world n = if n = id then ctrOf x else s.ctr world n := by
  unfold State.ctr
  rw [State.world?_modWorld_of hw, hw]
  dsimp only
  rw [tabGet_tabSet]
  by_cases hn : n = id
  · subst hn
    rw [if_pos hid, if_pos rfl, if_pos rfl]
  · rw [if_neg hn, if_neg hn]

/-- What the writing of an entry leaves. -/
theorem putCtr_spec {s : State} {world : Nat} {w : World} (hw : s.world? world = some w) {id : Nat} (hid : id < 4096) (c : Ctr) :
    SameMemory s (s.putCtr world id c) ∧ (s.putCtr world id c).threads = s.threads ∧
    ∀ n, (s.putCtr world id c).ctr world n = if n = id then ctrOf c.bits else s.ctr world n := by
  have hnote := (s.modWorld world (fun w => { w with ctrs := tabSet 0 id c.bits w.ctrs })).notifyMet_notified world
  unfold State.putCtr
  rw [if_pos hid]
  exact ⟨(State.modWorld_sameMemory ..).trans hnote.sameMemory, hnote.threads.trans (State.modWorld_threads ..),
    fun n => (hnote.ctr world n).trans (State.ctr_setCtr hw hid _ n)⟩

/-- What the coming into use of an entry leaves. -/
theorem useCtr_spec {s : State} {world : Nat} {w : World} (hw : s.world? world = some w) {id : Nat} (hid : id < 4096) (c : Ctr) :
    SameMemory s (s.useCtr world id c) ∧ (s.useCtr world id c).threads = s.threads ∧
    ∀ n, (s.useCtr world id c).ctr world n = if n = id then ctrOf c.bits else s.ctr world n := by
  have hput := putCtr_spec (State.world?_modWorld_of hw (fun w => { w with since := tabSet 0 id s.nextId w.since })) hid c
  obtain ⟨hmem, hthreads, hctr⟩ := hput
  exact ⟨(State.modWorld_sameMemory ..).trans hmem, hthreads.trans (State.modWorld_threads ..),
    fun n => (hctr n).trans (congrArg (ite (n = id) (ctrOf c.bits))
      (s.ctr_modWorld world (fun w => { w with since := tabSet 0 id s.nextId w.since }) (fun _ => rfl) world n))⟩

/-- An entry is made anew: it counts no end. -/
def State.freshCtr (s : State) (world id : Nat) : State :=
  s.modWorld world (fun w => { w with scopes := tabSet 0 id 0 w.scopes, ends := tabSet CtrEnd.new id CtrEnd.new w.ends })

theorem completionCounterWrite_eq {s : State} {world id : Nat} {v : BitVec 128} {w : World} (hpow : s.powered = true) (hw : s.world? world = some w)
    (hpost : s.postedDone world = true) (hid : id < 4096) (h2 : 2 ≤ (ctrOf v).level) (h4 : (ctrOf v).level ≤ 4) (h6 : (ctrOf v).status ≤ 6)
    (hlow : v.toNat % 2 ^ 48 = 0) :
    exec (.completionCounterWrite world id v) s = .next ((s.freshCtr world id).useCtr world id (ctrOf v)).progress := by
  have hlow' : (v.extractLsb' 0 48 == 0) = true := by
    rw [beq_iff_eq]
    refine BitVec.eq_of_toNat_eq ?_
    rw [BitVec.extractLsb'_toNat, Nat.shiftRight_zero, hlow]
    rfl
  have hgo : (s.powered && (s.world? world).isSome && decide (id < 4096) && (decide (2 ≤ (ctrOf v).level) && decide ((ctrOf v).level ≤ 4) &&
      decide ((ctrOf v).status ≤ 6) && v.extractLsb' 0 48 == 0) && s.postedDone world) = true := by
    rw [hpow, hw, decide_eq_true hid, decide_eq_true h2, decide_eq_true h4, decide_eq_true h6, hlow', hpost]
    rfl
  show execCompletionCounterWrite world id v s = _
  unfold execCompletionCounterWrite event
  exact if_pos hgo

/-- An entry comes into use, and every other one is as before. -/
theorem completionCounter_written {s : State} {world id : Nat} {v : BitVec 128} {w : World} (hpow : s.powered = true) (hw : s.world? world = some w)
    (hpost : s.postedDone world = true) (hid : id < 4096) (h2 : 2 ≤ (ctrOf v).level) (h4 : (ctrOf v).level ≤ 4) (h6 : (ctrOf v).status ≤ 6)
    (hlow : v.toNat % 2 ^ 48 = 0) : Out.Leads (exec (.completionCounterWrite world id v) s) (fun t => SameMemory s t ∧ t.threads = s.threads ∧
      t.ctr world id = ctrOf v ∧ ∀ n, n ≠ id → t.ctr world n = s.ctr world n) := by
  obtain ⟨hmem, hthreads, hctr⟩ := useCtr_spec (s := s.freshCtr world id) (State.world?_modWorld_of hw _) hid (ctrOf v)
  refine ⟨_, completionCounterWrite_eq hpow hw hpost hid h2 h4 h6 hlow, (State.modWorld_sameMemory ..).trans hmem,
    hthreads.trans (State.modWorld_threads ..), ?_, fun n hn => ?_⟩
  · exact (hctr id).trans ((if_pos rfl).trans (ctrOf_bits v))
  · exact (hctr n).trans ((if_neg hn).trans (s.ctr_modWorld world (fun w => { w with
      scopes := tabSet 0 id 0 w.scopes, ends := tabSet CtrEnd.new id CtrEnd.new w.ends }) (fun _ => rfl) world n))

/-! Notify writes. -/

theorem toNat_disarm (v : BitVec 64) : (v &&& 0x7FFFFFFFFFFFFFFF).toNat = v.toNat % 2 ^ 63 := by
  rw [BitVec.toNat_and]
  exact Nat.and_two_pow_sub_one_eq_mod v.toNat 63

/-- A notify register is written. -/
def State.setNotify (s : State) (world n : Nat) (v : BitVec 64) : State := s.modWorld world (fun w => { w with notify := listPut 0 w.notify n v })

section
variable {s : State} {world n : Nat} {v : BitVec 64} {w : World} (hw : s.world? world = some w)
include hw

theorem State.setNotify_world (n : Nat) (v : BitVec 64) : ∃ w', (s.setNotify world n v).world? world = some w' ∧ listGet 0 w'.notify n = v :=
  ⟨_, State.world?_modWorld_of hw _, (listGet_listPut ..).trans (if_pos rfl)⟩

variable (hpow : s.powered = true) (hn : n < 16)
include hpow hn

theorem notifyWrite_eq {fn : Nat} (hpost : s.postedDone fn = true) : exec (.notifyWrite ⟨fn, world⟩ n v) s =
    .next (State.progress (if fn == world then (s.setNotify world n v).notifyMet world else s)) := by
  have hgo : (s.powered && (s.world? world).isSome && decide (n < 16) && s.postedDone fn) = true := by
    rw [hpow, hw, decide_eq_true hn, hpost]
    rfl
  show execNotifyWrite ⟨fn, world⟩ n v s = _
  unfold execNotifyWrite event
  exact if_pos hgo

theorem notify_written (hpost : s.postedDone world = true) : Out.Leads (exec (.notifyWrite ⟨world, world⟩ n v) s) (fun t => SameMemory s t ∧
    t.threads = s.threads ∧ (s.notifies world v = true → (world, 2 + n) ∈ t.iod.irqs) ∧
      ∃ w', t.world? world = some w' ∧ (listGet 0 w'.notify n).toNat = if s.notifies world v then v.toNat % 2 ^ 63 else v.toNat) := by
  obtain ⟨w₁, hw₁, hv⟩ := State.setNotify_world hw n v
  have hsame : (s.setNotify world n v).notifies world v = s.notifies world v := by
    unfold State.notifies State.setNotify
    rw [s.ctr_modWorld world (fun w => { w with notify := listPut 0 w.notify n v }) (fun _ => rfl)]
  have hnote := (s.setNotify world n v).notifyMet_notified world
  obtain ⟨hirq, w₂, hw₂, hreg⟩ := notifyMet_register hw₁ hn
  rw [hv, hsame] at hirq hreg
  rw [notifyWrite_eq hw hpow hn hpost, if_pos (beq_self_eq_true world)]
  have hmem := (s.modWorld_sameMemory world (fun w => { w with notify := listPut 0 w.notify n v })).trans hnote.sameMemory
  have hthreads := hnote.threads.trans (State.modWorld_threads ..)
  generalize (s.setNotify world n v).notifyMet world = u at *
  refine ⟨_, rfl, hmem, hthreads, hirq, w₂, hw₂, ?_⟩
  rw [hreg]
  split
  · exact toNat_disarm v
  · rfl

end

/-! What leaves every queue as it is. -/

/-- Threads, and the queues of every world, are as before. -/
def QueuesKept (s t : State) : Prop := t.threads = s.threads ∧ ∀ j, (t.world? j).map World.queues = (s.world? j).map World.queues

theorem QueuesKept.refl (s : State) : QueuesKept s s := ⟨rfl, fun _ => rfl⟩

theorem QueuesKept.trans {s t u : State} (h : QueuesKept s t) (h' : QueuesKept t u) : QueuesKept s u :=
  ⟨h'.1.trans h.1, fun j => (h'.2 j).trans (h.2 j)⟩

theorem QueuesKept.foldl {α : Type} {f : State → α → State} (hf : ∀ s x, QueuesKept s (f s x)) (l : List α) (s : State) :
    QueuesKept s (l.foldl f s) := by
  induction l generalizing s with
  | nil => exact .refl s
  | cons x l ih => exact (hf s x).trans (ih _)

theorem QueuesKept.of_worlds {s t : State} (ht : t.threads = s.threads) (hw : t.worlds = s.worlds) : QueuesKept s t :=
  ⟨ht, fun j => by rw [State.world?_congr hw]⟩

theorem QueuesKept.modWorld (s : State) (world : Nat) {f : World → World} (hf : ∀ w, (f w).queues = w.queues) : QueuesKept s (s.modWorld world f) := by
  refine ⟨State.modWorld_threads .., fun j => ?_⟩
  rw [State.world?_modWorld]
  split
  · cases s.world? j with
    | none => rfl
    | some w => exact congrArg some (hf w)
  · rfl

theorem Notified.queuesKept {s t : State} (h : Notified s t) : QueuesKept s t := by
  refine ⟨h.threads, fun j => ?_⟩
  obtain ⟨_, _, _, -, -, hworld⟩ := h
  obtain ⟨notify, hn⟩ := hworld j
  rw [hn]
  cases s.world? j <;> rfl

theorem State.putCtr_queuesKept (s : State) (world id : Nat) (c : Ctr) : QueuesKept s (s.putCtr world id c) := by
  unfold State.putCtr
  split
  · refine QueuesKept.trans ?_ (State.notifyMet_notified ..).queuesKept
    exact .modWorld _ _ (fun _ => rfl)
  · exact .refl s

theorem State.addScope_queuesKept (s : State) (world id scope : Nat) : QueuesKept s (s.addScope world id scope) := .modWorld _ _ (fun _ => rfl)

theorem State.setEnd_queuesKept (s : State) (world id : Nat) (e : CtrEnd) : QueuesKept s (s.setEnd world id e) := .modWorld _ _ (fun _ => rfl)

theorem State.carry_queuesKept (world scope : Nat) (above : List (Nat × Nat)) (s : State) (bad : Option (BitVec 4 × BitVec 8)) :
    QueuesKept s (s.carry world scope bad above) := by
  induction above generalizing s bad with
  | nil => exact .refl s
  | cons x above ih =>
    obtain ⟨level, id⟩ := x
    unfold State.carry
    split
    · exact ih s bad
    · dsimp only
      split
      · exact .refl s
      · split
        · exact (((State.addScope_queuesKept ..).trans (State.putCtr_queuesKept ..)).trans (State.setEnd_queuesKept ..)).trans (ih _ _)
        · exact ((State.addScope_queuesKept ..).trans (State.putCtr_queuesKept ..)).trans (State.setEnd_queuesKept ..)

theorem State.pushRecord_queuesKept (s : State) (world : Nat) (r : FaultRec) : QueuesKept s (s.pushRecord world r) := by
  unfold State.pushRecord
  split
  · exact .refl s
  · dsimp only
    split
    next k _ =>
      obtain ⟨mem, llcDirty, iod, h⟩ := s.homePut_eq k (natLe 32 r.toNat)
      have hput : QueuesKept s (s.homePut k (natLe 32 r.toNat)) := by
        rw [h]
        exact .of_worlds rfl rfl
      have hmod : QueuesKept (s.homePut k (natLe 32 r.toNat)) ((s.homePut k (natLe 32 r.toNat)).modWorld world World.pushTail) :=
        .modWorld _ _ (fun _ => rfl)
      exact (hput.trans hmod).trans (.of_worlds (State.raiseIrq_threads ..) (State.raiseIrq_worlds ..))
    · split
      · exact .modWorld _ _ (fun _ => rfl)
      · obtain ⟨gangs, flights, engines, h⟩ := (State.modWorld (s.modWorld world (fun w => { w with waiting := w.waiting ++ [r] })) world
          (fun w => { w with stalled := true })).haltGangs_eq .stalled (fun g => g.world == world)
        have hwait : QueuesKept s (s.modWorld world (fun w => { w with waiting := w.waiting ++ [r] })) := .modWorld _ _ (fun _ => rfl)
        have hstall (u : State) : QueuesKept u (u.modWorld world (fun w => { w with stalled := true })) := .modWorld _ _ (fun _ => rfl)
        rw [h]
        exact (hwait.trans (hstall _)).trans (.of_worlds rfl rfl)

theorem State.useCtr_queuesKept (s : State) (world id : Nat) (c : Ctr) : QueuesKept s (s.useCtr world id c) := by
  refine QueuesKept.trans ?_ (State.putCtr_queuesKept ..)
  exact .modWorld _ _ (fun _ => rfl)

theorem State.rejectLaunch_queuesKept (s : State) (world lctr code va : Nat) (above : List (Nat × Nat)) :
    QueuesKept s (s.rejectLaunch world lctr code va above) := by
  unfold State.rejectLaunch
  dsimp only
  refine QueuesKept.trans ?_ (State.carry_queuesKept ..)
  have hpush (r : FaultRec) : QueuesKept s (if (s.pushRecord world r).lctrUsable world lctr then (s.pushRecord world r).useCtr world lctr ⟨0, 0, 5, code, 1⟩
      else s.pushRecord world r) := by
    split
    · exact (State.pushRecord_queuesKept ..).trans (State.useCtr_queuesKept ..)
    · exact State.pushRecord_queuesKept ..
  exact hpush _

theorem State.discardPacket_queuesKept (s : State) (world va : Nat) : QueuesKept s (s.discardPacket world va) := by
  unfold State.discardPacket
  split
  · exact State.rejectLaunch_queuesKept ..
  · exact State.rejectLaunch_queuesKept ..

theorem State.refuseBell_queuesKept (s : State) (world : Nat) (q : Queue) (v : BitVec 16) : QueuesKept s (s.refuseBell world q v) := by
  unfold State.refuseBell
  split
  · exact State.pushRecord_queuesKept ..
  next => exact .foldl (fun s va => State.discardPacket_queuesKept ..) _ s

theorem QueuesKept.of_world {s t : State} (h : QueuesKept s t) {world : Nat} {w : World} (hw : s.world? world = some w) :
    t.threads = s.threads ∧ ∃ w', t.world? world = some w' ∧ w'.queues = w.queues := by
  refine ⟨h.1, ?_⟩
  have hq := h.2 world
  rw [hw] at hq
  exact Option.map_eq_some_iff.1 hq

/-! Doorbells. -/

section
variable {s : State} {world prio : Nat} {v : BitVec 16} {w : World} (hw : s.world? world = some w)
include hw

/-- A setting of one queue of a world. -/
theorem modQueue_spec (f : Queue → Queue) : SameMemory s (s.modQueue world prio f) ∧ (s.modQueue world prio f).threads = s.threads ∧
    ∃ w', (s.modQueue world prio f).world? world = some w' ∧ listGet Queue.new w'.queues prio = f (listGet Queue.new w.queues prio) ∧
      ∀ n, n ≠ prio → listGet Queue.new w'.queues n = listGet Queue.new w.queues n := by
  refine ⟨?_, State.modWorld_threads .., _, State.world?_modWorld_of hw _, (listGet_listPut ..).trans (if_pos rfl),
    fun n hn => (listGet_listPut ..).trans (if_neg hn)⟩
  exact sameMemory_iod (State.modWorld_mem ..) (State.modWorld_iod ..)

/-- A doorbell that fits its queue sets the tail. -/
theorem ring_of_fits (hq : (listGet Queue.new w.queues prio).qsize ≠ 0)
    (hv : (v - (listGet Queue.new w.queues prio).qhead).toNat ≤ 2 ^ (listGet Queue.new w.queues prio).qsize.toNat) :
    s.ring world prio v = s.modQueue world prio (fun q => { q with qtail := v }) := by
  unfold State.ring
  simp only [hw, beq_eq_false_iff_ne.2 hq, decide_eq_false (Nat.not_lt.2 hv), Bool.or_self, Bool.false_eq_true, if_false]

/-- A doorbell that does not fit leaves every queue. -/
theorem ring_of_not_fits (h : ¬ ((listGet Queue.new w.queues prio).qsize ≠ 0 ∧
    (v - (listGet Queue.new w.queues prio).qhead).toNat ≤ 2 ^ (listGet Queue.new w.queues prio).qsize.toNat)) : QueuesKept s (s.ring world prio v) := by
  have hbad : ((listGet Queue.new w.queues prio).qsize == 0 ||
      decide (2 ^ (listGet Queue.new w.queues prio).qsize.toNat < (v - (listGet Queue.new w.queues prio).qhead).toNat)) = true := by
    rw [Bool.or_eq_true, beq_iff_eq, decide_eq_true_eq]
    by_cases hz : (listGet Queue.new w.queues prio).qsize = 0
    · exact .inl hz
    · exact .inr (Nat.lt_of_not_le (fun hle => h ⟨hz, hle⟩))
  unfold State.ring
  simp only [hw, hbad, if_true]
  exact State.pushRecord_queuesKept ..

variable (hpow : s.powered = true) (hp : prio < 8)
include hpow hp

theorem qtail_eq {fn : Nat} (hpost : s.postedDone fn = true) : exec (.qtail ⟨fn, world⟩ prio v) s =
    .next (State.progress (if fn == world then s.ring world prio v else { s with iod := { s.iod with bellDropped := s.iod.bellDropped + 1 } })) := by
  have hgo : (s.powered && decide (prio < 8) && (s.world? world).isSome && s.postedDone fn) = true := by
    rw [hpow, hw, decide_eq_true hp, hpost]
    rfl
  show execQtail ⟨fn, world⟩ prio v s = _
  unfold execQtail event
  dsimp only
  rw [if_pos hgo]

theorem peerDoorbell_eq {chip src : Nat} (ha : s.checker.admitted.contains chip = true) (hme : chip ≠ s.me) (hlive : s.liveWorld src = true)
    (hpeer : s.peerAdmits src chip = true) (hroom : s.portRoom 0 src (fun _ => true) = true) : exec (.peerDoorbell world prio chip src v) s =
    .next (State.progress (if s.liveWorld world && (listGet Queue.new w.queues prio).acl.any (fun e => aclAdmits e chip src) then s.ring world prio v
      else s.refuseBell world (listGet Queue.new w.queues prio) v)) := by
  have hgo : (s.powered && decide (prio < 8) && s.checker.admitted.contains chip && chip != s.me && s.portRoom 0 src (fun _ => true)) = true := by
    rw [hpow, decide_eq_true hp, ha, bne_iff_ne.2 hme, hroom]
    rfl
  show execPeerDoorbell world prio chip src v s = _
  unfold execPeerDoorbell event
  simp only [hw, hgo, if_true, hlive, hpeer, Bool.not_true, Bool.or_self, Bool.false_eq_true, if_false]

theorem queueConfig_eq (hpost : s.postedDone world = true) (size : Bool) (x : BitVec 64) : exec (.queueConfigWrite world prio size x) s =
    .next (State.progress (if (listGet Queue.new w.queues prio).qhead != (listGet Queue.new w.queues prio).qtail then s
      else if size then
        (if x == 0 || (decide (4 ≤ x.toNat) && decide (x.toNat ≤ 16)) then s.modQueue world prio (fun q => { q with qsize := x.setWidth 5 }) else s)
      else if x.extractLsb' 56 8 != 0 || x.extractLsb' 0 6 != 0 then s
      else s.modQueue world prio (fun q => { q with qbase := x.setWidth 56 }))) := by
  have hgo : (s.powered && decide (prio < 8) && s.postedDone world) = true := by
    rw [hpow, decide_eq_true hp, hpost]
    rfl
  show execQueueConfigWrite world prio size x s = _
  unfold execQueueConfigWrite event
  simp only [hw, hgo, if_true]

end

/-- A base is legal where its high byte and its low six bits are 0. -/
theorem legalBase {x : BitVec 64} (hlt : x.toNat < 2 ^ 56) (hlow : x.toNat % 64 = 0) :
    (x.extractLsb' 56 8 != 0 || x.extractLsb' 0 6 != 0) = false := by
  have h₁ : x.extractLsb' 56 8 = 0 := BitVec.eq_of_toNat_eq (by
    rw [BitVec.extractLsb'_toNat, Nat.shiftRight_eq_div_pow, Nat.div_eq_of_lt hlt]
    rfl)
  have h₂ : x.extractLsb' 0 6 = 0 := BitVec.eq_of_toNat_eq (by
    rw [BitVec.extractLsb'_toNat, Nat.shiftRight_zero]
    exact hlow)
  rw [h₁, h₂]
  rfl

end Sys2Proof.Machine

namespace Sys2Proof
open Sys2Proof.Machine

/-- Settles O42: doorbells and settings by the queue they meet, a counter by what its word holds, a notify by the fold over
the registers of its world. -/
theorem doorbellsCountersAndNotifies : Obligations.DoorbellsCountersAndNotifies := by
  unfold Obligations.DoorbellsCountersAndNotifies
  refine ⟨?bells, fun s world id v w hpow hw hpost hid h2 h4 h6 hlow => completionCounter_written hpow hw hpost hid h2 h4 h6 hlow, ?notify⟩
  case bells =>
    intro s world prio v w hpow hp hw hpost q rings fits same
    have hfits (h : fits) : rings (s.ring world prio v).progress := by
      rw [ring_of_fits hw h.1 h.2]
      exact modQueue_spec hw _
    refine ⟨fun h => ?_, fun h => ?_, fun fn hfn hdone => ?_, fun chip src ha hme hlive hpeer hroom => ⟨fun hl hacl h => ?_, fun h => ?_⟩,
      fun size x hne => ?_, fun x heq hx => ?_, fun x heq hlt hlow => ?_⟩
    · rw [qtail_eq hw hpow hp hpost, if_pos (beq_self_eq_true world)]
      exact ⟨_, rfl, hfits h⟩
    · rw [qtail_eq hw hpow hp hpost, if_pos (beq_self_eq_true world)]
      exact ⟨_, rfl, (ring_of_not_fits hw h).of_world hw⟩
    · rw [qtail_eq hw hpow hp hdone, if_neg (by simpa using hfn)]
      exact ⟨_, rfl, sameMemory_of rfl rfl, rfl, rfl, rfl⟩
    · rw [peerDoorbell_eq hw hpow hp ha hme hlive hpeer hroom, if_pos (by rw [hl]; exact hacl)]
      exact ⟨_, rfl, hfits h⟩
    · rw [peerDoorbell_eq hw hpow hp ha hme hlive hpeer hroom, if_neg (fun hc => ?_)]
      · exact ⟨_, rfl, (State.refuseBell_queuesKept ..).of_world hw⟩
      · obtain ⟨hl, hacl⟩ := Bool.and_eq_true_iff.1 hc
        rcases h with h | h
        · exact Bool.false_ne_true (h.symm.trans hl)
        · exact Bool.false_ne_true (h.symm.trans hacl)
    · rw [queueConfig_eq hw hpow hp hpost, if_pos (bne_iff_ne.2 hne)]
    · have hlegal : (x == 0 || (decide (4 ≤ x.toNat) && decide (x.toNat ≤ 16))) = true := by
        rcases hx with h | ⟨h, h'⟩
        · simp [h]
        · simp [h, h']
      rw [queueConfig_eq hw hpow hp hpost, if_neg (fun hc => bne_iff_ne.1 hc heq), if_pos rfl, if_pos hlegal]
      obtain ⟨hmem, -, w', hw', hset, -⟩ := modQueue_spec (prio := prio) hw (fun q => { q with qsize := x.setWidth 5 })
      exact ⟨_, rfl, hmem, w', hw', hset⟩
    · rw [queueConfig_eq hw hpow hp hpost, if_neg (fun hc => bne_iff_ne.1 hc heq), if_neg Bool.false_ne_true,
        if_neg (by rw [legalBase hlt hlow]; exact Bool.false_ne_true)]
      obtain ⟨hmem, -, w', hw', hset, -⟩ := modQueue_spec (prio := prio) hw (fun q => { q with qbase := x.setWidth 56 })
      exact ⟨_, rfl, hmem, w', hw', hset⟩
  case notify =>
    intro s world n v w hpow hw hn
    refine ⟨fun fn hfn hpost => ?_, fun hpost => notify_written hw hpow hn hpost⟩
    rw [notifyWrite_eq hw hpow hn hpost, if_neg (by simpa using hfn)]

end Sys2Proof
end

section
/-! Marked accesses issued again when a trapped gang resumes (spec 08, R197; 10, R289): the counterexample to the frame of other
threads. -/

namespace Sys2Proof.Machine

/-- A marked `ldp` of one word by thread 0 of workgroup 1, whose page is out. -/
def markedLoad : Flight :=
  { aliasLoad with elems := [⟨2 ^ 50, 0, 4, 0, 5, false, none⟩], replay := true, lines := [] }

/-- The bench's gang, trapped. -/
def trappedGang : Gang := { benchGang 1 with status := .trapped }

/-- The bench, its workgroup numbered 1 and its gang trapped, with that load marked and a value in register 5 of its thread 0. -/
def trappedState : State :=
  { aliasState with
    flights := [markedLoad], gangs := [trappedGang], threads := (aliasState.setThread 1 0 ((aliasState.thread 1 0).setV 5 7)).threads }

/-- Register 5 of a thread in the state that an outcome leads to. -/
def registerAfter (o : Out) (wg n : Nat) : Word := match o with | .next t => (t.thread wg n).v 5 | _ => 7

/-- What is kept as thread 0 of workgroup 1 is also read as thread 8,192 of workgroup 0: its register holds 7 before, and the `ldp` that
is issued again makes it 0. -/
theorem trappedState_register : (trappedState.thread 0 8192).v 5 = 7 := by decide +kernel

theorem trappedState_resumes : registerAfter (exec (.trapResume 1) trappedState) 0 8192 = 0 := by decide +kernel

end Sys2Proof.Machine

namespace Sys2Proof
open Sys2Proof.Machine

/-- Refutes O44: it says of a gang that resumes after a trap that a register of a thread changes only where a marked access of that
thread's own workgroup and number names it, and the model keeps thread `n` of workgroup `wg` at the key `8192 * wg + n`: the marked
access of thread 0 of workgroup 1 changes what reads as thread 8,192 of workgroup 0. -/
theorem not_haltSaveAndResume : ¬ Obligations.HaltSaveAndResume := by
  unfold Obligations.HaltSaveAndResume
  rintro ⟨-, -, -, hresume, -⟩
  obtain ⟨htrapped, -⟩ := hresume trappedState 1 trappedGang rfl List.nodup_nil
  obtain ⟨t, hnext, hresumed, -⟩ := htrapped rfl
  have hzero := trappedState_resumes
  rw [hnext] at hzero
  rcases (hresumed 0 8192).2 5 with hkept | ⟨f, hf, -, -, hwg, -⟩
  · have hseven := trappedState_register
    rw [← hkept, show (t.thread 0 8192).v 5 = 0 from hzero] at hseven
    exact absurd hseven (by decide)
  · obtain rfl := List.mem_singleton.1 hf
    exact absurd hwg (by decide)

end Sys2Proof
end

section
/-! Pages come in, the fault queue is consumed, and what accesses issued again leave (spec 10, R289; 14, R325, R326, R328). -/

namespace Sys2Proof.Machine

/-! A page comes in. -/

theorem State.stt?_modStt (s : State) (wg page : Nat) (f : SttEntry → SttEntry) (hf : ∀ x, (f x).wg = x.wg ∧ (f x).page = x.page) :
    (s.modStt wg page f).stt? wg page = (s.stt? wg page).map f :=
  find_mapIf _ f (fun x => by rw [(hf x).1, (hf x).2]) _

theorem State.stt?_modStt_isSome {s : State} {wg page : Nat} (h : (s.stt? wg page).isSome = true) (wg' page' : Nat) (f : SttEntry → SttEntry)
    (hf : ∀ x, (f x).wg = x.wg ∧ (f x).page = x.page) : ((s.modStt wg' page' f).stt? wg page).isSome = true := by
  obtain ⟨x, hx⟩ := Option.isSome_iff_exists.1 h
  have hmem := List.mem_of_find?_eq_some hx
  have hp := List.find?_some hx
  refine List.find?_isSome.2 ⟨_, List.mem_map.2 ⟨x, hmem, rfl⟩, ?_⟩
  split
  · rw [(hf x).1, (hf x).2]
    exact hp
  · exact hp

theorem State.evict_stt? {s t : State} {x : SttEntry} (h : s.evict x = some t) {wg page : Nat} (hs : (s.stt? wg page).isSome = true) :
    (t.stt? wg page).isSome = true := by
  unfold State.evict at h
  dsimp only at h
  split at h
  · obtain rfl := Option.some.inj h
    exact State.stt?_modStt_isSome hs _ _ _ (fun _ => ⟨rfl, rfl⟩)
  · split at h
    · cases h
    next n k _ =>
      obtain rfl := Option.some.inj h
      obtain ⟨mem, llcDirty, iod, hp⟩ := s.homePut_eq k (memBytes s.mem (spadKey x.wg (x.page * 1024)) 1024)
      refine State.stt?_modStt_isSome ?_ _ _ _ (fun _ => ⟨rfl, rfl⟩)
      rw [hp]
      exact hs

theorem State.makeRoom_stt? {s t : State} {core wg' n : Nat} (h : s.makeRoom core wg' = .frame n t) {wg page : Nat}
    (hs : (s.stt? wg page).isSome = true) : (t.stt? wg page).isSome = true := by
  unfold State.makeRoom at h
  split at h
  · cases h
    exact hs
  · split at h
    · cases h
    · split at h
      next he =>
        cases h
        exact State.evict_stt? he hs
      · cases h

/-- The bytes of a page that comes in: those of its backing line, or zeros. -/
def State.pageBytes (s : State) (x : SttEntry) : List Byte :=
  match (if x.backed then s.backKey (s.worldOfWg x.wg) x.bline else none) with
  | some k => memBytes s.mem k 1024
  | none => List.replicate 1024 0

theorem State.pageBytes_length (s : State) (x : SttEntry) : (s.pageBytes x).length = 1024 := by
  unfold State.pageBytes
  split
  · exact memBytes_length ..
  · exact List.length_replicate

/-- A page that comes in: its bytes in the scratchpad, and its entry. -/
theorem pageIn_spec {s : State} {x : SttEntry} (hs : (s.stt? x.wg x.page).isSome = true) (frame : Nat) :
    (s.pageIn x frame).threads = s.threads ∧ (s.pageIn x frame).mem = memPut s.mem (spadKey x.wg (x.page * 1024)) (s.pageBytes x) ∧
    ∃ y, (s.pageIn x frame).stt? x.wg x.page = some y ∧ y.present = true ∧ y.frame = frame ∧ y.used = s.clock := by
  obtain ⟨mem, llcDirty, iod, hp⟩ := s.homePut_eq (spadKey x.wg (x.page * 1024)) (s.pageBytes x)
  have hmem := s.homePut_mem_of_not_host (spadKey x.wg (x.page * 1024)) (s.pageBytes x) (fun j hle _ => spadKey_not_host hle)
  have hin : s.pageIn x frame = (s.homePut (spadKey x.wg (x.page * 1024)) (s.pageBytes x)).modStt x.wg x.page
      (fun y => { y with present := true, frame, used := s.clock }) := rfl
  rw [hin]
  refine ⟨by rw [hp]; rfl, hmem, ?_⟩
  obtain ⟨y, hy⟩ := Option.isSome_iff_exists.1 hs
  refine ⟨{ y with present := true, frame, used := s.clock }, ?_, rfl, rfl, rfl⟩
  refine (State.stt?_modStt _ _ _ (fun y => { y with present := true, frame, used := s.clock }) (fun _ => ⟨rfl, rfl⟩)).trans ?_
  rw [hp]
  exact congrArg (Option.map _) hy

theorem pageIn_next {s p : State} {wg page n : Nat} {x : SttEntry} {w : Workgroup} {g : Gang} (hx : s.stt? wg page = some x) (hw : s.wg? wg = some w)
    (hg : s.gang? w.gang = some g) (hst : g.status ≠ .saved) (hp : x.present = false) (hroom : s.makeRoom w.home wg = .frame n p) :
    exec (.pageInComplete wg page) s = .next (p.pageIn x n).progress := by
  have hsaved : (g.status == .saved) = false := beq_eq_false_iff_ne.2 hst
  show execPageInComplete wg page s = _
  unfold execPageInComplete
  simp only [hx, hw, hg, hsaved, hp, Bool.or_self, Bool.false_eq_true, if_false, hroom]

/-- A page's bytes follow one another. -/
theorem spadKey_page (wg page : Nat) {j : Nat} (hj : j < 1024) : spadKey wg (page * 1024 + j) = spadKey wg (page * 1024) + j := by
  unfold spadKey
  have : (page * 1024 + j) % 2 ^ 24 = page * 1024 % 2 ^ 24 + j := by
    norm_num only
    omega
  rw [this, Nat.add_assoc (keySpad + wg * 2 ^ 24)]

theorem State.pageBytes_of_backed {s : State} {x : SttEntry} {k : Nat} (hb : x.backed = true) (hk : s.backKey (s.worldOfWg x.wg) x.bline = some k) :
    s.pageBytes x = memBytes s.mem k 1024 := by
  unfold State.pageBytes
  simp only [hb, hk, if_true]

theorem memNat_lt_pow (m : List Host.Cell) (k n : Nat) : memNat m k n < 256 ^ n := by
  have h := leNat_lt (memBytes m k n)
  rwa [memBytes_length] at h

/-! Records are closed. -/

theorem fqclose_next {s : State} {world k : Nat} {index : BitVec 16} {w : World} (hpow : s.powered = true) (hw : s.world? world = some w)
    (hk : w.fqSlot index = some k) (hpost : s.postedDone 0 = true) (hin : (index - w.fqhead).toNat < w.fqCount) :
    exec (.fqclose world index) s = .next (State.progress (if memNat s.mem k 32 / 2 ^ 13 % 2 == 1 then
      s.homePut k (natLe 32 (memNat s.mem k 32 - 2 ^ 13)) else s)) := by
  have hgo : (s.powered && (s.world? world).isSome && s.postedDone 0) = true := by
    rw [hpow, hw, hpost]
    rfl
  show execFqclose world index s = _
  unfold execFqclose event
  rw [if_pos hgo]
  unfold State.closeRecord
  simp only [hw, Nat.not_le.2 hin, if_false, hk]

/-! Accesses that are issued again keep where threads stand, and where each fault queue's head stands. -/

/-- Every thread stands where it stood, and the head of every world's fault queue too. -/
def Standing (s t : State) : Prop :=
  (∀ wg n, (t.thread wg n).pc = (s.thread wg n).pc) ∧ ∀ j, (t.world? j).map World.fqhead = (s.world? j).map World.fqhead

theorem Standing.refl (s : State) : Standing s s := ⟨fun _ _ => rfl, fun _ => rfl⟩

theorem Standing.trans {s t u : State} (h : Standing s t) (h' : Standing t u) : Standing s u :=
  ⟨fun wg n => (h'.1 wg n).trans (h.1 wg n), fun j => (h'.2 j).trans (h.2 j)⟩

theorem Standing.foldl {α : Type} {f : State → α → State} (hf : ∀ s x, Standing s (f s x)) (l : List α) (s : State) : Standing s (l.foldl f s) := by
  induction l generalizing s with
  | nil => exact .refl s
  | cons x l ih => exact (hf s x).trans (ih _)

theorem Standing.of_eq {s t : State} (ht : t.threads = s.threads) (hw : t.worlds = s.worlds) : Standing s t :=
  ⟨fun wg n => by rw [State.thread_congr ht], fun j => by rw [State.world?_congr hw]⟩

theorem Standing.modWorld (s : State) (world : Nat) (f : World → World) (hf : ∀ w, (f w).fqhead = w.fqhead) : Standing s (s.modWorld world f) := by
  refine ⟨fun wg n => by rw [State.thread_congr (State.modWorld_threads ..)], fun j => ?_⟩
  rw [State.world?_modWorld]
  split
  · rw [Option.map_map]
    exact congrArg (Option.map · (s.world? j)) (funext hf)
  · rfl

/-- A change of one thread that keeps where it stands. -/
theorem Standing.modThread (s : State) (wg n : Nat) (f : Thread → Thread) (hf : ∀ x, (f x).pc = x.pc) : Standing s (s.modThread wg n f) := by
  refine ⟨fun wg' n' => ?_, fun _ => rfl⟩
  show (tabGet Thread.gone (threadKey wg' n') (tabSet Thread.gone (threadKey wg n) (f (s.thread wg n)) s.threads)).pc = _
  rw [tabGet_tabSet]
  split
  next h =>
    rw [hf]
    show (tabGet Thread.gone (threadKey wg n) s.threads).pc = (tabGet Thread.gone (threadKey wg' n') s.threads).pc
    rw [h]
  next => rfl

theorem Standing.modThreads (s : State) (wg : Nat) (l : List Nat) (f : Thread → Thread) (hf : ∀ x, (f x).pc = x.pc) :
    Standing s (s.modThreads wg l f) := .foldl (fun s n => .modThread s wg n f hf) _ s

theorem Standing.modLive (s : State) (wg : Nat) (l : List Nat) (f : Thread → Thread) (hf : ∀ x, (f x).pc = x.pc) :
    Standing s (s.modLive wg l f) := by
  unfold State.modLive
  split
  · exact .modThreads s wg l f hf
  · exact .refl s

theorem State.pushRecord_standing (s : State) (world : Nat) (r : FaultRec) : Standing s (s.pushRecord world r) := by
  unfold State.pushRecord
  split
  · exact .refl s
  · dsimp only
    split
    next k _ =>
      obtain ⟨mem, llcDirty, iod, h⟩ := s.homePut_eq k (natLe 32 r.toNat)
      have hput : Standing s (s.homePut k (natLe 32 r.toNat)) := by
        rw [h]
        exact .of_eq rfl rfl
      exact (hput.trans (.modWorld _ _ World.pushTail (fun _ => rfl))).trans (.of_eq (State.raiseIrq_threads ..) (State.raiseIrq_worlds ..))
    · have hwait := Standing.modWorld s world (fun w => { w with waiting := w.waiting ++ [r] }) (fun _ => rfl)
      split
      · exact hwait
      · obtain ⟨gangs, flights, engines, h⟩ := (State.modWorld (s.modWorld world (fun w => { w with waiting := w.waiting ++ [r] })) world
          (fun w => { w with stalled := true })).haltGangs_eq .stalled (fun g => g.world == world)
        rw [h]
        exact (hwait.trans (.modWorld _ _ (fun w => { w with stalled := true }) (fun _ => rfl))).trans (.of_eq rfl rfl)

theorem State.recordPage_standing (s : State) (world : Nat) (big : Bool) (r : FaultRec) (va : Nat) : Standing s (s.recordPage world big r va) := by
  unfold State.recordPage
  split
  · exact .refl s
  · split
    · exact State.pushRecord_standing ..
    · dsimp only
      split
      next k _ =>
        split
        · exact .refl s
        · obtain ⟨mem, llcDirty, iod, h⟩ := s.homePut_eq k (natLe 32 (memNat s.mem k 32 + 2 ^ (192 + va / 2 ^ 16 % 64)))
          rw [h]
          exact .of_eq rfl rfl
      · split
        · exact .modWorld _ _ (fun w => { w with waiting := w.waiting.map _ }) (fun _ => rfl)
        · exact State.pushRecord_standing ..

theorem State.recordPages_standing (s : State) (world : Nat) (r : FaultRec) (ps : List (Nat × Nat)) : Standing s (s.recordPages world r ps) :=
  .foldl (fun _ _ => State.recordPage_standing ..) _ s

theorem State.modFlight_standing (s : State) (id : Nat) (f : Flight → Flight) : Standing s (s.modFlight id f) := .of_eq rfl rfl

theorem State.driverStop_standing (s : State) (gang : Nat) : Standing s (s.driverStop gang) := by
  obtain ⟨gangs, flights, engines, h⟩ := s.driverStop_eq gang
  rw [h]
  exact .of_eq rfl rfl

theorem State.toReg_standing (s : State) (f : Flight) (reg : Nat) (x : Word → Word) : Standing s (s.toReg f reg x) := by
  unfold State.toReg
  split
  · exact .modLive _ _ _ _ (fun t => by simp)
  · exact .refl s

theorem State.lower_standing (s : State) (f : Flight) : Standing s (s.lower f) := by
  refine .modLive _ _ _ _ (fun t => ?_)
  split
  · rfl
  · rfl

theorem State.countAgain_standing (s : State) (f : Flight) : Standing s (s.countAgain f) := by
  unfold State.countAgain
  split
  · refine Standing.trans (.modLive s f.wg f.tids (fun t => t.issued f.inLd) (fun t => ?_)) (State.modFlight_standing ..)
    unfold Thread.issued
    split
    · rfl
    · rfl
  · exact .refl s

theorem State.meet_standing {s : State} {f : Flight} {first : State → State} (h : Standing s (first s)) : Standing s (s.meet f first) := by
  unfold State.meet
  split
  · exact .refl s
  · exact h.trans (State.modFlight_standing ..)

theorem Thread.pc_setP (t : Thread) (n : BitVec 4) (b : Bool) : (t.setP n b).pc = t.pc := by
  unfold Thread.setP
  split
  · rfl
  · rfl

theorem State.ldpOut_standing (s : State) (f : Flight) (p : Nat) : Standing s (s.ldpOut f p) := by
  have hregs : Standing s (f.elems.foldl (fun s x => s.toReg f x.reg (fun _ => 0)) s) := .foldl (fun s x => State.toReg_standing ..) _ s
  have hpred (u : State) : Standing u (u.modLive f.wg f.tids (fun t => t.setP (BitVec.ofNat 4 p) false)) := .modLive _ _ _ _ (fun t => Thread.pc_setP t _ _)
  have hcount (u : State) : Standing u (if f.uncounted then u else u.lower f) := by
    split
    · exact .refl u
    · exact State.lower_standing ..
  exact ((hregs.trans (hpred _)).trans (hcount _)).trans (.of_eq rfl rfl)

theorem State.reissueIn_standing (s : State) (f : Flight) (xs : List Elem) : Standing s (s.reissueIn f xs) := by
  unfold State.reissueIn
  split
  · refine Standing.trans ?_ (State.modFlight_standing ..)
    exact .of_eq rfl rfl
  · refine Standing.trans (Standing.trans (s.countAgain_standing f) ?_) (State.modFlight_standing ..)
    refine .foldl (fun u p => ?_) _ _
    obtain ⟨tlb, h⟩ := u.tlbFill_eq f.core f.world (p * 65536)
    rw [h]
    exact .of_eq rfl rfl

theorem State.reissue_standing (s : State) (f : Flight) : Standing s (s.reissue f) := by
  unfold State.reissue
  split
  · split
    next t ht =>
      obtain ⟨⟨mem, llcDirty, iod, stt, rfl⟩, -⟩ := State.touchPages_paged ht
      refine Standing.trans (Standing.trans ?_ (State.countAgain_standing ..)) (State.modFlight_standing ..)
      exact .of_eq rfl rfl
    · exact State.meet_standing (.of_eq rfl rfl)
    · exact State.meet_standing (State.pushRecord_standing ..)
  · dsimp only
    split
    · exact .refl s
    · exact (State.driverStop_standing ..).trans (State.pushRecord_standing ..)
    · split
      · exact State.reissueIn_standing ..
      · split
        · exact State.ldpOut_standing ..
        · exact State.meet_standing (State.recordPages_standing ..)

theorem State.reissueAll_standing (s : State) (gang : Nat) : Standing s (s.reissueAll gang) := by
  refine .foldl (fun u f => ?_) _ s
  split
  · exact State.reissue_standing ..
  · exact .refl u

/-! Records are consumed. -/

/-- A gang that may go on, with its recorded copies. -/
def State.unheld (s : State) (g : Gang) : State :=
  { s.modGang g.id (fun x => { x with status := s.runStatus g }) with
    engines := s.engines.map (fun (o : EngineOp) =>
      if (o : EngineOp).gang == g.id && o.stage == EngineStage.halted && s.runStatus g == GStatus.running then o.restart else o) }

theorem State.unstallGang_eq (s : State) (g : Gang) : s.unstallGang g = (s.unheld g).reissueAll g.id := rfl

theorem State.unstallGang_standing (s : State) (g : Gang) : Standing s (s.unstallGang g) := by
  rw [State.unstallGang_eq]
  refine Standing.trans ?_ (State.reissueAll_standing ..)
  exact .of_eq rfl rfl

theorem State.unstall_standing (s : State) (world : Nat) : Standing s (s.unstall world) := by
  unfold State.unstall
  split
  · exact .refl s
  · split
    · exact (Standing.modWorld s world (fun w => { w with stalled := false }) (fun _ => rfl)).trans (.foldl State.unstallGang_standing _ _)
    · exact .refl s

/-- No access is marked. -/
def State.unmarked (s : State) : Prop := ∀ f ∈ s.flights, f.replay = false

theorem State.reissueAll_of_unmarked {s : State} (h : s.unmarked) (gang : Nat) : s.reissueAll gang = s := by
  have hnone : s.flights.filter (fun f => f.gang == gang && f.replay) = [] := by
    refine List.filter_eq_nil_iff.2 (fun f hf => ?_)
    rw [h f hf, Bool.and_false]
    exact Bool.false_ne_true
  unfold State.reissueAll
  rw [hnone]
  rfl

/-- With no access marked, gangs that go on change their own records and those of their copies alone. -/
theorem foldl_unstallGang {s : State} (h : s.unmarked) (gs : List Gang) :
    ∃ gangs engines, gs.foldl State.unstallGang s = { s with gangs, engines } := by
  induction gs generalizing s with
  | nil => exact ⟨s.gangs, s.engines, rfl⟩
  | cons g gs ih =>
    have hone : s.unstallGang g = s.unheld g := by
      rw [State.unstallGang_eq]
      exact State.reissueAll_of_unmarked (s := s.unheld g) h _
    obtain ⟨gangs, engines, hrest⟩ := ih (s := s.unheld g) h
    refine ⟨gangs, engines, ?_⟩
    rw [List.foldl_cons, hone, hrest]
    rfl

/-- What a world has while records go to its queue: no access is marked, or more than 256 records wait. -/
def State.calm (s : State) (world : Nat) : Prop := s.unmarked ∨ ∃ w, s.world? world = some w ∧ 256 < w.waiting.length

theorem State.pushRecord_calm {s : State} {world : Nat} (h : s.calm world) (r : FaultRec) : (s.pushRecord world r).calm world := by
  cases hw : s.world? world with
  | none =>
    have : s.pushRecord world r = s := by
      unfold State.pushRecord
      simp only [hw]
    rwa [this]
  | some w =>
    have hcase : (∃ k, s.pushRecord world r = ((s.homePut k (natLe 32 r.toNat)).modWorld world World.pushTail).raiseIrq world 0 ∧ w.waiting = []) ∨
        s.pushRecord world r = (if w.waiting.length < 256 then s.modWorld world (fun w => { w with waiting := w.waiting ++ [r] }) else
          ((s.modWorld world (fun w => { w with waiting := w.waiting ++ [r] })).modWorld world (fun w => { w with stalled := true })).haltGangs .stalled
            (fun g => g.world == world)) := by
      unfold State.pushRecord
      simp only [hw]
      split
      next k hk =>
        refine .inl ⟨k, rfl, ?_⟩
        by_contra hne
        rw [if_pos] at hk
        · cases hk
        · simp [hne]
      · exact .inr rfl
    rcases hcase with ⟨k, hput, hempty⟩ | hwait
    · rcases h with h | ⟨v, hv, hlen⟩
      · obtain ⟨mem, llcDirty, iod, hp⟩ := s.homePut_eq k (natLe 32 r.toNat)
        refine .inl ?_
        have hflights : (s.pushRecord world r).flights = s.flights := by
          rw [hput]
          refine (State.modWorld_flights ..).trans ?_
          rw [hp]
        intro f hf
        exact h f (hflights ▸ hf)
      · obtain rfl := Option.some.inj (hw.symm.trans hv)
        rw [hempty] at hlen
        exact absurd hlen (by simp)
    · rw [hwait]
      split
      next hlt =>
        rcases h with h | ⟨v, hv, hlen⟩
        · refine .inl (fun f hf => h f ?_)
          rwa [show (s.modWorld world (fun w => { w with waiting := w.waiting ++ [r] })).flights = s.flights from State.modWorld_flights ..] at hf
        · obtain rfl := Option.some.inj (hw.symm.trans hv)
          omega
      next hge =>
        obtain ⟨gangs, flights, engines, hh⟩ := (State.modWorld (s.modWorld world (fun w => { w with waiting := w.waiting ++ [r] })) world
          (fun w => { w with stalled := true })).haltGangs_eq .stalled (fun g => g.world == world)
        refine .inr ⟨{ w with waiting := w.waiting ++ [r], stalled := true }, ?_, ?_⟩
        · rw [hh]
          exact State.world?_modWorld_of (State.world?_modWorld_of hw _) _
        · rw [List.length_append, List.length_singleton]
          omega

theorem foldl_pushRecord_calm {s : State} {world : Nat} (h : s.calm world) (rs : List FaultRec) :
    (rs.foldl (fun s r => s.pushRecord world r) s).calm world := by
  induction rs generalizing s with
  | nil => exact h
  | cons r rs ih => exact ih (State.pushRecord_calm h r)

theorem foldl_pushRecord_threads (world : Nat) (rs : List FaultRec) (s : State) :
    (rs.foldl (fun s r => s.pushRecord world r) s).threads = s.threads := by
  induction rs generalizing s with
  | nil => rfl
  | cons r rs ih =>
    obtain ⟨mem, llcDirty, iod, worlds, gangs, flights, engines, h⟩ := s.pushRecord_eq world r
    refine (ih (s.pushRecord world r)).trans ?_
    rw [h]

/-- Threads are as before where a world that is calm goes on. -/
theorem unstall_threads {s : State} {world : Nat} (h : s.calm world) : (s.unstall world).threads = s.threads := by
  unfold State.unstall
  split
  · rfl
  next w hw =>
    split
    next hgo =>
      rcases h with h | ⟨v, hv, hlen⟩
      · have hflights : (s.modWorld world (fun w => { w with stalled := false })).unmarked := by
          intro f hf
          rw [State.modWorld_flights] at hf
          exact h f hf
        obtain ⟨gangs, engines, hu⟩ := foldl_unstallGang hflights
          ((s.modWorld world (fun w => { w with stalled := false })).gangs.filter (fun g => g.world == world && g.status == .stalled && !g.waits))
        refine (congrArg State.threads hu).trans ?_
        exact State.modWorld_threads ..
      · obtain rfl := Option.some.inj (hw.symm.trans hv)
        rw [Bool.and_eq_true, decide_eq_true_eq] at hgo
        omega
    · rfl

/-- The head of a world's fault queue is set, and no record waits. -/
def State.headed (s : State) (world : Nat) (v : BitVec 16) : State :=
  (s.modWorld world (fun w => w.setHead v)).modWorld world (fun w => { w with waiting := [] })

theorem State.headed_eq (s : State) (world : Nat) (v : BitVec 16) : ∃ worlds, s.headed world v = { s with worlds } := by
  obtain ⟨worlds, h⟩ := s.modWorld_eq world (fun w => w.setHead v)
  obtain ⟨worlds', h'⟩ := (s.modWorld world (fun w => w.setHead v)).modWorld_eq world (fun w => { w with waiting := [] })
  exact ⟨worlds', by unfold State.headed; rw [h', h]⟩

section
variable {s : State} {world : Nat} {v : BitVec 16} {w : World} (hw : s.world? world = some w)
include hw

theorem State.headed_world (v : BitVec 16) : (s.headed world v).world? world = some { w.setHead v with waiting := [] } :=
  State.world?_modWorld_of (State.world?_modWorld_of hw _) _

theorem consume_eq : s.consume world v = (w.waiting.foldl (fun s r => s.pushRecord world r) (s.headed world v)).unstall world := by
  unfold State.consume State.flushRecords
  rw [State.world?_modWorld_of hw]
  rfl

theorem consume_standing : (∀ wg n, ((s.consume world v).thread wg n).pc = (s.thread wg n).pc) ∧
    ∃ w', (s.consume world v).world? world = some w' ∧ w'.fqhead = v := by
  rw [consume_eq hw]
  have hrest : Standing (s.headed world v) ((w.waiting.foldl (fun s r => s.pushRecord world r) (s.headed world v)).unstall world) :=
    (Standing.foldl (fun s r => State.pushRecord_standing ..) _ _).trans (State.unstall_standing ..)
  obtain ⟨hpc, hhead⟩ := hrest
  obtain ⟨worlds, he⟩ := s.headed_eq world v
  refine ⟨fun wg n => (hpc wg n).trans ?_, ?_⟩
  · rw [he]
    rfl
  · have hj := hhead world
    rw [State.headed_world hw] at hj
    obtain ⟨w', hw', hf⟩ := Option.map_eq_some_iff.1 hj
    exact ⟨w', hw', hf⟩

theorem consume_threads (h : s.unmarked) : (s.consume world v).threads = s.threads := by
  obtain ⟨worlds, he⟩ := s.headed_eq world v
  have hcalm : (s.headed world v).calm world := by
    refine .inl ?_
    rw [he]
    exact h
  rw [consume_eq hw, unstall_threads (foldl_pushRecord_calm hcalm _), foldl_pushRecord_threads, he]

/-- With no record waiting, the world goes on. -/
theorem consume_of_empty (hempty : w.waiting = []) (h : w.stalled = true → s.unmarked) : SameMemory s (s.consume world v) ∧
    (∃ w', (s.consume world v).world? world = some w' ∧ w'.fqtail = w.fqtail ∧ w'.stalled = false ∧ w'.waiting = []) ∧
    (w.stalled = true → ∀ y ∈ (s.consume world v).gangs, y.world = world → y.waits = false → y.status ≠ .stalled) := by
  obtain ⟨worlds, he⟩ := s.headed_eq world v
  have hworld := State.headed_world hw v
  rw [consume_eq hw, hempty, List.foldl_nil]
  unfold State.unstall
  simp only [hworld]
  cases hst : w.stalled with
  | false =>
    have hno : ((w.setHead v).stalled && decide (([] : List FaultRec).length ≤ 256)) = false := by
      rw [show (w.setHead v).stalled = w.stalled from rfl, hst, Bool.false_and]
    rw [hno, if_neg Bool.false_ne_true]
    refine ⟨?_, ⟨_, hworld, rfl, hst, rfl⟩, fun hc => absurd hc Bool.false_ne_true⟩
    rw [he]
    exact sameMemory_of rfl rfl
  | true =>
    have hgo : ((w.setHead v).stalled && decide (([] : List FaultRec).length ≤ 256)) = true := by
      rw [show (w.setHead v).stalled = w.stalled from rfl, hst]
      rfl
    rw [hgo, if_pos rfl]
    set u := (s.headed world v).modWorld world (fun w => { w with stalled := false }) with hu
    have huw : u.world? world = some { w.setHead v with waiting := [], stalled := false } := State.world?_modWorld_of hworld _
    obtain ⟨worlds', hue⟩ : ∃ worlds, u = { s with worlds } := by
      obtain ⟨worlds', h'⟩ := (s.headed world v).modWorld_eq world (fun w => { w with stalled := false })
      exact ⟨worlds', by rw [hu, h', he]⟩
    have hunmarked : u.unmarked := by
      rw [hue]
      exact h hst
    have hgangs : ∀ y ∈ ((u.gangs.filter (fun g => g.world == world && g.status == .stalled && !g.waits)).foldl State.unstallGang u).gangs,
        y.world = world → y.waits = false → y.status ≠ .stalled := by
      have hrun : ∀ y : Gang, ∀ t : State, t.world? world = some { w.setHead v with waiting := [], stalled := false } → y.world = world →
          t.runStatus y ≠ .stalled := by
        intro y t ht hy
        unfold State.runStatus
        rw [hy, ht]
        dsimp only
        split
        · exact GStatus.noConfusion
        · exact GStatus.noConfusion
      have hfold : ∀ (gs : List Gang) (t : State), t.unmarked → t.world? world = some { w.setHead v with waiting := [], stalled := false } →
          (∀ g ∈ gs, g.world = world) → (∀ y ∈ t.gangs, y.world = world → y.waits = false → y.status = .stalled → ∃ g ∈ gs, g.id = y.id) →
          ∀ y ∈ (gs.foldl State.unstallGang t).gangs, y.world = world → y.waits = false → y.status ≠ .stalled := by
        intro gs
        induction gs with
        | nil =>
          intro t _ _ _ hall y hy hyw hwaits hstall
          obtain ⟨g, hg, -⟩ := hall y hy hyw hwaits hstall
          exact absurd hg List.not_mem_nil
        | cons g gs ih =>
          intro t hm ht hin hall
          have hone : t.unstallGang g = t.unheld g := by
            rw [State.unstallGang_eq]
            exact State.reissueAll_of_unmarked (s := t.unheld g) hm _
          rw [List.foldl_cons, hone]
          refine ih (t.unheld g) hm ht (fun x hx => hin x (List.mem_cons_of_mem _ hx)) (fun y hy hyw hwaits hstall => ?_)
          obtain ⟨z, hz, rfl⟩ := List.mem_map.1 hy
          by_cases hid : z.id = g.id
          · rw [if_pos (beq_iff_eq.2 hid)] at hstall
            exact absurd hstall (hrun g t ht (hin g List.mem_cons_self))
          · rw [if_neg (by simpa using hid)] at hyw hwaits hstall ⊢
            obtain ⟨x, hx, hxid⟩ := hall z hz hyw hwaits hstall
            rcases List.mem_cons.1 hx with rfl | hx
            · exact absurd hxid.symm hid
            · exact ⟨x, hx, hxid⟩
      refine hfold _ u hunmarked huw (fun g hg => ?_) (fun y hy hyw hwaits hstall => ⟨y, List.mem_filter.2 ⟨hy, ?_⟩, rfl⟩)
      · have := (List.mem_filter.1 hg).2
        simp only [Bool.and_eq_true, beq_iff_eq] at this
        exact this.1.1
      · simp [hyw, hwaits, hstall]
    obtain ⟨gangs, engines, hfin⟩ := foldl_unstallGang hunmarked
      (u.gangs.filter (fun g => g.world == world && g.status == .stalled && !g.waits))
    generalize (u.gangs.filter (fun g => g.world == world && g.status == .stalled && !g.waits)).foldl State.unstallGang u = t at hgangs hfin
    refine ⟨?_, ⟨{ w.setHead v with waiting := [], stalled := false }, ?_, rfl, rfl, rfl⟩, fun _ => hgangs⟩
    · rw [hfin, hue]
      exact sameMemory_of rfl rfl
    · rw [hfin]
      exact huw

theorem fqhead_next (hpow : s.powered = true) (hpost : s.postedDone 0 = true) : exec (.fqhead world v) s = .next (s.consume world v).progress := by
  have hgo : (s.powered && (s.world? world).isSome && s.postedDone 0) = true := by
    rw [hpow, hw, hpost]
    rfl
  show execFqhead world v s = _
  unfold execFqhead event
  exact if_pos hgo

end

/-! `tlbinv` and `sttinv`. -/

/-- A system instruction that may issue, with a lane and no ILLEGAL value, is its body. -/
theorem Issuable.sysOp {s : State} {e : Env} {g : Guard} {i : Instr} (h : Issuable s e g i) (l : s.someLane e g) {illegal : Env → Bool}
    (hi : illegal e = false) (body : Env → List Nat → Out) : Machine.sysOp g i s illegal body = body e (s.lanes e g) := by
  unfold Machine.sysOp
  simp only [h.issuer, h.gate, h.groupOp l, hi, Bool.false_eq_true, if_false]

theorem State.releasedAll_of {s : State} {e : Env} {ts : List Nat} (h : ∀ n ∈ ts, s.released e.w.id n 3 = true) : s.releasedAll e ts = true :=
  List.all_eq_true.2 h

/-- The state in which the lanes of the group have taken part in an operation that counts in `st`. -/
def Settles (s t : State) (e : Env) (g : Guard) : Prop :=
  (∃ y : Flight, t.flights = s.flights ++ [y] ∧ y.kind = .settle ∧ y.tids = s.lanes e g ∧ y.inLd = false) ∧
  ThreadsBecome s t e (fun n x => if n ∈ s.lanes e g then ({ x with st := x.st + 1 }).next else x.next)

/-- An operation whose completion counts in `st`, added in a state with the flights and threads of `s`. -/
theorem addSettle_leads {s v : State} {e : Env} {g : Guard} (hf : v.flights = s.flights) (ht : v.threads = s.threads) (before : List (Nat × Nat)) :
    Out.Leads (State.done (v.addSettle e (s.lanes e g) before) e) (fun t =>
      Settles s t e g ∧ t.mem = v.mem ∧ t.iod = v.iod ∧ t.tlb = v.tlb ∧ t.stt = v.stt) := by
  obtain ⟨tlb, launches, h⟩ := v.addFlight_eq e { kind := fun _ => .settle } (s.lanes e g) [] false before v.nextId
  have hfields : (v.addSettle e (s.lanes e g) before).tlb = v.tlb := (State.modThreads_tlb ..).trans rfl
  have hadd : v.addSettle e (s.lanes e g) before = _ := h
  have hthreads : (v.addSettle e (s.lanes e g) before).threads = (v.modThreads e.w.id (s.lanes e g) (fun t => t.issued false)).threads := by
    rw [hadd]
  refine ⟨_, rfl, ⟨⟨v.newFlight e { kind := fun _ => .settle } (s.lanes e g) [] false before v.nextId,
    (State.modThreads_flights ..).trans (by rw [hadd, hf]), rfl, rfl, rfl⟩, fun n hn => ?_, fun wg n hn => ?_⟩,
    (State.modThreads_mem ..).trans (by rw [hadd]), (State.modThreads_iod ..).trans (by rw [hadd]),
    (State.modThreads_tlb ..).trans hfields, (State.modThreads_stt ..).trans (by rw [hadd])⟩
  · rw [State.thread_progress, State.thread_advance _ _ _ hn, State.thread_congr hthreads, State.thread_modThreads, State.thread_congr ht]
    exact apply_ite Thread.next _ _ _
  · rw [State.thread_progress, State.thread_advance_other _ _ _ _ hn, State.thread_congr hthreads,
      State.thread_modThreads_other _ _ _ _ _ _ (fun u hu => hn u (State.lanes_sub hu)), State.thread_congr ht]

/-- A range of memory put over with zeros. -/
theorem memGet_zeroed (m : List Host.Cell) (a k : Nat) :
    memGet (memPut m a (List.replicate 1024 0)) k = if a ≤ k ∧ k < a + 1024 then 0 else memGet m k := by
  rw [memGet_memPut, List.length_replicate]
  split
  · exact listGet_of_forall (p := (· = 0)) rfl (fun x hx => List.eq_of_mem_replicate hx) _
  · rfl

/-- Pages put over with zeros. -/
theorem memGet_foldl_zeroed (l : List SttEntry) (m : List Host.Cell) (k : Nat) :
    ((∃ x ∈ l, spadKey x.wg (x.page * 1024) ≤ k ∧ k < spadKey x.wg (x.page * 1024) + 1024) →
      memGet (l.foldl (fun m x => memPut m (spadKey x.wg (x.page * 1024)) (List.replicate 1024 0)) m) k = 0) ∧
    ((∀ x ∈ l, ¬(spadKey x.wg (x.page * 1024) ≤ k ∧ k < spadKey x.wg (x.page * 1024) + 1024)) →
      memGet (l.foldl (fun m x => memPut m (spadKey x.wg (x.page * 1024)) (List.replicate 1024 0)) m) k = memGet m k) := by
  induction l generalizing m with
  | nil => exact ⟨fun ⟨_, hx, _⟩ => absurd hx List.not_mem_nil, fun _ => rfl⟩
  | cons y l ih =>
    obtain ⟨hin, hout⟩ := ih (memPut m (spadKey y.wg (y.page * 1024)) (List.replicate 1024 0))
    rw [List.foldl_cons]
    refine ⟨fun ⟨x, hx, hk⟩ => ?_, fun h => ?_⟩
    · by_cases hl : ∃ x ∈ l, spadKey x.wg (x.page * 1024) ≤ k ∧ k < spadKey x.wg (x.page * 1024) + 1024
      · exact hin hl
      · have hy : x = y := (List.mem_cons.1 hx).resolve_right (fun hx => hl ⟨x, hx, hk⟩)
        subst hy
        rw [hout (fun z hz hzk => hl ⟨z, hz, hzk⟩), memGet_zeroed, if_pos hk]
    · rw [hout (fun x hx => h x (List.mem_cons_of_mem _ hx)), memGet_zeroed, if_neg (h y List.mem_cons_self)]

/-! Pages are written back. -/

/-- Pages evicted one after another. -/
def State.evicts (s : State) (l : List SttEntry) : Option State := l.foldl (fun r x => r.bind (fun s => s.evict x)) (some s)

theorem State.evicts_cons {s t : State} {x : SttEntry} (h : s.evict x = some t) (l : List SttEntry) : s.evicts (x :: l) = t.evicts l := by
  unfold State.evicts
  rw [List.foldl_cons, Option.bind_some, h]

/-- A page that is written into memory lies nowhere in the host's. -/
theorem not_host_of_device {k j : Nat} (h : isDevice k = true) (hj : j < k + 1024) : isHost j = false := by
  have hk : k < 2 ^ 43 := by simpa only [isDevice, decide_eq_true_eq] using h
  have : j < keyHost := by
    unfold keyHost
    omega
  simp [isHost, this]

theorem State.evict_clean {s : State} {x : SttEntry} (hd : x.dirty = false) :
    s.evict x = some (s.modStt x.wg x.page (fun y => { y with present := false })) := by
  unfold State.evict
  simp only [hd, Bool.not_false, if_true]

theorem State.evict_dirty {s : State} {x : SttEntry} {k : Nat} (hd : x.dirty = true) (hb : x.backed = true)
    (hk : s.backKey (s.worldOfWg x.wg) x.bline = some k) :
    s.evict x = some ((s.homePut k (memBytes s.mem (spadKey x.wg (x.page * 1024)) 1024)).modStt x.wg x.page
      (fun y => { y with present := false, dirty := false, backed := true, bline := x.bline })) := by
  unfold State.evict
  simp only [hd, hb, hk, Bool.not_true, Bool.false_eq_true, if_false, if_true, Option.bind_some, Option.map_some]

/-- A page that is written into device memory. -/
theorem memGet_written {s : State} {k j wg page : Nat} {bs : List Byte} {f : SttEntry → SttEntry} (hdev : isDevice k = true)
    (hlen : bs.length = 1024) (hj : j < 1024) : memGet ((s.homePut k bs).modStt wg page f).mem (k + j) = listGet 0 bs j := by
  have hput := s.homePut_mem_of_not_host k bs (fun i _ hi => not_host_of_device hdev (by rwa [hlen] at hi))
  refine (congrArg (memGet · (k + j)) hput).trans ?_
  rw [memGet_memPut, if_pos ⟨Nat.le_add_right .., by omega⟩, Nat.add_sub_cancel_left]

theorem evict_moves {s : State} {x : SttEntry} {k : Nat} (hd : x.dirty = true) (hb : x.backed = true)
    (hk : s.backKey (s.worldOfWg x.wg) x.bline = some k) (hdev : isDevice k = true) :
    ∃ t, s.evict x = some t ∧ ∀ j, j < 1024 → memGet t.mem (k + j) = memGet s.mem (spadKey x.wg (x.page * 1024) + j) :=
  ⟨_, State.evict_dirty hd hb hk, fun _ hj => (memGet_written hdev (memBytes_length ..) hj).trans (listGet_memBytes _ _ _ hj)⟩

/-- What an eviction leaves of the entries: those of the page are out, and each other is as before. -/
theorem State.evict_stt {s t : State} {x : SttEntry} (h : s.evict x = some t) {y : SttEntry} (hy : y ∈ t.stt) :
    ∃ z ∈ s.stt, y.core = z.core ∧ y.wslot = z.wslot ∧ (y.present = true → y = z ∧ ¬(z.wg = x.wg ∧ z.page = x.page)) := by
  have hmap (u : State) (hu : u.stt = s.stt) (f : SttEntry → SttEntry) (hf : ∀ z, (f z).core = z.core ∧ (f z).wslot = z.wslot ∧ (f z).present = false)
      (hy : y ∈ (u.modStt x.wg x.page f).stt) :
      ∃ z ∈ s.stt, y.core = z.core ∧ y.wslot = z.wslot ∧ (y.present = true → y = z ∧ ¬(z.wg = x.wg ∧ z.page = x.page)) := by
    obtain ⟨z, hz, rfl⟩ := List.mem_map.1 hy
    refine ⟨z, hu ▸ hz, ?_⟩
    obtain ⟨hcore, hslot, hp⟩ := hf z
    split
    · exact ⟨hcore, hslot, fun hc => absurd (hc.symm.trans hp) Bool.noConfusion⟩
    next hne => exact ⟨rfl, rfl, fun _ => ⟨rfl, fun ⟨hw, hpg⟩ => hne (by simp [hw, hpg])⟩⟩
  unfold State.evict at h
  dsimp only at h
  split at h
  · obtain rfl := Option.some.inj h
    exact hmap s rfl (fun y => { y with present := false }) (fun _ => ⟨rfl, rfl, rfl⟩) hy
  · split at h
    · cases h
    next n k _ =>
      obtain rfl := Option.some.inj h
      obtain ⟨mem, llcDirty, iod, hp⟩ := s.homePut_eq k (memBytes s.mem (spadKey x.wg (x.page * 1024)) 1024)
      exact hmap (s.homePut k (memBytes s.mem (spadKey x.wg (x.page * 1024)) 1024)) (by rw [hp])
        (fun y => { y with present := false, dirty := false, backed := true, bline := n }) (fun _ => ⟨rfl, rfl, rfl⟩) hy

/-- Pages whose lines are there, or that were not written, are all evicted; no entry of theirs is present then. -/
theorem State.evicts_spec {l : List SttEntry} {s : State}
    (h : ∀ x ∈ l, x.dirty = true → x.backed = true ∧ s.backKey (s.worldOfWg x.wg) x.bline ≠ none) :
    ∃ t, s.evicts l = some t ∧ Paged s t ∧ ∀ y ∈ t.stt, ∃ z ∈ s.stt, y.core = z.core ∧ y.wslot = z.wslot ∧
      (y.present = true → y = z ∧ ∀ x ∈ l, ¬(z.wg = x.wg ∧ z.page = x.page)) := by
  induction l generalizing s with
  | nil => exact ⟨s, rfl, .refl s, fun y hy => ⟨y, hy, rfl, rfl, fun _ => ⟨rfl, fun _ hx => absurd hx List.not_mem_nil⟩⟩⟩
  | cons x l ih =>
    have hone : ∃ u, s.evict x = some u := by
      cases hd : x.dirty with
      | false => exact ⟨_, State.evict_clean hd⟩
      | true =>
        obtain ⟨hb, hk⟩ := h x List.mem_cons_self hd
        obtain ⟨k, hk⟩ := Option.ne_none_iff_exists'.1 hk
        exact ⟨_, State.evict_dirty hd hb hk⟩
    obtain ⟨u, hu⟩ := hone
    have hpu := State.evict_paged hu
    have hrest : ∀ x ∈ l, x.dirty = true → x.backed = true ∧ u.backKey (u.worldOfWg x.wg) x.bline ≠ none := by
      obtain ⟨⟨mem, llcDirty, iod, stt, rfl⟩, -⟩ := hpu
      exact fun x hx => h x (List.mem_cons_of_mem _ hx)
    obtain ⟨t, ht, hput, hall⟩ := ih hrest
    refine ⟨t, (State.evicts_cons hu l).trans ht, hpu.trans hput, fun y hy => ?_⟩
    obtain ⟨z, hz, hcore, hslot, hpres⟩ := hall y hy
    obtain ⟨z', hz', hcore', hslot', hpres'⟩ := State.evict_stt hu hz
    refine ⟨z', hz', hcore.trans hcore', hslot.trans hslot', fun hp => ?_⟩
    obtain ⟨rfl, hl⟩ := hpres hp
    obtain ⟨rfl, hx⟩ := hpres' hp
    refine ⟨rfl, fun x' hx' => ?_⟩
    rcases List.mem_cons.1 hx' with rfl | hx'
    · exact hx
    · exact hl x' hx'

section
variable {s : State} {e : Env} {g : Guard} {f : FY} (l : s.someLane e g) (hrel : ∀ n ∈ s.lanes e g, s.released e.w.id n 3 = true)
include l hrel

theorem tlbinv_leads (h : Issuable s e g (.tlbinv g f)) (ha : f.prn = 0 → e.pair f.sa % 65536 = 0) :
    Out.Leads (exec (.tlbinv g f) s) (fun t => SameMemory s t ∧ Settles s t e g ∧ ∀ x, x ∈ t.tlb ↔ x ∈ s.tlb ∧ tlbHit e f x = false) := by
  have hal : (f.prn == 0 && e.pair f.sa % 65536 != 0) = false := by
    by_cases hp : f.prn = 0
    · rw [ha hp]
      exact Bool.and_false _
    · rw [beq_eq_false_iff_ne.2 hp, Bool.false_and]
  have hexec : exec (.tlbinv g f) s = State.done (({ s with tlb := s.tlb.filter (fun t => !tlbHit e f t) }).addSettle e (s.lanes e g)
      (s.usersOf (s.tlb.filter (tlbHit e f)))) e := by
    refine (h.sysOp l rfl _).trans ?_
    simp only [hal, State.releasedAll_of hrel, Bool.not_true, Bool.false_eq_true, if_false]
  have hleads := addSettle_leads (s := s) (v := { s with tlb := s.tlb.filter (fun t => !tlbHit e f t) }) (e := e) (g := g) rfl rfl
    (s.usersOf (s.tlb.filter (tlbHit e f)))
  rw [hexec]
  refine hleads.imp (fun t ⟨hs, hmem, hiod, htlb, _⟩ => ⟨sameMemory_iod hmem hiod, hs, fun x => ?_⟩)
  rw [htlb, List.mem_filter, Bool.not_eq_true']

theorem sttinv_discards (h : Issuable s e g (.sttinv g f)) (hcore : sttCore e f ≤ 799) (hbusy : s.slotBusy (sttCore e f) (sttSlot e f) = false)
    (hp : f.prn = 1) : Out.Leads (exec (.sttinv g f) s) (fun t => Settles s t e g ∧
      t.mem = (s.discardPages (sttCore e f) (sttSlot e f)).mem ∧ t.stt = (s.discardPages (sttCore e f) (sttSlot e f)).stt) := by
  have hill : (decide (799 < sttCore e f) || s.slotBusy (sttCore e f) (sttSlot e f)) = false := by
    rw [hbusy, Bool.or_false, decide_eq_false_iff_not, not_lt]
    exact hcore
  have hexec : exec (.sttinv g f) s = State.done ((s.discardPages (sttCore e f) (sttSlot e f)).addSettle e (s.lanes e g) []) e := by
    refine (h.sysOp l hill _).trans ?_
    simp only [State.releasedAll_of hrel, hp, BEq.rfl, Bool.not_true, Bool.false_eq_true, if_false, if_true]
  have hleads := addSettle_leads (s := s) (v := s.discardPages (sttCore e f) (sttSlot e f)) (e := e) (g := g) rfl rfl []
  rw [hexec]
  exact hleads.imp (fun t ⟨hs, hmem, _, _, hstt⟩ => ⟨hs, hmem, hstt⟩)

/-- Pages of a slot that are written back. -/
def State.presentPages (s : State) (core slot : Nat) : List SttEntry := s.stt.filter (fun x => x.core == core && x.wslot == slot && x.present)

theorem sttinv_writesBack (h : Issuable s e g (.sttinv g f)) (hcore : sttCore e f ≤ 799) (hbusy : s.slotBusy (sttCore e f) (sttSlot e f) = false)
    (hp : f.prn ≠ 1) {v : State} (hv : s.evicts (s.presentPages (sttCore e f) (sttSlot e f)) = some v) (hpaged : Paged s v) :
    Out.Leads (exec (.sttinv g f) s) (fun t => Settles s t e g ∧ SameMemory v t ∧ t.stt = v.stt) := by
  have hill : (decide (799 < sttCore e f) || s.slotBusy (sttCore e f) (sttSlot e f)) = false := by
    rw [hbusy, Bool.or_false, decide_eq_false_iff_not, not_lt]
    exact hcore
  have hexec : exec (.sttinv g f) s = State.done (v.addSettle e (s.lanes e g) []) e := by
    refine (h.sysOp l hill _).trans ?_
    simp only [State.releasedAll_of hrel, beq_eq_false_iff_ne.2 hp, Bool.not_true, Bool.false_eq_true, if_false]
    exact congrArg (fun r : Option State => match r with
      | none => Host.Outcome.next (s.hold e)
      | some s' => State.done (s'.addSettle e (s.lanes e g) []) e) hv
  obtain ⟨⟨mem, llcDirty, iod, stt, rfl⟩, -⟩ := hpaged
  have hleads := addSettle_leads (s := s) (v := { s with mem, llcDirty, iod, stt }) (e := e) (g := g) rfl rfl []
  rw [hexec]
  exact hleads.imp (fun t ⟨hs, hmem, hiod, _, hstt⟩ => ⟨hs, sameMemory_iod hmem hiod, hstt⟩)

end

end Sys2Proof.Machine

namespace Sys2Proof

open Sys2Proof.Machine

/-- Settles O45: a page that comes in takes its bytes from its line and the pager's own lines alone differ (`pageIn_spec`, `Paged`); a fault
queue that goes on keeps where threads stand (`Standing`); and a system instruction that may issue is its body (`Issuable.sysOp`), an operation
that counts behind what used the entries that are gone. -/
theorem pagesAndTranslations : Obligations.PagesAndTranslations := by
  unfold Obligations.PagesAndTranslations
  refine ⟨⟨?pageIn, ?closed, ?head⟩, ?invalidations⟩
  case pageIn =>
    intro s p wg page n x w g hx hw hg hst hp hroom
    obtain ⟨hxw, hxp⟩ : x.wg = wg ∧ x.page = page := by simpa using List.find?_some hx
    subst hxw hxp
    have hsome := State.makeRoom_stt? hroom (Option.isSome_iff_exists.2 ⟨x, hx⟩)
    obtain ⟨hthreads, hmem, y, hy, hpres, hframe, hused⟩ := pageIn_spec hsome n
    have hback := (State.makeRoom_paged hroom).2
    obtain ⟨mem, llcDirty, iod, stt, rfl⟩ := (State.makeRoom_paged hroom).1
    refine ⟨_, pageIn_next hx hw hg hst hp hroom, hthreads, ⟨y, hy, hpres, hframe, hused⟩, fun k hb hk j hj => ?_, fun k hpage hline => ?_⟩
    · refine (congrArg (memGet · _) hmem).trans ?_
      have hk' : State.backKey { s with mem, llcDirty, iod, stt } (State.worldOfWg { s with mem, llcDirty, iod, stt } x.wg) x.bline = some k := hk
      rw [State.pageBytes_of_backed hb hk', spadKey_page _ _ hj, memGet_memPut, memBytes_length, if_pos ⟨Nat.le_add_right .., by omega⟩,
        Nat.add_sub_cancel_left]
      exact listGet_memBytes _ _ _ hj
    · refine (congrArg (memGet · k) hmem).trans ?_
      rw [memGet_memPut, State.pageBytes_length, if_neg]
      · exact (hback k hline).2
      · intro ⟨hle, hlt⟩
        refine hpage (k - spadKey x.wg (x.page * 1024)) (by omega) ?_
        rw [spadKey_page _ _ (by omega)]
        omega
  case closed =>
    intro s world index w k hpow hw hk hpost hin
    refine ⟨_, fqclose_next hpow hw hk hpost hin, ?_⟩
    by_cases hbit : memNat s.mem k 32 / 2 ^ 13 % 2 = 1
    · obtain ⟨mem, llcDirty, iod, hp⟩ := s.homePut_eq k (natLe 32 (memNat s.mem k 32 - 2 ^ 13))
      have hmem := s.homePut_mem_of_not_host k (natLe 32 (memNat s.mem k 32 - 2 ^ 13))
        (fun j _ hj => World.not_host_of_fqSlot hk (by rwa [natLe_length] at hj))
      rw [if_pos (beq_iff_eq.2 hbit), if_pos hbit]
      refine ⟨by rw [hp]; rfl, by rw [hp]; rfl, fun j hj => ?_, ?_⟩
      · refine (congrArg (memGet · j) hmem).trans ?_
        rw [memGet_memPut, natLe_length, if_neg hj]
      · refine (congrArg (memNat · k 32) hmem).trans ?_
        rw [memNat_memPut_natLe, Nat.mod_eq_of_lt]
        exact lt_of_le_of_lt (Nat.sub_le ..) (memNat_lt_pow ..)
    · rw [if_neg (fun hc => hbit (beq_iff_eq.1 hc)), if_neg hbit]
      exact ⟨rfl, rfl, fun _ _ => rfl, rfl⟩
  case head =>
    intro s world v w hpow hw hpost
    obtain ⟨hpc, hhead⟩ := consume_standing (v := v) hw
    exact ⟨_, fqhead_next hw hpow hpost, hpc, fun h => consume_threads hw h, hhead, fun hempty h => consume_of_empty hw hempty h⟩
  case invalidations =>
    intro g f s e l hrel
    refine ⟨fun h ha => tlbinv_leads l hrel h ha, fun h hcore hbusy => ⟨fun hp => ?_, fun hp hback => ?_⟩, fun x k hd hb hk hdev => evict_moves hd hb hk hdev⟩
    · refine (sttinv_discards l hrel h hcore hbusy hp).imp (fun t ⟨hs, hmem, hstt⟩ => ⟨hs, fun x => ?_, fun x hx hm j hj => ?_, fun k hk => ?_⟩)
      · rw [hstt]
        show x ∈ s.stt.filter _ ↔ _
        rw [List.mem_filter]
        simp only [Bool.not_eq_true', Bool.and_eq_false_imp, beq_iff_eq, beq_eq_false_iff_ne, not_and, ne_eq]
      · rw [hmem]
        refine (memGet_foldl_zeroed _ _ _).1 ⟨x, List.mem_filter.2 ⟨hx, ?_⟩, by omega, by omega⟩
        simp [hm]
      · rw [hmem]
        refine (memGet_foldl_zeroed _ _ _).2 (fun x hx => hk x (List.mem_filter.1 hx).1 ?_)
        simpa using (List.mem_filter.1 hx).2
    · obtain ⟨v, hv, hpaged, hall⟩ := State.evicts_spec (s := s) (l := s.presentPages (sttCore e f) (sttSlot e f)) (fun x hx hd => by
        obtain ⟨hx, hm⟩ := List.mem_filter.1 hx
        simp only [Bool.and_eq_true, beq_iff_eq] at hm
        exact hback x hx hm.1 hm.2 hd)
      refine (sttinv_writesBack l hrel h hcore hbusy hp hv hpaged).imp (fun t ⟨hs, hsame, hstt⟩ => ⟨fun k hk => ?_, hs, fun y hy hm => ?_⟩)
      · obtain ⟨hhome, hget⟩ := hpaged.2 k hk
        exact ⟨(hsame.2 k).trans hhome, (hsame.1 k).trans hget⟩
      · rw [hstt] at hy
        obtain ⟨z, hz, hcore', hslot, hpres⟩ := hall y hy
        by_contra hp'
        obtain ⟨rfl, hno⟩ := hpres (by simpa using hp')
        refine hno y (List.mem_filter.2 ⟨hz, ?_⟩) ⟨rfl, rfl⟩
        simp [hm.1, hm.2, Bool.eq_true_of_not_eq_false hp']

end Sys2Proof
end

section
/-! Witness records (spec 15, R351, R352). -/

namespace Sys2Proof.Machine

theorem Workgroup.setS_other (w : Workgroup) (h : Nat) (r : BitVec 9) (x : Word) :
    (w.setS h r x).recs = w.recs ∧ (w.setS h r x).acc = w.acc := by
  unfold Workgroup.setS
  split
  · exact ⟨rfl, rfl⟩
  · exact ⟨rfl, rfl⟩

theorem Workgroup.setSs_other (w : Workgroup) (hs : List Nat) (r : BitVec 9) (x : Word) :
    (w.setSs hs r x).recs = w.recs ∧ (w.setSs hs r x).acc = w.acc := by
  induction hs generalizing w with
  | nil => exact ⟨rfl, rfl⟩
  | cons k hs ih =>
    obtain ⟨hrecs, hacc⟩ := ih (w.setS k r x)
    exact ⟨hrecs.trans (w.setS_other k r x).1, hacc.trans (w.setS_other k r x).2⟩

/-- A workgroup with one of its records set. -/
def Workgroup.withRec (w : Workgroup) (slot : Nat) (r : Option WitRec) : Workgroup := { w with recs := listPut none w.recs slot r }

theorem State.wg?_setRec {s : State} {w : Workgroup} {id : Nat} (h : s.wg? id = some w) (slot : Nat) (r : Option WitRec) :
    (s.setRec id slot r).wg? id = some (w.withRec slot r) := by
  refine (s.wg?_modWg id id (fun w => w.withRec slot r) (fun _ => rfl)).trans ?_
  rw [if_pos rfl, h]
  rfl

/-- A record's parts with one named, in place of an earlier one of its role. -/
theorem WitRec.part?_named (r : WitRec) (p : WitPart) (n : Nat) :
    WitRec.part? { r with parts := r.parts.filter (fun x => x.role != p.role) ++ [p] } n = if n = p.role then some p else r.part? n := by
  unfold WitRec.part?
  dsimp only
  rw [List.find?_append]
  by_cases hn : n = p.role
  · have hnone : (r.parts.filter (fun x => x.role != p.role)).find? (fun x => x.role == n) = none := by
      refine List.find?_eq_none.2 (fun x hx => ?_)
      rw [hn]
      simpa using (List.mem_filter.1 hx).2
    rw [hnone, if_pos hn, hn]
    simp
  · have hlast : [p].find? (fun x => x.role == n) = none := by simp [Ne.symm hn]
    rw [hlast, if_neg hn, Option.or_none, List.find?_filter]
    congr 1
    funext x
    by_cases hx : x.role = n
    · simp [hx, hn]
    · simp [hx]

/-! What each instruction does. -/

section
variable {s : State} {e : Env} {g : Guard} {f : FMC}

/-- The record that `witb` opens. -/
def State.opening (s : State) (e : Env) (f : FMC) : WitRec := witNew e f (verNum e.l (s.thread e.w.id e.g.leader).sub)

theorem Issuable.witb (h : Issuable s e g (.witb g f)) (l : s.someLane e g) : exec (.witb g f) s =
    if (e.w.rec? (witSlot f)).isSome || ((s.opening e f).hasStep (e.l.slot (s.opening e f).slotA) &&
        !(s.opening e f).shapeOk (e.l.slot (s.opening e f).slotA)) then .next (s.takeTrap e { code := 0x01 })
    else if !(s.opening e f).slotsOk (e.l.slot (s.opening e f).slotA) (e.l.slot (s.opening e f).slotB) then .next (s.takeTrap e { code := 0x10 })
    else (s.setRec e.w.id (witSlot f) (some (s.opening e f))).done e := by
  show execWitb g f s = _
  unfold execWitb
  rw [h.groupOp l]
  rfl

theorem Issuable.witp_none (h : Issuable s e g (.witp g f)) (l : s.someLane e g) (hr : e.w.rec? (witSlot f) = none) :
    exec (.witp g f) s = .next (s.takeTrap e { code := 0x01 }) := by
  show execWitp g f s = _
  unfold execWitp
  rw [h.groupOp l]
  simp only [hr]

/-- The part that `witp` names. -/
def Env.part (e : Env) (f : FMC) : WitPart := ⟨f.cl.toNat % 16, BitVec.ofNat 56 (e.pair f.f1 % 2 ^ 56), e.s f.f2⟩

theorem Issuable.witp (h : Issuable s e g (.witp g f)) (l : s.someLane e g) {r : WitRec} (hr : e.w.rec? (witSlot f) = some r) :
    exec (.witp g f) s = if !roleFits r.kind (f.cl.toNat % 16) then .next (s.takeTrap e { code := 0x01 })
      else if e.pair f.f1 % 2 ^ 56 % 4 != 0 then .next (s.takeTrap e { code := 0x24, daddr := e.pair f.f1 % 2 ^ 56 })
      else (s.setRec e.w.id (witSlot f) (some { r with
        parts := r.parts.filter (fun x => x.role != (e.part f).role) ++ [e.part f] })).done e := by
  show execWitp g f s = _
  unfold execWitp
  rw [h.groupOp l]
  simp only [hr]
  rfl

theorem Issuable.wite_none (h : Issuable s e g (.wite g f)) (l : s.someLane e g) (hr : e.w.rec? (witSlot f) = none) :
    exec (.wite g f) s = .next (s.takeTrap e { code := 0x01 }) := by
  show execWite g f s = _
  unfold execWite
  rw [h.groupOp l]
  simp only [hr]

/-- The state in which a record has been submitted, before the group moves on. -/
def State.recSubmitted (s : State) (e : Env) (f : FMC) (r : WitRec) : State :=
  let u := (s.submitRec e (witSlot f) r (s.freeTicket e.l.world)).setRec e.w.id (witSlot f) none
  State.setS { u with draws := u.draws + 1 } e f.f1 (s.freeTicket e.l.world)

theorem Issuable.wite_missing (h : Issuable s e g (.wite g f)) (l : s.someLane e g) {r : WitRec} (hr : e.w.rec? (witSlot f) = some r)
    (hn : ∃ n ∈ r.needs (e.l.slot r.slotA) (e.l.slot r.slotB), r.part? n = none) :
    exec (.wite g f) s = .next (s.takeTrap e { code := 0x01 }) := by
  have hall : (r.needs (e.l.slot r.slotA) (e.l.slot r.slotB)).all (fun n => (r.part? n).isSome) = false := by
    obtain ⟨n, hn, hp⟩ := hn
    exact List.all_eq_false.2 ⟨n, hn, by simp [hp]⟩
  show execWite g f s = _
  unfold execWite
  rw [h.groupOp l]
  simp only [hr, hall, Bool.not_false, if_true]

theorem Issuable.wite (h : Issuable s e g (.wite g f)) (l : s.someLane e g) {r : WitRec} (hr : e.w.rec? (witSlot f) = some r)
    (hn : ∀ n ∈ r.needs (e.l.slot r.slotA) (e.l.slot r.slotB), r.part? n ≠ none) (hrel : ∀ n ∈ s.lanes e g, s.released e.w.id n 3 = true)
    (hroom : (s.checker.subs.filter (fun x => x.world == e.l.world)).length < 4096) :
    exec (.wite g f) s = (s.recSubmitted e f r).done e := by
  have hall : (r.needs (e.l.slot r.slotA) (e.l.slot r.slotB)).all (fun n => (r.part? n).isSome) = true :=
    List.all_eq_true.2 (fun n hm => Option.isSome_iff_ne_none.2 (hn n hm))
  have hgo : (!(s.lanes e g).all (fun t => s.released e.w.id t 3) ||
      decide (4096 ≤ (s.checker.subs.filter (fun x => x.world == e.l.world)).length)) = false := by
    rw [List.all_eq_true.2 hrel, decide_eq_false (Nat.not_le.2 hroom)]
    rfl
  show execWite g f s = _
  unfold execWite
  rw [h.groupOp l]
  simp only [hr, hall, hgo, Bool.not_true, Bool.false_eq_true, if_false]
  rfl

theorem State.submitRec_only (s : State) (e : Env) (slot : Nat) (r : WitRec) (ticket : Word) : ∃ nextId checker,
    s.submitRec e slot r ticket = { s with nextId, checker } ∧ (e.l.shadowOf = none →
      checker.subs = s.checker.subs ++ [⟨s.nextId, e.l.world, e.l.id, slot, ticket, r, none⟩]) := by
  unfold State.submitRec
  split
  next hs =>
    refine ⟨s.nextId, s.checker, rfl, fun hn => ?_⟩
    rw [hn] at hs
    cases hs
  · exact ⟨_, _, rfl, fun _ => rfl⟩

theorem State.freeTicket_free {s : State} {world : Nat} (hroom : (s.checker.subs.filter (fun x => x.world == world)).length < 4096) :
    ∀ x ∈ s.checker.subs, x.world = world → x.ticket ≠ s.freeTicket world := by
  intro x hx hw ht
  refine freeOf_not_mem (used := (s.checker.subs.filter (fun r => r.world == world)).map (·.ticket)) (Config.ticket s.draws) ?_ ?_
  · rw [List.length_map]
    omega
  · exact List.mem_map.2 ⟨x, List.mem_filter.2 ⟨hx, beq_iff_eq.2 hw⟩, ht⟩

/-- The state in which `gver` has set the sub-index of its lanes and answered the version. -/
def State.subIndexed (s : State) (e : Env) (g : Guard) (f : FMC) : State :=
  (s.modThreads e.w.id (s.lanes e g) (fun t => { t with sub := (e.s f.f1).setWidth 8 })).setS e f.f2 (verNum e.l ((e.s f.f1).setWidth 8))

theorem Issuable.gver (h : Issuable s e g (.gver g f)) (l : s.someLane e g) : exec (.gver g f) s =
    if (e.s f.f1).extractLsb' 8 24 != 0 then .next (s.takeTrap e { code := 0x01 }) else (s.subIndexed e g f).done e := by
  show execGver g f s = _
  unfold execGver
  rw [h.issue]
  have hl : (s.lanes e g).isEmpty = false := by simpa using l
  simp only [hl, Bool.false_eq_true, if_false]
  rfl

/-- A word has bits above its low eight exactly where it is 256 or more. -/
theorem extract_high (x : Word) : (x.extractLsb' 8 24 != 0) = decide (256 ≤ x.toNat) := by
  have hx := x.isLt
  have hv : (x.extractLsb' 8 24).toNat = x.toNat / 256 := by
    rw [BitVec.extractLsb'_toNat, Nat.shiftRight_eq_div_pow, Nat.mod_eq_of_lt (by norm_num only at *; omega)]
  rw [Bool.eq_iff_iff, bne_iff_ne, decide_eq_true_eq, ne_eq, ← BitVec.toNat_inj, hv, show (0 : BitVec 24).toNat = 0 from rfl]
  omega

/-- What the setting of a record of the issuing workgroup leaves, before and after the group moves on. -/
theorem keeps_record {u : State} {slot : Nat} {r : Option WitRec} {w : Workgroup} (hmem : SameMemory s u)
    (hf : u.flights = s.flights) (ht : u.threads = s.threads) (hw : u.wg? e.w.id = some w) (hrecs : w.recs = listPut none e.w.recs slot r)
    (hacc : w.acc = e.w.acc) : SameMemory s (u.advance e).progress ∧ (u.advance e).progress.flights = s.flights ∧
      ThreadsBecome s (u.advance e).progress e (fun _ x => x.next) ∧ ∃ w, (u.advance e).progress.wg? e.w.id = some w ∧ w.rec? slot = r ∧
        (∀ n, n ≠ slot → w.rec? n = e.w.rec? n) ∧ w.acc = e.w.acc := by
  have hrec (n : Nat) : w.rec? n = if n = slot then r else e.w.rec? n := by
    unfold Workgroup.rec?
    rw [hrecs]
    exact listGet_listPut ..
  refine ⟨hmem.trans (sameMemory_iod (State.modThreads_mem ..) (State.modThreads_iod ..)), (State.modThreads_flights ..).trans hf,
    threadsBecome_next ht, w, (State.wg?_congr (State.modThreads_wgs ..) _).trans hw, (hrec slot).trans (if_pos rfl),
    fun n hn => (hrec n).trans (if_neg hn), hacc⟩

end

end Sys2Proof.Machine

namespace Sys2Proof

open Sys2Proof.Machine

/-- Settles O46: each of the four instructions by its conditions in order, and the record, ticket or sub-index that it sets. -/
theorem witnessRecords : Obligations.WitnessRecords := by
  unfold Obligations.WitnessRecords
  intro keeps g f s e l slot
  refine ⟨?witb, ?witp, ?wite, ?gver⟩
  case witb =>
    intro h r a b
    have hexec := h.witb l
    change _ = if (e.w.rec? slot).isSome || (r.hasStep a && !r.shapeOk a) then _ else if !r.slotsOk a b then _ else _ at hexec
    refine ⟨fun hill => ?_, fun hopen hbad => ?_, fun hopen hshape hslots => ?_⟩
    · refine hexec.trans (if_pos ?_)
      rcases hill with hopen | ⟨hstep, hshape⟩
      · rw [Option.isSome_iff_ne_none.2 hopen, Bool.true_or]
      · rw [hstep, hshape, Bool.not_false, Bool.and_self, Bool.or_true]
    · have hslots : r.slotsOk a b = false := by
        rcases hbad with hstep | ⟨-, hslots⟩
        · have hkind : (r.kind != 0) = false := (Bool.or_eq_false_iff.1 hstep).1
          unfold WitRec.slotsOk
          rw [hkind, hstep]
          rfl
        · exact hslots
      have hno : ((e.w.rec? slot).isSome || (r.hasStep a && !r.shapeOk a)) = false := by
        rw [hopen, Option.isSome_none, Bool.false_or]
        rcases hbad with hstep | ⟨hshape, -⟩
        · rw [hstep, Bool.false_and]
        · rw [hshape, Bool.not_true, Bool.and_false]
      rw [hexec, hno, if_neg Bool.false_ne_true, hslots]
      rfl
    · have hno : ((e.w.rec? slot).isSome || (r.hasStep a && !r.shapeOk a)) = false := by
        rw [hopen, Option.isSome_none, Bool.false_or, hshape, Bool.not_true, Bool.and_false]
      rw [hexec, hno, if_neg Bool.false_ne_true, hslots, Bool.not_true, if_neg Bool.false_ne_true]
      have hw := State.wg?_setRec (State.wg?_of_issuer h.issuer) slot (some r)
      refine ⟨_, rfl, keeps_record (sameMemory_of rfl rfl) rfl rfl hw rfl rfl, fun w hw' => ?_⟩
      obtain rfl := Option.some.inj (hw'.symm.trans ((State.wg?_congr (State.modThreads_wgs ..) _).trans hw))
      rfl
  case witp =>
    intro h role va
    refine ⟨h.witp_none l, fun r hr => ?_⟩
    have hexec := h.witp l hr
    change _ = if !roleFits r.kind role then _ else if va % 4 != 0 then _ else _ at hexec
    refine ⟨fun hrole => ?_, fun hrole hva => ?_, fun hrole hva => ?_⟩
    · rw [hexec, hrole]
      rfl
    · rw [hexec, hrole, Bool.not_true, if_neg Bool.false_ne_true, if_pos (bne_iff_ne.2 hva)]
    · rw [hexec, hrole, Bool.not_true, if_neg Bool.false_ne_true, if_neg (by simp [hva])]
      have hpart := r.part?_named (e.part f)
      refine ⟨_, rfl, _, keeps_record (sameMemory_of rfl rfl) rfl rfl (State.wg?_setRec (State.wg?_of_issuer h.issuer) slot _) rfl rfl,
        (hpart role).trans (if_pos rfl), fun n hn => (hpart n).trans (if_neg hn), rfl, rfl, rfl, rfl, rfl, rfl, rfl⟩
  case wite =>
    intro h
    refine ⟨h.wite_none l, fun r hr => ⟨h.wite_missing l hr, fun hn hrel hroom => ?_⟩⟩
    obtain ⟨nextId, checker, hsub, hsubs⟩ := s.submitRec_only e slot r (s.freeTicket e.l.world)
    have hw : (s.recSubmitted e f r).wg? e.w.id = some ((e.w.withRec slot none).setSs e.g.hgrps f.f1 (s.freeTicket e.l.world)) := by
      refine (State.wg?_setS ..).trans ?_
      rw [if_pos rfl]
      refine congrArg (Option.map _) (State.wg?_setRec (s := s.submitRec e slot r (s.freeTicket e.l.world)) ?_ slot none)
      rw [hsub]
      exact State.wg?_of_issuer h.issuer
    obtain ⟨hrecs, hacc⟩ := (e.w.withRec slot none).setSs_other e.g.hgrps f.f1 (s.freeTicket e.l.world)
    have hu : ∃ wgs draws, s.recSubmitted e f r = { s with nextId, checker, wgs, draws } := by
      unfold State.recSubmitted
      rw [hsub]
      exact ⟨_, _, rfl⟩
    obtain ⟨wgs, draws, hu⟩ := hu
    rw [h.wite l hr hn hrel hroom]
    refine ⟨_, rfl, keeps_record (by rw [hu]; exact sameMemory_of rfl rfl) (by rw [hu]) (by rw [hu]) hw hrecs hacc,
      s.freeTicket e.l.world, State.freeTicket_free hroom, fun w hw' k q => ?_, fun hs => ⟨⟨s.nextId, e.l.world, e.l.id, slot, s.freeTicket e.l.world, r, none⟩, ?_, rfl, rfl, rfl, rfl⟩⟩
    · obtain rfl := Option.some.inj (hw'.symm.trans ((State.wg?_congr (State.modThreads_wgs ..) _).trans hw))
      exact Workgroup.s_setSs ..
    · refine (congrArg Checker.subs (State.modThreads_checker ..)).trans ?_
      rw [hu]
      exact hsubs hs
  case gver =>
    intro h sub
    have hexec := h.gver l
    rw [extract_high] at hexec
    refine ⟨fun hbig => ?_, fun hsmall => ?_⟩
    · exact hexec.trans (if_pos (decide_eq_true hbig))
    · rw [hexec, if_neg (by simpa using hsmall)]
      refine ⟨_, rfl, sameMemory_iod ((State.modThreads_mem ..).trans (State.modThreads_mem ..)) ((State.modThreads_iod ..).trans (State.modThreads_iod ..)),
        threadsBecome_done (u := s.subIndexed e g f) (f := fun _ x => { x with sub := sub.setWidth 8 }) (fun t => ?_) (fun wg t hn => ?_),
        e.w.setSs e.g.hgrps f.f2 (verNum e.l (sub.setWidth 8)), ?_, fun k q => Workgroup.s_setSs ..⟩
      · exact State.thread_modThreads ..
      · exact State.thread_modThreads_other _ _ _ _ _ _ hn
      · refine (State.wg?_congr (State.modThreads_wgs ..) _).trans ((State.wg?_setS ..).trans ?_)
        rw [if_pos rfl, State.wg?_congr (State.modThreads_wgs ..), State.wg?_of_issuer h.issuer]
        rfl

end Sys2Proof
end

section
/-! Compared runs (spec 15, R353, R357): the counterexample where a stack that wrote a version is in a reset. -/

namespace Sys2Proof.Machine

/-- A launch that has ended, and its second run that has ended with the same digests. -/
def comparedLaunch : Launch := { Launch.gone with id := 1 }
def comparedRun : Launch := { Launch.gone with id := 2, shadowOf := some 1, run := 2 }

/-- A version of the launch that is tested by comparing runs, written by stack 0. -/
def comparedVersion : Version :=
  { id := 3, num := 0, world := 0, launch := 1, attempt := 0, lctr := 0, words := [], writers := 1, up := [], full := false, future := false
    state := .testing, group := 3, shadow := false, passedTest := true, dual := true, matched := false, injected := false }

/-- Reset with these two runs and the version, and stack 0 in a warm reset. -/
def resetRunsState : State :=
  { State.reset.modDie 0 (fun d => { d with resetting := true }) with launches := [comparedLaunch, comparedRun], versions := [comparedVersion] }

/-- A result of `SHADOW_RUN_COMPLETE` that leads to no state. -/
def refuses (o : Out) : Bool := match o with | .refused _ => true | _ => false

theorem not_leads_of_refuses {o : Out} (h : refuses o = true) (p : State → Prop) : ¬ o.Leads p := by
  rintro ⟨t, rfl, -⟩
  cases h

/-- The comparison waits for the reset's end. -/
theorem resetRunsState_waits : refuses (exec (.shadowRunComplete 2) resetRunsState) = true := by decide +kernel

theorem resetRunsState_powered : resetRunsState.powered = true := by decide +kernel

theorem resetRunsState_first : (resetRunsState.held comparedLaunch).filter (fun v => (v.dual || comparedLaunch.wkind == 3) && !v.matched) ≠ [] := by
  decide +kernel

theorem resetRunsState_third : ∀ y ∈ resetRunsState.launches, ¬(y.shadowOf = some comparedLaunch.id ∧ y.attempt = comparedLaunch.attempt ∧ y.run = 3) := by
  decide +kernel

end Sys2Proof.Machine

namespace Sys2Proof

open Sys2Proof.Machine

/-- Refutes O47: of runs whose digests agree it says that they are matched, whatever the stacks that wrote their versions do, and the model
compares runs once no such stack is being reset. -/
theorem not_testsAndComparedRuns : ¬ Obligations.TestsAndComparedRuns := by
  unfold Obligations.TestsAndComparedRuns
  intro h
  have hmatched := (h.2 resetRunsState 2 comparedRun comparedLaunch resetRunsState_powered rfl rfl rfl rfl rfl rfl rfl rfl resetRunsState_third
    resetRunsState_first).1 rfl rfl
  exact not_leads_of_refuses resetRunsState_waits _ hmatched

end Sys2Proof
end

section
/-! A stray host line (spec 00, R5; 15, R344): the counterexamples to claims that device memory is kept in every state. -/

namespace Sys2Proof.Machine

/-- A line that a slice holds as the host's, at an address of device memory. -/
def strayLine : HostLine := ⟨2, 0, List.replicate 128 1, List.replicate 32 true⟩

/-- The bench in test mode, its group issuing, with that line in the slice of a retired stack that still is in service, and another stack
whose score has passed the threshold. -/
def strayState : State :=
  let s := (State.reset.bench [0, 0, benchHeader]).modDie 1 (fun d => { d with score := 200 })
  { s.modDie 2 (fun d => { d with retired := true }) with
    cur := some 0, iod := { Iod.new with hostLines := [strayLine] }, garrun := { Garrun.new with test := true } }

/-- A byte of memory in the state that an outcome leads to. -/
def byteAfter (o : Out) (k : Nat) : Byte := match o with | .next t => memGet t.mem k | _ => 0

/-- An outcome that changes a byte of device memory leads to no state that keeps all but the host's. -/
theorem not_leads_sameButHost {o : Out} {s : State} {p : State → Prop} (k : Nat) (hk : isHost k = false) (h : byteAfter o k ≠ memGet s.mem k)
    (hp : ∀ t, p t → SameButHost s t) : ¬ o.Leads p := by
  rintro ⟨t, rfl, ht⟩
  exact h ((hp t ht).1 k hk).1

theorem strayState_powered : strayState.powered = true := by decide +kernel

theorem strayState_posted : strayState.postedDone 0 = true := by decide +kernel

/-- Each of these empties the slice, and the line's bytes go to its address. -/
theorem strayState_written : byteAfter (exec (.checkerEventReport 0 .corrected) strayState) 0 ≠ memGet strayState.mem 0 ∧
    byteAfter (exec (.gpolicy 0x8000) strayState) 0 ≠ memGet strayState.mem 0 := by decide +kernel

/-- The same package, drained and with every gang saved. -/
def strayDrained : State := { strayState with gangs := [], checker := { Checker.new with draining := true } }

theorem strayDrained_powered : strayDrained.powered = true := by decide +kernel

theorem strayDrained_written : byteAfter (exec (.thermalShutdown 1280) strayDrained) 0 ≠ memGet strayDrained.mem 0 := by decide +kernel

/-! The system instructions there. -/

def strayEnv : Env := strayState.issuer.get (by decide +kernel)

/-- A form of opcode 0x70 that reads no scalar register. -/
def strayForm (prn : BitVec 16) : FY := ⟨511, 511, 511, 0, prn⟩

theorem strayState_issuable {i : Instr} (hi : i = .wrpr ⟨false, 15⟩ (strayForm 2) ∨ i = .finj ⟨false, 15⟩ (strayForm 2)) :
    Issuable strayState strayEnv ⟨false, 15⟩ i := by
  have hissuer : strayState.issuer = some strayEnv := (Option.some_get _).symm
  rcases hi with rfl | rfl
  · exact ⟨hissuer, by decide +kernel, fun _ => by decide +kernel, fun _ => by decide +kernel, by decide +kernel, by decide +kernel,
      by decide +kernel, by decide +kernel⟩
  · exact ⟨hissuer, by decide +kernel, fun _ => by decide +kernel, fun _ => by decide +kernel, by decide +kernel, by decide +kernel,
      by decide +kernel, by decide +kernel⟩

theorem strayState_lane : strayState.someLane strayEnv ⟨false, 15⟩ := by decide +kernel

theorem strayState_released : ∀ n ∈ strayState.lanes strayEnv ⟨false, 15⟩, strayState.released strayEnv.w.id n 3 = true := by decide +kernel

theorem strayState_wrpr : byteAfter (exec (.wrpr ⟨false, 15⟩ (strayForm 2)) strayState) 0 ≠ memGet strayState.mem 0 := by decide +kernel

theorem strayState_finj : byteAfter (exec (.finj ⟨false, 15⟩ (strayForm 2)) strayState) 0 ≠ memGet strayState.mem 0 := by decide +kernel

end Sys2Proof.Machine

namespace Sys2Proof

open Sys2Proof.Machine

/-- Refutes O48: a stack that is retired leaves service, its slice writes the lines it holds as the host's back to whatever address they
have, and no hypothesis says that it is one of host memory. -/
theorem not_scoresResetsAndSplits : ¬ Obligations.ScoresResetsAndSplits := by
  unfold Obligations.ScoresResetsAndSplits
  intro h
  have hreport := (h.1.1 strayState 0 strayState_powered (by decide) (by decide +kernel)).1
  exact not_leads_sameButHost 0 (by decide) strayState_written.1 (fun _ ht => ht.1) hreport

/-- Refutes O49: a write of `diemask` takes stacks out of service, with a host line of device memory's address as in O48. -/
theorem not_privilegedRegisters : ¬ Obligations.PrivilegedRegisters := by
  unfold Obligations.PrivilegedRegisters
  intro h
  obtain ⟨w, hw⟩ := Option.isSome_iff_exists.1 (show (strayState.world? 0).isSome = true by decide +kernel)
  have hwrite := ((h.1 ⟨false, 15⟩ (strayForm 2) strayState strayEnv strayState_lane strayState_released).2
    (strayState_issuable (.inl rfl))).2.2.1 w (by decide +kernel) hw (by decide) (by decide)
  exact not_leads_sameButHost 0 (by decide) strayState_wrpr (fun _ ht => ht.1) hwrite

/-- Refutes O51: an injection of kind 2 raises a score and retires what stands at the threshold, with a host line as in O48. -/
theorem not_injectionsAndHalts : ¬ Obligations.InjectionsAndHalts := by
  unfold Obligations.InjectionsAndHalts
  intro h
  have hscore := ((h.1 ⟨false, 15⟩ (strayForm 2) strayState strayEnv (strayState_issuable (.inr rfl)) strayState_lane).2.2.2
    (by decide +kernel) (by decide +kernel)).2.1 rfl
  exact not_leads_sameButHost 0 (by decide) strayState_finj (fun _ ht => ht.1) hscore

/-- Refutes O53: a threshold that is written retires stacks at once, with a host line as in O48. -/
theorem not_garrunRegistersAndMailbox : ¬ Obligations.GarrunRegistersAndMailbox := by
  unfold Obligations.GarrunRegistersAndMailbox
  intro h
  have hpolicy := (h.1 strayState 0x8000 strayState_posted).1 ⟨by decide, by decide⟩
  exact not_leads_sameButHost 0 (by decide) strayState_written.2 (fun _ ht => ht.1) hpolicy

/-- Refutes O54: a thermal shutdown writes every line back that a slice holds as the host's, as in O48. -/
theorem not_powerAndStarts : ¬ Obligations.PowerAndStarts := by
  unfold Obligations.PowerAndStarts
  intro h
  have hshutdown := (h.1 strayDrained 1280 strayDrained_powered).2.2.2.2 (by decide) (by decide +kernel) (by decide +kernel)
  exact not_leads_sameButHost 0 (by decide) strayDrained_written (fun _ ht => ht.1) hshutdown

end Sys2Proof
end

section
/-! The host's own writes (spec 07, R165, R173): the counterexample where a store is on its way to a part of the word. -/

namespace Sys2Proof.Machine

/-- A store of one byte of the window that has passed the crossbar. -/
def windowStore : Flight :=
  { id := 9, wg := 1, gang := 1, launch := 1, part := 0, tids := [0], iaddr := 8, kind := .store, elems := [⟨0, keyWindow, 1, 0, 5, false, none⟩]
    sx := false, pred := none, inLd := false, scope := 0, acq := false, rel := false, spad := false, core := 0, world := 0, version := none
    otag := 0, passed := true, passOrder := 0, batch := 9, replay := false, poisoned := false, denied := false, taken := false, lines := []
    reserve := false, deps := [] }

def windowState : State := { State.reset with flights := [windowStore] }

/-- The host's write waits for the store. -/
theorem windowState_waits : refuses (exec (.hostWindowAccess 0 0 0 (some [1])) windowState) = true := by decide +kernel

end Sys2Proof.Machine

namespace Sys2Proof

open Sys2Proof.Machine

/-- Refutes O52: it says that the host's write of the window is performed whatever stores are under way, and the model holds it while a store of
less than a word is on its way to the same word. -/
theorem not_hostAndWorlds : ¬ Obligations.HostAndWorlds := by
  unfold Obligations.HostAndWorlds
  intro ⟨⟨_, _, _, hwindow⟩, _⟩
  have hwrite := (hwindow windowState 0 0 World.new rfl rfl).1 [1] 0 (by decide) (by decide) (by decide)
  exact not_leads_of_refuses windowState_waits _ hwrite

end Sys2Proof
end

section
/-! Acceptance and placement (spec 02, R26 to R28, R38, R45; 10, R262, R268 to R273). -/

namespace Sys2Proof.Machine

/-! What counters, queues and notifies change. -/

/-- Worlds and the I/O die alone differ, and host lines are as before. -/
def Counted (s t : State) : Prop := ∃ worlds iod, t = { s with worlds, iod } ∧ iod.hostLines = s.iod.hostLines

theorem Counted.refl (s : State) : Counted s s := ⟨s.worlds, s.iod, rfl, rfl⟩

theorem Counted.trans {s t u : State} (h : Counted s t) (h' : Counted t u) : Counted s u := by
  obtain ⟨_, _, rfl, hi⟩ := h
  obtain ⟨worlds, iod, rfl, hi'⟩ := h'
  exact ⟨worlds, iod, rfl, hi'.trans hi⟩

theorem Counted.foldl {α : Type} {f : State → α → State} (hf : ∀ s x, Counted s (f s x)) (l : List α) (s : State) : Counted s (l.foldl f s) := by
  induction l generalizing s with
  | nil => exact .refl s
  | cons x l ih => exact (hf s x).trans (ih _)

theorem Counted.modWorld (s : State) (world : Nat) (f : World → World) : Counted s (s.modWorld world f) := by
  obtain ⟨worlds, h⟩ := s.modWorld_eq world f
  exact ⟨worlds, s.iod, h, rfl⟩

theorem Notified.counted {s t : State} (h : Notified s t) : Counted s t := by
  obtain ⟨worlds, irqs, irqPend, rfl, -, -⟩ := h
  exact ⟨worlds, _, rfl, rfl⟩

theorem State.putCtr_counted (s : State) (world id : Nat) (c : Ctr) : Counted s (s.putCtr world id c) := by
  unfold State.putCtr
  split
  · exact (Counted.modWorld ..).trans (State.notifyMet_notified ..).counted
  · exact .refl s

theorem State.useCtr_counted (s : State) (world id : Nat) (c : Ctr) : Counted s (s.useCtr world id c) :=
  (Counted.modWorld ..).trans (State.putCtr_counted ..)

theorem State.setEnd_counted (s : State) (world id : Nat) (e : CtrEnd) : Counted s (s.setEnd world id e) := .modWorld ..

theorem State.addScope_counted (s : State) (world id scope : Nat) : Counted s (s.addScope world id scope) := .modWorld ..

theorem State.unqueue_counted (s : State) (l : Launch) : Counted s (s.unqueue l) := .modWorld ..

theorem State.modQueue_counted (s : State) (world prio : Nat) (f : Queue → Queue) : Counted s (s.modQueue world prio f) := .modWorld ..

theorem State.carry_counted (world scope : Nat) (above : List (Nat × Nat)) (s : State) (bad : Option (BitVec 4 × BitVec 8)) :
    Counted s (s.carry world scope bad above) := by
  induction above generalizing s bad with
  | nil => exact .refl s
  | cons x above ih =>
    obtain ⟨level, id⟩ := x
    unfold State.carry
    split
    · exact ih s bad
    · dsimp only
      split
      · exact .refl s
      · split
        · exact (((State.addScope_counted ..).trans (State.putCtr_counted ..)).trans (State.setEnd_counted ..)).trans (ih _ _)
        · exact ((State.addScope_counted ..).trans (State.putCtr_counted ..)).trans (State.setEnd_counted ..)

theorem State.runCtrs_counted (s : State) (l : Launch) : Counted s (s.runCtrs l) := by
  unfold State.runCtrs
  split
  · exact .refl s
  · refine .foldl (fun s x => ?_) _ s
    dsimp only
    split
    · exact State.putCtr_counted ..
    · exact .refl s

/-! Acceptance. -/

/-- The fields of an entry's word, whatever its target is. -/
theorem ctrOf_bits_fields {c : Ctr} (h₂ : c.count < 2 ^ 32) (h₃ : c.status < 16) (h₄ : c.code < 256) (h₅ : c.level < 16) :
    (ctrOf c.bits).count = c.count ∧ (ctrOf c.bits).status = c.status ∧ (ctrOf c.bits).code = c.code ∧ (ctrOf c.bits).level = c.level := by
  have hbits : c.bits = Ctr.bits { c with target := c.target % 2 ^ 32 } := by
    unfold Ctr.bits
    rw [Nat.mod_mod]
  rw [hbits, ctrOf_bits_of (c := { c with target := c.target % 2 ^ 32 }) (Nat.mod_lt _ (by decide)) h₂ h₃ h₄ h₅]
  exact ⟨rfl, rfl, rfl, rfl⟩

theorem wordsOf64_length (n : Nat) (bs : List Byte) : (wordsOf64 n bs).length = n := by
  induction n generalizing bs with
  | zero => rfl
  | succ n ih => exact congrArg (· + 1) (ih _)

/-- The words of a packet with its seed's put in. -/
theorem listGet_seeded {ws : List Code} {x : Code} (h : ws.length = 32) {k : Nat} (hk : k ≠ 4) (hlt : k < 32) :
    listGet 0 (ws.take 4 ++ [x] ++ ws.drop 5) k = listGet 0 ws k := by
  have get (l : List Code) (i : Nat) : listGet 0 l i = l.getD i 0 := by
    induction l generalizing i with
    | nil => rfl
    | cons y l ih =>
      cases i with
      | zero => rfl
      | succ i => exact ih i
  rw [get, get, List.getD_eq_getElem?_getD, List.getD_eq_getElem?_getD]
  congr 1
  rcases Nat.lt_or_gt_of_ne hk with hlow | hhigh
  · rw [List.append_assoc, List.getElem?_append_left (by rw [List.length_take]; omega), List.getElem?_take_of_lt hlow]
  · rw [List.getElem?_append_right (by simp; omega), List.getElem?_drop]
    congr 1
    simp
    omega

theorem State.ctr_modQueue (s : State) (world prio : Nat) (f : Queue → Queue) (j n : Nat) : (s.modQueue world prio f).ctr j n = s.ctr j n :=
  s.ctr_modWorld world (fun w => { w with queues := listPut Queue.new w.queues prio (f (listGet Queue.new w.queues prio)) }) (fun _ => rfl) j n

/-- The state in which a packet has been accepted, and its head has been passed. -/
theorem accept_spec {s : State} {world prio va : Nat} {ws : List Code} {args memb : List Byte} {w : World} (hw : s.world? world = some w)
    (hid : (packetLaunch s.nextId world prio va ws).lctr < 4096) (hws : ws.length = 32) :
    let l := packetLaunch s.nextId world prio va ws
    let t := (s.accept l args memb).headDone world prio
    let q := listGet Queue.new w.queues prio
    SameMemory s t ∧ t.threads = s.threads ∧ ∃ n : Launch, t.launches = s.launches ++ [n] ∧ n.world = world ∧ n.prio = prio ∧ n.status = .waiting ∧
      n.attempt = 0 ∧ (∀ k, k ≠ 4 → k < 32 → n.word k = l.word k) ∧ n.memb = memb ∧
      ((t.ctr world l.lctr).status = 1 ∧ (t.ctr world l.lctr).count = 0 ∧ (t.ctr world l.lctr).level = 1) ∧
      ∃ w', t.world? world = some w' ∧ listGet Queue.new w'.queues prio = { q with qhead := q.qhead + 1, order := q.order ++ [n.id], wait := none } := by
  intro l t q
  obtain ⟨-, -, hctr⟩ := useCtr_spec hw hid ⟨l.gangs, 0, 1, 0, 1⟩
  obtain ⟨worlds, iod, hu, hlines⟩ := s.useCtr_counted world l.lctr ⟨l.gangs, 0, 1, 0, 1⟩
  obtain ⟨w₁, hw₁, hq₁⟩ := ((s.useCtr_queuesKept world l.lctr ⟨l.gangs, 0, 1, 0, 1⟩).of_world hw).2
  rw [hu] at hctr hw₁
  -- the launch joins the list, and the two queue settings follow
  obtain ⟨n, hn⟩ : ∃ n : Launch, n = { l with
      words := l.words.take 4 ++ [Config.witnessSeed s.draws] ++ l.words.drop 5
      args := (wordsOf 0 l.argn args).map (fun x => BitVec.ofNat 32 (leNat x.2)), memb
      vl := State.freeVl { s with worlds, iod, nextId := s.nextId + 1 } world } := ⟨_, rfl⟩
  set v : State := { s with worlds, iod, nextId := s.nextId + 1, launches := s.launches ++ [n], draws := s.draws + 1 } with hv
  set f₁ : World → World := fun w => { w with scopes := tabSet 0 l.lctr 0 w.scopes, ends := tabSet CtrEnd.new l.lctr CtrEnd.new w.ends } with hf₁
  have ht : t = ((v.modWorld world f₁).modQueue world prio (fun q => { q with order := q.order ++ [n.id] })).headDone world prio := by
    have hacc : s.accept l args memb = (v.modWorld world f₁).modQueue world prio (fun q => { q with order := q.order ++ [n.id] }) := by
      unfold State.accept
      rw [show s.useCtr l.world l.lctr ⟨l.gangs, 0, 1, 0, 1⟩ = _ from hu, hv, hn]
      rfl
    exact congrArg (State.headDone · world prio) hacc
  have hcounted : Counted v t := by
    rw [ht]
    exact ((Counted.modWorld ..).trans (State.modQueue_counted ..)).trans (State.modQueue_counted ..)
  have hw₂ : (v.modWorld world f₁).world? world = some (f₁ w₁) := State.world?_modWorld_of (s := v) hw₁ f₁
  obtain ⟨-, -, w₃, hw₃, hq₃, -⟩ := modQueue_spec (prio := prio) hw₂ (fun q => { q with order := q.order ++ [n.id] })
  obtain ⟨-, -, w₄, hw₄, hq₄, -⟩ := modQueue_spec (prio := prio) hw₃ (fun q => { q with qhead := q.qhead + 1, wait := none })
  have hctr' : t.ctr world l.lctr = ctrOf (Ctr.bits ⟨l.gangs, 0, 1, 0, 1⟩) := by
    rw [ht]
    refine (State.ctr_modQueue ..).trans ((State.ctr_modQueue ..).trans ?_)
    refine (State.ctr_modWorld v world f₁ (fun _ => rfl) _ _).trans ?_
    exact (hctr l.lctr).trans (if_pos rfl)
  obtain ⟨hcount, hstatus, -, hlevel⟩ := ctrOf_bits_fields (c := ⟨l.gangs, 0, 1, 0, 1⟩) (show 0 < 2 ^ 32 by decide)
    (show 1 < 16 by decide) (show 0 < 256 by decide) (show 1 < 16 by decide)
  obtain ⟨worlds', iod', ht', hlines'⟩ := hcounted
  refine ⟨?_, ?_, n, ?_, ?_, ?_, ?_, ?_, fun k hk hlt => ?_, ?_, ⟨?_, ?_, ?_⟩, w₄, ?_, ?_⟩
  · rw [ht']
    exact sameMemory_of rfl (hlines'.trans hlines)
  · rw [ht']
  · rw [ht']
  · rw [hn]
    rfl
  · rw [hn]
    rfl
  · rw [hn]
    rfl
  · rw [hn]
    rfl
  · rw [hn]
    exact listGet_seeded hws hk hlt
  · rw [hn]
  · rw [hctr', hstatus]
  · rw [hctr', hcount]
  · rw [hctr', hlevel]
  · rw [ht]
    exact hw₄
  · rw [hq₄, hq₃, show (f₁ w₁).queues = w₁.queues from rfl, hq₁]

theorem State.rejectLaunch_launches (s : State) (world lctr code va : Nat) (above : List (Nat × Nat)) :
    (s.rejectLaunch world lctr code va above).launches = s.launches := by
  have hcounted (u : State) (hu : u.launches = s.launches) {t : State} (h : Counted u t) : t.launches = s.launches := by
    obtain ⟨_, _, rfl, -⟩ := h
    exact hu
  unfold State.rejectLaunch
  dsimp only
  refine hcounted _ ?_ (State.carry_counted ..)
  generalize ({ FaultRec.none with code := BitVec.ofNat 8 code, lctr := if lctr < 4096 then BitVec.ofNat 16 lctr else 0xFFFF
                                   daddr := BitVec.ofNat 56 va } : FaultRec) = r
  have hpush : (s.pushRecord world r).launches = s.launches := by
    obtain ⟨mem, llcDirty, iod, worlds, gangs, flights, engines, h⟩ := s.pushRecord_eq world r
    rw [h]
  split
  · exact hcounted _ hpush (State.useCtr_counted ..)
  · exact hpush

/-- A rejected packet's head has been passed. -/
theorem reject_spec {s : State} {world prio : Nat} {w : World} (hw : s.world? world = some w) (lctr code va : Nat) (above : List (Nat × Nat)) :
    let t := (s.rejectLaunch world lctr code va above).headDone world prio
    let q := listGet Queue.new w.queues prio
    t.launches = s.launches ∧ t.threads = s.threads ∧
      ∃ w', t.world? world = some w' ∧ listGet Queue.new w'.queues prio = { q with qhead := q.qhead + 1, wait := none } := by
  intro t q
  obtain ⟨hthreads, w₁, hw₁, hq₁⟩ := (s.rejectLaunch_queuesKept world lctr code va above).of_world hw
  obtain ⟨-, hthreads', w₂, hw₂, hq₂, -⟩ := modQueue_spec (prio := prio) hw₁ (fun q => { q with qhead := q.qhead + 1, wait := none })
  refine ⟨?_, hthreads'.trans hthreads, w₂, hw₂, ?_⟩
  · refine (State.modWorld_launches ..).trans ?_
    exact s.rejectLaunch_launches world lctr code va above
  · rw [hq₂, hq₁]

end Sys2Proof.Machine
end

section
/-! Where gangs are placed, and what the dispatcher pre-empts (spec 10, R262, R270 to R272). -/

namespace Sys2Proof.Machine

/-! What a placement changes. -/

/-- Gangs and workgroups joined, with threads, groups and bins of theirs and what their clusters' L1s hold. -/
def Seated (s t : State) (gs : List Gang) (ws : List Workgroup) : Prop :=
  ∃ nextId threads groups bins l1 cores, t = { s with nextId, threads, groups, bins, l1, cores, gangs := s.gangs ++ gs, wgs := s.wgs ++ ws }

theorem Seated.trans {s t u : State} {gs gs' : List Gang} {ws ws' : List Workgroup} (h : Seated s t gs ws) (h' : Seated t u gs' ws') :
    Seated s u (gs ++ gs') (ws ++ ws') := by
  obtain ⟨_, _, _, _, _, _, rfl⟩ := h
  obtain ⟨nextId, threads, groups, bins, l1, cores, rfl⟩ := h'
  refine ⟨nextId, threads, groups, bins, l1, cores, ?_⟩
  rw [← List.append_assoc, ← List.append_assoc]

/-- Threads join groups or bins. -/
def Filed (s t : State) : Prop := ∃ nextId threads groups bins, t = { s with nextId, threads, groups, bins }

theorem Filed.refl (s : State) : Filed s s := ⟨s.nextId, s.threads, s.groups, s.bins, rfl⟩

theorem Filed.trans {s t u : State} (h : Filed s t) (h' : Filed t u) : Filed s u := by
  obtain ⟨_, _, _, _, rfl⟩ := h
  obtain ⟨nextId, threads, groups, bins, rfl⟩ := h'
  exact ⟨nextId, threads, groups, bins, rfl⟩

theorem State.addGroup_filed (s : State) (wg core part : Nat) (members : List Nat) (drawn : Bool) : Filed s (s.addGroup wg core part members drawn) := by
  unfold State.addGroup
  split
  · exact .refl s
  · exact ⟨_, _, _, _, rfl⟩

theorem State.file_filed (s : State) (wg core part : Nat) (pc : VA) (tids : List Nat) : Filed s (s.file wg core part pc tids) := by
  unfold State.file
  split
  · exact .refl s
  · rw [State.modThreads_eq]
    dsimp only
    split
    · exact ⟨_, _, _, _, rfl⟩
    · exact ⟨_, _, _, _, rfl⟩

theorem State.seatThreads_filed (s : State) (w : Workgroup) (pc : VA) : Filed s (s.seatThreads w pc) := by
  unfold State.seatThreads
  generalize List.range w.groups = l
  induction l generalizing s with
  | nil => exact .refl s
  | cons h l ih =>
    rw [List.foldl_cons]
    refine Filed.trans ?_ (ih _)
    dsimp only
    split
    · exact State.addGroup_filed ..
    · exact State.file_filed ..

/-- A workgroup of a launch as it is placed on a cluster for a gang. -/
def Workgroup.placedFor (y : Workgroup) (l : Launch) (gang cluster : Nat) : Prop :=
  y.gang = gang ∧ y.launch = l.id ∧ y.threads = l.threads ∧ (∀ c ∈ y.cores, c / 4 = cluster) ∧ y.acc = [] ∧ y.bars = List.replicate 16 Barrier.new

/-- The workgroup that is placed. -/
def State.newWorkgroup (s : State) (l : Launch) (gang index : Nat) (cores : List Nat) : Workgroup :=
  { id := s.nextId, gang, launch := l.id, index, x := index % l.gx, y := index / l.gx % l.gy, z := index / (l.gx * l.gy)
    threads := l.threads, cores, wslot := s.freeWslot (listGet 0 cores 0)
    sregs := (List.range l.hgroups).flatMap (fun h =>
      (((List.range l.args.length).zip l.args).filter (fun a => a.2 != 0)).map (fun a => (h * 512 + a.1, a.2)))
    swritten := [], acc := [], cvs := List.replicate 16 ⟨0, 0, none, []⟩, bars := List.replicate 16 Barrier.new, rings := l.newRings
    recs := List.replicate 4 none }

/-- The gang that is placed. -/
def State.newGang (s : State) (l : Launch) (index cluster : Nat) : Gang :=
  { id := s.nextId, launch := l.id, world := l.world, index, die := Config.dieOfCore (cluster * 4), cluster, order := s.nextId, status := .running
    haltAt := 0, held := false, heldDie := false, waits := false, skip := [], bars := List.replicate 8 Barrier.new, unit := 0
    size := l.perGang, arrival := none, cancelled := false, saggar := none }

theorem addWorkgroup_seated (s : State) (l : Launch) (gang cluster index : Nat) {cores : List Nat} (hc : ∀ c ∈ cores, c / 4 = cluster) :
    ∃ y, Seated s (s.addWorkgroup l gang index cores) [] [y] ∧ y.placedFor l gang cluster := by
  unfold State.addWorkgroup
  obtain ⟨nextId, threads, groups, bins, h⟩ := State.seatThreads_filed _ _ _
  refine ⟨s.newWorkgroup l gang index cores, ⟨nextId, threads, groups, bins, s.l1, s.cores, h.trans ?_⟩, rfl, rfl, rfl, hc, rfl, rfl⟩
  rw [List.append_nil]
  rfl

theorem coresIn_cluster {s : State} {l : Launch} {cluster : Nat} {cs : List Nat} (h : s.coresIn l cluster = some cs) : ∀ c ∈ cs, c / 4 = cluster := by
  obtain ⟨k, -, hfind⟩ := Option.bind_eq_some_iff.1 h
  have hmem := List.mem_of_find?_eq_some hfind
  unfold coreSets at hmem
  intro c hc
  split at hmem
  · simp only [List.mem_cons, List.not_mem_nil, or_false] at hmem
    rcases hmem with rfl | rfl | rfl | rfl <;> simp only [List.mem_cons, List.not_mem_nil, or_false] at hc <;> omega
  · simp only [List.mem_cons, List.not_mem_nil, or_false] at hmem
    rcases hmem with rfl | rfl | rfl | rfl | rfl | rfl <;> simp only [List.mem_cons, List.not_mem_nil, or_false] at hc <;> omega
  · simp only [List.mem_cons, List.not_mem_nil, or_false] at hmem
    subst hmem
    simp only [List.mem_cons, List.not_mem_nil, or_false] at hc
    omega

theorem addWorkgroups_seated {l : Launch} {gang cluster : Nat} {is : List Nat} {s t : State} (h : s.addWorkgroups l gang cluster is = some t) :
    ∃ ws, Seated s t [] ws ∧ ws.length = is.length ∧ ∀ y ∈ ws, y.placedFor l gang cluster := by
  induction is generalizing s with
  | nil =>
    obtain rfl := Option.some.inj h
    exact ⟨[], ⟨s.nextId, s.threads, s.groups, s.bins, s.l1, s.cores, by rw [List.append_nil, List.append_nil]⟩, rfl, fun _ hy => absurd hy List.not_mem_nil⟩
  | cons i is ih =>
    unfold State.addWorkgroups at h
    split at h
    · cases h
    next cs hcs =>
      obtain ⟨y, hy, hyp⟩ := addWorkgroup_seated s l gang cluster i (coresIn_cluster hcs)
      obtain ⟨ws, hws, hlen, hall⟩ := ih h
      refine ⟨y :: ws, hy.trans hws, congrArg (· + 1) hlen, fun z hz => ?_⟩
      rcases List.mem_cons.1 hz with rfl | hz
      · exact hyp
      · exact hall z hz

/-- A gang of a launch as it is placed. -/
def Gang.placedFor (g : Gang) (l : Launch) (index cluster : Nat) : Prop :=
  g.launch = l.id ∧ g.world = l.world ∧ g.index = index ∧ g.die = Config.dieOfCore (cluster * 4) ∧ g.cluster = cluster ∧ g.status = .running

theorem placeGang_seated {s t : State} {l : Launch} {index cluster : Nat} (h : s.placeGang l index cluster = some t) :
    ∃ g ws, Seated s t [g] ws ∧ g.placedFor l index cluster ∧ ws.length = l.perGang ∧ ∀ y ∈ ws, y.placedFor l g.id cluster := by
  unfold State.placeGang at h
  obtain ⟨ws, ⟨nextId, threads, groups, bins, l1, cores, ht⟩, hlen, hall⟩ := addWorkgroups_seated h
  refine ⟨s.newGang l index cluster, ws, ⟨nextId, threads, groups, bins, l1, cores, ht.trans ?_⟩, ⟨rfl, rfl, rfl, rfl, rfl, rfl⟩, ?_, hall⟩
  · unfold State.formL1 State.modCore
    rw [List.append_nil]
    rfl
  · rw [hlen, List.length_map, List.length_range]

/-- What a fold that keeps the better of two answers is one of the list. -/
theorem foldl_pick_mem {α : Type} {pick : Option α → α → Option α} (hp : ∀ b x, pick b x = some x ∨ pick b x = b) {l : List α} {b : Option α}
    {y : α} (h : l.foldl pick b = some y) : y ∈ l ∨ b = some y := by
  induction l generalizing b with
  | nil => exact .inr h
  | cons x l ih =>
    rcases ih h with hy | hy
    · exact .inl (List.mem_cons_of_mem _ hy)
    · rcases hp b x with hx | hx
      · rw [hx] at hy
        obtain rfl := Option.some.inj hy
        exact .inl List.mem_cons_self
      · exact .inr (hx.symm.trans hy)

theorem placeOn_cluster {s t : State} {l : Launch} {index die c : Nat} (h : s.placeOn l index die = some (c, t)) :
    c ∈ clustersOf die ∧ s.placeGang l index c = some t := by
  unfold State.placeOn at h
  obtain ⟨⟨n, c', t'⟩, hfold, heq⟩ := Option.map_eq_some_iff.1 h
  cases heq
  have hmem := foldl_pick_mem (fun b x => by
    cases b with
    | none => exact .inl rfl
    | some y => exact (ite_eq_or_eq (y.1 < x.1) (some x) (some y)).imp id id) hfold
  rcases hmem with hm | hm
  · obtain ⟨c', hc', hx⟩ := List.mem_filterMap.1 hm
    obtain ⟨u, hu, heq⟩ := Option.map_eq_some_iff.1 hx
    cases heq
    exact ⟨hc', hu⟩
  · cases hm

theorem die_of_clustersOf : ∀ die < 8, ∀ c ∈ clustersOf die, Config.dieOfCore (c * 4) = die := by decide +kernel

/-- Gangs of a launch placed one after another. -/
theorem placeAll_seated {l : Launch} {xs : List (Nat × Nat)} {s t : State} (hd : ∀ x ∈ xs, x.2 < 8) (h : s.placeAll l xs = some t) :
    ∃ gs ws, Seated s t gs ws ∧ gs.map (fun g => (g.index, g.die)) = xs ∧ ∀ g ∈ gs, g.launch = l.id ∧ g.world = l.world ∧ g.status = .running := by
  induction xs generalizing s with
  | nil =>
    obtain rfl := Option.some.inj h
    exact ⟨[], [], ⟨s.nextId, s.threads, s.groups, s.bins, s.l1, s.cores, by rw [List.append_nil, List.append_nil]⟩, rfl,
      fun _ hg => absurd hg List.not_mem_nil⟩
  | cons x xs ih =>
    obtain ⟨index, die⟩ := x
    unfold State.placeAll at h
    split at h
    · cases h
    next cu hcu =>
      obtain ⟨c, u⟩ := cu
      obtain ⟨hc, hu⟩ := placeOn_cluster hcu
      obtain ⟨g, ws, hseat, ⟨hl, hw, hi, hdie, -, hst⟩, -, -⟩ := placeGang_seated hu
      obtain ⟨gs, ws', hseat', hmap, hall⟩ := ih (fun y hy => hd y (List.mem_cons_of_mem _ hy)) h
      refine ⟨g :: gs, ws ++ ws', hseat.trans hseat', ?_, fun y hy => ?_⟩
      · rw [List.map_cons, hmap, hi, hdie, die_of_clustersOf die (hd _ List.mem_cons_self) c hc]
      · rcases List.mem_cons.1 hy with rfl | hy
        · exact ⟨hl, hw, hst⟩
        · exact hall y hy

/-! What goes before and after. -/

/-- Launches, dies, worlds, L1s and the I/O die alone differ, and host lines are as before. -/
def Tidied (s t : State) : Prop :=
  ∃ launches dies worlds iod l1, t = { s with launches, dies, worlds, iod, l1 } ∧ iod.hostLines = s.iod.hostLines

theorem Tidied.trans {s t u : State} (h : Tidied s t) (h' : Tidied t u) : Tidied s u := by
  obtain ⟨_, _, _, _, _, rfl, hi⟩ := h
  obtain ⟨launches, dies, worlds, iod, l1, rfl, hi'⟩ := h'
  exact ⟨launches, dies, worlds, iod, l1, rfl, hi'.trans hi⟩

theorem Tidied.refl (s : State) : Tidied s s := ⟨s.launches, s.dies, s.worlds, s.iod, s.l1, rfl, rfl⟩

theorem Tidied.foldl {α : Type} {f : State → α → State} (hf : ∀ s x, Tidied s (f s x)) (l : List α) (s : State) : Tidied s (l.foldl f s) := by
  induction l generalizing s with
  | nil => exact .refl s
  | cons x l ih => exact (hf s x).trans (ih _)

theorem Counted.tidied {s t : State} (h : Counted s t) : Tidied s t := by
  obtain ⟨worlds, iod, rfl, hi⟩ := h
  exact ⟨s.launches, s.dies, worlds, iod, s.l1, rfl, hi⟩

theorem State.modLaunch_tidied (s : State) (id : Nat) (f : Launch → Launch) : Tidied s (s.modLaunch id f) := ⟨_, s.dies, s.worlds, s.iod, s.l1, rfl, rfl⟩

theorem State.modDie_tidied (s : State) (d : Nat) (f : Die → Die) : Tidied s (s.modDie d f) := ⟨s.launches, _, s.worlds, s.iod, s.l1, rfl, rfl⟩

theorem State.observe_tidied (s : State) (l : Launch) (cluster : Nat) : Tidied s (s.observe l cluster) := by
  unfold State.observe
  split
  · exact .refl s
  · refine .foldl (fun s i => ?_) _ s
    obtain ⟨l1, h⟩ := s.acquire_eq (cluster * 4 + i) _
    rw [h]
    exact ⟨s.launches, s.dies, s.worlds, s.iod, l1, rfl, rfl⟩

theorem State.afterPlacement_tidied (s : State) (id : Nat) : Tidied s (s.afterPlacement id) := by
  unfold State.afterPlacement
  split
  · split
    · exact (State.unqueue_counted ..).tidied
    · exact .refl s
  · exact .refl s

theorem State.startLaunch_tidied (s : State) (l : Launch) : Tidied s (s.startLaunch l) := by
  unfold State.startLaunch
  split
  · exact (State.modLaunch_tidied ..).trans (State.runCtrs_counted ..).tidied
  · exact .refl s

/-- A launch as it has started: how far it is, what it inherits and when it began. -/
def Launch.begunAs (l n : Launch) : Prop := ∃ status inherits begun, n = { l with status, inherits, begun }

theorem State.startLaunch_launch {s : State} {l : Launch} (h : s.launch? l.id = some l) :
    ∃ n, (s.startLaunch l).launch? l.id = some n ∧ l.begunAs n ∧ (l.status = .ended → n.status = .ended) ∧ (l.status ≠ .ended → n.status ≠ .ended) := by
  unfold State.startLaunch
  split
  next hw =>
    have hst : l.status = .waiting := beq_iff_eq.1 hw
    have hrun := (s.modLaunch l.id (fun x => { x with
      status := .running, inherits := s.inherited l, begun := if x.attempt == 0 then s.clock else x.begun })).runCtrs_counted l
    obtain ⟨worlds, iod, hr, -⟩ := hrun
    refine ⟨{ l with status := .running, inherits := s.inherited l, begun := if l.attempt == 0 then s.clock else l.begun }, ?_, ⟨_, _, _, rfl⟩,
      fun hc => ?_, fun _ => LStatus.noConfusion⟩
    · rw [hr]
      refine (s.launch?_modLaunch l.id (fun x => { x with
        status := .running, inherits := s.inherited l, begun := if x.attempt == 0 then s.clock else x.begun }) (fun _ => rfl)).trans ?_
      rw [h]
      rfl
    · rw [hst] at hc
      cases hc
  · exact ⟨l, h, ⟨_, _, _, rfl⟩, id, id⟩

end Sys2Proof.Machine
end

section
/-! The dispatcher's events (spec 10, R262, R270 to R272). -/

namespace Sys2Proof.Machine

/-! The gangs that a placement adds. -/

/-- A state that gangs and workgroups have joined, with their launch started and what came with it. -/
def Joined (s t : State) (gs : List Gang) (ws : List Workgroup) : Prop := ∃ u v, Tidied s u ∧ Seated u v gs ws ∧ Tidied v t

theorem Joined.of_tidied {s t t' : State} {gs : List Gang} {ws : List Workgroup} (h : Joined s t gs ws) (h' : Tidied t t') : Joined s t' gs ws := by
  obtain ⟨u, v, hu, hv, ht⟩ := h
  exact ⟨u, v, hu, hv, ht.trans h'⟩

theorem Joined.spec {s t : State} {gs : List Gang} {ws : List Workgroup} (h : Joined s t gs ws) :
    SameMemory s t ∧ t.gangs = s.gangs ++ gs ∧ t.wgs = s.wgs ++ ws := by
  obtain ⟨_, _, ⟨_, _, _, _, _, rfl, hi⟩, ⟨_, _, _, _, _, _, rfl⟩, ⟨_, _, _, _, _, rfl, hi'⟩⟩ := h
  exact ⟨sameMemory_of rfl (hi'.trans hi), rfl, rfl⟩

section
variable {s : State} {l : Launch} {die : Nat} (hl : s.launch? l.id = some l)
include hl

/-- The next gang of a die's share, as it is placed. -/
theorem placeNext_single {t : State} {entry index : Nat} (hc : l.cores = false) (hn : l.nextGang die = some (entry, index)) (hd : die < 8)
    (h : s.placeNext l die = some t) : ∃ g ws cluster, Joined s t [g] ws ∧ g.placedFor l index cluster ∧ g.die = die ∧ ws.length = l.perGang ∧
      ∀ y ∈ ws, y.placedFor l g.id cluster := by
  obtain ⟨n, hlaunch, ⟨status, inherits, begun, rfl⟩, -⟩ := State.startLaunch_launch hl
  have hstart := s.startLaunch_tidied l
  unfold State.placeNext at h
  generalize s.startLaunch l = u at hlaunch hstart h
  dsimp only at h
  rw [hlaunch, Option.getD_some] at h
  split at h
  · cases h
  · have hc' : Launch.cores { l with status, inherits, begun } = false := hc
    have hn' : Launch.nextGang { l with status, inherits, begun } die = some (entry, index) := hn
    simp only [hc', hn', Bool.false_eq_true, if_false] at h
    obtain ⟨⟨c, v⟩, hv, rfl⟩ := Option.map_eq_some_iff.1 h
    obtain ⟨hmem, hplace⟩ := placeOn_cluster hv
    obtain ⟨g, ws, hseat, hg, hlen, hall⟩ := placeGang_seated hplace
    refine ⟨g, ws, c, ⟨u, v, hstart, hseat, (State.observe_tidied ..).trans (State.modLaunch_tidied ..)⟩, hg, ?_, hlen, hall⟩
    exact hg.2.2.2.1.trans (die_of_clustersOf die hd c hmem)

/-- All gangs of a co-resident launch, as they are placed. -/
theorem placeNext_all {t : State} (hc : l.cores = true) (h : s.placeNext l die = some t) : ∃ gs ws, Joined s t gs ws ∧
    gs.map (fun g => (g.index, g.die)) = l.allGangs ∧ ∀ g ∈ gs, g.launch = l.id ∧ g.world = l.world ∧ g.status = .running := by
  obtain ⟨n, hlaunch, ⟨status, inherits, begun, rfl⟩, -⟩ := State.startLaunch_launch hl
  have hstart := s.startLaunch_tidied l
  unfold State.placeNext at h
  generalize s.startLaunch l = u at hlaunch hstart h
  dsimp only at h
  rw [hlaunch, Option.getD_some] at h
  split at h
  · cases h
  · have hc' : Launch.cores { l with status, inherits, begun } = true := hc
    simp only [hc', if_true] at h
    split at h
    · cases h
    next hopen =>
      obtain ⟨v, hv, rfl⟩ := Option.map_eq_some_iff.1 h
      have hdies : ∀ x ∈ Launch.allGangs { l with status, inherits, begun }, x.2 < 8 := by
        intro x hx
        rw [Bool.not_eq_true', Bool.not_eq_false, Bool.and_eq_true, List.all_eq_true] at hopen
        have hx' := hopen.2 x.2 ((mem_dedup _ _).2 (List.mem_map.2 ⟨x, hx, rfl⟩))
        unfold State.dieOpen at hx'
        simp only [Bool.and_eq_true, decide_eq_true_eq] at hx'
        exact hx'.1.1.1
      obtain ⟨gs, ws, hseat, hmap, hall⟩ := placeAll_seated hdies hv
      exact ⟨gs, ws, ⟨u, v, hstart, hseat, (Tidied.foldl (fun t g => State.observe_tidied ..) _ v).trans (State.modLaunch_tidied ..)⟩, hmap, hall⟩

end

/-- The launch that a die's dispatcher serves can place a gang there. -/
theorem placeNext_of_served {s : State} {l : Launch} {die : Nat} (h : s.served die = some l) (hs : s.savedGangs l.id = []) :
    ∃ t, s.placeNext l die = some t := by
  have hmem := foldl_pick_mem (fun b x => by
    cases b with
    | none => exact .inl rfl
    | some y => exact ite_eq_or_eq _ (some x) (some y)) h
  rcases hmem with hm | hm
  · rcases List.mem_append.1 hm with hm | hm
    · obtain ⟨w, -, hm⟩ := List.mem_flatMap.1 hm
      have hp := (List.mem_filter.1 hm).2
      rw [Bool.and_eq_true] at hp
      exact Option.isSome_iff_exists.1 hp.2
    · have hp := (List.mem_filter.1 hm).2
      unfold State.resumes at hp
      rw [hs] at hp
      cases hp
  · cases hm

/-! The event. -/

/-- A launch whose turn it is ends where it has no gangs, has its next gang placed where that fits, or pre-empts one. -/
def State.dispatch (s : State) (l : Launch) (id die : Nat) : Out :=
  if l.gangs == 0 then event (s.worldOpen l.world) ((s.startLaunch l).finishLaunch id)
  else if !s.worldOpen l.world || !s.dieOpen l.world die then .refused .notEnabled
  else match s.placeNext l die, s.served die with
    | none, _ => eventOf (s.preemptFor l die)
    | some _, none => .refused .notEnabled
    | some t, some x =>
      if x.id != id then .refused .notEnabled
      else .next ((t.modDie die (fun d => { d with served := l.world })).afterPlacement id).progress

section
variable {s : State} {id die : Nat} {l : Launch} {w : World} (hpow : s.powered = true) (hl : s.launch? id = some l)
  (hw : s.world? l.world = some w) (hhead : id ∈ w.heads) (hsaved : s.savedGangs id = []) (hend : l.status ≠ .ended) (hcan : l.cancelled = false)
  (hdeps : s.depsState l = .met)
include hpow hl hw hhead hsaved hend hcan hdeps

/-- A launch at the head of a queue, with its dependences met and none of its gangs saved. -/
theorem gangPlacement_head : exec (.gangPlacement id die) s = s.dispatch l id die := by
  have hnone : (s.powered && !(s.savedGangs id).isEmpty) = false := by
    rw [hsaved]
    exact Bool.and_false _
  have hgo : (!s.powered || !w.heads.contains id || l.status == .ended || l.cancelled) = false := by
    rw [hpow, List.contains_iff_mem.2 hhead, beq_eq_false_iff_ne.2 hend, hcan]
    rfl
  show execGangPlacement id die s = _
  unfold execGangPlacement
  simp only [hl, hw, hnone, hgo, hdeps, Bool.false_eq_true, if_false]
  rfl

theorem gangPlacement_none (hg : l.gangs = 0) (hopen : s.worldOpen l.world = true) : exec (.gangPlacement id die) s =
    .next ((s.startLaunch l).finishLaunch id).progress := by
  rw [gangPlacement_head hpow hl hw hhead hsaved hend hcan hdeps]
  unfold State.dispatch event
  rw [if_pos (beq_iff_eq.2 hg)]
  exact if_pos hopen

variable (hg : l.gangs ≠ 0) (hopen : s.worldOpen l.world = true) (hdie : s.dieOpen l.world die = true)
include hg hopen hdie

theorem gangPlacement_placed {t : State} (hserved : s.served die = some l) (hp : s.placeNext l die = some t) :
    exec (.gangPlacement id die) s = .next ((t.modDie die (fun d => { d with served := l.world })).afterPlacement id).progress := by
  have hid : l.id = id := beq_iff_eq.1 (List.find?_some (p := fun (x : Launch) => x.id == id) hl)
  rw [gangPlacement_head hpow hl hw hhead hsaved hend hcan hdeps]
  unfold State.dispatch
  rw [if_neg (by simpa using hg)]
  simp only [hopen, hdie, hserved, hp, hid, bne_self_eq_false, Bool.not_true, Bool.or_self, Bool.false_eq_true, if_false]

theorem gangPlacement_preempts (hp : s.placeNext l die = none) : exec (.gangPlacement id die) s = eventOf (s.preemptFor l die) := by
  rw [gangPlacement_head hpow hl hw hhead hsaved hend hcan hdeps]
  unfold State.dispatch
  rw [if_neg (by simpa using hg)]
  simp only [hopen, hdie, hp, Bool.not_true, Bool.or_self, Bool.false_eq_true, if_false]

end

theorem gangPlacement_keptOut {s : State} {id die : Nat} {l : Launch} (hpow : s.powered = true) (hl : s.launch? id = some l)
    (hsaved : s.savedGangs id ≠ []) (hk : s.keptOut l die = true) : exec (.gangPlacement id die) s = eventOf (s.preemptFor l die) := by
  have hsome : (s.powered && !(s.savedGangs id).isEmpty) = true := by
    rw [hpow, Bool.true_and, Bool.not_eq_true', List.isEmpty_eq_false_iff]
    exact hsaved
  show execGangPlacement id die s = _
  unfold execGangPlacement
  simp only [hl, hsome, hk, if_true]

/-! What it pre-empts. -/

/-- Gangs of a launch, tried where they do not stay: the launches are as before, and what joins the gangs is of the launch. -/
def Tried (s t : State) (l : Launch) : Prop := t.launches = s.launches ∧ ∃ gs, t.gangs = s.gangs ++ gs ∧ ∀ g ∈ gs, g.launch = l.id

theorem Tried.refl (s : State) (l : Launch) : Tried s s l := ⟨rfl, [], (List.append_nil _).symm, fun _ hg => absurd hg List.not_mem_nil⟩

theorem Tried.trans {s t u : State} {l : Launch} (h : Tried s t l) (h' : Tried t u l) : Tried s u l := by
  obtain ⟨hl, gs, hg, hall⟩ := h
  obtain ⟨hl', gs', hg', hall'⟩ := h'
  refine ⟨hl'.trans hl, gs ++ gs', by rw [hg', hg, List.append_assoc], fun g hm => ?_⟩
  rcases List.mem_append.1 hm with hm | hm
  · exact hall g hm
  · exact hall' g hm

theorem placeGang_tried {s t : State} {l : Launch} {index cluster : Nat} (h : s.placeGang l index cluster = some t) : Tried s t l := by
  obtain ⟨g, ws, ⟨_, _, _, _, _, _, rfl⟩, hg, -, -⟩ := placeGang_seated h
  refine ⟨rfl, [g], rfl, fun y hy => ?_⟩
  obtain rfl := List.mem_singleton.1 hy
  exact hg.1

theorem unseated_tried {l : Launch} {gs : List Gang} {s t : State} {n : Nat} (h : s.unseated l gs = some (n, t)) : Tried s t l := by
  induction gs generalizing s with
  | nil => cases h
  | cons g gs ih =>
    unfold State.unseated at h
    split at h
    · cases h
      exact .refl _ l
    next u hu =>
      obtain ⟨c, -, hc⟩ := List.exists_of_findSome?_eq_some hu
      split at hc
      · exact (placeGang_tried hc).trans (ih h)
      · cases hc

theorem firstUnplaced_tried {l : Launch} {xs : List (Nat × Nat)} {s t : State} {n m : Nat} (h : s.firstUnplaced l xs = some (n, m, t)) :
    Tried s t l := by
  induction xs generalizing s with
  | nil => cases h
  | cons x xs ih =>
    obtain ⟨index, die⟩ := x
    unfold State.firstUnplaced at h
    split at h
    · cases h
      exact .refl _ l
    next cu hcu =>
      obtain ⟨c, u⟩ := cu
      exact (placeGang_tried (placeOn_cluster hcu).2).trans (ih h)

theorem keptFrom_tried {s t : State} {l : Launch} {die n m : Nat} (h : s.keptFrom l die = some (n, m, t)) : Tried s t l := by
  unfold State.keptFrom at h
  split at h
  · obtain ⟨⟨k, u⟩, hu, heq⟩ := Option.map_eq_some_iff.1 h
    cases heq
    exact unseated_tried hu
  · exact firstUnplaced_tried h

/-- The gang that is pre-empted for a launch runs, and is of lower priority. -/
theorem preemptFor_spec {s p : State} {l : Launch} {die : Nat} (hl : s.launch? l.id = some l) (h : s.preemptFor l die = some p) :
    SameMemory s p ∧ p.threads = s.threads ∧ p.wgs = s.wgs ∧ ∃ x ∈ s.gangs, x.status = .running ∧
      (∀ y, s.launch? x.launch = some y → y.prio < l.prio) ∧ ∀ y ∈ p.gangs, y.id = x.id → y.status ≠ .running := by
  unfold State.preemptFor at h
  dsimp only at h
  split at h
  · cases h
  next index at' t ht =>
    obtain ⟨hlaunches, gs, hgangs, hgs⟩ := keptFrom_tried ht
    obtain ⟨g, hg, rfl⟩ := Option.map_eq_some_iff.1 h
    have hmem := foldl_pick_mem (fun b x => by
      cases b with
      | none => exact .inl rfl
      | some y => exact ite_eq_or_eq _ (some x) (some y)) hg
    obtain ⟨hgt, hmay⟩ := List.mem_filter.1 (hmem.resolve_right (by simp))
    simp only [Bool.and_eq_true, beq_iff_eq, decide_eq_true_eq] at hmay
    obtain ⟨⟨⟨⟨-, hrun⟩, hprio⟩, -⟩, -⟩ := hmay
    have hlaunch (j : Nat) : t.launch? j = s.launch? j := congrArg (List.find? (fun x : Launch => x.id == j)) hlaunches
    rw [hlaunch] at hprio
    have hold : g ∈ s.gangs := by
      rw [hgangs] at hgt
      rcases List.mem_append.1 hgt with hold | hnew
      · obtain ⟨x, hx, hxg⟩ := List.mem_map.1 hold
        split at hxg
        · rw [← hxg] at hrun
          cases hrun
        · exact hxg ▸ hx
      · rw [hgs g hnew, hl] at hprio
        exact absurd hprio (Nat.lt_irrefl _)
    obtain ⟨gangs, flights, engines, hhalt⟩ := s.haltGangs_eq .halting (fun x => x.id == g.id || s.gangs.any (fun y => y.launch == x.launch &&
      y.id == g.id && (match s.launch? y.launch with | some l => l.cores | none => false)))
    have hp : s.preempt (fun x => x.id == g.id) = _ := hhalt
    refine ⟨?_, ?_, ?_, g, hold, hrun, fun y hy => ?_, fun y hy hid hyrun => ?_⟩
    · rw [hp]
      exact sameMemory_of rfl rfl
    · rw [hp]
    · rw [hp]
    · rw [hy] at hprio
      exact hprio
    · have hnot := (State.running_of_haltGangs GStatus.noConfusion hy hyrun).2
      rw [Bool.or_eq_false_iff, beq_eq_false_iff_ne] at hnot
      exact hnot.1 hid

end Sys2Proof.Machine
end

section
/-! Workgroups and gangs end (spec 10, R265, R284, R290; 14, R379). -/

namespace Sys2Proof.Machine

/-! A workgroup ends. -/

/-- What a workgroup that ends takes with it, and what it leaves. -/
theorem endWorkgroup_spec (s : State) (w : Workgroup) : ∃ locks dies iod worlds threads bins flights, s.endWorkgroup w = { s with
      locks, dies, iod, worlds, threads, bins, flights, wgs := s.wgs.filter (fun x => !(x.id == w.id)), groups := s.groups.filter (fun g => !(g.wg == w.id))
      stt := s.stt.filter (fun x => !(x.wg == w.id)), gangs := mapIf (·.id == w.gang) (fun g => { g with unit := g.unit + 1 }) s.gangs } ∧
    iod.hostLines = s.iod.hostLines := by
  have hengines := s.dropReceives_engines (s.worldOfWg w.id) w.id
  obtain ⟨locks, engines, dies, iod, worlds, h, hlines⟩ := s.dropReceives_dropped (s.worldOfWg w.id) w.id
  rw [h] at hengines
  obtain rfl : engines = s.engines := hengines
  unfold State.endWorkgroup State.modGang
  rw [h]
  exact ⟨locks, dies, iod, worlds, _, _, _, rfl, hlines⟩

theorem workgroupEnd_next {s : State} {wg : Nat} {w : Workgroup} {x : Gang} (hw : s.wg? wg = some w) (hg : s.gang? w.gang = some x)
    (hx : x.status ≠ .discarding) (hall : ∀ n, n < w.threads → (s.thread wg n).status = .ended) (htiles : ∀ o ∈ s.tiles, o.wg ≠ wg)
    (hspad : s.writesSpad wg = false) : exec (.workgroupEnd wg) s = .next (s.endWorkgroup w).progress := by
  have hgo : (x.status != .discarding && (List.range w.threads).all (fun t => (s.thread wg t).status == .ended) &&
      !s.tiles.any (fun o => o.wg == wg) && !s.writesSpad wg) = true := by
    rw [bne_iff_ne.2 hx, List.all_eq_true.2 (fun n hn => beq_iff_eq.2 (hall n (List.mem_range.1 hn))), hspad,
      List.any_eq_false.2 (fun o ho => by simpa using htiles o ho)]
    rfl
  show execWorkgroupEnd wg s = _
  unfold execWorkgroupEnd event
  simp only [hw, hg]
  exact if_pos hgo

/-! A gang is gone. -/

/-- What the ends of workgroups of a gang change. -/
def Freed (s t : State) : Prop :=
  ∃ locks dies iod worlds threads bins flights wgs groups stt gangs, t = { s with
    locks, dies, iod, worlds, threads, bins, flights, wgs, groups, stt, gangs } ∧ iod.hostLines = s.iod.hostLines

/-- Workgroups of a gang end one after another. -/
theorem endWorkgroups_spec {gang : Nat} {ws : List Workgroup} (hws : ∀ w ∈ ws, w.gang = gang) (s : State) :
    Freed s (ws.foldl State.endWorkgroup s) ∧
    (∀ y ∈ (ws.foldl State.endWorkgroup s).wgs, y ∈ s.wgs ∧ ∀ w ∈ ws, y.id ≠ w.id) ∧
    ∀ y : Gang, y.id ≠ gang → (y ∈ (ws.foldl State.endWorkgroup s).gangs ↔ y ∈ s.gangs) := by
  induction ws generalizing s with
  | nil => exact ⟨⟨s.locks, s.dies, s.iod, s.worlds, s.threads, s.bins, s.flights, s.wgs, s.groups, s.stt, s.gangs, rfl, rfl⟩,
      fun y hy => ⟨hy, fun _ hw => absurd hw List.not_mem_nil⟩, fun _ _ => Iff.rfl⟩
  | cons w ws ih =>
    obtain ⟨locks, dies, iod, worlds, threads, bins, flights, h, hlines⟩ := endWorkgroup_spec s w
    obtain ⟨hfreed, hwgs, hgangs⟩ := ih (fun x hx => hws x (List.mem_cons_of_mem _ hx)) (s.endWorkgroup w)
    rw [List.foldl_cons]
    generalize ws.foldl State.endWorkgroup (s.endWorkgroup w) = t at hfreed hwgs hgangs
    rw [h] at hfreed hwgs hgangs
    refine ⟨?_, fun y hy => ?_, fun y hy => (hgangs y hy).trans ⟨fun hm => ?_, fun hm => ?_⟩⟩
    · obtain ⟨locks', dies', iod', worlds', threads', bins', flights', wgs', groups', stt', gangs', rfl, hlines'⟩ := hfreed
      exact ⟨locks', dies', iod', worlds', threads', bins', flights', wgs', groups', stt', gangs', rfl, hlines'.trans hlines⟩
    · obtain ⟨hm, hne⟩ := hwgs y hy
      obtain ⟨hs, hid⟩ := List.mem_filter.1 hm
      refine ⟨hs, fun v hv => ?_⟩
      rcases List.mem_cons.1 hv with rfl | hv
      · simpa using hid
      · exact hne v hv
    · obtain ⟨z, hz, rfl⟩ := List.mem_map.1 hm
      split at hy
      next hid => exact absurd ((beq_iff_eq.1 hid).trans (hws w List.mem_cons_self)) hy
      next hid =>
        rw [if_neg hid]
        exact hz
    · refine List.mem_map.2 ⟨y, hm, if_neg (fun hc => hy ?_)⟩
      exact (beq_iff_eq.1 hc).trans (hws w List.mem_cons_self)

/-- What the removal of a gang changes. -/
def Removed (s t : State) : Prop :=
  ∃ locks dies iod worlds threads bins flights wgs groups stt gangs tiles, t = { s with
    locks, dies, iod, worlds, threads, bins, flights, wgs, groups, stt, gangs, tiles } ∧ iod.hostLines = s.iod.hostLines

theorem removeGang_spec (s : State) (g : Gang) : Removed s (s.removeGang g) ∧
    (∀ y, y ∈ (s.removeGang g).gangs ↔ y ∈ s.gangs ∧ y.id ≠ g.id) ∧ ∀ y ∈ (s.removeGang g).wgs, y.gang ≠ g.id := by
  obtain ⟨hfreed, hwgs, hgangs⟩ := endWorkgroups_spec (ws := s.wgs.filter (fun w => w.gang == g.id))
    (fun w hw => beq_iff_eq.1 (List.mem_filter.1 hw).2) s
  unfold State.removeGang
  generalize (s.wgs.filter (fun w => w.gang == g.id)).foldl State.endWorkgroup s = u at hfreed hwgs hgangs
  refine ⟨?_, fun y => ⟨fun hy => ?_, fun ⟨hy, hid⟩ => ?_⟩, fun y hy hgang => ?_⟩
  · obtain ⟨locks, dies, iod, worlds, threads, bins, flights, wgs, groups, stt, gangs, rfl, hlines⟩ := hfreed
    exact ⟨_, _, _, _, _, _, _, _, _, _, _, _, rfl, hlines⟩
  · obtain ⟨hm, hne⟩ := List.mem_filter.1 hy
    have hid : y.id ≠ g.id := by simpa using hne
    obtain ⟨z, hz, hzy⟩ := List.mem_map.1 (show y ∈ mapIf (fun x => x.id == g.id) (fun x => { x with arrival := none }) u.gangs from hm)
    split at hzy
    next hc =>
      subst hzy
      exact absurd (beq_iff_eq.1 hc) hid
    next =>
      subst hzy
      exact ⟨(hgangs z hid).1 hz, hid⟩
  · refine List.mem_filter.2 ⟨?_, by simpa using hid⟩
    exact List.mem_map.2 ⟨y, (hgangs y hid).2 hy, if_neg (fun hc => hid (beq_iff_eq.1 hc))⟩
  · obtain ⟨hs, hne⟩ := hwgs y hy
    exact hne y (List.mem_filter.2 ⟨hs, beq_iff_eq.2 hgang⟩) rfl

/-! Writes of `state` that waited. -/

/-- Worlds, but for their counters, and marks of held groups alone differ. -/
def Released (s t : State) : Prop :=
  ∃ worlds groups, t = { s with worlds, groups } ∧ ∀ j, (t.world? j).map World.ctrs = (s.world? j).map World.ctrs

theorem Released.refl (s : State) : Released s s := ⟨s.worlds, s.groups, rfl, fun _ => rfl⟩

theorem Released.trans {s t u : State} (h : Released s t) (h' : Released t u) : Released s u := by
  obtain ⟨_, _, rfl, hc⟩ := h
  obtain ⟨worlds, groups, rfl, hc'⟩ := h'
  exact ⟨worlds, groups, rfl, fun j => (hc' j).trans (hc j)⟩

theorem Released.foldl {α : Type} {f : State → α → State} (hf : ∀ s x, Released s (f s x)) (l : List α) (s : State) : Released s (l.foldl f s) := by
  induction l generalizing s with
  | nil => exact .refl s
  | cons x l ih => exact (hf s x).trans (ih _)

theorem Released.progress (s : State) : Released s s.progress := ⟨s.worlds, _, rfl, fun _ => rfl⟩

theorem Released.modWorld (s : State) (world : Nat) (f : World → World) (hf : ∀ w, (f w).ctrs = w.ctrs) : Released s (s.modWorld world f) := by
  obtain ⟨worlds, h⟩ := s.modWorld_eq world f
  refine ⟨worlds, s.groups, h, fun j => ?_⟩
  rw [State.world?_modWorld]
  split
  · rw [Option.map_map]
    exact congrArg (Option.map · (s.world? j)) (funext hf)
  · rfl

/-- Halts of a world with no gang are released. -/
theorem releaseWorld_released {s : State} {world : Nat} (h : s.worldIdle world = true) : Released s (s.releaseWorld world) := by
  have hmod := Released.modWorld s world (fun w => { w with halted := false }) (fun _ => rfl)
  have hgangs : mapIf (fun g : Gang => g.world == world) (fun g => { g with held := false })
      (s.modWorld world (fun w => { w with halted := false })).gangs = (s.modWorld world (fun w => { w with halted := false })).gangs := by
    have hg : (s.modWorld world (fun w => { w with halted := false })).gangs = s.gangs := State.modWorld_gangs ..
    rw [hg]
    refine (List.map_congr_left (fun g hg => if_neg ?_)).trans (List.map_id' _)
    unfold State.worldIdle at h
    rw [Bool.and_eq_true, List.all_eq_true] at h
    simpa using h.1 g hg
  unfold State.releaseWorld
  dsimp only
  rw [hgangs]
  exact hmod.trans (Released.progress _)

theorem stateWrites_released (s : State) : Released s s.stateWrites := by
  refine .foldl (fun s x => ?_) _ s
  split
  · exact .refl s
  next v _ =>
    split
    · exact .modWorld s x.1 (fun w => { w with stateTo := none }) (fun _ => rfl)
    · split
      next hidle =>
        have hmod := Released.modWorld s x.1 (fun w => { w with state := v, error := false, stateTo := none }) (fun _ => rfl)
        refine hmod.trans (releaseWorld_released ?_)
        obtain ⟨worlds, groups, h, -⟩ := hmod
        rw [h]
        exact hidle
      · exact .refl s

/-! The event. -/

section
variable {s : State} {gang : Nat} {x : Gang} {l : Launch} (hg : s.gang? gang = some x) (hd : s.drains gang = true)
  (hx : x.status = .discarding ∨ (x.unit = x.size ∧ ∀ o ∈ s.engines, o.gang ≠ gang))
include hg hd hx

theorem gangEnd_next : exec (.gangEnd gang) s = .next ((s.removeGang x).countGang x).stateWrites.progress := by
  have hgo : (s.drains gang && (x.status == .discarding || (x.unit == x.size && !s.engines.any (fun o => o.gang == gang)))) = true := by
    rw [hd, Bool.true_and, Bool.or_eq_true]
    rcases hx with h | ⟨h, hno⟩
    · exact .inl (beq_iff_eq.2 h)
    · refine .inr ?_
      rw [beq_iff_eq.2 h, List.any_eq_false.2 (fun o ho => by simpa using hno o ho)]
      rfl
  show execGangEnd gang s = _
  unfold execGangEnd event
  simp only [hg]
  exact if_pos hgo

end

/-- A launch that has counted one more gang. -/
def Launch.counting (l : Launch) (cancelled : Bool) : Launch :=
  { l with ended := l.ended + 1, bad := l.bad.or (if cancelled then some (4, 0) else none) }

/-- The state in which a launch and its entry have counted one more gang. -/
def State.countedGang (s : State) (l : Launch) (cancelled : Bool) : State :=
  let t := s.modLaunch l.id (fun x => x.counting cancelled)
  if l.real && (t.ctr l.world l.lctr).level == 1 then
    t.putCtr l.world l.lctr { t.ctr l.world l.lctr with count := (t.ctr l.world l.lctr).count + 1 } else t

theorem countGang_eq {s : State} {g : Gang} {l : Launch} (hl : s.launch? g.launch = some l) (hend : l.status ≠ .ended) (hr : s.checker.rerun = []) :
    s.countGang g = (s.countedGang l g.cancelled).tryFinish l.id := by
  have hno : (l.status == .ended || s.awaitsRerun l.id) = false := by
    unfold State.awaitsRerun
    rw [hr, beq_eq_false_iff_ne.2 hend]
    rfl
  unfold State.countGang
  simp only [hl, hno, Bool.false_eq_true, if_false]
  rfl

theorem State.countedGang_only (s : State) (l : Launch) (cancelled : Bool) :
    Counted (s.modLaunch l.id (fun x => x.counting cancelled)) (s.countedGang l cancelled) := by
  unfold State.countedGang
  dsimp only
  split
  · exact State.putCtr_counted ..
  · exact .refl _

/-- A launch with more gangs to come counts one. -/
theorem countGang_more {s : State} {g : Gang} {l : Launch} (hl : s.launch? g.launch = some l) (hend : l.status ≠ .ended) (hcan : l.cancelled = false)
    (hr : s.checker.rerun = []) (hmore : l.ended + 1 ≠ l.gangs) : ∃ worlds iod launches, s.countGang g = { s with worlds, iod, launches } ∧
      iod.hostLines = s.iod.hostLines ∧ (s.countGang g).launch? g.launch = some (l.counting g.cancelled) := by
  have hid : l.id = g.launch := beq_iff_eq.1 (List.find?_some (p := fun (x : Launch) => x.id == g.launch) hl)
  obtain ⟨worlds, iod, hu, hlines⟩ := s.countedGang_only l g.cancelled
  have hlaunch : (s.countedGang l g.cancelled).launch? l.id = some (l.counting g.cancelled) := by
    rw [hu]
    refine (s.launch?_modLaunch l.id (fun x => x.counting g.cancelled) (fun _ => rfl)).trans ?_
    rw [hid, hl]
    rfl
  have hawaits : (s.countedGang l g.cancelled).awaitsRerun l.id = false := by
    have hchecker : (s.countedGang l g.cancelled).checker = s.checker := by
      rw [hu]
      rfl
    unfold State.awaitsRerun
    rw [hchecker, hr]
    rfl
  have heq : s.countGang g = s.countedGang l g.cancelled := by
    rw [countGang_eq hl hend hr]
    unfold State.tryFinish
    have hst : ((l.counting g.cancelled).status == .ended) = false := beq_eq_false_iff_ne.2 hend
    have hno : ((l.counting g.cancelled).ended == (l.counting g.cancelled).gangs || (l.counting g.cancelled).cancelled) = false := by
      rw [show (l.counting g.cancelled).cancelled = l.cancelled from rfl, hcan, Bool.or_false]
      exact beq_eq_false_iff_ne.2 hmore
    simp only [hlaunch, hawaits, hst, hno, Bool.and_false, Bool.false_eq_true, if_false]
  rw [heq]
  exact ⟨worlds, iod, _, hu, hlines, by rw [← hid]; exact hlaunch⟩

end Sys2Proof.Machine
end

section
/-! A launch is cancelled (spec 10, R290; 15, R348). -/

namespace Sys2Proof.Machine

/-! What giving up gangs and runs changes. -/

/-- Gangs are as before or discard, launches are as before or cancelled, and engine operations and versions may be gone. -/
structure GivenUp (s t : State) : Prop where
  memory : SameMemory s t
  gangs : ∀ y ∈ t.gangs, ∃ x ∈ s.gangs, y.id = x.id ∧ y.launch = x.launch ∧ (y.status = x.status ∨ y.status = .discarding)
  engines : ∀ o ∈ t.engines, o ∈ s.engines
  launches : ∀ y ∈ t.launches, ∃ x ∈ s.launches, y.id = x.id ∧
    ((y.cancelled = x.cancelled ∧ y.bad = x.bad) ∨ (y.cancelled = true ∧ y.bad = some (4, 0)))
  versions : ∀ v ∈ t.versions, v ∈ s.versions
  rerun : s.checker.rerun = [] → t.checker.rerun = []

theorem GivenUp.refl (s : State) : GivenUp s s :=
  ⟨.refl s, fun y hy => ⟨y, hy, rfl, rfl, .inl rfl⟩, fun _ h => h, fun y hy => ⟨y, hy, rfl, .inl ⟨rfl, rfl⟩⟩, fun _ h => h, id⟩

theorem GivenUp.trans {s t u : State} (h : GivenUp s t) (h' : GivenUp t u) : GivenUp s u := by
  refine ⟨h.memory.trans h'.memory, fun y hy => ?_, fun o ho => h.engines o (h'.engines o ho), fun y hy => ?_,
    fun v hv => h.versions v (h'.versions v hv), fun hr => h'.rerun (h.rerun hr)⟩
  · obtain ⟨x, hx, hid, hl, hst⟩ := h'.gangs y hy
    obtain ⟨z, hz, hid', hl', hst'⟩ := h.gangs x hx
    refine ⟨z, hz, hid.trans hid', hl.trans hl', ?_⟩
    rcases hst with hst | hst
    · rw [hst]
      exact hst'
    · exact .inr hst
  · obtain ⟨x, hx, hid, hc⟩ := h'.launches y hy
    obtain ⟨z, hz, hid', hc'⟩ := h.launches x hx
    refine ⟨z, hz, hid.trans hid', ?_⟩
    rcases hc with ⟨hc, hb⟩ | hc
    · rw [hc, hb]
      exact hc'
    · exact .inr hc

theorem GivenUp.foldl {α : Type} {f : State → α → State} (hf : ∀ s x, GivenUp s (f s x)) (l : List α) (s : State) : GivenUp s (l.foldl f s) := by
  induction l generalizing s with
  | nil => exact .refl s
  | cons x l ih => exact (hf s x).trans (ih _)

theorem Counted.givenUp {s t : State} (h : Counted s t) : GivenUp s t := by
  obtain ⟨worlds, iod, rfl, hlines⟩ := h
  exact ⟨sameMemory_of rfl hlines, fun y hy => ⟨y, hy, rfl, rfl, .inl rfl⟩, fun _ h => h, fun y hy => ⟨y, hy, rfl, .inl ⟨rfl, rfl⟩⟩, fun _ h => h, id⟩

/-- A change of a launch that keeps how it ends, or cancels it. -/
theorem modLaunch_givenUp (s : State) (id : Nat) {f : Launch → Launch} (hf : ∀ x, (f x).id = x.id ∧
    (((f x).cancelled = x.cancelled ∧ (f x).bad = x.bad) ∨ ((f x).cancelled = true ∧ (f x).bad = some (4, 0)))) : GivenUp s (s.modLaunch id f) := by
  refine ⟨sameMemory_of rfl rfl, fun y hy => ⟨y, hy, rfl, rfl, .inl rfl⟩, fun _ h => h, fun y hy => ?_, fun _ h => h, fun h => h⟩
  obtain ⟨x, hx, rfl⟩ := List.mem_map.1 hy
  refine ⟨x, hx, ?_⟩
  split
  · exact hf x
  · exact ⟨rfl, .inl ⟨rfl, rfl⟩⟩

theorem sweep_givenUp (s : State) : GivenUp s s.sweep :=
  ⟨sameMemory_of rfl rfl, fun y hy => ⟨y, hy, rfl, rfl, .inl rfl⟩, fun _ h => h,
    fun y hy => ⟨y, (List.mem_filter.1 hy).1, rfl, .inl ⟨rfl, rfl⟩⟩, fun _ h => h, id⟩

/-- A launch ends as cancelled. -/
theorem endLaunch_givenUp (s : State) (l : Launch) : GivenUp s (s.endLaunch l (some (4, 0))) := by
  have hmod := (s.unqueue_counted l).givenUp.trans (modLaunch_givenUp (s.unqueue l) l.id
    (f := fun l => { l with status := .ended, bad := some (4, 0), counted := true, cancelled := true }) (fun _ => ⟨rfl, .inr ⟨rfl, rfl⟩⟩))
  unfold State.endLaunch
  dsimp only
  split
  · exact hmod
  · refine hmod.trans (Counted.givenUp ?_)
    have hput (u v : State) (h : Counted u v) (above : List (Nat × Nat)) : Counted u (if l.counted then v else v.carry l.world l.cscope (some (4, 0)) above) := by
      split
      · exact h
      · exact h.trans (State.carry_counted ..)
    refine hput _ _ ?_ _
    split
    · exact ((State.addScope_counted ..).trans (State.putCtr_counted ..)).trans (State.setEnd_counted ..)
    · exact State.addScope_counted ..

/-! Gangs are discarded. -/

/-- A gang that discards, with its arrival entry freed. -/
def Gang.discarded (g : Gang) (clock : Nat) : Gang := { g with status := .discarding, haltAt := clock, arrival := none }

theorem discardGang_eq {s : State} {gang : Nat} {g : Gang} (hg : s.gang? gang = some g) : ∃ locks engines dies iod worlds groups bins flights tiles,
    s.discardGang gang = { s with
      locks, engines, dies, iod, worlds, groups, bins, flights, tiles, gangs := mapIf (·.id == gang) (fun g => g.discarded s.clock) s.gangs } ∧
    iod.hostLines = s.iod.hostLines ∧ ∀ o ∈ engines, o ∈ s.engines ∧ o.gang ≠ gang := by
  have hdrop := Dropped.foldl State.dropEngine_dropped ((s.engines.filter (fun o => o.gang == gang)).map (·.id)) (s.stilled gang)
  have hleft := fun o => mem_dropEngines (o := o) ((s.engines.filter (fun o => o.gang == gang)).map (·.id)) (s.stilled gang)
  have heq := State.discardGang_of hg
  generalize ((s.engines.filter (fun o => o.gang == gang)).map (·.id)).foldl State.dropEngine (s.stilled gang) = u at hdrop hleft heq
  have hrecv := Dropped.foldl (fun s w => State.dropReceives_dropped s g.world w) (s.wgsOf gang) u
  have hengines := foldl_dropReceives_engines g.world (s.wgsOf gang) u
  generalize (s.wgsOf gang).foldl (fun s w => s.dropReceives g.world w) u = v at hrecv hengines heq
  obtain ⟨locks, engines, dies, iod, worlds, rfl, hlines⟩ := hdrop.trans hrecv
  rw [heq]
  have hgangs : mapIf (fun x : Gang => x.id == gang) (fun x => { x with arrival := none })
      (mapIf (fun x : Gang => x.id == gang) (fun x => { x with status := .discarding, haltAt := s.clock }) s.gangs) =
      mapIf (fun x : Gang => x.id == gang) (fun x => x.discarded s.clock) s.gangs := by
    unfold mapIf
    rw [List.map_map]
    refine List.map_congr_left (fun x _ => ?_)
    by_cases hx : (x.id == gang) = true
    · simp only [Function.comp_apply, hx, if_true]
      rfl
    · simp only [Function.comp_apply, hx, if_false, Bool.false_eq_true]
  unfold State.freeArrival State.stilled State.modGang
  dsimp only
  rw [hgangs]
  refine ⟨locks, engines, dies, _, worlds, _, _, _, _, rfl, hlines, fun o ho => ?_⟩
  obtain ⟨hmem, hid⟩ := hleft o (hengines ▸ ho)
  exact ⟨hmem, fun hgang => hid (List.mem_map.2 ⟨o, List.mem_filter.2 ⟨hmem, beq_iff_eq.2 hgang⟩, rfl⟩)⟩

theorem discardGang_givenUp (s : State) (gang : Nat) : GivenUp s (s.discardGang gang) := by
  cases hg : s.gang? gang with
  | none =>
    unfold State.discardGang
    rw [hg]
    exact .refl s
  | some g =>
    obtain ⟨locks, engines, dies, iod, worlds, groups, bins, flights, tiles, h, hlines, hengines⟩ := discardGang_eq hg
    rw [h]
    refine ⟨sameMemory_of rfl hlines, fun y hy => ?_, fun o ho => (hengines o ho).1, fun y hy => ⟨y, hy, rfl, .inl ⟨rfl, rfl⟩⟩, fun _ h => h, id⟩
    obtain ⟨x, hx, rfl⟩ := List.mem_map.1 hy
    refine ⟨x, hx, ?_⟩
    split
    · exact ⟨rfl, rfl, .inr rfl⟩
    · exact ⟨rfl, rfl, .inl rfl⟩

theorem discardGangs_launches (s : State) (launch : Nat) : (s.discardGangs launch).launches = s.launches := by
  unfold State.discardGangs
  generalize s.gangsOf launch = ids
  induction ids generalizing s with
  | nil => rfl
  | cons i ids ih =>
    refine (ih _).trans ?_
    cases hg : s.gang? i with
    | none =>
      unfold State.discardGang
      rw [hg]
    | some g =>
      obtain ⟨locks, engines, dies, iod, worlds, groups, bins, flights, tiles, h, -⟩ := discardGang_eq hg
      rw [h]

theorem discardGangs_givenUp (s : State) (launch : Nat) : GivenUp s (s.discardGangs launch) := .foldl discardGang_givenUp _ s

/-- A gang that is there discards, and no engine operation of it is left. -/
theorem discardGang_marks {s : State} {gang : Nat} (h : gang ∈ s.gangs.map (·.id)) : (s.discardGang gang).gangs.map (·.id) = s.gangs.map (·.id) ∧
    (∀ y ∈ (s.discardGang gang).gangs, y.id = gang → y.status = .discarding) ∧ ∀ o ∈ (s.discardGang gang).engines, o.gang ≠ gang := by
  obtain ⟨x, hx, hid⟩ := List.mem_map.1 h
  have hsome : (s.gang? gang).isSome = true := List.find?_isSome.2 ⟨x, hx, beq_iff_eq.2 hid⟩
  obtain ⟨g, hg⟩ := Option.isSome_iff_exists.1 hsome
  obtain ⟨locks, engines, dies, iod, worlds, groups, bins, flights, tiles, heq, -, hengines⟩ := discardGang_eq hg
  rw [heq]
  refine ⟨?_, fun y hy hyid => ?_, fun o ho => (hengines o ho).2⟩
  · unfold mapIf
    rw [List.map_map]
    refine List.map_congr_left (fun x _ => ?_)
    rw [Function.comp_apply]
    split
    · rfl
    · rfl
  · obtain ⟨z, -, rfl⟩ := List.mem_map.1 hy
    split at hyid
    next hz =>
      rw [if_pos hz]
      rfl
    next hz => exact absurd (beq_iff_eq.2 hyid) hz

/-- Gangs that are there discard one after another. -/
theorem discards_mark {ids : List Nat} {s : State} (h : ∀ i ∈ ids, i ∈ s.gangs.map (·.id)) : GivenUp s (ids.foldl State.discardGang s) ∧
    (∀ y ∈ (ids.foldl State.discardGang s).gangs, y.id ∈ ids → y.status = .discarding) ∧
    ∀ o ∈ (ids.foldl State.discardGang s).engines, o.gang ∉ ids := by
  induction ids generalizing s with
  | nil => exact ⟨.refl s, fun _ _ hn => absurd hn List.not_mem_nil, fun _ _ => List.not_mem_nil⟩
  | cons i ids ih =>
    have hone := discardGang_givenUp s i
    obtain ⟨hids, hmark, hengines⟩ := discardGang_marks (h i List.mem_cons_self)
    obtain ⟨hrest, hmarks, hgone⟩ := ih (s := s.discardGang i) (fun j hj => by rw [hids]; exact h j (List.mem_cons_of_mem _ hj))
    rw [List.foldl_cons]
    refine ⟨hone.trans hrest, fun y hy hin => ?_, fun o ho hin => ?_⟩
    · rcases List.mem_cons.1 hin with heq | hin
      · obtain ⟨x, hx, hid, -, hst⟩ := hrest.gangs y hy
        rcases hst with hst | hst
        · rw [hst]
          exact hmark x hx (hid.symm.trans heq)
        · exact hst
      · exact hmarks y hy hin
    · rcases List.mem_cons.1 hin with heq | hin
      · exact hengines o (hrest.engines o ho) heq
      · exact hgone o ho hin

/-- Every gang of a launch discards, and no engine operation of one is left. -/
theorem discardGangs_mark (s : State) (launch : Nat) : (∀ y ∈ (s.discardGangs launch).gangs, y.launch = launch → y.status = .discarding) ∧
    ∀ o ∈ (s.discardGangs launch).engines, ∀ x ∈ s.gangs, x.launch = launch → o.gang ≠ x.id := by
  have hof (x : Gang) (hx : x ∈ s.gangs) (hl : x.launch = launch) : x.id ∈ s.gangsOf launch :=
    List.mem_map.2 ⟨x, List.mem_filter.2 ⟨hx, beq_iff_eq.2 hl⟩, rfl⟩
  obtain ⟨hgiven, hmarks, hgone⟩ := discards_mark (s := s) (ids := s.gangsOf launch) (fun i hi => by
    obtain ⟨x, hx, rfl⟩ := List.mem_map.1 hi
    exact List.mem_map.2 ⟨x, (List.mem_filter.1 hx).1, rfl⟩)
  refine ⟨fun y hy hl => ?_, fun o ho x hx hl hc => hgone o ho (hc ▸ hof x hx hl)⟩
  obtain ⟨x, hx, hid, hl', -⟩ := hgiven.gangs y hy
  exact hmarks y hy (hid ▸ hof x hx (hl'.symm.trans hl))

/-! Settling with no version. -/

theorem dropRuns_givenUp (s : State) (p : Launch → Bool) : GivenUp s (s.dropRuns p) := by
  refine .foldl (fun s x => ?_) _ s
  have hrun := modLaunch_givenUp s x.id (f := fun x => { x with run := 0 }) (fun _ => ⟨rfl, .inl ⟨rfl, rfl⟩⟩)
  have hfilter (u : State) (q : Version → Bool) : GivenUp u { u with versions := u.versions.filter q } :=
    ⟨sameMemory_of rfl rfl, fun y hy => ⟨y, hy, rfl, rfl, .inl rfl⟩, fun _ h => h, fun y hy => ⟨y, hy, rfl, .inl ⟨rfl, rfl⟩⟩,
      fun v hv => (List.mem_filter.1 hv).1, id⟩
  exact ((hrun.trans (hfilter _ _)).trans (endLaunch_givenUp ..)).trans (discardGangs_givenUp ..)

/-- With no re-execution to come, nothing is left of cancelled attempts, and none is made. -/
theorem drained_nil {s : State} (hr : s.checker.rerun = []) : s.drained = [] := by
  have hnone : s.launches.filter (fun l => s.awaitsRerun l.id && (s.gangsOf l.id).isEmpty) = [] := by
    refine List.filter_eq_nil_iff.2 (fun l _ => ?_)
    unfold State.awaitsRerun
    rw [hr]
    exact Bool.false_ne_true
  unfold State.drained
  rw [hnone]
  rfl

theorem rerunReady_nil {s : State} (hr : s.checker.rerun = []) : s.rerunReady s.checker.rerun = s := by
  have hchecker : ({ s.checker with rerun := [] } : Checker) = s.checker := by
    calc ({ s.checker with rerun := [] } : Checker) = { s.checker with rerun := s.checker.rerun } := by rw [hr]
      _ = s.checker := rfl
  rw [hr]
  show ({ s with checker := { s.checker with rerun := [] } } : State) = s
  rw [hchecker]

theorem workOff_nil (s : State) (n : Nat) : s.workOff n [] = s := by
  cases n with
  | zero => rfl
  | succ n => rfl

/-- With nothing to discard or to run again and no version that may fire, versions settle by the runs that are given up alone. -/
theorem settle_nil {s : State} (hr : s.checker.rerun = []) (hr' : s.giveUpRuns.checker.rerun = []) (hf : s.giveUpRuns.versions.find? s.giveUpRuns.mayFire = none) :
    s.settle [] = s.giveUpRuns.sweep := by
  unfold State.settle
  dsimp only
  rw [workOff_nil, drained_nil hr, workOff_nil]
  have hfire (n : Nat) : s.giveUpRuns.fireAll (n + 1) = s.giveUpRuns := by
    unfold State.fireAll
    rw [hf]
  rw [hfire, rerunReady_nil hr']

theorem settle_givenUp {s : State} (hv : s.versions = []) (hr : s.checker.rerun = []) : GivenUp s (s.settle []) := by
  have hgive : GivenUp s s.giveUpRuns := dropRuns_givenUp ..
  have hnone : s.giveUpRuns.versions = [] := List.eq_nil_iff_forall_not_mem.2 (fun v hm => by
    have := hgive.versions v hm
    rw [hv] at this
    exact List.not_mem_nil this)
  rw [settle_nil hr (hgive.rerun hr) (by rw [hnone]; rfl)]
  exact hgive.trans (sweep_givenUp _)

/-! The cancel. -/

/-- A cancelled launch ends, with no version left. -/
theorem finishLaunch_givenUp {s : State} {id : Nat} {l : Launch} (hl : s.launch? id = some l) (hreal : l.shadowOf = none) (hbad : l.bad = some (4, 0))
    (hv : s.versions = []) (hr : s.checker.rerun = []) : GivenUp s (s.finishLaunch id) := by
  have hreal' : l.real = true := by
    unfold Launch.real
    rw [hreal]
    rfl
  have hend : GivenUp s ((s.modLaunch id (fun x => { x with sum := digest (s.held l) })).endLaunch l (some (4, 0))) :=
    (modLaunch_givenUp s id (f := fun x => { x with sum := digest (s.held l) }) (fun _ => ⟨rfl, .inl ⟨rfl, rfl⟩⟩)).trans (endLaunch_givenUp ..)
  unfold State.finishLaunch
  simp only [hl, hbad, hreal', Bool.not_true, Bool.false_eq_true, if_false]
  generalize (s.modLaunch id (fun x => { x with sum := digest (s.held l) })).endLaunch l (some (4, 0)) = u at hend
  have hnone : u.versions = [] := List.eq_nil_iff_forall_not_mem.2 (fun v hm => by
    have := hend.versions v hm
    rw [hv] at this
    exact List.not_mem_nil this)
  have hlost : u.lost l = [] := by
    unfold State.lost State.held
    rw [hnone]
    rfl
  rw [hlost]
  exact hend.trans (settle_givenUp hnone (hend.rerun hr))

section
variable {s : State} {id : Nat} {l : Launch} (hl : s.launch? id = some l) (hreal : l.shadowOf = none) (hr : s.checker.rerun = [])
include hl hreal hr

omit hr in
theorem driverCancel_next : exec (.driverCancel id) s = .next (s.cancelLaunch id).progress := by
  have hgo : ((s.launch? id).map Launch.real == some true) = true := by
    rw [hl, Option.map_some]
    unfold Launch.real
    rw [hreal]
    rfl
  show execDriverCancel id s = _
  unfold execDriverCancel event
  exact if_pos hgo

omit hreal in
theorem cancelLaunch_ended (hend : l.status = .ended) : s.cancelLaunch id = s := by
  have hno : (l.status == .ended && !s.awaitsRerun id) = true := by
    unfold State.awaitsRerun
    rw [hr, beq_iff_eq.2 hend]
    rfl
  unfold State.cancelLaunch
  simp only [hl, hno, if_true]

/-- What the cancel of a launch that has not ended leaves of its gangs, their engine operations and itself. -/
theorem cancelLaunch_spec (hv : s.versions = []) (hend : l.status ≠ .ended) : SameMemory s (s.cancelLaunch id) ∧
    (∀ y ∈ (s.cancelLaunch id).gangs, y.launch = id → y.status = .discarding) ∧
    (∀ o ∈ (s.cancelLaunch id).engines, ∀ x ∈ s.gangs, x.launch = id → o.gang ≠ x.id) ∧
    ∀ y, (s.cancelLaunch id).launch? id = some y → y.cancelled = true ∧ y.bad = some (4, 0) := by
  have hid : l.id = id := beq_iff_eq.1 (List.find?_some (p := fun (x : Launch) => x.id == id) hl)
  have hnot : (l.status == .ended) = false := beq_eq_false_iff_ne.2 hend
  -- the launch is marked, and its gangs discard
  set u : State := (State.unqueue { s with checker := { s.checker with rerun := s.checker.rerun.filter (fun x => !(x.1 == id)) } } l).modLaunch id
    (fun l => { l with cancelled := true, bad := some (4, 0) }) with hu
  obtain ⟨worlds, iod, hq, hlines⟩ := State.unqueue_counted
    { s with checker := { s.checker with rerun := s.checker.rerun.filter (fun x => !(x.1 == id)) } } l
  have hmem : SameMemory s u := by
    rw [hu, hq]
    exact sameMemory_of rfl hlines
  have hgangs : u.gangs = s.gangs := by
    rw [hu, hq]
    rfl
  have huv : u.versions = [] := by
    rw [hu, hq]
    exact hv
  have hur : u.checker.rerun = [] := by
    rw [hu, hq]
    show s.checker.rerun.filter _ = []
    rw [hr]
    rfl
  have hmarked : ∀ y ∈ u.launches, y.id = id → y.cancelled = true ∧ y.bad = some (4, 0) := by
    intro y hy hyid
    rw [hu] at hy
    obtain ⟨z, -, rfl⟩ := List.mem_map.1 hy
    split at hyid
    next hz =>
      rw [if_pos hz]
      exact ⟨rfl, rfl⟩
    next hz => exact absurd (beq_iff_eq.2 hyid) hz
  have hlaunch : u.launch? id = some { l with cancelled := true, bad := some (4, 0) } := by
    rw [hu, hq]
    refine (State.launch?_modLaunch _ id (fun l => { l with cancelled := true, bad := some (4, 0) }) (fun _ => rfl)).trans ?_
    exact congrArg (Option.map _) hl
  have hcancel : s.cancelLaunch id = (u.discardGangs id).tryFinish id := by
    unfold State.cancelLaunch
    simp only [hl, hnot, Bool.false_and, Bool.false_eq_true, if_false]
    rfl
  obtain ⟨hdiscard, hgone⟩ := discardGangs_mark u id
  have hgiven := discardGangs_givenUp u id
  have hlaunch' := discardGangs_launches u id
  generalize u.discardGangs id = v at hcancel hdiscard hgone hgiven hlaunch'
  have hfin : GivenUp v (v.tryFinish id) := by
    have hvv : v.versions = [] := List.eq_nil_iff_forall_not_mem.2 (fun x hx => by
      have := hgiven.versions x hx
      rw [huv] at this
      exact List.not_mem_nil this)
    have hvr := hgiven.rerun hur
    have hawaits : v.awaitsRerun id = false := by
      unfold State.awaitsRerun
      rw [hvr]
      rfl
    have hlaunch'' : v.launch? id = some { l with cancelled := true, bad := some (4, 0) } :=
      (congrArg (List.find? (fun x : Launch => x.id == id)) hlaunch').trans hlaunch
    unfold State.tryFinish
    simp only [hlaunch'', hawaits, hnot, Bool.or_true, Bool.and_true, Bool.false_eq_true, if_false]
    split
    · exact finishLaunch_givenUp hlaunch'' hreal rfl hvv hvr
    · exact .refl v
  have hall := hgiven.trans hfin
  rw [hcancel]
  refine ⟨hmem.trans hall.memory, fun y hy hyl => ?_, fun o ho x hx hxl => ?_, fun y hy => ?_⟩
  · obtain ⟨x, hx, -, hl', hst⟩ := hfin.gangs y hy
    rcases hst with hst | hst
    · exact hst.trans (hdiscard x hx (hl'.symm.trans hyl))
    · exact hst
  · exact hgone o (hfin.engines o ho) x (hgangs ▸ hx) hxl
  · have hyid : y.id = id := beq_iff_eq.1 (List.find?_some (p := fun (x : Launch) => x.id == id) hy)
    obtain ⟨x, hx, hid', hc⟩ := hall.launches y (List.mem_of_find?_eq_some hy)
    rcases hc with ⟨hc, hb⟩ | hc
    · obtain ⟨hc', hb'⟩ := hmarked x hx (hid'.symm.trans hyid)
      exact ⟨hc.trans hc', hb.trans hb'⟩
    · exact hc

end

end Sys2Proof.Machine
end

section
/-! What the end of a launch counts (spec 10, R265). -/

namespace Sys2Proof.Machine

/-! Counters that are kept. -/

/-- Every world's counters, and the ends they have counted, are as before. -/
def Tallied (s t : State) : Prop := ∀ j, (t.world? j).map (fun w => (w.ctrs, w.ends)) = (s.world? j).map (fun w => (w.ctrs, w.ends))

theorem Tallied.refl (s : State) : Tallied s s := fun _ => rfl

theorem Tallied.trans {s t u : State} (h : Tallied s t) (h' : Tallied t u) : Tallied s u := fun j => (h' j).trans (h j)

theorem Tallied.foldl {α : Type} {f : State → α → State} (hf : ∀ s x, Tallied s (f s x)) (l : List α) (s : State) : Tallied s (l.foldl f s) := by
  induction l generalizing s with
  | nil => exact .refl s
  | cons x l ih => exact (hf s x).trans (ih _)

theorem Tallied.of_worlds {s t : State} (h : t.worlds = s.worlds) : Tallied s t := fun j => by
  rw [State.world?_congr h]

theorem Tallied.modWorld (s : State) (world : Nat) (f : World → World) (hf : ∀ w, (f w).ctrs = w.ctrs ∧ (f w).ends = w.ends) :
    Tallied s (s.modWorld world f) := by
  intro j
  rw [State.world?_modWorld]
  split
  · rw [Option.map_map]
    refine congrArg (Option.map · (s.world? j)) (funext fun w => ?_)
    rw [Function.comp_apply, (hf w).1, (hf w).2]
  · rfl

theorem Tallied.ctr {s t : State} (h : Tallied s t) (j n : Nat) : t.ctr j n = s.ctr j n := by
  refine State.ctr_of_ctrs ?_ n
  have hj := congrArg (Option.map Prod.fst) (h j)
  rw [Option.map_map, Option.map_map] at hj
  exact hj

/-- The ends that are counted read as before where their world has them as before. -/
theorem State.ctrEnd_of_ends {s t : State} {j : Nat} (h : (t.world? j).map World.ends = (s.world? j).map World.ends) (n : Nat) :
    t.ctrEnd j n = s.ctrEnd j n := by
  unfold State.ctrEnd
  cases ht : t.world? j with
  | none =>
    rw [ht] at h
    rw [Option.map_eq_none_iff.1 h.symm]
  | some w' =>
    rw [ht] at h
    obtain ⟨w, hw, hc⟩ := Option.map_eq_some_iff.1 h.symm
    rw [hw]
    dsimp only
    rw [hc]

theorem Tallied.ctrEnd {s t : State} (h : Tallied s t) (j n : Nat) : t.ctrEnd j n = s.ctrEnd j n := by
  refine State.ctrEnd_of_ends ?_ n
  have hj := congrArg (Option.map Prod.snd) (h j)
  rw [Option.map_map, Option.map_map] at hj
  exact hj

theorem State.unqueue_tallied (s : State) (l : Launch) : Tallied s (s.unqueue l) :=
  .modWorld s l.world (fun w => { w with queues := w.queues.map (fun q => { q with order := q.order.filter (fun i => !(i == l.id)) }) })
    (fun _ => ⟨rfl, rfl⟩)

theorem State.addScope_tallied (s : State) (world id scope : Nat) : Tallied s (s.addScope world id scope) :=
  .modWorld s world (fun w => { w with scopes := tabSet 0 id (max scope (tabGet 0 id w.scopes)) w.scopes }) (fun _ => ⟨rfl, rfl⟩)

theorem State.dropReceives_tallied (s : State) (world wg : Nat) : Tallied s (s.dropReceives world wg) := by
  refine Tallied.trans ?_ (.modWorld _ world (fun w => { w with posted := w.posted.filter (fun r => !(r.wg == wg && r.over)) }) (fun _ => ⟨rfl, rfl⟩))
  unfold State.cancelPosted
  split
  · exact .refl s
  next w hw =>
    obtain ⟨locks, h⟩ := foldl_unlock (w.postedList.filter (fun r => r.wg == wg)) s
    refine Tallied.trans ?_ (.modWorld _ world (fun w => { w with
      posted := mapIf (fun r => r.status == .posted && r.wg == wg) (fun r => { r with status := .cancelled }) w.posted }) (fun _ => ⟨rfl, rfl⟩))
    rw [h]
    exact .of_worlds rfl

theorem State.endWorkgroup_tallied (s : State) (w : Workgroup) : Tallied s (s.endWorkgroup w) :=
  (s.dropReceives_tallied (s.worldOfWg w.id) w.id).trans (.of_worlds rfl)

theorem State.removeGang_tallied (s : State) (g : Gang) : Tallied s (s.removeGang g) :=
  (Tallied.foldl State.endWorkgroup_tallied _ s).trans (.of_worlds rfl)

/-! An entry is written. -/

theorem State.putCtr_ctr_ne {s : State} {world id n : Nat} (h : n ≠ id) (c : Ctr) : (s.putCtr world id c).ctr world n = s.ctr world n := by
  by_cases hid : id < 4096
  · cases hw : s.world? world with
    | some w => exact ((putCtr_spec hw hid c).2.2 n).trans (if_neg h)
    | none =>
      have hnone : (s.putCtr world id c).world? world = none := by
        unfold State.putCtr
        rw [if_pos hid]
        obtain ⟨_, _, _, -, -, hworld⟩ := (s.modWorld world (fun w => { w with ctrs := tabSet 0 id c.bits w.ctrs })).notifyMet_notified world
        obtain ⟨notify, hn⟩ := hworld world
        rw [hn, State.world?_modWorld, if_pos rfl, hw]
        rfl
      unfold State.ctr
      rw [hnone, hw]
  · unfold State.putCtr
    rw [if_neg hid]

theorem State.putCtr_ctrEnd (s : State) (world id : Nat) (c : Ctr) (n : Nat) : (s.putCtr world id c).ctrEnd world n = s.ctrEnd world n := by
  unfold State.putCtr
  split
  · obtain ⟨_, _, _, -, -, hworld⟩ := (s.modWorld world (fun w => { w with ctrs := tabSet 0 id c.bits w.ctrs })).notifyMet_notified world
    obtain ⟨notify, hn⟩ := hworld world
    refine State.ctrEnd_of_ends ?_ n
    rw [hn, State.world?_modWorld, if_pos rfl, Option.map_map, Option.map_map]
    rfl
  · rfl

/-- An entry whose status is not 0 is one of a world that is there. -/
theorem State.world_of_ctr {s : State} {world id : Nat} (h : (s.ctr world id).status ≠ 0) : ∃ w, s.world? world = some w := by
  cases hw : s.world? world with
  | some w => exact ⟨w, rfl⟩
  | none =>
    unfold State.ctr at h
    rw [hw] at h
    exact absurd (show (ctrOf 0).status = 0 by decide) h

/-- The fields of an entry are within their widths. -/
theorem State.ctr_bounds (s : State) (world id : Nat) : (s.ctr world id).target < 2 ^ 32 ∧ (s.ctr world id).count < 2 ^ 32 ∧
    (s.ctr world id).status < 16 ∧ (s.ctr world id).code < 256 ∧ (s.ctr world id).level < 16 := by
  have hof (x : BitVec 128) : (ctrOf x).target < 2 ^ 32 ∧ (ctrOf x).count < 2 ^ 32 ∧ (ctrOf x).status < 16 ∧ (ctrOf x).code < 256 ∧
      (ctrOf x).level < 16 := ⟨BitVec.isLt _, BitVec.isLt _, BitVec.isLt _, BitVec.isLt _, BitVec.isLt _⟩
  unfold State.ctr
  split
  · split
    · exact hof _
    · exact hof _
  · exact hof _

/-- An end is counted in its entry. -/
def State.tallied (s : State) (world id scope : Nat) (c : Ctr) (e : CtrEnd) : State :=
  ((s.addScope world id scope).putCtr world id c).setEnd world id e

theorem State.setEnd_ctr (s : State) (world id : Nat) (e : CtrEnd) (n : Nat) : (s.setEnd world id e).ctr world n = s.ctr world n :=
  s.ctr_modWorld world (fun w => { w with ends := tabSet CtrEnd.new id e w.ends }) (fun _ => rfl) world n

theorem State.tallied_ctr_ne {s : State} {world id n : Nat} (h : n ≠ id) (scope : Nat) (c : Ctr) (e : CtrEnd) :
    (s.tallied world id scope c e).ctr world n = s.ctr world n :=
  (State.setEnd_ctr ..).trans ((State.putCtr_ctr_ne h c).trans ((s.addScope_tallied world id scope).ctr world n))

theorem State.tallied_ctr_same {s : State} {world id : Nat} {w : World} (hw : s.world? world = some w) (hid : id < 4096) (scope : Nat) (c : Ctr)
    (e : CtrEnd) : (s.tallied world id scope c e).ctr world id = ctrOf c.bits := by
  have hw' : (s.addScope world id scope).world? world = some _ :=
    State.world?_modWorld_of hw (fun w => { w with scopes := tabSet 0 id (max scope (tabGet 0 id w.scopes)) w.scopes })
  exact (State.setEnd_ctr ..).trans (((putCtr_spec hw' hid c).2.2 id).trans (if_pos rfl))

theorem State.tallied_ctrEnd_ne {s : State} {world id n : Nat} (h : n ≠ id) (scope : Nat) (c : Ctr) (e : CtrEnd) :
    (s.tallied world id scope c e).ctrEnd world n = s.ctrEnd world n := by
  refine Eq.trans ?_ ((State.putCtr_ctrEnd _ world id c n).trans ((s.addScope_tallied world id scope).ctrEnd world n))
  unfold State.tallied State.setEnd State.ctrEnd
  rw [State.world?_modWorld, if_pos rfl]
  cases ((s.addScope world id scope).putCtr world id c).world? world with
  | none => rfl
  | some w =>
    show tabGet CtrEnd.new n (tabSet CtrEnd.new id e w.ends) = _
    rw [tabGet_tabSet, if_neg h]

/-! An end is carried up. -/

/-- An entry of a level that the end is not carried to is as before. -/
theorem State.carry_ctr_of_level {above : List (Nat × Nat)} {world scope n : Nat} {s : State} (bad : Option (BitVec 4 × BitVec 8))
    (h : ∀ x ∈ above, (s.ctr world n).level ≠ x.1) : (s.carry world scope bad above).ctr world n = s.ctr world n := by
  induction above generalizing s bad with
  | nil => rfl
  | cons x above ih =>
    obtain ⟨level, id⟩ := x
    have hrest := fun x hx => h x (List.mem_cons_of_mem _ hx)
    have hlevel : (s.ctr world n).level ≠ level := h (level, id) List.mem_cons_self
    unfold State.carry
    split
    · exact ih bad hrest
    · dsimp only
      split
      · rfl
      next hc =>
        have hne : n ≠ id := by
          rintro rfl
          simp only [Bool.or_eq_true, bne_iff_ne, ne_eq, not_or, Decidable.not_not] at hc
          exact hlevel hc.2
        split
        · refine (ih _ (fun x hx => ?_)).trans ?_
          · exact (congrArg Ctr.level (State.tallied_ctr_ne hne ..)).trans_ne (hrest x hx)
          · exact State.tallied_ctr_ne hne ..
        · exact State.tallied_ctr_ne hne ..

/-- An entry that has counted one more end. -/
def Ctr.counting (c : Ctr) : Ctr :=
  if c.count + 1 = c.target then { c with count := c.count + 1, status := 3, code := 0 } else { c with count := c.count + 1 }

/-- A complete end is counted in the first entry above it. -/
theorem State.carry_ctr_first {s : State} {world scope level id : Nat} {above : List (Nat × Nat)} (hid : id < 4096)
    (hst : (s.ctr world id).status ≠ 0) (hlevel : (s.ctr world id).level = level) (hover : (s.ctr world id).over = false)
    (hcount : (s.ctr world id).count + 1 < 2 ^ 32) (hend : s.ctrEnd world id = CtrEnd.new) (habove : ∀ x ∈ above, level ≠ x.1) :
    (s.carry world scope none ((level, id) :: above)).ctr world id = (s.ctr world id).counting := by
  obtain ⟨w, hw⟩ := State.world_of_ctr hst
  obtain ⟨htarget, -, hstatus, hcode, hlev⟩ := s.ctr_bounds world id
  unfold Ctr.counting
  generalize hc : s.ctr world id = c at *
  have hid' : ¬ (id == 0xFFFF) = true := by
    rw [beq_iff_eq]
    omega
  have hfree : ¬ (c.free || c.level != level) = true := by
    unfold Ctr.free
    rw [hlevel, bne_self_eq_false, Bool.or_false, beq_iff_eq]
    exact hst
  unfold State.carry
  dsimp only
  rw [if_neg hid', hc, if_neg hfree, hend]
  have hgo (b : Bool) : (!({ c with count := c.count + 1 } : Ctr).over && (c.count + 1 == c.target || (CtrEnd.new.whole && b))) =
      decide (c.count + 1 = c.target) := by
    rw [show ({ c with count := c.count + 1 } : Ctr).over = c.over from rfl, hover, show CtrEnd.new.whole = false from rfl, Bool.false_and,
      Bool.or_false]
    rfl
  rw [hgo]
  by_cases hfull : c.count + 1 = c.target
  · have hbits : ctrOf (Ctr.endAs { c with count := c.count + 1 } none).bits = { c with count := c.count + 1, status := 3, code := 0 } :=
      ctrOf_bits_of htarget hcount (show 3 < 16 by decide) (show 0 < 256 by decide) hlev
    have hsame := (State.tallied_ctr_same hw hid scope (Ctr.endAs { c with count := c.count + 1 } none) CtrEnd.new).trans hbits
    rw [decide_eq_true hfull, if_pos rfl, if_pos hfull]
    refine (State.carry_ctr_of_level _ (fun x hx => ?_)).trans hsame
    exact (congrArg Ctr.level hsame).trans_ne (hlevel.trans_ne (habove x hx))
  · rw [decide_eq_false hfull, if_neg Bool.false_ne_true, if_neg hfull]
    exact (State.tallied_ctr_same hw hid scope { c with count := c.count + 1 } _).trans (ctrOf_bits_of htarget hcount hstatus hcode hlev)

end Sys2Proof.Machine
end

section
/-! A launch ends (spec 10, R265; 15, R348, R353). -/

namespace Sys2Proof.Machine

/-! The end of a launch. -/

/-- What the end of a launch counts: its entry is complete, and the one above it counts the end. -/
structure EndCounted (s t : State) (l : Launch) : Prop where
  entry : t.ctr l.world l.lctr = { s.ctr l.world l.lctr with status := 3, code := 0 }
  above : l.gctr < 4096 → (s.ctr l.world l.gctr).status ≠ 0 → (s.ctr l.world l.gctr).level = 2 → (s.ctr l.world l.gctr).over = false →
    (s.ctr l.world l.gctr).count + 1 < 2 ^ 32 → s.ctrEnd l.world l.gctr = CtrEnd.new → t.ctr l.world l.gctr = (s.ctr l.world l.gctr).counting

/-- A launch as it has ended. -/
def Launch.ending (l : Launch) : Launch := { l with status := .ended, bad := none, counted := true, cancelled := true }

/-- The end of a launch that no one has cancelled. -/
theorem endLaunch_spec {s : State} {l : Launch} (hreal : l.shadowOf = none) (hcounted : l.counted = false) (hid : l.lctr < 4096)
    (hlevel : (s.ctr l.world l.lctr).level = 1) : EndCounted s (s.endLaunch l none) l ∧
    ∃ worlds iod, s.endLaunch l none = { s with worlds, iod, launches := mapIf (·.id == l.id) Launch.ending s.launches } ∧
      iod.hostLines = s.iod.hostLines := by
  obtain ⟨w, hw⟩ : ∃ w, s.world? l.world = some w := by
    cases hw : s.world? l.world with
    | some w => exact ⟨w, rfl⟩
    | none =>
      unfold State.ctr at hlevel
      rw [hw] at hlevel
      exact absurd hlevel (show (ctrOf 0).level ≠ 1 by decide)
  obtain ⟨htarget, hcount, -, -, hlev⟩ := s.ctr_bounds l.world l.lctr
  -- the launch has left its queue and is marked
  have htal : Tallied s ((s.unqueue l).modLaunch l.id Launch.ending) := (s.unqueue_tallied l).trans (.of_worlds rfl)
  have hctr := htal.ctr l.world
  have hends := htal.ctrEnd l.world
  obtain ⟨worlds, iod, hq, hlines⟩ := s.unqueue_counted l
  have hu : (s.unqueue l).modLaunch l.id Launch.ending = { s with worlds, iod, launches := mapIf (·.id == l.id) Launch.ending s.launches } := by
    rw [hq]
    rfl
  obtain ⟨w₁, hw₁⟩ : ∃ w₁, ((s.unqueue l).modLaunch l.id Launch.ending).world? l.world = some w₁ :=
    ⟨_, State.world?_modWorld_of hw (fun w => { w with queues := w.queues.map (fun q => { q with order := q.order.filter (fun i => !(i == l.id)) }) })⟩
  have hend : s.endLaunch l none = (((s.unqueue l).modLaunch l.id Launch.ending).tallied l.world l.lctr l.cscope
      ((s.ctr l.world l.lctr).endAs none) CtrEnd.new).carry l.world l.cscope none l.above := by
    unfold State.endLaunch
    have hreal' : (!l.real) = false := by
      unfold Launch.real
      rw [hreal]
      rfl
    have hone : (((s.unqueue l).modLaunch l.id Launch.ending).ctr l.world l.lctr).level == 1 := by
      rw [hctr, hlevel]
      rfl
    dsimp only
    rw [hreal', if_neg Bool.false_ne_true, hcounted, if_neg Bool.false_ne_true]
    refine congrArg (fun v : State => v.carry l.world l.cscope none l.above) ?_
    refine (if_pos hone).trans ?_
    rw [← hctr l.lctr]
    rfl
  generalize (s.unqueue l).modLaunch l.id Launch.ending = u at hu hctr hends hw₁ hend
  have hbits : ctrOf ((s.ctr l.world l.lctr).endAs none).bits = { s.ctr l.world l.lctr with status := 3, code := 0 } :=
    ctrOf_bits_of htarget hcount (show 3 < 16 by decide) (show 0 < 256 by decide) hlev
  have hsame := (State.tallied_ctr_same hw₁ hid l.cscope ((s.ctr l.world l.lctr).endAs none) CtrEnd.new).trans hbits
  refine ⟨⟨?_, fun hg hst hl2 hover hc hnew => ?_⟩, ?_⟩
  · rw [hend]
    refine (State.carry_ctr_of_level _ (fun x hx => ?_)).trans hsame
    refine (congrArg Ctr.level hsame).trans_ne (hlevel.trans_ne ?_)
    unfold Launch.above at hx
    simp only [List.mem_cons, List.not_mem_nil, or_false] at hx
    rcases hx with rfl | rfl | rfl <;> simp
  · have hne : l.gctr ≠ l.lctr := fun hc => by
      rw [hc, hlevel] at hl2
      cases hl2
    have hkept := (State.tallied_ctr_ne hne l.cscope ((s.ctr l.world l.lctr).endAs none) CtrEnd.new).trans (hctr l.gctr)
    have hkeptEnd := (State.tallied_ctrEnd_ne hne l.cscope ((s.ctr l.world l.lctr).endAs none) CtrEnd.new).trans (hends l.gctr)
    rw [hend, ← hkept]
    rw [← hkept] at hst hl2 hover hc
    refine State.carry_ctr_first hg hst hl2 hover hc (hkeptEnd.trans hnew) (fun x hx => ?_)
    simp only [List.mem_cons, List.not_mem_nil, or_false] at hx
    rcases hx with rfl | rfl <;> simp
  · rw [hend]
    have hcounts : Counted u ((u.tallied l.world l.lctr l.cscope ((s.ctr l.world l.lctr).endAs none) CtrEnd.new).carry l.world l.cscope none l.above) :=
      (((State.addScope_counted ..).trans (State.putCtr_counted ..)).trans (State.setEnd_counted ..)).trans (State.carry_counted ..)
    obtain ⟨worlds', iod', hv, hlines'⟩ := hcounts
    rw [hv, hu]
    rw [hu] at hlines'
    exact ⟨worlds', iod', rfl, hlines'.trans hlines⟩

/-! Nothing is left to settle. -/

/-- No attempt is to be made again, no launch is a shadow run, and no version waits to fire. -/
structure Settled (s : State) : Prop where
  rerun : s.checker.rerun = []
  real : ∀ y ∈ s.launches, y.shadowOf = none
  fired : ∀ v ∈ s.versions, v.state ≠ .waitingV

theorem Settled.settle {s : State} (h : Settled s) : s.settle [] = s.sweep := by
  have hgive : s.giveUpRuns = s := by
    have hnone (p : Launch → Bool) : s.launches.filter (fun x => x.shadowOf.isSome && x.run != 0 && p x) = [] := by
      refine List.filter_eq_nil_iff.2 (fun x hx => ?_)
      rw [h.real x hx]
      exact Bool.false_ne_true
    unfold State.giveUpRuns State.dropRuns
    rw [hnone]
    rfl
  have hfire : s.versions.find? s.mayFire = none := by
    refine List.find?_eq_none.2 (fun v hv => ?_)
    unfold State.mayFire
    rw [Bool.and_eq_true, not_and_or, List.all_eq_true]
    refine .inr (fun hall => ?_)
    have hv' := hall v (List.mem_filter.2 ⟨hv, beq_iff_eq.2 rfl⟩)
    simp only [Bool.and_eq_true, beq_iff_eq] at hv'
    exact h.fired v hv hv'.1.1
  rw [settle_nil h.rerun (by rw [hgive]; exact h.rerun) (by rw [hgive]; exact hfire), hgive]

/-! A launch is finished. -/

/-- A change of some launches that keeps what they are runs of. -/
theorem real_mapIf {ls : List Launch} {p : Launch → Bool} {f : Launch → Launch} (hf : ∀ x, (f x).shadowOf = x.shadowOf)
    (h : ∀ y ∈ ls, y.shadowOf = none) : ∀ y ∈ mapIf p f ls, y.shadowOf = none := by
  intro y hy
  obtain ⟨x, hx, rfl⟩ := List.mem_map.1 hy
  split
  · exact (hf x).trans (h x hx)
  · exact h x hx

theorem ending_launches {ls : List Launch} {id : Nat} (h : ∀ y ∈ ls, y.shadowOf = none) :
    ∀ y ∈ mapIf (·.id == id) Launch.ending ls, y.shadowOf = none ∧ (y.id = id → y.status = .ended) := by
  intro y hy
  refine ⟨real_mapIf (f := Launch.ending) (fun _ => rfl) h y hy, fun hid => ?_⟩
  obtain ⟨x, -, rfl⟩ := List.mem_map.1 hy
  split at hid
  next hc =>
    rw [if_pos hc]
    rfl
  next hc => exact absurd (beq_iff_eq.2 hid) hc

/-- A version of a launch whose gangs have ended goes to its test. -/
def State.toTest (s : State) (v : Version) : Version :=
  { v with state := .testing, dual := v.dual || false, passedTest := false && !s.checker.subs.any (fun r => r.world == v.world && r.body.version == v.num) }

/-- What a launch's finish leaves. -/
structure Finished (s t : State) (l : Launch) : Prop where
  counted : EndCounted s t l
  memory : SameMemory s t
  gangs : t.gangs = s.gangs
  threads : t.threads = s.threads
  launches : ∀ y ∈ t.launches, y.id = l.id → y.status = .ended
  versions : ∀ v ∈ s.versions, ∃ v' ∈ t.versions, v'.id = v.id ∧ v'.num = v.num ∧ v'.words = v.words ∧
    v'.state = if v.launch = l.id ∧ v.state = .openV then .testing else v.state

theorem finishLaunch_spec {s : State} {id : Nat} {l : Launch} (hl : s.launch? id = some l) (hs : Settled s) (hreal : l.shadowOf = none)
    (hkind : l.wkind ≠ 3) (hbad : l.bad = none) (hcounted : l.counted = false) (hlctr : l.lctr < 4096)
    (hlevel : (s.ctr l.world l.lctr).level = 1) : Finished s (s.finishLaunch id) l := by
  have hid : l.id = id := beq_iff_eq.1 (List.find?_some (p := fun (x : Launch) => x.id == id) hl)
  have hreal' : l.real = true := by
    unfold Launch.real
    rw [hreal]
    rfl
  have hdual : (l.wkind == 3) = false := beq_eq_false_iff_ne.2 hkind
  have htal : Tallied s (s.modLaunch id (fun x => { x with sum := digest (s.held l) })) := .of_worlds rfl
  obtain ⟨⟨hentry, habove⟩, worlds, iod, hend, hlines⟩ := endLaunch_spec (s := s.modLaunch id (fun x => { x with sum := digest (s.held l) }))
    hreal hcounted hlctr ((congrArg Ctr.level (htal.ctr ..)).trans hlevel)
  simp only [htal.ctr, htal.ctrEnd] at hentry habove
  have hlaunches : ∀ y ∈ mapIf (·.id == l.id) Launch.ending (s.modLaunch id (fun x => { x with sum := digest (s.held l) })).launches,
      y.shadowOf = none ∧ (y.id = l.id → y.status = .ended) := by
    exact ending_launches (real_mapIf (f := fun x => { x with sum := digest (s.held l) }) (fun _ => rfl) hs.real)
  set u := (s.modLaunch id (fun x => { x with sum := digest (s.held l) })).endLaunch l none with hu
  set t : State := { u with versions := mapIf (fun v => v.launch == id && v.state == VState.openV) u.toTest u.versions } with ht
  have hversions (v : Version) (hv : v ∈ s.versions) : ∃ v' ∈ t.versions, v'.id = v.id ∧ v'.num = v.num ∧ v'.words = v.words ∧
      v'.state = if v.launch = l.id ∧ v.state = .openV then .testing else v.state := by
    have hv' : v ∈ u.versions := by
      rw [hend]
      exact hv
    refine ⟨_, List.mem_map.2 ⟨v, hv', rfl⟩, ?_⟩
    by_cases hc : v.launch = l.id ∧ v.state = .openV
    · have hc' : (v.launch == id && v.state == VState.openV) = true := by
        rw [Bool.and_eq_true, beq_iff_eq, beq_iff_eq, ← hid]
        exact hc
      rw [if_pos hc', if_pos hc]
      exact ⟨rfl, rfl, rfl, rfl⟩
    · have hc' : ¬ (v.launch == id && v.state == VState.openV) = true := by
        rw [Bool.and_eq_true, beq_iff_eq, beq_iff_eq, ← hid]
        exact hc
      rw [if_neg hc', if_neg hc]
      exact ⟨rfl, rfl, rfl, rfl⟩
  have hsettled : Settled t := by
    refine ⟨?_, fun y hy => ?_, fun v hv => ?_⟩
    · rw [ht, hend]
      exact hs.rerun
    · rw [ht, hend] at hy
      exact (hlaunches y hy).1
    · obtain ⟨x, hx, rfl⟩ := List.mem_map.1 hv
      rw [hend] at hx
      split
      · exact VState.noConfusion
      · exact hs.fired x hx
  have hfin : s.finishLaunch id = t.sweep := by
    rw [← hsettled.settle]
    unfold State.finishLaunch
    simp only [hl, hbad, hreal', hdual, Bool.not_true, Bool.false_and, Bool.false_eq_true, if_false]
    rfl
  rw [hfin]
  have htw : t.sweep.worlds = u.worlds := rfl
  refine ⟨⟨?_, fun h₁ h₂ h₃ h₄ h₅ h₆ => ?_⟩, ?_, ?_, ?_, fun y hy => ?_, hversions⟩
  · exact ((Tallied.of_worlds htw).ctr ..).trans hentry
  · exact ((Tallied.of_worlds htw).ctr ..).trans (habove h₁ h₂ h₃ h₄ h₅ h₆)
  · unfold State.sweep
    rw [ht, hend]
    exact sameMemory_of rfl hlines
  · unfold State.sweep
    rw [ht, hend]
    rfl
  · unfold State.sweep
    rw [ht, hend]
    rfl
  · have hy' := (List.mem_filter.1 hy).1
    rw [ht, hend] at hy'
    exact (hlaunches y hy').2

end Sys2Proof.Machine
end

section
/-! Launches end with their last gang, or with none to place (spec 10, R264, R265, R270). -/

namespace Sys2Proof.Machine

/-! A launch starts. -/

/-- An entry that waits runs, where it is of its level. -/
def State.runCtr (s : State) (world : Nat) (x : Nat × Nat) : State :=
  if (s.ctr world x.2).status == 1 && (s.ctr world x.2).level == x.1 then s.putCtr world x.2 { s.ctr world x.2 with status := 2 } else s

theorem State.runCtr_ctrEnd (s : State) (world : Nat) (x : Nat × Nat) (n : Nat) : (s.runCtr world x).ctrEnd world n = s.ctrEnd world n := by
  unfold State.runCtr
  split
  · exact State.putCtr_ctrEnd ..
  · rfl

/-- An entry of another level is as before. -/
theorem State.runCtr_ctr_of_level {s : State} {world n : Nat} {x : Nat × Nat} (h : (s.ctr world n).level ≠ x.1) :
    (s.runCtr world x).ctr world n = s.ctr world n := by
  unfold State.runCtr
  split
  next hc =>
    refine State.putCtr_ctr_ne (fun hn => ?_) _
    rw [Bool.and_eq_true, beq_iff_eq (b := x.1)] at hc
    exact h (hn ▸ hc.2)
  · rfl

theorem State.runCtr_ctr_same {s : State} {world level id : Nat} (hid : id < 4096) (hlevel : (s.ctr world id).level = level) :
    (s.runCtr world (level, id)).ctr world id =
      if (s.ctr world id).status == 1 then { s.ctr world id with status := 2 } else s.ctr world id := by
  obtain ⟨htarget, hcount, -, hcode, hlev⟩ := s.ctr_bounds world id
  unfold State.runCtr
  dsimp only
  rw [hlevel, beq_self_eq_true, Bool.and_true]
  split
  next hst =>
    obtain ⟨w, hw⟩ := State.world_of_ctr (s := s) (world := world) (id := id) (by rw [beq_iff_eq.1 hst]; decide)
    rw [← hlevel]
    exact ((putCtr_spec hw hid { s.ctr world id with status := 2 }).2.2 id).trans ((if_pos rfl).trans
      (ctrOf_bits_of htarget hcount (show 2 < 16 by decide) hcode hlev))
  · rfl

theorem State.runCtr_level (s : State) (world : Nat) (x : Nat × Nat) (n : Nat) :
    ((s.runCtr world x).ctr world n).level = (s.ctr world n).level := by
  by_cases hl : (s.ctr world n).level = x.1
  · by_cases hn : n = x.2
    · by_cases hid : x.2 < 4096
      · subst hn
        have := State.runCtr_ctr_same (s := s) (world := world) hid hl
        rw [show (x.1, x.2) = x from rfl] at this
        rw [this]
        split
        · rfl
        · rfl
      · unfold State.runCtr State.putCtr
        rw [if_neg hid, ite_self]
    · unfold State.runCtr
      split
      · rw [State.putCtr_ctr_ne hn]
      · rfl
  · rw [State.runCtr_ctr_of_level hl]

/-- Entries that run one after another. -/
theorem runCtrs_spec (world n : Nat) (xs : List (Nat × Nat)) (s : State) :
    let t := xs.foldl (fun s x => s.runCtr world x) s
    (t.ctr world n).level = (s.ctr world n).level ∧ t.ctrEnd world n = s.ctrEnd world n ∧
      ((∀ x ∈ xs, (s.ctr world n).level ≠ x.1) → t.ctr world n = s.ctr world n) := by
  induction xs generalizing s with
  | nil => exact ⟨rfl, rfl, fun _ => rfl⟩
  | cons x xs ih =>
    obtain ⟨hlevel, hend, hkept⟩ := ih (s.runCtr world x)
    refine ⟨hlevel.trans (State.runCtr_level ..), hend.trans (State.runCtr_ctrEnd ..), fun h => ?_⟩
    have hone := State.runCtr_ctr_of_level (h x List.mem_cons_self)
    exact (hkept (fun y hy => by rw [hone]; exact h y (List.mem_cons_of_mem _ hy))).trans hone

/-- An entry above a launch as it is when the launch has started, if it does. -/
def Launch.upCtr (l : Launch) (starts : Bool) (c : Ctr) : Ctr :=
  if starts && l.status == .waiting && c.status == 1 then { c with status := 2 } else c

theorem startLaunch_ctr {s : State} {l : Launch} (hreal : l.shadowOf = none) (n : Nat) :
    ((s.startLaunch l).ctr l.world n).level = (s.ctr l.world n).level ∧ (s.startLaunch l).ctrEnd l.world n = s.ctrEnd l.world n ∧
    (l.gctr < 4096 → (s.ctr l.world l.gctr).level = 2 → (s.startLaunch l).ctr l.world l.gctr = l.upCtr true (s.ctr l.world l.gctr)) := by
  have hreal' : (!l.real) = false := by
    unfold Launch.real
    rw [hreal]
    rfl
  unfold State.startLaunch
  split
  next hst =>
    have htal : Tallied s (s.modLaunch l.id (fun x => { x with
      status := .running, inherits := s.inherited l, begun := if x.attempt == 0 then s.clock else x.begun })) := .of_worlds rfl
    have hctr := htal.ctr l.world
    have hends := htal.ctrEnd l.world
    generalize s.modLaunch l.id (fun x => { x with
      status := .running, inherits := s.inherited l, begun := if x.attempt == 0 then s.clock else x.begun }) = u at hctr hends
    have hrun : u.runCtrs l = [(3, l.pctr), (4, l.jctr)].foldl (fun s x => s.runCtr l.world x)
        ((u.runCtr l.world (1, l.lctr)).runCtr l.world (2, l.gctr)) := by
      unfold State.runCtrs
      rw [hreal', if_neg Bool.false_ne_true]
      rfl
    obtain ⟨hlevel, hend, -⟩ := runCtrs_spec l.world n [(3, l.pctr), (4, l.jctr)] ((u.runCtr l.world (1, l.lctr)).runCtr l.world (2, l.gctr))
    rw [State.runCtr_level, State.runCtr_level, hctr] at hlevel
    rw [State.runCtr_ctrEnd, State.runCtr_ctrEnd, hends] at hend
    rw [hrun]
    refine ⟨hlevel, hend, fun hid hlev => ?_⟩
    -- the launch's own entry is of level 1, the next one is this, and those behind it are of other levels
    have hfirst : (u.runCtr l.world (1, l.lctr)).ctr l.world l.gctr = s.ctr l.world l.gctr :=
      (State.runCtr_ctr_of_level (show (u.ctr l.world l.gctr).level ≠ 1 by rw [hctr, hlev]; decide)).trans (hctr _)
    have hsecond := State.runCtr_ctr_same (s := u.runCtr l.world (1, l.lctr)) hid ((congrArg Ctr.level hfirst).trans hlev)
    have hlev₂ := ((State.runCtr_level (u.runCtr l.world (1, l.lctr)) l.world (2, l.gctr) l.gctr).trans (congrArg Ctr.level hfirst)).trans hlev
    obtain ⟨-, -, hrest⟩ := runCtrs_spec l.world l.gctr [(3, l.pctr), (4, l.jctr)] ((u.runCtr l.world (1, l.lctr)).runCtr l.world (2, l.gctr))
    refine (hrest (fun x hx => ?_)).trans (hsecond.trans ?_)
    · rw [hlev₂]
      simp only [List.mem_cons, List.not_mem_nil, or_false] at hx
      rcases hx with rfl | rfl <;> simp
    · unfold Launch.upCtr
      rw [hfirst, hst]
      rfl
  next hst =>
    refine ⟨rfl, rfl, fun _ _ => ?_⟩
    unfold Launch.upCtr
    rw [Bool.not_eq_true _ |>.mp hst]
    rfl

theorem startLaunch_settled {s : State} (h : Settled s) (l : Launch) : Settled (s.startLaunch l) := by
  have hreal : ∀ y ∈ (s.startLaunch l).launches, y.shadowOf = none := by
    unfold State.startLaunch
    split
    · obtain ⟨_, _, hr, -⟩ := (s.modLaunch l.id (fun x => { x with
        status := .running, inherits := s.inherited l, begun := if x.attempt == 0 then s.clock else x.begun })).runCtrs_counted l
      rw [hr]
      exact real_mapIf (f := fun x => { x with
        status := .running, inherits := s.inherited l, begun := if x.attempt == 0 then s.clock else x.begun }) (fun _ => rfl) h.real
    · exact h.real
  obtain ⟨launches, dies, worlds, iod, l1, ht, -⟩ := s.startLaunch_tidied l
  rw [ht] at hreal ⊢
  exact ⟨h.rerun, hreal, h.fired⟩

/-! What is left when a launch has ended. -/

/-- A launch has ended complete, and the entry above it has counted the end. -/
structure Ended (s t : State) (l : Launch) (starts : Bool) : Prop where
  memory : SameMemory s t
  entry : (t.ctr l.world l.lctr).status = 3 ∧ (t.ctr l.world l.lctr).code = 0
  launches : ∀ y ∈ t.launches, y.id = l.id → y.status = .ended
  versions : ∀ v ∈ s.versions, ∃ v' ∈ t.versions, v'.id = v.id ∧ v'.num = v.num ∧ v'.words = v.words ∧
    v'.state = if v.launch = l.id ∧ v.state = .openV then .testing else v.state
  above : l.gctr < 4096 → (l.upCtr starts (s.ctr l.world l.gctr)).status ≠ 0 → (l.upCtr starts (s.ctr l.world l.gctr)).level = 2 →
    (l.upCtr starts (s.ctr l.world l.gctr)).over = false → (l.upCtr starts (s.ctr l.world l.gctr)).count + 1 < 2 ^ 32 →
    s.ctrEnd l.world l.gctr = CtrEnd.new → t.ctr l.world l.gctr = (l.upCtr starts (s.ctr l.world l.gctr)).counting

theorem Launch.upCtr_level (l : Launch) (starts : Bool) (c : Ctr) : (l.upCtr starts c).level = c.level := by
  unfold Launch.upCtr
  split
  · rfl
  · rfl

/-- A launch with no gang ends when it starts. -/
theorem ended_of_none {s : State} {id : Nat} {l : Launch} (hl : s.launch? id = some l) (hs : Settled s) (hreal : l.shadowOf = none)
    (hkind : l.wkind ≠ 3) (hbad : l.bad = none) (hcounted : l.counted = false) (hlctr : l.lctr < 4096)
    (hlevel : (s.ctr l.world l.lctr).level = 1) : Ended s ((s.startLaunch l).finishLaunch id) l true ∧
    ((s.startLaunch l).finishLaunch id).gangs = s.gangs ∧ ((s.startLaunch l).finishLaunch id).threads = s.threads := by
  obtain rfl : l.id = id := beq_iff_eq.1 (List.find?_some (p := fun (x : Launch) => x.id == id) hl)
  obtain ⟨n, hlaunch, ⟨status, inherits, begun, rfl⟩, -⟩ := State.startLaunch_launch hl
  obtain ⟨hlev, -, -⟩ := startLaunch_ctr (s := s) hreal l.lctr
  obtain ⟨-, hend, hup⟩ := startLaunch_ctr (s := s) hreal l.gctr
  have hsettled := startLaunch_settled hs l
  obtain ⟨launches, dies, worlds, iod, l1, ht, hlines⟩ := s.startLaunch_tidied l
  have hfin := finishLaunch_spec hlaunch hsettled hreal hkind hbad hcounted hlctr (hlev.trans hlevel)
  generalize (s.startLaunch l).finishLaunch l.id = t at hfin
  obtain ⟨⟨hentry, habove⟩, hmem, hgangs, hthreads, hlaunches, hversions⟩ := hfin
  have hversions' : (s.startLaunch l).versions = s.versions := by rw [ht]
  have hmem' : SameMemory s (s.startLaunch l) := by
    rw [ht]
    exact sameMemory_of rfl hlines
  refine ⟨⟨hmem'.trans hmem, ⟨?_, ?_⟩, hlaunches, ?_, fun hg h₁ h₂ h₃ h₄ h₅ => ?_⟩, hgangs.trans ?_, hthreads.trans ?_⟩
  · exact congrArg Ctr.status hentry
  · exact congrArg Ctr.code hentry
  · rw [← hversions']
    exact hversions
  · have hkept := hup hg ((l.upCtr_level true _).symm.trans h₂)
    rw [← hkept] at h₁ h₂ h₃ h₄ ⊢
    exact habove hg h₁ h₂ h₃ h₄ (hend.trans h₅)
  · rw [ht]
  · rw [ht]

/-! A gang is counted. -/

theorem countedGang_ctr {s : State} {l : Launch} (cancelled : Bool) (hreal : l.shadowOf = none) (hlctr : l.lctr < 4096)
    (hlevel : (s.ctr l.world l.lctr).level = 1) (hcount : (s.ctr l.world l.lctr).count + 1 < 2 ^ 32) :
    (s.countedGang l cancelled).ctr l.world l.lctr = { s.ctr l.world l.lctr with count := (s.ctr l.world l.lctr).count + 1 } ∧
    (∀ n, n ≠ l.lctr → (s.countedGang l cancelled).ctr l.world n = s.ctr l.world n) ∧
    ∀ n, (s.countedGang l cancelled).ctrEnd l.world n = s.ctrEnd l.world n := by
  obtain ⟨htarget, -, hstatus, hcode, hlev⟩ := s.ctr_bounds l.world l.lctr
  have htal : Tallied s (s.modLaunch l.id (fun x => x.counting cancelled)) := .of_worlds rfl
  have hctr := htal.ctr l.world
  have hends := htal.ctrEnd l.world
  unfold State.countedGang
  dsimp only
  generalize s.modLaunch l.id (fun x => x.counting cancelled) = u at hctr hends
  have hgo : (l.real && (s.ctr l.world l.lctr).level == 1) = true := by
    unfold Launch.real
    rw [hreal, hlevel]
    rfl
  rw [hctr, if_pos hgo]
  refine ⟨?_, fun n hn => (State.putCtr_ctr_ne hn _).trans (hctr n), fun n => (State.putCtr_ctrEnd ..).trans (hends n)⟩
  cases hw : u.world? l.world with
  | some w => exact ((putCtr_spec hw hlctr _).2.2 _).trans ((if_pos rfl).trans (ctrOf_bits_of htarget hcount hstatus hcode hlev))
  | none =>
    rw [← hctr] at hlevel
    unfold State.ctr at hlevel
    rw [hw] at hlevel
    exact absurd hlevel (show (ctrOf 0).level ≠ 1 by decide)

/-- A launch ends with its last gang. -/
theorem ended_of_last {s : State} {gang : Nat} {x : Gang} {l : Launch} (hx : s.gang? gang = some x) (hl : s.launch? x.launch = some l)
    (hs : Settled s) (hreal : l.shadowOf = none) (hkind : l.wkind ≠ 3) (hbad : l.bad = none) (hst : l.status ≠ .ended)
    (hcounted : l.counted = false) (hlctr : l.lctr < 4096) (hlevel : (s.ctr l.world l.lctr).level = 1) (hcan : x.cancelled = false)
    (hlast : l.ended + 1 = l.gangs) (honly : ∀ y ∈ s.gangs, y.launch = l.id → y.id = gang)
    (hcount : (s.ctr l.world l.lctr).count + 1 < 2 ^ 32) : Ended s ((s.removeGang x).countGang x).stateWrites.progress l false ∧
    (((s.removeGang x).countGang x).stateWrites.progress.ctr l.world l.lctr).count = (s.ctr l.world l.lctr).count + 1 := by
  have hid : l.id = x.launch := beq_iff_eq.1 (List.find?_some (p := fun (y : Launch) => y.id == x.launch) hl)
  have hxid : x.id = gang := beq_iff_eq.1 (List.find?_some (p := fun (y : Gang) => y.id == gang) hx)
  -- the gang is gone
  have htal := s.removeGang_tallied x
  have hctr := htal.ctr l.world
  have hends := htal.ctrEnd l.world
  obtain ⟨⟨locks, dies, iod, worlds, threads, bins, flights, wgs, groups, stt, gangs, tiles, hu, hlines⟩, hgangs, -⟩ := removeGang_spec s x
  have hl' : (s.removeGang x).launch? x.launch = some l := by
    rw [hu]
    exact hl
  have hrerun : (s.removeGang x).checker.rerun = [] := by
    rw [hu]
    exact hs.rerun
  have hcg := countGang_eq hl' hst hrerun
  have hnone : (s.removeGang x).gangsOf l.id = [] := by
    unfold State.gangsOf
    rw [List.filter_eq_nil_iff.2 (fun y hy => ?_), List.map_nil]
    obtain ⟨hy', hne⟩ := (hgangs y).1 hy
    rw [beq_iff_eq]
    exact fun hc => hne ((honly y hy' hc).trans hxid.symm)
  have hsettled : Settled (s.removeGang x) := by
    rw [hu]
    exact ⟨hs.rerun, hs.real, hs.fired⟩
  have hmem : SameMemory s (s.removeGang x) := by
    rw [hu]
    exact sameMemory_of rfl hlines
  have hversions : (s.removeGang x).versions = s.versions := by rw [hu]
  generalize s.removeGang x = u at hctr hends hl' hrerun hcg hnone hsettled hmem hversions
  -- it is counted
  obtain ⟨hone, hother, hends'⟩ := countedGang_ctr (s := u) x.cancelled hreal hlctr (by rw [hctr]; exact hlevel) (by rw [hctr]; exact hcount)
  rw [hctr] at hone
  obtain ⟨worlds', iod', hv, hlines'⟩ := u.countedGang_only l x.cancelled
  have hlaunch : (u.countedGang l x.cancelled).launch? l.id = some (l.counting x.cancelled) := by
    rw [hv]
    refine (u.launch?_modLaunch l.id (fun y => y.counting x.cancelled) (fun _ => rfl)).trans ?_
    rw [hid, hl']
    rfl
  have hsettled' : Settled (u.countedGang l x.cancelled) := by
    rw [hv]
    exact ⟨hsettled.rerun, real_mapIf (f := fun y => y.counting x.cancelled) (fun _ => rfl) hsettled.real, hsettled.fired⟩
  have hmem' : SameMemory u (u.countedGang l x.cancelled) := by
    rw [hv]
    exact sameMemory_of rfl hlines'
  have hversions' : (u.countedGang l x.cancelled).versions = u.versions := by
    rw [hv]
    rfl
  have hnone' : (u.countedGang l x.cancelled).gangsOf l.id = [] := by
    rw [hv]
    exact hnone
  have hbad' : (l.counting x.cancelled).bad = none := by
    unfold Launch.counting
    rw [hbad, hcan]
    rfl
  generalize u.countedGang l x.cancelled = v at hcg hone hother hends' hlaunch hsettled' hmem' hversions' hnone'
  -- the launch is finished
  have htry : v.tryFinish l.id = v.finishLaunch l.id := by
    have hawaits : v.awaitsRerun l.id = false := by
      unfold State.awaitsRerun
      rw [hsettled'.rerun]
      rfl
    have hst' : ((l.counting x.cancelled).status == .ended) = false := beq_eq_false_iff_ne.2 hst
    have hall : ((l.counting x.cancelled).ended == (l.counting x.cancelled).gangs) = true := beq_iff_eq.2 hlast
    unfold State.tryFinish
    simp only [hlaunch, hawaits, hst', hnone', hall, List.isEmpty_nil, Bool.true_or, Bool.and_self, Bool.false_eq_true, if_false, if_true]
  have hfin := finishLaunch_spec hlaunch hsettled' hreal hkind hbad' hcounted hlctr ((congrArg Ctr.level hone).trans hlevel)
  rw [hcg, htry]
  generalize v.finishLaunch l.id = w at hfin
  obtain ⟨⟨hentry, habove⟩, hmem'', -, -, hlaunches, hversions''⟩ := hfin
  have hentry' : w.ctr l.world l.lctr = _ := hentry.trans (congrArg (fun c : Ctr => { c with status := 3, code := 0 }) hone)
  -- writes of `state` that waited change no counter
  obtain ⟨worlds'', groups'', ht, hworlds⟩ := (stateWrites_released w).trans (Released.progress _)
  have hctr' := fun n => State.ctr_of_ctrs (hworlds l.world) n
  generalize w.stateWrites.progress = t at ht hctr'
  refine ⟨⟨?_, ⟨?_, ?_⟩, ?_, ?_, fun hg h₁ h₂ h₃ h₄ h₅ => ?_⟩, ?_⟩
  · refine ((hmem.trans hmem').trans hmem'').trans ?_
    rw [ht]
    exact sameMemory_of rfl rfl
  · rw [hctr', hentry']
  · rw [hctr', hentry']
  · rw [ht]
    exact hlaunches
  · rw [ht, ← hversions, ← hversions']
    exact hversions''
  · have hne : l.gctr ≠ l.lctr := fun hc => by
      rw [l.upCtr_level, hc, hlevel] at h₂
      cases h₂
    have hkept : v.ctr l.world l.gctr = l.upCtr false (s.ctr l.world l.gctr) := (hother _ hne).trans (hctr _)
    rw [hctr', ← hkept]
    rw [← hkept] at h₁ h₂ h₃ h₄
    exact habove hg h₁ h₂ h₃ h₄ ((hends' _).trans ((hends _).trans h₅))
  · rw [hctr', hentry']

end Sys2Proof.Machine
end

section
/-! Packets are accepted, gangs placed, and workgroups, gangs and launches end. -/

namespace Sys2Proof.Machine

/-! The packet at a queue's head. -/

/-- Where the packet at a queue's head lies. -/
def Queue.headVa (q : Queue) : Nat := (q.qbase.toNat + 256 * (q.qhead.toNat % 2 ^ q.qsize.toNat)) % 2 ^ 56

/-- The packet as a launch. -/
def State.headLaunch (s : State) (world prio : Nat) (q : Queue) (b : List Byte) : Launch := packetLaunch s.nextId world prio q.headVa (wordsOf64 32 b)

/-- Its argument block and its member block. -/
def State.argBlock (s : State) (l : Launch) : Block := s.readBlock l.world l.argp (4 * l.argn)
def State.memberBlock (s : State) (l : Launch) : Block := if l.membp == 0 then .bytes [] else s.readBlock l.world l.membp 48

theorem State.memberBlock_eq (s : State) (l : Launch) : s.memberBlock l = if l.membp = 0 then .bytes [] else s.readBlock l.world l.membp 48 := by
  unfold State.memberBlock
  simp only [beq_iff_eq]

/-- A packet that has been read is rejected by the first check that it fails; one that fails none is accepted once its blocks are there. -/
def State.takeHead (s : State) (world prio : Nat) (q : Queue) (b : List Byte) : Out :=
  let l := s.headLaunch world prio q b
  let reject (code : Nat) : Out := .next ((s.rejectLaunch world l.lctr code q.headVa l.above).headDone world prio).progress
  match s.acceptCode world l (s.argBlock l != .denied && s.memberBlock l != .denied) with
  | some code => reject code
  | none =>
    match s.argBlock l, s.memberBlock l with
    | .absent k, _ => .fault (.absentDram k)
    | _, .absent k => .fault (.absentDram k)
    | .denied, _ => reject 0x48
    | _, .denied => reject 0x48
    | .wait p bits, _ => s.queueWait world prio p bits q
    | _, .wait p bits => s.queueWait world prio p bits q
    | .hold, _ => .refused .notEnabled
    | _, .hold => .refused .notEnabled
    | .bytes args, .bytes memb => .next ((s.accept l args memb).headDone world prio).progress

section
variable {s : State} {world prio : Nat} {w : World} {q : Queue} {b : List Byte} (hpow : s.powered = true) (hprio : prio < 8)
  (hlive : s.liveWorld world = true) (hw : s.world? world = some w) (hq : listGet Queue.new w.queues prio = q) (hsize : q.qsize ≠ 0)
  (hroom : q.qhead ≠ q.qtail) (hread : s.readBlock world q.headVa 256 = .bytes b)
include hpow hprio hlive hw hq hsize hroom hread

theorem launchAccept_head : exec (.launchAccept world prio) s = s.takeHead world prio q b := by
  subst hq
  have hgo : (!s.powered || decide (8 ≤ prio) || !s.liveWorld world || (listGet Queue.new w.queues prio).qsize == 0 ||
      (listGet Queue.new w.queues prio).qhead == (listGet Queue.new w.queues prio).qtail) = false := by
    rw [hpow, hlive, decide_eq_false (Nat.not_le.2 hprio), beq_eq_false_iff_ne.2 hsize, beq_eq_false_iff_ne.2 hroom]
    rfl
  unfold Queue.headVa at hread
  show execLaunchAccept world prio s = _
  unfold execLaunchAccept
  simp only [hw, hgo, hread, Bool.false_eq_true, if_false]
  rfl

theorem launchAccept_accepted {args memb : List Byte} (hcode : s.acceptCode world (s.headLaunch world prio q b) true = none)
    (ha : s.argBlock (s.headLaunch world prio q b) = .bytes args) (hm : s.memberBlock (s.headLaunch world prio q b) = .bytes memb) :
    exec (.launchAccept world prio) s = .next ((s.accept (s.headLaunch world prio q b) args memb).headDone world prio).progress := by
  rw [launchAccept_head hpow hprio hlive hw hq hsize hroom hread]
  unfold State.takeHead
  simp only [ha, hm]
  rw [show (Block.bytes args != .denied && Block.bytes memb != .denied) = true from rfl, hcode]

theorem launchAccept_rejected {code : Nat} (hcode : s.acceptCode world (s.headLaunch world prio q b)
      (decide (s.argBlock (s.headLaunch world prio q b) ≠ .denied ∧ s.memberBlock (s.headLaunch world prio q b) ≠ .denied)) = some code) :
    exec (.launchAccept world prio) s = .next ((s.rejectLaunch world (s.headLaunch world prio q b).lctr code q.headVa
      (s.headLaunch world prio q b).above).headDone world prio).progress := by
  have hblocks : (s.argBlock (s.headLaunch world prio q b) != .denied && s.memberBlock (s.headLaunch world prio q b) != .denied) =
      decide (s.argBlock (s.headLaunch world prio q b) ≠ .denied ∧ s.memberBlock (s.headLaunch world prio q b) ≠ .denied) := by
    rw [Bool.eq_iff_iff, Bool.and_eq_true, bne_iff_ne, bne_iff_ne, decide_eq_true_iff]
  rw [launchAccept_head hpow hprio hlive hw hq hsize hroom hread]
  unfold State.takeHead
  simp only [hblocks, hcode]

end

/-- What is left when a packet has been accepted. -/
theorem accept_leaves {s t : State} {world prio : Nat} {w : World} {b args memb : List Byte} (hw : s.world? world = some w)
    (hid : (s.headLaunch world prio (listGet Queue.new w.queues prio) b).lctr < 4096)
    (ht : (s.accept (s.headLaunch world prio (listGet Queue.new w.queues prio) b) args memb).headDone world prio = t) :
    let l := s.headLaunch world prio (listGet Queue.new w.queues prio) b
    SameMemory s t ∧ t.threads = s.threads ∧ ∃ n : Launch, t.launches = s.launches ++ [n] ∧ n.world = world ∧ n.prio = prio ∧ n.status = .waiting ∧
      n.attempt = 0 ∧ (∀ k, k ≠ 4 → k < 32 → n.word k = l.word k) ∧ n.memb = memb ∧
      ((t.ctr world l.lctr).status = 1 ∧ (t.ctr world l.lctr).count = 0 ∧ (t.ctr world l.lctr).level = 1) ∧
      ∃ w', t.world? world = some w' ∧ listGet Queue.new w'.queues prio = { listGet Queue.new w.queues prio with
        qhead := (listGet Queue.new w.queues prio).qhead + 1, order := (listGet Queue.new w.queues prio).order ++ [n.id], wait := none } := by
  subst ht
  exact accept_spec hw hid (wordsOf64_length 32 b)

/-! Workgroups and gangs. -/

/-- A workgroup is freed. -/
theorem workgroupEnd_leaves {s : State} {wg : Nat} {w : Workgroup} {x : Gang} (hw : s.wg? wg = some w) (hg : s.gang? w.gang = some x) :
    let t := (s.endWorkgroup w).progress
    SameMemory s t ∧ (∀ y, y ∈ t.wgs ↔ y ∈ s.wgs ∧ y.id ≠ wg) ∧ (∀ y ∈ t.groups, y.wg ≠ wg) ∧ (∀ y ∈ t.stt, y.wg ≠ wg) ∧
      t.gang? w.gang = some { x with unit := x.unit + 1 } := by
  have hid : w.id = wg := beq_iff_eq.1 (List.find?_some (p := fun (y : Workgroup) => y.id == wg) hw)
  obtain ⟨locks, dies, iod, worlds, threads, bins, flights, h, hlines⟩ := endWorkgroup_spec s w
  rw [h, hid]
  refine ⟨sameMemory_of rfl hlines, fun y => ?_, fun y hy => ?_, fun y hy => ?_, ?_⟩
  · show y ∈ s.wgs.filter (fun x => !(x.id == wg)) ↔ _
    rw [List.mem_filter, Bool.not_eq_true', beq_eq_false_iff_ne]
  · obtain ⟨g, hgm, rfl⟩ := List.mem_map.1 hy
    exact beq_eq_false_iff_ne.1 (by simpa using (List.mem_filter.1 hgm).2)
  · exact beq_eq_false_iff_ne.1 (by simpa using (List.mem_filter.1 hy).2)
  · exact ((s.gang?_modGang w.gang w.gang (fun g => { g with unit := g.unit + 1 }) (fun _ => rfl)).trans (if_pos rfl)).trans
      (congrArg (Option.map _) hg)

/-- A gang of a launch with more to come is gone, and its launch counts it. -/
theorem gangEnd_leaves {s : State} {gang : Nat} {x : Gang} {l : Launch} (hg : s.gang? gang = some x) (hl : s.launch? x.launch = some l)
    (hend : l.status ≠ .ended) (hcan : l.cancelled = false) (hr : s.checker.rerun = []) (hmore : l.ended + 1 ≠ l.gangs) :
    let t := ((s.removeGang x).countGang x).stateWrites.progress
    SameMemory s t ∧ (∀ y, y ∈ t.gangs ↔ y ∈ s.gangs ∧ y.id ≠ gang) ∧ (∀ y ∈ t.wgs, y.gang ≠ gang) ∧
      ∃ l', t.launch? x.launch = some l' ∧ l'.ended = l.ended + 1 ∧ l'.status = l.status := by
  have hid : x.id = gang := beq_iff_eq.1 (List.find?_some (p := fun (y : Gang) => y.id == gang) hg)
  obtain ⟨⟨locks, dies, iod, worlds, threads, bins, flights, wgs, groups, stt, gangs, tiles, hu, hlines⟩, hgangs, hwgs⟩ := removeGang_spec s x
  rw [hid] at hgangs hwgs
  have hl' : (s.removeGang x).launch? x.launch = some l := by
    rw [hu]
    exact hl
  have hr' : (s.removeGang x).checker.rerun = [] := by
    rw [hu]
    exact hr
  have hmem : SameMemory s (s.removeGang x) := by
    rw [hu]
    exact sameMemory_of rfl hlines
  obtain ⟨worlds', iod', launches, hv, hlines', hlaunch⟩ := countGang_more hl' hend hcan hr' hmore
  generalize s.removeGang x = u at hgangs hwgs hmem hv hlines' hlaunch
  generalize u.countGang x = v at hv hlaunch
  obtain ⟨worlds'', groups'', ht, -⟩ := (stateWrites_released v).trans (Released.progress _)
  dsimp only
  rw [ht]
  have hmem' : SameMemory s v := by
    rw [hv]
    exact hmem.trans (sameMemory_of rfl hlines')
  refine ⟨hmem'.trans (sameMemory_of rfl rfl), fun y => ?_, fun y hy => ?_, _, hlaunch, rfl, rfl⟩
  · show y ∈ v.gangs ↔ _
    rw [hv]
    exact hgangs y
  · have hy' : y ∈ v.wgs := hy
    rw [hv] at hy'
    exact hwgs y hy'

end Sys2Proof.Machine

namespace Sys2Proof
open Sys2Proof.Machine

/-- Settles O43: an event for each clause, by what acceptance, placement, pre-emption and the ends change and the counters they write. -/
theorem acceptancePlacementAndEnds : Obligations.AcceptancePlacementAndEnds := by
  unfold Obligations.AcceptancePlacementAndEnds
  refine ⟨⟨?accept, ?place, ?preempt, ?workgroup, ?gang, ?cancel⟩, ?last, ?none, ?all⟩
  case accept =>
    intro s world prio w b hpow hprio hlive hw q va l hsize hroom hread a m
    refine ⟨fun args memb hcode ha hm => ?_, fun code hcode => ?_⟩
    · have huse : s.lctrUsable world l.lctr = true := by
        unfold State.acceptCode at hcode
        by_contra hno
        rw [Bool.not_eq_true] at hno
        simp only [hno, Bool.not_false, Bool.or_true, Bool.true_or, if_true] at hcode
        split at hcode
        · cases hcode
        · cases hcode
      have hid : l.lctr < 4096 := by
        unfold State.lctrUsable at huse
        exact of_decide_eq_true (Bool.and_eq_true_iff.1 huse).1
      have hexec : exec (.launchAccept world prio) s = .next ((s.accept l args memb).headDone world prio).progress :=
        launchAccept_accepted hpow hprio hlive hw rfl hsize hroom hread hcode ha ((State.memberBlock_eq ..).trans hm)
      generalize ht : (s.accept l args memb).headDone world prio = t at hexec
      have hleft := accept_leaves hw hid ht
      exact ⟨t.progress, hexec, hleft⟩
    · have hcode' : s.acceptCode world (s.headLaunch world prio q b)
          (decide (s.argBlock (s.headLaunch world prio q b) ≠ .denied ∧ s.memberBlock (s.headLaunch world prio q b) ≠ .denied)) = some code := by
        rw [State.memberBlock_eq]
        exact hcode
      rw [launchAccept_rejected hpow hprio hlive hw rfl hsize hroom hread hcode']
      have hleft := reject_spec (prio := prio) hw (s.headLaunch world prio q b).lctr code q.headVa (s.headLaunch world prio q b).above
      exact ⟨_, rfl, hleft⟩
  case place =>
    intro s id die entry index l w hpow hl hw hhead hsaved hend hcan hg hcores hdeps hopen hdie hserved hnext
    obtain rfl : l.id = id := beq_iff_eq.1 (List.find?_some (p := fun (x : Launch) => x.id == id) hl)
    obtain ⟨t, ht⟩ := placeNext_of_served hserved hsaved
    have hlt : die < 8 := by
      unfold State.dieOpen at hdie
      simp only [Bool.and_eq_true, decide_eq_true_eq] at hdie
      exact hdie.1.1.1
    obtain ⟨g, ws, cluster, hjoin, ⟨hgl, hgw, hgi, -, hgc, hgs⟩, hgd, hlen, hall⟩ := placeNext_single hl hcores hnext hlt ht
    obtain ⟨hmem, hgangs, hwgs⟩ := (hjoin.of_tidied ((State.modDie_tidied t die (fun d => { d with served := l.world })).trans
      (State.afterPlacement_tidied _ l.id))).spec
    rw [gangPlacement_placed hpow hl hw hhead hsaved hend hcan hdeps hg hopen hdie hserved ht]
    refine ⟨_, rfl, hmem, g, hgangs, hgl, hgw, hgi, hgd, hgs, ws, hwgs, hlen, fun y hy => ?_⟩
    obtain ⟨h₁, h₂, h₃, h₄, h₅, h₆⟩ := hall y hy
    exact ⟨h₁, h₂, h₃, hgc ▸ h₄, h₅, h₆⟩
  case preempt =>
    intro s p id die l w hpow hl hw hwhy hp
    obtain rfl : l.id = id := beq_iff_eq.1 (List.find?_some (p := fun (x : Launch) => x.id == id) hl)
    have hexec : exec (.gangPlacement l.id die) s = .next p.progress := by
      rcases hwhy with ⟨hsaved, hhead, hend, hcan, hg, hdeps, hopen, hdie, hnone⟩ | ⟨hsaved, hkept⟩
      · rw [gangPlacement_preempts hpow hl hw hhead hsaved hend hcan hdeps hg hopen hdie hnone, hp]
        rfl
      · rw [gangPlacement_keptOut hpow hl hsaved hkept, hp]
        rfl
    obtain ⟨hmem, hrest⟩ := preemptFor_spec hl hp
    exact ⟨_, hexec, hmem.trans (sameMemory_of rfl rfl), hrest⟩
  case workgroup =>
    intro s wg w x hw hg hx hall htiles hspad
    exact ⟨_, workgroupEnd_next hw hg hx hall htiles hspad, workgroupEnd_leaves hw hg⟩
  case gang =>
    intro s gang x l hg hd hl hx hend hcan hr hmore
    exact ⟨_, gangEnd_next hg hd hx, gangEnd_leaves hg hl hend hcan hr hmore⟩
  case cancel =>
    intro s id l hl hreal hv hr
    refine ⟨_, driverCancel_next hl hreal, ?_⟩
    by_cases hend : l.status = .ended
    · rw [cancelLaunch_ended hl hr hend]
      exact ⟨sameMemory_of rfl rfl, fun _ _ hy => hy, fun hne => absurd hend hne⟩
    · obtain ⟨hmem, hrest⟩ := cancelLaunch_spec hl hreal hr hv hend
      exact ⟨hmem, fun hc => absurd hc hend, fun _ => hrest⟩
  case last =>
    intro s gang x l hg hd hl hx hcan ⟨hr, hreals, hfired, hkind, hbad, hcanl, hend, hcounted, hlctr, hlevel⟩ hlast honly hcount
    obtain ⟨⟨hmem, ⟨hst, hcode⟩, hlaunches, hversions, habove⟩, hcnt⟩ := ended_of_last hg hl ⟨hr, hreals, hfired⟩
      (hreals l (List.mem_of_find?_eq_some hl)) hkind hbad hend hcounted hlctr hlevel hcan hlast honly hcount
    exact ⟨_, gangEnd_next hg hd hx, ⟨hmem, hst, hcode, hlaunches, hversions, habove⟩, hcnt⟩
  case none =>
    intro s id die l w hpow hl hw hhead hsaved hdeps hopen hg ⟨hr, hreals, hfired, hkind, hbad, hcan, hend, hcounted, hlctr, hlevel⟩
    obtain ⟨⟨hmem, ⟨hst, hcode⟩, hlaunches, hversions, habove⟩, hgangs, hthreads⟩ := ended_of_none hl ⟨hr, hreals, hfired⟩
      (hreals l (List.mem_of_find?_eq_some hl)) hkind hbad hcounted hlctr hlevel
    exact ⟨_, gangPlacement_none hpow hl hw hhead hsaved hend hcan hdeps hg hopen,
      ⟨hmem, hst, hcode, hlaunches, hversions, habove⟩, hgangs, hthreads⟩
  case all =>
    intro s id die l w hpow hl hw hhead hsaved hend hcan hg hcores hdeps hopen hdie hserved
    obtain rfl : l.id = id := beq_iff_eq.1 (List.find?_some (p := fun (x : Launch) => x.id == id) hl)
    obtain ⟨t, ht⟩ := placeNext_of_served hserved hsaved
    obtain ⟨gs, ws, hjoin, hmap, hall⟩ := placeNext_all hl hcores ht
    obtain ⟨hmem, hgangs, -⟩ := (hjoin.of_tidied ((State.modDie_tidied t die (fun d => { d with served := l.world })).trans
      (State.afterPlacement_tidied _ l.id))).spec
    rw [gangPlacement_placed hpow hl hw hhead hsaved hend hcan hdeps hg hopen hdie hserved ht]
    exact ⟨_, rfl, hmem, gs, hgangs, hmap, hall⟩

end Sys2Proof
end
